-- ==== Sys2Proof/Word.lean ====
section
/-! DEFINITION. The words of the device: a 32-bit register word (R10), a byte of memory, and the plain
bit-field arithmetic over them. -/

namespace Sys2Proof

/-- A register word: registers are 32 bits wide and little-endian (R10). -/
abbrev Word := BitVec 32

/-- A byte of the vault, of DRAM or of host memory. -/
abbrev Byte := BitVec 8

end Sys2Proof
end

