-- ==== Sys2Proof/Syntax.lean ====
section
/-! DEFINITION. The commands of the device: one constructor of `Instr` for each row of spec/opcode_table.json,
with the operands that the row's rule names, and the records that some operands carry. -/

namespace Sys2Proof

/-- An initiator of register accesses: accounts A0 to A31 are 0 to 31, the Custodian is 32 (R279). -/
abbrev Actor := Fin 33

/-- An account A0 to A31 (R8). -/
abbrev Acct := Fin 32

/-- A register page of the BAR0 window (R51). -/
abbrev Page := Fin 4096

/-- An output OUT0 to OUT7 (R8). -/
abbrev Out := Fin 8

/-- A mint M0 to M1023 (R7). -/
abbrev MintId := Fin 1024

/-- The requester of a handshake: a mint that runs a cheque, or any other unit (R31, R43). -/
inductive HsReq where
  | mint (m : MintId)
  | other
  deriving DecidableEq, Repr

/-- What a partner reports at discovery (R199 to R202, R379). -/
structure SinkCaps where
  maxRate : Nat
  lanes : Nat
  vrr : Option (Nat × Nat)
  dsc : Bool
  lpcm48 : Bool
  lpcm96 : Bool
  deriving DecidableEq, Repr

/-- How a CSI-2 packet header arrived (R209). -/
inductive HdrCheck where
  | clean | corrected | bad
  deriving DecidableEq, Repr

/-- A token entry of a clearing-link frame (R214). -/
structure Token where
  tag : Nat
  outcome : Nat
  valid : Bool
  frame : Nat
  deriving DecidableEq, Repr

/-- A clearing-link frame body (R214): type, flags, cycle, frame, phase, faults, tokens. -/
structure ClFrame where
  sync : Bool
  device : Fin 4
  rejoin : Bool
  master : Bool
  cycle : Nat
  frame : Nat
  phase : Nat
  faults : Nat
  tokens : List Token
  deriving DecidableEq, Repr

/-- A character on the clearing link (R214): one of the three control characters, or a byte. -/
inductive ClChar where
  | k28_5 | k27_7 | k29_7
  | data (b : Byte)
  deriving DecidableEq, Repr

/-- An MR4 reading of a rank (R231). -/
inductive Mr4 where
  | standardOrLonger (code : Fin 32)
  | half (code : Fin 32)
  | shorter (code : Fin 32)
  | failed (code : Fin 32)
  deriving DecidableEq, Repr

/-- The initiator of a memory access, with its class (R295), the real-time port that it comes through, if any (R232), and whether it
is posted. -/
structure MemReq where
  actor : Actor
  cls : Fin 8
  port : Option (Fin 11)
  posted : Bool
  deriving DecidableEq, Repr

/-- A vault access: a read of `len` bytes or a write of bytes. -/
inductive MemOp where
  | read (len : Nat)
  | write (data : List Byte)
  deriving DecidableEq, Repr

/-- Who issued a firmware image (R298): Talnan for test, the customer's release, Talnan for analysis. -/
inductive ImageKind where
  | test | release | analysis
  deriving DecidableEq, Repr

/-- An image in a flash slot as the ROM finds it (R289): whether its header's fields are in range, the hash of the key that its
signature names, whether that signature is good over its digest, and its version. -/
structure Image where
  kind : ImageKind
  headerOk : Bool
  keyHash : BitVec 384
  signed : Bool
  version : BitVec 16
  deriving DecidableEq, Repr

/-- A signed lifecycle record in flash (R299): the state it names and which keys signed it. -/
structure LifeRecord where
  target : Fin 5
  planKey : Bool
  talnanKey : Bool
  deriving DecidableEq, Repr

/-- An entry of the binding plan (R291, R400, R407), in record order. A holder is an account, 32 for the trusted world with no
account, or none for the open reserve, unbound, or nobody. -/
inductive PlanEntry where
  | output (o : Out) (a : Option Actor)
  | protectedLayer (o : Out) (a : Option Actor) (units : Nat)
  | capture (c : Fin 2) (a : Option Actor)
  | touchBank (b : Fin 4) (a : Option Actor)
  | haptic (h : Fin 8) (a : Option Actor)
  | chime (a : Option Actor)
  | checkUnit (k : Fin 16) (a : Option Actor)
  | page (p : Page) (a : Option Actor)
  | pin (inst : Fin 20) (a : Option Actor) (option : BitVec 16)
  | worldRegion (vault : Bool) (base size : Nat) (trusted : Bool)
  | trustedGrant (a : Acct) (kind : Nat) (words : List Word)
  | faultClass (p : Page) (source : Fin 16) (cls : Fin 8)
  | faultAction (cls : Fin 4) (mask : BitVec 6)
  | register (p : Page) (off : BitVec 12) (value : Word)
  | strictSlot (entry : Fin 64) (owner : Fin 64)
  | early (o : Out) (regs : List (Nat × Word)) (pl : List (Nat × Word)) (fallback : Word) (image : List Byte)
  deriving DecidableEq, Repr

/-- The binding plan (R291): trusted-world accounts, isolation mode, and the entries in record order. -/
structure Plan where
  trusted : BitVec 32
  strict : Bool
  injectPerm : Bool
  entries : List PlanEntry
  deriving DecidableEq, Repr

/-- What the Custodian meets at boot: the two image slots, whether its OTP holds an uncorrectable word, the lifecycle record and, where power
fails while fuses are blown, how many had been (R300), the plan and the measurements of R404. -/
structure BootInput where
  slot0 : Option Image
  slot1 : Option Image
  otpBad : Bool
  cut : Option Nat
  record : Option LifeRecord
  plan : Option Plan
  crystalOk : Bool
  refclk : Bool × Bool
  temps : List Int
  rails : List Nat
  pubkey : List Word
  deriving DecidableEq, Repr

/-- The strap samples of R397: each strap's 16 samples. -/
structure StrapSamples where
  compat : BitVec 16
  bootSrc0 : BitVec 16
  bootSrc1 : BitVec 16
  test : BitVec 16
  deriving DecidableEq, Repr

/-- An input sample of the audio unit: TDM or PDM, port or line, slot or channel, and the left-justified sample. -/
structure AudioIn where
  pdm : Bool
  port : Nat
  slot : Nat
  sample : Word
  deriving DecidableEq, Repr

/-- The commands: every row of spec/opcode_table.json. -/
inductive Instr where
  -- register pages (R20, R54 to R64, R319, R326)
  | registerWrite (who : Actor) (addr : BitVec 24) (value : Word) (be : BitVec 4)
  | pageEnable (who : Actor) (p : Page) (on : Bool)
  | sleepReq (who : Actor) (p : Page) (on : Bool)
  | blockReset (who : Actor) (p : Page)
  | pageLock (who : Actor) (p : Page)
  | evtPendingClear (who : Actor) (p : Page) (bits recur : Word)
  | faultClear (who : Actor) (p : Page) (bits recur : BitVec 16)
  | fltInjectArm (who : Actor) (p : Page) (source : Fin 16) (counted : Bool) (count : BitVec 16)
  | tallyLatch (p : Page)
  -- sequencer, adaptive voltage, canaries, handshakes (R31 to R49)
  | clrWorst (who : Actor)
  | wakeRequest (p : Page) (cls : Fin 3) (deadline : Nat)
  | seqStepIssue
  | seqStepComplete
  | avsRecompute
  | avsFallStep
  | avsReadback (valid : Bool) (vcore vsram : Byte)
  | avsShortfall
  | canaryGuardBreach (b : Fin 32) (canary : Fin 2) (margin : BitVec 6)
  | canaryRecover (b : Fin 32) (m0 m1 : BitVec 6)
  | hsParity (x : Fin 4) (req : HsReq)
  | hsTimeout (x : Fin 4) (req : HsReq)
  -- scan-out and composition
  | lineStart (o : Out)
  | frameBoundary (o : Out)
  | bandStart (o : Out)
  | racingCellRead (o : Out)
  | fetchBlock (b : Fin 32) (e : Fin 2)
  | cellPublish (m : MintId)
  | keeperPixel (o : Out)
  | latencyToleranceEval (o : Out)
  | outputEnable (who : Actor) (o : Out)
  | generatorStart (o : Out)
  | outputDisable (who : Actor) (o : Out)
  | outputStop (o : Out)
  | pairLock (who : Actor) (o : Out) (on : Bool)
  | vrrEnable (who : Actor) (o : Out)
  | rmaxWrite (who : Actor) (o : Out) (rate : Byte)
  | refEdge (o : Out) (src : Fin 5)
  | refTimeout (o : Out) (src : Fin 5)
  -- commit and table banks
  | commit (who : Actor) (a : Acct)
  | syndicateCommit (who : Actor) (a : Acct)
  | heldCommitTake (a : Acct)
  | rebuildDone (a : Acct)
  | memberLate (a : Acct) (o : Out)
  | syndicateDecide (a : Acct)
  | tableReadySet (who : Actor) (p : Page) (bits : Byte)
  | lutLoad (who : Actor) (o : Out) (table : Fin 3) (vault : Bool)
  | lutLoadDone (o : Out)
  -- mints
  | chequePull (m : MintId)
  | routineLoad (m : MintId)
  | iadd (m : MintId)
  | isub (m : MintId)
  | imul (m : MintId)
  | iand (m : MintId)
  | ior (m : MintId)
  | shl (m : MintId)
  | shr (m : MintId)
  | fadd (m : MintId)
  | fsub (m : MintId)
  | fmul (m : MintId)
  | fma (m : MintId)
  | fmin (m : MintId)
  | fmax (m : MintId)
  | fsat (m : MintId)
  | frcp (m : MintId)
  | fbld (m : MintId)
  | bld (m : MintId)
  | hfma (m : MintId)
  | cvtif (m : MintId)
  | cvtfi (m : MintId)
  | cvthf (m : MintId)
  | cvtfh (m : MintId)
  | unpk8 (m : MintId)
  | pack8 (m : MintId)
  | fcmp (m : MintId)
  | icmp (m : MintId)
  | sel (m : MintId)
  | lut (m : MintId)
  | lutf (m : MintId)
  | mov (m : MintId)
  | sadd (m : MintId)
  | smul (m : MintId)
  | lane (m : MintId)
  | get (m : MintId)
  | getc (m : MintId)
  | put (m : MintId)
  | putc (m : MintId)
  | next (m : MintId)
  | nexto (m : MintId)
  | smovi (m : MintId)
  | saddi (m : MintId)
  | movh (m : MintId)
  | setvl (m : MintId)
  | ldv (m : MintId)
  | stv (m : MintId)
  | lds (m : MintId)
  | sts (m : MintId)
  | br (m : MintId)
  | brn (m : MintId)
  | loop (m : MintId)
  | settle (m : MintId)
  | mintStuck (m : MintId)
  | mintRetire (who : Actor) (m : MintId)
  | mintUnretire (who : Actor) (m : MintId)
  | pressClearDone (p : Fin 128)
  -- output links
  | hpdIrq (o : Out) (lowNs : Nat) (lockLost capsChanged : Bool)
  | hpdUnplug (o : Out) (lowNs : Nat)
  | partnerArrive (o : Out)
  | discoveryDone (o : Out) (caps : SinkCaps) (record : List Byte)
  | cableMeasureDone (o : Out) (length : Option Nat)
  | trainingDone (o : Out) (ok : Bool)
  | retrain (who : Actor) (o : Out)
  | portEnable (who : Actor) (o : Out)
  | portDisable (who : Actor) (o : Out)
  -- capture ports
  | capEnable (who : Actor) (c : Fin 2)
  | capFrameStart (c : Fin 2)
  | capLine (c : Fin 2) (vc dt : Nat) (hdr : HdrCheck) (crcOk : Bool) (payload : List Byte)
  | capFrameEnd (c : Fin 2)
  | capMirrorDone (c : Fin 2)
  -- clearing link; a received frame's characters are those of its start (sof) and those after them (R214)
  | clFrameSend
  | clFrameReceive (sender : Fin 4) (startNs endNs : Int) (sof rest : List ClChar)
  | syncLost
  | clPresenceTimeout (d : Fin 4)
  -- DRAM and vault
  | memInit (who : Actor)
  | memTrainDone (failed : BitVec 16) (capacity : BitVec 16)
  | mr4Poll (ch : Fin 16) (rank : Fin 2) (code : Mr4)
  | refreshDue (ch : Fin 16) (rank : Fin 2)
  | refreshRepay (ch : Fin 16) (rank : Fin 2)
  | dramRead (req : MemReq) (pa : Nat) (len : Nat)
  | dramWrite (req : MemReq) (pa : Nat) (data : List Byte)
  | powerDownEntry (ch : Fin 16) (rank : Fin 2)
  | selfRefreshEntry
  | selfRefreshExit
  | deepSleepEntry
  | deepSleepExit
  | dramExitDone
  | strictRound (ch : Fin 16)
  | strictWindow (ch : Fin 16)
  | vaultAccess (req : MemReq) (off : Nat) (op : MemOp)
  | vaultScrub
  -- requests to the Custodian
  | create (who : Acct)
  | grant (who : Acct)
  | release (who : Acct)
  | activate (who : Acct)
  | quiesce (who : Acct)
  | quiesceComplete (a : Acct)
  | reset (who : Acct)
  | resetComplete (a : Acct)
  | destroy (who : Acct)
  | delegate (who : Acct)
  | regionList (who : Acct)
  | regionPerm (who : Acct)
  -- host functions
  | flr (a : Acct)
  | vfEnableClear (port : Fin 2)
  | portReset (port : Fin 2)
  | functionD3 (a : Acct) (cold : Bool)
  | functionD0 (a : Acct)
  | pbDoorbell (who : Actor) (a : Acct)
  | pbRing (who : Actor) (tenant : BitVec 6)
  -- queues and copy engines
  | queueEnable (who : Actor) (a : Acct) (q : Fin 256)
  | queueDisable (who : Actor) (a : Acct) (q : Fin 256)
  | queueDoorbell (who : Actor) (a : Acct) (q : Fin 256) (index : Word)
  | queueIntTimer (a : Acct) (q : Fin 256)
  | copy (e : Fin 16)
  | fill (e : Fin 16)
  | signal (e : Fin 16)
  | nop (e : Fin 16)
  | chunkDone (e : Fin 16)
  | ceTurn (e : Fin 16)
  -- night safes
  | nsSend (who : Actor) (dest : Fin 2)
  | nsTake (who : Actor)
  | nsClrDropped (who : Actor)
  -- Custodian and ledger
  | custodianBoot (input : BootInput)
  | lockstep
  | managerRelease
  | sealWrite
  | exportEnable (who : Actor)
  | exportEntry
  | exportHead (who : Actor) (head : Word)
  -- faults and safe state
  | faultScan
  | scanLate
  | safeReqAssert (lowNs : Nat)
  | safeReqRelease (highNs : Nat)
  | safeForce (who : Actor) (on : Bool)
  | fltOutToggle
  | fltOutPeriodWrite (who : Actor) (halfPeriod : BitVec 10)
  | heartbeat (who : Actor) (seq : BitVec 16)
  -- touch
  | touchScan (b : Fin 4)
  | touchSlot (b : Fin 4) (counts : List Nat) (noise : Nat × Nat)
  | touchHoldExpiry (b : Fin 4) (c : Fin 32)
  | touchRecalEnd (b : Fin 4) (c : Fin 32)
  | groupStandstill (b : Fin 4) (g : Fin 8)
  | touchBankEnable (who : Actor) (b : Fin 4)
  | calLoadDone (b : Fin 4)
  -- haptics
  | hapticEnable (who : Actor) (h : Fin 8)
  | coilCheckDone (h : Fin 8) (milliohm : Nat)
  | pwmPeriod (h : Fin 8) (currentMa : Nat) (emf : Option Int)
  | hapticPlay (a : Acct) (q : Fin 256)
  | hapticStop (a : Acct) (q : Fin 256)
  | effectLoad (h : Fin 8)
  | hapTrip (h : Fin 8)
  | hapTripClear (who : Actor) (h : Fin 8) (highNs : Nat)
  | accelSample (h : Fin 8) (sample : BitVec 16)
  | accelTimeout (h : Fin 8)
  -- audio
  | audioSample (ins : List AudioIn)
  | gainZcTimeout (row : Fin 96) (col : Fin 64)
  | bridgeLock (b : Fin 48)
  | fsTimeout (port : Fin 8)
  | tdmFs (port : Fin 8)
  | chimeHoldExpire
  | rowEnable (who : Actor) (r : Fin 96)
  | columnEnable (who : Actor) (c : Fin 64)
  -- the 4410 personality
  | legLayerWrite (who : Actor) (a : Acct) (off : BitVec 16) (value : Word)
  | legIntRead (a : Acct) (arriving : Word)
  | legErrRead (a : Acct)
  | legErrClear (a : Acct)
  -- start-up, supplies, sensing
  | porstRelease (straps : StrapSamples)
  | coldReset (lowNs : Nat)
  | glbReset (who : Actor) (key : Byte) (cold : Bool)
  | brownOut
  | railSample (r : Fin 9) (mv : BitVec 13)
  | tempSample (i : Fin 32) (quarterC : Int)
  | thermalRelease
  | vbatLow
  | alarmFire (k : Fin 2)
  | alarmClear (who : Actor) (bits firing : BitVec 2)
  | timeBaseRead (who : Actor)
  | pcieLinkUp (port : Fin 2) (speed : Fin 8) (width : Fin 64)
  | phyError (c : Fin 2)
  | aPhyLinkDown (o : Out)
  deriving DecidableEq, Repr

end Sys2Proof
end

