-- ==== Sys2Proof/Config.lean ====
section
/-! DEFINITION. What the spec leaves to the device or leaves open: constants of one device and free values. Every one
is opaque: no statement can see its value, so what is proved holds for every value (log entries name each). -/

namespace Sys2Proof.Config

/-- TALNAN_VID, the PCI vendor ID that the spec names and does not give (R3). -/
opaque vendorId : BitVec 16

/-- The two words of the 64-bit unique ID, per device (R306, LDG_UID). -/
opaque uid : Nat → Word

/-- The words of LDG_PUBKEY before the Custodian's boot, per boot (R306). -/
opaque ledgerKey : Nat → Word

/-- The factory reference count of bank `b` at frequency `f`, held in OTP (R343). -/
opaque refFactory : Nat → Nat → BitVec 16

/-- The bytes of the signed firmware's routine library, by offset in its area (R142, R247). -/
opaque libraryByte : Nat → Byte

/-- What a byte of the vault outside the library reads as before anything has written it (R245 gives no contents). -/
opaque vaultPowerOn : Nat → Byte

/-- What a byte of DRAM reads as before anything has written it (the spec gives no contents). -/
opaque dramPowerOn : Nat → Byte

/-- A byte of host memory behind an account's function, at an address, for the `n`-th read of it (R275). -/
opaque hostByte : Nat → Nat → Nat → Byte

/-- The sign and payload bits of a NaN that an operation delivers (R126 gives none). -/
opaque nanBits : Word

/-- FMIN and FMAX of operands of which one is NaN (R130 gives no result). -/
opaque minNan : Word → Word → Word
opaque maxNan : Word → Word → Word

/-- CVTFI of a NaN (R130 gives no result). -/
opaque cvtNan : Word

/-- FRCP delivers one of the two neighbours of an inexact reciprocal (R130: within 1 ulp): the one above, or below. -/
opaque frcpUp : Word → Bool

/-- LUTF of an argument, two entries and the log2 of the table's size, where the interpolation is inexact or the
argument lies outside 0 to 1 (R130 gives no rounding). -/
opaque lutf : Word → Word → Word → Nat → Word

/-- BLD delivers one of the two neighbours of an inexact blend (R134 gives no rounding): above, or below. -/
opaque bldUp : Word → Word → Word → Nat → Bool

/-- A curve or conversion of R113 delivers one of the two FP32 neighbours of an inexact component (the spec gives no rounding): above,
or below, by the step, the colour and the component. -/
opaque curveUp : Nat → List Word → Nat → Bool

/-- The exchange in which each temperature sensor lies (R36, R405 give no map), modulo 4. -/
opaque sensorExchange : Nat → Nat

/-- A coefficient of the built-in legacy 4-tap set (R110), which the spec does not list: direction (vertical), phase, tap. -/
opaque legacyCoef : Bool → Nat → Nat → BitVec 10

/-- How a binary16 component enters a scaler as a 16-bit fraction (R110 gives no conversion). -/
opaque halfFraction : BitVec 16 → BitVec 16

/-- Whether an inexact component of the YUV to RGB conversion is rounded up (R75 gives no rounding). -/
opaque yuvUp : Nat → Nat → Nat → Nat → Bool

/-- Accesses of a strict window at a data rate code and a window length in ns (MEM_STRICT_WIN gives no formula). -/
opaque windowAccesses : Nat → Nat → BitVec 16

/-- The pixel clock trim in ppm that the genlock loop chooses, from the phase error (10 ns), the period and the last trim
(R193 gives bounds and no law). -/
opaque refTrim : Int → Nat → Int → BitVec 12

/-- Whether the next 64 KiB unit of a retained frame is taken at the `n`-th cell written (R188 leaves the ratio open). -/
opaque retainGrow : Nat → Bool

/-- A byte of a line's chunk of a DSC slice, by its index, from the target in 1/16 bit per pixel, the component depth, the slice's width
and the components of its pixels up to that line's end (R198 names the encoding of VESA DSC 1.2a and does not give it). -/
opaque dscByte : Nat → Nat → Nat → List Nat → Nat → Byte

/-- The same byte of the `n`-th chunk encoded after a DSC_PARITY error in its slice (R206: corrupted). -/
opaque dscSpoilt : Nat → Nat → Byte

/-- A tetrahedral interpolation of a 3D LUT whose exact value is no 16-bit fraction is rounded up (R117 gives no
rounding): from the three inputs and the component. -/
opaque lut3dUp : Nat → Nat → Nat → Nat → Bool

/-- An inexact matrix result of the colour pipeline is rounded up (R117 gives no rounding). -/
opaque matrixUp : Int → Bool

/-- A component read from a LUT or coefficient entry that failed its parity, at the `n`-th such read (R123). -/
opaque parityPixel : Nat → Nat → BitVec 16

/-- The unused byte that a capture port stores with the `i`-th pixel of the `n`-th line (R207: alpha ignored). -/
opaque captureX : Nat → Nat → Byte

/-- The 64-byte blocks of a copy job's chunk that have moved when the command that starts it ends, at its `n`-th such use (R277 gives no
time). -/
opaque chunkBlocks : Nat → BitVec 17

/-- The old value of a grant's ledger entry (R304: "resource and account"), from the request's type and its words 2 to 12. -/
opaque resourceWord : Nat → List Word → Word

/-- The sequence byte of the `n`-th message that the Custodian sends (R279 gives its senders no numbering). -/
opaque custodianSeq : Nat → BitVec 8

/-- Whether the `n`-th access to host memory behind an account's function, at an address, ends in an error (R276). -/
opaque hostFails : Nat → Nat → Nat → Bool

/-- An inexact value of the haptic unit is rounded up: numerator and denominator (R351 to R359 give no arithmetic). -/
opaque hapUp : Int → Nat → Bool

/-- The `n`-th correction of a drive frequency towards resonance (R351 bounds it and gives no law). -/
opaque hapStep : Nat → BitVec 16


/-- An inexact value of the touch unit is rounded up: numerator and denominator (R338 to R341 give no rounding). -/
opaque touchUp : Int → Nat → Bool

/-- The position of a touched group whose members' deltas are all 0, at the `n`-th such scan (R344 divides by 0). -/
opaque touchPos : Nat → BitVec 16

/-- The 24-bit linear factor of a node's gain code, as a fraction of 2^22 (R370 gives the gain in dB, R372 no format). -/
opaque gainFactor : Nat → BitVec 24

/-- An inexact value of the audio unit is rounded up: numerator and denominator (R372 to R374 give no rounding). -/
opaque audioUp : Int → Nat → Bool

/-- What a section keeps of a result that does not fit 32 bits (R373 does not say). -/
opaque eqWide : Int → BitVec 32

/-- The `n`-th sample that an asynchronous sample-rate converter delivers (R367, R368 give no filter). -/
opaque bridged : Nat → BitVec 32

/-- The `n`-th sample of a row that names a channel which its queue's entry does not hold (R380). -/
opaque absentChannel : Nat → BitVec 32

/-- Word 0 to 23 of the signature (r, then s) of the `n`-th seal (R306: ECDSA P-384 over the span's digest, with a key derived
from the OTP secret). -/
opaque sealWord : Nat → Nat → Word

/-- The `n`-th estimate of the VCORE current in units of 10 mA (R405: from press activity and the read-back, by a rule that the
spec does not give). -/
opaque currentEstimate : Nat → BitVec 16

/-- The bucket depth of the bandwidth that the COMPAT defaults grant (R383 names the rate alone), in KiB. -/
opaque compatDepth : BitVec 12

end Sys2Proof.Config
end

