-- ==== Sys2Proof/Machine/Table.lean ====
section
/-! DEFINITION. Tables: sparse data by key, a list of key and value pairs in one canonical form (keys strictly
rising, no entry equal to what an unlisted key reads as), with a read, a write and the form as a decidable predicate. -/

namespace Sys2Proof.Machine

/-- The value at key `k`: the listed one, else the default `d k`. -/
def Tbl.get {α : Type} (d : Nat → α) : List (Nat × α) → Nat → α
  | [], k => d k
  | (j, v) :: t, k => if k = j then v else if k < j then d k else Tbl.get d t k

/-- The table with `v` at key `k`; an entry equal to the default is removed. -/
def Tbl.set {α : Type} [DecidableEq α] (d : Nat → α) (t : List (Nat × α)) (k : Nat) (v : α) : List (Nat × α) :=
  match t with
  | [] => if v = d k then [] else [(k, v)]
  | (j, w) :: t =>
    if k < j then (if v = d k then (j, w) :: t else (k, v) :: (j, w) :: t)
    else if k = j then (if v = d k then t else (k, v) :: t)
    else (j, w) :: Tbl.set d t k v

/-- Every key of the table is above `lo` (keys strictly rising), and no entry equals the default. -/
def Tbl.wfFrom {α : Type} [DecidableEq α] (d : Nat → α) : Option Nat → List (Nat × α) → Bool
  | _, [] => true
  | lo, (j, v) :: t => (match lo with | none => true | some l => decide (l < j)) && decide (v ≠ d j) && Tbl.wfFrom d (some j) t

/-- The canonical form of a table. -/
def Tbl.wf {α : Type} [DecidableEq α] (d : Nat → α) (t : List (Nat × α)) : Bool := Tbl.wfFrom d none t

/-- Every entry whose key satisfies `f` returns to the default. -/
def Tbl.drop {α : Type} (f : Nat → Bool) (t : List (Nat × α)) : List (Nat × α) := t.filter fun e => !f e.1

/-- Bit `i` of a natural number. -/
def bit (n i : Nat) : Bool := n.testBit i

/-- `n` with bit `i` set or cleared. -/
def setBit (n i : Nat) (b : Bool) : Nat := if n.testBit i = b then n else if b then n + 2 ^ i else n - 2 ^ i

/-- 1 for true, 0 for false. -/
def b2n (b : Bool) : Nat := if b then 1 else 0

/-- The number of bits set below bit `n` of `w`. -/
def popcount (w : Nat) : Nat → Nat
  | 0 => 0
  | n + 1 => popcount w n + b2n (w.testBit n)

/-- The bits set in `w` below bit `n`, in rising order. -/
def bitsOf (w n : Nat) : List Nat := (List.range n).filter fun i => w.testBit i

/-- A two's complement value of `n` bits as an integer. -/
def signed (n v : Nat) : Int := if v % 2 ^ n < 2 ^ (n - 1) then (v % 2 ^ n : Nat) else (v % 2 ^ n : Nat) - (2 ^ n : Nat)

/-- An integer as a two's complement value of `n` bits. -/
def unsigned (n : Nat) (i : Int) : Nat := (i % (2 ^ n : Nat)).toNat

/-- Division rounding up. -/
def cdiv (a b : Nat) : Nat := (a + b - 1) / b

/-- `v` limited to the interval from `lo` to `hi`. -/
def clamp (lo hi v : Int) : Int := if v < lo then lo else if hi < v then hi else v

/-- The bytes of `v`, `n` of them, least significant first (R10). -/
def leBytes : Nat → Nat → List Byte
  | 0, _ => []
  | n + 1, v => BitVec.ofNat 8 v :: leBytes n (v / 256)

/-- The value of bytes, least significant first. -/
def ofLeBytes : List Byte → Nat
  | [] => 0
  | b :: t => b.toNat + 256 * ofLeBytes t

end Sys2Proof.Machine
end

