-- ==== Sys2Proof/Machine/Float.lean ====
section
/-! DEFINITION. IEEE 754 arithmetic of the mints (R126): binary32 and binary16 by exact integers, one rounding to
nearest even, subnormal inputs and results flushed to zero. -/

namespace Sys2Proof.Machine

/-- A binary format: precision (with the hidden bit) and exponent bits. -/
structure Fmt where
  prec : Nat
  ebits : Nat
  deriving DecidableEq, Repr

def f32 : Fmt := ⟨24, 8⟩
def f16 : Fmt := ⟨11, 5⟩

def Fmt.bias (f : Fmt) : Nat := 2 ^ (f.ebits - 1) - 1
def Fmt.emax (f : Fmt) : Nat := 2 ^ f.ebits - 1

/-- A value: NaN, an infinity, or ± num / den × 2^exp. -/
inductive FV where
  | nan
  | inf (neg : Bool)
  | fin (neg : Bool) (num den : Nat) (exp : Int)
  deriving DecidableEq, Repr

/-- The value of a bit pattern; subnormals read as zero. -/
def Fmt.decode (f : Fmt) (w : Nat) : FV :=
  let frac := w % 2 ^ (f.prec - 1)
  let ex := w / 2 ^ (f.prec - 1) % 2 ^ f.ebits
  let neg := w.testBit (f.prec - 1 + f.ebits)
  if ex = f.emax then (if frac = 0 then .inf neg else .nan)
  else if ex = 0 then .fin neg 0 1 0
  else .fin neg (2 ^ (f.prec - 1) + frac) 1 ((ex : Int) - f.bias - (f.prec - 1 : Nat))

/-- How an inexact value is rounded. -/
inductive RMode where
  | even | up | down
  deriving DecidableEq, Repr

/-- `num / den` scaled by 2^k, its integer part and whether it is inexact, and the comparison of the rest with a half. -/
def scaleDiv (num den : Nat) (k : Int) : Nat × Ordering × Bool :=
  let n := if 0 ≤ k then num * 2 ^ k.toNat else num
  let d := if 0 ≤ k then den else den * 2 ^ (-k).toNat
  (n / d, compare (2 * (n % d)) d, n % d != 0)

/-- The shift that gives `num / den` a quotient of `p` bits. -/
def quotShift (p num den : Nat) : Int :=
  let k : Int := (p : Int) - 1 - ((Nat.log2 num : Int) - (Nat.log2 den : Int))
  if (scaleDiv num den k).1 < 2 ^ (p - 1) then k + 1 else k

/-- The bit pattern of ± num / den × 2^exp, rounded. -/
def Fmt.encode (f : Fmt) (mode : RMode) (neg : Bool) (num den : Nat) (exp : Int) : Nat :=
  let sgn := b2n neg * 2 ^ (f.prec - 1 + f.ebits)
  if num = 0 then sgn
  else
    let k := quotShift f.prec num den
    let (q, half, inexact) := scaleDiv num den k
    let up : Bool := match mode with
      | .even => half == .gt || (half == .eq && q % 2 == 1)
      | .up => inexact
      | .down => false
    let q := if up then q + 1 else q
    let (q, k) := if q = 2 ^ f.prec then (2 ^ (f.prec - 1), k - 1) else (q, k)
    let e : Int := exp - k + (f.prec - 1 : Nat) + f.bias
    if e ≤ 0 then sgn
    else if (f.emax : Int) ≤ e then sgn + f.emax * 2 ^ (f.prec - 1)
    else sgn + e.toNat * 2 ^ (f.prec - 1) + (q - 2 ^ (f.prec - 1))

/-- Whether a value is exactly a number of the format's precision. -/
def FV.exact (f : Fmt) : FV → Bool
  | .fin _ n d _ => n == 0 || !(scaleDiv n d (quotShift f.prec n d)).2.2
  | _ => true

/-- A quiet NaN of a format. -/
def Fmt.qnan (f : Fmt) : Nat :=
  f.emax * 2 ^ (f.prec - 1) + 2 ^ (f.prec - 2) + Config.nanBits.toNat % 2 ^ (f.prec - 2)
    + b2n (Config.nanBits.getLsbD 31) * 2 ^ (f.prec - 1 + f.ebits)

/-- The bit pattern of a value. -/
def Fmt.ofFV (f : Fmt) (mode : RMode) : FV → Nat
  | .nan => f.qnan
  | .inf neg => b2n neg * 2 ^ (f.prec - 1 + f.ebits) + f.emax * 2 ^ (f.prec - 1)
  | .fin neg n d e => f.encode mode neg n d e

def FV.neg : FV → FV
  | .nan => .nan
  | .inf s => .inf !s
  | .fin s n d e => .fin (!s) n d e

/-- The exact sum. -/
def FV.add : FV → FV → FV
  | .nan, _ => .nan
  | _, .nan => .nan
  | .inf s, .inf t => if s = t then .inf s else .nan
  | .inf s, .fin .. => .inf s
  | .fin .., .inf t => .inf t
  | .fin s n d e, .fin t m c g =>
    let lo := if e ≤ g then e else g
    let a : Int := (n * c * 2 ^ (e - lo).toNat : Nat)
    let b : Int := (m * d * 2 ^ (g - lo).toNat : Nat)
    let v := (if s then -a else a) + (if t then -b else b)
    if v = 0 then .fin (if n = 0 ∧ m = 0 then s && t else false) 0 1 0
    else .fin (decide (v < 0)) v.natAbs (d * c) lo

/-- The exact product. -/
def FV.mul : FV → FV → FV
  | .nan, _ => .nan
  | _, .nan => .nan
  | .inf s, .inf t => .inf (s != t)
  | .inf s, .fin t n _ _ => if n = 0 then .nan else .inf (s != t)
  | .fin s n _ _, .inf t => if n = 0 then .nan else .inf (s != t)
  | .fin s n d e, .fin t m c g => .fin (s != t) (n * m) (d * c) (e + g)

def FV.one : FV := .fin false 1 1 0

/-- The order of two values, none where one is NaN. -/
def FV.cmp (x y : FV) : Option Ordering :=
  match x, y with
  | .nan, _ => none
  | _, .nan => none
  | .inf s, .inf t => some (if s = t then .eq else if s then .lt else .gt)
  | .inf s, _ => some (if s then .lt else .gt)
  | _, .inf t => some (if t then .gt else .lt)
  | x, y => match FV.add x y.neg with
    | .fin neg n _ _ => some (if n = 0 then .eq else if neg then .lt else .gt)
    | _ => none

/-- FP32 words as values, and back. -/
def fv (w : Word) : FV := f32.decode w.toNat
def w32 (v : FV) : Word := BitVec.ofNat 32 (f32.ofFV .even v)

/-- The FP32 operations of R130. -/
def fadd (a b : Word) : Word := w32 ((fv a).add (fv b))
def fsub (a b : Word) : Word := w32 ((fv a).add (fv b).neg)
def fmul (a b : Word) : Word := w32 ((fv a).mul (fv b))
def fma (a b c : Word) : Word := w32 (((fv a).mul (fv b)).add (fv c))
/-- FMIN and FMAX. DESIGN CHOICE (log 117): of a zero of each sign, which R130 does not rank, the result is operand a. -/
def fmin (a b : Word) : Word :=
  match (fv a).cmp (fv b) with | none => Config.minNan a b | some .gt => w32 (fv b) | some _ => w32 (fv a)
def fmax (a b : Word) : Word :=
  match (fv a).cmp (fv b) with | none => Config.maxNan a b | some .lt => w32 (fv b) | some _ => w32 (fv a)

/-- FSAT as a value: limited to 0 to 1, NaN giving 0. -/
def fsatV (a : Word) : FV :=
  match fv a with
  | .nan => .fin false 0 1 0
  | .inf s => if s then .fin false 0 1 0 else FV.one
  | .fin s n d e =>
    if s ∨ n = 0 then .fin false 0 1 0
    else if (FV.fin s n d e).cmp FV.one = some .gt then FV.one else .fin s n d e
def fsat (a : Word) : Word := w32 (fsatV a)

/-- FRCP: 1 / a within 1 ulp; the reciprocal of a zero is an infinity, of an infinity a zero. -/
def frcp (a : Word) : Word :=
  match fv a with
  | .nan => w32 .nan
  | .inf s => w32 (.fin s 0 1 0)
  | .fin s n d e =>
    if n = 0 then w32 (.inf s)
    else
      let v : FV := .fin s d n (-e)
      BitVec.ofNat 32 (f32.ofFV (if Config.frcpUp a then .up else .down) v)

/-- FBLD: a × c + d × (1 − b × c), rounded once. -/
def fbld (a b c d : Word) : Word :=
  w32 (((fv a).mul (fv c)).add ((fv d).mul (FV.one.add ((fv b).mul (fv c)).neg)))

/-- Round half up of a non-negative value times `k`, as a natural number. -/
def FV.scaled (v : FV) (k : Nat) : Nat :=
  match v with
  | .fin false n d e =>
    let n := n * k
    if 0 ≤ e then (2 * n * 2 ^ e.toNat + d) / (2 * d) else (2 * n + d * 2 ^ (-e).toNat) / (2 * d * 2 ^ (-e).toNat)
  | _ => 0

/-- CVTIF and CVTFI. -/
def cvtif (a : Word) : Word :=
  let i := signed 32 a.toNat
  w32 (.fin (decide (i < 0)) i.natAbs 1 0)
def cvtfi (a : Word) : Word :=
  match fv a with
  | .nan => Config.cvtNan
  | .inf s => if s then 0x80000000 else 0x7FFFFFFF
  | .fin s n d e =>
    let (q, half, _) := scaleDiv n d e
    let q := if half == .gt || (half == .eq && q % 2 == 1) then q + 1 else q
    if s then (if 2 ^ 31 ≤ q then 0x80000000 else BitVec.ofInt 32 (-(q : Int)))
    else if 2 ^ 31 ≤ q then 0x7FFFFFFF else BitVec.ofNat 32 q

/-- FP16 halves. -/
def half (w : Word) (hi : Bool) : Nat := (if hi then w.toNat / 65536 else w.toNat) % 65536
def cvthf (a : Word) (hi : Bool) : Word := w32 (f16.decode (half a hi))
def toHalf (a : Word) : Nat := f16.ofFV .even (fv a)

/-- A binary16 component as FP32, exactly, its subnormals too (R133). -/
def halfExact (h : Nat) : Word :=
  if h / 1024 % 32 = 0 then w32 (.fin (h.testBit 15) (h % 1024) 1 (-24)) else w32 (f16.decode h)

/-- The binary16 number nearest to an FP32 word, ties to even, subnormal results too (R135). -/
def halfNearest (a : Word) : Nat :=
  match fv a with
  | .fin neg n d e =>
    let (q, h, _) := scaleDiv n d (e + 24)
    if q < 1024 then b2n neg * 2 ^ 15 + q + b2n (h == .gt || (h == .eq && q % 2 == 1)) else f16.encode .even neg n d e
  | v => f16.ofFV .even v

def hfma1 (a b c : Nat) : Nat := f16.ofFV .even (((f16.decode a).mul (f16.decode b)).add (f16.decode c))
def hfma (a b c : Word) : Word :=
  BitVec.ofNat 32 (hfma1 (half a false) (half b false) (half c false) + 65536 * hfma1 (half a true) (half b true) (half c true))

/-- An integer over a whole as FP32 (UNPK8, GETC). -/
def ratio (n d : Nat) : Word := w32 (.fin false n d 0)

/-- The entry of a LUTF table of 2^b intervals at or below `a`, none where `a` lies outside 0 to 1. -/
def lutIndex (a : Word) (b : Nat) : Option Nat :=
  match fv a with
  | .fin neg n d e =>
    if neg ∧ n ≠ 0 then none
    else if (FV.fin neg n d e).cmp FV.one = some .gt then none
    else some (scaleDiv n d (e + b)).1
  | _ => none

/-- LUTF's interpolation of `a` between entries `x` and `y` of a table of 2^b + 1: exact, or a free value. -/
def lutfAt (a x y : Word) (b : Nat) : Word :=
  match fv a, lutIndex a b with
  | .fin neg n d e, some k =>
    let v := (fv x).add (((FV.fin neg n d (e + b)).add (.fin true k 1 0)).mul ((fv y).add (fv x).neg))
    if v.exact f32 then w32 v else Config.lutf a x y b
  | _, _ => Config.lutf a x y b

/-- BLD's blend of component `x`, alpha `al`, plane alpha `pa` / 255 into `d` (R134), exact or one of the neighbours. -/
def bldAt (mode : Nat) (x al d : Word) (pa : Nat) : Word :=
  let pA : FV := .fin false pa 255 0
  let v := if mode = 0 then ((fv x).mul pA).add ((fv d).mul (FV.one.add pA.neg))
    else
      let rest := (fv d).mul (FV.one.add ((fv al).mul pA).neg)
      if mode = 1 then ((fv x).mul pA).add rest else (((fv x).mul (fv al)).mul pA).add rest
  BitVec.ofNat 32 (f32.ofFV (if v.exact f32 then .even else if Config.bldUp x al d pa then .up else .down) v)

end Sys2Proof.Machine
end

