-- ==== Sys2Proof/Machine/Curves.lean ====
section
/-! DEFINITION. The transfer functions and primaries of R113, on FP32 words: IEC 61966-2-1, BT.1886, PQ and HLG, each evaluated to
72 bits and delivered as one of the two FP32 numbers beside an inexact value (log 29). -/

namespace Sys2Proof.Machine

/-! Powers, in binary fractions of 96 places. -/

/-- Σ term × z2^i / (k + 2i), the first `n` terms: the series of the inverse hyperbolic tangent. -/
def artanhSum (z2 : Nat) : Nat → Nat → Nat → Nat
  | 0, _, _ => 0
  | n + 1, term, k => term / k + artanhSum z2 n (term * z2 / 2 ^ 96) (k + 2)

/-- The natural logarithm of m / 2^96, 1 to 2. -/
def lnUnit (m : Nat) : Nat :=
  let z := (m - 2 ^ 96) * 2 ^ 96 / (m + 2 ^ 96)
  2 * artanhSum (z * z / 2 ^ 96) 32 z 1

/-- The natural logarithm of 2. -/
def lnTwo : Nat := lnUnit (2 ^ 97)

/-- The natural logarithm of the positive number n / d × 2^e. -/
def lnOf (n d : Nat) (e : Int) : Int :=
  let k := quotShift 97 n d
  (lnUnit (scaleDiv n d k).1 : Int) + (96 - k + e) * lnTwo

/-- Σ r^i / i!, from the term `i` - 1 on. -/
def expSum (r : Nat) : Nat → Nat → Nat → Nat
  | 0, term, _ => term
  | n + 1, term, i => term + expSum r n (term * r / 2 ^ 96 / i) (i + 1)

/-- e to the power t / 2^96, rounded to 72 places of its leading power of two. -/
def expOf (t : Int) : FV :=
  let j := t / (lnTwo : Int)
  let m := expSum (t - j * lnTwo).toNat 28 (2 ^ 96) 1
  .fin false ((m + 2 ^ 23) / 2 ^ 24) 1 (j - 72)

/-- A non-negative value to the power p / q; 0 stays 0. -/
def FV.pow (v : FV) (p : Int) (q : Nat) : FV :=
  match v with
  | .fin false n d e => if n = 0 then .fin false 0 1 0 else expOf (lnOf n d e * p / q)
  | .fin true _ _ _ => .fin false 0 1 0
  | v => v

/-- A quotient of finite values. -/
def FV.div (x y : FV) : FV :=
  match x, y with
  | .fin s n d e, .fin t m c g => if m = 0 then (if n = 0 then .nan else .inf (s != t)) else .fin (s != t) (n * c) (d * m) (e - g)
  | _, _ => .nan

def FV.sub (x y : FV) : FV := x.add y.neg
def FV.rat (n d : Nat) : FV := .fin false n d 0

/-- A finite value in units of 2^-96. -/
def FV.fix : FV → Int
  | .fin s n d e => let q : Int := ((scaleDiv n d (e + 96)).1 : Nat); if s then -q else q
  | _ => 0

def FV.atMost (x y : FV) : Bool := match x.cmp y with | some .gt => false | _ => true

/-! The curves on one component. -/

/-- IEC 61966-2-1, decoded and encoded. -/
def srgbDec (v : FV) : FV :=
  if v.atMost (.rat 4045 100000) then v.mul (.rat 100 1292) else ((v.add (.rat 55 1000)).mul (.rat 1000 1055)).pow 12 5
def srgbEnc (v : FV) : FV :=
  if v.atMost (.rat 31308 10000000) then v.mul (.rat 1292 100) else ((v.pow 5 12).mul (.rat 1055 1000)).sub (.rat 55 1000)

/-- BT.1886 with a black level of 0. -/
def gammaDec (v : FV) : FV := v.pow 12 5
def gammaEnc (v : FV) : FV := v.pow 5 12

/-- PQ (SMPTE ST 2084), 1.0 standing for 10,000 cd/m². -/
def pqDec (v : FV) : FV :=
  let x := v.pow 32 2523
  let n := x.sub (.rat 3424 4096)
  ((if n.atMost (.rat 0 1) then FV.rat 0 1 else n).div ((FV.rat 2413 128).sub ((FV.rat 2392 128).mul x))).pow 16384 2610
def pqEnc (v : FV) : FV :=
  let x := v.pow 2610 16384
  (((FV.rat 3424 4096).add ((FV.rat 2413 128).mul x)).div (FV.one.add ((FV.rat 2392 128).mul x))).pow 2523 32

/-- The HLG inverse OETF and OETF (BT.2100). -/
def hlgA : FV := .rat 17883277 100000000
def hlgB : FV := .rat 28466892 100000000
def hlgC : FV := .rat 55991073 100000000
def hlgScene (v : FV) : FV :=
  if v.atMost (.rat 1 2) then (v.mul v).mul (.rat 1 3) else ((expOf ((v.sub hlgC).div hlgA).fix).add hlgB).mul (.rat 1 12)
def hlgCode (v : FV) : FV :=
  if v.atMost (.rat 1 12) then (v.mul (.rat 3 1)).pow 1 2
  else match (v.mul (.rat 12 1)).sub hlgB with
    | .fin false n d e => if n = 0 then hlgC else (hlgA.mul (let t := lnOf n d e; .fin (decide (t < 0)) t.natAbs 1 (-96))).add hlgC
    | _ => hlgC

/-! The curves and primaries on a colour. -/

/-- The luminance of a colour by the BT.2020 coefficients. -/
def luminance (v : List FV) : FV :=
  (((v.getD 0 .nan).mul (.rat 2627 10000)).add ((v.getD 1 .nan).mul (.rat 6780 10000))).add ((v.getD 2 .nan).mul (.rat 593 10000))

/-- A colour decoded to display light (R113, step 1) from a curve: 0 sRGB, 1 BT.1886, 2 PQ, 3 HLG with the OOTF of gamma 1.2; other
codes are linear. -/
def lightOf (curve : Nat) (v : List FV) : List FV :=
  match curve with
  | 0 => v.map srgbDec
  | 1 => v.map gammaDec
  | 2 => v.map pqDec
  | 3 => let e := v.map hlgScene; let y := luminance e; e.map (·.mul (y.pow 1 5))
  | _ => v

/-- Display light encoded with a curve (R113, step 5), the inverse of `lightOf`. -/
def codeOf (curve : Nat) (v : List FV) : List FV :=
  match curve with
  | 0 => v.map srgbEnc
  | 1 => v.map gammaEnc
  | 2 => v.map pqEnc
  | 3 => let y := luminance v; v.map fun d => hlgCode (d.mul (y.pow (-1) 6))
  | _ => v

/-- The rows of the conversion to BT.2020 (`dst` 1) or BT.709 (0) primaries from the other, over their denominator: from the
chromaticities of the two standards and D65. -/
def primRows (dst : Nat) : List (List Int) × Nat :=
  if dst = 1 then
    ([[9396168041896453638840, 4931430585612527315930, 648668021103634048930],
      [1034819430125226421830, 13771282150820660494385, 170165067666728087485],
      [245482559348685406272, 1318110767395770031264, 13412673321868159566164]], 14976266648612615003700)
  else
    ([[21716347432897377967, -7685328688677986150, -952750084333426540],
      [-1628904567509645594, 14816369219370479656, -109195991974868785],
      [-237380559537464672, -1315397849663989856, 14631047069087419805]], 13078268659885965277)

/-- A colour on the other primaries (R113, step 2). -/
def primOf (dst : Nat) (v : List FV) : List FV :=
  let (rows, den) := primRows dst
  rows.map fun r => (r.zip v).foldl (fun t e => t.add (e.2.mul (.fin (decide (e.1 < 0)) e.1.natAbs den 0))) (.rat 0 1)

/-- The FP32 words of a colour's values, an inexact one delivered as the number above or below it; `step` and the colour `from_` they
come from name the choice. -/
def deliver (step : Nat) (from_ : List Word) (v : List FV) : List Word :=
  v.zipIdx.map fun e =>
    BitVec.ofNat 32 (f32.ofFV (if e.1.exact f32 then .even else if Config.curveUp step from_ e.2 then .up else .down) e.1)

def decodeLight (curve : Nat) (v : List Word) : List Word := if 3 < curve then v else deliver curve v (lightOf curve (v.map fv))
def encodeLight (curve : Nat) (v : List Word) : List Word := deliver (4 + curve) v (codeOf curve (v.map fv))
def toPrimaries (src dst : Nat) (v : List Word) : List Word := if src = dst then v else deliver (8 + dst) v (primOf dst (v.map fv))

/-- The decode of a stream's descriptor on an FP32 component (R132, R133): 1 sRGB, 2 BT.1886. -/
def decodeTf (code : Nat) (x : Word) : Word := if code = 0 then x else (decodeLight (code - 1) [x]).headD x

end Sys2Proof.Machine
end

