-- ==== Sys2Proof/Machine/Crc.lean ====
section
/-! DEFINITION. The cyclic redundancy checks: CRC-32C as the ledger, the clearing link and table loads use it, and the
engine of the check-value units (R329). -/

namespace Sys2Proof.Machine

/-- One bit of the reflected CRC-32C. -/
def crc32cBit (c : Nat) : Nat := if c % 2 = 1 then (c / 2) ^^^ 0x82F63B78 else c / 2

/-- One byte of the reflected CRC-32C. -/
def crc32cByte (c : Nat) (b : Byte) : Nat :=
  crc32cBit (crc32cBit (crc32cBit (crc32cBit (crc32cBit (crc32cBit (crc32cBit (crc32cBit (c ^^^ b.toNat))))))))

/-- CRC-32C of bytes (reflected, seed and final inversion all ones). -/
def crc32c (bs : List Byte) : Nat := bs.foldl crc32cByte 0xFFFFFFFF ^^^ 0xFFFFFFFF

/-- The polynomial and width of CHK_CTRL.poly (R329). -/
def chkPoly (code : Nat) : Nat × Nat :=
  if code = 0 then (0x04C11DB7, 32) else if code = 1 then (0x1EDC6F41, 32) else if code = 2 then (0x1021, 16) else (0x1D, 8)

/-- One bit into the engine of R329, most significant first. -/
def chkBit (poly width run : Nat) (b : Bool) : Nat :=
  let top := run.testBit (width - 1) != b
  let r := (run * 2) % 2 ^ width
  if top then r ^^^ poly else r

/-- One byte into the engine of R329. -/
def chkByte (code run byte : Nat) : Nat :=
  let (poly, width) := chkPoly code
  [7, 6, 5, 4, 3, 2, 1, 0].foldl (fun r i => chkBit poly width r (byte.testBit i)) (run % 2 ^ width)

/-- Bytes into the engine of R329, in order. -/
def chkBytes (code run : Nat) (bs : List Nat) : Nat := bs.foldl (chkByte code) run

/-- The seed: all ones at the width of the polynomial (R329). -/
def chkSeed (code : Nat) : Nat := 2 ^ (chkPoly code).2 - 1

end Sys2Proof.Machine
end

