-- ==== Sys2Proof/Machine/RegMap.lean ====
section
/-! DEFINITION. The register map: one constant for each register and field of the spec's register tables
(name, offset, bits), and one row for each register with its reset value, the access type of each field (R11)
and the range of each field (R62). -/

namespace Sys2Proof.Machine

/-- The access types of R11. -/
inductive Access where
  | rw | ro | w1c | w1s | wo | rwe | rwi | rwl | rc
  deriving DecidableEq, Repr

/-- The range of a field (R62): every value, an interval, a signed interval, or an enumeration. -/
inductive Rng where
  | any
  | nat (lo hi : Nat)
  | int (lo hi : Int)
  | oneOf (vs : List Nat)
  deriving DecidableEq, Repr

/-- A field of a register: byte offset in its page, stride between instances of the register, and its bits. -/
structure Fld where
  off : Nat
  stride : Nat
  hi : Nat
  lo : Nat
  deriving DecidableEq, Repr

/-- One field of a row of the map. -/
structure FieldRow where
  fld : Fld
  acc : Access
  rng : Rng
  deriving DecidableEq, Repr

/-- One register of the map: `count` instances from `reg.off` on, `reg.stride` bytes apart, its reset value, its fields. -/
structure RegRow where
  reg : Fld
  count : Nat
  reset : Nat
  fields : List FieldRow
  deriving DecidableEq, Repr

/-- `GLB_SEQ_BUDGET` (RWL, 02_clockless_fabric.md, after R49): current-slew budget. -/
def GLB_SEQ_BUDGET : Fld := ⟨0x080, 0x004, 31, 0⟩
def GLB_SEQ_BUDGET_step_limit : Fld := ⟨0x080, 0x004, 7, 0⟩
def GLB_SEQ_BUDGET_window_us : Fld := ⟨0x080, 0x004, 15, 8⟩
/-- `GLB_SEQ_STATUS` (RO, 02_clockless_fabric.md, after R49): queue depth and current step. -/
def GLB_SEQ_STATUS : Fld := ⟨0x084, 0x004, 31, 0⟩
def GLB_SEQ_STATUS_queued : Fld := ⟨0x084, 0x004, 7, 0⟩
def GLB_SEQ_STATUS_step_unit : Fld := ⟨0x084, 0x004, 15, 8⟩
def GLB_SEQ_STATUS_deadline_wait : Fld := ⟨0x084, 0x004, 16, 16⟩
def GLB_SEQ_STATUS_clr_worst : Fld := ⟨0x084, 0x004, 31, 31⟩
/-- `GLB_SEQ_WAKE_WORST` (RO, 02_clockless_fabric.md, after R49): longest press wake, µs; cleared by GLB_SEQ_STATUS write of 1 to clr_worst. -/
def GLB_SEQ_WAKE_WORST : Fld := ⟨0x088, 0x004, 31, 0⟩
/-- `GLB_AVS_CTRL` (RWL, 02_clockless_fabric.md, after R49): controller enable and fall delay. -/
def GLB_AVS_CTRL : Fld := ⟨0x090, 0x004, 31, 0⟩
def GLB_AVS_CTRL_enable : Fld := ⟨0x090, 0x004, 0, 0⟩
def GLB_AVS_CTRL_fall_ms : Fld := ⟨0x090, 0x004, 15, 8⟩
/-- `GLB_AVS_LIMITS` (RWL, 02_clockless_fabric.md, after R49): request range. -/
def GLB_AVS_LIMITS : Fld := ⟨0x094, 0x004, 31, 0⟩
def GLB_AVS_LIMITS_min_code : Fld := ⟨0x094, 0x004, 7, 0⟩
def GLB_AVS_LIMITS_max_code : Fld := ⟨0x094, 0x004, 15, 8⟩
/-- `GLB_AVS_STATUS` (RO, 02_clockless_fabric.md, after R49): request, read-back, shortfall. -/
def GLB_AVS_STATUS : Fld := ⟨0x098, 0x004, 31, 0⟩
def GLB_AVS_STATUS_request_code : Fld := ⟨0x098, 0x004, 7, 0⟩
def GLB_AVS_STATUS_readback_code : Fld := ⟨0x098, 0x004, 15, 8⟩
def GLB_AVS_STATUS_shortfall : Fld := ⟨0x098, 0x004, 16, 16⟩
def GLB_AVS_STATUS_vsram_code : Fld := ⟨0x098, 0x004, 31, 24⟩

/-- `MNT_X_CANARY_CTRL` (RWL, 02_clockless_fabric.md, after R49): guard and recovery. -/
def MNT_X_CANARY_CTRL : Fld := ⟨0x080, 0x004, 31, 0⟩
def MNT_X_CANARY_CTRL_guard : Fld := ⟨0x080, 0x004, 5, 0⟩
def MNT_X_CANARY_CTRL_recover_ms : Fld := ⟨0x080, 0x004, 15, 6⟩
/-- `MNT_X_CANARY_MARGIN` (RO, 02_clockless_fabric.md, after R49): worst margin. -/
def MNT_X_CANARY_MARGIN : Fld := ⟨0x084, 0x004, 31, 0⟩
def MNT_X_CANARY_MARGIN_margin : Fld := ⟨0x084, 0x004, 5, 0⟩
def MNT_X_CANARY_MARGIN_canary : Fld := ⟨0x084, 0x004, 11, 8⟩
/-- `MNT_X_SLOWSAFE` (RO, 02_clockless_fabric.md, after R49): branches on long setting. -/
def MNT_X_SLOWSAFE : Fld := ⟨0x088, 0x004, 31, 0⟩
def MNT_X_SLOWSAFE_branch : Fld := ⟨0x088, 0x004, 7, 0⟩

/-- `LAY_CTRL` (RWE, 04_layers.md, after R87): enable, racing, opacity, effect, source kind. -/
def LAY_CTRL : Fld := ⟨0x080, 0x004, 31, 0⟩
def LAY_CTRL_enable : Fld := ⟨0x080, 0x004, 0, 0⟩
def LAY_CTRL_racing : Fld := ⟨0x080, 0x004, 1, 1⟩
def LAY_CTRL_opaque : Fld := ⟨0x080, 0x004, 2, 2⟩
def LAY_CTRL_opq_rect_en : Fld := ⟨0x080, 0x004, 3, 3⟩
def LAY_CTRL_effect_en : Fld := ⟨0x080, 0x004, 4, 4⟩
def LAY_CTRL_src_kind : Fld := ⟨0x080, 0x004, 6, 5⟩
def LAY_CTRL_cap_port : Fld := ⟨0x080, 0x004, 8, 8⟩
/-- `LAY_PLACE` (RWE, 04_layers.md, after R87): outputs and z. -/
def LAY_PLACE : Fld := ⟨0x084, 0x004, 31, 0⟩
def LAY_PLACE_outputs : Fld := ⟨0x084, 0x004, 7, 0⟩
def LAY_PLACE_z : Fld := ⟨0x084, 0x004, 12, 8⟩
/-- `LAY_POS` (RWE, 04_layers.md, after R87): signed destination position. -/
def LAY_POS : Fld := ⟨0x088, 0x004, 31, 0⟩
def LAY_POS_x : Fld := ⟨0x088, 0x004, 15, 0⟩
def LAY_POS_y : Fld := ⟨0x088, 0x004, 31, 16⟩
/-- `LAY_SRC_XY` (RWE, 04_layers.md, after R87): source rectangle origin. -/
def LAY_SRC_XY : Fld := ⟨0x08C, 0x004, 31, 0⟩
def LAY_SRC_XY_x : Fld := ⟨0x08C, 0x004, 13, 0⟩
def LAY_SRC_XY_y : Fld := ⟨0x08C, 0x004, 29, 16⟩
/-- `LAY_SRC_WH` (RWE, 04_layers.md, after R87): source rectangle size. -/
def LAY_SRC_WH : Fld := ⟨0x090, 0x004, 31, 0⟩
def LAY_SRC_WH_w_m1 : Fld := ⟨0x090, 0x004, 12, 0⟩
def LAY_SRC_WH_h_m1 : Fld := ⟨0x090, 0x004, 28, 16⟩
/-- `LAY_DST_WH` (RWE, 04_layers.md, after R87): destination size. -/
def LAY_DST_WH : Fld := ⟨0x094, 0x004, 31, 0⟩
def LAY_DST_WH_w_m1 : Fld := ⟨0x094, 0x004, 13, 0⟩
def LAY_DST_WH_h_m1 : Fld := ⟨0x094, 0x004, 28, 16⟩
/-- `LAY_FMT` (RWE, 04_layers.md, after R87): format, ILT, colour space, transfer, range. -/
def LAY_FMT : Fld := ⟨0x098, 0x004, 31, 0⟩
def LAY_FMT_format : Fld := ⟨0x098, 0x004, 4, 0⟩
def LAY_FMT_ilt : Fld := ⟨0x098, 0x004, 5, 5⟩
def LAY_FMT_cs : Fld := ⟨0x098, 0x004, 9, 8⟩
def LAY_FMT_tf : Fld := ⟨0x098, 0x004, 13, 12⟩
def LAY_FMT_yuv_range : Fld := ⟨0x098, 0x004, 16, 16⟩
/-- `LAY_BLEND` (RWE, 04_layers.md, after R87): blend mode and plane alpha. -/
def LAY_BLEND : Fld := ⟨0x09C, 0x004, 31, 0⟩
def LAY_BLEND_plane_alpha : Fld := ⟨0x09C, 0x004, 7, 0⟩
def LAY_BLEND_mode : Fld := ⟨0x09C, 0x004, 9, 8⟩
/-- `LAY_OPQ_XY` (RWE, 04_layers.md, after R87): opaque rectangle origin. -/
def LAY_OPQ_XY : Fld := ⟨0x0A0, 0x004, 31, 0⟩
def LAY_OPQ_XY_x : Fld := ⟨0x0A0, 0x004, 13, 0⟩
def LAY_OPQ_XY_y : Fld := ⟨0x0A0, 0x004, 28, 16⟩
/-- `LAY_OPQ_WH` (RWE, 04_layers.md, after R87): opaque rectangle size. -/
def LAY_OPQ_WH : Fld := ⟨0x0A4, 0x004, 31, 0⟩
def LAY_OPQ_WH_w_m1 : Fld := ⟨0x0A4, 0x004, 13, 0⟩
def LAY_OPQ_WH_h_m1 : Fld := ⟨0x0A4, 0x004, 28, 16⟩
/-- `LAY_ADDR0_LO` (RWE, 04_layers.md, after R87): plane 0 address [31:6]. -/
def LAY_ADDR0_LO : Fld := ⟨0x0A8, 0x004, 31, 0⟩
def LAY_ADDR0_LO_addr : Fld := ⟨0x0A8, 0x004, 31, 6⟩
/-- `LAY_ADDR0_HI` (RWE, 04_layers.md, after R87): plane 0 address [39:32]. -/
def LAY_ADDR0_HI : Fld := ⟨0x0AC, 0x004, 31, 0⟩
def LAY_ADDR0_HI_addr_hi : Fld := ⟨0x0AC, 0x004, 7, 0⟩
/-- `LAY_ADDR1_LO` (RWE, 04_layers.md, after R87): plane 1 or ILT header address [31:6]. -/
def LAY_ADDR1_LO : Fld := ⟨0x0B0, 0x004, 31, 0⟩
def LAY_ADDR1_LO_addr : Fld := ⟨0x0B0, 0x004, 31, 6⟩
/-- `LAY_ADDR1_HI` (RWE, 04_layers.md, after R87): plane 1 or ILT header address [39:32]. -/
def LAY_ADDR1_HI : Fld := ⟨0x0B4, 0x004, 31, 0⟩
def LAY_ADDR1_HI_addr_hi : Fld := ⟨0x0B4, 0x004, 7, 0⟩
/-- `LAY_STRIDE` (RWE, 04_layers.md, after R87): plane strides. -/
def LAY_STRIDE : Fld := ⟨0x0B8, 0x004, 31, 0⟩
def LAY_STRIDE_stride0 : Fld := ⟨0x0B8, 0x004, 11, 0⟩
def LAY_STRIDE_stride1 : Fld := ⟨0x0B8, 0x004, 27, 16⟩
/-- `LAY_EFFECT` (RWE, 04_layers.md, after R87): effect routine. -/
def LAY_EFFECT : Fld := ⟨0x0BC, 0x004, 31, 0⟩
def LAY_EFFECT_routine_id : Fld := ⟨0x0BC, 0x004, 11, 0⟩
/-- `LAY_EFFECT_ARG` (RWE, 04_layers.md, after R87): argument passed to the routine. -/
def LAY_EFFECT_ARG : Fld := ⟨0x0C0, 0x004, 31, 0⟩
def LAY_EFFECT_ARG_arg : Fld := ⟨0x0C0, 0x004, 31, 0⟩
/-- `LAY_STATUS` (RO, 04_layers.md, after R87): applied state. -/
def LAY_STATUS : Fld := ⟨0x0C4, 0x004, 31, 0⟩
def LAY_STATUS_applied : Fld := ⟨0x0C4, 0x004, 0, 0⟩
def LAY_STATUS_racing_active : Fld := ⟨0x0C4, 0x004, 1, 1⟩
def LAY_STATUS_outputs : Fld := ⟨0x0C4, 0x004, 15, 8⟩
/-- `LAY_PALETTE` (RWE, 04_layers.md, after R87): palette entries, ARGB8888. -/
def LAY_PALETTE : Fld := ⟨0x400, 0x004, 31, 0⟩
def LAY_PALETTE_entry : Fld := ⟨0x400, 0x004, 31, 0⟩

/-- `PL_CTRL` (RWE, 04_layers.md, after R97): enable, backdrop, format. -/
def PL_CTRL : Fld := ⟨0x080, 0x004, 31, 0⟩
def PL_CTRL_enable : Fld := ⟨0x080, 0x004, 0, 0⟩
def PL_CTRL_backdrop_en : Fld := ⟨0x080, 0x004, 1, 1⟩
def PL_CTRL_format : Fld := ⟨0x080, 0x004, 3, 2⟩
/-- `PL_POS` (RWE, 04_layers.md, after R97): signed position in the output. -/
def PL_POS : Fld := ⟨0x084, 0x004, 31, 0⟩
def PL_POS_x : Fld := ⟨0x084, 0x004, 15, 0⟩
def PL_POS_y : Fld := ⟨0x084, 0x004, 31, 16⟩
/-- `PL_SIZE` (RWE, 04_layers.md, after R97): width and height. -/
def PL_SIZE : Fld := ⟨0x088, 0x004, 31, 0⟩
def PL_SIZE_w_m1 : Fld := ⟨0x088, 0x004, 10, 0⟩
def PL_SIZE_h_m1 : Fld := ⟨0x088, 0x004, 25, 16⟩
/-- `PL_ADDR` (RWE, 04_layers.md, after R97): vault offset of the buffer. -/
def PL_ADDR : Fld := ⟨0x08C, 0x004, 31, 0⟩
def PL_ADDR_offset : Fld := ⟨0x08C, 0x004, 25, 6⟩
/-- `PL_STRIDE` (RWE, 04_layers.md, after R97): line stride. -/
def PL_STRIDE : Fld := ⟨0x090, 0x004, 31, 0⟩
def PL_STRIDE_stride : Fld := ⟨0x090, 0x004, 7, 0⟩
/-- `PL_ALPHA` (RWE, 04_layers.md, after R97): plane alpha. -/
def PL_ALPHA : Fld := ⟨0x094, 0x004, 31, 0⟩
def PL_ALPHA_plane_alpha : Fld := ⟨0x094, 0x004, 7, 0⟩
/-- `PL_BACKDROP_XY` (RWE, 04_layers.md, after R97): backdrop origin. -/
def PL_BACKDROP_XY : Fld := ⟨0x098, 0x004, 31, 0⟩
def PL_BACKDROP_XY_x : Fld := ⟨0x098, 0x004, 13, 0⟩
def PL_BACKDROP_XY_y : Fld := ⟨0x098, 0x004, 28, 16⟩
/-- `PL_BACKDROP_WH` (RWE, 04_layers.md, after R97): backdrop size. -/
def PL_BACKDROP_WH : Fld := ⟨0x09C, 0x004, 31, 0⟩
def PL_BACKDROP_WH_w_m1 : Fld := ⟨0x09C, 0x004, 13, 0⟩
def PL_BACKDROP_WH_h_m1 : Fld := ⟨0x09C, 0x004, 28, 16⟩
/-- `PL_BACKDROP_COLOUR` (RWE, 04_layers.md, after R97): backdrop colour. -/
def PL_BACKDROP_COLOUR : Fld := ⟨0x0A0, 0x004, 31, 0⟩
def PL_BACKDROP_COLOUR_colour : Fld := ⟨0x0A0, 0x004, 29, 0⟩
/-- `PL_REGION` (RO, 04_layers.md, after R97): sub-region assigned by the Custodian. -/
def PL_REGION : Fld := ⟨0x0A4, 0x004, 31, 0⟩
def PL_REGION_base : Fld := ⟨0x0A4, 0x004, 9, 0⟩
def PL_REGION_size : Fld := ⟨0x0A4, 0x004, 24, 16⟩
/-- `PL_STATUS` (RO, 04_layers.md, after R97): applied and drawing state. -/
def PL_STATUS : Fld := ⟨0x0A8, 0x004, 31, 0⟩
def PL_STATUS_applied : Fld := ⟨0x0A8, 0x004, 0, 0⟩
def PL_STATUS_drawing : Fld := ⟨0x0A8, 0x004, 1, 1⟩
def PL_STATUS_safe : Fld := ⟨0x0A8, 0x004, 2, 2⟩
/-- `PL_PALETTE` (RWE, 04_layers.md, after R97): I8 palette, ARGB8888. -/
def PL_PALETTE : Fld := ⟨0x400, 0x004, 31, 0⟩
def PL_PALETTE_entry : Fld := ⟨0x400, 0x004, 31, 0⟩

/-- `OUT_CMP_PRESS` (RW, 05_composition.md, after R120): presses to assign at enable. -/
def OUT_CMP_PRESS : Fld := ⟨0x080, 0x004, 31, 0⟩
def OUT_CMP_PRESS_count : Fld := ⟨0x080, 0x004, 5, 0⟩
/-- `OUT_CMP_ASSIGNED` (RO, 05_composition.md, after R120): presses assigned. -/
def OUT_CMP_ASSIGNED : Fld := ⟨0x084, 0x004, 31, 0⟩
def OUT_CMP_ASSIGNED_count : Fld := ⟨0x084, 0x004, 5, 0⟩
/-- `OUT_CMP_BLEND` (RWE, 05_composition.md, after R120): blend space. -/
def OUT_CMP_BLEND : Fld := ⟨0x088, 0x004, 31, 0⟩
def OUT_CMP_BLEND_space : Fld := ⟨0x088, 0x004, 0, 0⟩
def OUT_CMP_BLEND_prim : Fld := ⟨0x088, 0x004, 4, 4⟩
def OUT_CMP_BLEND_enc : Fld := ⟨0x088, 0x004, 9, 8⟩
def OUT_CMP_BLEND_sdr_white : Fld := ⟨0x088, 0x004, 25, 16⟩
/-- `OUT_CMP_BACKGROUND` (RWE, 05_composition.md, after R120): background colour. -/
def OUT_CMP_BACKGROUND : Fld := ⟨0x08C, 0x004, 31, 0⟩
def OUT_CMP_BACKGROUND_colour : Fld := ⟨0x08C, 0x004, 29, 0⟩
/-- `OUT_CMP_REBUILD` (RO, 05_composition.md, after R120): rebuild state. -/
def OUT_CMP_REBUILD : Fld := ⟨0x090, 0x004, 31, 0⟩
def OUT_CMP_REBUILD_last_ns : Fld := ⟨0x090, 0x004, 15, 0⟩
def OUT_CMP_REBUILD_busy : Fld := ⟨0x090, 0x004, 31, 31⟩
/-- `OUT_CMP_SLOT_ACCT` (RO, 05_composition.md, after R120): contributing account, s = 0 to 7. -/
def OUT_CMP_SLOT_ACCT : Fld := ⟨0x100, 0x010, 31, 0⟩
def OUT_CMP_SLOT_ACCT_account : Fld := ⟨0x100, 0x010, 5, 0⟩
def OUT_CMP_SLOT_ACCT_layers : Fld := ⟨0x100, 0x010, 13, 8⟩
def OUT_CMP_SLOT_ACCT_valid : Fld := ⟨0x100, 0x010, 31, 31⟩
/-- `OUT_CMP_SLOT_VP_XY` (RO, 05_composition.md, after R120): viewport origin. -/
def OUT_CMP_SLOT_VP_XY : Fld := ⟨0x104, 0x010, 31, 0⟩
def OUT_CMP_SLOT_VP_XY_x : Fld := ⟨0x104, 0x010, 13, 0⟩
def OUT_CMP_SLOT_VP_XY_y : Fld := ⟨0x104, 0x010, 28, 16⟩
/-- `OUT_CMP_SLOT_VP_WH` (RO, 05_composition.md, after R120): viewport size. -/
def OUT_CMP_SLOT_VP_WH : Fld := ⟨0x108, 0x010, 31, 0⟩
def OUT_CMP_SLOT_VP_WH_w_m1 : Fld := ⟨0x108, 0x010, 13, 0⟩
def OUT_CMP_SLOT_VP_WH_h_m1 : Fld := ⟨0x108, 0x010, 28, 16⟩
/-- `OUT_CMP_SLOT_ZS` (RO, 05_composition.md, after R120): z-band and lane-op share. -/
def OUT_CMP_SLOT_ZS : Fld := ⟨0x10C, 0x010, 31, 0⟩
def OUT_CMP_SLOT_ZS_z_base : Fld := ⟨0x10C, 0x010, 5, 0⟩
def OUT_CMP_SLOT_ZS_z_size : Fld := ⟨0x10C, 0x010, 13, 8⟩
def OUT_CMP_SLOT_ZS_share : Fld := ⟨0x10C, 0x010, 31, 16⟩

/-- `OUT_COL_CTRL` (RWE, 05_composition.md, after R121): stage enables, dither, depth. -/
def OUT_COL_CTRL : Fld := ⟨0x080, 0x004, 31, 0⟩
def OUT_COL_CTRL_degamma_en : Fld := ⟨0x080, 0x004, 0, 0⟩
def OUT_COL_CTRL_matrix_en : Fld := ⟨0x080, 0x004, 1, 1⟩
def OUT_COL_CTRL_lut3d_en : Fld := ⟨0x080, 0x004, 2, 2⟩
def OUT_COL_CTRL_regamma_en : Fld := ⟨0x080, 0x004, 3, 3⟩
def OUT_COL_CTRL_dither : Fld := ⟨0x080, 0x004, 5, 4⟩
def OUT_COL_CTRL_depth : Fld := ⟨0x080, 0x004, 9, 8⟩
/-- `OUT_COL_M0` (RWE, 05_composition.md, after R121): matrix, row-major. -/
def OUT_COL_M0 : Fld := ⟨0x084, 0x004, 31, 0⟩
def OUT_COL_M0_coef : Fld := ⟨0x084, 0x004, 15, 0⟩
/-- `OUT_COL_M1` (RWE, 05_composition.md, after R121): matrix, row-major. -/
def OUT_COL_M1 : Fld := ⟨0x088, 0x004, 31, 0⟩
def OUT_COL_M1_coef : Fld := ⟨0x088, 0x004, 15, 0⟩
/-- `OUT_COL_M2` (RWE, 05_composition.md, after R121): matrix, row-major. -/
def OUT_COL_M2 : Fld := ⟨0x08C, 0x004, 31, 0⟩
def OUT_COL_M2_coef : Fld := ⟨0x08C, 0x004, 15, 0⟩
/-- `OUT_COL_M3` (RWE, 05_composition.md, after R121): matrix, row-major. -/
def OUT_COL_M3 : Fld := ⟨0x090, 0x004, 31, 0⟩
def OUT_COL_M3_coef : Fld := ⟨0x090, 0x004, 15, 0⟩
/-- `OUT_COL_M4` (RWE, 05_composition.md, after R121): matrix, row-major. -/
def OUT_COL_M4 : Fld := ⟨0x094, 0x004, 31, 0⟩
def OUT_COL_M4_coef : Fld := ⟨0x094, 0x004, 15, 0⟩
/-- `OUT_COL_M5` (RWE, 05_composition.md, after R121): matrix, row-major. -/
def OUT_COL_M5 : Fld := ⟨0x098, 0x004, 31, 0⟩
def OUT_COL_M5_coef : Fld := ⟨0x098, 0x004, 15, 0⟩
/-- `OUT_COL_M6` (RWE, 05_composition.md, after R121): matrix, row-major. -/
def OUT_COL_M6 : Fld := ⟨0x09C, 0x004, 31, 0⟩
def OUT_COL_M6_coef : Fld := ⟨0x09C, 0x004, 15, 0⟩
/-- `OUT_COL_M7` (RWE, 05_composition.md, after R121): matrix, row-major. -/
def OUT_COL_M7 : Fld := ⟨0x0A0, 0x004, 31, 0⟩
def OUT_COL_M7_coef : Fld := ⟨0x0A0, 0x004, 15, 0⟩
/-- `OUT_COL_M8` (RWE, 05_composition.md, after R121): matrix, row-major. -/
def OUT_COL_M8 : Fld := ⟨0x0A4, 0x004, 31, 0⟩
def OUT_COL_M8_coef : Fld := ⟨0x0A4, 0x004, 15, 0⟩
/-- `OUT_COL_OFF` (RWE, 05_composition.md, after R121): matrix offsets. -/
def OUT_COL_OFF : Fld := ⟨0x0A8, 0x004, 31, 0⟩
def OUT_COL_OFF_offset : Fld := ⟨0x0A8, 0x004, 16, 0⟩
/-- `OUT_COL_LOAD_LO` (RW, 05_composition.md, after R121): source address [31:6]. -/
def OUT_COL_LOAD_LO : Fld := ⟨0x0C0, 0x004, 31, 0⟩
def OUT_COL_LOAD_LO_addr : Fld := ⟨0x0C0, 0x004, 31, 6⟩
/-- `OUT_COL_LOAD_HI` (RW, 05_composition.md, after R121): source address [39:32]; vault: 0. -/
def OUT_COL_LOAD_HI : Fld := ⟨0x0C4, 0x004, 31, 0⟩
def OUT_COL_LOAD_HI_addr_hi : Fld := ⟨0x0C4, 0x004, 7, 0⟩
/-- `OUT_COL_LOAD` (RW, 05_composition.md, after R121): table, source kind, go. -/
def OUT_COL_LOAD : Fld := ⟨0x0C8, 0x004, 31, 0⟩
def OUT_COL_LOAD_table : Fld := ⟨0x0C8, 0x004, 1, 0⟩
def OUT_COL_LOAD_src : Fld := ⟨0x0C8, 0x004, 4, 4⟩
def OUT_COL_LOAD_go : Fld := ⟨0x0C8, 0x004, 31, 31⟩
/-- `OUT_COL_BANK` (RW, 05_composition.md, after R121): READY, active bank, LATE, load state. -/
def OUT_COL_BANK : Fld := ⟨0x0CC, 0x004, 31, 0⟩
def OUT_COL_BANK_ready : Fld := ⟨0x0CC, 0x004, 2, 0⟩
def OUT_COL_BANK_active : Fld := ⟨0x0CC, 0x004, 6, 4⟩
def OUT_COL_BANK_late : Fld := ⟨0x0CC, 0x004, 10, 8⟩
def OUT_COL_BANK_load_busy : Fld := ⟨0x0CC, 0x004, 16, 16⟩
def OUT_COL_BANK_load_done : Fld := ⟨0x0CC, 0x004, 17, 17⟩

/-- `OUT_KPR_FALLBACK` (RWE, 05_composition.md, after R121): fallback colour. -/
def OUT_KPR_FALLBACK : Fld := ⟨0x080, 0x004, 31, 0⟩
def OUT_KPR_FALLBACK_colour : Fld := ⟨0x080, 0x004, 29, 0⟩
/-- `OUT_KPR_STATUS` (RO, 05_composition.md, after R121): keeper state. -/
def OUT_KPR_STATUS : Fld := ⟨0x084, 0x004, 31, 0⟩
def OUT_KPR_STATUS_safe : Fld := ⟨0x084, 0x004, 0, 0⟩
def OUT_KPR_STATUS_pl_drawing : Fld := ⟨0x084, 0x004, 1, 1⟩

/-- `SCL_CTRL` (RWE, 05_composition.md, after R121): coefficient source, siting, binding. -/
def SCL_CTRL : Fld := ⟨0x080, 0x004, 31, 0⟩
def SCL_CTRL_coef_src : Fld := ⟨0x080, 0x004, 1, 0⟩
def SCL_CTRL_siting : Fld := ⟨0x080, 0x004, 3, 2⟩
def SCL_CTRL_bind_en : Fld := ⟨0x080, 0x004, 4, 4⟩
def SCL_CTRL_bind_layer : Fld := ⟨0x080, 0x004, 14, 8⟩
def SCL_CTRL_bind_out : Fld := ⟨0x080, 0x004, 18, 16⟩
/-- `SCL_BANK` (RW, 05_composition.md, after R121): READY, active bank, LATE. -/
def SCL_BANK : Fld := ⟨0x084, 0x004, 31, 0⟩
def SCL_BANK_h_ready : Fld := ⟨0x084, 0x004, 0, 0⟩
def SCL_BANK_v_ready : Fld := ⟨0x084, 0x004, 1, 1⟩
def SCL_BANK_h_active : Fld := ⟨0x084, 0x004, 4, 4⟩
def SCL_BANK_v_active : Fld := ⟨0x084, 0x004, 5, 5⟩
def SCL_BANK_h_late : Fld := ⟨0x084, 0x004, 8, 8⟩
def SCL_BANK_v_late : Fld := ⟨0x084, 0x004, 9, 9⟩
/-- `SCL_STATUS` (RO, 05_composition.md, after R121): placement served. -/
def SCL_STATUS : Fld := ⟨0x088, 0x004, 31, 0⟩
def SCL_STATUS_in_use : Fld := ⟨0x088, 0x004, 0, 0⟩
def SCL_STATUS_layer : Fld := ⟨0x088, 0x004, 14, 8⟩
def SCL_STATUS_output : Fld := ⟨0x088, 0x004, 18, 16⟩

/-- `SCL_HCOEF` (RW, 05_composition.md, after R121): horizontal background bank; word 4p + t/2 holds taps t and t + 1 of phase p. -/
def SCL_HCOEF : Fld := ⟨0x080, 0x004, 31, 0⟩
def SCL_HCOEF_even : Fld := ⟨0x080, 0x004, 9, 0⟩
def SCL_HCOEF_odd : Fld := ⟨0x080, 0x004, 25, 16⟩
/-- `SCL_VCOEF` (RW, 05_composition.md, after R121): vertical background bank; word 3p + t/2 holds taps t and t + 1 of phase p. -/
def SCL_VCOEF : Fld := ⟨0x480, 0x004, 31, 0⟩
def SCL_VCOEF_even : Fld := ⟨0x480, 0x004, 9, 0⟩
def SCL_VCOEF_odd : Fld := ⟨0x480, 0x004, 25, 16⟩

/-- `MNT_P_ROLE` (RO, 06_mints.md, after R148): role, output, account. -/
def MNT_P_ROLE : Fld := ⟨0x080, 0x004, 31, 0⟩
def MNT_P_ROLE_role : Fld := ⟨0x080, 0x004, 1, 0⟩
def MNT_P_ROLE_output : Fld := ⟨0x080, 0x004, 6, 4⟩
def MNT_P_ROLE_account : Fld := ⟨0x080, 0x004, 13, 8⟩
def MNT_P_ROLE_clearing : Fld := ⟨0x080, 0x004, 31, 31⟩
/-- `MNT_P_MINT_STATE` (RO, 06_mints.md, after R148): busy, retired, stuck, slow. -/
def MNT_P_MINT_STATE : Fld := ⟨0x084, 0x004, 31, 0⟩
def MNT_P_MINT_STATE_busy : Fld := ⟨0x084, 0x004, 7, 0⟩
def MNT_P_MINT_STATE_retired : Fld := ⟨0x084, 0x004, 15, 8⟩
def MNT_P_MINT_STATE_stuck : Fld := ⟨0x084, 0x004, 23, 16⟩
def MNT_P_MINT_STATE_slow : Fld := ⟨0x084, 0x004, 31, 24⟩
/-- `MNT_P_QUEUE` (RO, 06_mints.md, after R148): cheques waiting and in flight. -/
def MNT_P_QUEUE : Fld := ⟨0x088, 0x004, 31, 0⟩
def MNT_P_QUEUE_waiting : Fld := ⟨0x088, 0x004, 15, 0⟩
def MNT_P_QUEUE_in_flight : Fld := ⟨0x088, 0x004, 19, 16⟩
/-- `MNT_P_TIME` (RO, 06_mints.md, after R148): mean cheque time of mint j in the last frame. -/
def MNT_P_TIME : Fld := ⟨0x0A0, 0x004, 31, 0⟩
def MNT_P_TIME_mean_ns : Fld := ⟨0x0A0, 0x004, 23, 0⟩
/-- `MNT_P_COUNT` (RO, 06_mints.md, after R148): cheques of mint j in the last frame. -/
def MNT_P_COUNT : Fld := ⟨0x0C0, 0x004, 31, 0⟩
def MNT_P_COUNT_count : Fld := ⟨0x0C0, 0x004, 15, 0⟩

/-- `MNT_B_RETIRE` (RW, 06_mints.md, after R148): manager retirement. -/
def MNT_B_RETIRE : Fld := ⟨0x080, 0x004, 31, 0⟩
def MNT_B_RETIRE_retire : Fld := ⟨0x080, 0x004, 31, 0⟩
/-- `MNT_B_STUCK` (RO, 06_mints.md, after R148): stuck retirement. -/
def MNT_B_STUCK : Fld := ⟨0x084, 0x004, 31, 0⟩
def MNT_B_STUCK_stuck : Fld := ⟨0x084, 0x004, 31, 0⟩
/-- `MNT_B_SLOW` (RO, 06_mints.md, after R148): SLOW advisories. -/
def MNT_B_SLOW : Fld := ⟨0x088, 0x004, 31, 0⟩
def MNT_B_SLOW_slow : Fld := ⟨0x088, 0x004, 31, 0⟩

/-- `ACC_COMMIT` (WO, 07_commit_and_escrow.md, after R166): take a commit. -/
def ACC_COMMIT : Fld := ⟨0x080, 0x004, 31, 0⟩
def ACC_COMMIT_go : Fld := ⟨0x080, 0x004, 0, 0⟩
def ACC_COMMIT_syn : Fld := ⟨0x080, 0x004, 1, 1⟩
/-- `ACC_COMMIT_STATUS` (RO, 07_commit_and_escrow.md, after R166): busy, held, result, reason, pending, late. -/
def ACC_COMMIT_STATUS : Fld := ⟨0x084, 0x004, 31, 0⟩
def ACC_COMMIT_STATUS_busy : Fld := ⟨0x084, 0x004, 0, 0⟩
def ACC_COMMIT_STATUS_held : Fld := ⟨0x084, 0x004, 1, 1⟩
def ACC_COMMIT_STATUS_rebuilding : Fld := ⟨0x084, 0x004, 2, 2⟩
def ACC_COMMIT_STATUS_result : Fld := ⟨0x084, 0x004, 5, 4⟩
def ACC_COMMIT_STATUS_reason : Fld := ⟨0x084, 0x004, 11, 8⟩
def ACC_COMMIT_STATUS_pending : Fld := ⟨0x084, 0x004, 23, 16⟩
def ACC_COMMIT_STATUS_late : Fld := ⟨0x084, 0x004, 31, 24⟩
/-- `ACC_COMMIT_GEN` (RO, 07_commit_and_escrow.md, after R166): generation of the last admitted commit. -/
def ACC_COMMIT_GEN : Fld := ⟨0x088, 0x004, 31, 0⟩
def ACC_COMMIT_GEN_gen : Fld := ⟨0x088, 0x004, 31, 0⟩
/-- `ACC_COMMIT_REFUSED_AT` (RO, 07_commit_and_escrow.md, after R166): page at fault in the last refusal. -/
def ACC_COMMIT_REFUSED_AT : Fld := ⟨0x08C, 0x004, 31, 0⟩
def ACC_COMMIT_REFUSED_AT_page : Fld := ⟨0x08C, 0x004, 11, 0⟩
/-- `ACC_COMMIT_TARGET` (RW, 07_commit_and_escrow.md, after R166): syndicate target frame. -/
def ACC_COMMIT_TARGET : Fld := ⟨0x090, 0x004, 31, 0⟩
def ACC_COMMIT_TARGET_frame : Fld := ⟨0x090, 0x004, 31, 0⟩
/-- `ACC_COMMIT_SYN` (RW, 07_commit_and_escrow.md, after R166): syndicate tag and participants. -/
def ACC_COMMIT_SYN : Fld := ⟨0x094, 0x004, 31, 0⟩
def ACC_COMMIT_SYN_tag : Fld := ⟨0x094, 0x004, 7, 0⟩
def ACC_COMMIT_SYN_devices : Fld := ⟨0x094, 0x004, 11, 8⟩
/-- `ACC_COMMIT_SHOWN` (RO, 07_commit_and_escrow.md, after R166): generation shown on OUTn. -/
def ACC_COMMIT_SHOWN : Fld := ⟨0x0A0, 0x004, 31, 0⟩
def ACC_COMMIT_SHOWN_gen : Fld := ⟨0x0A0, 0x004, 31, 0⟩

/-- `OUT_TIM_CTRL` (RWI, 08_scanout.md, after R195): run, pair lock, polarity, VRR. -/
def OUT_TIM_CTRL : Fld := ⟨0x080, 0x004, 31, 0⟩
def OUT_TIM_CTRL_run : Fld := ⟨0x080, 0x004, 0, 0⟩
def OUT_TIM_CTRL_pair_lock : Fld := ⟨0x080, 0x004, 1, 1⟩
def OUT_TIM_CTRL_hs_pol : Fld := ⟨0x080, 0x004, 2, 2⟩
def OUT_TIM_CTRL_vs_pol : Fld := ⟨0x080, 0x004, 3, 3⟩
def OUT_TIM_CTRL_vrr_en : Fld := ⟨0x080, 0x004, 4, 4⟩
/-- `OUT_TIM_PCLK` (RWI, 08_scanout.md, after R195): pixel clock. -/
def OUT_TIM_PCLK : Fld := ⟨0x084, 0x004, 31, 0⟩
def OUT_TIM_PCLK_khz : Fld := ⟨0x084, 0x004, 21, 0⟩
/-- `OUT_TIM_HACT` (RWI, 08_scanout.md, after R195): active width. -/
def OUT_TIM_HACT : Fld := ⟨0x088, 0x004, 31, 0⟩
def OUT_TIM_HACT_active : Fld := ⟨0x088, 0x004, 14, 0⟩
/-- `OUT_TIM_HSYNC` (RWI, 08_scanout.md, after R195): horizontal front porch and sync. -/
def OUT_TIM_HSYNC : Fld := ⟨0x08C, 0x004, 31, 0⟩
def OUT_TIM_HSYNC_front : Fld := ⟨0x08C, 0x004, 11, 0⟩
def OUT_TIM_HSYNC_width : Fld := ⟨0x08C, 0x004, 27, 16⟩
/-- `OUT_TIM_HBACK` (RWI, 08_scanout.md, after R195): horizontal back porch. -/
def OUT_TIM_HBACK : Fld := ⟨0x090, 0x004, 31, 0⟩
def OUT_TIM_HBACK_back : Fld := ⟨0x090, 0x004, 11, 0⟩
/-- `OUT_TIM_VACT` (RWI, 08_scanout.md, after R195): active lines. -/
def OUT_TIM_VACT : Fld := ⟨0x094, 0x004, 31, 0⟩
def OUT_TIM_VACT_active : Fld := ⟨0x094, 0x004, 12, 0⟩
/-- `OUT_TIM_VSYNC` (RWI, 08_scanout.md, after R195): vertical front porch and sync. -/
def OUT_TIM_VSYNC : Fld := ⟨0x098, 0x004, 31, 0⟩
def OUT_TIM_VSYNC_front : Fld := ⟨0x098, 0x004, 11, 0⟩
def OUT_TIM_VSYNC_width : Fld := ⟨0x098, 0x004, 27, 16⟩
/-- `OUT_TIM_VBACK` (RWI, 08_scanout.md, after R195): vertical back porch. -/
def OUT_TIM_VBACK : Fld := ⟨0x09C, 0x004, 31, 0⟩
def OUT_TIM_VBACK_back : Fld := ⟨0x09C, 0x004, 11, 0⟩
/-- `OUT_TIM_LEAD` (RWI, 08_scanout.md, after R195): compose lead. -/
def OUT_TIM_LEAD : Fld := ⟨0x0A0, 0x004, 31, 0⟩
def OUT_TIM_LEAD_lines : Fld := ⟨0x0A0, 0x004, 6, 0⟩
def OUT_TIM_LEAD_racing_lead : Fld := ⟨0x0A0, 0x004, 23, 16⟩
/-- `OUT_TIM_PAIR` (RWI, 08_scanout.md, after R195): split point. -/
def OUT_TIM_PAIR : Fld := ⟨0x0A4, 0x004, 31, 0⟩
def OUT_TIM_PAIR_split : Fld := ⟨0x0A4, 0x004, 13, 0⟩
/-- `OUT_TIM_VRR` (RWI, 08_scanout.md, after R195): variable refresh. -/
def OUT_TIM_VRR : Fld := ⟨0x0A8, 0x004, 31, 0⟩
def OUT_TIM_VRR_vtotal_max : Fld := ⟨0x0A8, 0x004, 19, 0⟩
def OUT_TIM_VRR_release : Fld := ⟨0x0A8, 0x004, 31, 31⟩
/-- `OUT_TIM_MATCH0` (RW, 08_scanout.md, after R195): line comparator 0. -/
def OUT_TIM_MATCH0 : Fld := ⟨0x0AC, 0x004, 31, 0⟩
def OUT_TIM_MATCH0_line : Fld := ⟨0x0AC, 0x004, 12, 0⟩
def OUT_TIM_MATCH0_en : Fld := ⟨0x0AC, 0x004, 31, 31⟩
/-- `OUT_TIM_MATCH1` (RW, 08_scanout.md, after R195): line comparator 1. -/
def OUT_TIM_MATCH1 : Fld := ⟨0x0B0, 0x004, 31, 0⟩
def OUT_TIM_MATCH1_line : Fld := ⟨0x0B0, 0x004, 12, 0⟩
def OUT_TIM_MATCH1_en : Fld := ⟨0x0B0, 0x004, 31, 31⟩
/-- `OUT_TIM_STATUS` (RO, 08_scanout.md, after R195): line and state. -/
def OUT_TIM_STATUS : Fld := ⟨0x0B4, 0x004, 31, 0⟩
def OUT_TIM_STATUS_line : Fld := ⟨0x0B4, 0x004, 12, 0⟩
def OUT_TIM_STATUS_running : Fld := ⟨0x0B4, 0x004, 16, 16⟩
def OUT_TIM_STATUS_vblank : Fld := ⟨0x0B4, 0x004, 17, 17⟩
def OUT_TIM_STATUS_held : Fld := ⟨0x0B4, 0x004, 18, 18⟩
def OUT_TIM_STATUS_racing : Fld := ⟨0x0B4, 0x004, 19, 19⟩
/-- `OUT_TIM_FRAME` (RO, 08_scanout.md, after R195): frame count. -/
def OUT_TIM_FRAME : Fld := ⟨0x0B8, 0x004, 31, 0⟩
def OUT_TIM_FRAME_count : Fld := ⟨0x0B8, 0x004, 31, 0⟩
/-- `OUT_TIM_RMAX` (RWI, 08_scanout.md, after R195): highest permitted refresh rate. -/
def OUT_TIM_RMAX : Fld := ⟨0x0BC, 0x004, 31, 0⟩
def OUT_TIM_RMAX_rate : Fld := ⟨0x0BC, 0x004, 7, 0⟩
/-- `OUT_REF_CTRL` (RWI, 08_scanout.md, after R195): source priorities, ratio. -/
def OUT_REF_CTRL : Fld := ⟨0x0C0, 0x004, 31, 0⟩
def OUT_REF_CTRL_prio0 : Fld := ⟨0x0C0, 0x004, 2, 0⟩
def OUT_REF_CTRL_prio1 : Fld := ⟨0x0C0, 0x004, 6, 4⟩
def OUT_REF_CTRL_prio2 : Fld := ⟨0x0C0, 0x004, 10, 8⟩
def OUT_REF_CTRL_prio3 : Fld := ⟨0x0C0, 0x004, 14, 12⟩
def OUT_REF_CTRL_mult : Fld := ⟨0x0C0, 0x004, 17, 16⟩
/-- `OUT_REF_OFFSET` (RWI, 08_scanout.md, after R195): phase offset. -/
def OUT_REF_OFFSET : Fld := ⟨0x0C4, 0x004, 31, 0⟩
def OUT_REF_OFFSET_offset : Fld := ⟨0x0C4, 0x004, 23, 0⟩
/-- `OUT_REF_STATUS` (RO, 08_scanout.md, after R195): selection and lock state. -/
def OUT_REF_STATUS : Fld := ⟨0x0C8, 0x004, 31, 0⟩
def OUT_REF_STATUS_selected : Fld := ⟨0x0C8, 0x004, 2, 0⟩
def OUT_REF_STATUS_state : Fld := ⟨0x0C8, 0x004, 5, 4⟩
def OUT_REF_STATUS_qualified : Fld := ⟨0x0C8, 0x004, 11, 8⟩
def OUT_REF_STATUS_target : Fld := ⟨0x0C8, 0x004, 18, 16⟩
/-- `OUT_REF_ERROR` (RO, 08_scanout.md, after R195): last phase error. -/
def OUT_REF_ERROR : Fld := ⟨0x0CC, 0x004, 31, 0⟩
def OUT_REF_ERROR_error : Fld := ⟨0x0CC, 0x004, 23, 0⟩
/-- `OUT_REF_TRIM` (RO, 08_scanout.md, after R195): pixel clock trim. -/
def OUT_REF_TRIM : Fld := ⟨0x0D0, 0x004, 31, 0⟩
def OUT_REF_TRIM_ppm : Fld := ⟨0x0D0, 0x004, 11, 0⟩
/-- `OUT_STATIC_CTRL` (RW, 08_scanout.md, after R195): static enables, wake time. -/
def OUT_STATIC_CTRL : Fld := ⟨0x0E0, 0x004, 31, 0⟩
def OUT_STATIC_CTRL_en : Fld := ⟨0x0E0, 0x004, 0, 0⟩
def OUT_STATIC_CTRL_retain_en : Fld := ⟨0x0E0, 0x004, 1, 1⟩
def OUT_STATIC_CTRL_wake_us : Fld := ⟨0x0E0, 0x004, 25, 16⟩
/-- `OUT_STATIC_FRAMES` (RW, 08_scanout.md, after R195): frames to static. -/
def OUT_STATIC_FRAMES : Fld := ⟨0x0E4, 0x004, 31, 0⟩
def OUT_STATIC_FRAMES_frames : Fld := ⟨0x0E4, 0x004, 7, 0⟩
/-- `OUT_STATIC_RATE` (RW, 08_scanout.md, after R195): reduced rate. -/
def OUT_STATIC_RATE : Fld := ⟨0x0E8, 0x004, 31, 0⟩
def OUT_STATIC_RATE_rate : Fld := ⟨0x0E8, 0x004, 7, 0⟩
/-- `OUT_STATIC_STATUS` (RO, 08_scanout.md, after R195): static state. -/
def OUT_STATIC_STATUS : Fld := ⟨0x0EC, 0x004, 31, 0⟩
def OUT_STATIC_STATUS_static : Fld := ⟨0x0EC, 0x004, 0, 0⟩
def OUT_STATIC_STATUS_stretching : Fld := ⟨0x0EC, 0x004, 1, 1⟩
def OUT_STATIC_STATUS_retained : Fld := ⟨0x0EC, 0x004, 2, 2⟩
def OUT_STATIC_STATUS_size : Fld := ⟨0x0EC, 0x004, 25, 16⟩

/-- `OUT_WM_URGENT` (RW, 08_scanout.md, after R195): urgent watermark. -/
def OUT_WM_URGENT : Fld := ⟨0x080, 0x004, 31, 0⟩
def OUT_WM_URGENT_level : Fld := ⟨0x080, 0x004, 9, 0⟩
/-- `OUT_WM_PANIC` (RW, 08_scanout.md, after R195): panic watermark. -/
def OUT_WM_PANIC : Fld := ⟨0x084, 0x004, 31, 0⟩
def OUT_WM_PANIC_level : Fld := ⟨0x084, 0x004, 9, 0⟩
/-- `OUT_LT_MARGIN` (RW, 08_scanout.md, after R195): tolerance margin. -/
def OUT_LT_MARGIN : Fld := ⟨0x088, 0x004, 31, 0⟩
def OUT_LT_MARGIN_margin : Fld := ⟨0x088, 0x004, 9, 0⟩
/-- `OUT_FIFO_LEVEL` (RO, 08_scanout.md, after R195): present fill. -/
def OUT_FIFO_LEVEL : Fld := ⟨0x08C, 0x004, 31, 0⟩
def OUT_FIFO_LEVEL_fill : Fld := ⟨0x08C, 0x004, 17, 0⟩
/-- `OUT_LT_STATUS` (RO, 08_scanout.md, after R195): tolerance, urgent, panic. -/
def OUT_LT_STATUS : Fld := ⟨0x090, 0x004, 31, 0⟩
def OUT_LT_STATUS_tolerance : Fld := ⟨0x090, 0x004, 15, 0⟩
def OUT_LT_STATUS_urgent : Fld := ⟨0x090, 0x004, 16, 16⟩
def OUT_LT_STATUS_panic : Fld := ⟨0x090, 0x004, 17, 17⟩
/-- `OUT_FIFO_CAPS` (RO, 08_scanout.md, after R195): capacity. -/
def OUT_FIFO_CAPS : Fld := ⟨0x094, 0x004, 31, 0⟩
def OUT_FIFO_CAPS_capacity : Fld := ⟨0x094, 0x004, 17, 0⟩

/-- `OUT_FMT_CTRL` (RW, 09_output_links.md, after R205): DSC enable, target, slices. -/
def OUT_FMT_CTRL : Fld := ⟨0x080, 0x004, 31, 0⟩
def OUT_FMT_CTRL_dsc_en : Fld := ⟨0x080, 0x004, 0, 0⟩
def OUT_FMT_CTRL_bpp_x16 : Fld := ⟨0x080, 0x004, 13, 4⟩
def OUT_FMT_CTRL_slices : Fld := ⟨0x080, 0x004, 17, 16⟩

/-- `OUT_LNK_CTRL` (RW, 09_output_links.md, after R205): port enable, protocol, retrain. -/
def OUT_LNK_CTRL : Fld := ⟨0x080, 0x004, 31, 0⟩
def OUT_LNK_CTRL_port_en : Fld := ⟨0x080, 0x004, 0, 0⟩
def OUT_LNK_CTRL_proto : Fld := ⟨0x080, 0x004, 2, 1⟩
def OUT_LNK_CTRL_ssc_en : Fld := ⟨0x080, 0x004, 3, 3⟩
def OUT_LNK_CTRL_retrain : Fld := ⟨0x080, 0x004, 31, 31⟩
/-- `OUT_LINK_LIMITS` (RW, 09_output_links.md, after R205): range-check limits. -/
def OUT_LINK_LIMITS : Fld := ⟨0x084, 0x004, 31, 0⟩
def OUT_LINK_LIMITS_cable_max : Fld := ⟨0x084, 0x004, 8, 0⟩
def OUT_LINK_LIMITS_min_lanes : Fld := ⟨0x084, 0x004, 14, 12⟩
def OUT_LINK_LIMITS_min_rate : Fld := ⟨0x084, 0x004, 19, 16⟩
/-- `OUT_LNK_STATUS` (RO, 09_output_links.md, after R205): state, rate, lanes, partner. -/
def OUT_LNK_STATUS : Fld := ⟨0x088, 0x004, 31, 0⟩
def OUT_LNK_STATUS_state : Fld := ⟨0x088, 0x004, 2, 0⟩
def OUT_LNK_STATUS_rate : Fld := ⟨0x088, 0x004, 7, 4⟩
def OUT_LNK_STATUS_lanes : Fld := ⟨0x088, 0x004, 10, 8⟩
def OUT_LNK_STATUS_present : Fld := ⟨0x088, 0x004, 16, 16⟩
def OUT_LNK_STATUS_adaptive_sync : Fld := ⟨0x088, 0x004, 17, 17⟩
def OUT_LNK_STATUS_dsc_sink : Fld := ⟨0x088, 0x004, 18, 18⟩
/-- `OUT_LNK_CABLE` (RO, 09_output_links.md, after R205): measured length. -/
def OUT_LNK_CABLE : Fld := ⟨0x08C, 0x004, 31, 0⟩
def OUT_LNK_CABLE_length : Fld := ⟨0x08C, 0x004, 8, 0⟩
def OUT_LNK_CABLE_valid : Fld := ⟨0x08C, 0x004, 31, 31⟩
/-- `OUT_LNK_SINK_VRR` (RO, 09_output_links.md, after R205): declared refresh range. -/
def OUT_LNK_SINK_VRR : Fld := ⟨0x090, 0x004, 31, 0⟩
def OUT_LNK_SINK_VRR_min_hz : Fld := ⟨0x090, 0x004, 7, 0⟩
def OUT_LNK_SINK_VRR_max_hz : Fld := ⟨0x090, 0x004, 15, 8⟩
/-- `OUT_LNK_CAUSE` (RO, 09_output_links.md, after R205): cause of the last LINK_EVENT. -/
def OUT_LNK_CAUSE : Fld := ⟨0x094, 0x004, 31, 0⟩
def OUT_LNK_CAUSE_cause : Fld := ⟨0x094, 0x004, 3, 0⟩
/-- `OUT_LNK_DISC` (RO, 09_output_links.md, after R205): discovery record: DPCD 0x00000 to 0x000FF at 0x400; EDID or DisplayID bytes 0 to 767 at 0x500. -/
def OUT_LNK_DISC : Fld := ⟨0x400, 0x004, 31, 0⟩

/-- `CAP_CTRL` (RW, 09_output_links.md, after R210): enable, lanes, channel, type, mirror. -/
def CAP_CTRL : Fld := ⟨0x080, 0x004, 31, 0⟩
def CAP_CTRL_en : Fld := ⟨0x080, 0x004, 0, 0⟩
def CAP_CTRL_lanes : Fld := ⟨0x080, 0x004, 2, 1⟩
def CAP_CTRL_vc : Fld := ⟨0x080, 0x004, 7, 4⟩
def CAP_CTRL_dt : Fld := ⟨0x080, 0x004, 9, 8⟩
def CAP_CTRL_mirror_en : Fld := ⟨0x080, 0x004, 12, 12⟩
/-- `CAP_GEOM` (RW, 09_output_links.md, after R210): width and height. -/
def CAP_GEOM : Fld := ⟨0x084, 0x004, 31, 0⟩
def CAP_GEOM_width : Fld := ⟨0x084, 0x004, 13, 0⟩
def CAP_GEOM_height : Fld := ⟨0x084, 0x004, 28, 16⟩
/-- `CAP_STRIDE` (RW, 09_output_links.md, after R210): ring stride. -/
def CAP_STRIDE : Fld := ⟨0x088, 0x004, 31, 0⟩
def CAP_STRIDE_stride : Fld := ⟨0x088, 0x004, 11, 0⟩
/-- `CAP_RING` (RW, 09_output_links.md, after R210): ring base and slots. -/
def CAP_RING : Fld := ⟨0x08C, 0x004, 31, 0⟩
def CAP_RING_base : Fld := ⟨0x08C, 0x004, 19, 0⟩
def CAP_RING_slots : Fld := ⟨0x08C, 0x004, 26, 24⟩
/-- `CAP_MIRROR_LO` (RW, 09_output_links.md, after R210): mirror address [31:6]. -/
def CAP_MIRROR_LO : Fld := ⟨0x090, 0x004, 31, 0⟩
def CAP_MIRROR_LO_addr : Fld := ⟨0x090, 0x004, 31, 6⟩
/-- `CAP_MIRROR_HI` (RW, 09_output_links.md, after R210): mirror address [39:32]. -/
def CAP_MIRROR_HI : Fld := ⟨0x094, 0x004, 31, 0⟩
def CAP_MIRROR_HI_addr_hi : Fld := ⟨0x094, 0x004, 7, 0⟩
/-- `CAP_STATUS` (RO, 09_output_links.md, after R210): slot, line, frame count. -/
def CAP_STATUS : Fld := ⟨0x098, 0x004, 31, 0⟩
def CAP_STATUS_slot : Fld := ⟨0x098, 0x004, 2, 0⟩
def CAP_STATUS_line : Fld := ⟨0x098, 0x004, 15, 3⟩
def CAP_STATUS_frame : Fld := ⟨0x098, 0x004, 31, 16⟩

/-- `GNG_CTRL` (RWL, 09_output_links.md, after R217): enable, device number, master, reference output. -/
def GNG_CTRL : Fld := ⟨0x080, 0x004, 31, 0⟩
def GNG_CTRL_en : Fld := ⟨0x080, 0x004, 0, 0⟩
def GNG_CTRL_device : Fld := ⟨0x080, 0x004, 2, 1⟩
def GNG_CTRL_master : Fld := ⟨0x080, 0x004, 3, 3⟩
def GNG_CTRL_ref_out : Fld := ⟨0x080, 0x004, 6, 4⟩
/-- `GNG_STATUS` (RO, 09_output_links.md, after R217): presence, exclusion, sync. -/
def GNG_STATUS : Fld := ⟨0x084, 0x004, 31, 0⟩
def GNG_STATUS_present : Fld := ⟨0x084, 0x004, 3, 0⟩
def GNG_STATUS_excluded : Fld := ⟨0x084, 0x004, 7, 4⟩
def GNG_STATUS_sync : Fld := ⟨0x084, 0x004, 8, 8⟩
def GNG_STATUS_self_excluded : Fld := ⟨0x084, 0x004, 9, 9⟩
/-- `GNG_FRAME` (RO, 09_output_links.md, after R217): syndicate frame number. -/
def GNG_FRAME : Fld := ⟨0x088, 0x004, 31, 0⟩
def GNG_FRAME_frame : Fld := ⟨0x088, 0x004, 31, 0⟩

/-- `MEM_CFG` (RWL, 10_memory.md, after R249): rate, ranks, density, DBI. -/
def MEM_CFG : Fld := ⟨0x080, 0x004, 31, 0⟩
def MEM_CFG_rate : Fld := ⟨0x080, 0x004, 3, 0⟩
def MEM_CFG_ranks : Fld := ⟨0x080, 0x004, 4, 4⟩
def MEM_CFG_density : Fld := ⟨0x080, 0x004, 6, 5⟩
def MEM_CFG_dbi_rd : Fld := ⟨0x080, 0x004, 8, 8⟩
def MEM_CFG_dbi_wr : Fld := ⟨0x080, 0x004, 9, 9⟩
/-- `MEM_CTRL` (RWL, 10_memory.md, after R249): init, strict. -/
def MEM_CTRL : Fld := ⟨0x084, 0x004, 31, 0⟩
def MEM_CTRL_init : Fld := ⟨0x084, 0x004, 0, 0⟩
def MEM_CTRL_strict : Fld := ⟨0x084, 0x004, 4, 4⟩
/-- `MEM_STATUS` (RO, 10_memory.md, after R249): state, power state, failed channels. -/
def MEM_STATUS : Fld := ⟨0x088, 0x004, 31, 0⟩
def MEM_STATUS_state : Fld := ⟨0x088, 0x004, 2, 0⟩
def MEM_STATUS_power : Fld := ⟨0x088, 0x004, 6, 4⟩
def MEM_STATUS_failed_ch : Fld := ⟨0x088, 0x004, 31, 16⟩
/-- `MEM_PWR` (RW, 10_memory.md, after R249): sleep enables and margins. -/
def MEM_PWR : Fld := ⟨0x08C, 0x004, 31, 0⟩
def MEM_PWR_sr_en : Fld := ⟨0x08C, 0x004, 0, 0⟩
def MEM_PWR_ds_en : Fld := ⟨0x08C, 0x004, 1, 1⟩
def MEM_PWR_sr_margin : Fld := ⟨0x08C, 0x004, 11, 4⟩
def MEM_PWR_ds_idle : Fld := ⟨0x08C, 0x004, 27, 16⟩
/-- `MEM_PWR_HOLD` (RW, 10_memory.md, after R249): deep-sleep holdoff. -/
def MEM_PWR_HOLD : Fld := ⟨0x090, 0x004, 31, 0⟩
def MEM_PWR_HOLD_holdoff : Fld := ⟨0x090, 0x004, 7, 0⟩
/-- `MEM_LT_MIN` (RO, 10_memory.md, after R249): minimum tolerance. -/
def MEM_LT_MIN : Fld := ⟨0x094, 0x004, 31, 0⟩
def MEM_LT_MIN_tolerance : Fld := ⟨0x094, 0x004, 15, 0⟩
def MEM_LT_MIN_port : Fld := ⟨0x094, 0x004, 19, 16⟩
/-- `MEM_CAP` (RO, 10_memory.md, after R249): measured capacity. -/
def MEM_CAP : Fld := ⟨0x098, 0x004, 31, 0⟩
def MEM_CAP_capacity : Fld := ⟨0x098, 0x004, 15, 0⟩
/-- `MEM_MAP0_LO` (RWL, 10_memory.md, after R249): mask over PA[37:6], m = 0 to 8. -/
def MEM_MAP0_LO : Fld := ⟨0x0A0, 0x008, 31, 0⟩
def MEM_MAP0_LO_mask : Fld := ⟨0x0A0, 0x008, 31, 0⟩
/-- `MEM_MAP1_LO` (RWL, 10_memory.md, after R249): mask over PA[37:6], m = 0 to 8. -/
def MEM_MAP1_LO : Fld := ⟨0x0A8, 0x008, 31, 0⟩
def MEM_MAP1_LO_mask : Fld := ⟨0x0A8, 0x008, 31, 0⟩
/-- `MEM_MAP2_LO` (RWL, 10_memory.md, after R249): mask over PA[37:6], m = 0 to 8. -/
def MEM_MAP2_LO : Fld := ⟨0x0B0, 0x008, 31, 0⟩
def MEM_MAP2_LO_mask : Fld := ⟨0x0B0, 0x008, 31, 0⟩
/-- `MEM_MAP3_LO` (RWL, 10_memory.md, after R249): mask over PA[37:6], m = 0 to 8. -/
def MEM_MAP3_LO : Fld := ⟨0x0B8, 0x008, 31, 0⟩
def MEM_MAP3_LO_mask : Fld := ⟨0x0B8, 0x008, 31, 0⟩
/-- `MEM_MAP4_LO` (RWL, 10_memory.md, after R249): mask over PA[37:6], m = 0 to 8. -/
def MEM_MAP4_LO : Fld := ⟨0x0C0, 0x008, 31, 0⟩
def MEM_MAP4_LO_mask : Fld := ⟨0x0C0, 0x008, 31, 0⟩
/-- `MEM_MAP5_LO` (RWL, 10_memory.md, after R249): mask over PA[37:6], m = 0 to 8. -/
def MEM_MAP5_LO : Fld := ⟨0x0C8, 0x008, 31, 0⟩
def MEM_MAP5_LO_mask : Fld := ⟨0x0C8, 0x008, 31, 0⟩
/-- `MEM_MAP6_LO` (RWL, 10_memory.md, after R249): mask over PA[37:6], m = 0 to 8. -/
def MEM_MAP6_LO : Fld := ⟨0x0D0, 0x008, 31, 0⟩
def MEM_MAP6_LO_mask : Fld := ⟨0x0D0, 0x008, 31, 0⟩
/-- `MEM_MAP7_LO` (RWL, 10_memory.md, after R249): mask over PA[37:6], m = 0 to 8. -/
def MEM_MAP7_LO : Fld := ⟨0x0D8, 0x008, 31, 0⟩
def MEM_MAP7_LO_mask : Fld := ⟨0x0D8, 0x008, 31, 0⟩
/-- `MEM_MAP8_LO` (RWL, 10_memory.md, after R249): mask over PA[37:6], m = 0 to 8. -/
def MEM_MAP8_LO : Fld := ⟨0x0E0, 0x008, 31, 0⟩
def MEM_MAP8_LO_mask : Fld := ⟨0x0E0, 0x008, 31, 0⟩
/-- `MEM_MAP_HI` (RWL, 10_memory.md, after R249): mask over PA[39:38]. -/
def MEM_MAP_HI : Fld := ⟨0x0A4, 0x008, 31, 0⟩
def MEM_MAP_HI_mask_hi : Fld := ⟨0x0A4, 0x008, 1, 0⟩

/-- `MEM_CH_CTRL` (RW, 10_memory.md, after R249): page policy. -/
def MEM_CH_CTRL : Fld := ⟨0x080, 0x004, 31, 0⟩
def MEM_CH_CTRL_policy : Fld := ⟨0x080, 0x004, 0, 0⟩
/-- `MEM_CH_PD_IDLE` (RW, 10_memory.md, after R249): power-down idle time. -/
def MEM_CH_PD_IDLE : Fld := ⟨0x084, 0x004, 31, 0⟩
def MEM_CH_PD_IDLE_idle : Fld := ⟨0x084, 0x004, 9, 0⟩
/-- `MEM_CH_STATUS` (RO, 10_memory.md, after R249): rates, credits, MR4. -/
def MEM_CH_STATUS : Fld := ⟨0x088, 0x004, 31, 0⟩
def MEM_CH_STATUS_rate_r0 : Fld := ⟨0x088, 0x004, 0, 0⟩
def MEM_CH_STATUS_rate_r1 : Fld := ⟨0x088, 0x004, 1, 1⟩
def MEM_CH_STATUS_credit_r0 : Fld := ⟨0x088, 0x004, 7, 4⟩
def MEM_CH_STATUS_credit_r1 : Fld := ⟨0x088, 0x004, 11, 8⟩
def MEM_CH_STATUS_mr4_r0 : Fld := ⟨0x088, 0x004, 20, 16⟩
def MEM_CH_STATUS_mr4_r1 : Fld := ⟨0x088, 0x004, 28, 24⟩

/-- `MEM_ECC_CTRL` (RWL, 10_memory.md, after R249): write-back. -/
def MEM_ECC_CTRL : Fld := ⟨0x080, 0x004, 31, 0⟩
def MEM_ECC_CTRL_wb_en : Fld := ⟨0x080, 0x004, 0, 0⟩
/-- `MEM_ECC_BASE` (RWL, 10_memory.md, after R249): region base, i = 0 to 7. -/
def MEM_ECC_BASE : Fld := ⟨0x0C0, 0x008, 31, 0⟩
def MEM_ECC_BASE_base : Fld := ⟨0x0C0, 0x008, 18, 0⟩
/-- `MEM_ECC_SIZE` (RWL, 10_memory.md, after R249): region size. -/
def MEM_ECC_SIZE : Fld := ⟨0x0C4, 0x008, 31, 0⟩
def MEM_ECC_SIZE_size : Fld := ⟨0x0C4, 0x008, 15, 0⟩

/-- `MEM_RT` (RO, 10_memory.md, after R249): port n, 0 to 10: tolerance [15:0] in 100 ns units, 0xFFFF unlimited; urgent [16]; panic [17]. -/
def MEM_RT : Fld := ⟨0x080, 0x004, 31, 0⟩
def MEM_RT_tolerance : Fld := ⟨0x080, 0x004, 15, 0⟩
def MEM_RT_urgent : Fld := ⟨0x080, 0x004, 16, 16⟩
def MEM_RT_panic : Fld := ⟨0x080, 0x004, 17, 17⟩

/-- `MEM_RSV_RATE` (RO, 10_memory.md, after R249): owner a, 0 to 32: rate [15:0], units of 10 MB/s. -/
def MEM_RSV_RATE : Fld := ⟨0x080, 0x008, 31, 0⟩
def MEM_RSV_RATE_rate : Fld := ⟨0x080, 0x008, 15, 0⟩
/-- `MEM_RSV_DEPTH` (RO, 10_memory.md, after R249): depth [11:0], KiB, 1 to 4,095. -/
def MEM_RSV_DEPTH : Fld := ⟨0x084, 0x008, 31, 0⟩
def MEM_RSV_DEPTH_depth : Fld := ⟨0x084, 0x008, 11, 0⟩

/-- `MEM_STRICT_SLOT` (RO, 10_memory.md, after R249): entries 4j to 4j + 3 in [5:0], [13:8], [21:16], [29:24]: 0 to 31 account, 32 Custodian, 63 idle. -/
def MEM_STRICT_SLOT : Fld := ⟨0x080, 0x004, 31, 0⟩
/-- `MEM_STRICT_WIN` (RO, 10_memory.md, after R249): length [15:0] ns at the present rate; accesses [31:16] per window per channel at 2×. -/
def MEM_STRICT_WIN : Fld := ⟨0x0C0, 0x004, 31, 0⟩
def MEM_STRICT_WIN_length : Fld := ⟨0x0C0, 0x004, 15, 0⟩
def MEM_STRICT_WIN_accesses : Fld := ⟨0x0C0, 0x004, 31, 16⟩

/-- `MEM_BUCKET` (RO, 10_memory.md, after R249): bucket level of owner a, signed bytes. -/
def MEM_BUCKET : Fld := ⟨0x080, 0x004, 31, 0⟩

/-- `VLT_CTRL` (RW, 10_memory.md, after R249): scrub. -/
def VLT_CTRL : Fld := ⟨0x080, 0x004, 31, 0⟩
def VLT_CTRL_scrub_en : Fld := ⟨0x080, 0x004, 0, 0⟩
def VLT_CTRL_period : Fld := ⟨0x080, 0x004, 15, 8⟩
/-- `VLT_SPACE` (RO, 10_memory.md, after R249): reserved, free and retained space. -/
def VLT_SPACE : Fld := ⟨0x084, 0x004, 31, 0⟩
def VLT_SPACE_reserved : Fld := ⟨0x084, 0x004, 8, 0⟩
def VLT_SPACE_free : Fld := ⟨0x084, 0x004, 19, 10⟩
def VLT_SPACE_retained : Fld := ⟨0x084, 0x004, 29, 20⟩

/-- `VLT_BG_STATUS` (RO, 10_memory.md, after R249): bank states. -/
def VLT_BG_STATUS : Fld := ⟨0x080, 0x004, 31, 0⟩
def VLT_BG_STATUS_on : Fld := ⟨0x080, 0x004, 15, 0⟩

/-- `ACC_ID` (RO, 11_accounts.md, after R286): identity. -/
def ACC_ID : Fld := ⟨0x080, 0x004, 31, 0⟩
def ACC_ID_account : Fld := ⟨0x080, 0x004, 5, 0⟩
def ACC_ID_port : Fld := ⟨0x080, 0x004, 8, 8⟩
def ACC_ID_role : Fld := ⟨0x080, 0x004, 10, 9⟩
def ACC_ID_world : Fld := ⟨0x080, 0x004, 12, 12⟩
def ACC_ID_personality : Fld := ⟨0x080, 0x004, 13, 13⟩
/-- `ACC_STATE` (RO, 11_accounts.md, after R286): state and reset cause. -/
def ACC_STATE : Fld := ⟨0x084, 0x004, 31, 0⟩
def ACC_STATE_state : Fld := ⟨0x084, 0x004, 2, 0⟩
def ACC_STATE_reset_cause : Fld := ⟨0x084, 0x004, 10, 8⟩
def ACC_STATE_func_present : Fld := ⟨0x084, 0x004, 16, 16⟩
def ACC_STATE_d3 : Fld := ⟨0x084, 0x004, 17, 17⟩
/-- `ACC_PB_DOORBELL` (WO, 11_accounts.md, after R286): ring the manager. -/
def ACC_PB_DOORBELL : Fld := ⟨0x088, 0x004, 31, 0⟩
def ACC_PB_DOORBELL_ring : Fld := ⟨0x088, 0x004, 0, 0⟩
/-- `ACC_PB_PENDING` (W1C, 11_accounts.md, after R286): tenants that rang; manager pages. -/
def ACC_PB_PENDING : Fld := ⟨0x08C, 0x004, 31, 0⟩
def ACC_PB_PENDING_accounts : Fld := ⟨0x08C, 0x004, 31, 0⟩
/-- `ACC_PB_RING` (WO, 11_accounts.md, after R286): ring a tenant; manager pages. -/
def ACC_PB_RING : Fld := ⟨0x090, 0x004, 31, 0⟩
def ACC_PB_RING_account : Fld := ⟨0x090, 0x004, 5, 0⟩
/-- `ACC_EFX_TABLE` (RWE, 11_accounts.md, after R286): effect routine table offset. -/
def ACC_EFX_TABLE : Fld := ⟨0x094, 0x004, 31, 0⟩
def ACC_EFX_TABLE_offset : Fld := ⟨0x094, 0x004, 25, 6⟩
/-- `ACC_EFX_COUNT` (RWE, 11_accounts.md, after R286): effect routine table entries. -/
def ACC_EFX_COUNT : Fld := ⟨0x098, 0x004, 31, 0⟩
def ACC_EFX_COUNT_count : Fld := ⟨0x098, 0x004, 12, 0⟩
/-- `ACC_EVENT_Q` (RW, 11_accounts.md, after R286): event queue. -/
def ACC_EVENT_Q : Fld := ⟨0x09C, 0x004, 31, 0⟩
def ACC_EVENT_Q_queue : Fld := ⟨0x09C, 0x004, 7, 0⟩
def ACC_EVENT_Q_en : Fld := ⟨0x09C, 0x004, 31, 31⟩
/-- `ACC_GRANT_GEN` (RO, 11_accounts.md, after R286): grant generation. -/
def ACC_GRANT_GEN : Fld := ⟨0x0A0, 0x004, 31, 0⟩
def ACC_GRANT_GEN_gen : Fld := ⟨0x0A0, 0x004, 31, 0⟩

/-- `ACC_Q_DB` (WO, 11_accounts.md, after R286): [31:0] new tail or head, per R271. -/
def ACC_Q_DB : Fld := ⟨0x800, 0x008, 31, 0⟩

/-- `ACC_Q_BASE_LO` (RW, 11_accounts.md, after R286): [31:6] ring address or vault offset. -/
def ACC_Q_BASE_LO : Fld := ⟨0x800, 0x010, 31, 0⟩
def ACC_Q_BASE_LO_addr : Fld := ⟨0x800, 0x010, 31, 6⟩
/-- `ACC_Q_BASE_HI` (RW, 11_accounts.md, after R286): [7:0] address bits [39:32]; vault: 0. -/
def ACC_Q_BASE_HI : Fld := ⟨0x804, 0x010, 31, 0⟩
def ACC_Q_BASE_HI_addr_hi : Fld := ⟨0x804, 0x010, 7, 0⟩
/-- `ACC_Q_CTRL` (RW, 11_accounts.md, after R286): enable, type, space, size, completion queue. -/
def ACC_Q_CTRL : Fld := ⟨0x808, 0x010, 31, 0⟩
def ACC_Q_CTRL_en : Fld := ⟨0x808, 0x010, 0, 0⟩
def ACC_Q_CTRL_type : Fld := ⟨0x808, 0x010, 3, 1⟩
def ACC_Q_CTRL_space : Fld := ⟨0x808, 0x010, 4, 4⟩
def ACC_Q_CTRL_log2size : Fld := ⟨0x808, 0x010, 12, 8⟩
def ACC_Q_CTRL_cq : Fld := ⟨0x808, 0x010, 23, 16⟩
/-- `ACC_Q_INT` (RW, 11_accounts.md, after R286): interrupt moderation. -/
def ACC_Q_INT : Fld := ⟨0x80C, 0x010, 31, 0⟩
def ACC_Q_INT_vector : Fld := ⟨0x80C, 0x010, 5, 0⟩
def ACC_Q_INT_irq_en : Fld := ⟨0x80C, 0x010, 7, 7⟩
def ACC_Q_INT_count : Fld := ⟨0x80C, 0x010, 15, 8⟩
def ACC_Q_INT_time_us : Fld := ⟨0x80C, 0x010, 25, 16⟩

/-- `ACC_Q_LOST` (RO, 11_accounts.md, after R286): entries dropped, saturating. -/
def ACC_Q_LOST : Fld := ⟨0x400, 0x004, 31, 0⟩
/-- `ACC_Q_HEAD` (RO, 11_accounts.md, after R286): head index. -/
def ACC_Q_HEAD : Fld := ⟨0x800, 0x008, 31, 0⟩
/-- `ACC_Q_TAIL` (RO, 11_accounts.md, after R286): tail index. -/
def ACC_Q_TAIL : Fld := ⟨0x804, 0x008, 31, 0⟩

/-- `NS_TX_SEND` (WO, 11_accounts.md, after R286): deposit. -/
def NS_TX_SEND : Fld := ⟨0x080, 0x004, 31, 0⟩
def NS_TX_SEND_dest : Fld := ⟨0x080, 0x004, 0, 0⟩
/-- `NS_TX_STATUS` (W1C, 11_accounts.md, after R286): error response. -/
def NS_TX_STATUS : Fld := ⟨0x084, 0x004, 31, 0⟩
def NS_TX_STATUS_off_error : Fld := ⟨0x084, 0x004, 0, 0⟩
/-- `NS_RX_SEL` (RW, 11_accounts.md, after R286): incoming channel. -/
def NS_RX_SEL : Fld := ⟨0x088, 0x004, 31, 0⟩
def NS_RX_SEL_channel : Fld := ⟨0x088, 0x004, 0, 0⟩
/-- `NS_RX_STATUS` (RO, 11_accounts.md, after R286): count and DROPPED. -/
def NS_RX_STATUS : Fld := ⟨0x08C, 0x004, 31, 0⟩
def NS_RX_STATUS_count : Fld := ⟨0x08C, 0x004, 4, 0⟩
def NS_RX_STATUS_dropped : Fld := ⟨0x08C, 0x004, 31, 16⟩
/-- `NS_RX_TAKE` (WO, 11_accounts.md, after R286): free the oldest slot. -/
def NS_RX_TAKE : Fld := ⟨0x090, 0x004, 31, 0⟩
def NS_RX_TAKE_take : Fld := ⟨0x090, 0x004, 0, 0⟩
def NS_RX_TAKE_clr_dropped : Fld := ⟨0x090, 0x004, 31, 31⟩
/-- `NS_TX_DATA` (RW, 11_accounts.md, after R286): message to send. -/
def NS_TX_DATA : Fld := ⟨0x100, 0x004, 31, 0⟩
/-- `NS_RX_DATA` (RO, 11_accounts.md, after R286): oldest message of the selected channel. -/
def NS_RX_DATA : Fld := ⟨0x200, 0x004, 31, 0⟩

/-- `HST_PORT_STATUS` (RO, 11_accounts.md, after R286): speed [2:0] (3: 8 GT/s 4: 16 GT/s 5: 32 GT/s); width [9:4]; link up [12]; NumVFs [20:16]. -/
def HST_PORT_STATUS : Fld := ⟨0x080, 0x004, 31, 0⟩
def HST_PORT_STATUS_speed : Fld := ⟨0x080, 0x004, 2, 0⟩
def HST_PORT_STATUS_width : Fld := ⟨0x080, 0x004, 9, 4⟩
def HST_PORT_STATUS_link_up : Fld := ⟨0x080, 0x004, 12, 12⟩
def HST_PORT_STATUS_numvfs : Fld := ⟨0x080, 0x004, 20, 16⟩

/-- `HST_CE_STATUS` (RO, 11_accounts.md, after R286): engine j of the page: busy [0]; account [13:8]; local queue [23:16]. -/
def HST_CE_STATUS : Fld := ⟨0x080, 0x020, 31, 0⟩
def HST_CE_STATUS_busy : Fld := ⟨0x080, 0x020, 0, 0⟩
def HST_CE_STATUS_account : Fld := ⟨0x080, 0x020, 13, 8⟩
def HST_CE_STATUS_queue : Fld := ⟨0x080, 0x020, 23, 16⟩

/-- `HST_CE_TURN` (RWL, 11_accounts.md, after R286): us [9:0], strict-mode turn, 1 to 1,023 µs. -/
def HST_CE_TURN : Fld := ⟨0x0C0, 0x004, 31, 0⟩
def HST_CE_TURN_us : Fld := ⟨0x0C0, 0x004, 9, 0⟩

/-- `CUS_BOOT_STATUS` (RO, 12_custodian_and_ledger.md, after R310): boot stage and result. -/
def CUS_BOOT_STATUS : Fld := ⟨0x080, 0x004, 31, 0⟩
def CUS_BOOT_STATUS_stage : Fld := ⟨0x080, 0x004, 3, 0⟩
def CUS_BOOT_STATUS_result : Fld := ⟨0x080, 0x004, 11, 8⟩
def CUS_BOOT_STATUS_slot : Fld := ⟨0x080, 0x004, 12, 12⟩
def CUS_BOOT_STATUS_plan : Fld := ⟨0x080, 0x004, 17, 16⟩
/-- `CUS_FW_VERSION` (RO, 12_custodian_and_ledger.md, after R310): image version, rollback counter. -/
def CUS_FW_VERSION : Fld := ⟨0x084, 0x004, 31, 0⟩
def CUS_FW_VERSION_version : Fld := ⟨0x084, 0x004, 15, 0⟩
def CUS_FW_VERSION_rollback : Fld := ⟨0x084, 0x004, 23, 16⟩
/-- `CUS_LIFECYCLE` (RO, 12_custodian_and_ledger.md, after R310): state, recovery, test access. -/
def CUS_LIFECYCLE : Fld := ⟨0x088, 0x004, 31, 0⟩
def CUS_LIFECYCLE_state : Fld := ⟨0x088, 0x004, 2, 0⟩
def CUS_LIFECYCLE_recovered : Fld := ⟨0x088, 0x004, 3, 3⟩
def CUS_LIFECYCLE_tap : Fld := ⟨0x088, 0x004, 5, 4⟩
/-- `CUS_ISOLATION` (RO, 12_custodian_and_ledger.md, after R310): mode, locks, promise. -/
def CUS_ISOLATION : Fld := ⟨0x08C, 0x004, 31, 0⟩
def CUS_ISOLATION_strict : Fld := ⟨0x08C, 0x004, 0, 0⟩
def CUS_ISOLATION_worlds_locked : Fld := ⟨0x08C, 0x004, 1, 1⟩
def CUS_ISOLATION_plan_locked : Fld := ⟨0x08C, 0x004, 2, 2⟩
def CUS_ISOLATION_inject_perm : Fld := ⟨0x08C, 0x004, 3, 3⟩
def CUS_ISOLATION_promise : Fld := ⟨0x08C, 0x004, 4, 4⟩
/-- `CUS_TRUSTED` (RO, 12_custodian_and_ledger.md, after R310): trusted-world accounts. -/
def CUS_TRUSTED : Fld := ⟨0x090, 0x004, 31, 0⟩
def CUS_TRUSTED_accounts : Fld := ⟨0x090, 0x004, 31, 0⟩

/-- `CUS_FW_DRAM_BASE` (RO, 12_custodian_and_ledger.md, after R310): world region i, 0 to 63. -/
def CUS_FW_DRAM_BASE : Fld := ⟨0x080, 0x008, 31, 0⟩
def CUS_FW_DRAM_BASE_base : Fld := ⟨0x080, 0x008, 23, 0⟩
/-- `CUS_FW_DRAM_SIZE` (RO, 12_custodian_and_ledger.md, after R310): size and world. -/
def CUS_FW_DRAM_SIZE : Fld := ⟨0x084, 0x008, 31, 0⟩
def CUS_FW_DRAM_SIZE_size : Fld := ⟨0x084, 0x008, 23, 0⟩
def CUS_FW_DRAM_SIZE_world : Fld := ⟨0x084, 0x008, 31, 31⟩

/-- `CUS_FW_VLT_BASE` (RO, 12_custodian_and_ledger.md, after R310): world region i, 0 to 31. -/
def CUS_FW_VLT_BASE : Fld := ⟨0x080, 0x008, 31, 0⟩
def CUS_FW_VLT_BASE_base : Fld := ⟨0x080, 0x008, 23, 0⟩
/-- `CUS_FW_VLT_SIZE` (RO, 12_custodian_and_ledger.md, after R310): size and world. -/
def CUS_FW_VLT_SIZE : Fld := ⟨0x084, 0x008, 31, 0⟩
def CUS_FW_VLT_SIZE_size : Fld := ⟨0x084, 0x008, 23, 0⟩
def CUS_FW_VLT_SIZE_world : Fld := ⟨0x084, 0x008, 31, 31⟩

/-- `CUS_ACC_RGN_BASE` (RO, 12_custodian_and_ledger.md, after R310): region r, 0 to 11, of account a. -/
def CUS_ACC_RGN_BASE : Fld := ⟨0x080, 0x008, 31, 0⟩
def CUS_ACC_RGN_BASE_base : Fld := ⟨0x080, 0x008, 23, 0⟩
/-- `CUS_ACC_RGN_SIZE` (RO, 12_custodian_and_ledger.md, after R310): size and permission. -/
def CUS_ACC_RGN_SIZE : Fld := ⟨0x084, 0x008, 31, 0⟩
def CUS_ACC_RGN_SIZE_size : Fld := ⟨0x084, 0x008, 23, 0⟩
def CUS_ACC_RGN_SIZE_perm : Fld := ⟨0x084, 0x008, 29, 28⟩

/-- `LDG_EXP_CTRL` (RW, 12_custodian_and_ledger.md, after R310): export enable and size. -/
def LDG_EXP_CTRL : Fld := ⟨0x080, 0x004, 31, 0⟩
def LDG_EXP_CTRL_en : Fld := ⟨0x080, 0x004, 0, 0⟩
def LDG_EXP_CTRL_log2size : Fld := ⟨0x080, 0x004, 20, 16⟩
/-- `LDG_EXP_BASE_LO` (RW, 12_custodian_and_ledger.md, after R310): address [31:6]. -/
def LDG_EXP_BASE_LO : Fld := ⟨0x084, 0x004, 31, 0⟩
def LDG_EXP_BASE_LO_addr : Fld := ⟨0x084, 0x004, 31, 6⟩
/-- `LDG_EXP_BASE_HI` (RW, 12_custodian_and_ledger.md, after R310): address [39:32]. -/
def LDG_EXP_BASE_HI : Fld := ⟨0x088, 0x004, 31, 0⟩
def LDG_EXP_BASE_HI_addr_hi : Fld := ⟨0x088, 0x004, 7, 0⟩
/-- `LDG_EXP_HEAD` (RW, 12_custodian_and_ledger.md, after R310): entries consumed by A0. -/
def LDG_EXP_HEAD : Fld := ⟨0x08C, 0x004, 31, 0⟩
/-- `LDG_EXP_TAIL` (RO, 12_custodian_and_ledger.md, after R310): entries exported. -/
def LDG_EXP_TAIL : Fld := ⟨0x090, 0x004, 31, 0⟩
/-- `LDG_STATUS` (RO, 12_custodian_and_ledger.md, after R310): occupancy, refusal, held entries. -/
def LDG_STATUS : Fld := ⟨0x094, 0x004, 31, 0⟩
def LDG_STATUS_occupancy : Fld := ⟨0x094, 0x004, 16, 0⟩
def LDG_STATUS_open_refusing : Fld := ⟨0x094, 0x004, 17, 17⟩
def LDG_STATUS_trusted_refusing : Fld := ⟨0x094, 0x004, 18, 18⟩
def LDG_STATUS_held : Fld := ⟨0x094, 0x004, 30, 20⟩
/-- `LDG_SEQ` (RO, 12_custodian_and_ledger.md, after R310): sequence of the next entry. -/
def LDG_SEQ : Fld := ⟨0x098, 0x004, 31, 0⟩
/-- `LDG_REFUSED` (RO, 12_custodian_and_ledger.md, after R310): open-world changes refused in the present span. -/
def LDG_REFUSED : Fld := ⟨0x09C, 0x004, 31, 0⟩

/-- `LDG_SEAL_COUNT` (RO, 12_custodian_and_ledger.md, after R310): seals written since boot. -/
def LDG_SEAL_COUNT : Fld := ⟨0x080, 0x004, 31, 0⟩
/-- `LDG_SEAL` (RO, 12_custodian_and_ledger.md, after R310): seal k mod 16, 32 words. -/
def LDG_SEAL : Fld := ⟨0x800, 0x004, 31, 0⟩

/-- `LDG_PUBKEY` (RO, 12_custodian_and_ledger.md, after R310): ledger public key, x then y, 48 bytes each. -/
def LDG_PUBKEY : Fld := ⟨0x080, 0x004, 31, 0⟩
/-- `LDG_UID` (RO, 12_custodian_and_ledger.md, after R310): 64-bit unique ID. -/
def LDG_UID : Fld := ⟨0x0E0, 0x004, 31, 0⟩

/-- `LDG_LAST` (RO, 12_custodian_and_ledger.md, after R310): copy of the last entry appended. -/
def LDG_LAST : Fld := ⟨0x080, 0x004, 31, 0⟩

/-- `FLT_ACTION0` (RW, 13_faults_and_checkers.md, after R331): open-class action masks. -/
def FLT_ACTION0 : Fld := ⟨0x080, 0x004, 31, 0⟩
def FLT_ACTION0_actions : Fld := ⟨0x080, 0x004, 5, 0⟩
/-- `FLT_ACTION1` (RW, 13_faults_and_checkers.md, after R331): open-class action masks. -/
def FLT_ACTION1 : Fld := ⟨0x084, 0x004, 31, 0⟩
def FLT_ACTION1_actions : Fld := ⟨0x084, 0x004, 5, 0⟩
/-- `FLT_ACTION2` (RW, 13_faults_and_checkers.md, after R331): open-class action masks. -/
def FLT_ACTION2 : Fld := ⟨0x088, 0x004, 31, 0⟩
def FLT_ACTION2_actions : Fld := ⟨0x088, 0x004, 5, 0⟩
/-- `FLT_ACTION3` (RW, 13_faults_and_checkers.md, after R331): open-class action masks. -/
def FLT_ACTION3 : Fld := ⟨0x08C, 0x004, 31, 0⟩
def FLT_ACTION3_actions : Fld := ⟨0x08C, 0x004, 5, 0⟩
/-- `FLT_COUNT` (RO, 13_faults_and_checkers.md, after R331): uncleared sources of class c, c = 0 to 7. -/
def FLT_COUNT : Fld := ⟨0x0A0, 0x004, 31, 0⟩
def FLT_COUNT_count : Fld := ⟨0x0A0, 0x004, 16, 0⟩
/-- `FLT_SCAN` (RO, 13_faults_and_checkers.md, after R331): scan count and duration. -/
def FLT_SCAN : Fld := ⟨0x0C0, 0x004, 31, 0⟩
def FLT_SCAN_scans : Fld := ⟨0x0C0, 0x004, 15, 0⟩
def FLT_SCAN_last : Fld := ⟨0x0C0, 0x004, 31, 16⟩

/-- `FLT_MAP` (RO, 13_faults_and_checkers.md, after R331): open-world pages with a set sticky bit, k = 0 to 127. -/
def FLT_MAP : Fld := ⟨0x080, 0x004, 31, 0⟩
def FLT_MAP_pages : Fld := ⟨0x080, 0x004, 31, 0⟩

/-- `FLT_TACTION` (RWL, 13_faults_and_checkers.md, after R331): trusted-class action masks. -/
def FLT_TACTION : Fld := ⟨0x080, 0x004, 31, 0⟩
def FLT_TACTION_actions : Fld := ⟨0x080, 0x004, 5, 0⟩
/-- `FLT_OUT_CTRL` (RWL, 13_faults_and_checkers.md, after R331): half-period. -/
def FLT_OUT_CTRL : Fld := ⟨0x090, 0x004, 31, 0⟩
def FLT_OUT_CTRL_half_period : Fld := ⟨0x090, 0x004, 9, 0⟩
/-- `FLT_HEARTBEAT` (WO, 13_faults_and_checkers.md, after R331): heartbeat. -/
def FLT_HEARTBEAT : Fld := ⟨0x094, 0x004, 31, 0⟩
def FLT_HEARTBEAT_seq : Fld := ⟨0x094, 0x004, 15, 0⟩
/-- `FLT_OUT_STATUS` (RO, 13_faults_and_checkers.md, after R331): pin state and stop causes. -/
def FLT_OUT_STATUS : Fld := ⟨0x098, 0x004, 31, 0⟩
def FLT_OUT_STATUS_level : Fld := ⟨0x098, 0x004, 0, 0⟩
def FLT_OUT_STATUS_alive : Fld := ⟨0x098, 0x004, 1, 1⟩
def FLT_OUT_STATUS_pin_fault : Fld := ⟨0x098, 0x004, 4, 4⟩
def FLT_OUT_STATUS_scan_late : Fld := ⟨0x098, 0x004, 5, 5⟩
def FLT_OUT_STATUS_hb_late : Fld := ⟨0x098, 0x004, 6, 6⟩
def FLT_OUT_STATUS_compat : Fld := ⟨0x098, 0x004, 8, 8⟩
/-- `FLT_SAFE_CTRL` (RW, 13_faults_and_checkers.md, after R331): forced safe state. -/
def FLT_SAFE_CTRL : Fld := ⟨0x09C, 0x004, 31, 0⟩
def FLT_SAFE_CTRL_force : Fld := ⟨0x09C, 0x004, 0, 0⟩
/-- `FLT_SAFE_STATUS` (RO, 13_faults_and_checkers.md, after R331): safe outputs and causes. -/
def FLT_SAFE_STATUS : Fld := ⟨0x0A0, 0x004, 31, 0⟩
def FLT_SAFE_STATUS_outputs : Fld := ⟨0x0A0, 0x004, 7, 0⟩
def FLT_SAFE_STATUS_device : Fld := ⟨0x0A0, 0x004, 8, 8⟩
def FLT_SAFE_STATUS_req_n : Fld := ⟨0x0A0, 0x004, 9, 9⟩
def FLT_SAFE_STATUS_forced : Fld := ⟨0x0A0, 0x004, 10, 10⟩
/-- `FLT_INJECT_PATTERN` (RWL, 13_faults_and_checkers.md, after R331): injection pattern. -/
def FLT_INJECT_PATTERN : Fld := ⟨0x0A4, 0x004, 31, 0⟩
def FLT_INJECT_PATTERN_pattern : Fld := ⟨0x0A4, 0x004, 1, 0⟩

/-- `FLT_TMAP` (RO, 13_faults_and_checkers.md, after R331): all pages with a set sticky bit. -/
def FLT_TMAP : Fld := ⟨0x080, 0x004, 31, 0⟩
def FLT_TMAP_pages : Fld := ⟨0x080, 0x004, 31, 0⟩

/-- `CHK_CTRL` (RW, 13_faults_and_checkers.md, after R331): enable, resume, point, polynomial. -/
def CHK_CTRL : Fld := ⟨0x080, 0x004, 31, 0⟩
def CHK_CTRL_en : Fld := ⟨0x080, 0x004, 0, 0⟩
def CHK_CTRL_resume : Fld := ⟨0x080, 0x004, 1, 1⟩
def CHK_CTRL_point : Fld := ⟨0x080, 0x004, 12, 8⟩
def CHK_CTRL_poly : Fld := ⟨0x080, 0x004, 17, 16⟩
/-- `CHK_BLOCK` (RW, 13_faults_and_checkers.md, after R331): TDM frame length. -/
def CHK_BLOCK : Fld := ⟨0x084, 0x004, 31, 0⟩
def CHK_BLOCK_periods : Fld := ⟨0x084, 0x004, 15, 0⟩
/-- `CHK_STATUS` (RO, 13_faults_and_checkers.md, after R331): active, frames checked. -/
def CHK_STATUS : Fld := ⟨0x088, 0x004, 31, 0⟩
def CHK_STATUS_active : Fld := ⟨0x088, 0x004, 0, 0⟩
def CHK_STATUS_frames : Fld := ⟨0x088, 0x004, 31, 16⟩
/-- `CHK_RESULT` (RO, 13_faults_and_checkers.md, after R331): last frame's mismatches and incomplete windows. -/
def CHK_RESULT : Fld := ⟨0x08C, 0x004, 31, 0⟩
def CHK_RESULT_mismatch : Fld := ⟨0x08C, 0x004, 15, 0⟩
def CHK_RESULT_incomplete : Fld := ⟨0x08C, 0x004, 31, 16⟩
/-- `CHK_WIN_CTRL` (RW, 13_faults_and_checkers.md, after R331): enable, valid expected values. -/
def CHK_WIN_CTRL : Fld := ⟨0x100, 0x040, 31, 0⟩
def CHK_WIN_CTRL_en : Fld := ⟨0x100, 0x040, 0, 0⟩
def CHK_WIN_CTRL_exp_valid : Fld := ⟨0x100, 0x040, 7, 4⟩
/-- `CHK_WIN_XY` (RW, 13_faults_and_checkers.md, after R331): origin. -/
def CHK_WIN_XY : Fld := ⟨0x104, 0x040, 31, 0⟩
def CHK_WIN_XY_x : Fld := ⟨0x104, 0x040, 13, 0⟩
def CHK_WIN_XY_y : Fld := ⟨0x104, 0x040, 28, 16⟩
/-- `CHK_WIN_WH` (RW, 13_faults_and_checkers.md, after R331): size. -/
def CHK_WIN_WH : Fld := ⟨0x108, 0x040, 31, 0⟩
def CHK_WIN_WH_w_m1 : Fld := ⟨0x108, 0x040, 13, 0⟩
def CHK_WIN_WH_h_m1 : Fld := ⟨0x108, 0x040, 28, 16⟩
/-- `CHK_WIN_MATCH` (RO, 13_faults_and_checkers.md, after R331): match of the last compare. -/
def CHK_WIN_MATCH : Fld := ⟨0x10C, 0x040, 31, 0⟩
def CHK_WIN_MATCH_index : Fld := ⟨0x10C, 0x040, 1, 0⟩
def CHK_WIN_MATCH_matched : Fld := ⟨0x10C, 0x040, 2, 2⟩
/-- `CHK_WIN_EXP0` (RW, 13_faults_and_checkers.md, after R331): expected values. -/
def CHK_WIN_EXP0 : Fld := ⟨0x110, 0x040, 31, 0⟩
/-- `CHK_WIN_EXP1` (RW, 13_faults_and_checkers.md, after R331): expected values. -/
def CHK_WIN_EXP1 : Fld := ⟨0x114, 0x040, 31, 0⟩
/-- `CHK_WIN_EXP2` (RW, 13_faults_and_checkers.md, after R331): expected values. -/
def CHK_WIN_EXP2 : Fld := ⟨0x118, 0x040, 31, 0⟩
/-- `CHK_WIN_EXP3` (RW, 13_faults_and_checkers.md, after R331): expected values. -/
def CHK_WIN_EXP3 : Fld := ⟨0x11C, 0x040, 31, 0⟩
/-- `CHK_WIN_RUN` (RW, 13_faults_and_checkers.md, after R331): running value. -/
def CHK_WIN_RUN : Fld := ⟨0x120, 0x040, 31, 0⟩
/-- `CHK_WIN_LAST` (RO, 13_faults_and_checkers.md, after R331): last final value. -/
def CHK_WIN_LAST : Fld := ⟨0x124, 0x040, 31, 0⟩

/-- `TCH_B_CTRL` (RW, 14_touch.md, after R347): enable, calibration, raw, shield, initial frequency. -/
def TCH_B_CTRL : Fld := ⟨0x080, 0x004, 31, 0⟩
def TCH_B_CTRL_en : Fld := ⟨0x080, 0x004, 0, 0⟩
def TCH_B_CTRL_cal_en : Fld := ⟨0x080, 0x004, 1, 1⟩
def TCH_B_CTRL_raw_en : Fld := ⟨0x080, 0x004, 2, 2⟩
def TCH_B_CTRL_shield_en : Fld := ⟨0x080, 0x004, 3, 3⟩
def TCH_B_CTRL_freq_init : Fld := ⟨0x080, 0x004, 10, 8⟩
/-- `TCH_B_SCAN` (RW, 14_touch.md, after R347): scan period and slot length. -/
def TCH_B_SCAN : Fld := ⟨0x084, 0x004, 31, 0⟩
def TCH_B_SCAN_period_us : Fld := ⟨0x084, 0x004, 13, 0⟩
def TCH_B_SCAN_slot_us : Fld := ⟨0x084, 0x004, 24, 16⟩
/-- `TCH_B_NOISE` (RW, 14_touch.md, after R347): hop threshold, allowed frequencies. -/
def TCH_B_NOISE : Fld := ⟨0x088, 0x004, 31, 0⟩
def TCH_B_NOISE_thresh : Fld := ⟨0x088, 0x004, 11, 0⟩
def TCH_B_NOISE_mask : Fld := ⟨0x088, 0x004, 23, 16⟩
def TCH_B_NOISE_hop_en : Fld := ⟨0x088, 0x004, 31, 31⟩
/-- `TCH_B_REPORT` (RW, 14_touch.md, after R347): report queue. -/
def TCH_B_REPORT : Fld := ⟨0x08C, 0x004, 31, 0⟩
def TCH_B_REPORT_queue : Fld := ⟨0x08C, 0x004, 7, 0⟩
def TCH_B_REPORT_en : Fld := ⟨0x08C, 0x004, 31, 31⟩
/-- `TCH_B_CAL_LO` (RW, 14_touch.md, after R347): table address [31:6]. -/
def TCH_B_CAL_LO : Fld := ⟨0x090, 0x004, 31, 0⟩
def TCH_B_CAL_LO_addr : Fld := ⟨0x090, 0x004, 31, 6⟩
/-- `TCH_B_CAL_HI` (RW, 14_touch.md, after R347): table address [39:32], space. -/
def TCH_B_CAL_HI : Fld := ⟨0x094, 0x004, 31, 0⟩
def TCH_B_CAL_HI_addr_hi : Fld := ⟨0x094, 0x004, 7, 0⟩
def TCH_B_CAL_HI_space : Fld := ⟨0x094, 0x004, 8, 8⟩
/-- `TCH_B_STATUS` (RO, 14_touch.md, after R347): frequency, scans. -/
def TCH_B_STATUS : Fld := ⟨0x098, 0x004, 31, 0⟩
def TCH_B_STATUS_freq : Fld := ⟨0x098, 0x004, 2, 0⟩
def TCH_B_STATUS_scanning : Fld := ⟨0x098, 0x004, 4, 4⟩
def TCH_B_STATUS_scans : Fld := ⟨0x098, 0x004, 31, 16⟩
/-- `TCH_B_REF` (RO, 14_touch.md, after R347): last reference conversion. -/
def TCH_B_REF : Fld := ⟨0x09C, 0x004, 31, 0⟩
def TCH_B_REF_count : Fld := ⟨0x09C, 0x004, 15, 0⟩
def TCH_B_REF_freq : Fld := ⟨0x09C, 0x004, 18, 16⟩
/-- `TCH_B_REF_FACTORY` (RO, 14_touch.md, after R347): factory reference count per frequency. -/
def TCH_B_REF_FACTORY : Fld := ⟨0x0A0, 0x004, 31, 0⟩
def TCH_B_REF_FACTORY_count : Fld := ⟨0x0A0, 0x004, 15, 0⟩
/-- `TCH_B_NOISE_LEVEL` (RO, 14_touch.md, after R347): filtered noise per frequency. -/
def TCH_B_NOISE_LEVEL : Fld := ⟨0x0C0, 0x004, 31, 0⟩
def TCH_B_NOISE_LEVEL_noise : Fld := ⟨0x0C0, 0x004, 11, 0⟩
/-- `TCH_B_CH_CFG` (RW, 14_touch.md, after R347): channel enable, mode, follower, hold. -/
def TCH_B_CH_CFG : Fld := ⟨0x100, 0x010, 31, 0⟩
def TCH_B_CH_CFG_en : Fld := ⟨0x100, 0x010, 0, 0⟩
def TCH_B_CH_CFG_mode : Fld := ⟨0x100, 0x010, 2, 1⟩
def TCH_B_CH_CFG_tau_s : Fld := ⟨0x100, 0x010, 13, 8⟩
def TCH_B_CH_CFG_hold_s : Fld := ⟨0x100, 0x010, 28, 16⟩
/-- `TCH_B_CH_THR` (RW, 14_touch.md, after R347): thresholds, debounce. -/
def TCH_B_CH_THR : Fld := ⟨0x104, 0x010, 31, 0⟩
def TCH_B_CH_THR_touch : Fld := ⟨0x104, 0x010, 11, 0⟩
def TCH_B_CH_THR_release : Fld := ⟨0x104, 0x010, 23, 12⟩
def TCH_B_CH_THR_debounce : Fld := ⟨0x104, 0x010, 27, 24⟩
/-- `TCH_B_CH_BASE` (RO, 14_touch.md, after R347): baseline and signal. -/
def TCH_B_CH_BASE : Fld := ⟨0x108, 0x010, 31, 0⟩
def TCH_B_CH_BASE_baseline : Fld := ⟨0x108, 0x010, 15, 0⟩
def TCH_B_CH_BASE_signal : Fld := ⟨0x108, 0x010, 31, 16⟩
/-- `TCH_B_CH_STATE` (RO, 14_touch.md, after R347): delta and state. -/
def TCH_B_CH_STATE : Fld := ⟨0x10C, 0x010, 31, 0⟩
def TCH_B_CH_STATE_delta : Fld := ⟨0x10C, 0x010, 15, 0⟩
def TCH_B_CH_STATE_touched : Fld := ⟨0x10C, 0x010, 16, 16⟩
def TCH_B_CH_STATE_recal : Fld := ⟨0x10C, 0x010, 17, 17⟩
def TCH_B_CH_STATE_stuck_wait : Fld := ⟨0x10C, 0x010, 18, 18⟩
def TCH_B_CH_STATE_at_start : Fld := ⟨0x10C, 0x010, 19, 19⟩
/-- `TCH_B_GRP_CFG` (RW, 14_touch.md, after R347): group. -/
def TCH_B_GRP_CFG : Fld := ⟨0x300, 0x008, 31, 0⟩
def TCH_B_GRP_CFG_en : Fld := ⟨0x300, 0x008, 0, 0⟩
def TCH_B_GRP_CFG_kind : Fld := ⟨0x300, 0x008, 1, 1⟩
def TCH_B_GRP_CFG_first : Fld := ⟨0x300, 0x008, 12, 8⟩
def TCH_B_GRP_CFG_count : Fld := ⟨0x300, 0x008, 20, 16⟩
def TCH_B_GRP_CFG_hyst : Fld := ⟨0x300, 0x008, 31, 24⟩
/-- `TCH_B_GRP_POS` (RO, 14_touch.md, after R347): position and speed. -/
def TCH_B_GRP_POS : Fld := ⟨0x304, 0x008, 31, 0⟩
def TCH_B_GRP_POS_pos : Fld := ⟨0x304, 0x008, 15, 0⟩
def TCH_B_GRP_POS_speed : Fld := ⟨0x304, 0x008, 31, 16⟩

/-- `HAP_CTRL` (RW, 15_haptics.md, after R362): enable, loop mode, source. -/
def HAP_CTRL : Fld := ⟨0x080, 0x004, 31, 0⟩
def HAP_CTRL_en : Fld := ⟨0x080, 0x004, 0, 0⟩
def HAP_CTRL_mode : Fld := ⟨0x080, 0x004, 1, 1⟩
def HAP_CTRL_src : Fld := ⟨0x080, 0x004, 2, 2⟩
def HAP_CTRL_col : Fld := ⟨0x080, 0x004, 13, 8⟩
/-- `HAP_PWM` (RW, 15_haptics.md, after R362): PWM frequency, dead time. -/
def HAP_PWM : Fld := ⟨0x084, 0x004, 31, 0⟩
def HAP_PWM_freq_khz : Fld := ⟨0x084, 0x004, 7, 0⟩
def HAP_PWM_dead : Fld := ⟨0x084, 0x004, 22, 16⟩
/-- `HAP_RES` (RW, 15_haptics.md, after R362): resonance range. -/
def HAP_RES : Fld := ⟨0x088, 0x004, 31, 0⟩
def HAP_RES_f_min : Fld := ⟨0x088, 0x004, 9, 0⟩
def HAP_RES_f_max : Fld := ⟨0x088, 0x004, 25, 16⟩
def HAP_RES_track_en : Fld := ⟨0x088, 0x004, 31, 31⟩
/-- `HAP_SENSE` (RW, 15_haptics.md, after R362): sense gap. -/
def HAP_SENSE : Fld := ⟨0x08C, 0x004, 31, 0⟩
def HAP_SENSE_gap_us : Fld := ⟨0x08C, 0x004, 7, 0⟩
/-- `HAP_OL` (RW, 15_haptics.md, after R362): overdrive and brake. -/
def HAP_OL : Fld := ⟨0x090, 0x004, 31, 0⟩
def HAP_OL_od_cycles : Fld := ⟨0x090, 0x004, 3, 0⟩
def HAP_OL_brake_cycles : Fld := ⟨0x090, 0x004, 7, 4⟩
def HAP_OL_od_level : Fld := ⟨0x090, 0x004, 17, 8⟩
/-- `HAP_CL` (RW, 15_haptics.md, after R362): loop gains, target scale. -/
def HAP_CL : Fld := ⟨0x094, 0x004, 31, 0⟩
def HAP_CL_kp : Fld := ⟨0x094, 0x004, 7, 0⟩
def HAP_CL_ki : Fld := ⟨0x094, 0x004, 15, 8⟩
def HAP_CL_target_fs : Fld := ⟨0x094, 0x004, 27, 16⟩
/-- `HAP_ACC` (RW, 15_haptics.md, after R362): accelerometer. -/
def HAP_ACC : Fld := ⟨0x098, 0x004, 31, 0⟩
def HAP_ACC_spi : Fld := ⟨0x098, 0x004, 0, 0⟩
def HAP_ACC_cs : Fld := ⟨0x098, 0x004, 3, 1⟩
def HAP_ACC_cmd : Fld := ⟨0x098, 0x004, 15, 8⟩
def HAP_ACC_range : Fld := ⟨0x098, 0x004, 30, 16⟩
/-- `HAP_ACC_SCALE` (RW, 15_haptics.md, after R362): accelerometer scale. -/
def HAP_ACC_SCALE : Fld := ⟨0x09C, 0x004, 31, 0⟩
def HAP_ACC_SCALE_counts_per_g : Fld := ⟨0x09C, 0x004, 15, 0⟩
/-- `HAP_ACT` (RW, 15_haptics.md, after R362): induced-voltage constant. -/
def HAP_ACT : Fld := ⟨0x0A0, 0x004, 31, 0⟩
def HAP_ACT_kv : Fld := ⟨0x0A0, 0x004, 15, 0⟩
/-- `HAP_THERM` (RW, 15_haptics.md, after R362): thermal model. -/
def HAP_THERM : Fld := ⟨0x0A4, 0x004, 31, 0⟩
def HAP_THERM_rth : Fld := ⟨0x0A4, 0x004, 11, 0⟩
def HAP_THERM_tau_s : Fld := ⟨0x0A4, 0x004, 23, 16⟩
def HAP_THERM_rise_max : Fld := ⟨0x0A4, 0x004, 31, 24⟩
/-- `HAP_LIB` (RW, 15_haptics.md, after R362): effect table offset. -/
def HAP_LIB : Fld := ⟨0x0A8, 0x004, 31, 0⟩
def HAP_LIB_offset : Fld := ⟨0x0A8, 0x004, 25, 6⟩
/-- `HAP_LIB_COUNT` (RW, 15_haptics.md, after R362): effect table entries. -/
def HAP_LIB_COUNT : Fld := ⟨0x0AC, 0x004, 31, 0⟩
def HAP_LIB_COUNT_count : Fld := ⟨0x0AC, 0x004, 7, 0⟩
/-- `HAP_TRIP` (RO, W1S, 15_haptics.md, after R362): trip latch. -/
def HAP_TRIP : Fld := ⟨0x0B0, 0x004, 31, 0⟩
def HAP_TRIP_latched : Fld := ⟨0x0B0, 0x004, 0, 0⟩
def HAP_TRIP_pin : Fld := ⟨0x0B0, 0x004, 1, 1⟩
def HAP_TRIP_clr : Fld := ⟨0x0B0, 0x004, 31, 31⟩
/-- `HAP_STATUS` (RO, 15_haptics.md, after R362): state, loop, frequency. -/
def HAP_STATUS : Fld := ⟨0x0B4, 0x004, 31, 0⟩
def HAP_STATUS_state : Fld := ⟨0x0B4, 0x004, 2, 0⟩
def HAP_STATUS_loop : Fld := ⟨0x0B4, 0x004, 4, 4⟩
def HAP_STATUS_ramp : Fld := ⟨0x0B4, 0x004, 5, 5⟩
def HAP_STATUS_res_hz : Fld := ⟨0x0B4, 0x004, 25, 16⟩
/-- `HAP_COIL` (RO, 15_haptics.md, after R362): coil check. -/
def HAP_COIL : Fld := ⟨0x0B8, 0x004, 31, 0⟩
def HAP_COIL_r_mohm : Fld := ⟨0x0B8, 0x004, 19, 0⟩
def HAP_COIL_result : Fld := ⟨0x0B8, 0x004, 22, 20⟩
/-- `HAP_THERM_STATUS` (RO, 15_haptics.md, after R362): modelled rise. -/
def HAP_THERM_STATUS : Fld := ⟨0x0BC, 0x004, 31, 0⟩
def HAP_THERM_STATUS_rise : Fld := ⟨0x0BC, 0x004, 15, 0⟩
/-- `HAP_PLAY` (RO, 15_haptics.md, after R362): effect playing. -/
def HAP_PLAY : Fld := ⟨0x0C0, 0x004, 31, 0⟩
def HAP_PLAY_effect : Fld := ⟨0x0C0, 0x004, 7, 0⟩
def HAP_PLAY_segment : Fld := ⟨0x0C0, 0x004, 15, 8⟩
def HAP_PLAY_prio : Fld := ⟨0x0C0, 0x004, 17, 16⟩
def HAP_PLAY_touch : Fld := ⟨0x0C0, 0x004, 18, 18⟩
/-- `HAP_TRIG` (RW, 15_haptics.md, after R362): touch trigger, k = 0 to 3. -/
def HAP_TRIG : Fld := ⟨0x0D0, 0x004, 31, 0⟩
def HAP_TRIG_en : Fld := ⟨0x0D0, 0x004, 0, 0⟩
def HAP_TRIG_event : Fld := ⟨0x0D0, 0x004, 2, 1⟩
def HAP_TRIG_kind : Fld := ⟨0x0D0, 0x004, 3, 3⟩
def HAP_TRIG_bank : Fld := ⟨0x0D0, 0x004, 5, 4⟩
def HAP_TRIG_index : Fld := ⟨0x0D0, 0x004, 10, 6⟩
def HAP_TRIG_effect : Fld := ⟨0x0D0, 0x004, 23, 16⟩
def HAP_TRIG_prio : Fld := ⟨0x0D0, 0x004, 25, 24⟩

/-- `AUD_RATE` (RWL, 16_audio.md, after R380): P and M rates. -/
def AUD_RATE : Fld := ⟨0x080, 0x004, 31, 0⟩
def AUD_RATE_p : Fld := ⟨0x080, 0x004, 0, 0⟩
def AUD_RATE_m : Fld := ⟨0x080, 0x004, 1, 1⟩
/-- `AUD_BRIDGE0` (RO, 16_audio.md, after R380): lock of bridges 0 to 31. -/
def AUD_BRIDGE0 : Fld := ⟨0x084, 0x004, 31, 0⟩
def AUD_BRIDGE0_locked : Fld := ⟨0x084, 0x004, 31, 0⟩
/-- `AUD_BRIDGE1` (RO, 16_audio.md, after R380): lock of bridges 32 to 47. -/
def AUD_BRIDGE1 : Fld := ⟨0x088, 0x004, 31, 0⟩
def AUD_BRIDGE1_locked : Fld := ⟨0x088, 0x004, 31, 0⟩

/-- `AUD_ROW_ZC` (RW, 16_audio.md, after R380): zero-crossing timeout. -/
def AUD_ROW_ZC : Fld := ⟨0x080, 0x004, 31, 0⟩
def AUD_ROW_ZC_timeout_ms : Fld := ⟨0x080, 0x004, 6, 0⟩
/-- `AUD_ROW_SRC` (RW, 16_audio.md, after R380): row source. -/
def AUD_ROW_SRC : Fld := ⟨0x100, 0x010, 31, 0⟩
def AUD_ROW_SRC_en : Fld := ⟨0x100, 0x010, 0, 0⟩
def AUD_ROW_SRC_kind : Fld := ⟨0x100, 0x010, 2, 1⟩
def AUD_ROW_SRC_port : Fld := ⟨0x100, 0x010, 10, 8⟩
def AUD_ROW_SRC_slot : Fld := ⟨0x100, 0x010, 15, 12⟩
def AUD_ROW_SRC_queue : Fld := ⟨0x100, 0x010, 23, 16⟩
def AUD_ROW_SRC_ch : Fld := ⟨0x100, 0x010, 26, 24⟩
def AUD_ROW_SRC_domain : Fld := ⟨0x100, 0x010, 28, 28⟩
/-- `AUD_ROW_STATUS` (RO, 16_audio.md, after R380): valid, locked. -/
def AUD_ROW_STATUS : Fld := ⟨0x104, 0x010, 31, 0⟩
def AUD_ROW_STATUS_valid : Fld := ⟨0x104, 0x010, 0, 0⟩
def AUD_ROW_STATUS_locked : Fld := ⟨0x104, 0x010, 1, 1⟩
/-- `AUD_ROW_G` (RW, 16_audio.md, after R380): codes of columns 2j, 2j + 1. -/
def AUD_ROW_G : Fld := ⟨0x400, 0x004, 31, 0⟩
def AUD_ROW_G_even : Fld := ⟨0x400, 0x004, 9, 0⟩
def AUD_ROW_G_odd : Fld := ⟨0x400, 0x004, 25, 16⟩

/-- `AUD_COL_BANK` (RW, 16_audio.md, after R380): READY, active, LATE, crossfade. -/
def AUD_COL_BANK : Fld := ⟨0x080, 0x004, 31, 0⟩
def AUD_COL_BANK_ready : Fld := ⟨0x080, 0x004, 7, 0⟩
def AUD_COL_BANK_active : Fld := ⟨0x080, 0x004, 15, 8⟩
def AUD_COL_BANK_late : Fld := ⟨0x080, 0x004, 23, 16⟩
def AUD_COL_BANK_xfade : Fld := ⟨0x080, 0x004, 31, 24⟩
/-- `AUD_COL_SINK` (RW, 16_audio.md, after R380): column sink. -/
def AUD_COL_SINK : Fld := ⟨0x100, 0x010, 31, 0⟩
def AUD_COL_SINK_en : Fld := ⟨0x100, 0x010, 0, 0⟩
def AUD_COL_SINK_kind : Fld := ⟨0x100, 0x010, 2, 1⟩
def AUD_COL_SINK_port : Fld := ⟨0x100, 0x010, 10, 8⟩
def AUD_COL_SINK_slot : Fld := ⟨0x100, 0x010, 15, 12⟩
def AUD_COL_SINK_queue : Fld := ⟨0x100, 0x010, 23, 16⟩
def AUD_COL_SINK_ch : Fld := ⟨0x100, 0x010, 26, 24⟩
def AUD_COL_SINK_chans_m1 : Fld := ⟨0x100, 0x010, 29, 27⟩
def AUD_COL_SINK_fmt : Fld := ⟨0x100, 0x010, 31, 30⟩
/-- `AUD_COL_EQ` (RW, 16_audio.md, after R380): section count, background bank. -/
def AUD_COL_EQ : Fld := ⟨0x104, 0x010, 31, 0⟩
def AUD_COL_EQ_sections : Fld := ⟨0x104, 0x010, 4, 0⟩
/-- `AUD_COL_STATUS` (RO, 16_audio.md, after R380): valid, locked. -/
def AUD_COL_STATUS : Fld := ⟨0x108, 0x010, 31, 0⟩
def AUD_COL_STATUS_valid : Fld := ⟨0x108, 0x010, 0, 0⟩
def AUD_COL_STATUS_locked : Fld := ⟨0x108, 0x010, 1, 1⟩
/-- `AUD_COL_COEF` (RW, 16_audio.md, after R380): coefficient t of section s, background bank. -/
def AUD_COL_COEF : Fld := ⟨0x400, 0x004, 31, 0⟩
def AUD_COL_COEF_coef : Fld := ⟨0x400, 0x004, 31, 0⟩

/-- `AUD_TDM_CFG` (RO, 16_audio.md, after R380): port p format. -/
def AUD_TDM_CFG : Fld := ⟨0x080, 0x008, 31, 0⟩
def AUD_TDM_CFG_fmt : Fld := ⟨0x080, 0x008, 1, 0⟩
def AUD_TDM_CFG_slots_m1 : Fld := ⟨0x080, 0x008, 7, 4⟩
def AUD_TDM_CFG_slot_bits : Fld := ⟨0x080, 0x008, 9, 8⟩
def AUD_TDM_CFG_word : Fld := ⟨0x080, 0x008, 11, 10⟩
def AUD_TDM_CFG_domain : Fld := ⟨0x080, 0x008, 13, 12⟩
def AUD_TDM_CFG_edge : Fld := ⟨0x080, 0x008, 14, 14⟩
/-- `AUD_TDM_STATUS` (RO, 16_audio.md, after R380): measured rate. -/
def AUD_TDM_STATUS : Fld := ⟨0x084, 0x008, 31, 0⟩
def AUD_TDM_STATUS_rate_hz : Fld := ⟨0x084, 0x008, 17, 0⟩
def AUD_TDM_STATUS_fs_present : Fld := ⟨0x084, 0x008, 31, 31⟩
/-- `AUD_PDM_CFG` (RO, 16_audio.md, after R380): lines in use. -/
def AUD_PDM_CFG : Fld := ⟨0x0C0, 0x004, 31, 0⟩
def AUD_PDM_CFG_lines : Fld := ⟨0x0C0, 0x004, 7, 0⟩

/-- `AUD_CHIME_SRC` (RW, 16_audio.md, after R380): row 95 source. -/
def AUD_CHIME_SRC : Fld := ⟨0x080, 0x004, 31, 0⟩
def AUD_CHIME_SRC_en : Fld := ⟨0x080, 0x004, 0, 0⟩
def AUD_CHIME_SRC_kind : Fld := ⟨0x080, 0x004, 2, 1⟩
def AUD_CHIME_SRC_index : Fld := ⟨0x080, 0x004, 26, 8⟩
/-- `AUD_CHIME_DUCK` (RW, 16_audio.md, after R380): ducking. -/
def AUD_CHIME_DUCK : Fld := ⟨0x084, 0x004, 31, 0⟩
def AUD_CHIME_DUCK_amount : Fld := ⟨0x084, 0x004, 9, 0⟩
def AUD_CHIME_DUCK_thresh : Fld := ⟨0x084, 0x004, 22, 16⟩
def AUD_CHIME_DUCK_hold : Fld := ⟨0x084, 0x004, 31, 24⟩
/-- `AUD_CHIME_STATUS` (RO, 16_audio.md, after R380): active, ducking. -/
def AUD_CHIME_STATUS : Fld := ⟨0x088, 0x004, 31, 0⟩
def AUD_CHIME_STATUS_active : Fld := ⟨0x088, 0x004, 0, 0⟩
def AUD_CHIME_STATUS_ducking : Fld := ⟨0x088, 0x004, 1, 1⟩
/-- `AUD_CHIME_G` (RW, 16_audio.md, after R380): row 95 codes of columns 2j, 2j + 1. -/
def AUD_CHIME_G : Fld := ⟨0x400, 0x004, 31, 0⟩
def AUD_CHIME_G_even : Fld := ⟨0x400, 0x004, 9, 0⟩
def AUD_CHIME_G_odd : Fld := ⟨0x400, 0x004, 25, 16⟩

/-- `GLB_ID_LO` (RO, 18_startup_and_supplies.md, after R410): vendor, device, stepping. -/
def GLB_ID_LO : Fld := ⟨0x080, 0x004, 31, 0⟩
def GLB_ID_LO_vendor : Fld := ⟨0x080, 0x004, 15, 0⟩
def GLB_ID_LO_device : Fld := ⟨0x080, 0x004, 31, 16⟩
/-- `GLB_ID_HI` (RO, 18_startup_and_supplies.md, after R410): vendor, device, stepping. -/
def GLB_ID_HI : Fld := ⟨0x084, 0x004, 31, 0⟩
def GLB_ID_HI_stepping : Fld := ⟨0x084, 0x004, 7, 0⟩
/-- `GLB_STRAPS` (RO, 18_startup_and_supplies.md, after R410): strap values. -/
def GLB_STRAPS : Fld := ⟨0x088, 0x004, 31, 0⟩
def GLB_STRAPS_compat : Fld := ⟨0x088, 0x004, 0, 0⟩
def GLB_STRAPS_boot_src : Fld := ⟨0x088, 0x004, 2, 1⟩
def GLB_STRAPS_test : Fld := ⟨0x088, 0x004, 3, 3⟩
def GLB_STRAPS_unstable : Fld := ⟨0x088, 0x004, 6, 4⟩
def GLB_STRAPS_test_ignored : Fld := ⟨0x088, 0x004, 8, 8⟩
/-- `GLB_RESET_CAUSE` (RO, 18_startup_and_supplies.md, after R410): last cold reset. -/
def GLB_RESET_CAUSE : Fld := ⟨0x08C, 0x004, 31, 0⟩
def GLB_RESET_CAUSE_cause : Fld := ⟨0x08C, 0x004, 3, 0⟩
def GLB_RESET_CAUSE_count : Fld := ⟨0x08C, 0x004, 31, 16⟩

/-- `GLB_RESET` (WO, 18_startup_and_supplies.md, after R410): cold reset. -/
def GLB_RESET : Fld := ⟨0x080, 0x004, 31, 0⟩
def GLB_RESET_key : Fld := ⟨0x080, 0x004, 15, 8⟩
def GLB_RESET_cold : Fld := ⟨0x080, 0x004, 0, 0⟩

/-- `GLB_SENS_LIMITS` (RWL, 18_startup_and_supplies.md, after R410): thermal limit. -/
def GLB_SENS_LIMITS : Fld := ⟨0x080, 0x004, 31, 0⟩
def GLB_SENS_LIMITS_t_high : Fld := ⟨0x080, 0x004, 7, 0⟩
/-- `GLB_TEMP_MAX` (RO, 18_startup_and_supplies.md, after R410): hottest sensor. -/
def GLB_TEMP_MAX : Fld := ⟨0x084, 0x004, 31, 0⟩
def GLB_TEMP_MAX_temp : Fld := ⟨0x084, 0x004, 11, 0⟩
def GLB_TEMP_MAX_sensor : Fld := ⟨0x084, 0x004, 20, 16⟩
/-- `GLB_IEST` (RO, 18_startup_and_supplies.md, after R410): VCORE current estimate. -/
def GLB_IEST : Fld := ⟨0x088, 0x004, 31, 0⟩
def GLB_IEST_current : Fld := ⟨0x088, 0x004, 15, 0⟩
/-- `GLB_TEMP` (RO, 18_startup_and_supplies.md, after R410): sensor i, 0 to 31. -/
def GLB_TEMP : Fld := ⟨0x100, 0x004, 31, 0⟩
def GLB_TEMP_temp : Fld := ⟨0x100, 0x004, 11, 0⟩
def GLB_TEMP_valid : Fld := ⟨0x100, 0x004, 31, 31⟩
/-- `GLB_RAIL` (RO, 18_startup_and_supplies.md, after R410): rail r, 0 to 8, per R395. -/
def GLB_RAIL : Fld := ⟨0x200, 0x004, 31, 0⟩
def GLB_RAIL_mv : Fld := ⟨0x200, 0x004, 12, 0⟩
def GLB_RAIL_in_window : Fld := ⟨0x200, 0x004, 16, 16⟩

/-- `GLB_TB_LO` (RO, 18_startup_and_supplies.md, after R410): time base, ns. -/
def GLB_TB_LO : Fld := ⟨0x080, 0x004, 31, 0⟩
def GLB_TB_LO_ns_lo : Fld := ⟨0x080, 0x004, 31, 0⟩
/-- `GLB_TB_HI` (RO, 18_startup_and_supplies.md, after R410): time base, ns. -/
def GLB_TB_HI : Fld := ⟨0x084, 0x004, 31, 0⟩
def GLB_TB_HI_ns_hi : Fld := ⟨0x084, 0x004, 31, 0⟩
/-- `GLB_BKP_STATUS` (RO, 18_startup_and_supplies.md, after R410): VBAT and retention. -/
def GLB_BKP_STATUS : Fld := ⟨0x088, 0x004, 31, 0⟩
def GLB_BKP_STATUS_vbat_ok : Fld := ⟨0x088, 0x004, 0, 0⟩
def GLB_BKP_STATUS_retention_valid : Fld := ⟨0x088, 0x004, 1, 1⟩
def GLB_BKP_STATUS_tb_restarted : Fld := ⟨0x088, 0x004, 2, 2⟩
/-- `GLB_ALARM_LO` (RW, 18_startup_and_supplies.md, after R410): alarm k time, k = 0, 1. -/
def GLB_ALARM_LO : Fld := ⟨0x090, 0x008, 31, 0⟩
def GLB_ALARM_LO_time : Fld := ⟨0x090, 0x008, 31, 0⟩
/-- `GLB_ALARM_HI` (RW, 18_startup_and_supplies.md, after R410): alarm k time, k = 0, 1. -/
def GLB_ALARM_HI : Fld := ⟨0x094, 0x008, 31, 0⟩
def GLB_ALARM_HI_time : Fld := ⟨0x094, 0x008, 31, 0⟩
/-- `GLB_ALARM_CTRL` (RW, 18_startup_and_supplies.md, after R410): enables and latches. -/
def GLB_ALARM_CTRL : Fld := ⟨0x0A0, 0x004, 31, 0⟩
def GLB_ALARM_CTRL_en : Fld := ⟨0x0A0, 0x004, 1, 0⟩
def GLB_ALARM_CTRL_wake_en : Fld := ⟨0x0A0, 0x004, 5, 4⟩
def GLB_ALARM_CTRL_latched : Fld := ⟨0x0A0, 0x004, 9, 8⟩
def GLB_ALARM_CTRL_on_vbat : Fld := ⟨0x0A0, 0x004, 13, 12⟩
/-- `GLB_BKP_DATA` (RW, 18_startup_and_supplies.md, after R410): retention bytes 64 to 255. -/
def GLB_BKP_DATA : Fld := ⟨0x400, 0x004, 31, 0⟩

/-- `PIN_STATUS` (RO, 18_startup_and_supplies.md, after R410): plan state. -/
def PIN_STATUS : Fld := ⟨0x080, 0x004, 31, 0⟩
def PIN_STATUS_applied : Fld := ⟨0x080, 0x004, 0, 0⟩
def PIN_STATUS_conflicts : Fld := ⟨0x080, 0x004, 15, 8⟩

/-- `PIN_FN` (RO, 18_startup_and_supplies.md, after R410): instance i of R407. -/
def PIN_FN : Fld := ⟨0x080, 0x004, 31, 0⟩
def PIN_FN_en : Fld := ⟨0x080, 0x004, 0, 0⟩
def PIN_FN_account : Fld := ⟨0x080, 0x004, 13, 8⟩
def PIN_FN_world : Fld := ⟨0x080, 0x004, 14, 14⟩
def PIN_FN_option : Fld := ⟨0x080, 0x004, 31, 16⟩

/-- `HAP_SPI0_CFG` (RW, 15_haptics.md, after R362): SPI master 0. -/
def HAP_SPI0_CFG : Fld := ⟨0x080, 0x004, 31, 0⟩
def HAP_SPI0_CFG_en : Fld := ⟨0x080, 0x004, 0, 0⟩
def HAP_SPI0_CFG_div : Fld := ⟨0x080, 0x004, 11, 4⟩
def HAP_SPI0_CFG_mode : Fld := ⟨0x080, 0x004, 13, 12⟩
/-- `HAP_SPI1_CFG` (RW, 15_haptics.md, after R362): SPI master 1. -/
def HAP_SPI1_CFG : Fld := ⟨0x084, 0x004, 31, 0⟩
def HAP_SPI1_CFG_en : Fld := ⟨0x084, 0x004, 0, 0⟩
def HAP_SPI1_CFG_div : Fld := ⟨0x084, 0x004, 11, 4⟩
def HAP_SPI1_CFG_mode : Fld := ⟨0x084, 0x004, 13, 12⟩

/-- `PAGE_ID` (RO, 03_register_pages.md, after R53): identity. -/
def PAGE_ID : Fld := ⟨0x000, 0x004, 31, 0⟩
/-- `PAGE_CAPS` (RO, 03_register_pages.md, after R53): PAGE_CAPS. -/
def PAGE_CAPS : Fld := ⟨0x004, 0x004, 31, 0⟩
/-- `PAGE_CTRL` (RW, 03_register_pages.md, after R53): PAGE_CTRL. -/
def PAGE_CTRL : Fld := ⟨0x008, 0x004, 31, 0⟩
def PAGE_CTRL_enable : Fld := ⟨0x008, 0x004, 0, 0⟩
def PAGE_CTRL_block_reset : Fld := ⟨0x008, 0x004, 1, 1⟩
def PAGE_CTRL_sleep_req : Fld := ⟨0x008, 0x004, 2, 2⟩
def PAGE_CTRL_lock : Fld := ⟨0x008, 0x004, 31, 31⟩
/-- `PAGE_STATUS` (RO, 03_register_pages.md, after R53): PAGE_STATUS. -/
def PAGE_STATUS : Fld := ⟨0x00C, 0x004, 31, 0⟩
def PAGE_STATUS_state : Fld := ⟨0x00C, 0x004, 2, 0⟩
def PAGE_STATUS_busy : Fld := ⟨0x00C, 0x004, 3, 3⟩
def PAGE_STATUS_tally_seq : Fld := ⟨0x00C, 0x004, 15, 8⟩
/-- `EVT_RAW` (RO, 03_register_pages.md, after R53): EVT_RAW. -/
def EVT_RAW : Fld := ⟨0x010, 0x004, 31, 0⟩
/-- `EVT_ENABLE` (RW, 03_register_pages.md, after R53): EVT_ENABLE. -/
def EVT_ENABLE : Fld := ⟨0x014, 0x004, 31, 0⟩
def EVT_ENABLE_enable : Fld := ⟨0x014, 0x004, 31, 0⟩
/-- `EVT_PENDING` (W1C, 03_register_pages.md, after R53): EVT_PENDING. -/
def EVT_PENDING : Fld := ⟨0x018, 0x004, 31, 0⟩
/-- `EVT_VECTOR` (RW, 03_register_pages.md, after R53): EVT_VECTOR. -/
def EVT_VECTOR : Fld := ⟨0x01C, 0x004, 31, 0⟩
def EVT_VECTOR_vector : Fld := ⟨0x01C, 0x004, 5, 0⟩
/-- `FLT_STICKY` (W1C, 03_register_pages.md, after R53): FLT_STICKY. -/
def FLT_STICKY : Fld := ⟨0x020, 0x004, 31, 0⟩
/-- `FLT_CLASS0` (RWL, 03_register_pages.md, after R53): FLT_CLASS0. -/
def FLT_CLASS0 : Fld := ⟨0x024, 0x004, 31, 0⟩
def FLT_CLASS0_classes : Fld := ⟨0x024, 0x004, 23, 0⟩
/-- `FLT_CLASS1` (RWL, 03_register_pages.md, after R53): FLT_CLASS1. -/
def FLT_CLASS1 : Fld := ⟨0x028, 0x004, 31, 0⟩
def FLT_CLASS1_classes : Fld := ⟨0x028, 0x004, 23, 0⟩
/-- `FLT_INJECT` (RW, 03_register_pages.md, after R53): FLT_INJECT. -/
def FLT_INJECT : Fld := ⟨0x030, 0x004, 31, 0⟩
def FLT_INJECT_source : Fld := ⟨0x030, 0x004, 3, 0⟩
def FLT_INJECT_mode : Fld := ⟨0x030, 0x004, 4, 4⟩
def FLT_INJECT_count : Fld := ⟨0x030, 0x004, 23, 8⟩
def FLT_INJECT_arm : Fld := ⟨0x030, 0x004, 31, 31⟩
/-- `OWNER` (RO, 03_register_pages.md, after R53): OWNER. -/
def OWNER : Fld := ⟨0x040, 0x004, 31, 0⟩
def OWNER_account : Fld := ⟨0x040, 0x004, 5, 0⟩
def OWNER_world : Fld := ⟨0x040, 0x004, 6, 6⟩
/-- `ESCROW_STATUS` (RO, 03_register_pages.md, after R53): ESCROW_STATUS. -/
def ESCROW_STATUS : Fld := ⟨0x044, 0x004, 31, 0⟩
/-- `TALLY` (RO, 03_register_pages.md, after R53): tallies. -/
def TALLY : Fld := ⟨0x060, 0x004, 31, 0⟩

/-- The registers of page kind `glb2`. -/
def rows_glb2 : List RegRow := [
  ⟨GLB_SEQ_BUDGET, 1, 0xC0F, [⟨GLB_SEQ_BUDGET_step_limit, .rwl, (.nat 5 60)⟩, ⟨GLB_SEQ_BUDGET_window_us, .rwl, (.nat 4 50)⟩]⟩,
  ⟨GLB_SEQ_STATUS, 1, 0x0, [⟨GLB_SEQ_STATUS_queued, .ro, .any⟩, ⟨GLB_SEQ_STATUS_step_unit, .ro, .any⟩, ⟨GLB_SEQ_STATUS_deadline_wait, .ro, .any⟩, ⟨GLB_SEQ_STATUS_clr_worst, .w1s, .any⟩]⟩,
  ⟨GLB_SEQ_WAKE_WORST, 1, 0x0, [⟨GLB_SEQ_WAKE_WORST, .ro, .any⟩]⟩,
  ⟨GLB_AVS_CTRL, 1, 0x3201, [⟨GLB_AVS_CTRL_enable, .rwl, .any⟩, ⟨GLB_AVS_CTRL_fall_ms, .rwl, (.nat 1 255)⟩]⟩,
  ⟨GLB_AVS_LIMITS, 1, 0x5A0A, [⟨GLB_AVS_LIMITS_min_code, .rwl, (.nat 0 90)⟩, ⟨GLB_AVS_LIMITS_max_code, .rwl, (.nat 0 90)⟩]⟩,
  ⟨GLB_AVS_STATUS, 1, 0x0, [⟨GLB_AVS_STATUS_request_code, .ro, .any⟩, ⟨GLB_AVS_STATUS_readback_code, .ro, .any⟩, ⟨GLB_AVS_STATUS_shortfall, .ro, .any⟩, ⟨GLB_AVS_STATUS_vsram_code, .ro, .any⟩]⟩]

/-- The registers of page kind `xch`. -/
def rows_xch : List RegRow := [
  ⟨MNT_X_CANARY_CTRL, 1, 0x1908, [⟨MNT_X_CANARY_CTRL_guard, .rwl, (.nat 2 30)⟩, ⟨MNT_X_CANARY_CTRL_recover_ms, .rwl, (.nat 10 1000)⟩]⟩,
  ⟨MNT_X_CANARY_MARGIN, 1, 0x3F, [⟨MNT_X_CANARY_MARGIN_margin, .ro, .any⟩, ⟨MNT_X_CANARY_MARGIN_canary, .ro, .any⟩]⟩,
  ⟨MNT_X_SLOWSAFE, 1, 0x0, [⟨MNT_X_SLOWSAFE_branch, .ro, .any⟩]⟩]

/-- The registers of page kind `lay`. -/
def rows_lay : List RegRow := [
  ⟨LAY_CTRL, 1, 0x0, [⟨LAY_CTRL_enable, .rwe, .any⟩, ⟨LAY_CTRL_racing, .rwe, .any⟩, ⟨LAY_CTRL_opaque, .rwe, .any⟩, ⟨LAY_CTRL_opq_rect_en, .rwe, .any⟩, ⟨LAY_CTRL_effect_en, .rwe, .any⟩, ⟨LAY_CTRL_src_kind, .rwe, (.oneOf [0, 1, 2])⟩, ⟨LAY_CTRL_cap_port, .rwe, .any⟩]⟩,
  ⟨LAY_PLACE, 1, 0x0, [⟨LAY_PLACE_outputs, .rwe, .any⟩, ⟨LAY_PLACE_z, .rwe, .any⟩]⟩,
  ⟨LAY_POS, 1, 0x0, [⟨LAY_POS_x, .rwe, (.int (-16384) 16383)⟩, ⟨LAY_POS_y, .rwe, (.int (-8192) 8191)⟩]⟩,
  ⟨LAY_SRC_XY, 1, 0x0, [⟨LAY_SRC_XY_x, .rwe, .any⟩, ⟨LAY_SRC_XY_y, .rwe, .any⟩]⟩,
  ⟨LAY_SRC_WH, 1, 0x0, [⟨LAY_SRC_WH_w_m1, .rwe, .any⟩, ⟨LAY_SRC_WH_h_m1, .rwe, .any⟩]⟩,
  ⟨LAY_DST_WH, 1, 0x0, [⟨LAY_DST_WH_w_m1, .rwe, .any⟩, ⟨LAY_DST_WH_h_m1, .rwe, .any⟩]⟩,
  ⟨LAY_FMT, 1, 0x0, [⟨LAY_FMT_format, .rwe, (.oneOf [0, 1, 2, 3, 4, 8, 9, 10, 16, 17, 18, 19])⟩, ⟨LAY_FMT_ilt, .rwe, .any⟩, ⟨LAY_FMT_cs, .rwe, (.oneOf [0, 1, 2])⟩, ⟨LAY_FMT_tf, .rwe, .any⟩, ⟨LAY_FMT_yuv_range, .rwe, .any⟩]⟩,
  ⟨LAY_BLEND, 1, 0x1FF, [⟨LAY_BLEND_plane_alpha, .rwe, .any⟩, ⟨LAY_BLEND_mode, .rwe, (.oneOf [0, 1, 2])⟩]⟩,
  ⟨LAY_OPQ_XY, 1, 0x0, [⟨LAY_OPQ_XY_x, .rwe, .any⟩, ⟨LAY_OPQ_XY_y, .rwe, .any⟩]⟩,
  ⟨LAY_OPQ_WH, 1, 0x0, [⟨LAY_OPQ_WH_w_m1, .rwe, .any⟩, ⟨LAY_OPQ_WH_h_m1, .rwe, .any⟩]⟩,
  ⟨LAY_ADDR0_LO, 1, 0x0, [⟨LAY_ADDR0_LO_addr, .rwe, .any⟩]⟩,
  ⟨LAY_ADDR0_HI, 1, 0x0, [⟨LAY_ADDR0_HI_addr_hi, .rwe, .any⟩]⟩,
  ⟨LAY_ADDR1_LO, 1, 0x0, [⟨LAY_ADDR1_LO_addr, .rwe, .any⟩]⟩,
  ⟨LAY_ADDR1_HI, 1, 0x0, [⟨LAY_ADDR1_HI_addr_hi, .rwe, .any⟩]⟩,
  ⟨LAY_STRIDE, 1, 0x0, [⟨LAY_STRIDE_stride0, .rwe, .any⟩, ⟨LAY_STRIDE_stride1, .rwe, .any⟩]⟩,
  ⟨LAY_EFFECT, 1, 0x0, [⟨LAY_EFFECT_routine_id, .rwe, .any⟩]⟩,
  ⟨LAY_EFFECT_ARG, 1, 0x0, [⟨LAY_EFFECT_ARG_arg, .rwe, .any⟩]⟩,
  ⟨LAY_STATUS, 1, 0x0, [⟨LAY_STATUS_applied, .ro, .any⟩, ⟨LAY_STATUS_racing_active, .ro, .any⟩, ⟨LAY_STATUS_outputs, .ro, .any⟩]⟩,
  ⟨LAY_PALETTE, 256, 0x0, [⟨LAY_PALETTE_entry, .rwe, .any⟩]⟩]

/-- The registers of page kind `pl`. -/
def rows_pl : List RegRow := [
  ⟨PL_CTRL, 1, 0x0, [⟨PL_CTRL_enable, .rwe, .any⟩, ⟨PL_CTRL_backdrop_en, .rwe, .any⟩, ⟨PL_CTRL_format, .rwe, (.oneOf [0, 1, 2])⟩]⟩,
  ⟨PL_POS, 1, 0x0, [⟨PL_POS_x, .rwe, (.int (-2047) 8191)⟩, ⟨PL_POS_y, .rwe, (.int (-1023) 4319)⟩]⟩,
  ⟨PL_SIZE, 1, 0x0, [⟨PL_SIZE_w_m1, .rwe, .any⟩, ⟨PL_SIZE_h_m1, .rwe, .any⟩]⟩,
  ⟨PL_ADDR, 1, 0x0, [⟨PL_ADDR_offset, .rwe, .any⟩]⟩,
  ⟨PL_STRIDE, 1, 0x1, [⟨PL_STRIDE_stride, .rwe, (.nat 1 128)⟩]⟩,
  ⟨PL_ALPHA, 1, 0xFF, [⟨PL_ALPHA_plane_alpha, .rwe, .any⟩]⟩,
  ⟨PL_BACKDROP_XY, 1, 0x0, [⟨PL_BACKDROP_XY_x, .rwe, (.nat 0 8191)⟩, ⟨PL_BACKDROP_XY_y, .rwe, (.nat 0 4319)⟩]⟩,
  ⟨PL_BACKDROP_WH, 1, 0x0, [⟨PL_BACKDROP_WH_w_m1, .rwe, (.nat 0 8191)⟩, ⟨PL_BACKDROP_WH_h_m1, .rwe, (.nat 0 4319)⟩]⟩,
  ⟨PL_BACKDROP_COLOUR, 1, 0x0, [⟨PL_BACKDROP_COLOUR_colour, .rwe, .any⟩]⟩,
  ⟨PL_REGION, 1, 0x0, [⟨PL_REGION_base, .ro, .any⟩, ⟨PL_REGION_size, .ro, .any⟩]⟩,
  ⟨PL_STATUS, 1, 0x0, [⟨PL_STATUS_applied, .ro, .any⟩, ⟨PL_STATUS_drawing, .ro, .any⟩, ⟨PL_STATUS_safe, .ro, .any⟩]⟩,
  ⟨PL_PALETTE, 256, 0x0, [⟨PL_PALETTE_entry, .rwe, .any⟩]⟩]

/-- The registers of page kind `outCmp`. -/
def rows_outCmp : List RegRow := [
  ⟨OUT_CMP_PRESS, 1, 0x2, [⟨OUT_CMP_PRESS_count, .rw, (.nat 1 32)⟩]⟩,
  ⟨OUT_CMP_ASSIGNED, 1, 0x0, [⟨OUT_CMP_ASSIGNED_count, .ro, .any⟩]⟩,
  ⟨OUT_CMP_BLEND, 1, 0xCB0000, [⟨OUT_CMP_BLEND_space, .rwe, .any⟩, ⟨OUT_CMP_BLEND_prim, .rwe, .any⟩, ⟨OUT_CMP_BLEND_enc, .rwe, .any⟩, ⟨OUT_CMP_BLEND_sdr_white, .rwe, (.nat 80 1000)⟩]⟩,
  ⟨OUT_CMP_BACKGROUND, 1, 0x0, [⟨OUT_CMP_BACKGROUND_colour, .rwe, .any⟩]⟩,
  ⟨OUT_CMP_REBUILD, 1, 0x0, [⟨OUT_CMP_REBUILD_last_ns, .ro, .any⟩, ⟨OUT_CMP_REBUILD_busy, .ro, .any⟩]⟩,
  ⟨OUT_CMP_SLOT_ACCT, 8, 0x0, [⟨OUT_CMP_SLOT_ACCT_account, .ro, .any⟩, ⟨OUT_CMP_SLOT_ACCT_layers, .ro, .any⟩, ⟨OUT_CMP_SLOT_ACCT_valid, .ro, .any⟩]⟩,
  ⟨OUT_CMP_SLOT_VP_XY, 8, 0x0, [⟨OUT_CMP_SLOT_VP_XY_x, .ro, .any⟩, ⟨OUT_CMP_SLOT_VP_XY_y, .ro, .any⟩]⟩,
  ⟨OUT_CMP_SLOT_VP_WH, 8, 0x0, [⟨OUT_CMP_SLOT_VP_WH_w_m1, .ro, .any⟩, ⟨OUT_CMP_SLOT_VP_WH_h_m1, .ro, .any⟩]⟩,
  ⟨OUT_CMP_SLOT_ZS, 8, 0x0, [⟨OUT_CMP_SLOT_ZS_z_base, .ro, .any⟩, ⟨OUT_CMP_SLOT_ZS_z_size, .ro, .any⟩, ⟨OUT_CMP_SLOT_ZS_share, .ro, .any⟩]⟩]

/-- The registers of page kind `outCol`. -/
def rows_outCol : List RegRow := [
  ⟨OUT_COL_CTRL, 1, 0x100, [⟨OUT_COL_CTRL_degamma_en, .rwe, .any⟩, ⟨OUT_COL_CTRL_matrix_en, .rwe, .any⟩, ⟨OUT_COL_CTRL_lut3d_en, .rwe, .any⟩, ⟨OUT_COL_CTRL_regamma_en, .rwe, .any⟩, ⟨OUT_COL_CTRL_dither, .rwe, (.oneOf [0, 1, 2])⟩, ⟨OUT_COL_CTRL_depth, .rwe, .any⟩]⟩,
  ⟨OUT_COL_M0, 1, 0x2000, [⟨OUT_COL_M0_coef, .rwe, .any⟩]⟩,
  ⟨OUT_COL_M1, 1, 0x0, [⟨OUT_COL_M1_coef, .rwe, .any⟩]⟩,
  ⟨OUT_COL_M2, 1, 0x0, [⟨OUT_COL_M2_coef, .rwe, .any⟩]⟩,
  ⟨OUT_COL_M3, 1, 0x0, [⟨OUT_COL_M3_coef, .rwe, .any⟩]⟩,
  ⟨OUT_COL_M4, 1, 0x2000, [⟨OUT_COL_M4_coef, .rwe, .any⟩]⟩,
  ⟨OUT_COL_M5, 1, 0x0, [⟨OUT_COL_M5_coef, .rwe, .any⟩]⟩,
  ⟨OUT_COL_M6, 1, 0x0, [⟨OUT_COL_M6_coef, .rwe, .any⟩]⟩,
  ⟨OUT_COL_M7, 1, 0x0, [⟨OUT_COL_M7_coef, .rwe, .any⟩]⟩,
  ⟨OUT_COL_M8, 1, 0x2000, [⟨OUT_COL_M8_coef, .rwe, .any⟩]⟩,
  ⟨OUT_COL_OFF, 3, 0x0, [⟨OUT_COL_OFF_offset, .rwe, (.int (-65536) 65535)⟩]⟩,
  ⟨OUT_COL_LOAD_LO, 1, 0x0, [⟨OUT_COL_LOAD_LO_addr, .rw, .any⟩]⟩,
  ⟨OUT_COL_LOAD_HI, 1, 0x0, [⟨OUT_COL_LOAD_HI_addr_hi, .rw, .any⟩]⟩,
  ⟨OUT_COL_LOAD, 1, 0x0, [⟨OUT_COL_LOAD_table, .rw, (.oneOf [0, 1, 2])⟩, ⟨OUT_COL_LOAD_src, .rw, .any⟩, ⟨OUT_COL_LOAD_go, .w1s, .any⟩]⟩,
  ⟨OUT_COL_BANK, 1, 0x0, [⟨OUT_COL_BANK_ready, .w1s, .any⟩, ⟨OUT_COL_BANK_active, .ro, .any⟩, ⟨OUT_COL_BANK_late, .w1c, .any⟩, ⟨OUT_COL_BANK_load_busy, .ro, .any⟩, ⟨OUT_COL_BANK_load_done, .w1c, .any⟩]⟩]

/-- The registers of page kind `outKpr`. -/
def rows_outKpr : List RegRow := [
  ⟨OUT_KPR_FALLBACK, 1, 0x0, [⟨OUT_KPR_FALLBACK_colour, .rwe, .any⟩]⟩,
  ⟨OUT_KPR_STATUS, 1, 0x0, [⟨OUT_KPR_STATUS_safe, .ro, .any⟩, ⟨OUT_KPR_STATUS_pl_drawing, .ro, .any⟩]⟩]

/-- The registers of page kind `sclCtl`. -/
def rows_sclCtl : List RegRow := [
  ⟨SCL_CTRL, 1, 0x1, [⟨SCL_CTRL_coef_src, .rwe, (.oneOf [0, 1])⟩, ⟨SCL_CTRL_siting, .rwe, (.oneOf [0, 1, 2])⟩, ⟨SCL_CTRL_bind_en, .rwe, .any⟩, ⟨SCL_CTRL_bind_layer, .rwe, .any⟩, ⟨SCL_CTRL_bind_out, .rwe, .any⟩]⟩,
  ⟨SCL_BANK, 1, 0x0, [⟨SCL_BANK_h_ready, .w1s, .any⟩, ⟨SCL_BANK_v_ready, .w1s, .any⟩, ⟨SCL_BANK_h_active, .ro, .any⟩, ⟨SCL_BANK_v_active, .ro, .any⟩, ⟨SCL_BANK_h_late, .w1c, .any⟩, ⟨SCL_BANK_v_late, .w1c, .any⟩]⟩,
  ⟨SCL_STATUS, 1, 0x0, [⟨SCL_STATUS_in_use, .ro, .any⟩, ⟨SCL_STATUS_layer, .ro, .any⟩, ⟨SCL_STATUS_output, .ro, .any⟩]⟩]

/-- The registers of page kind `sclCoef`. -/
def rows_sclCoef : List RegRow := [
  ⟨SCL_HCOEF, 256, 0x0, [⟨SCL_HCOEF_even, .rw, (.int (-512) 511)⟩, ⟨SCL_HCOEF_odd, .rw, (.int (-512) 511)⟩]⟩,
  ⟨SCL_VCOEF, 192, 0x0, [⟨SCL_VCOEF_even, .rw, (.int (-512) 511)⟩, ⟨SCL_VCOEF_odd, .rw, (.int (-512) 511)⟩]⟩]

/-- The registers of page kind `press`. -/
def rows_press : List RegRow := [
  ⟨MNT_P_ROLE, 1, 0x0, [⟨MNT_P_ROLE_role, .ro, .any⟩, ⟨MNT_P_ROLE_output, .ro, .any⟩, ⟨MNT_P_ROLE_account, .ro, .any⟩, ⟨MNT_P_ROLE_clearing, .ro, .any⟩]⟩,
  ⟨MNT_P_MINT_STATE, 1, 0x0, [⟨MNT_P_MINT_STATE_busy, .ro, .any⟩, ⟨MNT_P_MINT_STATE_retired, .ro, .any⟩, ⟨MNT_P_MINT_STATE_stuck, .ro, .any⟩, ⟨MNT_P_MINT_STATE_slow, .ro, .any⟩]⟩,
  ⟨MNT_P_QUEUE, 1, 0x0, [⟨MNT_P_QUEUE_waiting, .ro, .any⟩, ⟨MNT_P_QUEUE_in_flight, .ro, .any⟩]⟩,
  ⟨MNT_P_TIME, 8, 0x0, [⟨MNT_P_TIME_mean_ns, .ro, .any⟩]⟩,
  ⟨MNT_P_COUNT, 8, 0x0, [⟨MNT_P_COUNT_count, .ro, .any⟩]⟩]

/-- The registers of page kind `branch`. -/
def rows_branch : List RegRow := [
  ⟨MNT_B_RETIRE, 1, 0x0, [⟨MNT_B_RETIRE_retire, .rw, .any⟩]⟩,
  ⟨MNT_B_STUCK, 1, 0x0, [⟨MNT_B_STUCK_stuck, .ro, .any⟩]⟩,
  ⟨MNT_B_SLOW, 1, 0x0, [⟨MNT_B_SLOW_slow, .ro, .any⟩]⟩]

/-- The registers of page kind `acc1`. -/
def rows_acc1 : List RegRow := [
  ⟨ACC_COMMIT, 1, 0x0, [⟨ACC_COMMIT_go, .wo, .any⟩, ⟨ACC_COMMIT_syn, .wo, .any⟩]⟩,
  ⟨ACC_COMMIT_STATUS, 1, 0x0, [⟨ACC_COMMIT_STATUS_busy, .ro, .any⟩, ⟨ACC_COMMIT_STATUS_held, .ro, .any⟩, ⟨ACC_COMMIT_STATUS_rebuilding, .ro, .any⟩, ⟨ACC_COMMIT_STATUS_result, .ro, .any⟩, ⟨ACC_COMMIT_STATUS_reason, .ro, .any⟩, ⟨ACC_COMMIT_STATUS_pending, .ro, .any⟩, ⟨ACC_COMMIT_STATUS_late, .ro, .any⟩]⟩,
  ⟨ACC_COMMIT_GEN, 1, 0x0, [⟨ACC_COMMIT_GEN_gen, .ro, .any⟩]⟩,
  ⟨ACC_COMMIT_REFUSED_AT, 1, 0x0, [⟨ACC_COMMIT_REFUSED_AT_page, .ro, .any⟩]⟩,
  ⟨ACC_COMMIT_TARGET, 1, 0x0, [⟨ACC_COMMIT_TARGET_frame, .rw, .any⟩]⟩,
  ⟨ACC_COMMIT_SYN, 1, 0x0, [⟨ACC_COMMIT_SYN_tag, .rw, .any⟩, ⟨ACC_COMMIT_SYN_devices, .rw, .any⟩]⟩,
  ⟨ACC_COMMIT_SHOWN, 8, 0x0, [⟨ACC_COMMIT_SHOWN_gen, .ro, .any⟩]⟩]

/-- The registers of page kind `outTim`. -/
def rows_outTim : List RegRow := [
  ⟨OUT_TIM_CTRL, 1, 0x0, [⟨OUT_TIM_CTRL_run, .rwi, .any⟩, ⟨OUT_TIM_CTRL_pair_lock, .rwi, .any⟩, ⟨OUT_TIM_CTRL_hs_pol, .rwi, .any⟩, ⟨OUT_TIM_CTRL_vs_pol, .rwi, .any⟩, ⟨OUT_TIM_CTRL_vrr_en, .rwi, .any⟩]⟩,
  ⟨OUT_TIM_PCLK, 1, 0x24414, [⟨OUT_TIM_PCLK_khz, .rwi, (.nat 5000 2700000)⟩]⟩,
  ⟨OUT_TIM_HACT, 1, 0x780, [⟨OUT_TIM_HACT_active, .rwi, (.nat 8 16384)⟩]⟩,
  ⟨OUT_TIM_HSYNC, 1, 0x2C0058, [⟨OUT_TIM_HSYNC_front, .rwi, (.nat 1 4095)⟩, ⟨OUT_TIM_HSYNC_width, .rwi, (.nat 1 4095)⟩]⟩,
  ⟨OUT_TIM_HBACK, 1, 0x94, [⟨OUT_TIM_HBACK_back, .rwi, (.nat 1 4095)⟩]⟩,
  ⟨OUT_TIM_VACT, 1, 0x438, [⟨OUT_TIM_VACT_active, .rwi, (.nat 1 4320)⟩]⟩,
  ⟨OUT_TIM_VSYNC, 1, 0x50004, [⟨OUT_TIM_VSYNC_front, .rwi, (.nat 1 4095)⟩, ⟨OUT_TIM_VSYNC_width, .rwi, (.nat 1 255)⟩]⟩,
  ⟨OUT_TIM_VBACK, 1, 0x24, [⟨OUT_TIM_VBACK_back, .rwi, (.nat 1 4095)⟩]⟩,
  ⟨OUT_TIM_LEAD, 1, 0x280010, [⟨OUT_TIM_LEAD_lines, .rwi, (.nat 8 64)⟩, ⟨OUT_TIM_LEAD_racing_lead, .rwi, (.nat 40 200)⟩]⟩,
  ⟨OUT_TIM_PAIR, 1, 0x0, [⟨OUT_TIM_PAIR_split, .rwi, (.nat 0 8192)⟩]⟩,
  ⟨OUT_TIM_VRR, 1, 0x0, [⟨OUT_TIM_VRR_vtotal_max, .rwi, .any⟩, ⟨OUT_TIM_VRR_release, .rwi, .any⟩]⟩,
  ⟨OUT_TIM_MATCH0, 1, 0x0, [⟨OUT_TIM_MATCH0_line, .rw, .any⟩, ⟨OUT_TIM_MATCH0_en, .rw, .any⟩]⟩,
  ⟨OUT_TIM_MATCH1, 1, 0x0, [⟨OUT_TIM_MATCH1_line, .rw, .any⟩, ⟨OUT_TIM_MATCH1_en, .rw, .any⟩]⟩,
  ⟨OUT_TIM_STATUS, 1, 0x0, [⟨OUT_TIM_STATUS_line, .ro, .any⟩, ⟨OUT_TIM_STATUS_running, .ro, .any⟩, ⟨OUT_TIM_STATUS_vblank, .ro, .any⟩, ⟨OUT_TIM_STATUS_held, .ro, .any⟩, ⟨OUT_TIM_STATUS_racing, .ro, .any⟩]⟩,
  ⟨OUT_TIM_FRAME, 1, 0x0, [⟨OUT_TIM_FRAME_count, .ro, .any⟩]⟩,
  ⟨OUT_TIM_RMAX, 1, 0x3C, [⟨OUT_TIM_RMAX_rate, .rwi, (.nat 1 240)⟩]⟩,
  ⟨OUT_REF_CTRL, 1, 0x0, [⟨OUT_REF_CTRL_prio0, .rwi, (.oneOf [0, 1, 2, 3, 4])⟩, ⟨OUT_REF_CTRL_prio1, .rwi, (.nat 0 4)⟩, ⟨OUT_REF_CTRL_prio2, .rwi, (.nat 0 4)⟩, ⟨OUT_REF_CTRL_prio3, .rwi, (.nat 0 4)⟩, ⟨OUT_REF_CTRL_mult, .rwi, .any⟩]⟩,
  ⟨OUT_REF_OFFSET, 1, 0x0, [⟨OUT_REF_OFFSET_offset, .rwi, .any⟩]⟩,
  ⟨OUT_REF_STATUS, 1, 0x0, [⟨OUT_REF_STATUS_selected, .ro, .any⟩, ⟨OUT_REF_STATUS_state, .ro, .any⟩, ⟨OUT_REF_STATUS_qualified, .ro, .any⟩, ⟨OUT_REF_STATUS_target, .ro, .any⟩]⟩,
  ⟨OUT_REF_ERROR, 1, 0x0, [⟨OUT_REF_ERROR_error, .ro, .any⟩]⟩,
  ⟨OUT_REF_TRIM, 1, 0x0, [⟨OUT_REF_TRIM_ppm, .ro, .any⟩]⟩,
  ⟨OUT_STATIC_CTRL, 1, 0x12C0003, [⟨OUT_STATIC_CTRL_en, .rw, .any⟩, ⟨OUT_STATIC_CTRL_retain_en, .rw, .any⟩, ⟨OUT_STATIC_CTRL_wake_us, .rw, (.nat 50 1000)⟩]⟩,
  ⟨OUT_STATIC_FRAMES, 1, 0x3, [⟨OUT_STATIC_FRAMES_frames, .rw, (.nat 1 255)⟩]⟩,
  ⟨OUT_STATIC_RATE, 1, 0xA, [⟨OUT_STATIC_RATE_rate, .rw, (.nat 1 240)⟩]⟩,
  ⟨OUT_STATIC_STATUS, 1, 0x0, [⟨OUT_STATIC_STATUS_static, .ro, .any⟩, ⟨OUT_STATIC_STATUS_stretching, .ro, .any⟩, ⟨OUT_STATIC_STATUS_retained, .ro, .any⟩, ⟨OUT_STATIC_STATUS_size, .ro, .any⟩]⟩]

/-- The registers of page kind `outFifo`. -/
def rows_outFifo : List RegRow := [
  ⟨OUT_WM_URGENT, 1, 0x20, [⟨OUT_WM_URGENT_level, .rw, (.nat 2 512)⟩]⟩,
  ⟨OUT_WM_PANIC, 1, 0x8, [⟨OUT_WM_PANIC_level, .rw, (.nat 1 511)⟩]⟩,
  ⟨OUT_LT_MARGIN, 1, 0x14, [⟨OUT_LT_MARGIN_margin, .rw, .any⟩]⟩,
  ⟨OUT_FIFO_LEVEL, 1, 0x0, [⟨OUT_FIFO_LEVEL_fill, .ro, .any⟩]⟩,
  ⟨OUT_LT_STATUS, 1, 0xFFFF, [⟨OUT_LT_STATUS_tolerance, .ro, .any⟩, ⟨OUT_LT_STATUS_urgent, .ro, .any⟩, ⟨OUT_LT_STATUS_panic, .ro, .any⟩]⟩,
  ⟨OUT_FIFO_CAPS, 1, 0x20000, [⟨OUT_FIFO_CAPS_capacity, .ro, .any⟩]⟩]

/-- The registers of page kind `outFmt`. -/
def rows_outFmt : List RegRow := [
  ⟨OUT_FMT_CTRL, 1, 0x0, [⟨OUT_FMT_CTRL_dsc_en, .rw, .any⟩, ⟨OUT_FMT_CTRL_bpp_x16, .rw, .any⟩, ⟨OUT_FMT_CTRL_slices, .rw, .any⟩]⟩]

/-- The registers of page kind `outLnk`. -/
def rows_outLnk : List RegRow := [
  ⟨OUT_LNK_CTRL, 1, 0x0, [⟨OUT_LNK_CTRL_port_en, .rw, .any⟩, ⟨OUT_LNK_CTRL_proto, .rw, .any⟩, ⟨OUT_LNK_CTRL_ssc_en, .rw, .any⟩, ⟨OUT_LNK_CTRL_retrain, .w1s, .any⟩]⟩,
  ⟨OUT_LINK_LIMITS, 1, 0x1190, [⟨OUT_LINK_LIMITS_cable_max, .rw, (.nat 6 400)⟩, ⟨OUT_LINK_LIMITS_min_lanes, .rw, (.oneOf [1, 2, 4])⟩, ⟨OUT_LINK_LIMITS_min_rate, .rw, .any⟩]⟩,
  ⟨OUT_LNK_STATUS, 1, 0x0, [⟨OUT_LNK_STATUS_state, .ro, .any⟩, ⟨OUT_LNK_STATUS_rate, .ro, .any⟩, ⟨OUT_LNK_STATUS_lanes, .ro, .any⟩, ⟨OUT_LNK_STATUS_present, .ro, .any⟩, ⟨OUT_LNK_STATUS_adaptive_sync, .ro, .any⟩, ⟨OUT_LNK_STATUS_dsc_sink, .ro, .any⟩]⟩,
  ⟨OUT_LNK_CABLE, 1, 0x0, [⟨OUT_LNK_CABLE_length, .ro, .any⟩, ⟨OUT_LNK_CABLE_valid, .ro, .any⟩]⟩,
  ⟨OUT_LNK_SINK_VRR, 1, 0x0, [⟨OUT_LNK_SINK_VRR_min_hz, .ro, .any⟩, ⟨OUT_LNK_SINK_VRR_max_hz, .ro, .any⟩]⟩,
  ⟨OUT_LNK_CAUSE, 1, 0x0, [⟨OUT_LNK_CAUSE_cause, .ro, .any⟩]⟩,
  ⟨OUT_LNK_DISC, 256, 0x0, [⟨OUT_LNK_DISC, .ro, .any⟩]⟩]

/-- The registers of page kind `cap`. -/
def rows_cap : List RegRow := [
  ⟨CAP_CTRL, 1, 0x0, [⟨CAP_CTRL_en, .rw, .any⟩, ⟨CAP_CTRL_lanes, .rw, (.oneOf [0, 1, 2])⟩, ⟨CAP_CTRL_vc, .rw, .any⟩, ⟨CAP_CTRL_dt, .rw, (.oneOf [0, 1, 2])⟩, ⟨CAP_CTRL_mirror_en, .rw, .any⟩]⟩,
  ⟨CAP_GEOM, 1, 0x4380780, [⟨CAP_GEOM_width, .rw, (.nat 16 8192)⟩, ⟨CAP_GEOM_height, .rw, (.nat 1 4320)⟩]⟩,
  ⟨CAP_STRIDE, 1, 0x0, [⟨CAP_STRIDE_stride, .rw, .any⟩]⟩,
  ⟨CAP_RING, 1, 0x0, [⟨CAP_RING_base, .rw, .any⟩, ⟨CAP_RING_slots, .rw, (.oneOf [0, 2, 3, 4, 5, 6, 7])⟩]⟩,
  ⟨CAP_MIRROR_LO, 1, 0x0, [⟨CAP_MIRROR_LO_addr, .rw, .any⟩]⟩,
  ⟨CAP_MIRROR_HI, 1, 0x0, [⟨CAP_MIRROR_HI_addr_hi, .rw, .any⟩]⟩,
  ⟨CAP_STATUS, 1, 0x0, [⟨CAP_STATUS_slot, .ro, .any⟩, ⟨CAP_STATUS_line, .ro, .any⟩, ⟨CAP_STATUS_frame, .ro, .any⟩]⟩]

/-- The registers of page kind `gng`. -/
def rows_gng : List RegRow := [
  ⟨GNG_CTRL, 1, 0x0, [⟨GNG_CTRL_en, .rwl, .any⟩, ⟨GNG_CTRL_device, .rwl, .any⟩, ⟨GNG_CTRL_master, .rwl, .any⟩, ⟨GNG_CTRL_ref_out, .rwl, .any⟩]⟩,
  ⟨GNG_STATUS, 1, 0x0, [⟨GNG_STATUS_present, .ro, .any⟩, ⟨GNG_STATUS_excluded, .ro, .any⟩, ⟨GNG_STATUS_sync, .ro, .any⟩, ⟨GNG_STATUS_self_excluded, .ro, .any⟩]⟩,
  ⟨GNG_FRAME, 1, 0x0, [⟨GNG_FRAME_frame, .ro, .any⟩]⟩]

/-- The registers of page kind `mem0`. -/
def rows_mem0 : List RegRow := [
  ⟨MEM_CFG, 1, 0x346, [⟨MEM_CFG_rate, .rwl, (.oneOf [0, 1, 2, 3, 4, 5, 6, 7, 8])⟩, ⟨MEM_CFG_ranks, .rwl, .any⟩, ⟨MEM_CFG_density, .rwl, (.oneOf [0, 1, 2])⟩, ⟨MEM_CFG_dbi_rd, .rwl, .any⟩, ⟨MEM_CFG_dbi_wr, .rwl, .any⟩]⟩,
  ⟨MEM_CTRL, 1, 0x0, [⟨MEM_CTRL_init, .w1s, .any⟩, ⟨MEM_CTRL_strict, .rwl, .any⟩]⟩,
  ⟨MEM_STATUS, 1, 0x0, [⟨MEM_STATUS_state, .ro, .any⟩, ⟨MEM_STATUS_power, .ro, .any⟩, ⟨MEM_STATUS_failed_ch, .ro, .any⟩]⟩,
  ⟨MEM_PWR, 1, 0x640143, [⟨MEM_PWR_sr_en, .rw, .any⟩, ⟨MEM_PWR_ds_en, .rw, .any⟩, ⟨MEM_PWR_sr_margin, .rw, .any⟩, ⟨MEM_PWR_ds_idle, .rw, (.nat 100 4095)⟩]⟩,
  ⟨MEM_PWR_HOLD, 1, 0xA, [⟨MEM_PWR_HOLD_holdoff, .rw, (.nat 1 255)⟩]⟩,
  ⟨MEM_LT_MIN, 1, 0xFFFF, [⟨MEM_LT_MIN_tolerance, .ro, .any⟩, ⟨MEM_LT_MIN_port, .ro, .any⟩]⟩,
  ⟨MEM_CAP, 1, 0x0, [⟨MEM_CAP_capacity, .ro, .any⟩]⟩,
  ⟨MEM_MAP0_LO, 1, 0x40404, [⟨MEM_MAP0_LO_mask, .rwl, .any⟩]⟩,
  ⟨MEM_MAP1_LO, 1, 0x80808, [⟨MEM_MAP1_LO_mask, .rwl, .any⟩]⟩,
  ⟨MEM_MAP2_LO, 1, 0x101010, [⟨MEM_MAP2_LO_mask, .rwl, .any⟩]⟩,
  ⟨MEM_MAP3_LO, 1, 0x202020, [⟨MEM_MAP3_LO_mask, .rwl, .any⟩]⟩,
  ⟨MEM_MAP4_LO, 1, 0x0, [⟨MEM_MAP4_LO_mask, .rwl, .any⟩]⟩,
  ⟨MEM_MAP5_LO, 1, 0x404040, [⟨MEM_MAP5_LO_mask, .rwl, .any⟩]⟩,
  ⟨MEM_MAP6_LO, 1, 0x808080, [⟨MEM_MAP6_LO_mask, .rwl, .any⟩]⟩,
  ⟨MEM_MAP7_LO, 1, 0x1010100, [⟨MEM_MAP7_LO_mask, .rwl, .any⟩]⟩,
  ⟨MEM_MAP8_LO, 1, 0x2020200, [⟨MEM_MAP8_LO_mask, .rwl, .any⟩]⟩,
  ⟨MEM_MAP_HI, 9, 0x0, [⟨MEM_MAP_HI_mask_hi, .rwl, .any⟩]⟩]

/-- The registers of page kind `memCh`. -/
def rows_memCh : List RegRow := [
  ⟨MEM_CH_CTRL, 1, 0x0, [⟨MEM_CH_CTRL_policy, .rw, .any⟩]⟩,
  ⟨MEM_CH_PD_IDLE, 1, 0x14, [⟨MEM_CH_PD_IDLE_idle, .rw, .any⟩]⟩,
  ⟨MEM_CH_STATUS, 1, 0x0, [⟨MEM_CH_STATUS_rate_r0, .ro, .any⟩, ⟨MEM_CH_STATUS_rate_r1, .ro, .any⟩, ⟨MEM_CH_STATUS_credit_r0, .ro, .any⟩, ⟨MEM_CH_STATUS_credit_r1, .ro, .any⟩, ⟨MEM_CH_STATUS_mr4_r0, .ro, .any⟩, ⟨MEM_CH_STATUS_mr4_r1, .ro, .any⟩]⟩]

/-- The registers of page kind `memEcc`. -/
def rows_memEcc : List RegRow := [
  ⟨MEM_ECC_CTRL, 1, 0x1, [⟨MEM_ECC_CTRL_wb_en, .rwl, .any⟩]⟩,
  ⟨MEM_ECC_BASE, 8, 0x0, [⟨MEM_ECC_BASE_base, .rwl, .any⟩]⟩,
  ⟨MEM_ECC_SIZE, 8, 0x0, [⟨MEM_ECC_SIZE_size, .rwl, .any⟩]⟩]

/-- The registers of page kind `mem18`. -/
def rows_mem18 : List RegRow := [
  ⟨MEM_RT, 11, 0xFFFF, [⟨MEM_RT_tolerance, .ro, .any⟩, ⟨MEM_RT_urgent, .ro, .any⟩, ⟨MEM_RT_panic, .ro, .any⟩]⟩]

/-- The registers of page kind `mem19`. -/
def rows_mem19 : List RegRow := [
  ⟨MEM_RSV_RATE, 33, 0x0, [⟨MEM_RSV_RATE_rate, .ro, .any⟩]⟩,
  ⟨MEM_RSV_DEPTH, 33, 0x0, [⟨MEM_RSV_DEPTH_depth, .ro, .any⟩]⟩]

/-- The registers of page kind `mem20`. -/
def rows_mem20 : List RegRow := [
  ⟨MEM_STRICT_SLOT, 16, 0x3F3F3F3F, [⟨MEM_STRICT_SLOT, .ro, .any⟩]⟩,
  ⟨MEM_STRICT_WIN, 1, 0x0, [⟨MEM_STRICT_WIN_length, .ro, .any⟩, ⟨MEM_STRICT_WIN_accesses, .ro, .any⟩]⟩]

/-- The registers of page kind `mem21`. -/
def rows_mem21 : List RegRow := [
  ⟨MEM_BUCKET, 33, 0x0, [⟨MEM_BUCKET, .ro, .any⟩]⟩]

/-- The registers of page kind `vlt0`. -/
def rows_vlt0 : List RegRow := [
  ⟨VLT_CTRL, 1, 0x401, [⟨VLT_CTRL_scrub_en, .rw, .any⟩, ⟨VLT_CTRL_period, .rw, (.nat 1 255)⟩]⟩,
  ⟨VLT_SPACE, 1, 0x0, [⟨VLT_SPACE_reserved, .ro, .any⟩, ⟨VLT_SPACE_free, .ro, .any⟩, ⟨VLT_SPACE_retained, .ro, .any⟩]⟩]

/-- The registers of page kind `vltBg`. -/
def rows_vltBg : List RegRow := [
  ⟨VLT_BG_STATUS, 1, 0x0, [⟨VLT_BG_STATUS_on, .ro, .any⟩]⟩]

/-- The registers of page kind `acc0`. -/
def rows_acc0 : List RegRow := [
  ⟨ACC_ID, 1, 0x0, [⟨ACC_ID_account, .ro, .any⟩, ⟨ACC_ID_port, .ro, .any⟩, ⟨ACC_ID_role, .ro, .any⟩, ⟨ACC_ID_world, .ro, .any⟩, ⟨ACC_ID_personality, .ro, .any⟩]⟩,
  ⟨ACC_STATE, 1, 0x0, [⟨ACC_STATE_state, .ro, .any⟩, ⟨ACC_STATE_reset_cause, .ro, .any⟩, ⟨ACC_STATE_func_present, .ro, .any⟩, ⟨ACC_STATE_d3, .ro, .any⟩]⟩,
  ⟨ACC_PB_DOORBELL, 1, 0x0, [⟨ACC_PB_DOORBELL_ring, .wo, .any⟩]⟩,
  ⟨ACC_PB_PENDING, 1, 0x0, [⟨ACC_PB_PENDING_accounts, .w1c, .any⟩]⟩,
  ⟨ACC_PB_RING, 1, 0x0, [⟨ACC_PB_RING_account, .wo, .any⟩]⟩,
  ⟨ACC_EFX_TABLE, 1, 0x0, [⟨ACC_EFX_TABLE_offset, .rwe, .any⟩]⟩,
  ⟨ACC_EFX_COUNT, 1, 0x0, [⟨ACC_EFX_COUNT_count, .rwe, (.nat 0 4096)⟩]⟩,
  ⟨ACC_EVENT_Q, 1, 0x0, [⟨ACC_EVENT_Q_queue, .rw, .any⟩, ⟨ACC_EVENT_Q_en, .rw, .any⟩]⟩,
  ⟨ACC_GRANT_GEN, 1, 0x0, [⟨ACC_GRANT_GEN_gen, .ro, .any⟩]⟩]

/-- The registers of page kind `acc3`. -/
def rows_acc3 : List RegRow := [
  ⟨ACC_Q_DB, 256, 0x0, [⟨ACC_Q_DB, .wo, .any⟩]⟩]

/-- The registers of page kind `acc45`. -/
def rows_acc45 : List RegRow := [
  ⟨ACC_Q_BASE_LO, 128, 0x0, [⟨ACC_Q_BASE_LO_addr, .rw, .any⟩]⟩,
  ⟨ACC_Q_BASE_HI, 128, 0x0, [⟨ACC_Q_BASE_HI_addr_hi, .rw, .any⟩]⟩,
  ⟨ACC_Q_CTRL, 128, 0x0, [⟨ACC_Q_CTRL_en, .rw, .any⟩, ⟨ACC_Q_CTRL_type, .rw, (.oneOf [0, 1, 2, 3, 4, 5, 6])⟩, ⟨ACC_Q_CTRL_space, .rw, .any⟩, ⟨ACC_Q_CTRL_log2size, .rw, (.nat 1 16)⟩, ⟨ACC_Q_CTRL_cq, .rw, .any⟩]⟩,
  ⟨ACC_Q_INT, 128, 0x100, [⟨ACC_Q_INT_vector, .rw, .any⟩, ⟨ACC_Q_INT_irq_en, .rw, .any⟩, ⟨ACC_Q_INT_count, .rw, (.nat 1 255)⟩, ⟨ACC_Q_INT_time_us, .rw, .any⟩]⟩]

/-- The registers of page kind `acc6`. -/
def rows_acc6 : List RegRow := [
  ⟨ACC_Q_LOST, 256, 0x0, [⟨ACC_Q_LOST, .ro, .any⟩]⟩,
  ⟨ACC_Q_HEAD, 256, 0x0, [⟨ACC_Q_HEAD, .ro, .any⟩]⟩,
  ⟨ACC_Q_TAIL, 256, 0x0, [⟨ACC_Q_TAIL, .ro, .any⟩]⟩]

/-- The registers of page kind `acc7`. -/
def rows_acc7 : List RegRow := [
  ⟨NS_TX_SEND, 1, 0x0, [⟨NS_TX_SEND_dest, .wo, .any⟩]⟩,
  ⟨NS_TX_STATUS, 1, 0x0, [⟨NS_TX_STATUS_off_error, .w1c, .any⟩]⟩,
  ⟨NS_RX_SEL, 1, 0x0, [⟨NS_RX_SEL_channel, .rw, .any⟩]⟩,
  ⟨NS_RX_STATUS, 1, 0x0, [⟨NS_RX_STATUS_count, .ro, .any⟩, ⟨NS_RX_STATUS_dropped, .ro, .any⟩]⟩,
  ⟨NS_RX_TAKE, 1, 0x0, [⟨NS_RX_TAKE_take, .wo, .any⟩, ⟨NS_RX_TAKE_clr_dropped, .wo, .any⟩]⟩,
  ⟨NS_TX_DATA, 16, 0x0, [⟨NS_TX_DATA, .rw, .any⟩]⟩,
  ⟨NS_RX_DATA, 16, 0x0, [⟨NS_RX_DATA, .ro, .any⟩]⟩]

/-- The registers of page kind `hst01`. -/
def rows_hst01 : List RegRow := [
  ⟨HST_PORT_STATUS, 1, 0x0, [⟨HST_PORT_STATUS_speed, .ro, .any⟩, ⟨HST_PORT_STATUS_width, .ro, .any⟩, ⟨HST_PORT_STATUS_link_up, .ro, .any⟩, ⟨HST_PORT_STATUS_numvfs, .ro, .any⟩]⟩]

/-- The registers of page kind `hstCe`. -/
def rows_hstCe : List RegRow := [
  ⟨HST_CE_STATUS, 2, 0x0, [⟨HST_CE_STATUS_busy, .ro, .any⟩, ⟨HST_CE_STATUS_account, .ro, .any⟩, ⟨HST_CE_STATUS_queue, .ro, .any⟩]⟩]

/-- The registers of page kind `hst2`. -/
def rows_hst2 : List RegRow := [
  ⟨HST_CE_TURN, 1, 0xA, [⟨HST_CE_TURN_us, .rwl, (.nat 1 1023)⟩]⟩]

/-- The registers of page kind `cus0`. -/
def rows_cus0 : List RegRow := [
  ⟨CUS_BOOT_STATUS, 1, 0x0, [⟨CUS_BOOT_STATUS_stage, .ro, .any⟩, ⟨CUS_BOOT_STATUS_result, .ro, .any⟩, ⟨CUS_BOOT_STATUS_slot, .ro, .any⟩, ⟨CUS_BOOT_STATUS_plan, .ro, .any⟩]⟩,
  ⟨CUS_FW_VERSION, 1, 0x0, [⟨CUS_FW_VERSION_version, .ro, .any⟩, ⟨CUS_FW_VERSION_rollback, .ro, .any⟩]⟩,
  ⟨CUS_LIFECYCLE, 1, 0x0, [⟨CUS_LIFECYCLE_state, .ro, .any⟩, ⟨CUS_LIFECYCLE_recovered, .ro, .any⟩, ⟨CUS_LIFECYCLE_tap, .ro, .any⟩]⟩,
  ⟨CUS_ISOLATION, 1, 0x0, [⟨CUS_ISOLATION_strict, .ro, .any⟩, ⟨CUS_ISOLATION_worlds_locked, .ro, .any⟩, ⟨CUS_ISOLATION_plan_locked, .ro, .any⟩, ⟨CUS_ISOLATION_inject_perm, .ro, .any⟩, ⟨CUS_ISOLATION_promise, .ro, .any⟩]⟩,
  ⟨CUS_TRUSTED, 1, 0x0, [⟨CUS_TRUSTED_accounts, .ro, .any⟩]⟩]

/-- The registers of page kind `cus1`. -/
def rows_cus1 : List RegRow := [
  ⟨CUS_FW_DRAM_BASE, 64, 0x0, [⟨CUS_FW_DRAM_BASE_base, .ro, .any⟩]⟩,
  ⟨CUS_FW_DRAM_SIZE, 64, 0x0, [⟨CUS_FW_DRAM_SIZE_size, .ro, .any⟩, ⟨CUS_FW_DRAM_SIZE_world, .ro, .any⟩]⟩]

/-- The registers of page kind `cus2`. -/
def rows_cus2 : List RegRow := [
  ⟨CUS_FW_VLT_BASE, 32, 0x0, [⟨CUS_FW_VLT_BASE_base, .ro, .any⟩]⟩,
  ⟨CUS_FW_VLT_SIZE, 32, 0x0, [⟨CUS_FW_VLT_SIZE_size, .ro, .any⟩, ⟨CUS_FW_VLT_SIZE_world, .ro, .any⟩]⟩]

/-- The registers of page kind `cus3`. -/
def rows_cus3 : List RegRow := [
  ⟨CUS_ACC_RGN_BASE, 384, 0x0, [⟨CUS_ACC_RGN_BASE_base, .ro, .any⟩]⟩,
  ⟨CUS_ACC_RGN_SIZE, 384, 0x0, [⟨CUS_ACC_RGN_SIZE_size, .ro, .any⟩, ⟨CUS_ACC_RGN_SIZE_perm, .ro, .any⟩]⟩]

/-- The registers of page kind `ldg0`. -/
def rows_ldg0 : List RegRow := [
  ⟨LDG_EXP_CTRL, 1, 0x0, [⟨LDG_EXP_CTRL_en, .rw, .any⟩, ⟨LDG_EXP_CTRL_log2size, .rw, (.nat 10 20)⟩]⟩,
  ⟨LDG_EXP_BASE_LO, 1, 0x0, [⟨LDG_EXP_BASE_LO_addr, .rw, .any⟩]⟩,
  ⟨LDG_EXP_BASE_HI, 1, 0x0, [⟨LDG_EXP_BASE_HI_addr_hi, .rw, .any⟩]⟩,
  ⟨LDG_EXP_HEAD, 1, 0x0, [⟨LDG_EXP_HEAD, .rw, .any⟩]⟩,
  ⟨LDG_EXP_TAIL, 1, 0x0, [⟨LDG_EXP_TAIL, .ro, .any⟩]⟩,
  ⟨LDG_STATUS, 1, 0x0, [⟨LDG_STATUS_occupancy, .ro, .any⟩, ⟨LDG_STATUS_open_refusing, .ro, .any⟩, ⟨LDG_STATUS_trusted_refusing, .ro, .any⟩, ⟨LDG_STATUS_held, .ro, .any⟩]⟩,
  ⟨LDG_SEQ, 1, 0x0, [⟨LDG_SEQ, .ro, .any⟩]⟩,
  ⟨LDG_REFUSED, 1, 0x0, [⟨LDG_REFUSED, .ro, .any⟩]⟩]

/-- The registers of page kind `ldg1`. -/
def rows_ldg1 : List RegRow := [
  ⟨LDG_SEAL_COUNT, 1, 0x0, [⟨LDG_SEAL_COUNT, .ro, .any⟩]⟩,
  ⟨LDG_SEAL, 512, 0x0, [⟨LDG_SEAL, .ro, .any⟩]⟩]

/-- The registers of page kind `ldg2`. -/
def rows_ldg2 : List RegRow := [
  ⟨LDG_PUBKEY, 24, 0x0, [⟨LDG_PUBKEY, .ro, .any⟩]⟩,
  ⟨LDG_UID, 2, 0x0, [⟨LDG_UID, .ro, .any⟩]⟩]

/-- The registers of page kind `ldg3`. -/
def rows_ldg3 : List RegRow := [
  ⟨LDG_LAST, 8, 0x0, [⟨LDG_LAST, .ro, .any⟩]⟩]

/-- The registers of page kind `flt0`. -/
def rows_flt0 : List RegRow := [
  ⟨FLT_ACTION0, 1, 0x1, [⟨FLT_ACTION0_actions, .rw, .any⟩]⟩,
  ⟨FLT_ACTION1, 1, 0x3, [⟨FLT_ACTION1_actions, .rw, .any⟩]⟩,
  ⟨FLT_ACTION2, 1, 0x7, [⟨FLT_ACTION2_actions, .rw, .any⟩]⟩,
  ⟨FLT_ACTION3, 1, 0xB, [⟨FLT_ACTION3_actions, .rw, .any⟩]⟩,
  ⟨FLT_COUNT, 8, 0x0, [⟨FLT_COUNT_count, .ro, .any⟩]⟩,
  ⟨FLT_SCAN, 1, 0x0, [⟨FLT_SCAN_scans, .ro, .any⟩, ⟨FLT_SCAN_last, .ro, .any⟩]⟩]

/-- The registers of page kind `flt1`. -/
def rows_flt1 : List RegRow := [
  ⟨FLT_MAP, 128, 0x0, [⟨FLT_MAP_pages, .ro, .any⟩]⟩]

/-- The registers of page kind `flt2`. -/
def rows_flt2 : List RegRow := [
  ⟨FLT_TACTION, 4, 0x0, [⟨FLT_TACTION_actions, .rwl, .any⟩]⟩,
  ⟨FLT_OUT_CTRL, 1, 0x32, [⟨FLT_OUT_CTRL_half_period, .rwl, (.nat 10 1000)⟩]⟩,
  ⟨FLT_HEARTBEAT, 1, 0x0, [⟨FLT_HEARTBEAT_seq, .wo, .any⟩]⟩,
  ⟨FLT_OUT_STATUS, 1, 0x0, [⟨FLT_OUT_STATUS_level, .ro, .any⟩, ⟨FLT_OUT_STATUS_alive, .ro, .any⟩, ⟨FLT_OUT_STATUS_pin_fault, .ro, .any⟩, ⟨FLT_OUT_STATUS_scan_late, .ro, .any⟩, ⟨FLT_OUT_STATUS_hb_late, .ro, .any⟩, ⟨FLT_OUT_STATUS_compat, .ro, .any⟩]⟩,
  ⟨FLT_SAFE_CTRL, 1, 0x0, [⟨FLT_SAFE_CTRL_force, .rw, .any⟩]⟩,
  ⟨FLT_SAFE_STATUS, 1, 0x0, [⟨FLT_SAFE_STATUS_outputs, .ro, .any⟩, ⟨FLT_SAFE_STATUS_device, .ro, .any⟩, ⟨FLT_SAFE_STATUS_req_n, .ro, .any⟩, ⟨FLT_SAFE_STATUS_forced, .ro, .any⟩]⟩,
  ⟨FLT_INJECT_PATTERN, 1, 0x0, [⟨FLT_INJECT_PATTERN_pattern, .rwl, (.oneOf [0, 1, 2])⟩]⟩]

/-- The registers of page kind `flt3`. -/
def rows_flt3 : List RegRow := [
  ⟨FLT_TMAP, 128, 0x0, [⟨FLT_TMAP_pages, .ro, .any⟩]⟩]

/-- The registers of page kind `chk`. -/
def rows_chk : List RegRow := [
  ⟨CHK_CTRL, 1, 0x0, [⟨CHK_CTRL_en, .rw, .any⟩, ⟨CHK_CTRL_resume, .rw, .any⟩, ⟨CHK_CTRL_point, .rw, (.oneOf [0, 1, 2, 3, 4, 5, 6, 7, 8, 9, 10, 11, 12, 13, 14, 15, 16, 17, 24, 25, 26, 27, 28, 29, 30, 31])⟩, ⟨CHK_CTRL_poly, .rw, .any⟩]⟩,
  ⟨CHK_BLOCK, 1, 0xBB80, [⟨CHK_BLOCK_periods, .rw, (.nat 1 65535)⟩]⟩,
  ⟨CHK_STATUS, 1, 0x0, [⟨CHK_STATUS_active, .ro, .any⟩, ⟨CHK_STATUS_frames, .ro, .any⟩]⟩,
  ⟨CHK_RESULT, 1, 0x0, [⟨CHK_RESULT_mismatch, .ro, .any⟩, ⟨CHK_RESULT_incomplete, .ro, .any⟩]⟩,
  ⟨CHK_WIN_CTRL, 16, 0x0, [⟨CHK_WIN_CTRL_en, .rw, .any⟩, ⟨CHK_WIN_CTRL_exp_valid, .rw, .any⟩]⟩,
  ⟨CHK_WIN_XY, 16, 0x0, [⟨CHK_WIN_XY_x, .rw, (.nat 0 8191)⟩, ⟨CHK_WIN_XY_y, .rw, .any⟩]⟩,
  ⟨CHK_WIN_WH, 16, 0x0, [⟨CHK_WIN_WH_w_m1, .rw, (.nat 0 8191)⟩, ⟨CHK_WIN_WH_h_m1, .rw, .any⟩]⟩,
  ⟨CHK_WIN_MATCH, 16, 0x0, [⟨CHK_WIN_MATCH_index, .ro, .any⟩, ⟨CHK_WIN_MATCH_matched, .ro, .any⟩]⟩,
  ⟨CHK_WIN_EXP0, 16, 0x0, [⟨CHK_WIN_EXP0, .rw, .any⟩]⟩,
  ⟨CHK_WIN_EXP1, 16, 0x0, [⟨CHK_WIN_EXP1, .rw, .any⟩]⟩,
  ⟨CHK_WIN_EXP2, 16, 0x0, [⟨CHK_WIN_EXP2, .rw, .any⟩]⟩,
  ⟨CHK_WIN_EXP3, 16, 0x0, [⟨CHK_WIN_EXP3, .rw, .any⟩]⟩,
  ⟨CHK_WIN_RUN, 16, 0xFFFFFFFF, [⟨CHK_WIN_RUN, .rw, .any⟩]⟩,
  ⟨CHK_WIN_LAST, 16, 0x0, [⟨CHK_WIN_LAST, .ro, .any⟩]⟩]

/-- The registers of page kind `tchB`. -/
def rows_tchB : List RegRow := [
  ⟨TCH_B_CTRL, 1, 0x8, [⟨TCH_B_CTRL_en, .rw, .any⟩, ⟨TCH_B_CTRL_cal_en, .rw, .any⟩, ⟨TCH_B_CTRL_raw_en, .rw, .any⟩, ⟨TCH_B_CTRL_shield_en, .rw, .any⟩, ⟨TCH_B_CTRL_freq_init, .rw, .any⟩]⟩,
  ⟨TCH_B_SCAN, 1, 0x6403E8, [⟨TCH_B_SCAN_period_us, .rw, (.nat 500 10000)⟩, ⟨TCH_B_SCAN_slot_us, .rw, (.nat 20 500)⟩]⟩,
  ⟨TCH_B_NOISE, 1, 0x80FF0014, [⟨TCH_B_NOISE_thresh, .rw, (.nat 1 4095)⟩, ⟨TCH_B_NOISE_mask, .rw, (.nat 1 255)⟩, ⟨TCH_B_NOISE_hop_en, .rw, .any⟩]⟩,
  ⟨TCH_B_REPORT, 1, 0x0, [⟨TCH_B_REPORT_queue, .rw, .any⟩, ⟨TCH_B_REPORT_en, .rw, .any⟩]⟩,
  ⟨TCH_B_CAL_LO, 1, 0x0, [⟨TCH_B_CAL_LO_addr, .rw, .any⟩]⟩,
  ⟨TCH_B_CAL_HI, 1, 0x0, [⟨TCH_B_CAL_HI_addr_hi, .rw, .any⟩, ⟨TCH_B_CAL_HI_space, .rw, .any⟩]⟩,
  ⟨TCH_B_STATUS, 1, 0x0, [⟨TCH_B_STATUS_freq, .ro, .any⟩, ⟨TCH_B_STATUS_scanning, .ro, .any⟩, ⟨TCH_B_STATUS_scans, .ro, .any⟩]⟩,
  ⟨TCH_B_REF, 1, 0x0, [⟨TCH_B_REF_count, .ro, .any⟩, ⟨TCH_B_REF_freq, .ro, .any⟩]⟩,
  ⟨TCH_B_REF_FACTORY, 8, 0x0, [⟨TCH_B_REF_FACTORY_count, .ro, .any⟩]⟩,
  ⟨TCH_B_NOISE_LEVEL, 8, 0x0, [⟨TCH_B_NOISE_LEVEL_noise, .ro, .any⟩]⟩,
  ⟨TCH_B_CH_CFG, 32, 0x780A00, [⟨TCH_B_CH_CFG_en, .rw, .any⟩, ⟨TCH_B_CH_CFG_mode, .rw, (.oneOf [0, 1, 2])⟩, ⟨TCH_B_CH_CFG_tau_s, .rw, (.nat 1 60)⟩, ⟨TCH_B_CH_CFG_hold_s, .rw, (.nat 1 7200)⟩]⟩,
  ⟨TCH_B_CH_THR, 32, 0x1032064, [⟨TCH_B_CH_THR_touch, .rw, (.nat 2 4095)⟩, ⟨TCH_B_CH_THR_release, .rw, (.nat 1 4095)⟩, ⟨TCH_B_CH_THR_debounce, .rw, (.nat 1 8)⟩]⟩,
  ⟨TCH_B_CH_BASE, 32, 0x0, [⟨TCH_B_CH_BASE_baseline, .ro, .any⟩, ⟨TCH_B_CH_BASE_signal, .ro, .any⟩]⟩,
  ⟨TCH_B_CH_STATE, 32, 0x0, [⟨TCH_B_CH_STATE_delta, .ro, .any⟩, ⟨TCH_B_CH_STATE_touched, .ro, .any⟩, ⟨TCH_B_CH_STATE_recal, .ro, .any⟩, ⟨TCH_B_CH_STATE_stuck_wait, .ro, .any⟩, ⟨TCH_B_CH_STATE_at_start, .ro, .any⟩]⟩,
  ⟨TCH_B_GRP_CFG, 8, 0x4020000, [⟨TCH_B_GRP_CFG_en, .rw, .any⟩, ⟨TCH_B_GRP_CFG_kind, .rw, .any⟩, ⟨TCH_B_GRP_CFG_first, .rw, (.nat 0 30)⟩, ⟨TCH_B_GRP_CFG_count, .rw, (.nat 2 16)⟩, ⟨TCH_B_GRP_CFG_hyst, .rw, .any⟩]⟩,
  ⟨TCH_B_GRP_POS, 8, 0x0, [⟨TCH_B_GRP_POS_pos, .ro, .any⟩, ⟨TCH_B_GRP_POS_speed, .ro, .any⟩]⟩]

/-- The registers of page kind `hapCh`. -/
def rows_hapCh : List RegRow := [
  ⟨HAP_CTRL, 1, 0x0, [⟨HAP_CTRL_en, .rw, .any⟩, ⟨HAP_CTRL_mode, .rw, .any⟩, ⟨HAP_CTRL_src, .rw, .any⟩, ⟨HAP_CTRL_col, .rw, .any⟩]⟩,
  ⟨HAP_PWM, 1, 0xA0019, [⟨HAP_PWM_freq_khz, .rw, (.nat 20 200)⟩, ⟨HAP_PWM_dead, .rw, (.nat 1 127)⟩]⟩,
  ⟨HAP_RES, 1, 0x812C0064, [⟨HAP_RES_f_min, .rw, (.nat 40 1000)⟩, ⟨HAP_RES_f_max, .rw, (.nat 40 1000)⟩, ⟨HAP_RES_track_en, .rw, .any⟩]⟩,
  ⟨HAP_SENSE, 1, 0x28, [⟨HAP_SENSE_gap_us, .rw, (.nat 10 255)⟩]⟩,
  ⟨HAP_OL, 1, 0x3E832, [⟨HAP_OL_od_cycles, .rw, .any⟩, ⟨HAP_OL_brake_cycles, .rw, .any⟩, ⟨HAP_OL_od_level, .rw, (.nat 0 1000)⟩]⟩,
  ⟨HAP_CL, 1, 0xC80820, [⟨HAP_CL_kp, .rw, .any⟩, ⟨HAP_CL_ki, .rw, .any⟩, ⟨HAP_CL_target_fs, .rw, (.nat 1 4095)⟩]⟩,
  ⟨HAP_ACC, 1, 0x75300000, [⟨HAP_ACC_spi, .rw, .any⟩, ⟨HAP_ACC_cs, .rw, .any⟩, ⟨HAP_ACC_cmd, .rw, .any⟩, ⟨HAP_ACC_range, .rw, (.nat 1 32766)⟩]⟩,
  ⟨HAP_ACC_SCALE, 1, 0x1000, [⟨HAP_ACC_SCALE_counts_per_g, .rw, (.nat 1 65535)⟩]⟩,
  ⟨HAP_ACT, 1, 0x0, [⟨HAP_ACT_kv, .rw, .any⟩]⟩,
  ⟨HAP_THERM, 1, 0x3C140190, [⟨HAP_THERM_rth, .rw, (.nat 1 4095)⟩, ⟨HAP_THERM_tau_s, .rw, (.nat 1 255)⟩, ⟨HAP_THERM_rise_max, .rw, (.nat 1 255)⟩]⟩,
  ⟨HAP_LIB, 1, 0x0, [⟨HAP_LIB_offset, .rw, .any⟩]⟩,
  ⟨HAP_LIB_COUNT, 1, 0x0, [⟨HAP_LIB_COUNT_count, .rw, .any⟩]⟩,
  ⟨HAP_TRIP, 1, 0x0, [⟨HAP_TRIP_latched, .ro, .any⟩, ⟨HAP_TRIP_pin, .ro, .any⟩, ⟨HAP_TRIP_clr, .w1s, .any⟩]⟩,
  ⟨HAP_STATUS, 1, 0x0, [⟨HAP_STATUS_state, .ro, .any⟩, ⟨HAP_STATUS_loop, .ro, .any⟩, ⟨HAP_STATUS_ramp, .ro, .any⟩, ⟨HAP_STATUS_res_hz, .ro, .any⟩]⟩,
  ⟨HAP_COIL, 1, 0x0, [⟨HAP_COIL_r_mohm, .ro, .any⟩, ⟨HAP_COIL_result, .ro, .any⟩]⟩,
  ⟨HAP_THERM_STATUS, 1, 0x0, [⟨HAP_THERM_STATUS_rise, .ro, .any⟩]⟩,
  ⟨HAP_PLAY, 1, 0x0, [⟨HAP_PLAY_effect, .ro, .any⟩, ⟨HAP_PLAY_segment, .ro, .any⟩, ⟨HAP_PLAY_prio, .ro, .any⟩, ⟨HAP_PLAY_touch, .ro, .any⟩]⟩,
  ⟨HAP_TRIG, 4, 0x0, [⟨HAP_TRIG_en, .rw, .any⟩, ⟨HAP_TRIG_event, .rw, .any⟩, ⟨HAP_TRIG_kind, .rw, .any⟩, ⟨HAP_TRIG_bank, .rw, .any⟩, ⟨HAP_TRIG_index, .rw, .any⟩, ⟨HAP_TRIG_effect, .rw, .any⟩, ⟨HAP_TRIG_prio, .rw, .any⟩]⟩]

/-- The registers of page kind `aud0`. -/
def rows_aud0 : List RegRow := [
  ⟨AUD_RATE, 1, 0x0, [⟨AUD_RATE_p, .rwl, .any⟩, ⟨AUD_RATE_m, .rwl, .any⟩]⟩,
  ⟨AUD_BRIDGE0, 1, 0x0, [⟨AUD_BRIDGE0_locked, .ro, .any⟩]⟩,
  ⟨AUD_BRIDGE1, 1, 0x0, [⟨AUD_BRIDGE1_locked, .ro, .any⟩]⟩]

/-- The registers of page kind `audRow`. -/
def rows_audRow : List RegRow := [
  ⟨AUD_ROW_ZC, 1, 0xA, [⟨AUD_ROW_ZC_timeout_ms, .rw, (.nat 1 100)⟩]⟩,
  ⟨AUD_ROW_SRC, 8, 0x0, [⟨AUD_ROW_SRC_en, .rw, .any⟩, ⟨AUD_ROW_SRC_kind, .rw, (.oneOf [0, 1, 2])⟩, ⟨AUD_ROW_SRC_port, .rw, .any⟩, ⟨AUD_ROW_SRC_slot, .rw, .any⟩, ⟨AUD_ROW_SRC_queue, .rw, .any⟩, ⟨AUD_ROW_SRC_ch, .rw, .any⟩, ⟨AUD_ROW_SRC_domain, .rw, .any⟩]⟩,
  ⟨AUD_ROW_STATUS, 8, 0x0, [⟨AUD_ROW_STATUS_valid, .ro, .any⟩, ⟨AUD_ROW_STATUS_locked, .ro, .any⟩]⟩,
  ⟨AUD_ROW_G, 256, 0x0, [⟨AUD_ROW_G_even, .rw, (.nat 0 897)⟩, ⟨AUD_ROW_G_odd, .rw, (.nat 0 897)⟩]⟩]

/-- The registers of page kind `audCol`. -/
def rows_audCol : List RegRow := [
  ⟨AUD_COL_BANK, 1, 0x0, [⟨AUD_COL_BANK_ready, .w1s, .any⟩, ⟨AUD_COL_BANK_active, .ro, .any⟩, ⟨AUD_COL_BANK_late, .w1c, .any⟩, ⟨AUD_COL_BANK_xfade, .ro, .any⟩]⟩,
  ⟨AUD_COL_SINK, 8, 0x0, [⟨AUD_COL_SINK_en, .rw, .any⟩, ⟨AUD_COL_SINK_kind, .rw, .any⟩, ⟨AUD_COL_SINK_port, .rw, .any⟩, ⟨AUD_COL_SINK_slot, .rw, .any⟩, ⟨AUD_COL_SINK_queue, .rw, .any⟩, ⟨AUD_COL_SINK_ch, .rw, .any⟩, ⟨AUD_COL_SINK_chans_m1, .rw, .any⟩, ⟨AUD_COL_SINK_fmt, .rw, (.oneOf [0, 1, 2])⟩]⟩,
  ⟨AUD_COL_EQ, 8, 0x0, [⟨AUD_COL_EQ_sections, .rw, (.nat 0 16)⟩]⟩,
  ⟨AUD_COL_STATUS, 8, 0x0, [⟨AUD_COL_STATUS_valid, .ro, .any⟩, ⟨AUD_COL_STATUS_locked, .ro, .any⟩]⟩,
  ⟨AUD_COL_COEF, 640, 0x0, [⟨AUD_COL_COEF_coef, .rw, .any⟩]⟩]

/-- The registers of page kind `aud21`. -/
def rows_aud21 : List RegRow := [
  ⟨AUD_TDM_CFG, 8, 0x0, [⟨AUD_TDM_CFG_fmt, .ro, .any⟩, ⟨AUD_TDM_CFG_slots_m1, .ro, .any⟩, ⟨AUD_TDM_CFG_slot_bits, .ro, .any⟩, ⟨AUD_TDM_CFG_word, .ro, .any⟩, ⟨AUD_TDM_CFG_domain, .ro, .any⟩, ⟨AUD_TDM_CFG_edge, .ro, .any⟩]⟩,
  ⟨AUD_TDM_STATUS, 8, 0x0, [⟨AUD_TDM_STATUS_rate_hz, .ro, .any⟩, ⟨AUD_TDM_STATUS_fs_present, .ro, .any⟩]⟩,
  ⟨AUD_PDM_CFG, 1, 0x0, [⟨AUD_PDM_CFG_lines, .ro, .any⟩]⟩]

/-- The registers of page kind `aud23`. -/
def rows_aud23 : List RegRow := [
  ⟨AUD_CHIME_SRC, 1, 0x0, [⟨AUD_CHIME_SRC_en, .rw, .any⟩, ⟨AUD_CHIME_SRC_kind, .rw, (.oneOf [0, 2])⟩, ⟨AUD_CHIME_SRC_index, .rw, .any⟩]⟩,
  ⟨AUD_CHIME_DUCK, 1, 0xA3C00C0, [⟨AUD_CHIME_DUCK_amount, .rw, (.nat 0 800)⟩, ⟨AUD_CHIME_DUCK_thresh, .rw, (.nat 1 96)⟩, ⟨AUD_CHIME_DUCK_hold, .rw, (.nat 1 255)⟩]⟩,
  ⟨AUD_CHIME_STATUS, 1, 0x0, [⟨AUD_CHIME_STATUS_active, .ro, .any⟩, ⟨AUD_CHIME_STATUS_ducking, .ro, .any⟩]⟩,
  ⟨AUD_CHIME_G, 32, 0x0, [⟨AUD_CHIME_G_even, .rw, (.nat 0 897)⟩, ⟨AUD_CHIME_G_odd, .rw, (.nat 0 897)⟩]⟩]

/-- The registers of page kind `glb0`. -/
def rows_glb0 : List RegRow := [
  ⟨GLB_ID_LO, 1, 0x0, [⟨GLB_ID_LO_vendor, .ro, .any⟩, ⟨GLB_ID_LO_device, .ro, .any⟩]⟩,
  ⟨GLB_ID_HI, 1, 0xB0, [⟨GLB_ID_HI_stepping, .ro, .any⟩]⟩,
  ⟨GLB_STRAPS, 1, 0x0, [⟨GLB_STRAPS_compat, .ro, .any⟩, ⟨GLB_STRAPS_boot_src, .ro, .any⟩, ⟨GLB_STRAPS_test, .ro, .any⟩, ⟨GLB_STRAPS_unstable, .ro, .any⟩, ⟨GLB_STRAPS_test_ignored, .ro, .any⟩]⟩,
  ⟨GLB_RESET_CAUSE, 1, 0x0, [⟨GLB_RESET_CAUSE_cause, .ro, .any⟩, ⟨GLB_RESET_CAUSE_count, .ro, .any⟩]⟩]

/-- The registers of page kind `glb1`. -/
def rows_glb1 : List RegRow := [
  ⟨GLB_RESET, 1, 0x0, [⟨GLB_RESET_key, .wo, .any⟩, ⟨GLB_RESET_cold, .wo, .any⟩]⟩]

/-- The registers of page kind `glb3`. -/
def rows_glb3 : List RegRow := [
  ⟨GLB_SENS_LIMITS, 1, 0x78, [⟨GLB_SENS_LIMITS_t_high, .rwl, (.nat 60 125)⟩]⟩,
  ⟨GLB_TEMP_MAX, 1, 0x0, [⟨GLB_TEMP_MAX_temp, .ro, .any⟩, ⟨GLB_TEMP_MAX_sensor, .ro, .any⟩]⟩,
  ⟨GLB_IEST, 1, 0x0, [⟨GLB_IEST_current, .ro, .any⟩]⟩,
  ⟨GLB_TEMP, 32, 0x0, [⟨GLB_TEMP_temp, .ro, .any⟩, ⟨GLB_TEMP_valid, .ro, .any⟩]⟩,
  ⟨GLB_RAIL, 9, 0x0, [⟨GLB_RAIL_mv, .ro, .any⟩, ⟨GLB_RAIL_in_window, .ro, .any⟩]⟩]

/-- The registers of page kind `glb4`. -/
def rows_glb4 : List RegRow := [
  ⟨GLB_TB_LO, 1, 0x0, [⟨GLB_TB_LO_ns_lo, .ro, .any⟩]⟩,
  ⟨GLB_TB_HI, 1, 0x0, [⟨GLB_TB_HI_ns_hi, .ro, .any⟩]⟩,
  ⟨GLB_BKP_STATUS, 1, 0x0, [⟨GLB_BKP_STATUS_vbat_ok, .ro, .any⟩, ⟨GLB_BKP_STATUS_retention_valid, .ro, .any⟩, ⟨GLB_BKP_STATUS_tb_restarted, .ro, .any⟩]⟩,
  ⟨GLB_ALARM_LO, 2, 0x0, [⟨GLB_ALARM_LO_time, .rw, .any⟩]⟩,
  ⟨GLB_ALARM_HI, 2, 0x0, [⟨GLB_ALARM_HI_time, .rw, .any⟩]⟩,
  ⟨GLB_ALARM_CTRL, 1, 0x0, [⟨GLB_ALARM_CTRL_en, .rw, .any⟩, ⟨GLB_ALARM_CTRL_wake_en, .rw, .any⟩, ⟨GLB_ALARM_CTRL_latched, .w1c, .any⟩, ⟨GLB_ALARM_CTRL_on_vbat, .ro, .any⟩]⟩,
  ⟨GLB_BKP_DATA, 48, 0x0, [⟨GLB_BKP_DATA, .rw, .any⟩]⟩]

/-- The registers of page kind `pin0`. -/
def rows_pin0 : List RegRow := [
  ⟨PIN_STATUS, 1, 0x0, [⟨PIN_STATUS_applied, .ro, .any⟩, ⟨PIN_STATUS_conflicts, .ro, .any⟩]⟩]

/-- The registers of page kind `pin1`. -/
def rows_pin1 : List RegRow := [
  ⟨PIN_FN, 20, 0x0, [⟨PIN_FN_en, .ro, .any⟩, ⟨PIN_FN_account, .ro, .any⟩, ⟨PIN_FN_world, .ro, .any⟩, ⟨PIN_FN_option, .ro, .any⟩]⟩]

/-- The registers of page kind `hap0`. -/
def rows_hap0 : List RegRow := [
  ⟨HAP_SPI0_CFG, 1, 0x30, [⟨HAP_SPI0_CFG_en, .rw, .any⟩, ⟨HAP_SPI0_CFG_div, .rw, (.nat 1 255)⟩, ⟨HAP_SPI0_CFG_mode, .rw, .any⟩]⟩,
  ⟨HAP_SPI1_CFG, 1, 0x30, [⟨HAP_SPI1_CFG_en, .rw, .any⟩, ⟨HAP_SPI1_CFG_div, .rw, (.nat 1 255)⟩, ⟨HAP_SPI1_CFG_mode, .rw, .any⟩]⟩]

/-- The registers of page kind `hdr`. -/
def rows_hdr : List RegRow := [
  ⟨PAGE_ID, 1, 0x0, [⟨PAGE_ID, .ro, .any⟩]⟩,
  ⟨PAGE_CAPS, 1, 0x0, [⟨PAGE_CAPS, .ro, .any⟩]⟩,
  ⟨PAGE_CTRL, 1, 0x0, [⟨PAGE_CTRL_enable, .rw, .any⟩, ⟨PAGE_CTRL_block_reset, .w1s, .any⟩, ⟨PAGE_CTRL_sleep_req, .rw, .any⟩, ⟨PAGE_CTRL_lock, .w1s, .any⟩]⟩,
  ⟨PAGE_STATUS, 1, 0x0, [⟨PAGE_STATUS_state, .ro, .any⟩, ⟨PAGE_STATUS_busy, .ro, .any⟩, ⟨PAGE_STATUS_tally_seq, .ro, .any⟩]⟩,
  ⟨EVT_RAW, 1, 0x0, [⟨EVT_RAW, .ro, .any⟩]⟩,
  ⟨EVT_ENABLE, 1, 0x0, [⟨EVT_ENABLE_enable, .rw, .any⟩]⟩,
  ⟨EVT_PENDING, 1, 0x0, [⟨EVT_PENDING, .w1c, .any⟩]⟩,
  ⟨EVT_VECTOR, 1, 0x0, [⟨EVT_VECTOR_vector, .rw, .any⟩]⟩,
  ⟨FLT_STICKY, 1, 0x0, [⟨⟨0x020, 0x004, 15, 0⟩, .w1c, .any⟩]⟩,
  ⟨FLT_CLASS0, 1, 0x0, [⟨FLT_CLASS0_classes, .rwl, .any⟩]⟩,
  ⟨FLT_CLASS1, 1, 0x0, [⟨FLT_CLASS1_classes, .rwl, .any⟩]⟩,
  ⟨FLT_INJECT, 1, 0x0, [⟨FLT_INJECT_source, .rw, .any⟩, ⟨FLT_INJECT_mode, .rw, .any⟩, ⟨FLT_INJECT_count, .rw, .any⟩, ⟨FLT_INJECT_arm, .w1s, .any⟩]⟩,
  ⟨OWNER, 1, 0x40, [⟨OWNER_account, .ro, .any⟩, ⟨OWNER_world, .ro, .any⟩]⟩,
  ⟨ESCROW_STATUS, 1, 0x0, [⟨ESCROW_STATUS, .ro, .any⟩]⟩,
  ⟨TALLY, 8, 0x0, [⟨TALLY, .ro, .any⟩]⟩]

end Sys2Proof.Machine
end

