-- ==== Sys2Proof/Machine/PageMap.lean ====
section
/-! DEFINITION. The pages of the window (R52): the unit and instance of each, what its header announces
(R53, PAGE_CAPS), the registers it carries, and the reset value of every register. -/

namespace Sys2Proof.Machine

/-- The kind of a page: its group, with the page of the group where pages of a group differ. -/
inductive Kind where
  | glb (k : Nat) | cus (k : Nat) | flt (k : Nat) | ldg (k : Nat) | chk | acc (k : Nat) | press | lay | pl
  | out (k : Nat) | sclCtl | sclCoef | xch | branch | mem (k : Nat) | memCh | vlt | vltBg | cap | aud (k : Nat)
  | tch0 | tchB | hap0 | hapCh | gng | hst (k : Nat) | pin (k : Nat) | leg | none
  deriving DecidableEq, Repr

/-- The kind and instance of a page number (R52). -/
def kindOf (p : Nat) : Kind × Nat :=
  if p < 16 then (.glb p, p)
  else if p < 32 then (.cus (p - 16), p - 16)
  else if p < 40 then (.flt (p - 32), p - 32)
  else if p < 44 then (.ldg (p - 40), p - 40)
  else if p < 60 then (.chk, p - 44)
  else if p < 64 then (.none, 0)
  else if p < 576 then (.acc ((p - 64) % 16), (p - 64) / 16)
  else if p < 640 then (.none, 0)
  else if p < 768 then (.press, p - 640)
  else if p < 896 then (.lay, p - 768)
  else if p < 904 then (.pl, p - 896)
  else if p < 1024 then (.none, 0)
  else if p < 1088 then (.out ((p - 1024) % 8), (p - 1024) / 8)
  else if p < 1152 then (if (p - 1088) % 2 = 0 then (.sclCtl, (p - 1088) / 2) else (.sclCoef, (p - 1088) / 2))
  else if p < 1156 then (.xch, p - 1152)
  else if p < 1188 then (.branch, p - 1156)
  else if p < 1280 then (.none, 0)
  else if p < 1302 then (if 1281 ≤ p ∧ p ≤ 1296 then (.memCh, p - 1281) else (.mem (p - 1280), p - 1280))
  else if p < 1312 then (.none, 0)
  else if p < 1329 then (if p = 1312 then (.vlt, 0) else (.vltBg, p - 1313))
  else if p < 1344 then (.none, 0)
  else if p < 1346 then (.cap, p - 1344)
  else if p < 1376 then (.none, 0)
  else if p < 1400 then (.aud (p - 1376), p - 1376)
  else if p < 1408 then (.none, 0)
  else if p < 1413 then (if p = 1408 then (.tch0, 0) else (.tchB, p - 1409))
  else if p < 1424 then (.none, 0)
  else if p < 1433 then (if p = 1424 then (.hap0, 0) else (.hapCh, p - 1425))
  else if p < 1440 then (.none, 0)
  else if p = 1440 then (.gng, 0)
  else if p < 1456 then (.none, 0)
  else if p < 1466 then (.hst (p - 1456), p - 1456)
  else if p < 1472 then (.none, 0)
  else if p < 1476 then (.pin (p - 1472), p - 1472)
  else if p < 2048 then (.none, 0)
  else if p < 2560 then (.leg, p - 2048)
  else (.none, 0)

/-- Page numbers of the units (R52). -/
def glbPage (k : Nat) : Nat := k
def cusPage (k : Nat) : Nat := 16 + k
def fltPage (k : Nat) : Nat := 32 + k
def ldgPage (k : Nat) : Nat := 40 + k
def chkPage (n : Nat) : Nat := 44 + n
def accPage (a k : Nat) : Nat := 64 + 16 * a + k
def pressPage (p : Nat) : Nat := 640 + p
def layPage (l : Nat) : Nat := 768 + l
def plPage (n : Nat) : Nat := 896 + n
def outPage (n k : Nat) : Nat := 1024 + 8 * n + k
def sclPage (n : Nat) : Nat := 1088 + 2 * n
def xchPage (x : Nat) : Nat := 1152 + x
def branchPage (b : Nat) : Nat := 1156 + b
def memPage (k : Nat) : Nat := 1280 + k
def vltPage (k : Nat) : Nat := 1312 + k
def capPage (c : Nat) : Nat := 1344 + c
def audPage (k : Nat) : Nat := 1376 + k
def tchPage (b : Nat) : Nat := 1409 + b
def hapPage (h : Nat) : Nat := 1425 + h
def gngPage : Nat := 1440
def hstPage (k : Nat) : Nat := 1456 + k
def pinPage (k : Nat) : Nat := 1472 + k
def legPage (a k : Nat) : Nat := 2048 + 16 * a + k

/-- The block type code of a page (R52). -/
def blockType : Kind → Nat
  | .glb _ => 0x001 | .cus _ => 0x002 | .flt _ => 0x003 | .ldg _ => 0x004 | .chk => 0x005 | .acc _ => 0x010
  | .press => 0x023 | .lay => 0x030 | .pl => 0x031 | .out k => 0x041 + k | .sclCtl => 0x050 | .sclCoef => 0x051
  | .xch => 0x021 | .branch => 0x022
  | .mem k => if k = 0 then 0x060 else if k = 17 then 0x062 else 0x063
  | .memCh => 0x061 | .vlt => 0x068 | .vltBg => 0x068 | .cap => 0x070 | .aud _ => 0x078
  | .tch0 => 0x080 | .tchB => 0x080 | .hap0 => 0x088 | .hapCh => 0x088 | .gng => 0x090 | .hst _ => 0x098
  | .pin _ => 0x0A0 | .leg => 0x0B0 | .none => 0

/-- The instance number of a page within its block type. -/
def instOf (p : Nat) : Nat :=
  match kindOf p with
  | (.acc k, a) => 16 * a + k
  | (.mem k, _) => if k < 18 then 0 else k - 18
  | (.vltBg, g) => g + 1
  | (.tchB, b) => b + 1
  | (.hapCh, h) => h + 1
  | (_, i) => i

/-- What a page kind has: fault sources, number of tallies, events (R50, R88, R98, R123, R148, R167, R175, R196,
R206, R211, R218, R250, R287, R311, R332, R348, R363, R381, R411). -/
structure Caps where
  flt : Nat
  tallies : Nat
  evt : Nat
  deriving DecidableEq, Repr

def capsOf : Kind → Caps
  | .glb k => if k = 0 then ⟨0x8001, 0, 0⟩ else if k = 2 then ⟨0x8003, 0, 0⟩ else if k = 3 then ⟨0x8007, 0, 0⟩
    else if k = 4 then ⟨0x8001, 0, 3⟩ else ⟨0x8000, 0, 0⟩
  | .cus k => if k = 4 then ⟨0x800F, 0, 0⟩ else ⟨0x8000, 0, 0⟩
  | .flt k => if k = 2 then ⟨0x801F, 2, 0⟩ else ⟨0x8000, 0, 0⟩
  | .ldg k => if k = 0 then ⟨0x8007, 5, 3⟩ else ⟨0x8000, 0, 0⟩
  | .chk => ⟨0x8003, 3, 1⟩
  | .acc k => if k = 0 then ⟨0x8003, 8, 0xF⟩ else if k = 1 then ⟨0x8001, 5, 0x1F⟩
    else if k = 6 then ⟨0x8001, 2, 1⟩ else if k = 7 then ⟨0x8001, 2, 1⟩ else ⟨0x8000, 0, 0⟩
  | .press => ⟨0x801F, 7, 0⟩
  | .lay => ⟨0x8003, 6, 0⟩
  | .pl => ⟨0x8001, 2, 0⟩
  | .out k => if k = 0 then ⟨0x8007, 0, 0x3FF⟩ else if k = 1 then ⟨0x8001, 0, 0⟩ else if k = 2 then ⟨0x8001, 5, 0⟩
    else if k = 3 then ⟨0x8003, 2, 0⟩ else if k = 5 then ⟨0x8001, 0, 0⟩ else if k = 6 then ⟨0x800F, 2, 0⟩
    else if k = 7 then ⟨0x8000, 8, 0⟩ else ⟨0x8000, 0, 0⟩
  | .sclCtl => ⟨0x8001, 1, 0⟩
  | .sclCoef => ⟨0x8000, 0, 0⟩
  | .xch => ⟨0x8007, 0, 0⟩
  | .branch => ⟨0x8000, 2, 3⟩
  | .mem k => if k = 0 then ⟨0x8001, 0, 0⟩ else if k = 17 then ⟨0x800F, 5, 0⟩ else if k = 18 then ⟨0x8001, 5, 0⟩
    else ⟨0x8000, 0, 0⟩
  | .memCh => ⟨0x8003, 8, 0⟩
  | .vlt => ⟨0x8000, 1, 0⟩
  | .vltBg => ⟨0x8003, 4, 0⟩
  | .cap => ⟨0x8007, 6, 0⟩
  | .aud k => if k = 0 then ⟨0x8001, 1, 0⟩ else if k ≤ 12 then ⟨0x8001, 2, 0⟩ else if k ≤ 20 then ⟨0x8001, 4, 0⟩
    else if k = 23 then ⟨0x8000, 1, 0⟩ else ⟨0x8000, 0, 0⟩
  | .tchB => ⟨0x800F, 6, 3⟩
  | .hapCh => ⟨0x807F, 6, 7⟩
  | .gng => ⟨0x8007, 5, 0⟩
  | .hst k => if k < 2 then ⟨0x8003, 1, 0⟩ else ⟨0x8001, 2, 0⟩
  | .pin k => if k = 0 then ⟨0x8001, 0, 0⟩ else ⟨0x8000, 0, 0⟩
  | .tch0 => ⟨0x8000, 0, 0⟩
  | .hap0 => ⟨0x8000, 0, 0⟩
  | .leg => ⟨0, 0, 0⟩
  | .none => ⟨0, 0, 0⟩

/-- The registers from offset 0x080 of a page kind. -/
def blockRows : Kind → List RegRow
  | .glb k => if k = 0 then rows_glb0 else if k = 1 then rows_glb1 else if k = 2 then rows_glb2
    else if k = 3 then rows_glb3 else if k = 4 then rows_glb4 else []
  | .cus k => if k = 0 then rows_cus0 else if k = 1 then rows_cus1 else if k = 2 then rows_cus2
    else if k = 3 then rows_cus3 else []
  | .flt k => if k = 0 then rows_flt0 else if k = 1 then rows_flt1 else if k = 2 then rows_flt2
    else if k = 3 then rows_flt3 else []
  | .ldg k => if k = 0 then rows_ldg0 else if k = 1 then rows_ldg1 else if k = 2 then rows_ldg2 else rows_ldg3
  | .chk => rows_chk
  | .acc k => if k = 0 then rows_acc0 else if k = 1 then rows_acc1 else if k = 3 then rows_acc3
    else if k = 4 ∨ k = 5 then rows_acc45 else if k = 6 then rows_acc6 else if k = 7 then rows_acc7 else []
  | .press => rows_press
  | .lay => rows_lay
  | .pl => rows_pl
  | .out k => if k = 0 then rows_outTim else if k = 1 then rows_outFifo else if k = 2 then rows_outCmp
    else if k = 3 then rows_outCol else if k = 4 then rows_outKpr else if k = 5 then rows_outFmt
    else if k = 6 then rows_outLnk else []
  | .sclCtl => rows_sclCtl
  | .sclCoef => rows_sclCoef
  | .xch => rows_xch
  | .branch => rows_branch
  | .mem k => if k = 0 then rows_mem0 else if k = 17 then rows_memEcc else if k = 18 then rows_mem18
    else if k = 19 then rows_mem19 else if k = 20 then rows_mem20 else if k = 21 then rows_mem21 else []
  | .memCh => rows_memCh
  | .vlt => rows_vlt0
  | .vltBg => rows_vltBg
  | .cap => rows_cap
  | .aud k => if k = 0 then rows_aud0 else if k ≤ 12 then rows_audRow else if k ≤ 20 then rows_audCol
    else if k ≤ 22 then rows_aud21 else rows_aud23
  | .tchB => rows_tchB
  | .hap0 => rows_hap0
  | .hapCh => rows_hapCh
  | .gng => rows_gng
  | .hst k => if k < 2 then rows_hst01 else if k = 2 then rows_hstCe ++ rows_hst2 else rows_hstCe
  | .pin k => if k = 0 then rows_pin0 else rows_pin1
  | .tch0 => [] | .leg => [] | .none => []

/-- The instance of register row `r` at byte offset `off`, if it lies there. -/
def RegRow.indexAt (r : RegRow) (off : Nat) : Option Nat :=
  if off < r.reg.off then none
  else if r.reg.stride = 0 then (if off = r.reg.off then some 0 else none)
  else if (off - r.reg.off) % r.reg.stride = 0 ∧ (off - r.reg.off) / r.reg.stride < r.count
  then some ((off - r.reg.off) / r.reg.stride) else none

/-- The row and instance of the register at offset `off` of page `p`, if the page lists one. -/
def rowAt (p off : Nat) : Option (RegRow × Nat) :=
  match (kindOf p).1 with
  | .none => none
  | .leg => none
  | k => (if off < 0x80 then rows_hdr else blockRows k).findSome? fun r => (r.indexAt off).map fun i => (r, i)

/-- Whether the rows of a kind hold a field of the access type (PAGE_CAPS.escrow and lockable). -/
def hasAccess (k : Kind) (a : Access) : Bool := (blockRows k).any fun r => r.fields.any fun f => f.acc == a

/-- PAGE_CAPS.tally_clock (R64, R98); of a layer's page, while the layer is on no enabled output. -/
def tallyClock (k : Kind) : Nat :=
  if (capsOf k).tallies = 0 then 0 else match k with | .out _ => 1 | .pl => 1 | _ => 2

/-- PAGE_ID of a page (R53). -/
def pageId (p : Nat) : Nat := blockType (kindOf p).1 * 2 ^ 20 + instOf p * 2 ^ 8 + 1

/-- PAGE_CAPS of a page (R53). -/
def pageCaps (p : Nat) : Nat :=
  let k := (kindOf p).1
  (capsOf k).flt + (capsOf k).tallies * 2 ^ 16 + b2n (hasAccess k .rwe) * 2 ^ 20 + b2n (hasAccess k .rwl) * 2 ^ 21
    + tallyClock k * 2 ^ 22

/-- ACC_ID of account `a` in the open world, native personality (R252, R254). -/
def accIdReset (a : Nat) : Nat :=
  a + (if a < 16 then 0 else 2 ^ 8) + (if a = 0 then 2 ^ 9 else if a = 16 then 2 ^ 10 else 0)

/-- The pages whose PAGE_CTRL.enable is 1 at reset: the units that the sequencer wakes at cold start, which R54 turns ON only with
enable 1 (the Custodian, the vault and its bank groups, the DRAM PHY, the display PHYs; R45). DESIGN CHOICE (log entry 105): R53
gives PAGE_CTRL a reset value per page and names none. -/
def enabledAtReset (p : Nat) : Bool :=
  match (kindOf p).1 with
  | .cus k => k == 0
  | .vlt => true
  | .vltBg => true
  | .mem k => k == 0
  | .out k => k == 6
  | _ => false

/-- The reset values that the register tables give per page, account, device or binding. -/
def perInstanceReset (p off : Nat) : Option Nat :=
  if off = OWNER.off then some 0x40
  else if (kindOf p).1 = .leg then (if p % 16 = 0 ∧ off = 0 then some 0x441000B0 else none)
  else if off = PAGE_ID.off then some (pageId p)
  else if off = PAGE_CAPS.off then some (pageCaps p)
  else if off = PAGE_CTRL.off then some (b2n (enabledAtReset p))
  else match kindOf p with
    | (.acc 0, a) => if off = ACC_ID.off then some (accIdReset a) else none
    | (.glb 0, _) => if off = GLB_ID_LO.off then some (0x8800 * 2 ^ 16 + Config.vendorId.toNat) else none
    | (.ldg 2, _) =>
      if LDG_UID.off ≤ off ∧ off < LDG_UID.off + 8 then some (Config.uid ((off - LDG_UID.off) / 4)).toNat
      else if LDG_PUBKEY.off ≤ off ∧ off < LDG_UID.off then some (Config.ledgerKey ((off - LDG_PUBKEY.off) / 4)).toNat
      else none
    | (.tchB, b) =>
      if TCH_B_REF_FACTORY.off ≤ off ∧ off < TCH_B_REF_FACTORY.off + 32
      then some (Config.refFactory b ((off - TCH_B_REF_FACTORY.off) / TCH_B_REF_FACTORY.stride)).toNat else none
    | (.cus 0, _) => if off = CUS_LIFECYCLE.off then some 0x11 else none
    | _ => none

/-- The key of the register at byte offset `off` of page `p` in the register table. -/
def regKey (p off : Nat) : Nat := 1024 * p + off / 4

/-- The reset value of the register with key `k`: the spec's table, or 0 for an offset no page lists. -/
def regReset (k : Nat) : Word :=
  let p := k / 1024
  let off := 4 * (k % 1024)
  match perInstanceReset p off with
  | some v => BitVec.ofNat 32 v
  | none => match rowAt p off with
    | some (r, _) => BitVec.ofNat 32 r.reset
    | none => 0

/-- The applied values (escrowed registers): the key of register `k` as applied on output `n`, or, for `n = 8`, last. -/
def applKey (n k : Nat) : Nat := 2 ^ 22 * n + k

/-- The reset value of an applied value. -/
def applReset (k : Nat) : Word := regReset (k % 2 ^ 22)

end Sys2Proof.Machine
end

