-- ==== Sys2Proof/Machine/State.lean ====
section
/-! DEFINITION. The state of the device: plain data, holding every piece of state the spec gives it. Registers of
all pages live in one sparse table (`regs`), and each further structure names the rules that give its fields. -/

namespace Sys2Proof.Machine

/-- Why a step stops with a fault. -/
inductive Fault where
  /-- Raised by a command whose operand lies outside what its row describes (a list of the wrong length, a record
  that no sender can form); safe: no such command exists on the device. -/
  | badOperand
  deriving DecidableEq, Repr

/-- Why a step refuses a command. -/
inductive Refusal where
  /-- Raised by an arm of `exec` whose command has no meaning yet; safe. -/
  | notModelled (mnemonic : String)
  deriving DecidableEq, Repr

/-- A ledger entry (R304). -/
structure Entry where
  time : Nat
  seq : Nat
  place : Nat
  old : Word
  new : Word
  kind : Nat
  chain : Word
  deriving DecidableEq, Repr

/-- The contents of a ledger slot that nothing has written. -/
def Entry.blank : Entry := ⟨0, 0, 0, 0, 0, 0, 0⟩

/-- What an entry records (R304): origin (account, world), initiator class, page, offset / 4, old and new value, kind
and detail. -/
structure Rec where
  org : Nat
  cls : Nat
  page : Nat
  word : Nat
  old : Word
  new : Word
  kind : Nat
  detail : Nat
  deriving DecidableEq, Repr

/-- A held hardware entry (R310): what it records, with the register's value before the first and after the last change, and
the number of changes. -/
structure Held where
  entry : Rec
  count : Nat
  deriving DecidableEq, Repr

/-- The ledger writer (R303 to R310): sequence of the next entry, chain value, the ring by slot, entries not yet
exported and, per account, entries reserved by COMMIT writes and entries not yet exported, held hardware entries, the
refusal spans of the open and the trusted world (count, time of the first refusal), and the first sequence not yet
sealed, `early` holds the entries made before the ledger writer starts (`started`, R401). -/
structure LedgerS where
  started : Bool
  seq : Nat
  chain : Word
  ring : List (Nat × Entry)
  occ : Nat
  reserved : List (Nat × Nat)
  acctOcc : List (Nat × Nat)
  held : List Held
  spanOpen : Option (Nat × Nat)
  spanTrusted : Option (Nat × Nat)
  sealFrom : Nat
  early : List Rec
  deriving DecidableEq, Repr

/-- A PCI Express function (R253, R281): power state, Bus Master Enable, VF enabled, interrupts held. -/
inductive Power where
  | absent | d0 | d3hot | d3cold
  deriving DecidableEq, Repr

/-- What an account holds beyond its registers (R253 to R267): its function, the state before a reset in progress and
its cause, queue count, cheque credit and credit in use, mint share, delegation, personality, the pending-bit array, the
number of MSI-X messages sent, of notices written, and of PMEs sent (R281). -/
structure AcctS where
  power : Power
  busMaster : Bool
  before : Nat
  queues : Nat
  credit : Nat
  creditUsed : Nat
  share : Nat
  delegated : Bool
  legacy : Bool
  msixPending : Nat
  msixSent : Nat
  notices : Nat
  pme : Nat
  deriving DecidableEq, Repr

/-- An account never created. -/
def AcctS.zero : AcctS := ⟨.absent, false, 0, 0, 0, 0, 0, false, false, 0, 0, 0, 0⟩

/-- What a queue holds beyond its registers (R273, R276): entries written since the last message, the time of the
first of them, whether the next entry carries flag bit 7, entries taken from a submit queue whose completion is
outstanding, and completion entries reserved. -/
structure QueueS where
  since : Nat
  first : Option Nat
  lost : Bool
  taken : Nat
  reserved : Nat
  deriving DecidableEq, Repr

def QueueS.zero : QueueS := ⟨0, none, false, 0, 0⟩

/-- A copy job (R275) taken from its ring: the account and submit queue it came from, its index there, the entry's fields,
the bytes already written, the result once it has ended and waits to be completed in submission order, the completion queue named as it
was taken, the bytes handed to engines in chunks, and the number that tells it from every other job. -/
structure Job where
  acct : Nat
  queue : Nat
  index : Nat
  op : Nat
  flags : Nat
  tag : Nat
  src : Nat
  dst : Nat
  width : Nat
  lines : Nat
  srcStride : Nat
  dstStride : Nat
  value : Nat
  written : Nat
  status : Option Nat
  cq : Nat
  taken : Nat
  ident : Nat
  deriving DecidableEq, Repr

/-- A copy engine (R277): the job whose chunk it runs, the next byte of the chunk and its end, and, in strict mode, whose turn it is
when the turn began; the account served last, and the queue to try next of each account. -/
structure Engine where
  job : Option Job
  pos : Nat
  upto : Nat
  upper : Bool
  turnAt : Nat
  lastAcct : Nat
  lastQ : List (Nat × Nat)
  deriving DecidableEq, Repr

def Engine.zero : Engine := ⟨none, 0, 0, false, 0, 31, []⟩

/-- A captured effect routine (R143): image offset, declared cost, code length, constants length. -/
structure Routine where
  image : Nat
  cost : Nat
  code : Nat
  consts : Nat
  deriving DecidableEq, Repr

/-- The parameters of a syndicate commit (R163): tag, participating devices, target frame, and whether that frame was
too near when the commit was taken. -/
structure SynTarget where
  tag : Nat
  devices : Nat
  frame : Nat
  near : Bool
  deriving DecidableEq, Repr

/-- A commit from its take until busy returns to 0 (R150 to R164): the values covered, the pages, the outputs on which each page's
fields act, the time and order of the take, the members, those that stopped since, local admission, whether its admission is
final, whether its ledger entry is made, the generation before it and its own, syndicate parameters, captured routines by layer, the members' target boundaries as they
occurred, and the longest member frame period. -/
structure Commit where
  snap : List (Nat × Word)
  pages : List Nat
  acts : List (Nat × List Nat)
  takenAt : Nat
  order : Nat
  members : Nat
  departed : Nat
  admitted : Bool
  final : Bool
  recorded : Bool
  old : Nat
  gen : Nat
  syn : Option SynTarget
  routs : List (Nat × Routine)
  targets : List (Nat × Nat)
  period : Nat
  deriving DecidableEq, Repr

/-- An admitted commit waiting for the boundary of one output (R153, R154, R159): account, output, generation before and
own, the values covered, captured routines, the instant from which a boundary counts, the syndicate frame if any, the late flag,
and whether the commit's ledger entry is made. -/
structure Waiting where
  acct : Nat
  out : Nat
  old : Nat
  gen : Nat
  vals : List (Nat × Word)
  routs : List (Nat × Routine)
  notBefore : Nat
  synFrame : Option Nat
  late : Bool
  recorded : Bool
  deriving DecidableEq, Repr

/-- The raster timing in force on an output (R168, R171). -/
structure Timing where
  pclk : Nat
  hact : Nat
  hfront : Nat
  hsync : Nat
  hback : Nat
  vact : Nat
  vfront : Nat
  vsync : Nat
  vback : Nat
  lead : Nat
  racingLead : Nat
  split : Nat
  vtotalMax : Nat
  release : Bool
  vrr : Bool
  hsPol : Bool
  vsPol : Bool
  deriving DecidableEq, Repr

/-- A frame reference source at an output (R191): its last edge and its consecutive good periods. -/
structure RefSrc where
  last : Option Nat
  good : Nat
  deriving DecidableEq, Repr

/-- A pixel of three components. -/
structure Px where
  r : Nat
  g : Nat
  b : Nat
  deriving DecidableEq, Repr

/-- A pixel in a scan-out FIFO: its value, or the mark that its span was replaced by the fallback colour (R85). -/
structure FifoPx where
  px : Px
  replaced : Bool
  deriving DecidableEq, Repr

/-- A retained static frame (R188): the pixels written so far by raster position, the units held, complete or not. -/
structure Retained where
  pixels : List (Nat × FifoPx)
  units : Nat
  complete : Bool
  deriving DecidableEq, Repr

/-- A line of a protected layer as read from the vault (R95): its line, its bytes, and the 64-bit words not drawn. -/
structure PlLine where
  line : Nat
  bytes : List Byte
  bad : List Nat
  deriving DecidableEq, Repr

/-- A cell that the compositor fills itself and that waits for room in the FIFO (R104, R177, R285): its rectangle, frame,
and whether it shows the fallback colour in place of the background. -/
structure Back where
  x0 : Nat
  x1 : Nat
  y0 : Nat
  y1 : Nat
  frame : Nat
  fallback : Bool
  deriving DecidableEq, Repr

/-- What an output holds beyond its registers (R99 to R104, R171 to R195): the enabling write admitted and a stop asked
for; the timing in force; line, repeats of line vactive in this frame, next pixel slot; the boundary due and passed; the
last line 0 start and the present line's; the active area that composition follows (R172); bands begun, the last band's instant
and racing cells read; the DRAM blocks that the frame has fetched (layer × 2^40 + block), the lines already counted in it (R88,
R123), and when the last rebuild ended (R103); the frame displayed; the
FIFO by frame, line and column; cells filled by the compositor; underrun seen in the frame; the last two boundaries;
frames without occurrence, an occurrence in this one, the exit from the static state asked for, the
retained frame; the reference sources, edges within 1 µs in a row, the trims of the last 8 frames, the phase error
left, the line adjustment in force and next; cheque records reserved; since when urgent; since when a cause of the safe
state; the pixel sent last; the pixels of the DSC slice of 8 lines in progress, latest first, and which of its slices a parity error
struck (R198, R206); the protected layer's present and next line. -/
structure OutS where
  enabled : Bool
  stopReq : Bool
  tim : Timing
  line : Nat
  repeats : Nat
  slot : Nat
  boundaryDue : Bool
  passed : Bool
  line0At : Option Nat
  lineAt : Nat
  grid : Nat × Nat
  bands : Nat
  bandAt : Nat
  raceCell : Nat
  held : List (Nat × List Byte)
  counted : List Nat
  rebuiltAt : Nat
  dispFrame : Nat
  fifo : List (Nat × FifoPx)
  backs : List Back
  underrun : Bool
  bounds : List Nat
  quiet : Nat
  touched : Bool
  wakeAt : Option Nat
  retained : Option Retained
  refs : List (Nat × RefSrc)
  lockRun : Nat
  trims : List Int
  phase : Int
  adjust : Int
  nextAdjust : Int
  records : Nat
  urgentAt : Option Nat
  safeAt : Option Nat
  sent : Option Px
  dsc : List Px
  dscBad : List Nat
  plCur : PlLine
  plNext : PlLine
  deriving DecidableEq, Repr

def Timing.reset : Timing := ⟨148500, 1920, 88, 44, 148, 1080, 4, 5, 36, 16, 40, 0, 0, false, false, false, false⟩

def OutS.zero : OutS where
  enabled := false
  stopReq := false
  tim := Timing.reset
  line := 0
  repeats := 0
  slot := 0
  boundaryDue := false
  passed := false
  line0At := none
  lineAt := 0
  grid := (0, 0)
  bands := 0
  bandAt := 0
  raceCell := 0
  held := []
  counted := []
  rebuiltAt := 0
  dispFrame := 0
  fifo := []
  backs := []
  underrun := false
  bounds := []
  quiet := 0
  touched := false
  wakeAt := none
  retained := none
  refs := []
  lockRun := 0
  trims := []
  phase := 0
  adjust := 0
  nextAdjust := 0
  records := 0
  urgentAt := none
  safeAt := none
  sent := none
  dsc := []
  dscBad := []
  plCur := ⟨0, [], []⟩
  plNext := ⟨0, [], []⟩

/-- A layer as a scene gives it (R66 to R82): the layer and its account, and every attribute of its registers. -/
structure Lay where
  num : Nat
  acct : Nat
  enable : Bool
  racing : Bool
  opaq : Bool
  opqEn : Bool
  effect : Bool
  kind : Nat
  cap : Nat
  outputs : Nat
  z : Nat
  x : Int
  y : Int
  sx : Nat
  sy : Nat
  sw : Nat
  sh : Nat
  dw : Nat
  dh : Nat
  format : Nat
  ilt : Bool
  cs : Nat
  tf : Nat
  full : Bool
  alpha : Nat
  mode : Nat
  ox : Nat
  oy : Nat
  ow : Nat
  oh : Nat
  a0 : Nat
  a1 : Nat
  st0 : Nat
  st1 : Nat
  routine : Nat
  arg : Word
  deriving DecidableEq, Repr

/-- A stream of a cheque (R132): descriptor, opaque part of the cell, source layer, scaler, capture slot (base, stride),
the lines read from an earlier frame, each with that frame's base (R83), the press whose line store takes its data, the blocks wanted and not
yet fetched, each with the first line-store slot that needs it, whether its fetches were ended before they were made (R25, R84), the
slots opened so far (R101), the blocks fetched (block numbers, the vault's above 2^40), those that failed, the components spoilt by a parity error (position × 4 + component), and, for a layer with
an effect, its effect cheque, the routine's output, or that the layer is transparent. -/
structure Stream where
  layer : Nat
  form : Nat
  mode : Nat
  decode : Nat
  tf : Nat
  primConv : Bool
  alpha : Nat
  x0 : Nat
  xe : Nat
  y0 : Nat
  ye : Nat
  opq : Option (Nat × Nat × Nat × Nat)
  src : Lay
  scaler : Option Nat
  ring : Nat × Nat
  alt : List (Nat × Nat)
  press : Nat
  want : List (Nat × Nat)
  ended : Bool
  opened : Nat
  blocks : List (Nat × List Byte)
  bad : List Nat
  spoilt : List (Nat × Word)
  effect : Option Nat
  output : Option (List (Nat × Word))
  transparent : Bool
  deriving DecidableEq, Repr

/-- A cheque (R131, R140, R141): composition (no account) or effect, its cell, its streams, the routine and cost, and
whether it was re-presented. -/
structure Cheque where
  acct : Option Nat
  out : Nat
  frame : Nat
  racing : Bool
  x : Nat
  y : Nat
  w : Nat
  h : Nat
  press : Nat
  streams : List Stream
  arg : Word
  parent : Nat
  routine : Routine
  again : Bool
  issued : Bool
  deriving DecidableEq, Repr

/-- What a mint is doing: idle, loading a routine, running, waiting at SETTLE with its cell complete. -/
inductive Phase where
  | idle | loading | running | settled
  deriving DecidableEq, Repr

/-- A mint (R124 to R139): scalar, vector (register × 4 + lane) and predicate registers, VL, stores, program counter,
instructions and lane-ops executed, its cheque, the resident routine's image (library images above 2^40), stream and
output positions, the uncleared cell by position × 4 + component, when it pulled its cheque (R145), the last retirement of an
instruction or end of a wait (R146), the times and count of this frame, frames slow in a row, and retirement in progress. -/
structure MintS where
  sreg : List (Nat × Word)
  vreg : List (Nat × Word)
  preg : List (Nat × Word)
  vl : Nat
  code : List (Nat × Word)
  data : List (Nat × Byte)
  codeLen : Nat
  pc : Nat
  count : Nat
  ops : Nat
  phase : Phase
  cheque : Option Nat
  resident : Option Nat
  spos : List (Nat × Nat)
  opos : Nat
  cell : List (Nat × Word)
  pulledAt : Nat
  lastAt : Nat
  timeSum : Nat
  timeCount : Nat
  slowRun : Nat
  retiring : Bool
  deriving DecidableEq, Repr

def MintS.zero : MintS :=
  ⟨[], [], [], 0, [], [], 0, 0, 0, 0, .idle, none, none, [], 0, [], 0, 0, 0, 0, 0, false⟩

/-- A wake request in the sequencer's queue (R45 to R47): the page, its class, deadline and arrival, and the steps left: of a
press its unretired mints, of the vault its bank groups. -/
structure Wake where
  page : Nat
  cls : Nat
  deadline : Nat
  at_ : Nat
  left : List Nat
  deriving DecidableEq, Repr

/-- The wake sequencer (R45 to R49): the queue, the step in progress (page, class, end) and the steps issued within
the longest window (time, current in units of 100 mA), and each unit kind's last step (page, time). -/
structure SeqS where
  queue : List Wake
  step : Option (Wake × Nat)
  issued : List (Nat × Nat)
  lastStep : List (Nat × Nat)
  deriving DecidableEq, Repr

/-- The adaptive voltage controller (R36 to R40): the request wanted; the lower values that have held (an instant, and the
highest value wanted since), the last fall step, the commands of the last request in the order sent (rail: 0 VCORE, 1 VSRAM;
code), milliseconds of canary guard breach since the last recovery, whether a margin was below its guard since the last
recompute, since when the read-back has been short, the margins of the 64 canaries (63 less the margin) and the last instant
at which each branch was below its guard. -/
structure AvsS where
  wanted : Nat
  lower : List (Nat × Nat)
  fellAt : Nat
  sent : List (Nat × Nat)
  breachMs : Nat
  breached : Bool
  shortAt : Option Nat
  vsramShortAt : Option Nat
  margins : List (Nat × Nat)
  goodAt : List (Nat × Nat)
  deriving DecidableEq, Repr

/-- A DRAM request that waits (R227, R228, R237, R239): its owner and real-time port, whether a requester awaits its completion
(`host`: DRAM_READ or DRAM_WRITE) and whether it is posted, its address and operation, its lines not yet served, whether one
failed, the bytes read by line, and how often it has been passed. -/
structure DramWait where
  who : Nat
  rt : Option Nat
  host : Bool
  posted : Bool
  addr : Nat
  op : MemOp
  left : List Nat
  err : Bool
  got : List (Nat × List Byte)
  passed : Nat
  since : Nat
  deriving DecidableEq, Repr

/-- The work of a device unit that a DRAM exit or a strict window holds (R228, R237, R239): the next fetch of an engine of a branch,
a capture port's mirror, a copy engine's chunk, or a read that its own command makes again. -/
inductive HeldWork where
  | fetch (branch engine : Nat) | mirror (port : Nat) | engine (e : Nat) | other
  deriving DecidableEq, Repr

/-- A unit's request that is held: owner, real-time port, when it arrived, its work. -/
structure DramHeld where
  who : Nat
  rt : Option Nat
  since : Nat
  work : HeldWork
  deriving DecidableEq, Repr

/-- The memory controller beyond its registers (R227 to R239): write queues by channel, requests waiting for an exit or a window,
since when each rank has been idle and whether it is in power-down, the readings at 1x in a row by rank, last
non-real-time request, since when every port has been unlimited, last deep-sleep exit, when the present sleep began, the present
window and the accesses made in it by channel, the open row of each bank, since when a port panics, when each bucket was
refilled, the units' requests that are held, and the ns of each time tally that are no whole us yet (page × 8 + tally). -/
structure MemS where
  wq : List (Nat × List (Nat × List Byte))
  waiting : List DramWait
  lastReq : List (Nat × Nat)
  down : List (Nat × Nat)
  goodMr4 : List (Nat × Nat)
  lastNonRt : Nat
  unlimitedAt : Option Nat
  lastDeepExit : Option Nat
  sleepAt : Nat
  window : List (Nat × Nat)
  used : List (Nat × Nat)
  openRow : List (Nat × Nat)
  panicAt : Option Nat
  refilled : List (Nat × Nat)
  held : List DramHeld
  timeNs : List (Nat × Nat)
  deriving DecidableEq, Repr

/-- A capture port beyond its registers (R207 to R210): the slot open, next line, lines published by slot × 4320 + line,
the most recently completed slot and the one before, frames read by layers, the mirror copy in progress with the lines it has taken,
the bytes its buffer holds and how many have left it (R210, R232), and when the last line arrived and how long after the one before. -/
structure CapS where
  open_ : Option Nat
  next : Nat
  published : List (Nat × Bool)
  last : Option Nat
  prev : Option Nat
  readers : List (Nat × Nat)
  mirror : Option Nat
  copied : Nat
  buffer : List Byte
  drained : Nat
  lineAt : Option Nat
  lineNs : Nat
  deriving DecidableEq, Repr

def CapS.zero : CapS := ⟨none, 0, [], none, none, [], none, 0, [], 0, none, 0⟩

/-- The clearing link beyond its registers (R212 to R217): cycle, last valid sync frame, the last known syndicate frame
start, discards in a row and last acceptance by sender, valid sync frames in a row, whether the slot must be
recomputed, tokens received (tag, frame, device, outcome), tokens to send, outcomes acted on (account, tag, frame,
applied), the last frame sent and its characters, when the link became active, when the present cycle began, and when the status
frame was last sent. -/
structure LinkS where
  cycle : Nat
  lastSync : Option Nat
  start : Option Nat
  discards : List (Nat × Nat)
  accepted : List (Nat × Nat)
  syncRun : Nat
  recompute : Bool
  tokensIn : List (Nat × Nat × Nat × Nat)
  tokensOut : List Token
  acted : List (Nat × Nat × Nat × Bool)
  sent : Option ClFrame
  wire : List ClChar
  since : Option Nat
  cycleAt : Option Nat
  statusAt : Option Nat
  deriving DecidableEq, Repr

/-- A link page beyond its registers (R199 to R204): the sink's capabilities as last discovered, attempts of the training
in progress, a retrain asked for at the next vertical blanking (1: training, 2: from discovery), whether the training in
progress is a retrain, whether the partner was plugged in again, whether its capabilities were found changed, whether the port
waits for retrain after cause 6, the rate code and lanes in training, HPDn as filtered, whether the A-PHY link is up. -/
structure PortS where
  caps : Option SinkCaps
  attempts : Nat
  retrain : Nat
  again : Bool
  replug : Bool
  changed : Bool
  waiting : Bool
  goal : Nat × Nat
  hpd : Bool
  phy : Bool
  deriving DecidableEq, Repr

def PortS.zero : PortS := ⟨none, 0, 0, false, false, false, false, (0, 0), false, false⟩

/-- The fault collector, FLT_OUT and the safe state (R313 to R324): classes with a parity error, start of the present scan
and end of the last, last valid heartbeat (value, time), the latest instant at which a condition of the wave ceased to
hold, SAFE_REQ_N asserted, the captures that have reached the collector and whose bits are still set (16 × page + source), the notices given to
the Custodian, for which no queue is named (R316), when the device last left its safe state, the class registers of trusted pages that the Custodian has written (R315), the instant from
which the half-period boundaries are counted and the last boundary acted on (plus 1). -/
structure FaultS where
  parity : Nat
  scanAt : Nat
  scanEnd : Option Nat
  heartbeat : Option (Nat × Nat)
  ceased : Nat
  safeReq : Bool
  known : List Nat
  told : List (List Byte)
  leftAt : Nat
  classes : List Nat
  wave : Nat
  flipped : Nat
  deriving DecidableEq, Repr

/-- A play request of a haptic channel (R356, R357, R360): by a trigger or an entry, priority, effect, gain, repeats. -/
structure HapReq where
  touch : Bool
  prio : Nat
  effect : Nat
  gain : Nat
  rep : Nat
  deriving DecidableEq, Repr

/-- A haptic channel beyond its registers (R350 to R359): requests of the present period; the request whose image is being
read; the one read, with its segments, that begins at the next period; the one playing, its segments, the segment, the
PWM periods left in it, the amplitude before it and repeats left; the loop's command, the drive command and the
integrator (units of 2^-20); the bridge on or off; the phase in the drive cycle (mHz x periods); cycles of the effect,
overdrive cycles left, stalled cycles in a row; the modelled rise (nK); the tracked frequency (mHz); a handover ramp (from,
periods done); brake cycles left; the induced amplitude last sampled (mV) and at the effect's end; quiet half-cycles in a row;
good samples in a row and validity of the accelerometer, and when a sample last arrived or was missed; the peak of the half-cycle and the last envelope;
when the coil check began; the last PWM period lay in a gap, and the induced amplitude known last; when the trip pin last rose; turned off by
the safe state or an owner reset, with no request since (R361); the coil found missing or shorted and en not written since (R352); how long ago,
in ns at the last period boundary, each of HSA, LSA, HSB and LSB was high, at most 10,000. The brake that is left counts in the units of the phase. -/
structure HapS where
  reqs : List HapReq
  loading : Option HapReq
  ready : Option (HapReq × List Nat)
  play : Option HapReq
  segs : List Nat
  seg : Nat
  left : Nat
  prev : Nat
  reps : Nat
  cmd : Int
  c : Int
  integ : Int
  bridge : Bool
  phase : Nat
  cycles : Nat
  od : Nat
  stalled : Nat
  rise : Nat
  freq : Nat
  ramp : Option (Int × Nat)
  brake : Nat
  amp : Option Nat
  endAmp : Nat
  quiet : Nat
  accGood : Nat
  accValid : Bool
  accAt : Nat
  peak : Nat
  env : Int
  checkAt : Nat
  inGap : Bool
  lastAmp : Nat
  rose : Nat
  parked : Bool
  barred : Bool
  ago : List Nat
  deriving DecidableEq, Repr

def HapS.zero : HapS where
  reqs := []
  loading := none
  ready := none
  play := none
  segs := []
  seg := 0
  left := 0
  prev := 0
  reps := 0
  cmd := 0
  c := 0
  integ := 0
  bridge := false
  phase := 0
  cycles := 0
  od := 0
  stalled := 0
  rise := 0
  freq := 0
  ramp := none
  brake := 0
  amp := none
  endAmp := 0
  quiet := 0
  accGood := 0
  accValid := false
  accAt := 0
  peak := 0
  env := 0
  checkAt := 0
  inGap := false
  lastAmp := 0
  rose := 0
  parked := false
  barred := false
  ago := [10000, 10000, 10000, 10000]

/-- A touch channel beyond its registers (R337, R340): its baseline in units of 2^-16, whether that is set, conversions
still invalid after a start or a hop, out-of-range conversions in a row, valid conversions in a row with d >= touch,
d < release and d < -release, the instant of its touch, an expired hold not yet acted on, the end of the fast
recalibration, and its first valid conversion while that waits for the bank's first valid reference. -/
structure ChanS where
  base : Nat
  set : Bool
  skip : Nat
  wild : Nat
  above : Nat
  below : Nat
  away : Nat
  touchedAt : Nat
  holdOver : Bool
  recalUntil : Option Nat
  first : Option Nat
  deriving DecidableEq, Repr

def ChanS.zero : ChanS := ⟨0, false, 0, 0, 0, 0, 0, 0, false, none, none⟩

/-- A group of channels beyond its registers (R344, R345): touched, touched at, last report at, position at the last
report, anchor, last movement at, at standstill, reports since the movement that ended it, sign of the last raw beyond
the hysteresis. -/
structure GroupS where
  touched : Bool
  touchAt : Nat
  reportAt : Nat
  last : Nat
  anchor : Nat
  movedAt : Nat
  still : Bool
  moves : Nat
  sign : Int
  deriving DecidableEq, Repr

def GroupS.zero : GroupS := ⟨false, 0, 0, 0, 0, 0, true, 0, 0⟩

/-- A report of a scan (R346): its bytes, and for a touch or a release what it presents to the haptic unit (release,
group, index). -/
structure Report where
  bytes : List Byte
  trig : Option (Bool × Bool × Nat)
  deriving DecidableEq, Repr

/-- A touch bank beyond its registers (R334 to R346): start of the present scan and its next slot, the settings sampled at
its start and the drive frequency in force, the scan period in force in µs (0 before the first scan), when the last scan began (plus 1), the conversions of this scan by channel (count, valid), the reports of this scan, last hop
or enable, scans since a hop, the reference at the old frequency while a rescale is due, reference conversions still
invalid, out-of-range ones in a row, readings outside and inside 5 % in a row, the first valid reference since the
enable (and whether it was within 5 %) and the last, the candidate frequency of the next listen slot, the calibration table read (none: not in use), whether
its read is in progress and the bytes read so far, its scans modulo 2^32, its channels and groups. -/
structure TouchS where
  scans : Nat
  scanAt : Option Nat
  slot : Nat
  live : List (Nat × Word)
  period : Nat
  ran : Nat
  conv : List (Nat × (Nat × Bool))
  reports : List Report
  hopAt : Nat
  sinceHop : Nat
  rescale : Option Nat
  refSkip : Nat
  refWild : Nat
  refBad : Nat
  refGood : Nat
  firstRef : Option (Nat × Bool)
  ref : Option Nat
  cand : Nat
  cal : Option (List Nat)
  loading : Bool
  calGot : List Byte
  chans : List (Nat × ChanS)
  groups : List (Nat × GroupS)
  deriving DecidableEq, Repr

def TouchS.zero : TouchS where
  scans := 0
  scanAt := none
  slot := 0
  live := []
  period := 0
  ran := 0
  conv := []
  reports := []
  hopAt := 0
  sinceHop := 2
  rescale := none
  refSkip := 0
  refWild := 0
  refBad := 0
  refGood := 0
  firstRef := none
  ref := none
  cand := 0
  cal := none
  loading := false
  calGot := []
  chans := []
  groups := []

/-- A queue stream of the audio unit (R380): of an audio-out queue, the entry being played (its bytes), the frame its rows
take next, and the entries of a DRAM ring that the buffer of RT10 holds beyond it (R232); of an audio-in queue, the frames gathered for the next entry, whether some sample was
invalid, the index and time of the first. -/
structure StreamS where
  entry : List Byte
  pos : Nat
  ahead : List (List Byte)
  gathered : List (List Int)
  invalid : Bool
  index : Nat
  at_ : Nat
  deriving DecidableEq, Repr

def StreamS.zero : StreamS := ⟨[], 0, [], [], false, 0, 0⟩

/-- A bridge (R368): when it last unlocked. A TDM port's FS (R368, R377): its last edge and last periods. -/
structure FsS where
  last : Option Nat
  periods : List Nat
  lost : Bool
  deriving DecidableEq, Repr

def FsS.zero : FsS := ⟨none, [], true⟩

/-- The audio unit beyond its registers (R366 to R380): P-domain samples run, the node codes in force and pending
(64 × row + column; code and instant), each row's previous sample, equaliser delay states by column × 64 + section × 4 + i,
crossfades (column: samples done), the second delay states of a crossfade, columns and rows spoiled by a parity error
until a sample, instants of the bridges' last unlocks, queue streams (256 × account + queue), FS inputs, last instant at
which the chime reached its level, PDM line enables, whether the device safe state mutes, whether a column's last sample is
valid, and the columns' last outputs. -/
structure AudioS where
  samples : Nat
  inForce : List (Nat × Nat)
  wait : List (Nat × (Nat × Nat))
  prev : List (Nat × Int)
  delay : List (Nat × Int)
  fade : List (Nat × Nat)
  oldDelay : List (Nat × Int)
  spoilt : List (Nat × Nat)
  unlocked : List (Nat × Nat)
  streams : List (Nat × StreamS)
  fs : List (Nat × FsS)
  chimeAt : Option Nat
  pdmAt : List (Nat × Nat)
  muted : Bool
  outputs : List (Nat × Int)
  deriving DecidableEq, Repr

def AudioS.zero : AudioS := ⟨0, [], [], [], [], [], [], [], [], [], [], none, [], false, []⟩

/-- Start-up and the Custodian (R288 to R311, R395 to R410): PORST_N released (straps sampled), the thermal shutdown holds
the device, the Custodian's firmware runs, it is halted, boot failed, the manager is released; fuses blown per lifecycle
state (intent group, commit group), the hash of the firmware key and the rollback counter in OTP (R289), plan key locked, customer keys invalid, ledger key invalid; out-of-window samples in
a row by rail; host ports with no reference clock; retention valid; time base restarted; alarms fired on VBAT and not yet logged; the alarms' stored times; the cause of the
last cold reset; the sensors' last readings (quarter degrees); alarms whose time is still to come; the
plan's bandwidth grants (account, kind, words), made once DRAM training has measured the capacity. -/
structure StartS where
  awake : Bool
  cooked : Bool
  cusRuns : Bool
  halted : Bool
  failed : Bool
  released : Bool
  fuses : List (Nat × (Nat × Nat))
  keyHash : BitVec 384
  rollback : Nat
  keyLocked : Bool
  keysGone : Bool
  ledgerKeyGone : Bool
  railBad : List (Nat × Nat)
  noClock : List Nat
  retained : Bool
  tbRestarted : Bool
  firedOff : List (Nat × Nat)
  alarmAt : List (Nat × Nat)
  cause : Nat
  temps : List (Nat × Int)
  armed : List Nat
  later : List (Nat × Nat × List Word)
  deriving DecidableEq, Repr

/-- A write of a legacy layer register not yet in force (R389): output, key, value, and the end of its rebuild. -/
structure LegWrite where
  out : Nat
  key : Nat
  value : Word
  ready : Nat
  deriving DecidableEq, Repr

/-- A message of a night safe: 16 words (R279). -/
abbrev Msg := List Word

/-- The last completion returned to a requester: an error completion or data. -/
structure Resp where
  error : Bool
  data : List Byte
  deriving DecidableEq, Repr

/-- A check-value unit beyond its registers (R327 to R331): the settings sampled at its last frame start (offset / 4,
value), whether it checks, the windows done, seeded and spoiled in this frame, the sample period within a TDM frame, and
whether this first frame resumes from RUN. -/
structure CheckS where
  live : List (Nat × Word)
  active : Bool
  done : Nat
  seeded : Nat
  spoiled : Nat
  period : Nat
  resume : Bool
  deriving DecidableEq, Repr

def CheckS.zero : CheckS := ⟨[], false, 0, 0, 0, 0, false⟩

/-- A colour-table load in progress (R119): table, memory (0 DRAM, 1 vault), address, and the bytes read so far. -/
structure LutLoad where
  table : Nat
  space : Nat
  addr : Nat
  got : List Byte
  deriving DecidableEq, Repr

/-- The state of the device. `regs` maps register keys (1024 × page + offset / 4) to values; for escrowed registers
these are the escrow values, and `applied` holds the applied ones by scene; `tally` holds the running tally counters
(8 × page + i); `levels` the level fault conditions present (16 × page + source); `pwt` the page window table
(256 × account + slot, page + 1); `blanked` (32 × output + account) the
accounts reset since their last applied commit on an output (R285); `luts` the words of table banks, `readyAt` and
`written` by two-bank table when READY was set (plus 1) and whether the background bank was written since the last swap.
`subPool`, `subRegions` and `subSlots` hold A16's sub-reserve (R254): amounts by kind (4, 5, 8, 9), amounts that account a
holds from them at 64 × kind + a + 64, a mark at 2^20 + page for each page placed in it or granted from it; memory (0 DRAM,
1 vault), base and size of the regions; and the output slots (output, x, y, w, h, z_base, z_size, share, layers). `zeroed` holds the
inline ECC regions (base, length) that the Custodian has written with zeros (R402), where a byte not listed reads as that left it.
`ticked` holds, by page, the last instant (plus 1) of a time-base tick at which it latched (R64).
`legs` holds legacy layer writes not yet in force, `errOwed` the LEG_ERR_STATUS bits by account whose sticky bits the
Custodian has still to clear (R393). `fresh` is the model's own counter for free values. -/
structure State where
  now : Nat
  regs : List (Nat × Word)
  applied : List (Nat × Word)
  tally : List (Nat × Nat)
  levels : List (Nat × Bool)
  pwt : List (Nat × Nat)
  fresh : Nat
  dram : List Host.Cell
  zeroed : List (Nat × Nat)
  vault : List Host.Cell
  led : LedgerS
  accts : List (Nat × AcctS)
  queues : List (Nat × QueueS)
  subPool : List (Nat × Nat)
  engines : List (Nat × Engine)
  jobs : List Job
  safes : List (Nat × (Nat × Nat))
  dropped : List (Nat × Nat)
  commits : List (Nat × Option Commit)
  heldSyn : List (Nat × Bool)
  waits : List Waiting
  orders : Nat
  routines : List (Nat × Option Routine)
  outs : List (Nat × OutS)
  cheques : List (Nat × Option Cheque)
  presses : List (Nat × List Nat)
  mints : List (Nat × MintS)
  nextCheque : Nat
  seq : SeqS
  avs : AvsS
  mem : MemS
  caps : List (Nat × CapS)
  link : LinkS
  ports : List (Nat × PortS)
  flt : FaultS
  blanked : List (Nat × Bool)
  checks : List (Nat × CheckS)
  luts : List (Nat × Word)
  readyAt : List (Nat × Nat)
  written : List (Nat × Bool)
  loads : List (Nat × Option LutLoad)
  haps : List (Nat × HapS)
  touches : List (Nat × TouchS)
  audio : AudioS
  boot : StartS
  subRegions : List (Nat × (Nat × Nat))
  subSlots : List (List Nat)
  ticked : List (Nat × Nat)
  legs : List LegWrite
  errOwed : List (Nat × Nat)
  resp : Resp
  pending : List Instr
  deriving DecidableEq, Repr

/-- The device right after reset: every register at its table's reset value, every memory and table with nothing
listed, every page the Custodian's (R58), nothing in progress and no command waiting. -/
def State.reset : State where
  now := 0
  regs := []
  applied := []
  tally := []
  levels := []
  pwt := []
  fresh := 0
  dram := []
  zeroed := []
  vault := []
  led := ⟨false, 0, 0, [], 0, [], [], [], none, none, 0, []⟩
  accts := []
  queues := []
  subPool := []
  engines := []
  jobs := []
  safes := []
  dropped := []
  commits := []
  heldSyn := []
  waits := []
  orders := 0
  routines := []
  outs := []
  cheques := []
  presses := []
  mints := []
  nextCheque := 0
  seq := ⟨[], none, [], []⟩
  avs := ⟨0, [], 0, [], 0, false, none, none, [], []⟩
  mem := ⟨[], [], [], [], [], 0, some 0, none, 0, [], [], [], none, [], [], []⟩
  caps := []
  link := ⟨0, none, none, [], [], 0, false, [], [], [], none, [], none, none, none⟩
  ports := []
  flt := ⟨0, 0, none, none, 0, false, [], [], 0, [], 0, 0⟩
  blanked := []
  checks := []
  luts := []
  readyAt := []
  written := []
  loads := []
  haps := []
  touches := []
  audio := AudioS.zero
  boot := ⟨false, false, false, false, false, false, [(1, (3, 5))], 0, 0, false, false, false, [], [], true, false, [], [], 1, [], [], []⟩
  subRegions := []
  subSlots := []
  ticked := []
  legs := []
  errOwed := []
  resp := ⟨false, []⟩
  pending := []

end Sys2Proof.Machine
end

