-- ==== Sys2Proof/Machine/Ops.lean ====
section
/-! DEFINITION. The named operations on registers, memories and tables of the state. -/

namespace Sys2Proof.Machine

/-- The mask of a field's bits. -/
def Fld.mask (f : Fld) : Word := BitVec.ofNat 32 (2 ^ (f.hi + 1 - f.lo) - 1) <<< f.lo

/-- The field of a register value. -/
def Fld.get (f : Fld) (w : Word) : Nat := (w >>> f.lo).toNat % 2 ^ (f.hi + 1 - f.lo)

/-- The register value with the field set to `v`, modulo its width. -/
def Fld.put (f : Fld) (w : Word) (v : Nat) : Word := (w &&& ~~~f.mask) ||| ((BitVec.ofNat 32 v <<< f.lo) &&& f.mask)

/-- The key of instance `i` of a field's register on page `p`. -/
def fkey (p : Nat) (f : Fld) (i : Nat) : Nat := regKey p (f.off + i * f.stride)

/-- The value of the register with key `k` (for an escrowed register, the escrow value). -/
def State.reg (s : State) (k : Nat) : Word := Tbl.get regReset s.regs k

/-- The state with the register at key `k` holding `v`. -/
def State.setReg (s : State) (k : Nat) (v : Word) : State := { s with regs := Tbl.set regReset s.regs k v }

/-- The value of field `f` of instance `i` on page `p`. -/
def State.rd (s : State) (p : Nat) (f : Fld) (i : Nat := 0) : Nat := f.get (s.reg (fkey p f i))

/-- The state with field `f` of instance `i` on page `p` set to `v`. -/
def State.wr (s : State) (p : Nat) (f : Fld) (v : Nat) (i : Nat := 0) : State :=
  s.setReg (fkey p f i) (f.put (s.reg (fkey p f i)) v)

/-- The applied value of key `k` in scene `n`: outputs 0 to 7, 8 the last applied, 9 + n the protected layer that the
keeper stage of OUTn draws in the present frame (R93). -/
def State.appl (s : State) (n k : Nat) : Word := Tbl.get applReset s.applied (applKey n k)

/-- The state with `v` applied at key `k` in scene `n`. -/
def State.setAppl (s : State) (n k : Nat) (v : Word) : State :=
  { s with applied := Tbl.set applReset s.applied (applKey n k) v }

/-- An applied field in scene `n`. -/
def State.rdA (s : State) (n p : Nat) (f : Fld) (i : Nat := 0) : Nat := f.get (s.appl n (fkey p f i))

/-- An applied field set in scene `n`. -/
def State.wrA (s : State) (n p : Nat) (f : Fld) (v : Nat) (i : Nat := 0) : State :=
  s.setAppl n (fkey p f i) (f.put (s.appl n (fkey p f i)) v)

/-- Reads of the state's tables, with their defaults. -/
def State.acct (s : State) (a : Nat) : AcctS := Tbl.get (fun _ => AcctS.zero) s.accts a
def State.setAcct (s : State) (a : Nat) (v : AcctS) : State := { s with accts := Tbl.set (fun _ => AcctS.zero) s.accts a v }
def State.queue (s : State) (k : Nat) : QueueS := Tbl.get (fun _ => QueueS.zero) s.queues k
def State.setQueue (s : State) (k : Nat) (v : QueueS) : State :=
  { s with queues := Tbl.set (fun _ => QueueS.zero) s.queues k v }
def State.engine (s : State) (k : Nat) : Engine := Tbl.get (fun _ => Engine.zero) s.engines k
def State.setEngine (s : State) (k : Nat) (v : Engine) : State :=
  { s with engines := Tbl.set (fun _ => Engine.zero) s.engines k v }
def State.out (s : State) (k : Nat) : OutS := Tbl.get (fun _ => OutS.zero) s.outs k
def State.setOut (s : State) (k : Nat) (v : OutS) : State := { s with outs := Tbl.set (fun _ => OutS.zero) s.outs k v }
def State.mint (s : State) (k : Nat) : MintS := Tbl.get (fun _ => MintS.zero) s.mints k
def State.setMint (s : State) (k : Nat) (v : MintS) : State :=
  { s with mints := Tbl.set (fun _ => MintS.zero) s.mints k v }
def State.cheque (s : State) (k : Nat) : Option Cheque := Tbl.get (fun _ => none) s.cheques k
def State.setCheque (s : State) (k : Nat) (v : Option Cheque) : State :=
  { s with cheques := Tbl.set (fun _ => none) s.cheques k v }
def State.press (s : State) (k : Nat) : List Nat := Tbl.get (fun _ => []) s.presses k
def State.setPress (s : State) (k : Nat) (v : List Nat) : State := { s with presses := Tbl.set (fun _ => []) s.presses k v }
def State.commit (s : State) (k : Nat) : Option Commit := Tbl.get (fun _ => none) s.commits k
def State.setCommit (s : State) (k : Nat) (v : Option Commit) : State :=
  { s with commits := Tbl.set (fun _ => none) s.commits k v }
def State.setSafe (s : State) (k : Nat) (v : Nat × Nat) : State := { s with safes := Tbl.set (fun _ => (0, 0)) s.safes k v }
/-- The audio unit's own state changed, and a queue's stream in it (R380). -/
def State.setAudio (s : State) (f : AudioS → AudioS) : State := { s with audio := f s.audio }
def State.stream (s : State) (k : Nat) : StreamS := Tbl.get (fun _ => StreamS.zero) s.audio.streams k
def State.setStream (s : State) (k : Nat) (v : StreamS) : State :=
  s.setAudio fun a => { a with streams := Tbl.set (fun _ => StreamS.zero) a.streams k v }

def State.cap (s : State) (k : Nat) : CapS := Tbl.get (fun _ => CapS.zero) s.caps k
def State.setCap (s : State) (k : Nat) (v : CapS) : State := { s with caps := Tbl.set (fun _ => CapS.zero) s.caps k v }
def State.port (s : State) (k : Nat) : PortS := Tbl.get (fun _ => PortS.zero) s.ports k
def State.setPort (s : State) (k : Nat) (v : PortS) : State := { s with ports := Tbl.set (fun _ => PortS.zero) s.ports k v }
def State.check (s : State) (k : Nat) : CheckS := Tbl.get (fun _ => CheckS.zero) s.checks k
def State.setCheck (s : State) (k : Nat) (v : CheckS) : State :=
  { s with checks := Tbl.set (fun _ => CheckS.zero) s.checks k v }
def State.hap (s : State) (k : Nat) : HapS := Tbl.get (fun _ => HapS.zero) s.haps k
def State.setHap (s : State) (k : Nat) (v : HapS) : State := { s with haps := Tbl.set (fun _ => HapS.zero) s.haps k v }
def State.tch (s : State) (k : Nat) : TouchS := Tbl.get (fun _ => TouchS.zero) s.touches k
def State.setTch (s : State) (k : Nat) (v : TouchS) : State :=
  { s with touches := Tbl.set (fun _ => TouchS.zero) s.touches k v }
def State.level (s : State) (g : Nat) : Bool := Tbl.get (fun _ => false) s.levels g

/-- A table of natural numbers with default 0. -/
abbrev NatTbl := List (Nat × Nat)
def NatTbl.at_ (t : NatTbl) (k : Nat) : Nat := Tbl.get (fun _ => 0) t k
def NatTbl.put (t : NatTbl) (k v : Nat) : NatTbl := Tbl.set (fun _ => 0) t k v

/-- Adds `n` occurrences to running tally `i` of page `p`; counters saturate (R64). -/
def State.count (s : State) (p i : Nat) (n : Nat := 1) : State :=
  { s with tally := NatTbl.put s.tally (8 * p + i) (min 0xFFFFFFFF (NatTbl.at_ s.tally (8 * p + i) + n)) }

/-- A fresh index for a free value. -/
def State.next (s : State) : State := { s with fresh := s.fresh + 1 }

/-! Ownership (R53, R58). -/

/-- The owner code of a page: account in [5:0], world in [6]. -/
def State.owner (s : State) (p : Nat) : Nat := s.rd p ⟨0x040, 4, 6, 0⟩

/-- The owner codes that name no account: the Custodian, the open reserve, A16's sub-reserve. -/
def ownCustodian : Nat := 0x40
def ownReserve : Nat := 63
def ownSub : Nat := 62

/-- Account `a` is in the trusted world (CUS_TRUSTED). -/
def State.trustedAcct (s : State) (a : Nat) : Bool := (s.rd (cusPage 0) CUS_TRUSTED).testBit a

/-- The owner code of account `a`. -/
def State.ownCode (s : State) (a : Nat) : Nat := a + (if s.trustedAcct a then 64 else 0)

/-- The account that owns a page, if one does. -/
def State.ownerAcct (s : State) (p : Nat) : Option Nat :=
  let c := s.owner p
  if c < 32 then some c else if 64 < c ∧ c < 96 then some (c - 64) else none

/-- The page belongs to the trusted world. -/
def State.trustedPage (s : State) (p : Nat) : Bool := decide (64 ≤ s.owner p)

/-- The state with page `p` owned by code `c`. -/
def State.setOwner (s : State) (p c : Nat) : State := s.wr p ⟨0x040, 4, 6, 0⟩ c

/-- The initiator is of the trusted world. -/
def State.trustedActor (s : State) (who : Nat) : Bool := who == 32 || s.trustedAcct who

/-- The host ports pass memory requests on: from the manager's release, and after a failed boot (R289, R399). -/
def State.hostHeard (s : State) : Bool := s.boot.released || s.boot.failed

/-- Step 1 of R20 (R58, R59): the initiator reaches the page. The Custodian reaches every page. -/
def State.owns (s : State) (who p : Nat) : Bool :=
  if who = 32 then true
  else match s.ownerAcct p with
    | some a => a == who
    | none => (who == 0 && s.owner p == ownReserve) || (who == 16 && s.owner p == ownSub)

/-- The manager of account `a`: A16 for a delegated account, A0 otherwise (R254). -/
def State.manager (s : State) (a : Nat) : Nat := if (s.acct a).delegated then 16 else 0

/-- `who` is the manager of account `a` (R254): a trusted-world account has none (R255, R316). -/
def State.managedBy (s : State) (a who : Nat) : Bool := !s.trustedAcct a && s.manager a == who

/-- The state code of account `a` (R257). -/
def State.astate (s : State) (a : Nat) : Nat := s.rd (accPage a 0) ACC_STATE_state

/-- A register value rewritten by `g` at every key of the table that `f` selects. -/
def State.overRegs (s : State) (f : Nat → Bool) (g : Nat → Word → Word) : State :=
  ((s.regs.map (·.1)).filter f).foldl (fun t k => t.setReg k (g k (t.reg k))) s

/-- The outputs, layers, haptic channels and banks that an account owns, in ascending order (R386). -/
def State.ownedBy (s : State) (a : Nat) (page : Nat → Nat) (n : Nat) : List Nat :=
  (List.range n).filter fun i => s.ownerAcct (page i) == some a
def State.outsOf (s : State) (a : Nat) : List Nat := s.ownedBy a (fun n => outPage n 0) 8
def State.layersOf (s : State) (a : Nat) : List Nat := s.ownedBy a layPage 128

/-- A register of a legacy window's first page (R387). -/
def State.leg (s : State) (a off : Nat) : Nat := (s.reg (regKey (legPage a 0) off)).toNat
def State.setLeg (s : State) (a off v : Nat) : State := s.setReg (regKey (legPage a 0) off) (BitVec.ofNat 32 v)

/-! Pages. -/

/-- PAGE_STATUS.state of a page (R53): 0 OFF, 1 SLEEP, 2 WAKING, 3 ON, 4 FAULT. -/
def State.power (s : State) (p : Nat) : Nat := s.rd p PAGE_STATUS_state
def State.setPower (s : State) (p v : Nat) : State := s.wr p PAGE_STATUS_state v

/-- Whether any escrowed register of the page differs from its last applied value (ESCROW_STATUS.dirty). -/
def State.isDirty (s : State) (p : Nat) : Bool :=
  (blockRows (kindOf p).1).any fun r => r.fields.any (fun f => f.acc == .rwe) &&
    (List.range r.count).any fun i => s.reg (fkey p r.reg i) != s.appl 8 (fkey p r.reg i)

/-- ESCROW_STATUS.dirty brought up to date. -/
def State.syncDirty (s : State) (p : Nat) : State := s.wr p ⟨0x044, 4, 0, 0⟩ (b2n (s.isDirty p))

/-! Memories. -/

/-! Tags of inline ECC (R241, R242). -/

/-- The positions of the 512 data bits in the Hamming code: 1 to 522 without the powers of two, where its 10 check bits stand.
PRESUMED (log 118): R242 names the code and not its matrix. -/
def hamming : List Nat := (List.range 523).filter fun p => !(0 :: (List.range 10).map (2 ^ ·)).contains p

/-- The bits of bytes, least significant first. -/
def lineBits (bs : List Byte) : List Bool := bs.flatMap fun b => (List.range 8).map b.toNat.testBit

/-- The extended-Hamming check bits of a line: [9:0] the Hamming code, [10] the parity of the data and those (R242). -/
def eccCheck (bs : List Byte) : Nat :=
  let ones := ((lineBits bs).zip hamming).filter (·.1)
  let c := ones.foldl (fun c e => c ^^^ e.2) 0
  c + 1024 * ((ones.length + popcount c 10) % 2)

/-- The address hash of a line (R242): bit i is the parity of the PA bits 6 + j with j mod 5 = i. -/
def eccHash (line : Nat) : Nat :=
  (List.range 5).foldl (fun n i => n + 2 ^ i * (((List.range 34).filter fun j => j % 5 == i && line.testBit j).length % 2)) 0

/-- The correct tag of a line (R242), and its poison pattern. -/
def eccTag (line : Nat) (bs : List Byte) : Nat := eccCheck bs + 2048 * eccHash line
def poisonOf (tag : Nat) : Nat := 65535 - tag

/-- The address of the tag of a line at offset `o` of a region (R241). -/
def tagAddr (base size o : Nat) : Nat := base + 31 * size / 32 + o / 64 * 2

/-- What a byte of DRAM that no command has written reads as: in an inline ECC region that the Custodian's initialisation has passed
(R402), 0 or a byte of the tag of a line of zeros; elsewhere its content after power-on. -/
def dramEmpty (zeroed : List (Nat × Nat)) (a : Nat) : Byte :=
  match zeroed.find? fun e => decide (e.1 ≤ a ∧ a < e.1 + e.2) with
  | none => Config.dramPowerOn a
  | some (b, n) =>
    let t := a - (b + 31 * n / 32)
    if a < b + 31 * n / 32 then 0 else BitVec.ofNat 8 (2048 * eccHash (b / 64 + t / 2) / 256 ^ (t % 2))

/-- The vault's areas (R247). -/
def vaultSystem : Nat := 0x3300000
def vaultLibrary : Nat := 0x3500000
def vaultLedger : Nat := 0x3600000
def vaultPool : Nat := 0x3800000
def vaultEnd : Nat := 0x4000000

/-- What a byte of the vault that nothing has written reads as: the routine library holds the firmware's bytes. -/
def vaultEmpty (a : Nat) : Byte :=
  if vaultLibrary ≤ a ∧ a < vaultLedger then Config.libraryByte (a - vaultLibrary) else Config.vaultPowerOn a

/-- The memories are in canonical form: addresses strictly rising, no byte equal to what an unlisted one reads as. -/
def Memory.wf (s : State) : Bool := Tbl.wf (dramEmpty s.zeroed) s.dram && Tbl.wf vaultEmpty s.vault

/-- The bytes of a ledger entry as stored (R304), without the chain value. -/
def Entry.body (e : Entry) : List Byte :=
  leBytes 8 e.time ++ leBytes 4 e.seq ++ leBytes 4 e.place ++ leBytes 4 e.old.toNat ++ leBytes 4 e.new.toNat
    ++ leBytes 4 e.kind

/-- A stored vault byte; the ledger area shows the ledger writer's ring (R303, R304). -/
def State.vaultByte (s : State) (a : Nat) : Byte :=
  if vaultLedger ≤ a ∧ a < vaultPool then
    let o := a - vaultLedger
    let e := Tbl.get (fun _ => Entry.blank) s.led.ring (o / 32)
    (e.body ++ leBytes 4 e.chain.toNat).getD (o % 32) 0
  else Tbl.get vaultEmpty s.vault a

/-- The newest queued write of a channel's queue that covers byte `a`, if any (R227). -/
def queuedByte (q : List (Nat × List Byte)) (a : Nat) : Option Byte :=
  q.foldl (fun r e => if e.1 ≤ a ∧ a < e.1 + e.2.length then some (e.2.getD (a - e.1) 0) else r) none

/-- Channel, rank or bank bit `m` of a device physical address (R224). -/
def State.mapBit (s : State) (pa m : Nat) : Nat :=
  let mask := s.rd (memPage 0) ⟨0xA0, 8, 31, 0⟩ m + s.rd (memPage 0) ⟨0xA4, 8, 1, 0⟩ m * 2 ^ 32
  popcount ((pa / 64) &&& mask) 34 % 2

/-- The channel, rank and bank of an address (R224). -/
def State.channel (s : State) (pa : Nat) : Nat := (List.range 4).foldl (fun n m => n + s.mapBit pa m * 2 ^ m) 0
def State.rankOf (s : State) (pa : Nat) : Nat := s.mapBit pa 4
def State.bankOf (s : State) (pa : Nat) : Nat := (List.range 4).foldl (fun n m => n + s.mapBit pa (5 + m) * 2 ^ m) 0

/-- The write queue of a channel. -/
def State.wq (s : State) (c : Nat) : List (Nat × List Byte) := Tbl.get (fun _ => []) s.mem.wq c
def State.setWq (s : State) (c : Nat) (q : List (Nat × List Byte)) : State :=
  { s with mem := { s.mem with wq := Tbl.set (fun _ => []) s.mem.wq c q } }

/-- A DRAM byte as a reader sees it: the newest queued write to it, else the stored byte (R227). -/
def State.dramByte (s : State) (a : Nat) : Byte :=
  match queuedByte (s.wq (s.channel a)) a with
  | some b => b
  | none => Tbl.get (dramEmpty s.zeroed) s.dram a

/-- A byte of DRAM (space 0) or the vault (space 1). -/
def State.byteAt (s : State) (space a : Nat) : Byte := if space = 0 then s.dramByte a else s.vaultByte a

/-- `n` bytes from `a`. -/
def State.bytesAt (s : State) (space a n : Nat) : List Byte := (List.range n).map fun i => s.byteAt space (a + i)

/-- One byte of DRAM stored. -/
def State.setDram (s : State) (a : Nat) (b : Byte) : State := { s with dram := Tbl.set (dramEmpty s.zeroed) s.dram a b }

/-- One byte of the vault stored. -/
def State.setVault (s : State) (a : Nat) (b : Byte) : State := { s with vault := Tbl.set vaultEmpty s.vault a b }

/-- Bytes stored from `a` on, in rising address order. -/
def State.storeDram (s : State) (a : Nat) : List Byte → State
  | [] => s
  | b :: t => (s.setDram a b).storeDram (a + 1) t
def State.storeVault (s : State) (a : Nat) : List Byte → State
  | [] => s
  | b :: t => (s.setVault a b).storeVault (a + 1) t

/-- A 32-bit little-endian word of a memory. -/
def State.wordAt (s : State) (space a : Nat) : Nat := ofLeBytes (s.bytesAt space a 4)

/-! Night-safe channels (R278). -/

/-- Slot `i` of channel `k` in the vault's system area, above the passbooks. DESIGN CHOICE (log 119): R247 and R278 give the area and not
the place in it. -/
def safeSlot (k i : Nat) : Nat := vaultSystem + 32 * 0x1000 + 1024 * k + 64 * (i % 16)

/-- The messages waiting in a channel, the oldest first: those of its occupied slots. -/
def State.safe (s : State) (k : Nat) : List Msg :=
  let c := Tbl.get (fun _ => ((0, 0) : Nat × Nat)) s.safes k
  (List.range c.2).map fun i => (List.range 16).map fun j => BitVec.ofNat 32 (s.wordAt 1 (safeSlot k (c.1 + i) + 4 * j))

/-- A message stored in the next free slot of a channel, the oldest slot freed, and a channel emptied (R280, R282, R284). -/
def State.pushSafe (s : State) (k : Nat) (m : Msg) : State :=
  let c := Tbl.get (fun _ => ((0, 0) : Nat × Nat)) s.safes k
  (s.setSafe k (c.1, c.2 + 1)).storeVault (safeSlot k (c.1 + c.2)) (((List.range 16).map fun i => m.getD i 0).flatMap fun w => leBytes 4 w.toNat)
def State.popSafe (s : State) (k : Nat) : State :=
  let c := Tbl.get (fun _ => ((0, 0) : Nat × Nat)) s.safes k
  s.setSafe k ((c.1 + 1) % 16, c.2 - 1)
def State.clearSafe (s : State) (k : Nat) : State := s.setSafe k (0, 0)

/-! Firewalls (R294, R295). -/

/-- The world of a 64 KiB unit of a memory: 1 trusted; what no region covers is trusted (R294). -/
def State.unitWorld (s : State) (space u : Nat) : Nat :=
  let (pg, n) := if space = 0 then (cusPage 1, 64) else (cusPage 2, 32)
  match (List.range n).find? fun i =>
      s.rd pg ⟨0x80, 8, 23, 0⟩ i ≤ u && u < s.rd pg ⟨0x80, 8, 23, 0⟩ i + s.rd pg ⟨0x84, 8, 23, 0⟩ i with
  | some i => s.rd pg ⟨0x84, 8, 31, 31⟩ i
  | none => 1

/-- Region `r` (0 to 7 DRAM, 8 to 11 vault) of account `a`: base, size, permission (R296, R297). -/
def State.region (s : State) (a r : Nat) : Nat × Nat × Nat :=
  (s.rd (cusPage 3) CUS_ACC_RGN_BASE_base (12 * a + r), s.rd (cusPage 3) CUS_ACC_RGN_SIZE_size (12 * a + r),
   s.rd (cusPage 3) CUS_ACC_RGN_SIZE_perm (12 * a + r))

/-- The regions of an account in a memory. -/
def regionsOf (space : Nat) : List Nat := if space = 0 then List.range 8 else [8, 9, 10, 11]

/-- A 64 KiB unit lies in a region of account `a` whose permission admits the access. -/
def State.unitHeld (s : State) (a cls space u : Nat) (write : Bool) : Bool :=
  (regionsOf space).any fun r =>
    let (b, n, perm) := s.region a r
    b ≤ u && u < b + n && (perm == 0 || (perm == 1 && !write) || (perm == 2 && cls != 0))

/-- The 64 KiB units that an access touches. -/
def unitsOf (addr len : Nat) : List Nat :=
  (List.range ((addr + (len - 1)) / 65536 + 1 - addr / 65536)).map (· + addr / 65536)

/-- An extent lies inside account `a`'s regions of a memory, whatever their permission (R82, R119, R208, R269). -/
def State.inRegions (s : State) (a space addr len : Nat) : Bool :=
  (unitsOf addr len).all fun u => (regionsOf space).any fun r => (s.region a r).1 ≤ u && u < (s.region a r).1 + (s.region a r).2.1

/-- The passbook page of an account (R264). -/
def passbook (a : Nat) : Nat := vaultSystem + a * 0x1000

/-- The end of the Custodian-reserved region (R247). -/
def State.reservedEnd (s : State) : Nat := s.rd (vltPage 0) ⟨0x84, 4, 8, 0⟩ * 65536

/-! The lifecycle fuses (R298 to R300). -/

/-- Fuses blown of a state's intent and commit groups. -/
def State.fuseGroup (s : State) (st : Nat) : Nat × Nat := Tbl.get (fun _ => ((0, 0) : Nat × Nat)) s.boot.fuses st

/-- The lifecycle state: the highest whose commit group counts as set. -/
def State.lifecycle (s : State) : Nat :=
  (List.range 5).foldl (fun (m : Nat) st => if 3 ≤ (s.fuseGroup st).2 then st else m) 0

/-- CUS_LIFECYCLE.tap of a state (R298). -/
def tapOf (st : Nat) : Nat := match st with | 0 => 2 | 1 => 1 | 3 => 2 | _ => 0

/-- The firewall's decision on an access (R295): initiator, class, memory, address, length, write. A unit that acts for the Custodian
passes as the Custodian does; hardware of class 6 and the test access port pass as an account's accesses do, and the port not at all while
the lifecycle state leaves it boundary scan alone (R298). -/
def State.admits (s : State) (who cls space addr len : Nat) (write : Bool) : Bool :=
  if cls = 5 ∨ (who = 32 ∧ cls ≤ 5) then true
  else if cls = 7 ∧ tapOf s.lifecycle = 0 then false
  else if space = 1 ∧ cls = 2 ∧ (addr + len ≤ s.reservedEnd ∨ (vaultLibrary ≤ addr ∧ addr + len ≤ vaultLedger)) then true
  else if space = 1 ∧ cls = 3 ∧ ((vaultLibrary ≤ addr ∧ addr + len ≤ vaultLedger) ∨ (vaultPool ≤ addr ∧ addr + len ≤ vaultEnd)) then true
  else if space = 1 ∧ cls = 0 ∧ vaultSystem ≤ addr ∧ addr < vaultSystem + 32 * 0x1000
      ∧ addr / 0x1000 = (addr + (len - 1)) / 0x1000 then
    let a := (addr - vaultSystem) / 0x1000
    a == who || s.managedBy a who
  else (unitsOf addr len).all fun u =>
    s.unitWorld space u == b2n (s.trustedAcct who) && s.unitHeld who cls space u write

/-- Why an access gives an error completion. -/
inductive MemErr where
  | firewall | capacity | tagArea | failed | poison | uncorrectable
  deriving DecidableEq, Repr

/-- Populated DRAM in bytes (R219, MEM_CFG): 16 channels, ranks, density. -/
def State.dramSize (s : State) : Nat :=
  16 * (s.rd (memPage 0) MEM_CFG_ranks + 1) * (2 ^ 29 * 2 ^ s.rd (memPage 0) MEM_CFG_density)

/-- The inline ECC region that holds address `a`, with its base and size in bytes (R241). -/
def State.eccRegion (s : State) (a : Nat) : Option (Nat × Nat) :=
  ((List.range 8).map fun i => (s.rd (memPage 17) MEM_ECC_BASE_base i * 2 ^ 21, s.rd (memPage 17) MEM_ECC_SIZE_size i * 2 ^ 21)).find?
    fun r => r.1 ≤ a && a < r.1 + r.2

/-- Address `a` lies in the tag area of an inline ECC region (R241). -/
def State.inTags (s : State) (a : Nat) : Bool :=
  match s.eccRegion a with
  | some (b, n) => decide (b + 31 * n / 32 ≤ a)
  | none => false

/-- The bank-group page of a vault offset (R245). -/
def vltGroup (off : Nat) : Nat := vltPage (1 + off / 1024 % 16)

/-- Whether an access to a memory can be served at all, and what stops it (R222, R225, R241, R295). -/
def State.memCheck (s : State) (who cls space addr len : Nat) (write : Bool) : Option MemErr :=
  if !s.admits who cls space addr len write then some .firewall
  else if space = 0 then
    if s.rd (memPage 0) MEM_STATUS_state ≠ 2 then some .failed
    else if s.dramSize < addr + len then some .capacity
    else if s.inTags addr || s.inTags (addr + (len - 1)) then some .tagArea
    else none
  else if vaultEnd < addr + len then some .capacity
  else none

/-- The 64-byte lines that an access touches. -/
def linesOf (addr len : Nat) : List Nat :=
  (List.range ((addr + (len - 1)) / 64 + 1 - addr / 64)).map (· + addr / 64)

/-- The bytes of a DRAM line as stored, without the queued writes. -/
def State.storedLine (s : State) (line : Nat) : List Byte :=
  (List.range 64).map fun i => Tbl.get (dramEmpty s.zeroed) s.dram (64 * line + i)

/-- The address of the tag of a line, if it lies in the data of an inline ECC region (R241). -/
def State.tagOf (s : State) (line : Nat) : Option Nat :=
  if s.inTags (64 * line) then none else (s.eccRegion (64 * line)).map fun r => tagAddr r.1 r.2 (64 * line - r.1)

/-- The stored tag of a line at tag address `t`. -/
def State.tagAt (s : State) (t : Nat) : Nat := ofLeBytes ((List.range 2).map fun i => Tbl.get (dramEmpty s.zeroed) s.dram (t + i))

/-- The bytes of a line's tag: correct for the bytes that the line now holds, or the poison pattern (R242). -/
def State.tagBytes (s : State) (line : Nat) (poison : Bool) : List Byte :=
  leBytes 2 (if poison then poisonOf (eccTag line (s.storedLine line)) else eccTag line (s.storedLine line))

/-- A tag stored where the line has one. -/
def State.storeTag (s : State) (tag : List Byte) : Option Nat → State
  | none => s
  | some t => s.storeDram t tag

/-- The tag of a line of a region set: correct for the bytes it now holds, or its poison pattern (R242, R244). -/
def State.retag (s : State) (line : Nat) (poison : Bool) : State := s.storeTag (s.tagBytes line poison) (s.tagOf line)

/-- What the check of a line finds (R243). -/
inductive EccFound where
  | clean | corrected (bs : List Byte) | poisoned | uncorrectable
  deriving DecidableEq, Repr

/-- A tag compared with the one that data and address give (R243): equal; a single-bit error, data or check bit, under equal hash bits;
the poison pattern; or anything else. -/
def eccCompare (line : Nat) (bs : List Byte) (stored : Nat) : EccFound :=
  let tag := eccTag line bs
  let d := stored ^^^ tag
  if d = 0 then .clean
  else if d < 2048 ∧ popcount d 11 % 2 = 1 ∧ (d % 1024 ≤ 522) then
    match hamming.zipIdx.find? fun e => e.1 == d % 1024 with
    | some e => .corrected (bs.modify (e.2 / 8) fun b => b ^^^ BitVec.ofNat 8 (2 ^ (e.2 % 8)))
    | none => .corrected bs
  else if stored = poisonOf tag then .poisoned
  else .uncorrectable

/-- The check of the line as stored; a line outside every region has none. -/
def State.eccFound (s : State) (line : Nat) : EccFound :=
  match s.tagOf line with
  | none => .clean
  | some t => eccCompare line (s.storedLine line) (s.tagAt t)

/-- `n` bytes of DRAM from `a` as a checked read returns them: the newest queued write to each, else the stored byte, corrected (R227,
R243). -/
def State.checkedBytes (s : State) (a n : Nat) : List Byte :=
  (linesOf a n).flatMap fun l =>
    let lo := max a (64 * l)
    let found := s.eccFound l
    (List.range (min (a + n) (64 * l + 64) - lo)).map fun i =>
      match found, queuedByte (s.wq (s.channel (64 * l))) (lo + i) with
      | .corrected bs, none => bs.getD (lo + i - 64 * l) 0
      | _, _ => s.dramByte (lo + i)

/-- The check that source `i` of page `p` reports meets an armed injection (R325): the injection is used, and its
pattern is given. -/
def State.useInject (s : State) (p i : Nat) : State × Option Nat :=
  if s.rd p FLT_INJECT_arm = 0 ∨ s.rd p FLT_INJECT_source ≠ i then (s, none)
  else
    let n := s.rd p FLT_INJECT_count
    let s' := if s.rd p FLT_INJECT_mode = 0 then s.wr p FLT_INJECT_arm 0
      else if n ≤ 1 then (s.wr p FLT_INJECT_count 0).wr p FLT_INJECT_arm 0
      else s.wr p FLT_INJECT_count (n - 1)
    (s', some (s.rd (fltPage 2) FLT_INJECT_PATTERN_pattern))

/-- What a step does on an empty queue: the time base, which counts nanoseconds, advances by one (R408). -/
def State.idle (s : State) : State := { s with now := s.now + 1 }

/-- The state with a command put at the front of its queue, or unchanged where there is none. -/
def State.front (s : State) : Option Instr → State
  | some i => { s with pending := i :: s.pending }
  | none => s

end Sys2Proof.Machine
end

