-- ==== Sys2Proof/Machine/LedgerWriter.lean ====
section
/-! DEFINITION. The ledger writer (R303 to R310): appending entries, held hardware entries, room and refusal spans. -/

namespace Sys2Proof.Machine

/-- What one effect asks the collectors to do next: an event on a page, a fault source, an entry for an account's
event queue, an account reset with its cause, a passbook notice (account, kind, old, new). -/
inductive Sig where
  | event (p b : Nat)
  | fault (p i : Nat)
  | entry (a : Nat) (bytes : List Byte)
  | reset (a cause : Nat)
  | notice (a kind old new : Nat)
  deriving DecidableEq, Repr

/-- Bytes 12 to 15 of an entry (R304). -/
def Rec.place (r : Rec) : Nat := r.org + r.cls * 2 ^ 7 + r.page * 2 ^ 10 + r.word * 2 ^ 22

/-- Occupancy counts entries appended and not yet exported, and entries reserved by COMMIT writes (R309). -/
def State.reservedEntries (s : State) : Nat := s.led.reserved.foldl (fun n e => n + e.2) 0
def State.occupancy (s : State) : Nat := s.led.occ + s.reservedEntries

/-- The capacity of the ring and the occupancy at which open-world changes are refused (R309). -/
def ringSize : Nat := 65536
def openLimit : Nat := 61440

/-- LDG_STATUS, LDG_SEQ and LDG_REFUSED brought up to date. -/
def State.syncLedger (s : State) : State :=
  let w := min 65536 s.occupancy + b2n (decide (openLimit ≤ s.occupancy)) * 2 ^ 17
    + b2n (decide (ringSize ≤ s.occupancy)) * 2 ^ 18 + (s.led.held.length % 2048) * 2 ^ 20
  ((s.setReg (fkey (ldgPage 0) LDG_STATUS 0) (BitVec.ofNat 32 w)).setReg (fkey (ldgPage 0) LDG_SEQ 0)
    (BitVec.ofNat 32 s.led.seq)).setReg (fkey (ldgPage 0) LDG_REFUSED 0)
      (BitVec.ofNat 32 (match s.led.spanOpen with | some (n, _) => n | none => 0))

/-- The entry that records `r` now: its sequence, time and chain value (R304, R305). -/
def State.entryOf (s : State) (r : Rec) : Entry :=
  let e : Entry := ⟨s.now, s.led.seq % 2 ^ 32, r.place, r.old, r.new, r.kind + r.detail * 2 ^ 8, 0⟩
  { e with chain := BitVec.ofNat 32 (crc32c (leBytes 4 s.led.chain.toNat ++ e.body)) }

/-- SPACE_LOW (R311), when the occupancy has reached its mark from below. -/
def State.spaceLow (s t : State) : State × List Sig :=
  (t, if decide (s.occupancy < 57344) && decide (57344 ≤ t.occupancy) then [.event (ldgPage 0) 1] else [])

/-- The entry written to the ring, with LDG_LAST and the counts (R303, R305, R311). -/
def State.write1 (s : State) (r : Rec) : State :=
  if !s.led.started then { s with led := { s.led with early := s.led.early ++ [r] } }
  else
    let e := s.entryOf r
    let org := r.org % 64
    let s := { s with led := { s.led with seq := (s.led.seq + 1) % 2 ^ 32, chain := e.chain, occ := s.led.occ + 1,
                                          ring := Tbl.set (fun _ => Entry.blank) s.led.ring (e.seq % ringSize) e,
                                          acctOcc := if r.org < 64 then NatTbl.put s.led.acctOcc org (NatTbl.at_ s.led.acctOcc org + 1)
                                            else s.led.acctOcc } }
    let ws := e.body ++ leBytes 4 e.chain.toNat
    let s := (List.range 8).foldl (fun t i => t.setReg (fkey (ldgPage 3) LDG_LAST i) (BitVec.ofNat 32 (ofLeBytes ((ws.drop (4 * i)).take 4)))) s
    (s.count (ldgPage 0) 0).syncLedger

/-- The entry appended, with SPACE_LOW. -/
def State.append (s : State) (r : Rec) : State × List Sig := s.spaceLow (s.write1 r)

/-- Entries appended in order. -/
def State.appendAll (s : State) : List Rec → State × List Sig
  | [] => (s, [])
  | r :: rs =>
    let (s, a) := s.append r
    let (s, b) := s.appendAll rs
    (s, a ++ b)

/-- The origin of an initiator's entries: its account and world; the Custodian is the trusted world's account 0. -/
def State.orgOf (s : State) (who : Nat) : Nat := if who = 32 then 64 else s.ownCode who

/-- The class of an initiator's register accesses (R295): 5 for the Custodian, 0 for a host. -/
def clsOf (who : Nat) : Nat := if who = 32 then 5 else 0

/-- The refusal span of a world that is open (R309): the changes refused, and when the first was. -/
def State.spanOf (s : State) (trusted : Bool) : Option (Nat × Nat) := if trusted then s.led.spanTrusted else s.led.spanOpen

/-- The refusal-span entry that goes before `n` more entries of an admitted change (R309), and the span closed: once occupancy has fallen
below the open world's limit, or, for the trusted world, once the ring has a slot for each. -/
def State.closeSpan (s : State) (trusted : Bool) (n : Nat) : State × List Sig :=
  match s.spanOf trusted with
  | none => (s, [])
  | some (count, t) =>
    if (if trusted then ringSize < s.occupancy + n + 1 else openLimit ≤ s.occupancy) then (s, [])
    else
    let r : Rec := ⟨64, 6, 0xFFF, b2n trusted, BitVec.ofNat 32 count, BitVec.ofNat 32 (min 0xFFFFFFFF ((s.now - t) / 1000)), 0x0F, b2n trusted⟩
    let s := { s with led := if trusted then { s.led with spanTrusted := none } else { s.led with spanOpen := none } }
    s.append r

/-- A change's entries (after the refusal span due), made by an initiator of a world. -/
def State.logRaw (s : State) (trusted : Bool) (rs : List Rec) : State × List Sig :=
  let (s, a) := s.closeSpan trusted rs.length
  let (s, b) := s.appendAll rs
  (s, a ++ b)

/-- An entry about the same register, of the same kind. -/
def Held.same (h : Held) (r : Rec) : Bool := h.entry.page == r.page && h.entry.word == r.word && h.entry.kind == r.kind

/-- An entry that the hardware makes (R303, R310): appended, or held when the ring is full, merged by register. DEDUCED (log 123): an
entry of another kind than 0x0D is held in the same way and keeps its kind. -/
def State.hwRec (s : State) (r : Rec) : State × List Sig :=
  if s.led.started && ringSize ≤ s.occupancy then
    if s.led.held.any (·.same r) then
      let more : Held → Held := fun v => if v.same r then ⟨{ v.entry with new := r.new, detail := r.detail }, min 255 (v.count + 1)⟩ else v
      ({ s with led := { s.led with held := s.led.held.map more } }, [])
    else (({ s with led := { s.led with held := s.led.held ++ [(⟨r, 1⟩ : Held)] } }.count (ldgPage 0) 4).syncLedger, [])
  else s.append r

/-- An autonomous hardware mode change of the register with key `k` (R303, R310). -/
def State.hwRaw (s : State) (k : Nat) (old new : Word) : State × List Sig := s.hwRec ⟨64, 6, k / 1024, k % 1024, old, new, 0x0D, 0⟩

/-- The ledger has room for the `n` entries of an initiator's change (R303, R309, R302), and for the refusal-span entry that would go before
them: no entry that is not exported is overwritten. -/
def State.room (s : State) (who : Nat) (n : Nat := 1) : Bool :=
  if !s.led.started then true
  else if s.trustedActor who then s.occupancy + b2n (s.spanOf true).isSome + n ≤ ringSize
  else s.occupancy < openLimit &&
    (s.rd (cusPage 0) CUS_ISOLATION_strict == 0 || NatTbl.at_ s.led.acctOcc who + NatTbl.at_ s.led.reserved who + n ≤ 1920)

/-- One entry reserved by a COMMIT write (R309). -/
def State.reserve (s : State) (a : Nat) : State × List Sig :=
  s.spaceLow ({ s with led := { s.led with reserved := NatTbl.put s.led.reserved a (NatTbl.at_ s.led.reserved a + 1) } } : State).syncLedger

/-- The reservation of one COMMIT write's entry given back or used. -/
def State.unreserve (s : State) (a n : Nat) : State :=
  { s with led := { s.led with reserved := NatTbl.put s.led.reserved a (NatTbl.at_ s.led.reserved a - n) } }

/-- The entry of a commit in the place reserved for it, after the refusal span due (R161, R309): occupancy stays as it was. -/
def State.useReserved (s : State) (a : Nat) (trusted : Bool) (r : Rec) : State × List Sig :=
  let (s, sg) := s.closeSpan trusted 0
  ((s.unreserve a 1).write1 r, sg)

/-- A change refused for want of room: counted in its world's refusal span, tallied, LDG_FULL (R309, R311). -/
def State.refuseFull (s : State) (who : Nat) : State × List Sig :=
  let bump := fun (o : Option (Nat × Nat)) => match o with | some (n, t) => some (n + 1, t) | none => some (1, s.now)
  if s.trustedActor who then
    (({ s with led := { s.led with spanTrusted := bump s.led.spanTrusted } }.count (ldgPage 0) 3).syncLedger, [])
  else
    let s := ({ s with led := { s.led with spanOpen := bump s.led.spanOpen } }.count (ldgPage 0) 2).syncLedger
    let g := 16 * ldgPage 0
    ({ s with levels := Tbl.set (fun _ => false) s.levels g true }, [.fault (ldgPage 0) 0])

end Sys2Proof.Machine
end

