-- ==== Sys2Proof/Machine/Dram.lean ====
section
/-! DEFINITION. The DRAM channels (R224, R226 to R239): rows, ranks, buckets, write queues, when a request is served, and the ring
entries that device units write. -/

namespace Sys2Proof.Machine

/-- The part of an access that lies in a 64-byte line: its address and length. -/
def inLine (addr len line : Nat) : Nat × Nat :=
  let lo := max addr (64 * line)
  (lo, min (addr + len) (64 * line + 64) - lo)

/-- Time in us since `t`. -/
def State.usSince (s : State) (t : Nat) : Nat := (s.now - t) / 1000

/-- The time since `t` added to a tally in us; what is no whole us yet is kept for the next time (R250). -/
def State.addTime (s : State) (p i t : Nat) : State :=
  let ns := NatTbl.at_ s.mem.timeNs (8 * p + i) + (s.now - t)
  ({ s with mem := { s.mem with timeNs := NatTbl.put s.mem.timeNs (8 * p + i) (ns % 1000) } } : State).count p i (ns / 1000)

/-! DRAM channels (R224, R226, R227, R233, R238). -/

/-- The bits of PA[39:6] that are no mask's home bit, in ascending order (R224). -/
def State.mask (s : State) (m : Nat) : Nat :=
  s.rd (memPage 0) ⟨0xA0, 8, 31, 0⟩ m + s.rd (memPage 0) ⟨0xA4, 8, 1, 0⟩ m * 2 ^ 32
def homeBit (mask : Nat) : Option Nat := (List.range 34).find? fun i => mask.testBit i
def State.plainBits (s : State) : List Nat :=
  let homes := (List.range 9).filterMap fun m => homeBit (s.mask m)
  (List.range 34).filter fun i => !homes.contains i

/-- The row of an address (R224): the bits above the 5 column bits. -/
def State.rowOf (s : State) (pa : Nat) : Nat :=
  ((s.plainBits.drop 5).zipIdx.filter fun e => (pa / 64).testBit e.1).foldl (fun n e => n + 2 ^ e.2) 0

/-- The channel page of channel `c`, and the row-buffer key of an address. -/
def chPage (c : Nat) : Nat := memPage (1 + c)
def State.bankKey (s : State) (pa : Nat) : Nat := s.channel pa * 32 + s.rankOf pa * 16 + s.bankOf pa

/-- A rank leaves power-down (R233). -/
def State.wakeRank (s : State) (r : Nat) : State :=
  match s.mem.down.find? fun (e : Nat × Nat) => e.1 == r with
  | none => s
  | some e => ({ s with mem := { s.mem with down := s.mem.down.filter fun (e : Nat × Nat) => e.1 != r } } : State).addTime (chPage (r / 2)) 7 e.2

/-- Strict isolation mode (R239). -/
def State.strictMem (s : State) : Bool := s.rd (memPage 0) MEM_CTRL_strict == 1

/-- A request to the rank of an address: the rank is awake, and its idle time begins anew (R233). -/
def State.touchRank (s : State) (pa : Nat) : State :=
  let r := s.channel pa * 2 + s.rankOf pa
  let s := s.wakeRank r
  { s with mem := { s.mem with lastReq := NatTbl.put s.mem.lastReq r s.now } }

/-- One access of a channel to the line of address `pa`: tallied, the rank awake, the row open or closed again; in strict mode it
is one of its window's accesses (R239). -/
def State.chAccess (s : State) (pa : Nat) (write : Bool) : State :=
  let c := s.channel pa
  let k := s.bankKey pa
  let s := (s.touchRank pa).count (chPage c) (if write then 1 else 0)
  let s := if s.strictMem then { s with mem := { s.mem with used := NatTbl.put s.mem.used c (NatTbl.at_ s.mem.used c + 1) } } else s
  let s := if NatTbl.at_ s.mem.openRow k = s.rowOf pa + 1 then s.count (chPage c) 6 else s
  let keep := if s.rd (chPage c) MEM_CH_CTRL_policy = 1 ∨ s.strictMem then 0 else s.rowOf pa + 1
  { s with mem := { s.mem with openRow := NatTbl.put s.mem.openRow k keep } }

/-- The bucket of an owner, refilled (R238); the part of a byte left over stays for the next refill. -/
def State.refill (s : State) (o : Nat) : State :=
  let rate := s.rd (memPage 19) MEM_RSV_RATE_rate o
  let last := NatTbl.at_ s.mem.refilled o
  let add := (s.now - last) * rate / 100
  let level := signed 32 (s.rd (memPage 21) MEM_BUCKET o)
  let cap : Int := (s.rd (memPage 19) MEM_RSV_DEPTH_depth o * 1024 : Nat)
  let s := { s with mem := { s.mem with refilled := NatTbl.put s.mem.refilled o (if rate = 0 then s.now else last + add * 100 / rate) } }
  s.wr (memPage 21) MEM_BUCKET (unsigned 32 (min cap (level + add))) o

/-- The level of an owner's bucket as of now (R238). -/
def State.bucketNow (s : State) (o : Nat) : Int := signed 32 ((s.refill o).rd (memPage 21) MEM_BUCKET o)

/-- The bucket of an owner as its reservation changes: what it has gained at the old rate is credited first (R238). -/
def State.rebase (s : State) (o : Nat) : State :=
  let s := s.refill o
  { s with mem := { s.mem with refilled := NatTbl.put s.mem.refilled o s.now } }

/-- One 64-byte DRAM access on an owner's behalf (R238). -/
def State.spend (s : State) (o : Nat) : State :=
  if 32 < o then s
  else
    let s := s.refill o
    s.wr (memPage 21) MEM_BUCKET (unsigned 32 (max (-2147483648) (signed 32 (s.rd (memPage 21) MEM_BUCKET o) - 64))) o

/-- Queued writes of a channel issued, in queue order (R227), each line of a region with its tag (R244). -/
def State.issueOut (s : State) : List (Nat × List Byte) → State
  | [] => s
  | e :: q => (((s.chAccess e.1 true).storeDram e.1 e.2).retag (e.1 / 64) false).issueOut q

/-- A channel's queue drained to `keep` entries. -/
def State.drainTo (s : State) (c keep : Nat) : State :=
  let q := s.wq c
  (s.setWq c (q.drop (q.length - keep))).issueOut (q.take (q.length - keep))

/-- Every queued write to a line issued (R227). -/
def State.issueLine (s : State) (line : Nat) : State :=
  let c := s.channel (64 * line)
  let q := s.wq c
  (s.setWq c (q.filter fun (e : Nat × List Byte) => e.1 / 64 != line)).issueOut (q.filter fun (e : Nat × List Byte) => e.1 / 64 == line)

/-- The number of bytes of an operation, and whether it writes. -/
def opSize : MemOp → Nat | .read n => n | .write bs => bs.length
def opWrites : MemOp → Bool | .read _ => false | .write _ => true

/-- A read waits at channel `c`. -/
def State.readWaits (s : State) (c : Nat) : Bool :=
  s.mem.waiting.any fun w => !opWrites w.op && w.left.any fun l => s.channel (64 * l) == c

/-- A queue above 16 entries drains to 16 while no read waits at its channel (R227). -/
def State.drainIdle (s : State) (c : Nat) : State :=
  if !s.readWaits c && 16 < (s.wq c).length then s.drainTo c 16 else s

/-- A write enters its channel's queue (R227): the queue drains at 48 entries, or while no read waits, to 16. In strict mode it
is issued in the window that admits it. -/
def State.enqueue (s : State) (addr : Nat) (data : List Byte) : State :=
  let c := s.channel addr
  let s := (s.touchRank addr).setWq c (s.wq c ++ [(addr, data)])
  if s.strictMem then s.issueLine (addr / 64)
  else if 48 ≤ (s.wq c).length then (s.count (chPage c) 3).drainTo c 16
  else s.drainIdle c

/-! When a request is served (R234 to R239). -/

def State.dramPower (s : State) : Nat := s.rd (memPage 0) MEM_STATUS_power

/-- The time tallies that are running are brought up to date before they latch (R250). -/
def State.accrue (s : State) : State :=
  let s := s.mem.down.foldl (fun (t : State) (e : Nat × Nat) => t.addTime (chPage (e.1 / 2)) 7 e.2) s
  let s := match s.mem.panicAt with | some t => s.addTime (memPage 18) 0 t | none => s
  let s := if s.dramPower = 1 ∨ s.dramPower = 2 then s.addTime (memPage 18) s.dramPower s.mem.sleepAt else s
  { s with mem := { s.mem with down := s.mem.down.map fun (e : Nat × Nat) => (e.1, s.now), panicAt := s.mem.panicAt.map fun _ => s.now,
                               sleepAt := if s.dramPower = 1 ∨ s.dramPower = 2 then s.now else s.mem.sleepAt } }

/-- A request that comes through no real-time port is noted (R234, R235). -/
def State.noteNonRt (s : State) (rt : Option Nat) : State :=
  if rt.isSome then s else { s with mem := { s.mem with lastNonRt := s.now } }

/-- The present strict window of a channel, and its owner (63: idle). -/
def State.windowOwner (s : State) (ch : Nat) : Nat :=
  let w := NatTbl.at_ s.mem.window ch
  if w = 0 then 63 else s.rd (memPage 20) ⟨0x080, 4, 8 * ((w - 1) % 4) + 5, 8 * ((w - 1) % 4)⟩ ((w - 1) / 4)

/-- A request of owner `o` at address `pa` may be served now: the DRAM is active, and in strict mode the channel's window is the
owner's and has an access left (R237, R239). -/
def State.mayServe (s : State) (o pa : Nat) : Bool :=
  let c := s.channel pa
  s.dramPower == 0 &&
    (!s.strictMem || (s.windowOwner c == o && decide (NatTbl.at_ s.mem.used c < s.rd (memPage 20) MEM_STRICT_WIN_accesses)))

/-- A request of a device unit may be served now: no request that waits has its line left (R227). -/
def State.unitMay (s : State) (o pa : Nat) : Bool := s.mayServe o pa && !s.mem.waiting.any fun w => w.left.contains (pa / 64)

/-- The lines of an extent may all be served now. -/
def State.maySpan (s : State) (o addr len : Nat) : Bool := (linesOf addr len).all fun l => s.unitMay o (64 * l)

/-- An entry of a device unit's ring written, one whole line (R227, R237, R239, R241, R244, R249, R295): why it is blocked, with
what that raises. A DRAM write that may not be served yet waits as a posted request. -/
def State.put (s : State) (who cls space addr : Nat) (data : List Byte) (rt : Option Nat := none) : State × Option (List Sig) :=
  match s.memCheck who cls space addr data.length true with
  | some .failed => (s, some [])
  | some e => (s.count (accPage who 0) 2, some ((if e = .tagArea then [.fault (memPage 17) 3] else []) ++ [.fault (accPage who 0) 0]))
  | none =>
    if space = 1 then
      let g := vltGroup addr
      match (s.count g 3).useInject g 1 with
      | (s, some _) => (s.count g 2, some [.fault g 1])
      | (s, none) => (s.storeVault addr data, none)
    else
      let s := s.noteNonRt rt
      if s.unitMay who addr then ((s.spend who).enqueue addr data, none)
      else ({ s with mem := { s.mem with waiting := s.mem.waiting ++ [⟨who, rt, false, true, addr, .write data, linesOf addr data.length, false, [], 0, s.now⟩] } }, none)

end Sys2Proof.Machine
end

