-- ==== Sys2Proof/Machine/Flags.lean ====
section
/-! DEFINITION. Events, interrupts, event-queue entries, fault capture with its class actions, safe states, and the
account reset: what one effect sets off in the collectors, in one operation `deliver`. -/

namespace Sys2Proof.Machine

/-! Interrupts and queues (R253, R273, R274). -/

/-- An MSI-X message of an account's function: sent in D0, else held in the pending-bit array (R253). -/
def State.msix (s : State) (a v : Nat) : State :=
  let c := s.acct a
  if c.power = .d0 then s.setAcct a { c with msixSent := c.msixSent + 1 }
  else s.setAcct a { c with msixPending := setBit c.msixPending v true }

/-- The configuration page and index of local queue `q` of account `a`. -/
def qPage (a q : Nat) : Nat := accPage a (4 + q / 128)
def State.qctl (s : State) (a q : Nat) (f : Fld) : Nat := s.rd (qPage a q) f (q % 128)
def State.qOn (s : State) (a q : Nat) : Bool := s.qctl a q ACC_Q_CTRL_en == 1
def State.qHead (s : State) (a q : Nat) : Nat := s.rd (accPage a 6) ACC_Q_HEAD q
def State.qTail (s : State) (a q : Nat) : Nat := s.rd (accPage a 6) ACC_Q_TAIL q
def State.setHead (s : State) (a q v : Nat) : State := s.wr (accPage a 6) ACC_Q_HEAD v q
def State.setTail (s : State) (a q v : Nat) : State := s.wr (accPage a 6) ACC_Q_TAIL v q

/-- The ring's base, as an address of its space, and its size in entries (R269). -/
def State.qBase (s : State) (a q : Nat) : Nat :=
  s.qctl a q ACC_Q_BASE_LO_addr * 64 + s.qctl a q ACC_Q_BASE_HI_addr_hi * 2 ^ 32
def State.qSize (s : State) (a q : Nat) : Nat := 2 ^ s.qctl a q ACC_Q_CTRL_log2size

/-- The difference of two free-running indices. -/
def idxDiff (a b : Nat) : Nat := (a + 2 ^ 32 - b) % 2 ^ 32

/-- A write of a device-to-host ring: entries written, and interrupt moderation (R273). -/
def State.qSignal (s : State) (a q : Nat) : State :=
  let k := 256 * a + q
  let st := s.queue k
  let since := st.since + 1
  if s.qctl a q ACC_Q_INT_irq_en = 0 then s.setQueue k { st with since := since, lost := false }
  else if s.qctl a q ACC_Q_INT_count ≤ since ∨ s.qctl a q ACC_Q_INT_time_us = 0 then
    (s.setQueue k { st with since := 0, first := none, lost := false }).msix a (s.qctl a q ACC_Q_INT_vector)
  else s.setQueue k { st with since := since, first := some (st.first.getD s.now), lost := false }

/-- An entry for a device-to-host ring (R269, R273): dropped and counted when the ring is full (but for a completion
queue, whose entry is reserved), else written as a class 4 access; an audio ring's comes through RT10 (R232). A blocked ring access
stops the queue and raises QUEUE_ERROR (R287). -/
def State.ringPut (s : State) (a q cls : Nat) (bytes : List Byte) : State × List Sig :=
  if !s.qOn a q then (s, [])
  else if idxDiff (s.qTail a q) (s.qHead a q) = s.qSize a q then
    let n := s.rd (accPage a 6) ACC_Q_LOST q
    ((s.wr (accPage a 6) ACC_Q_LOST (min 0xFFFFFFFF (n + 1)) q).setQueue (256 * a + q) { s.queue (256 * a + q) with lost := true }, [])
  else
    let st := s.queue (256 * a + q)
    let bytes := if st.lost then bytes.set 1 ((bytes.getD 1 0) ||| 0x80) else bytes
    let rt := if s.qctl a q ACC_Q_CTRL_type = 3 then some 10 else none
    match s.put a cls (s.qctl a q ACC_Q_CTRL_space) (s.qBase a q + 64 * (s.qTail a q % s.qSize a q)) bytes rt with
    | (t, some sg) => (t.wr (qPage a q) ACC_Q_CTRL_en 0 (q % 128), sg ++ [.event (accPage a 6) 0, .fault (accPage a 6) 0])
    | (t, none) => (((t.setTail a q (s.qTail a q + 1)).count (accPage a 6) 0).qSignal a q, [])

/-- An event queue entry (R274), 64 bytes. -/
def eventEntry (kind page w1 gen now : Nat) : List Byte :=
  [BitVec.ofNat 8 kind, 0] ++ leBytes 2 page ++ leBytes 4 w1 ++ leBytes 4 gen ++ leBytes 4 0 ++ leBytes 8 now
    ++ List.replicate 40 0

/-! The 4410 personality's causes (R391 to R393). -/

/-- LEG_INT_STATUS bits set for account `a`; MSI-X vector 0 when its condition becomes nonzero without INT_N (R392). -/
def State.legInt (s : State) (a bits : Nat) : State :=
  let old := s.leg a 0x10
  let new := old ||| bits
  let t := s.setLeg a 0x10 new
  if old &&& s.leg a 0x14 = 0 ∧ new &&& s.leg a 0x14 ≠ 0 ∧ s.leg a 0x4 % 2 = 0 then t.msix a 0 else t

/-- The LEG_INT_STATUS bit of an event of a page, for the legacy account that owns it (R387). -/
def State.legEventBit (s : State) (a p b : Nat) : Option Nat :=
  match kindOf p with
  | (.out 0, n) =>
    let k := (s.outsOf a).idxOf n
    if 4 ≤ k then none
    else if b = 0 then some k else if b = 1 then some (4 + k) else if b = 3 then some (8 + k)
    else if b = 4 then some (12 + k) else if b = 8 then some 19 else none
  | (.hapCh, h) =>
    let k := (s.ownedBy a hapPage 8).idxOf h
    if b = 0 ∧ k < 2 then some (17 + k) else none
  | _ => none

/-- LEG_ERR_STATUS bits set, with LEG_INT_STATUS.err (R391, R393). -/
def State.legErr (s : State) (a bits : Nat) : State :=
  (s.setLeg a 0x18 (s.leg a 0x18 ||| bits)).legInt a 0x80000000

/-- The LEG_ERR_STATUS bit that lists fault source `i` of page `p` (R387, R393), for a legacy account `a`. -/
def State.legErrBit (s : State) (a p i : Nat) : Option Nat :=
  match kindOf p with
  | (.lay, l) => if i < 2 ∧ (s.layersOf a).idxOf l < 16 then some 0 else none
  | (.out 6, n) => if i < 4 ∧ (s.outsOf a).idxOf n < 4 then some 1 else none
  | (.mem k, _) => if (k = 0 ∧ i = 0) ∨ (k = 17 ∧ (i = 0 ∨ i = 2)) then some 2 else none
  | (.vltBg, _) => if i = 0 then some 2 else none
  | (.hapCh, h) => if i < 5 ∧ (s.ownedBy a hapPage 8).idxOf h < 2 then some 3 else none
  | (.tchB, b) => if i < 2 ∧ (s.ownedBy a tchPage 4).idxOf b = 0 then some 4 else none
  | _ => none

/-- The accounts in the 4410 personality. -/
def State.legacyAccts (s : State) : List Nat := (List.range 32).filter fun a => (s.acct a).legacy

/-! Faults (R312 to R321). -/

/-- The sticky bits of a page. -/
def State.sticky (s : State) (p : Nat) : Nat := s.rd p FLT_STICKY

/-- The class of fault source `i` of page `p` (R315). -/
def State.fltClass (s : State) (p i : Nat) : Nat :=
  if i < 8 then s.rd p ⟨0x024, 4, 3 * i + 2, 3 * i⟩ else s.rd p ⟨0x028, 4, 3 * (i - 8) + 2, 3 * (i - 8)⟩

/-- The action mask of a class; after a CLASS_PARITY error with NOTIFY_MGR added (R316, R332). -/
def State.classMask (s : State) (c : Nat) : Nat :=
  let m := if c < 4 then s.rd (fltPage 0) ⟨0x080, 4, 5, 0⟩ c else s.rd (fltPage 2) FLT_TACTION_actions (c - 4)
  if s.flt.parity.testBit c then m ||| 2 else m

/-- Action bit `b` of a source's class. -/
def State.srcAction (s : State) (p i b : Nat) : Bool := (s.classMask (s.fltClass p i)).testBit b

/-- The uncleared sources: every (page, source) with its sticky bit set, in page order. -/
def State.uncleared (s : State) : List (Nat × Nat) :=
  (s.regs.filter fun e => e.1 % 1024 = 8 ∧ e.1 < 4096 * 1024 ∧ (kindOf (e.1 / 1024)).1 ≠ .leg ∧ (kindOf (e.1 / 1024)).1 ≠ .none).flatMap
    fun e => (bitsOf e.2.toNat 16).map fun i => (e.1 / 1024, i)

/-- An output of a locked pair, and its partner (R173). -/
def State.pairLocked (s : State) (n : Nat) : Bool := s.rd (outPage (n / 2 * 2) 0) OUT_TIM_CTRL_pair_lock == 1
def State.withPair (s : State) (n : Nat) : List Nat := if s.pairLocked n then [n / 2 * 2, n / 2 * 2 + 1] else [n]

/-- The outputs that a page's owner account owns. -/
def State.ownerOuts (s : State) (p : Nat) : List Nat := match s.ownerAcct p with | some a => s.outsOf a | none => []

/-- The target outputs of a page (R318). -/
def State.targets (s : State) (p : Nat) : List Nat :=
  let base := match kindOf p with
    | (.out _, n) => [n]
    | (.pl, n) => [n]
    | (.chk, _) => let pt := s.rd p CHK_CTRL_point; if pt < 16 then [pt % 8] else s.ownerOuts p
    | (.lay, _) => (List.range 8).filter fun n => (s.rdA n p LAY_PLACE_outputs).testBit n
    | _ => s.ownerOuts p
  (List.range 8).filter fun n => base.any fun m => (s.withPair m).contains n

/-- The device safe state has a cause: an uncleared SAFE_DEVICE source, SAFE_REQ_N, or force (R321). -/
def State.deviceCause (s : State) : Bool :=
  s.flt.safeReq || s.rd (fltPage 2) FLT_SAFE_CTRL_force == 1 || s.uncleared.any fun e => s.srcAction e.1 e.2 4

/-- An output has a cause of the safe state (R321). -/
def State.safeCause (s : State) (n : Nat) : Bool :=
  s.deviceCause || s.uncleared.any fun e => s.srcAction e.1 e.2 3 && (s.targets e.1).contains n

/-- FLT_COUNTc, the page maps and the pin-fault state brought up to date after a change of page `p` (R323). -/
def State.syncFaults (s : State) (p : Nat) : State :=
  let un := s.uncleared
  let s : State := { s with flt := { s.flt with known := s.flt.known.filter fun k => (s.sticky (k / 16)).testBit (k % 16) } }
  let s := (List.range 8).foldl (fun t c => t.wr (fltPage 0) FLT_COUNT_count (un.countP fun e => s.fltClass e.1 e.2 == c) c) s
  let on := b2n (s.sticky p != 0)
  let s := s.wr (fltPage 3) ⟨0x080, 4, p % 32, p % 32⟩ on (p / 32)
  let s := s.wr (fltPage 1) ⟨0x080, 4, p % 32, p % 32⟩ (if s.trustedPage p then 0 else on) (p / 32)
  let pin := un.any fun e => s.srcAction e.1 e.2 5
  let s := if pin && s.rd (fltPage 2) FLT_OUT_STATUS_pin_fault == 0 then { s with flt := { s.flt with ceased := max s.flt.ceased s.now } } else s
  let s := s.wr (fltPage 2) FLT_OUT_STATUS_pin_fault (b2n pin)
  if s.rd (fltPage 2) FLT_OUT_STATUS_compat = 1 then s.wr (fltPage 2) FLT_OUT_STATUS_level (b2n (!pin && s.rd (pinPage 0) PIN_STATUS_applied == 1)) else s

/-- A haptic channel's bridge off at once; its effect, repeats and waiting requests dropped (R361). -/
def State.hapOff (s : State) (h : Nat) : State :=
  let v := s.hap h
  let s := s.setHap h { v with reqs := [], play := none, loading := none, ready := none, segs := [], seg := 0, left := 0, reps := 0,
                               cmd := 0, c := 0, integ := 0, bridge := false, ramp := none, brake := 0 }
  let s := (s.wr (hapPage h) HAP_STATUS_ramp 0).setReg (fkey (hapPage h) HAP_PLAY 0) 0
  let st := s.rd (hapPage h) HAP_STATUS_state
  if st = 3 ∨ st = 4 then s.wr (hapPage h) HAP_STATUS_state 2 else s

/-- A channel off for the safe state or an owner reset: it resumes only on a new play request (R361). -/
def State.hapPark (s : State) (h : Nat) : State := let t := s.hapOff h; t.setHap h { t.hap h with parked := true }

/-- The device enters or leaves the device safe state as its causes say: FLT_SAFE_STATUS, the haptic action, the
device's ledger entry (R320, R321). -/
def State.syncDevice (s : State) : State × List Sig :=
  let old := s.reg (fkey (fltPage 2) FLT_SAFE_STATUS 0)
  let now := b2n s.deviceCause
  let s := (s.wr (fltPage 2) FLT_SAFE_STATUS_req_n (b2n s.flt.safeReq)).wr (fltPage 2) FLT_SAFE_STATUS_forced
    (s.rd (fltPage 2) FLT_SAFE_CTRL_force)
  if s.rd (fltPage 2) FLT_SAFE_STATUS_device = now then (s, [])
  else
    let s := s.wr (fltPage 2) FLT_SAFE_STATUS_device now
    let s : State := if now = 1 then (List.range 8).foldl State.hapPark s else { s with flt := { s.flt with leftAt := s.now } }
    s.hwRaw (fkey (fltPage 2) FLT_SAFE_STATUS 0) old (s.reg (fkey (fltPage 2) FLT_SAFE_STATUS 0))

/-- Outputs note when a cause of the safe state arose (R321). -/
def State.noteCause (s : State) (outs : List Nat) : State :=
  outs.foldl (fun t n => let o := t.out n; t.setOut n { o with safeAt := some (o.safeAt.getD t.now) }) s

/-- The instant at which each output's causes of the safe state arose, after a change of them: a class, an action mask, a page's target
outputs (R318, R321). -/
def State.syncSafe (s : State) : State :=
  (List.range 8).foldl (fun (t : State) n =>
    let o := t.out n
    let at_ := if s.safeCause n then some (o.safeAt.getD t.now) else none
    if at_ = o.safeAt then t else t.setOut n { o with safeAt := at_ }) s

/-! The account reset (R284). -/

/-- LAY_STATUS of a layer from the applied scenes (R87's map). -/
def State.syncLayer (s : State) (l : Nat) : State :=
  let p := layPage l
  let on := (List.range 8).filter fun n => s.rdA n p LAY_CTRL_enable == 1 && (s.rdA n p LAY_PLACE_outputs).testBit n
  let race := on.any fun n => s.rdA n p LAY_CTRL_racing == 1 && s.rd (outPage n 0) OUT_TIM_STATUS_racing == 1
  ((s.wr p LAY_STATUS_outputs (on.foldl (fun m n => m + 2 ^ n) 0)).wr p LAY_STATUS_applied (b2n (!on.isEmpty))).wr p
    LAY_STATUS_racing_active (b2n race)

/-- The account's layers leave every scene (R70, R25): applied and escrowed enable cleared. -/
def State.dropLayers (s : State) (a : Nat) : State :=
  let ls := s.layersOf a
  let s := { s with legs := s.legs.filter fun (w : LegWrite) => !ls.any fun l => w.key / 1024 == layPage l }
  ls.foldl (fun t l =>
    let t := (List.range 9).foldl (fun t n => t.wrA n (layPage l) LAY_CTRL_enable 0) (t.wr (layPage l) LAY_CTRL_enable 0)
    (t.syncLayer l).syncDirty (layPage l)) s

/-- The data that some streams have not fetched will not be fetched, and a source read that has not begun does not begin: what is
missing counts as failed, with no error of the layer (R25, R84). A mint that waited for it counts its time anew (R146). -/
def State.endFetches (s : State) (f : Cheque → Stream → Bool) : State :=
  let ends := fun (c : Cheque) (st : Stream) => !st.ended && f c st
  let ids := s.cheques.filterMap fun e => match e.2 with | some c => if c.streams.any (ends c) then some e.1 else none | none => none
  let one := fun (c : Cheque) (st : Stream) => if ends c st then { st with want := [], ended := true } else st
  let shut := fun (c : Cheque) => { c with streams := c.streams.map (one c) }
  ids.foldl (fun (t : State) id => match t.cheque id with
    | none => t
    | some c =>
      let t := t.setCheque id (some (shut c))
      match (List.range 8).find? fun j => (t.mint (8 * c.press + j)).cheque == some id with
      | some j => t.setMint (8 * c.press + j) { t.mint (8 * c.press + j) with lastAt := t.now }
      | none => t) s

/-- The escrow of the account's output pages returns to the applied values (R285). -/
def State.dropOutputEscrow (s : State) (a : Nat) : State :=
  ((s.outsOf a).flatMap fun n => [outPage n 2, outPage n 3, outPage n 4]).foldl (fun t p =>
    ((blockRows (kindOf p).1).filter fun r => r.fields.any (fun f => f.acc == .rwe)).foldl (fun t r =>
      (List.range r.count).foldl (fun t i => t.setReg (fkey p r.reg i) (t.appl 8 (fkey p r.reg i))) t) t |>.wr p ⟨0x044, 4, 0, 0⟩ 0) s

/-- ESCROW_STATUS.pending of pages. -/
def State.markPending (s : State) (pages : List Nat) (v : Nat) : State :=
  pages.foldl (fun (t : State) p => t.wr p ⟨0x044, 4, 1, 1⟩ v) s

/-- OUT_CMP_REBUILD.busy of outputs (R103): an undecided commit names the output. -/
def State.syncBusy (s : State) (outs : Nat) : State :=
  (bitsOf outs 8).foldl (fun (t : State) n => t.wr (outPage n 2) OUT_CMP_REBUILD_busy (b2n ((List.range 32).any fun a =>
    match t.commit a with | some c => !c.admitted && c.members.testBit n | none => false))) s

/-- The account's commits abandoned (R162), each recorded once (R161); of a syndicate commit whose token is being sent the device
acts on no application (R164). -/
def State.dropCommits (s : State) (a : Nat) : State × List Sig :=
  let st := s.reg (fkey (accPage a 1) ACC_COMMIT_STATUS 0)
  let live := (s.commit a).isSome || s.rd (accPage a 1) ACC_COMMIT_STATUS_held == 1 || s.waits.any (·.acct == a)
  if !live then (s, [])
  else
    let late := ((s.waits.filter fun w => w.acct == a && w.late && !w.recorded).map (·.gen)).eraseDups
    let unrec := (match s.commit a with | some c => b2n (!c.recorded && !late.contains c.gen) | none => 0) + late.length
      + s.rd (accPage a 1) ACC_COMMIT_STATUS_held
    let (pages, outs) := match s.commit a with | some c => (c.pages, c.members) | none => ([], 0)
    let s := match (s.commit a).bind (·.syn) with
      | some y => if s.link.tokensOut.any fun t => t.tag == y.tag && t.frame == y.frame then
          { s with link := { s.link with acted := s.link.acted ++ [(a, y.tag, y.frame, false)] } } else s
      | none => s
    let s := s.setCommit a none
    let s := { s with waits := s.waits.filter fun w => w.acct != a, heldSyn := Tbl.set (fun _ => false) s.heldSyn a false }
    let s := (s.markPending pages 0).syncBusy outs
    let gen := s.reg (fkey (accPage a 1) ACC_COMMIT_GEN 0)
    let r : Rec := ⟨s.orgOf a, clsOf a, accPage a 1, ACC_COMMIT.off / 4, gen, gen, 0x06, 0xFF⟩
    let s := s.setReg (fkey (accPage a 1) ACC_COMMIT_STATUS 0) ((st &&& 0x00000F00) ||| 0x30)
    ((List.replicate unrec r).foldl (fun (t : State) r => (t.unreserve a 1).write1 r) s, [])

/-- An effect cheque stops: its layer is transparent in its parent's cell (R115, R139). -/
def State.markTransparent (s : State) (parent layer : Nat) : State :=
  match s.cheque parent with
  | none => s
  | some c => s.setCheque parent (some { c with streams := c.streams.map fun st =>
      if st.layer = layer ∧ st.output.isNone then { st with transparent := true } else st })

/-- MNT_P_QUEUE of a press from its queue and its mints. -/
def State.syncPress (s : State) (p : Nat) : State :=
  let busy := (List.range 8).filter fun j => (s.mint (8 * p + j)).cheque.isSome
  ((s.wr (pressPage p) MNT_P_QUEUE_waiting (s.press p).length).wr (pressPage p) MNT_P_QUEUE_in_flight busy.length).wr (pressPage p)
    MNT_P_MINT_STATE_busy (busy.foldl (fun m j => m + 2 ^ j) 0)

/-- A mint leaves its cheque, and the time it held it counts (R145); its registers and stores stay. -/
def MintS.leave (m : MintS) (now : Nat) : MintS :=
  { m with cheque := none, phase := .idle, cell := [], spos := [], opos := 0, timeSum := m.timeSum + (now - m.pulledAt),
           timeCount := m.timeCount + 1 }

/-- An autonomous hardware mode change of one field (R303), where it changes. -/
def State.hwFieldRaw (s : State) (p : Nat) (f : Fld) (v : Nat) : State × List Sig :=
  let k := fkey p f 0
  let old := s.reg k
  if f.put old v = old then (s, [])
  else
    let (t, sg) := s.hwRaw k old (f.put old v)
    (t.setReg k (f.put old v), sg)

/-- A mint is retired (R147): its bit set, its SLOW bit cleared and logged (R145). -/
def State.retireRaw (s : State) (m : Nat) : State × List Sig :=
  let p := pressPage (m / 8)
  let s := s.wr p ⟨0x084, 4, 8 + m % 8, 8 + m % 8⟩ 1
  let (s, sg) := s.hwFieldRaw p ⟨0x084, 4, 24 + m % 8, 24 + m % 8⟩ 0
  ((s.wr (branchPage (m / 32)) ⟨0x088, 4, m % 32, m % 32⟩ 0).setMint m { s.mint m with retiring := false, slowRun := 0 }, sg)

/-- A mint leaves its cheque; one that the manager has retired meanwhile switches OFF (R147). -/
def State.leaveRaw (s : State) (m : Nat) : State × List Sig :=
  let t := s.setMint m ((s.mint m).leave s.now)
  if (s.mint m).retiring then t.retireRaw m else (t, [])

/-- Cheque `id` abandoned wherever it is (R139): its record returns to the pool, TALLY3 of the press. -/
def State.abandonRaw (s : State) (id : Nat) : State × List Sig :=
  match s.cheque id with
  | none => (s, [])
  | some c =>
    let s := s.setPress c.press ((s.press c.press).filter (· != id))
    let (s, sg) := match (List.range 8).find? fun j => (s.mint (8 * c.press + j)).cheque == some id with
      | some j => s.leaveRaw (8 * c.press + j)
      | none => (s, [])
    let s := match c.acct, c.streams.head? with | some _, some st => s.markTransparent c.parent st.layer | _, _ => s
    let s := match c.acct with
      | some a => s.setAcct a { s.acct a with creditUsed := (s.acct a).creditUsed - b2n c.issued }
      | none => s
    (((s.setCheque id none).count (pressPage c.press) 3).syncPress c.press, sg)

/-- Cheques abandoned in turn. -/
def State.abandonAll (s : State) : List Nat → State × List Sig
  | [] => (s, [])
  | id :: ids => (((s.abandonRaw id).1.abandonAll ids).1, (s.abandonRaw id).2 ++ ((s.abandonRaw id).1.abandonAll ids).2)

/-- The account's effect cheques, waiting and in flight. -/
def State.chequesOf (s : State) (f : Cheque → Bool) : List Nat :=
  (s.cheques.filter fun e => match e.2 with | some c => f c | none => false).map (·.1)

/-- Every queue of an account stopped: indices and enables cleared, host-to-device entries released, and entries that wait to be written
dropped (R284). -/
def State.dropQueues (s : State) (a : Nat) : State :=
  let s := s.overRegs (fun k => k / 1024 == accPage a 6 && 512 ≤ k % 1024) (fun _ _ => 0)
  let s := s.overRegs (fun k => (k / 1024 == accPage a 4 || k / 1024 == accPage a 5) && 512 ≤ k % 1024 && k % 4 == 2) (fun _ w => w &&& 0xFFFFFFFE)
  { s with queues := Tbl.drop (fun k => k / 256 == a) s.queues,
           audio := { s.audio with streams := Tbl.drop (fun k => k / 256 == a) s.audio.streams },
           mem := { s.mem with waiting := s.mem.waiting.filter fun w => w.host || w.who != a } }

/-- The account's copy jobs stopped where they stand, with no completion (R284). -/
def State.dropJobs (s : State) (a : Nat) : State :=
  let s := (List.range 16).foldl (fun t e => match (t.engine e).job with
    | some j => if j.acct = a then ((t.setEngine e { t.engine e with job := none }).wr (hstPage (2 + e / 2)) HST_CE_STATUS_busy 0 (e % 2)) else t
    | none => t) s
  { s with jobs := s.jobs.filter fun j => j.acct != a }

/-- The number of a night-safe channel (R278): account to Custodian, Custodian to account, A0 to A16, A16 to A0. -/
def nsToCus (a : Nat) : Nat := a
def nsFromCus (a : Nat) : Nat := 32 + a
def nsMgr (fromA0 : Bool) : Nat := if fromA0 then 64 else 65

/-- NS_RX_STATUS and NS_RX_DATA of an account from the selected channel (R282). -/
def State.syncNs (s : State) (a : Nat) : State :=
  let ch := if s.rd (accPage a 7) NS_RX_SEL_channel = 0 then nsFromCus a else nsMgr (a == 16)
  let mine := s.rd (accPage a 7) NS_RX_SEL_channel = 0 ∨ a = 0 ∨ a = 16
  let q := if mine then s.safe ch else []
  let s := (s.wr (accPage a 7) NS_RX_STATUS_count q.length).wr (accPage a 7) NS_RX_STATUS_dropped (if mine then NatTbl.at_ s.dropped ch else 0)
  (List.range 16).foldl (fun t i => t.setReg (fkey (accPage a 7) NS_RX_DATA i) ((q.headD []).getD i 0)) s

/-- The account's night-safe channels emptied; DROPPED counts kept (R284). -/
def State.dropMessages (s : State) (a : Nat) : State :=
  let s := ([nsToCus a, nsFromCus a] ++ (if a = 0 ∨ a = 16 then [64, 65] else [])).foldl State.clearSafe s
  let s := s.syncNs a
  if a = 0 ∨ a = 16 then (s.syncNs 0).syncNs 16 else s

/-- The account's cells on every output are blank until its next commit (R284). -/
def State.blankOwned (s : State) (a : Nat) : State :=
  { s with blanked := (List.range 8).foldl (fun t n => Tbl.set (fun _ => false) t (32 * n + a) true) s.blanked }

/-- The actions of an account reset (R284): layers, escrow, commits, cheques, queues, jobs, messages, haptics. -/
def State.resetActions (s : State) (a : Nat) (flr : Bool) : State × List Sig :=
  let s := (s.dropLayers a).endFetches fun _ st => st.src.acct == a
  let s := (s.blankOwned a).dropOutputEscrow a
  let (s, sg) := s.dropCommits a
  let (s, sg') := s.abandonAll (s.chequesOf fun c => c.acct == some a)
  let s := (s.dropQueues a).dropJobs a
  let s := s.dropMessages a
  let s := (s.ownedBy a hapPage 8).foldl State.hapPark s
  let s := if flr then s.setAcct a { s.acct a with msixPending := 0 } else s
  (s, sg ++ sg')

/-- ACC_STATE.state and the passbook's state word (R257). -/
def State.setState (s : State) (a st : Nat) : State :=
  (s.wr (accPage a 0) ACC_STATE_state st).storeVault (passbook a + 4) (leBytes 4 st)

/-- The reset of an account begins (R258, R284): the actions, state RESET, its cause, the ledger entry. A trusted-world
account, and one that is DESTROYED or already in RESET, has no such reset. `org` and `cls` are the origin recorded. -/
def State.beginResetFrom (s : State) (org cls a cause : Nat) : State × List Sig :=
  let st := s.astate a
  if st = 0 ∨ st = 5 ∨ s.trustedAcct a then (s, [])
  else
    let (s, sg) := s.hwRec ⟨org, cls, 0xFFF, a, BitVec.ofNat 32 st, 5, 0x07, cause⟩
    let (s, sg') := s.resetActions a (cause == 1)
    let s := s.setAcct a { s.acct a with before := st }
    let s := ((s.setState a 5).wr (accPage a 0) ACC_STATE_reset_cause cause).setPower (accPage a 7) 0
    (s, sg ++ sg' ++ [.event (accPage a 0) 2, .entry a (eventEntry 4 (accPage a 0) 5 0 s.now), .notice a 1 st 5, .notice a 3 st cause])

/-- The reset of an account that the hardware begins. -/
def State.beginReset (s : State) (a cause : Nat) : State × List Sig := s.beginResetFrom 64 6 a cause

/-! One signal, and all that follows from it. -/

/-- A passbook notice (R267): written to the notice ring, counted, and the NOTICE event. -/
def State.notice (s : State) (a kind old new : Nat) : State :=
  let n := (s.acct a).notices
  let s := s.setAcct a { s.acct a with notices := (n + 1) % 2 ^ 32 }
  let s := s.storeVault (passbook a + 0xB00 + 64 * (n % 16)) (leBytes 4 n ++ leBytes 4 kind ++ leBytes 4 old ++ leBytes 4 new ++ leBytes 8 s.now)
  s.storeVault (passbook a + 0xC) (leBytes 4 (n + 1))

/-- An event of a page (R56, R274, R391): the latch; the pending bit, the queue entry and the vector if it is enabled. -/
def State.eventAct (s : State) (p b : Nat) : State × List Sig :=
  let s := s.wr p ⟨0x010, 4, b, b⟩ 1
  let s := match s.ownerAcct p with
    | some a => if (s.acct a).legacy then (match s.legEventBit a p b with | some k => s.legInt a (2 ^ k) | none => s) else s
    | none => s
  if s.rd p ⟨0x014, 4, b, b⟩ = 0 then (s, [])
  else
    let was := s.rd p EVT_PENDING
    let s := s.wr p ⟨0x018, 4, b, b⟩ 1
    match (match s.ownerAcct p with | some a => some a | none => if s.owner p = ownReserve then some 0 else if s.owner p = ownSub then some 16 else none) with
    | none => (s, [])
    | some a => (if was = 0 then s.msix a (s.rd p EVT_VECTOR_vector) else s, [.entry a (eventEntry 1 p (2 ^ b) 0 s.now)])

/-- A capture that the collector takes (R313, R316): counted, and the actions of the source's class. A notice to the Custodian goes to no
queue. -/
def State.collect (s : State) (p i : Nat) : State × List Sig :=
    let s : State := { s with flt := { s.flt with known := s.flt.known ++ [16 * p + i] } }
    let s := (s.count (fltPage 2) 0).syncFaults p
    let s := (s.legacyAccts.filter fun a => match (kindOf p).1 with | .mem _ => true | .vltBg => true | _ => s.ownerAcct p == some a).foldl
      (fun t a => match t.legErrBit a p i with | some k => t.legErr a (2 ^ k) | none => t) s
    let note := eventEntry 2 p (16 * p + i) 0 s.now
    let act := s.srcAction p i
    let code := s.owner p
    let own := match s.ownerAcct p with
      | some a => [Sig.entry a note]
      | none => if code = ownReserve then [.entry 0 note] else if code = ownSub then [.entry 16 note] else []
    let mgr := match s.ownerAcct p with
      | some a => if s.trustedAcct a then [] else if a = 0 ∨ a = 16 then [Sig.entry 0 note] else [.entry (s.manager a) note]
      | none => if code = ownReserve then [.entry 0 note] else if code = ownSub then [.entry 16 note] else []
    let rst := match s.ownerAcct p with | some a => if s.trustedAcct a then [] else [Sig.reset a 3] | none => []
    let s := if act 0 && (s.ownerAcct p).isNone && code == ownCustodian then
      { s with flt := { s.flt with told := s.flt.told ++ [note] } } else s
    let s := if act 3 then s.noteCause (s.targets p) else s
    let s := if act 4 then s.noteCause (List.range 8) else s
    let (s, sg) := if act 4 then s.syncDevice else (s, [])
    (s, (if act 0 then own else []) ++ (if act 1 then mgr else []) ++ (if act 2 then rst else []) ++ sg)

/-- A fault source of a page (R312): nothing if its bit is set already, else a capture. -/
def State.faultAct (s : State) (p i : Nat) : State × List Sig :=
  if !(capsOf (kindOf p).1).flt.testBit i || (s.sticky p).testBit i then (s, [])
  else (s.wr p ⟨0x020, 4, i, i⟩ 1).collect p i

/-- What one signal does, and the signals it gives rise to. -/
def State.act (s : State) : Sig → State × List Sig
  | .event p b => s.eventAct p b
  | .fault p i => s.faultAct p i
  | .entry a bytes =>
    if s.rd (accPage a 0) ACC_EVENT_Q_en = 0 then (s, [])
    else s.ringPut a (s.rd (accPage a 0) ACC_EVENT_Q_queue) 4 bytes
  | .reset a cause => s.beginReset a cause
  | .notice a k old new => (s.notice a k old new, [.event (accPage a 0) 3])

/-- Signals carried out in order, each followed by those it gives rise to; `fuel` bounds their number. -/
def State.deliver : Nat → List Sig → State → State
  | 0, _, s => s
  | _, [], s => s
  | n + 1, g :: gs, s => State.deliver n ((s.act g).2 ++ gs) (s.act g).1

/-- The bound on the signals of one effect. -/
def sigFuel : Nat := 256

/-- A pair of a state and signals, delivered. -/
def State.settle (r : State × List Sig) : State := State.deliver sigFuel r.2 r.1

/-- A cheque abandoned. -/
def State.abandon (s : State) (id : Nat) : State := State.settle (s.abandonRaw id)

/-- An event raised. -/
def State.raise (s : State) (p b : Nat) : State := State.deliver sigFuel [.event p b] s

/-- A fault source raised. -/
def State.fault (s : State) (p i : Nat) : State := State.deliver sigFuel [.fault p i] s

/-- A level source's condition (R312): present raises the source, absent leaves its sticky bit. -/
def State.setLevel (s : State) (p i : Nat) (on : Bool) : State :=
  if s.level (16 * p + i) = on then s
  else
    let s := { s with levels := Tbl.set (fun _ => false) s.levels (16 * p + i) on }
    if on then s.fault p i else s

/-- An autonomous hardware mode change: register `k` takes `new`, logged with the hardware as origin. -/
def State.hwChange (s : State) (k : Nat) (new : Word) : State :=
  let old := s.reg k
  if old = new then s
  else
    let (t, sg) := s.hwRaw k old new
    State.settle (t.setReg k new, sg)

/-- The same for one field. -/
def State.hwField (s : State) (p : Nat) (f : Fld) (v : Nat) (i : Nat := 0) : State :=
  s.hwChange (fkey p f i) (f.put (s.reg (fkey p f i)) v)

/-- Entries of a change that was admitted, appended and their signals delivered. -/
def State.log (s : State) (who : Nat) (rs : List Rec) : State := State.settle (s.logRaw (s.trustedActor who) rs)

/-- An entry about a register, with the initiator as origin. -/
def State.recOf (s : State) (who kind detail k : Nat) (old new : Word) : Rec :=
  ⟨s.orgOf who, clsOf who, k / 1024, k % 1024, old, new, kind, detail⟩

/-- A fault charged to an account: FIREWALL of its ACC page 0, with the tally of firewall blocks (R283, R287). -/
def State.charge (s : State) (a : Nat) : State := (s.count (accPage a 0) 2).fault (accPage a 0) 0

/-- An event raised on every page of a list, in order. -/
def State.raiseAll (s : State) (es : List (Nat × Nat)) : State := es.foldl (fun t e => t.raise e.1 e.2) s

end Sys2Proof.Machine
end

