-- ==== Sys2Proof/Machine/Scene.lean ====
section
/-! DEFINITION. The geometry of a scene (R66 to R82, R99 to R106, R109, R111): layers, slots, visible parts, cells,
the sorter's list of a cell, the blocks a listed layer needs, and the costs that admission counts. A scene is read
through a function from register keys to values, so that the same definitions serve the applied and a proposed scene. -/

namespace Sys2Proof.Machine

/-- A scene: the value of each escrowed register by key. -/
abbrev Scene := Nat → Word

def Scene.f (sc : Scene) (p : Nat) (f : Fld) (i : Nat := 0) : Nat := f.get (sc (fkey p f i))

/-- The scene applied on output `n` (8: the last applied one). -/
def State.scene (s : State) (n : Nat) : Scene := fun k => s.appl n k

/-- A scene with some values replaced. -/
def Scene.over (sc : Scene) (vals : List (Nat × Word)) : Scene := fun k =>
  match vals.find? (·.1 == k) with | some e => e.2 | none => sc k

/-- Layer `l` of account `a` in a scene. -/
def layOf (sc : Scene) (a l : Nat) : Lay :=
  let p := layPage l
  let g := fun f => sc.f p f
  { num := l, acct := a, enable := g LAY_CTRL_enable == 1, racing := g LAY_CTRL_racing == 1,
    opaq := g LAY_CTRL_opaque == 1, opqEn := g LAY_CTRL_opq_rect_en == 1, effect := g LAY_CTRL_effect_en == 1,
    kind := g LAY_CTRL_src_kind, cap := g LAY_CTRL_cap_port, outputs := g LAY_PLACE_outputs, z := g LAY_PLACE_z,
    x := signed 16 (g LAY_POS_x), y := signed 16 (g LAY_POS_y), sx := g LAY_SRC_XY_x, sy := g LAY_SRC_XY_y,
    sw := g LAY_SRC_WH_w_m1 + 1, sh := g LAY_SRC_WH_h_m1 + 1, dw := g LAY_DST_WH_w_m1 + 1, dh := g LAY_DST_WH_h_m1 + 1,
    format := g LAY_FMT_format, ilt := g LAY_FMT_ilt == 1, cs := g LAY_FMT_cs, tf := g LAY_FMT_tf,
    full := g LAY_FMT_yuv_range == 1, alpha := g LAY_BLEND_plane_alpha, mode := g LAY_BLEND_mode,
    ox := g LAY_OPQ_XY_x, oy := g LAY_OPQ_XY_y, ow := g LAY_OPQ_WH_w_m1 + 1, oh := g LAY_OPQ_WH_h_m1 + 1,
    a0 := g LAY_ADDR0_LO_addr * 64 + g LAY_ADDR0_HI_addr_hi * 2 ^ 32,
    a1 := g LAY_ADDR1_LO_addr * 64 + g LAY_ADDR1_HI_addr_hi * 2 ^ 32,
    st0 := g LAY_STRIDE_stride0 * 64, st1 := g LAY_STRIDE_stride1 * 64,
    routine := g LAY_EFFECT_routine_id, arg := sc (fkey p LAY_EFFECT_ARG 0) }

/-! Outputs (R168, R173). -/

/-- The output whose timing page drives output `n`. -/
def State.gen (s : State) (n : Nat) : Nat := if s.pairLocked n then n / 2 * 2 else n

/-- The timing that the registers of output `n` hold. -/
def State.timing (s : State) (n : Nat) : Timing :=
  let p := outPage n 0
  let g := fun f => s.rd p f
  { pclk := g OUT_TIM_PCLK_khz, hact := g OUT_TIM_HACT_active, hfront := g OUT_TIM_HSYNC_front,
    hsync := g OUT_TIM_HSYNC_width, hback := g OUT_TIM_HBACK_back, vact := g OUT_TIM_VACT_active,
    vfront := g OUT_TIM_VSYNC_front, vsync := g OUT_TIM_VSYNC_width, vback := g OUT_TIM_VBACK_back,
    lead := g OUT_TIM_LEAD_lines, racingLead := g OUT_TIM_LEAD_racing_lead, split := g OUT_TIM_PAIR_split,
    vtotalMax := g OUT_TIM_VRR_vtotal_max, release := g OUT_TIM_VRR_release == 1, vrr := g OUT_TIM_CTRL_vrr_en == 1,
    hsPol := g OUT_TIM_CTRL_hs_pol == 1, vsPol := g OUT_TIM_CTRL_vs_pol == 1 }

/-- The generator runs. -/
def State.running (s : State) (n : Nat) : Bool := s.rd (outPage (s.gen n) 0) OUT_TIM_STATUS_running == 1

/-- The timing in force: the running generator's, else the registers'. -/
def State.inForce (s : State) (n : Nat) : Timing :=
  if s.running n then (s.out (s.gen n)).tim else s.timing (s.gen n)

def Timing.htotal (t : Timing) : Nat := t.hact + t.hfront + t.hsync + t.hback
def Timing.vtotal (t : Timing) : Nat := t.vact + t.vfront + t.vsync + t.vback

/-- The line time in nanoseconds. -/
def Timing.lineNs (t : Timing) : Nat := t.htotal * 1000000 / max 1 t.pclk

/-- The levels of horizontal and vertical sync at a slot of a line, active high (R168): the pulses lie in blanking. -/
def Timing.hsyncAt (t : Timing) (slot : Nat) : Bool := decide (t.hact + t.hfront ≤ slot ∧ slot < t.hact + t.hfront + t.hsync)
def Timing.vsyncAt (t : Timing) (line : Nat) : Bool := decide (t.vact + t.vfront ≤ line ∧ line < t.vact + t.vfront + t.vsync)

/-- The sync levels that output `n`'s generator drives at a slot of its present line, with the polarities hs_pol and vs_pol in force on it (R168, R171). -/
def State.syncLevels (s : State) (n slot : Nat) : Bool × Bool :=
  let t := s.inForce n
  (t.hsyncAt slot != t.hsPol, t.vsyncAt (s.out (s.gen n)).line != t.vsPol)

/-- The columns and the horizontal blanking that port `n` carries of a line (R173): on a locked pair its half's columns, and the
pair's blanking in proportion, rounded down in the even half, the odd half taking the remainder. -/
def State.portLine (s : State) (n : Nat) : Nat × Nat :=
  let t := s.inForce n
  let blank := t.htotal - t.hact
  let even := blank * t.split / max 1 t.hact
  if !s.pairLocked n then (t.hact, blank)
  else if n % 2 = 0 then (t.split, even) else (t.hact - t.split, blank - even)

/-- The nominal instant of the next frame boundary of generator `g` (R171): `lead` lines before the next line 0 of a running
one, a frame from now for one that does not run. -/
def State.nextBoundary (s : State) (g : Nat) : Nat :=
  let t := s.inForce g
  let frame := t.vtotal * t.lineNs
  match (if s.running g then (s.out g).line0At else none) with
  | none => s.now + frame
  | some t0 =>
    let b := t0 + (t.vtotal - t.lead) * t.lineNs
    if s.now < b then b else b + frame

/-- The rate factor of admission: OUT_TIM_RMAX.rate (R170). -/
def State.rmax (s : State) (n : Nat) : Nat := s.rd (outPage (s.gen n) 0) OUT_TIM_RMAX_rate

/-! Slots (R69, R71, R72, R121). -/

/-- An output slot: account, allowance, viewport, z-band, share. -/
structure Slot where
  acct : Nat
  layers : Nat
  x : Nat
  y : Nat
  w : Nat
  h : Nat
  z : Nat
  zn : Nat
  share : Nat
  deriving DecidableEq, Repr

/-- The slots of output `n` as a scene reads the slot registers. -/
def slotsIn (sc : Scene) (n : Nat) : List Slot :=
  let p := outPage n 2
  ((List.range 8).filter fun i => sc.f p OUT_CMP_SLOT_ACCT_valid i == 1).map fun i =>
    ⟨sc.f p OUT_CMP_SLOT_ACCT_account i, sc.f p OUT_CMP_SLOT_ACCT_layers i, sc.f p OUT_CMP_SLOT_VP_XY_x i,
     sc.f p OUT_CMP_SLOT_VP_XY_y i, sc.f p OUT_CMP_SLOT_VP_WH_w_m1 i + 1, sc.f p OUT_CMP_SLOT_VP_WH_h_m1 i + 1,
     sc.f p OUT_CMP_SLOT_ZS_z_base i, sc.f p OUT_CMP_SLOT_ZS_z_size i, sc.f p OUT_CMP_SLOT_ZS_share i⟩

/-- The slots as granted, and the slot of an account. -/
def State.slots (s : State) (n : Nat) : List Slot := slotsIn s.reg (s.gen n)
def State.slotOf (s : State) (n a : Nat) : Option Slot := (s.slots n).find? (·.acct == a)

/-! Rectangles and cells (R71, R99). -/

/-- A rectangle of pixels: columns `x0` to `x1` - 1, lines `y0` to `y1` - 1. -/
structure Rect where
  x0 : Nat
  x1 : Nat
  y0 : Nat
  y1 : Nat
  deriving DecidableEq, Repr

def Rect.empty (r : Rect) : Bool := r.x1 ≤ r.x0 || r.y1 ≤ r.y0
def Rect.inter (r q : Rect) : Rect := ⟨max r.x0 q.x0, min r.x1 q.x1, max r.y0 q.y0, min r.y1 q.y1⟩
def Rect.covers (r q : Rect) : Bool := r.x0 ≤ q.x0 && q.x1 ≤ r.x1 && r.y0 ≤ q.y0 && q.y1 ≤ r.y1
def Rect.area (r : Rect) : Nat := (r.x1 - r.x0) * (r.y1 - r.y0)

/-- The part of a signed rectangle at or above zero. -/
def Rect.ofInt (x y : Int) (w h : Nat) : Rect := ⟨x.toNat, (x + w).toNat, y.toNat, (y + h).toNat⟩

/-- The visible part of a layer within a slot's viewport and an active area (R71). -/
def Lay.visible (l : Lay) (v : Slot) (w h : Nat) : Rect :=
  ((Rect.ofInt l.x l.y l.dw l.dh).inter ⟨v.x, v.x + v.w, v.y, v.y + v.h⟩).inter ⟨0, w, 0, h⟩

/-- The opaque rectangle of a layer on the output (R73). -/
def Lay.opqRect (l : Lay) : Rect := Rect.ofInt (l.x + l.ox) (l.y + l.oy) l.ow l.oh

/-- The occluding region of a layer, given its visible part (R104). -/
def Lay.occluding (l : Lay) (vis : Rect) : Rect :=
  if l.effect ∨ l.alpha ≠ 255 then ⟨0, 0, 0, 0⟩
  else if l.mode = 0 ∨ l.opaq then vis
  else if l.opqEn then vis.inter l.opqRect
  else ⟨0, 0, 0, 0⟩

/-- The rectangle of cell (column, row) in a grid, clipped to the active area (R99). -/
def cellRect (racing : Bool) (w h c r : Nat) : Rect :=
  let cw := if racing then 256 else 64
  let ch := if racing then 1 else 8
  ⟨c * cw, min w (c * cw + cw), r * ch, min h (r * ch + ch)⟩

def cellCols (racing : Bool) (w : Nat) : Nat := cdiv w (if racing then 256 else 64)
def cellRows (racing : Bool) (h : Nat) : Nat := cdiv h (if racing then 1 else 8)

/-- Insertion by stacking position, then layer number (R72). -/
def insertBy {α : Type} (key : α → Nat) (x : α) : List α → List α
  | [] => [x]
  | y :: t => if key y ≤ key x then y :: insertBy key x t else x :: y :: t
def sortBy {α : Type} (key : α → Nat) (l : List α) : List α := l.foldl (fun t x => insertBy key x t) []

/-- A placed layer: the layer, its slot, its visible part. -/
structure Placed where
  lay : Lay
  slot : Slot
  vis : Rect
  deriving DecidableEq, Repr

/-- The enabled layers placed on output `n` of the accounts of `slots`, in ascending stacking position. `own` gives the
account that holds a layer. -/
def placedOn (sc : Scene) (own : Nat → Option Nat) (slots : List Slot) (n w h : Nat) : List Placed :=
  let ls := (List.range 128).filterMap fun l =>
    match own l with
    | none => none
    | some a =>
      if sc.f (layPage l) LAY_CTRL_enable = 1 ∧ (sc.f (layPage l) LAY_PLACE_outputs).testBit n then
        (slots.find? (·.acct == a)).map fun v => (⟨layOf sc a l, v, (layOf sc a l).visible v w h⟩ : Placed)
      else none
  sortBy (fun q => (q.slot.z + q.lay.z) * 128 + q.lay.num) ls

/-- The account that owns a layer. -/
def State.layOwner (s : State) (l : Nat) : Option Nat := s.ownerAcct (layPage l)

/-- Layers of a list that stay once those below an occluding layer are removed (R104), highest first in `rev`. -/
def dropOccluded (cell : Rect) : List Placed → List Placed
  | [] => []
  | q :: t => if (q.lay.occluding q.vis).covers cell then [q] else q :: dropOccluded cell t

/-- The list of a cell before and after occlusion, lowest first (R104). -/
def meeting (ps : List Placed) (cell : Rect) : List Placed := ps.filter fun q => !(q.vis.inter cell).empty
def cellList (ps : List Placed) (cell : Rect) : List Placed := (dropOccluded cell (meeting ps cell).reverse).reverse

/-- An output composes in racing mode (R23). -/
def racingScene (ps : List Placed) : Bool := ps.any (·.lay.racing)

/-! Source positions and blocks (R74, R78, R105, R109, R111). -/

def Lay.scaled (l : Lay) : Bool := l.sw != l.dw || l.sh != l.dh
def planar (format : Nat) : Bool := format == 8 || format == 9
def yuv (format : Nat) : Bool := format == 8 || format == 9 || format == 10
def Lay.needsScaler (l : Lay) : Bool := l.scaled || yuv l.format

/-- Bits per pixel of plane 0 of a format. -/
def bitsPerPixel (format : Nat) : Nat :=
  if format = 3 ∨ format = 9 ∨ format = 10 then 16 else if format = 4 then 64 else if format = 8 ∨ format = 0x13 then 8
  else if format = 0x10 then 1 else if format = 0x11 then 2 else if format = 0x12 then 4 else 32

/-- Components of 8 bits or less after unpacking (R101). -/
def narrow (format : Nat) (scaler : Bool) : Bool := !scaler && format != 2 && format != 4

/-- The source position of destination pixel `i`, in units of 2^-16 (R109). DESIGN CHOICE (log 116): R109 gives no rounding into
those units; the position is rounded down. -/
def srcPos (origin src dst i : Nat) : Int := (origin : Int) * 65536 + ((2 * i + 1) * src * 65536 / (2 * dst) : Nat) - 32768

/-- A position's whole part and phase (R109). -/
def phaseOf (pos : Int) : Int × Nat :=
  let fr := (pos % 65536).toNat
  let ph := (fr * 64 + 32768) / 65536
  if ph = 64 then (pos / 65536 + 1, 0) else (pos / 65536, ph)

/-- The chroma position of a luma position, the offset in half pixels (R111). -/
def chromaPos (pos : Int) (half : Bool) : Int := (pos - (if half then 32768 else 0)) / 2

/-- Tap positions from `whole` - `lo` on, `n` of them, each the nearest inside `first` to `first` + `len` - 1 (R109). -/
def tapsAt (whole : Int) (lo n first len : Nat) : List Nat :=
  (List.range n).map fun (t : Nat) => (clamp first (first + len - 1 : Nat) (whole - lo + t)).toNat

/-- The source columns (or lines) of plane 0 that destination pixels `i0` to `i1` - 1 read. -/
def reads (scaled : Bool) (lo n origin src dst i0 i1 : Nat) : List Nat :=
  if !scaled then (List.range (i1 - i0)).map (· + origin + i0)
  else ((List.range (i1 - i0)).flatMap fun i => tapsAt (phaseOf (srcPos origin src dst (i0 + i))).1 lo n origin src).eraseDups

/-- The chroma columns (or lines) that destination pixels `i0` to `i1` - 1 read. -/
def chromaReads (half : Bool) (lo n origin src dst i0 i1 : Nat) : List Nat :=
  ((List.range (i1 - i0)).flatMap fun i =>
    tapsAt (phaseOf (chromaPos (srcPos origin src dst (i0 + i)) half)).1 lo n (origin / 2) (cdiv src 2)).eraseDups

/-- The smallest and largest of a list. -/
def spanOf (l : List Nat) : Nat × Nat := (l.foldl min (l.headD 0), l.foldl max 0)

/-- The block numbers (address / 64) of the bytes of columns `c0` to `c1` of a line at `base`. -/
def lineBlocks (base bits c0 c1 : Nat) : List Nat :=
  let first := (base + c0 * bits / 8) / 64
  let last := (base + ((c1 + 1) * bits - 1) / 8) / 64
  (List.range (last + 1 - first)).map (· + first)

/-- Siting offsets (horizontal, vertical) of SCL_CTRL.siting (R111). -/
def siting (code : Nat) : Bool × Bool := (code == 1, code != 2)

/-- The address of line `r` of a layer's plane 0. -/
def Lay.row (l : Lay) (r : Nat) : Nat := l.a0 + r * l.st0

/-- ILT slot size (R78). -/
def slotBytes (format : Nat) : Nat := if format = 4 then 4096 else 2048

/-- The block numbers of a layer's planes that the destination part `part` needs; `sit` is the siting of the scaler that
serves the placement, `row` the address of a line of plane 0. -/
def Lay.blocks (l : Lay) (part : Rect) (sit : Nat) (row : Nat → Nat) : List Nat :=
  let i0 := ((part.x0 : Int) - l.x).toNat
  let i1 := ((part.x1 : Int) - l.x).toNat
  let j0 := ((part.y0 : Int) - l.y).toNat
  let j1 := ((part.y1 : Int) - l.y).toNat
  let cols := reads l.needsScaler 3 8 l.sx l.sw l.dw i0 i1
  let rows := reads l.needsScaler 2 6 l.sy l.sh l.dh j0 j1
  let (c0, c1) := spanOf cols
  if l.ilt then
    let tx := (List.range (c1 / 64 + 1 - c0 / 64)).map (· + c0 / 64)
    let ty := (rows.map (· / 8)).eraseDups
    (ty.flatMap fun r => tx.flatMap fun c =>
      let body := (l.a0 + r * l.st0 + c * slotBytes l.format) / 64
      (l.a1 + r * l.st1 + c * 8) / 64 :: (List.range (slotBytes l.format / 64)).map (· + body)).eraseDups
  else
    let luma := rows.flatMap fun r =>
      if l.format = 10 then
        let ch := spanOf (chromaReads (siting sit).1 3 8 l.sx l.sw l.dw i0 i1)
        lineBlocks (row r) 16 (min c0 (2 * ch.1)) (max c1 (2 * ch.2 + 1))
      else lineBlocks (row r) (bitsPerPixel l.format) c0 c1
    let chroma := if !planar l.format then [] else
      let ch := spanOf (chromaReads (siting sit).1 3 8 l.sx l.sw l.dw i0 i1)
      let rws := chromaReads (siting sit).2 2 6 l.sy l.sh l.dh j0 j1
      rws.flatMap fun r => lineBlocks (l.a1 + r * l.st1) (2 * bitsPerPixel l.format) ch.1 ch.2
    (luma ++ chroma).eraseDups

/-! Scalers (R76, R112). -/

/-- A field of a scaler's SCL_CTRL in force: a scaler is one unit that serves one placement, and reads the value that its account's
last applied commit gave (R112, R151; DEDUCED, log 115). -/
def State.sclCtrl (s : State) (c : Nat) (f : Fld) : Nat := s.rdA 8 (sclPage c) f

/-- The scaler that serves or would serve a placement of a layer of account `a` on output `n`: bound first, else the unbound one
serving it now, else the lowest free, unbound one. -/
def State.scalerFor (s : State) (a l n : Nat) : Option Nat :=
  let mine := (List.range 32).filter fun c => s.ownerAcct (sclPage c) == some a
  let bound := fun c => s.sclCtrl c SCL_CTRL_bind_en == 1
  let serves := fun c => s.rd (sclPage c) SCL_STATUS_in_use == 1
  let here := fun c => s.rd (sclPage c) SCL_STATUS_layer == l && s.rd (sclPage c) SCL_STATUS_output == n
  match mine.find? fun c => bound c && s.sclCtrl c SCL_CTRL_bind_layer == l && s.sclCtrl c SCL_CTRL_bind_out == n with
  | some c => some c
  | none => match mine.find? fun c => !bound c && serves c && here c with
    | some c => some c
    | none => mine.find? fun c => !bound c && !serves c

/-- The scalers that the placements `ps` (layer, output) of account `a` would take in a scene (R112): a bound one, the one that
serves the placement now, or else, in turn, the lowest unbound one that none of them holds. -/
def State.scalersIn (s : State) (a : Nat) (sc : Scene) (ps : List (Nat × Nat)) : List ((Nat × Nat) × Nat) :=
  let mine := (List.range 32).filter fun c => s.ownerAcct (sclPage c) == some a
  let bound := fun c => sc.f (sclPage c) SCL_CTRL_bind_en == 1
  let names := fun c (e : Nat × Nat) => bound c && sc.f (sclPage c) SCL_CTRL_bind_layer == e.1 && sc.f (sclPage c) SCL_CTRL_bind_out == e.2
  let serves := fun c (e : Nat × Nat) => !bound c && s.rd (sclPage c) SCL_STATUS_in_use == 1 && s.rd (sclPage c) SCL_STATUS_layer == e.1
    && s.rd (sclPage c) SCL_STATUS_output == e.2
  let fixed := fun e => (mine.find? fun c => names c e).or (mine.find? fun c => serves c e)
  let held := ps.filterMap fun e => (fixed e).map fun c => (e, c)
  (ps.filter fun e => (fixed e).isNone).foldl (fun t e =>
    match mine.find? fun c => !bound c && !t.any fun f => f.2 == c with
    | some c => t ++ [(e, c)]
    | none => t) held

/-! Costs (R102, R105, R106). -/

/-- The cells of a grid that a rectangle touches. -/
def Rect.cells (q : Rect) (racing : Bool) : List (Nat × Nat) :=
  let cw := if racing then 256 else 64
  let ch := if racing then 1 else 8
  if q.empty then [] else
  (List.range ((q.y1 - 1) / ch + 1 - q.y0 / ch)).flatMap fun r =>
    (List.range ((q.x1 - 1) / cw + 1 - q.x0 / cw)).map fun c => (c + q.x0 / cw, r + q.y0 / ch)

/-- The cells in which a placed layer is listed, in a grid. -/
def Placed.listed (q : Placed) (ps : List Placed) (racing : Bool) (w h : Nat) : List Rect :=
  ((q.vis.cells racing).map fun c => cellRect racing w h c.1 c.2).filter fun c => (cellList ps c).any (·.lay.num == q.lay.num)

/-- Bytes per frame that the account's DRAM layers fetch under own occlusion (R105). DEDUCED (log 116): the cells are those of the
racing grid where a layer of the account races on the output, since an admission never depends on another account's layers; else
those of the normal grid. -/
def fetchBytes (sit : Nat → Nat) (ps : List Placed) (w h : Nat) : Nat :=
  let racing := racingScene ps
  (ps.filter fun q => q.lay.kind = 0).foldl (fun n q =>
    n + 64 * ((q.listed ps racing w h).flatMap fun c => q.lay.blocks (c.inter q.vis) (sit q.lay.num) q.lay.row).eraseDups.length) 0

/-- Lane-ops per pixel of a listed layer (R106). DEDUCED (log 116): a YUV layer passes a scaler at 1:1 too (R76), so it counts as
scaled, and mode 2 costs it nothing more. -/
def Lay.cost (l : Lay) (prim : Nat) : Nat :=
  3 + (if b2n (l.cs == 2) ≠ prim then 2 else 0) + (if l.tf = 1 ∨ l.tf = 2 then 2 else 0)
    + (if l.mode = 2 ∧ !l.scaled && !yuv l.format then 1 else 0)

/-- Lane-ops per frame of placed layers under their own occlusion (R106). -/
def laneOps (prim : Nat) (ps : List Placed) (w h : Nat) : Nat :=
  let racing := racingScene ps
  ps.foldl (fun n q => (q.listed ps racing w h).foldl (fun n c => n + (c.inter q.vis).area * q.lay.cost prim) n) 0

/-- Bytes of prefetch that DRAM-sourced layers need on a racing output (R102). -/
def prefetchBytes (ps : List Placed) : Nat :=
  (ps.filter fun q => q.lay.kind = 0 ∧ !q.vis.empty).foldl (fun n q =>
    n + 8 * cdiv (q.vis.x1 - q.vis.x0) 256 * (if narrow q.lay.format q.lay.needsScaler then 1024 else 2048)) 0

end Sys2Proof.Machine
end

