-- ==== Sys2Proof/Machine/WritePath.lean ====
section
/-! DEFINITION. The path of a register write: byte merging, the ordered checks of R20, and the one operation that every
command which writes a register goes through. -/

namespace Sys2Proof.Machine

/-- The outcome of the checks of R20. -/
inductive Verdict where
  | foreign | ignored | locked | range | same | full | carried
  deriving DecidableEq, Repr

/-- The access of a field takes written values whole (not by set or clear). -/
def Access.plain : Access → Bool
  | .rw => true | .rwe => true | .rwi => true | .rwl => true
  | .ro => false | .w1c => false | .w1s => false | .wo => false | .rc => false

/-- The mask of the bytes enabled. -/
def beMask (be : BitVec 4) : Word :=
  BitVec.ofNat 32 ((if be.getLsbD 0 then 0xFF else 0) + (if be.getLsbD 1 then 0xFF00 else 0)
    + (if be.getLsbD 2 then 0xFF0000 else 0) + (if be.getLsbD 3 then 0xFF000000 else 0))

/-- The bits of a row's fields of a set of access types. -/
def RegRow.bits (r : RegRow) (f : Access → Bool) : Word :=
  r.fields.foldl (fun m x => if f x.acc then m ||| x.fld.mask else m) 0

/-- The written value after merging (R51): bytes not enabled keep their current bits, and give 0 to W1C, W1S, WO. -/
def RegRow.merge (r : RegRow) (cur value : Word) (be : BitVec 4) : Word :=
  let m := beMask be
  (value &&& m) ||| (cur &&& ~~~m &&& ~~~(r.bits fun a => a == .w1c || a == .w1s || a == .wo))

/-- The value that writing `v` would produce (R11, R20). A WO field holds no value, an RO field keeps its own. -/
def RegRow.produce (r : RegRow) (cur v : Word) : Word :=
  let plain := r.bits Access.plain
  let w1c := r.bits (· == .w1c)
  let w1s := r.bits (· == .w1s)
  let keep := r.bits fun a => a == .ro || a == .rc
  (v &&& plain) ||| (cur &&& keep) ||| (cur &&& w1c &&& ~~~v) ||| ((cur ||| v) &&& w1s)

/-- A value lies within a range (R62). -/
def Rng.ok (r : Rng) (width v : Nat) : Bool :=
  match r with
  | .any => true
  | .nat lo hi => lo ≤ v && v ≤ hi
  | .int lo hi => decide (lo ≤ signed width v) && decide (signed width v ≤ hi)
  | .oneOf vs => vs.contains v

/-- Every field of the written value is in range, and no reserved bit is 1 (R62). -/
def RegRow.inRange (r : RegRow) (v : Word) : Bool :=
  (v &&& ~~~(r.bits fun _ => true)) == 0 &&
    r.fields.all fun x => !(x.acc.plain || x.acc == .wo) || x.rng.ok (x.fld.hi + 1 - x.fld.lo) (x.fld.get v)

/-- The page is locked (R57). -/
def State.locked (s : State) (p : Nat) : Bool := s.rd p PAGE_CTRL_lock == 1

/-- What a register's own rule says of a write that would produce a value: admitted, out of range, or locked. -/
inductive Rule where
  | ok | range | locked
  deriving DecidableEq, Repr

/-- A write that would give register row `r` the value `new` in place of `cur` on a locked page meets the lock (R57): where
every field that software writes is RWL, any write; where other fields stand beside them, a write that changes an RWL
field. -/
def RegRow.lockStops (r : RegRow) (cur new : Word) : Bool :=
  (r.fields.any (·.acc == .rwl)) &&
    ((r.fields.all fun x => x.acc == .rwl || x.acc == .ro || x.acc == .rc) || ((cur ^^^ new) &&& r.bits (· == .rwl)) != 0)

/-- Steps 1 to 5 of R20 on a write of `value` to offset `off` of page `p`; `rule` is the register's own rule on the
merged value, `data` says that it is a data-path register (R272). With the value the write would produce. -/
def State.judge (s : State) (who p off : Nat) (value : Word) (be : BitVec 4) (data : Bool) (rule : Word → Rule) : Verdict × Word :=
  if who < 32 && !s.hostHeard then (.ignored, 0)
  else if !s.owns who p || (kindOf p).1 == .none then (.foreign, 0)
  else match rowAt p off with
    | none => (.range, value)
    | some (r, i) =>
      let cur := s.reg (fkey p r.reg i)
      let v := r.merge cur value be
      let new := r.produce cur v
      if r.fields.all fun x => x.acc == .ro || x.acc == .rc then (.ignored, v)
      else if (s.locked p && r.lockStops cur new) || rule v == .locked then (.locked, v)
      else if !r.inRange v || rule v == .range then (.range, v)
      else if data then (.carried, v)
      else if new == cur && (v &&& r.bits (· == .wo)) == 0 then (.same, v)
      else if !s.room who then (.full, v)
      else (.carried, v)

/-- A refused write recorded (R20, R63): its ledger entry, and, when it was out of range, WRITE_REFUSED of the page and
TALLY7 of the initiator's ACC page 0. When the ledger has no room the refusal is counted in the span instead. -/
def State.refuse (s : State) (who p off kind : Nat) (v : Word) : State :=
  let k := regKey p off
  let s := if s.room who then s.log who [s.recOf who kind 0 k (s.reg k) v] else State.settle (s.refuseFull who)
  let s := match kindOf p with | (.leg, _) => s.legErr ((p - legPage 0 0) / 16) 32 | _ => s
  if kind = 3 then
    let s := if who < 32 then s.count (accPage who 0) 7 else s
    s.fault p 15
  else s

/-- What the verdict of a write that is not admitted leaves (R20). -/
def State.turnAway (s : State) (who p off : Nat) (v : Word) : Verdict → State
  | .foreign => if who < 32 then s.charge who else s
  | .ignored => s
  | .locked => s.refuse who p off 4 v
  | .range => s.refuse who p off 3 v
  | .same => s
  | .full => State.settle (s.refuseFull who)
  | .carried => s

/-- The value a register takes from an admitted write of `v`. -/
def State.produced (s : State) (p off : Nat) (v : Word) : Word :=
  match rowAt p off with
  | some (r, i) => r.produce (s.reg (fkey p r.reg i)) v
  | none => 0

/-- The entry of a register write (R303, R304): kind 0x02 into escrow, 0x01 otherwise. -/
def State.writeRec (s : State) (who p off : Nat) (v : Word) : List Rec :=
  let esc : Bool := match rowAt p off with | some (r, _) => r.fields.any (·.acc == .rwe) | none => false
  [s.recOf who (if esc then 2 else 1) 0 (regKey p off) (s.reg (regKey p off)) (s.produced p off v)]

/-- One register write through the checks of R20, then its entries, then its effect: `recs` gives the entries, `eff`
the effect on the state after them, from the merged value. -/
def State.writeWith (s : State) (who p off : Nat) (value : Word) (be : BitVec 4) (data : Bool) (rule : Word → Rule)
    (recs : Word → List Rec) (eff : Word → State → State) : State :=
  match s.judge who p off value be data rule with
  | (.carried, v) =>
    if data then eff v s
    else if !s.room who (recs v).length then s.turnAway who p off v .full
    else eff v (s.log who (recs v))
  | (vd, v) => s.turnAway who p off v vd

/-- The plain effect: the register takes the produced value; an escrowed page's dirty bit follows. -/
def State.store (s : State) (p off : Nat) (v : Word) : State :=
  let t := s.setReg (regKey p off) (s.produced p off v)
  match rowAt p off with
  | some (r, _) => if r.fields.any (·.acc == .rwe) then t.syncDirty p else t
  | none => t

/-- A write of one field of a register by name, the other bits as they are (W1C, W1S and WO bits 0). -/
def State.fieldWrite (s : State) (p : Nat) (f : Fld) (i v : Nat) : Word :=
  match rowAt p (f.off + i * f.stride) with
  | some (r, j) => f.put (s.reg (fkey p r.reg j) &&& ~~~(r.bits fun a => a == .w1c || a == .w1s || a == .wo)) v
  | none => f.put 0 v

end Sys2Proof.Machine
end

