-- ==== Sys2Proof/Machine/Fabric.lean ====
section
/-! DEFINITION. The wake sequencer (R45 to R49), the adaptive voltage controller (R36 to R39), the canaries (R35, R40,
R41), and their commands. -/

namespace Sys2Proof.Machine

/-! The sequencer. -/

/-- Mint `m` is retired, for either cause. -/
def State.mintRetired (s : State) (m : Nat) : Bool := (s.rd (pressPage (m / 8)) MNT_P_MINT_STATE_retired).testBit (m % 8)

/-- The unretired mints of a press. -/
def State.liveMints (s : State) (p : Nat) : Nat := 8 - popcount (s.rd (pressPage p) MNT_P_MINT_STATE_retired) 8

/-- The steps of a unit's wake (R45): a press's unretired mints, the vault's 16 bank groups, else one. -/
def State.wakeSteps (s : State) (p : Nat) : List Nat :=
  match kindOf p with
  | (.press, i) => (List.range 8).filter fun j => !s.mintRetired (8 * i + j)
  | (.vlt, _) => List.range 16
  | _ => [0]

/-- GLB_SEQ_STATUS.step_unit of a page, which also ranks units of one instant (R45). A single mint that returns to
service (R147) is named 8192 + mint. -/
def stepUnit (p : Nat) : Nat :=
  if 8192 ≤ p then 5 else
  match (kindOf p).1 with
  | .cus _ => 1 | .vlt => 2 | .vltBg => 2 | .mem _ => 3 | .memCh => 3
  | .out k => if k = 6 then 4 else 7 | .press => 5 | .cap => 6 | .aud _ => 6 | _ => 7

/-- Current of a step in units of 100 mA, and minimum spacing in ns (R45). -/
def stepAmps (p : Nat) : Nat :=
  match stepUnit p with | 1 => 4 | 2 => 12 | 3 => 14 | 4 => 10 | _ => 5
def stepSpacing (p : Nat) : Nat := match stepUnit p with | 2 => 20000 | 4 => 40000 | _ => 0

def State.windowNs (s : State) : Nat := s.rd (glbPage 2) GLB_SEQ_BUDGET_window_us * 1000
def State.stepLimit (s : State) : Nat := s.rd (glbPage 2) GLB_SEQ_BUDGET_step_limit

/-- How long a step stays in progress (R46). -/
def State.stepNs (s : State) (p : Nat) : Nat :=
  if s.stepLimit < stepAmps p then s.windowNs else cdiv (s.windowNs * stepAmps p) (max 1 s.stepLimit)

/-- The order of service (R47): class, deadline, arrival, unit, instance. -/
def Wake.before (v w : Wake) : Bool :=
  let key := fun (x : Wake) => [x.cls, if x.cls = 0 then x.deadline else 0, x.at_, stepUnit x.page, x.page]
  decide (key v < key w)

/-- The request served next. -/
def nextWake : List Wake → Option Wake
  | [] => none
  | w :: t => match nextWake t with | none => some w | some v => some (if v.before w then v else w)

/-- GLB_SEQ_STATUS brought up to date. -/
def State.syncSeq (s : State) : State :=
  let q := s.seq.queue
  let s := s.wr (glbPage 2) GLB_SEQ_STATUS_queued (min 255 q.length)
  let s := s.wr (glbPage 2) GLB_SEQ_STATUS_step_unit (match s.seq.step with | some (w, _) => stepUnit w.page | none => 0)
  s.wr (glbPage 2) GLB_SEQ_STATUS_deadline_wait (b2n (q.any (·.cls == 0)))

/-- A unit is waiting for its wake or in it. -/
def State.wakes (s : State) (p : Nat) : Bool :=
  s.seq.queue.any (·.page == p) || (match s.seq.step with | some (w, _) => w.page == p | none => false)

/-- The state a unit's PAGE_CTRL asks for (R54); an account's night-safe page is OFF while the account is DESTROYED,
CREATED or in RESET (R281). -/
def State.powerGoal (s : State) (p : Nat) : Nat :=
  let off := match kindOf p with | (.acc 7, a) => [0, 1, 5].contains (s.astate a) | _ => false
  if s.rd p PAGE_CTRL_enable = 0 || off then 0 else if s.rd p PAGE_CTRL_sleep_req = 1 then 1 else 3

/-- Steps that still count in the window (R46); the books keep those of the longest window that GLB_SEQ_BUDGET admits. -/
def longestWindow : Nat := 50000
def State.issuedNow (s : State) : List (Nat × Nat) := s.seq.issued.filter fun e => s.now < e.1 + s.windowNs

/-- Whether the next step may issue now (R46). -/
def State.mayIssue (s : State) (w : Wake) : Bool :=
  let spent := s.issuedNow.foldl (fun n e => n + e.2) 0
  s.seq.step.isNone
    && (match s.seq.lastStep.find? fun e => e.1 == stepUnit w.page with
        | some (_, t) => decide (t + stepSpacing w.page ≤ s.now) | none => true)
    && (if s.stepLimit < stepAmps w.page then s.issuedNow.isEmpty else decide (spent + stepAmps w.page ≤ s.stepLimit))

/-- An output press with no unretired mint holds NO_MINT (R147). -/
def State.syncNoMint (s : State) (p : Nat) : State :=
  s.setLevel (pressPage p) 3 (s.rd (pressPage p) MNT_P_ROLE_role == 1 && s.liveMints p == 0)

/-- A mint returns to service, cleared (R128, R147). -/
def State.mintBack (s : State) (m : Nat) : State :=
  let p := m / 8
  ((s.setMint m MintS.zero).wr (pressPage p) ⟨0x084, 4, 8 + m % 8, 8 + m % 8⟩ 0).syncNoMint p

/-- The steps that a mint's or unit's completed wake leaves: its state as PAGE_CTRL asks, the worst press wake kept. A
press that serves an output, whose power the device sets, goes to ON (R49, R54). A mint that the manager has retired again
while its return step was in progress stays OFF (R45, R147). -/
def State.wakeDone (s : State) (w : Wake) : State :=
  if 8192 ≤ w.page then
    let m := w.page - 8192
    if s.mintRetired m && s.rd (branchPage (m / 32)) ⟨0x080, 4, m % 32, m % 32⟩ == 0 then s.mintBack m else s
  else
  let press := (kindOf w.page).1 == .press
  let s := if press then
      s.wr (glbPage 2) GLB_SEQ_WAKE_WORST (max (s.rd (glbPage 2) GLB_SEQ_WAKE_WORST) (cdiv (s.now - w.at_) 1000))
    else s
  let deviceSet := press && s.rd w.page MNT_P_ROLE_role == 1
  s.setPower w.page (if deviceSet then 3 else s.powerGoal w.page)

/-! Adaptive voltage. -/

/-- Lane rate in units of 10 M lane-ops/s at a VCORE of 550, 750 and 950 mV, at -40, 85 and 125 °C (R33). -/
def rateAt (col : Nat) (mv : Nat) : Nat :=
  let t := match col with | 0 => (30, 93, 145) | 1 => (42, 90, 130) | _ => (47, 87, 120)
  let mv := max 550 mv
  if mv ≤ 750 then t.1 * 1000 + (t.2.1 - t.1) * 1000 * (mv - 550) / 200
  else t.2.1 * 1000 + (t.2.2 - t.2.1) * 1000 * (mv - 750) / 200

/-- The lane rate in units of 10 k lane-ops/s at a VCORE and a junction temperature in quarter degrees (R33). -/
def laneRate (mv : Nat) (quarter : Int) : Nat :=
  let t := clamp (-160) 500 quarter
  let lerp := fun (a b : Nat) (lo hi : Int) => ((a : Int) + ((b : Int) - a) * (t - lo) / (hi - lo)).toNat
  if t ≤ 340 then lerp (rateAt 0 mv) (rateAt 1 mv) (-160) 340 else lerp (rateAt 1 mv) (rateAt 2 mv) 340 500

/-- The voltage of a code, in mV (R36: 0.50 V + code × 5 mV). -/
def codeMv (c : Nat) : Nat := 500 + 5 * c

/-- The presses that are ON, WAKING. -/
def State.pressOn (s : State) (p : Nat) : Bool := s.power (pressPage p) == 3
def State.pressUp (s : State) (p : Nat) : Bool := s.power (pressPage p) == 3 || s.power (pressPage p) == 2

/-- Lane-ops per second of an output's scene (R36, R106). -/
def State.outDemand (s : State) (n : Nat) : Nat :=
  let t := s.inForce n
  let ps := placedOn (s.scene n) s.layOwner (slotsIn (s.scene n) n) n t.hact t.vact
  let ops := t.hact * t.vact + laneOps (s.rdA n (outPage n 2) OUT_CMP_BLEND_prim) ps t.hact t.vact
  ops * t.pclk * 1000 / max 1 (t.htotal * t.vtotal)

/-- The presses of a role that serve an output or an account. -/
def State.pressesOf (s : State) (role who : Nat) : List Nat :=
  (List.range 128).filter fun p => s.rd (pressPage p) MNT_P_ROLE_role == role &&
    (if role = 1 then s.rd (pressPage p) MNT_P_ROLE_output else s.rd (pressPage p) MNT_P_ROLE_account) == who

/-- The demand of an exchange, in lane-ops per second: each output's and account's demand spread over those of its presses
that carry load. -/
def State.exchangeDemand (s : State) (load : Nat → Bool) (x : Nat) : Nat :=
  let share := fun role who (d : Nat) =>
    let on := (s.pressesOf role who).filter load
    if on.isEmpty then 0 else d * (on.countP fun p => p / 32 == x) / on.length
  (List.range 8).foldl (fun n o => n + share 1 o (s.outDemand o)) 0
    + (List.range 32).foldl (fun n a => n + share 2 a ((s.acct a).share * 10000000)) 0

/-- The sensor readings of an exchange, in quarter degrees; Config places sensors in exchanges (the spec gives no map). DESIGN
CHOICE (log entry 17): R36 does not say whether a sensor marked invalid counts; every sensor's register counts here. -/
def State.exchangeTemps (s : State) (x : Nat) : List Int :=
  ((List.range 32).filter fun i => Config.sensorExchange i % 4 == x).map fun i => signed 12 (s.rd (glbPage 3) GLB_TEMP_temp i)

def minInt (l : List Int) : Int := match l with | [] => 0 | a :: t => t.foldl min a
def maxInt (l : List Int) : Int := match l with | [] => 0 | a :: t => t.foldl max a

/-- The lowest code from `c` on at which an exchange meets a demand (R36 steps 2 and 3). -/
def findCode (meets : Nat → Bool) : Nat → Nat → Nat
  | 0, c => c
  | n + 1, c => if meets c then c else findCode meets n (c + 1)

/-- The code that an exchange needs; one with no demand needs no more than retention (R34), code 0 before the clamp. -/
def State.exchangeCode (s : State) (load : Nat → Bool) (x : Nat) : Nat :=
  let need := s.exchangeDemand load x * 5 / 4
  let lanes := 4 * ((List.range 32).foldl (fun n p => if load (32 * x + p) then n + s.liveMints (32 * x + p) else n) 0)
  if need = 0 then 0
  else findCode (fun c => decide (need ≤ lanes * 10000 * laneRate (codeMv c)
    (if codeMv c < 650 then minInt (s.exchangeTemps x) else maxInt (s.exchangeTemps x)))) 80 10

/-- The lowest request while any press is WAKING or ON: 0.55 V (R34). -/
def State.avsFloor (s : State) : Nat := if (List.range 128).any s.pressUp then 10 else 0

/-- The request that R36 computes for the presses that carry load. -/
def State.avsWanted (s : State) (load : Nat → Bool) : Nat :=
  let hi := s.rd (glbPage 2) GLB_AVS_LIMITS_max_code
  let lo := s.rd (glbPage 2) GLB_AVS_LIMITS_min_code
  let raw := ((List.range 4).map (s.exchangeCode load)).foldl max 0 + 2 * s.avs.breachMs
  max s.avsFloor (if s.rd (glbPage 2) GLB_AVS_CTRL_enable = 0 then hi else max lo (min hi raw))

/-- The VSRAM request that goes with a VCORE request (R39). -/
def vsramFor (code : Nat) : Nat := max 40 (min 80 (code + 50))

/-- A VCORE request sent, with its VSRAM request (R38, R39): a VSRAM rise goes before its VCORE rise, a VSRAM fall after. -/
def State.avsSend (s : State) (code : Nat) : State :=
  let core := (0, code)
  let sram := (1, vsramFor code)
  let order := if code < s.rd (glbPage 2) GLB_AVS_STATUS_request_code then [core, sram] else [sram, core]
  let s := (s.wr (glbPage 2) GLB_AVS_STATUS_request_code code).wr (glbPage 2) GLB_AVS_STATUS_vsram_code (vsramFor code)
  { s with avs := { s.avs with sent := order } }

/-- A lower value wanted now joins those that have held: no value since an entry's instant was above the entry's. -/
def noteLower (now w : Nat) (l : List (Nat × Nat)) : List (Nat × Nat) :=
  let under := l.filter fun e => e.2 ≤ w
  (l.filter fun e => w < e.2) ++ [((under.map (·.1)).foldl min now, w)]

/-- The controller takes a request computed for the presses that carry load, from step 3 of the boot on (R39, R395): a rise is
sent at once, a lower one is noted with its instant (R37). -/
def State.avsFollow (s : State) (load : Nat → Bool) : State :=
  if s.rd (cusPage 0) CUS_BOOT_STATUS_stage < 3 then s
  else
    let w := s.avsWanted load
    let cur := s.rd (glbPage 2) GLB_AVS_STATUS_request_code
    let first := s.rd (glbPage 2) GLB_AVS_STATUS_vsram_code == 0
    let s := if cur < w ∨ first then s.avsSend w else s
    { s with avs := { s.avs with wanted := w, lower := if cur ≤ w ∨ first then [] else noteLower s.now w s.avs.lower } }

/-! Wake requests. -/

/-- The request of a deadline for units that wait in a lower class, or wake there: they move into the deadline class (R47). -/
def Wake.promote (pages : List Nat) (deadline : Nat) (w : Wake) : Wake :=
  if !pages.contains w.page then w
  else if w.cls = 0 then { w with deadline := min w.deadline deadline } else { w with cls := 0, deadline := deadline }

/-- The lower-class step in progress withdrawn (R47): its mint returns to OFF, its current counts no longer (R49), and its step is
repeated later. -/
def State.withdraw (s : State) : State :=
  match s.seq.step with
  | some (w, _) =>
    if w.cls = 0 then s
    else { s with seq := { s.seq with queue := s.seq.queue ++ [w], step := none, issued := s.seq.issued.dropLast } }
  | none => s

/-- A deadline request for pages that wait or wake already, and what it withdraws. -/
def State.promoteWakes (s : State) (pages : List Nat) (deadline : Nat) : State :=
  let s := { s with seq := { s.seq with queue := s.seq.queue.map (Wake.promote pages deadline),
                                        step := s.seq.step.map fun (e : Wake × Nat) => (e.1.promote pages deadline, e.2) } }
  (if s.seq.queue.any (·.cls == 0) then s.withdraw else s).syncSeq

/-- A wake request (R47): into the queue in its class; a deadline request withdraws a lower-class step in progress, and moves a
unit that waits in a lower class. A unit with no step to take is ON at once, with the request for its load (R37). -/
def State.wakeAsk (s : State) (p cls deadline : Nat) : State :=
  if s.wakes p then (if cls = 0 then s.promoteWakes [p] deadline else s)
  else if s.power p ≠ 0 ∧ s.power p ≠ 1 then s
  else if (s.wakeSteps p).isEmpty then (s.setPower p 3).avsFollow (s.setPower p 3).pressOn
  else
    let s := { s with seq := { s.seq with queue := s.seq.queue ++ [(⟨p, cls, deadline, s.now, s.wakeSteps p⟩ : Wake)] } }
    (if cls = 0 then s.withdraw else s).syncSeq

/-- Power after a change of PAGE_CTRL (R48, R54): a wake not begun is cancelled, one begun completes first; a unit in
FAULT leaves it only with enable cleared. -/
def State.powerFollow (s : State) (p : Nat) : State :=
  let goal := s.powerGoal p
  if goal = 3 then
    let cls := match (kindOf p).1 with | .cap => 1 | .aud _ => 1 | .acc 7 => 1 | _ => 2
    s.wakeAsk p cls 0
  else if s.power p = 2 then s
  else if s.power p = 4 ∧ goal ≠ 0 then s
  else ({ s with seq := { s.seq with queue := s.seq.queue.filter fun w => w.page != p } }.setPower p goal).syncSeq

/-- The step counts in the sequencer's books: issued now, with its state WAKING; a press's first step sends the voltage
request for the new load (R37). -/
def State.stepIssue (s : State) (w : Wake) : State :=
  let first := w.page < 4096 && s.power w.page != 2
  let s := { s with seq := { s.seq with
    queue := s.seq.queue.filter fun v => v.page != w.page, step := some (w, s.now + s.stepNs w.page),
    issued := (s.seq.issued.filter fun (e : Nat × Nat) => s.now < e.1 + longestWindow) ++ [(s.now, stepAmps w.page)],
    lastStep := (s.seq.lastStep.filter fun (e : Nat × Nat) => e.1 != stepUnit w.page) ++ [(stepUnit w.page, s.now)] } }
  let s := (if w.page < 4096 then s.setPower w.page 2 else s).syncSeq
  if first && (kindOf w.page).1 == .press then s.avsFollow s.pressUp else s

/-- WAKE_REQUEST (R47). -/
def execWakeRequest (p : Page) (cls : Fin 3) (deadline : Nat) (s : State) : Host.Outcome State Fault Refusal :=
  .next (s.wakeAsk p.val cls.val deadline)

/-- SEQ_STEP_ISSUE (R46): nothing while no request waits, or while the step may not issue. -/
def execSeqStepIssue (s : State) : Host.Outcome State Fault Refusal :=
  .next (match nextWake s.seq.queue with
    | some w => if s.mayIssue w then s.stepIssue w else s
    | none => s)

/-- SEQ_STEP_COMPLETE (R46): the step in progress ends once its time has passed; the last step of a wake ends it. -/
def execSeqStepComplete (s : State) : Host.Outcome State Fault Refusal :=
  .next (match s.seq.step with
    | none => s
    | some (w, t) =>
      if s.now < t then s
      else
        let s := { s with seq := { s.seq with step := none } }
        let s := match (kindOf w.page).1, w.left with
          | .vlt, g :: _ => (s.wr (vltPage (1 + g)) VLT_BG_STATUS_on 0xFFFF).setPower (vltPage (1 + g)) 3
          | _, _ => s
        if w.left.length ≤ 1 then (s.wakeDone w).syncSeq
        else { s with seq := { s.seq with queue := s.seq.queue ++ [{ w with left := w.left.drop 1 }] } }.syncSeq)

/-- CLR_WORST (R45's register map): a W1S write that clears GLB_SEQ_WAKE_WORST and reads 0. -/
def State.clrWorstWrite (s : State) (who : Nat) (value : Word) (be : BitVec 4) : State :=
  s.writeWith who (glbPage 2) GLB_SEQ_STATUS.off value be false (fun _ => .ok)
    (fun v => [s.recOf who 1 0 (regKey (glbPage 2) GLB_SEQ_STATUS.off) (s.reg (fkey (glbPage 2) GLB_SEQ_STATUS 0))
      (s.produced (glbPage 2) GLB_SEQ_STATUS.off v)])
    (fun v t => if v.getLsbD 31 then t.wr (glbPage 2) GLB_SEQ_WAKE_WORST 0 else t)

def execClrWorst (who : Actor) (s : State) : Host.Outcome State Fault Refusal :=
  .next (s.clrWorstWrite who.val 0x80000000 15)

/-- Some canary's margin stands below its guard. -/
def State.anyBreach (s : State) : Bool :=
  (List.range 64).any fun c => NatTbl.at_ s.avs.margins c != 0 &&
    63 - NatTbl.at_ s.avs.margins c < s.rd (xchPage (c / 16)) MNT_X_CANARY_CTRL_guard

/-- AVS_RECOMPUTE (R36, R395: from step 3 of the boot; R405): the current estimate; first the millisecond is counted if any
margin was below its guard during it, then the request follows the demand. -/
def execAvsRecompute (s : State) : Host.Outcome State Fault Refusal :=
  .next (
    if s.rd (cusPage 0) CUS_BOOT_STATUS_stage < 3 then s
    else
      let s := { s with avs := { s.avs with breachMs := s.avs.breachMs + b2n (s.avs.breached || s.anyBreach), breached := false } }
      let s := s.next.wr (glbPage 3) GLB_IEST_current (Config.currentEstimate s.fresh).toNat
      s.avsFollow s.pressOn)

/-- The value to which the request may fall: the lowest that has held for fall_ms (R37), and never below 0.55 V while a press is
WAKING or ON (R34). -/
def State.fallTarget (s : State) : Option Nat :=
  let held := s.avs.lower.filter fun (e : Nat × Nat) => e.1 + s.rd (glbPage 2) GLB_AVS_CTRL_fall_ms * 1000000 ≤ s.now
  match held.map (·.2) with
  | [] => none
  | v :: t => some (max s.avsFloor (t.foldl min v))

/-- AVS_FALL_STEP (R37): at most 10 mV per 1 ms. -/
def execAvsFallStep (s : State) : Host.Outcome State Fault Refusal :=
  .next (match s.fallTarget with
    | none => s
    | some v =>
      let cur := s.rd (glbPage 2) GLB_AVS_STATUS_request_code
      if s.now < s.avs.fellAt + 1000000 ∨ cur ≤ v then s
      else
        let s := s.avsSend (max v (cur - 2))
        { s with avs := { s.avs with fellAt := s.now } })

/-- Whether a read-back lies more than 25 mV below its request (R38). -/
def tooLow (readback request : Nat) : Bool := readback + 5 < request

/-- AVS_READBACK (R38): the read-back is held; without a valid response AVSBUS_ERROR; the shortfall ends when both rails
are back within 25 mV. -/
def execAvsReadback (valid : Bool) (vcore vsram : Byte) (s : State) : Host.Outcome State Fault Refusal :=
  .next (
    if !valid then s.fault (glbPage 2) 1
    else
      let s := s.wr (glbPage 2) GLB_AVS_STATUS_readback_code vcore.toNat
      let lowC := tooLow vcore.toNat (s.rd (glbPage 2) GLB_AVS_STATUS_request_code)
      let lowS := tooLow vsram.toNat (s.rd (glbPage 2) GLB_AVS_STATUS_vsram_code)
      let since := fun (low : Bool) (o : Option Nat) => if low then some (o.getD s.now) else none
      let s := { s with avs := { s.avs with shortAt := since lowC s.avs.shortAt,
                                            vsramShortAt := since lowS s.avs.vsramShortAt } }
      if !lowC && !lowS && s.rd (glbPage 2) GLB_AVS_STATUS_shortfall == 1 then
        (s.hwField (glbPage 2) GLB_AVS_STATUS_shortfall 0).setLevel (glbPage 2) 0 false
      else s)

/-- AVS_SHORTFALL (R38, R39): a rail's read-back has been short for 1 ms. -/
def execAvsShortfall (s : State) : Host.Outcome State Fault Refusal :=
  let held := fun (o : Option Nat) => match o with | some t => decide (t + 1000000 ≤ s.now) | none => false
  .next (
    if (held s.avs.shortAt || held s.avs.vsramShortAt) && s.rd (glbPage 2) GLB_AVS_STATUS_shortfall == 0 then
      (s.hwField (glbPage 2) GLB_AVS_STATUS_shortfall 1).setLevel (glbPage 2) 0 true
    else s)

/-! Canaries (R35, R40, R41). Canary c of branch b is number 2b + c; an untold margin is 63. -/

/-- The margin of a canary: `margins` holds 63 - margin. -/
def State.margin (s : State) (c : Nat) : Nat := 63 - NatTbl.at_ s.avs.margins c
def State.setMargin (s : State) (c m : Nat) : State :=
  { s with avs := { s.avs with margins := NatTbl.put s.avs.margins c (63 - min 63 m) } }

/-- MNT_X_CANARY_MARGIN and CANARY_FLOOR of an exchange from its canaries; of several with the worst margin the lowest index. -/
def State.syncCanary (s : State) (x : Nat) : State :=
  let ms := (List.range 16).map fun i => s.margin (16 * x + i)
  let worst := ms.foldl min 63
  let s := (s.wr (xchPage x) MNT_X_CANARY_MARGIN_margin worst).wr (xchPage x) MNT_X_CANARY_MARGIN_canary (ms.idxOf worst)
  s.setLevel (xchPage x) 2 (worst == 0)

/-- A margin of branch `b` stands below its guard. -/
def State.lowBranch (s : State) (b : Nat) : Bool :=
  let guard := s.rd (xchPage (b / 8)) MNT_X_CANARY_CTRL_guard
  decide (s.margin (2 * b) < guard) || decide (s.margin (2 * b + 1) < guard)

/-- New readings of branch `b` are in, `before` the state with the old ones: while a margin was below its guard up to now, the
recovery hold counts from now (R40). -/
def State.noteReading (before s : State) (b : Nat) : State :=
  if before.lowBranch b then { s with avs := { s.avs with goodAt := NatTbl.put s.avs.goodAt b s.now, breached := true } } else s

/-- A reading below guard on a branch (R40): the long setting, and the instant from which the recovery hold counts. -/
def State.noteBreach (s : State) (b : Nat) : State :=
  { s with avs := { s.avs with goodAt := NatTbl.put s.avs.goodAt b s.now, breached := true } }.hwField
    (xchPage (b / 8)) ⟨0x088, 4, b % 8, b % 8⟩ 1

/-- CANARY_GUARD_BREACH (R40): a margin below guard puts the branch on the long setting. -/
def execCanaryGuardBreach (b : Fin 32) (canary : Fin 2) (margin : BitVec 6) (s : State) : Host.Outcome State Fault Refusal :=
  let x := b.val / 8
  let s := s.noteReading ((s.setMargin (2 * b.val + canary.val) margin.toNat).syncCanary x) b.val
  .next (if margin.toNat < s.rd (xchPage x) MNT_X_CANARY_CTRL_guard then s.noteBreach b.val else s)

/-- CANARY_RECOVER (R40): both canaries of the branch are read; once every margin has stayed at or above the guard for
recover_ms, the branch returns to the normal setting and the breach time starts again (R36). -/
def execCanaryRecover (b : Fin 32) (m0 m1 : BitVec 6) (s : State) : Host.Outcome State Fault Refusal :=
  let x := b.val / 8
  let s := s.noteReading (((s.setMargin (2 * b.val) m0.toNat).setMargin (2 * b.val + 1) m1.toNat).syncCanary x) b.val
  let guard := s.rd (xchPage x) MNT_X_CANARY_CTRL_guard
  .next (
    if m0.toNat < guard ∨ m1.toNat < guard then s.noteBreach b.val
    else if s.now < NatTbl.at_ s.avs.goodAt b.val + s.rd (xchPage x) MNT_X_CANARY_CTRL_recover_ms * 1000000 then s
    else if s.rd (xchPage x) ⟨0x088, 4, b.val % 8, b.val % 8⟩ = 0 then s
    else ({ s with avs := { s.avs with breachMs := 0, breached := false } } : State).hwField (xchPage x) ⟨0x088, 4, b.val % 8, b.val % 8⟩ 0)

end Sys2Proof.Machine
end

