-- ==== Sys2Proof/Machine/Pixels.lean ====
section
/-! DEFINITION. What a stream delivers for one position of its cell (R74, R78 to R80, R101, R108 to R111, R133):
unpacking, the lossless tile format, palettes, and the scalers. -/

namespace Sys2Proof.Machine

/-- A pixel of four components. -/
structure Rgba where
  r : Nat
  g : Nat
  b : Nat
  a : Nat
  deriving DecidableEq, Repr

def Rgba.list (p : Rgba) : List Nat := [p.r, p.g, p.b, p.a]
def Rgba.ofList (l : List Nat) : Rgba := ⟨l.getD 0 0, l.getD 1 0, l.getD 2 0, l.getD 3 0⟩
def Rgba.zero : Rgba := ⟨0, 0, 0, 0⟩

/-- The block number of a byte of a layer's memory. -/
def blockOf (kind a : Nat) : Nat := a / 64 + (if kind = 0 then 0 else 2 ^ 40)

/-- A byte that a stream has fetched, none while its block is not present. -/
def Stream.byte (st : Stream) (a : Nat) : Option Byte :=
  match st.blocks.find? fun e => e.1 == blockOf st.src.kind a with
  | some e => some (e.2.getD (a % 64) 0)
  | none => none

/-- A little-endian value of `n` bytes that a stream has fetched. -/
def Stream.val (st : Stream) (a : Nat) : Nat → Option Nat
  | 0 => some 0
  | n + 1 => match st.byte a, st.val (a + 1) n with | some b, some v => some (b.toNat + 256 * v) | _, _ => none

/-- A value of `w` bits widened to 16 by bit replication (R108). -/
def widen (w v : Nat) : Nat :=
  if w = 8 then v * 257 else if w = 10 then v * 64 + v / 16 else if w = 2 then v * 0x5555 else if w = 5 then v * 2048 + v * 64 + v * 2 + v / 16
  else if w = 6 then v * 1024 + v * 16 + v / 4 else v

/-- A value of 5 or 6 bits widened to 8. -/
def widen8 (w v : Nat) : Nat := if w = 5 then v * 8 + v / 4 else if w = 6 then v * 4 + v / 16 else v

/-- A pixel word of a packed format, unpacked (R108): 8-bit components, or 16-bit ones for ARGB2101010 and RGBA16F. -/
def unpack (format v : Nat) : Rgba :=
  if format = 0 then ⟨v / 65536 % 256, v / 256 % 256, v % 256, v / 2 ^ 24 % 256⟩
  else if format = 1 then ⟨v / 65536 % 256, v / 256 % 256, v % 256, 255⟩
  else if format = 2 then ⟨widen 10 (v / 2 ^ 20 % 1024), widen 10 (v / 1024 % 1024), widen 10 (v % 1024), widen 2 (v / 2 ^ 30 % 4)⟩
  else if format = 3 then ⟨widen8 5 (v / 2048 % 32), widen8 6 (v / 32 % 64), widen8 5 (v % 32), 255⟩
  else ⟨v % 65536, v / 65536 % 65536, v / 2 ^ 32 % 65536, v / 2 ^ 48 % 65536⟩

/-! The lossless tile format (R78 to R80). -/

/-- The widths of a format's components in stream order b, g, r, a. -/
def iltBits (format : Nat) : List Nat :=
  if format = 0 then [8, 8, 8, 8] else if format = 1 then [8, 8, 8] else if format = 2 then [10, 10, 10, 2] else [16, 16, 16, 16]

/-- One line of one component: the values, and the bit position after it; none where the stream ends. -/
def iltRun (bits w stream limit pos pred : Nat) : Nat → List Nat → Option (List Nat × Nat)
  | 0, acc => some (acc.reverse, pos)
  | n + 1, acc =>
    if limit < pos + w then none
    else
      let z := stream / 2 ^ pos % 2 ^ w
      let r : Int := if z % 2 = 0 then (z / 2 : Nat) else -(((z + 1) / 2 : Nat) : Int)
      let v := unsigned bits ((pred : Int) + r)
      iltRun bits w stream limit (pos + w) v n (v :: acc)

/-- The components of one line in stream order, each with the first value of the line above. -/
def iltLine (stream limit : Nat) : List (Nat × Nat) → Nat → List (List Nat) → Option (List (List Nat) × Nat)
  | [], pos, acc => some (acc.reverse, pos)
  | (bits, above) :: t, pos, acc =>
    let w := stream / 2 ^ pos % 32
    if limit < pos + 5 ∨ bits < w then none
    else match iltRun bits w stream limit (pos + 5) above 64 [] with
      | none => none
      | some (vs, pos) => iltLine stream limit t pos (vs :: acc)

/-- The lines of a compressed body: for each line its components. -/
def iltLines (stream limit : Nat) (bits : List Nat) : Nat → List Nat → Nat → List (List (List Nat)) → Option (List (List (List Nat)))
  | 0, _, _, acc => some acc.reverse
  | n + 1, above, pos, acc =>
    match iltLine stream limit (bits.zip above) pos [] with
    | none => none
    | some (cs, pos) => iltLines stream limit bits n (cs.map (·.headD 0)) pos (cs :: acc)

/-- What a tile header and body say of the pixel at (x, y) of the tile: a word of the format, or a decompression error. -/
def iltPixel (format header : Nat) (body : List Byte) (x y : Nat) : Option Nat :=
  let mode := header % 4
  let px := if format = 4 then 8 else 4
  if mode = 3 ∨ header / 256 % 2 ^ 24 ≠ 0 ∨ (mode = 2 ∧ format = 4) then none
  else if mode = 2 then some (header / 2 ^ 32)
  else if mode = 0 then some (ofLeBytes ((body.drop ((y * 64 + x) * px)).take px))
  else
    let blocks := header / 4 % 64 + 1
    if slotBytes format / 64 < blocks then none
    else match iltLines (ofLeBytes (body.take (64 * blocks))) (512 * blocks) (iltBits format) 8 (List.replicate 4 0) 0 [] with
      | none => none
      | some ls =>
        let c := fun i => (((ls.getD y []).getD i []).getD x 0)
        some (match iltBits format with
          | [_, _, _] => c 0 + c 1 * 256 + c 2 * 65536
          | [10, _, _, _] => c 0 + c 1 * 1024 + c 2 * 2 ^ 20 + c 3 * 2 ^ 30
          | [16, _, _, _] => c 2 + c 1 * 2 ^ 16 + c 0 * 2 ^ 32 + c 3 * 2 ^ 48
          | _ => c 0 + c 1 * 256 + c 2 * 65536 + c 3 * 2 ^ 24)

/-- The blocks of a tile's body that its mode needs. -/
def iltNeed (format header : Nat) : Nat :=
  if header % 4 = 0 then slotBytes format / 64 else if header % 4 = 1 then min (slotBytes format / 64) (header / 4 % 64 + 1) else 0

/-- A tile of a stream: its header, and its body once the blocks that its mode needs are present. -/
def Stream.tile (st : Stream) (tx ty : Nat) : Option (Nat × List Byte) :=
  match st.val (st.src.a1 + ty * st.src.st1 + tx * 8) 8 with
  | none => none
  | some h =>
    let base := st.src.a0 + ty * st.src.st0 + tx * slotBytes st.src.format
    let blocks := (List.range (iltNeed st.src.format h)).map fun i => st.blocks.find? fun e => e.1 == blockOf st.src.kind (base + 64 * i)
    if blocks.all (·.isSome) then some (h, blocks.flatMap fun o => match o with | some e => e.2 | none => []) else none

/-- A tile that has arrived and does not decode (R80). -/
def Stream.tileBad (st : Stream) (tx ty : Nat) : Bool :=
  match st.tile tx ty with | some (h, body) => (iltPixel st.src.format h body 0 0).isNone | none => false

/-- What reading a source pixel gives: not yet present, failed, or its unpacked components. -/
inductive Got (α : Type) where
  | wait
  | bad
  | val (v : α)
  deriving DecidableEq, Repr

def Got.map {α β : Type} (f : α → β) : Got α → Got β
  | .wait => .wait | .bad => .bad | .val v => .val (f v)

/-- All of a list, or the first that is absent or failed. -/
def Got.all {α : Type} : List (Got α) → Got (List α)
  | [] => .val []
  | g :: t => match g, Got.all t with
    | .val v, .val vs => .val (v :: vs)
    | .bad, _ => .bad
    | _, .bad => .bad
    | _, _ => .wait

def Stream.failed (st : Stream) (a : Nat) : Bool := st.bad.contains (blockOf st.src.kind a)

/-- A value of `n` bytes at `a`. -/
def Stream.got (st : Stream) (a n : Nat) : Got Nat :=
  if st.failed a then .bad else match st.val a n with | some v => .val v | none => .wait

/-- The address of line `y` of plane 0: in the buffer, or in the capture slot that holds the line (R83). -/
def Stream.row (st : Stream) (y : Nat) : Nat :=
  if st.src.kind ≠ 2 then st.src.row y
  else (match st.alt.find? fun e => e.1 == y with | some e => e.2 | none => st.ring.1) + y * st.ring.2

/-- The unpacked source pixel at column `x`, line `y` of an RGB or indexed format. `pal` is the layer's palette. -/
def Stream.rgb (st : Stream) (pal : Nat → Word) (x y : Nat) : Got Rgba :=
  let f := st.src.format
  if st.src.ilt then
    let base := st.src.a0 + y / 8 * st.src.st0 + x / 64 * slotBytes f
    if st.failed (st.src.a1 + y / 8 * st.src.st1 + x / 64 * 8) || (List.range (slotBytes f / 64)).any fun i => st.failed (base + 64 * i) then .bad
    else match st.tile (x / 64) (y / 8) with
      | none => .wait
      | some (h, body) => match iltPixel f h body (x % 64) (y % 8) with
        | none => .bad
        | some v => .val (unpack f v)
  else if 0x10 ≤ f then
    let k := bitsPerPixel f
    (st.got (st.row y + x * k / 8) 1).map fun b =>
      let i := b / 2 ^ (8 - k - x * k % 8) % 2 ^ k
      unpack 0 (pal i).toNat
  else (st.got (st.row y + x * bitsPerPixel f / 8) (bitsPerPixel f / 8)).map (unpack f)

/-! The scaler (R109 to R111). -/

/-- The key of word `i` of a scaler's foreground bank (vertical or not) in the table of banks. -/
def coefKey (c : Nat) (vert : Bool) (i : Nat) : Nat := 2 ^ 24 + c * 1024 + (if vert then 512 else 0) + i

def State.lut (s : State) (k : Nat) : Word := Tbl.get (fun _ => 0) s.luts k
def State.setLut (s : State) (k : Nat) (v : Word) : State := { s with luts := Tbl.set (fun _ => 0) s.luts k v }

/-- Tap `t` of phase `ph` of scaler `c`, in units of 1/256 (R110). -/
def State.coef (s : State) (c : Nat) (vert : Bool) (ph t : Nat) : Int :=
  if s.sclCtrl c SCL_CTRL_coef_src = 1 then
    (if (if vert then t = 0 ∨ t = 5 else t ≤ 1 ∨ 6 ≤ t) then 0 else (Config.legacyCoef vert ph t).toInt)
  else
    let w := (s.lut (coefKey c vert (ph * (if vert then 3 else 4) + t / 2))).toNat
    signed 10 (if t % 2 = 0 then w else w / 65536)

/-- One filtered component: Σ coefficient × input / 256, rounded half up, limited to 16 bits (R110). -/
def filter (cs : List Int) (xs : List Nat) : Nat :=
  let sum := (cs.zip xs).foldl (fun (n : Int) e => n + e.1 * e.2) 0
  (clamp 0 65535 ((sum + 128) / 256)).toNat

/-- A two-dimensional filter at (column, line) positions: vertically first, then horizontally; `get` reads a
component's value. -/
def State.filter2 (s : State) (c : Nat) (px py : Int × Nat) (x0 w y0 h : Nat) (get : Nat → Nat → Got Nat) : Got Nat :=
  let vcs := (List.range 6).map fun t => s.coef c true py.2 t
  let hcs := (List.range 8).map fun t => s.coef c false px.2 t
  let cols := (tapsAt px.1 3 8 x0 w).map fun x =>
    (Got.all ((tapsAt py.1 2 6 y0 h).map fun y => get x y)).map fun vs => filter vcs vs
  (Got.all cols).map fun vs => filter hcs vs

/-- A component as it enters the scaler: 16 bits, colour multiplied by alpha for mode 2 (R110, R111). DESIGN CHOICE (log 116): that
product, for which R111 gives no rounding, is rounded half up to 16 bits. -/
def enter (format mode : Nat) (opaq : Bool) (p : Rgba) (i : Nat) : Nat :=
  let w := fun v => if format = 2 then v else if format = 4 then (Config.halfFraction (BitVec.ofNat 16 v)).toNat else v * 257
  let a := if opaq then 65535 else w p.a
  if i = 3 then a else
    let v := w (p.list.getD i 0)
    if mode = 2 then (2 * v * a + 65535) / 131070 else v

/-- The YUV to RGB conversion of 16-bit components (R75): BT.2020 or BT.709, full or limited range, 10-bit or 8-bit. -/
def yuvRgb (bt2020 full ten : Bool) (y u v : Nat) : Rgba :=
  let (b, g, m, h, d) : Nat × Nat × Nat × Nat × Nat := if ten then (if full then (0, 1023, 512, 1023, 1023) else (64, 876, 512, 896, 1023))
    else if full then (0, 255, 128, 255, 255) else (16, 219, 128, 224, 255)
  let (kr, kb) : Nat × Nat := if bt2020 then (2627, 593) else (2126, 722)
  let kg := 10000 - kr - kb
  let yn : Int := ((y * d : Nat) - (b * 65535 : Nat) : Int) * (h * 10000 : Nat)
  let cn := fun (c : Nat) => ((c * d : Nat) - (m * 65535 : Nat) : Int) * g
  let rn := yn + (2 * (10000 - kr) : Nat) * cn v
  let bn := yn + (2 * (10000 - kb) : Nat) * cn u
  let gn := 10000 * yn - kr * rn - kb * bn
  let den : Nat := g * h * 10000
  let out := fun (i : Nat) (n : Int) (dn : Nat) =>
    let q := n / dn
    (clamp 0 65535 (if n % dn ≠ 0 ∧ Config.yuvUp y u v i then q + 1 else q)).toNat
  ⟨out 0 rn den, out 1 gn (den * kg), out 2 bn den, 65535⟩

/-- The position (x, y) of the cell lies in the stream's opaque part. -/
def Stream.inOpaque (st : Stream) (x y : Nat) : Bool :=
  match st.opq with | some (a, b, c, d) => a ≤ x && x < b && c ≤ y && y < d | none => false

/-- The components of a form that stand for alpha 1.0 (R73). -/
def fullAlpha (form : Nat) : Nat := if form = 0 then 255 else if form = 1 then 65535 else 0x3C00

/-- What a stream delivers at column `x`, line `y` of a cell at (`cx`, `cy`), in its form: 8-bit, 16-bit or binary16
components (R101, R108, R132). -/
def State.sample (s : State) (st : Stream) (out : Nat) (cx cy x y : Nat) : Got Rgba :=
  let l := st.src
  let pal := fun i => s.appl out (fkey (layPage l.num) LAY_PALETTE i)
  let i := ((cx + x : Nat) - l.x : Int).toNat
  let j := ((cy + y : Nat) - l.y : Int).toNat
  match st.scaler with
  | none => st.rgb pal (l.sx + i) (l.sy + j)
  | some c =>
    let px := srcPos l.sx l.sw l.dw i
    let py := srcPos l.sy l.sh l.dh j
    if yuv l.format then
      let (ho, vo) := siting (s.sclCtrl c SCL_CTRL_siting)
      let ten := l.format == 9
      let wd := fun v => if ten then widen 10 (v / 64) else widen 8 v
      let luma := s.filter2 c (phaseOf px) (phaseOf py) l.sx l.sw l.sy l.sh fun x y =>
        (if l.format = 10 then st.got (st.row y + 2 * x) 1
         else if ten then st.got (st.row y + 2 * x) 2 else st.got (st.row y + x) 1).map wd
      let ch := fun k => s.filter2 c (phaseOf (chromaPos px ho)) (if l.format = 10 then phaseOf py else phaseOf (chromaPos py vo))
        (l.sx / 2) (cdiv l.sw 2) (if l.format = 10 then l.sy else l.sy / 2) (if l.format = 10 then l.sh else cdiv l.sh 2) fun x y =>
          (if l.format = 10 then st.got (st.row y + 4 * x + 1 + 2 * k) 1
           else if ten then st.got (l.a1 + y * l.st1 + 4 * x + 2 * k) 2
           else st.got (l.a1 + y * l.st1 + 2 * x + k) 1).map wd
      (Got.all [luma, ch 0, ch 1]).map fun vs =>
        yuvRgb (l.cs == 2) l.full ten (vs.getD 0 0) (vs.getD 1 0) (vs.getD 2 0)
    else
      let whole := st.inOpaque x y
      (Got.all ((List.range 4).map fun k => s.filter2 c (phaseOf px) (phaseOf py) l.sx l.sw l.sy l.sh fun x y =>
        (st.rgb pal x y).map fun p => enter l.format l.mode whole p k)).map Rgba.ofList

/-- The position lies in the visible rectangle of the stream's descriptor (R133). -/
def Stream.present (st : Stream) (x y : Nat) : Bool := st.x0 ≤ x && x < st.xe && st.y0 ≤ y && y < st.ye

/-- The unset mark of a component, and the components of a position that a table sets in place of a pixel's own. -/
def unset : Word := 0xFFFFFFFF
def overlay (t : List (Nat × Word)) (k : Nat) (p : Rgba) : Rgba :=
  Rgba.ofList ((List.range 4).map fun i =>
    let w := Tbl.get (fun _ => unset) t (k + i)
    if w = unset then p.list.getD i 0 else w.toNat)

/-- The alpha at a position is 1.0 whatever the pixel's own (R73, R114): in an opaque part, and for a format without alpha. -/
def Stream.alphaFull (st : Stream) (x y : Nat) : Bool :=
  st.inOpaque x y || st.src.format == 1 || st.src.format == 3 || yuv st.src.format

/-- The positions that a line-store slot holds of a stream's cell (R101). -/
def Stream.span (st : Stream) : Nat := if narrow st.src.format st.src.needsScaler then 256 else 128

/-- The data of position `k` of a composition cheque's stream lies in the line store: its slot has been opened, or an effect's
output stands there (R101, R115). -/
def Stream.inStore (st : Stream) (c : Cheque) (k : Nat) : Bool := c.acct.isSome || st.output.isSome || decide (k / st.span < st.opened)

/-- Data that is not there yet and will not be fetched has failed (R25, R84). -/
def Stream.close {α : Type} (st : Stream) (g : Got α) : Got α := match g with | .wait => if st.ended then .bad else .wait | g => g

/-- What a stream delivers at a position: the fetched data, with components that a parity error spoilt (R123) and an effect's
output in their place (R115); an absent position, or one of a transparent layer, delivers none. -/
def State.deliverAt (s : State) (c : Cheque) (st : Stream) (x y : Nat) : Got (Option Rgba) :=
  if !st.present x y || st.transparent then .val none
  else
    let k := 4 * (y * c.w + x)
    (st.close (if st.inStore c (k / 4) then s.sample st c.out c.x c.y x y else .wait)).map fun p =>
      let p := overlay (st.output.getD []) k (overlay st.spoilt k p)
      some (if st.alphaFull x y then { p with a := fullAlpha st.form } else p)

end Sys2Proof.Machine
end

