-- ==== Sys2Proof/Machine/Press.lean ====
section
/-! DEFINITION. Presses (R128, R136, R139 to R147): how a cheque ends or moves, slow and stuck mints, retirement, and
the commands of the dispatcher. -/

namespace Sys2Proof.Machine

/-- The branch page of a mint, and its bit there (R147). -/
def mintBranch (m : Nat) : Nat := branchPage (m / 32)
def mintBit (m : Nat) : Fld := ⟨0x080, 4, m % 32, m % 32⟩

/-- A mint is retired, and NO_MINT follows (R147). -/
def State.markRetired (s : State) (m : Nat) : State := (State.settle (s.retireRaw m)).syncNoMint (m / 8)

/-- A mint leaves its cheque (R145, R147). -/
def State.leaveMint (s : State) (m : Nat) : State := ((State.settle (s.leaveRaw m)).syncNoMint (m / 8)).syncPress (m / 8)

/-- A cheque's record returns to the pool, or to the account's credit (R141). -/
def State.dropRecord (s : State) (id : Nat) : State :=
  match s.cheque id with
  | none => s
  | some c => match c.acct with
    | some a => (s.setCheque id none).setAcct a { s.acct a with creditUsed := (s.acct a).creditUsed - 1 }
    | none => s.setCheque id none

/-- An effect whose data a cell will not have: the layer is transparent there, counted (R88, R115, R123). -/
def State.lateEffect (s : State) (parent layer out : Nat) : State :=
  ((s.markTransparent parent layer).count (layPage layer) 4).count (outPage out 2) 3

/-- A cheque that ends without publishing by a bounce (R136): counted, CHEQUE_BOUNCED; an effect leaves its layer
transparent. -/
def State.bounceCheque (s : State) (id : Nat) : State :=
  match s.cheque id with
  | none => s
  | some c =>
    let s := match c.acct, c.streams.head? with
      | some _, some st => s.lateEffect c.parent st.layer c.out
      | _, _ => s
    ((s.dropRecord id).count (pressPage c.press) 1).fault (pressPage c.press) 0

/-- A mint's cheque is bounced (R136): the mint stops at once. -/
def State.bounce (s : State) (m : Nat) : State :=
  match (s.mint m).cheque with
  | none => s
  | some id => (s.bounceCheque id).leaveMint m

/-- The mean cheque time of a mint, in ns (R145). DESIGN CHOICE (log 117): it is rounded down to whole ns, the unit of
MNT_P_TIME, before it is compared with the median. -/
def MintS.mean (v : MintS) : Nat := if v.timeCount = 0 then 0 else v.timeSum / v.timeCount

/-- The median of R145: of n values in ascending order the ⌈n/2⌉-th. -/
def medianOf (l : List Nat) : Nat := (sortBy id l).getD (cdiv l.length 2 - 1) 0

/-- SLOW set or cleared on a mint (R145): the press and branch bits, logged as hardware changes, and the event. -/
def State.setSlow (s : State) (m : Nat) (on : Bool) : State :=
  let p := m / 8
  let f : Fld := ⟨0x084, 4, 24 + m % 8, 24 + m % 8⟩
  if s.rd (pressPage p) f = b2n on then s
  else
    let s := (s.hwField (pressPage p) f (b2n on)).wr (mintBranch m) ⟨0x088, 4, m % 32, m % 32⟩ (b2n on)
    if on then s.raise (mintBranch m) 0 else s

/-- The end of a press's frame (R145): times and counts shown, each mint compared with the median, and restarted. -/
def State.slowCheck (s : State) (p : Nat) : State :=
  let ms := (List.range 8).map (· + 8 * p)
  let ran := ms.filter fun m => !s.mintRetired m && (s.mint m).timeCount != 0
  let med := medianOf (ran.map fun m => (s.mint m).mean)
  ms.foldl (fun (t : State) m =>
    let v := t.mint m
    let t := (t.wr (pressPage p) MNT_P_TIME_mean_ns (min 0xFFFFFF v.mean) (m % 8)).wr (pressPage p) MNT_P_COUNT_count
      (min 0xFFFF v.timeCount) (m % 8)
    let run := if t.mintRetired m ∨ v.timeCount = 0 then v.slowRun else if 2 * med < v.mean then v.slowRun + 1 else 0
    let t := t.setMint m { v with timeSum := 0, timeCount := 0, slowRun := run }
    if 64 ≤ run then t.setSlow m true else if run = 0 then t.setSlow m false else t) s

/-! Retirement by the manager (R147), through the branch's MNT_B_RETIRE. -/

/-- The step page of a single mint that returns to service: the sequencer's queue names it above the pages. -/
def mintUnit (m : Nat) : Nat := 8192 + m

/-- The wakes of mint `m`'s press lose its step, or gain it (R45: a retired mint takes no step). -/
def Wake.dropStep (m : Nat) (w : Wake) : Wake :=
  if w.page = pressPage (m / 8) then { w with left := w.left.filter (· != m % 8) } else w
def Wake.addStep (m : Nat) (w : Wake) : Wake := if w.page = pressPage (m / 8) then { w with left := w.left ++ [m % 8] } else w

/-- Mint `m` takes no step of its press's wake: a wake with no step left is complete, and the request follows the press that is
now ON (R34, R37). The step in progress is not recalled. -/
def State.skipStep (s : State) (m : Nat) : State :=
  let q := (s.seq.queue.filter fun (w : Wake) => w.page != mintUnit m).map (Wake.dropStep m)
  let step := s.seq.step.map fun (e : Wake × Nat) => (if e.1.left.head? = some (m % 8) then e.1 else e.1.dropStep m, e.2)
  let done := q.filter fun (w : Wake) => w.left.isEmpty
  let t := (done.foldl State.wakeDone { s with seq := { s.seq with queue := q.filter fun (w : Wake) => !w.left.isEmpty, step := step } }).syncSeq
  if done.isEmpty then t else t.avsFollow t.pressOn

/-- A MNT_B_RETIRE bit newly 1: an idle mint switches OFF at once, a busy one after its cheque. -/
def State.retireMint (s : State) (m : Nat) : State :=
  if (s.mint m).cheque.isSome then s.setMint m { s.mint m with retiring := true } else (s.markRetired m).skipStep m

/-- A MNT_B_RETIRE bit newly 0: a mint retired by the manager returns through the sequencer if its press is ON, with its
press's wake if that waits or is in progress, and without a step otherwise; a stuck one stays retired. -/
def State.unretireMint (s : State) (m : Nat) : State :=
  if (s.rd (pressPage (m / 8)) MNT_P_MINT_STATE_stuck).testBit (m % 8) then s
  else if (s.mint m).retiring then s.setMint m { s.mint m with retiring := false }
  else if !s.mintRetired m || s.wakes (mintUnit m) then s
  else if s.wakes (pressPage (m / 8)) then
    let s := s.mintBack m
    { s with seq := { s.seq with queue := s.seq.queue.map (Wake.addStep m), step := s.seq.step.map fun (e : Wake × Nat) => (e.1.addStep m, e.2) } }
  else if s.pressOn (m / 8) then { s with seq := { s.seq with queue := s.seq.queue ++ [(⟨mintUnit m, 2, 0, s.now, [0]⟩ : Wake)] } }.syncSeq
  else s.mintBack m

/-- A write of MNT_B_RETIRE (R147): refused as out of range where an output press would keep no unretired mint. -/
def State.branchWrite (s : State) (who b : Nat) (value : Word) (be : BitVec 4) : State :=
  let p := branchPage b
  let stuck := s.rd p MNT_B_STUCK_stuck
  s.writeWith who p MNT_B_RETIRE.off value be false
    (fun v => if (List.range 4).any fun i => s.rd (pressPage (4 * b + i)) MNT_P_ROLE_role == 1 &&
        (v.toNat ||| stuck) / 2 ^ (8 * i) % 256 == 255 then .range else .ok)
    (s.writeRec who p MNT_B_RETIRE.off)
    (fun v t =>
      let old := t.rd p MNT_B_RETIRE
      (List.range 32).foldl (fun (t : State) i =>
        if v.toNat.testBit i && !old.testBit i then t.retireMint (32 * b + i)
        else if !v.toNat.testBit i && old.testBit i then t.unretireMint (32 * b + i) else t) (t.store p MNT_B_RETIRE.off v))

/-- MINT_RETIRE and MINT_UNRETIRE (R147). -/
def execMintRetire (who : Actor) (m : MintId) (s : State) : Host.Outcome State Fault Refusal :=
  .next (s.branchWrite who.val (m.val / 32) (s.fieldWrite (mintBranch m.val) (mintBit m.val) 0 1) 15)

def execMintUnretire (who : Actor) (m : MintId) (s : State) : Host.Outcome State Fault Refusal :=
  .next (s.branchWrite who.val (m.val / 32) (s.fieldWrite (mintBranch m.val) (mintBit m.val) 0 0) 15)

/-- A mint's registers, VL and stores zero; what the press counts of it stays. -/
def MintS.cleared (m : MintS) : MintS :=
  { MintS.zero with timeSum := m.timeSum, timeCount := m.timeCount, slowRun := m.slowRun, retiring := m.retiring }

/-- PRESS_CLEAR_DONE (R128): a press that is clearing has every register, VL and store of its mints zero. -/
def execPressClearDone (p : Fin 128) (s : State) : Host.Outcome State Fault Refusal :=
  .next (
    if s.rd (pressPage p.val) MNT_P_ROLE_clearing = 0 then s
    else ((List.range 8).foldl (fun (t : State) j => t.setMint (8 * p.val + j) (t.mint (8 * p.val + j)).cleared) s).wr (pressPage p.val)
      MNT_P_ROLE_clearing 0)

/-- HS_PARITY and HS_TIMEOUT (R31, R43): the word is discarded, the source of the exchange page is raised, and the requester
receives an error completion, which bounces a mint's cheque (R136). -/
def State.handshake (s : State) (x src : Nat) (req : HsReq) : State :=
  let s := s.fault (xchPage x) src
  match req with
  | .mint m => if m.val / 256 = x ∧ (s.mint m.val).phase ≠ .idle then s.bounce m.val else s
  | .other => { s with resp := ⟨true, []⟩ }

def execHsParity (x : Fin 4) (req : HsReq) (s : State) : Host.Outcome State Fault Refusal := .next (s.handshake x.val 1 req)
def execHsTimeout (x : Fin 4) (req : HsReq) (s : State) : Host.Outcome State Fault Refusal := .next (s.handshake x.val 0 req)

/-! Cheque start (R131, R132, R140, R144). -/

/-- A background component in blend space: 10 bits, 1,023 standing for 1.0. -/
def backComp (bg i : Nat) : Word := ratio (bg / 2 ^ (20 - 10 * i) % 1024) 1023

/-- Word 0 and 1 of a stream's descriptor (R132). -/
def Stream.word0 (st : Stream) : Nat :=
  st.layer + st.form * 2 ^ 8 + st.mode * 2 ^ 10 + st.decode * 2 ^ 12 + st.tf * 2 ^ 14 + b2n st.primConv * 2 ^ 16 + st.alpha * 2 ^ 24
def Stream.word1 (st : Stream) : Nat := st.x0 + st.xe * 2 ^ 9 + st.y0 * 2 ^ 18 + st.ye * 2 ^ 21

/-- The parameter block (R132). -/
def State.paramBlock (s : State) (c : Cheque) : List Byte :=
  let bg := s.rdA c.out (outPage c.out 2) OUT_CMP_BACKGROUND_colour
  let head := (if c.acct.isNone then (List.range 3).flatMap fun i => leBytes 4 (backComp bg i).toNat else List.replicate 12 0)
    ++ leBytes 4 (s.appl c.out (fkey (outPage c.out 2) OUT_CMP_BLEND 0)).toNat ++ List.replicate 16 0
  let body := c.streams.flatMap fun st => leBytes 4 st.word0 ++ leBytes 4 st.word1
  (head ++ body ++ List.replicate 512 0).take 512

/-- The scalar registers at cheque start (R131). -/
def startScalars (c : Cheque) : List (Nat × Word) :=
  let w := fun (n : Nat) => BitVec.ofNat 32 n
  let vals := [w (if c.acct.isSome then 2 else b2n c.racing), w c.x, w c.y, w c.w, w c.h, w (cdiv (c.w * c.h) 32),
    if c.acct.isSome then c.arg else w c.streams.length, w c.frame]
  (vals.zipIdx.filter fun e => e.1 ≠ 0).map fun e => (e.2, e.1)

/-- Bytes put into a mint's data store. -/
def putBytes (t : List (Nat × Byte)) (a : Nat) : List Byte → List (Nat × Byte)
  | [] => t
  | b :: bs => putBytes (Tbl.set (fun _ => 0) t a b) (a + 1) bs

/-- The predicates at cheque start: all ones. -/
def startPreds : List (Nat × Word) := (List.range 4).map fun i => (i, 0xFFFFFFFF)

/-- A mint that may pull (R140, R147): idle and in service, on a press that is ON and serves an owner. -/
def State.mayPull (s : State) (m : Nat) : Bool :=
  let p := pressPage (m / 8)
  (s.mint m).phase == .idle && (s.mint m).cheque.isNone && !s.mintRetired m && !(s.mint m).retiring
    && s.power p == 3 && s.rd p MNT_P_ROLE_role != 0 && s.rd p MNT_P_ROLE_clearing == 0

/-- The first waiting cheque of its press goes to mint `m` with its registers and parameter block; a routine other than the
resident one loads first (R140, R144). -/
def State.pull (s : State) (m : Nat) : State :=
  let p := m / 8
  if !s.mayPull m then s
  else match s.press p with
    | [] => s
    | id :: rest => match s.cheque id with
      | none => s.setPress p rest
      | some c =>
        let v := s.mint m
        let s := (s.setPress p rest).setMint m { v with
          sreg := startScalars c, vreg := [], preg := startPreds, vl := 1, pc := 0, count := 0, ops := 0,
          data := putBytes v.data 0 (s.paramBlock c), phase := if v.resident = some c.routine.image then .running else .loading,
          cheque := some id, spos := [], opos := 0, cell := [], pulledAt := s.now, lastAt := s.now }
        s.syncPress p

/-- CHEQUE_PULL (R140): the pull of a mint. Every free mint of the press pulls whenever a cheque waits, and simultaneous pulls
are served in ascending mint number: free mints below it are served before it. -/
def execChequePull (m : MintId) (s : State) : Host.Outcome State Fault Refusal :=
  .next ((List.range (m.val % 8 + 1)).foldl (fun (t : State) j => t.pull (8 * (m.val / 8) + j)) s)

end Sys2Proof.Machine
end

