-- ==== Sys2Proof/Machine/Operands.lean ====
section
/-! DEFINITION. The mints' instruction words and operand forms (R124, R125, R127, R129, R130): decoding with every
illegality, groups of vector registers, scalars, predicates, the data store, and the frame of one instruction. -/

namespace Sys2Proof.Machine

/-- The fields of an instruction word (R129). -/
structure MI where
  op : Nat
  pe : Bool
  p : Nat
  d : Nat
  a : Nat
  b : Nat
  c : Nat
  sc : Bool
  imm : Nat
  base : Nat
  off : Nat
  target : Nat
  deriving DecidableEq, Repr

/-- The format that an opcode takes (R130): 0 register, 1 immediate, 2 memory, 3 control; none for an unlisted one. -/
def opFormat (op : Nat) : Option Nat :=
  if op ≤ 0x1D then some 0 else if 0x20 ≤ op ∧ op ≤ 0x28 then some 0 else if 0x30 ≤ op ∧ op ≤ 0x33 then some 1
  else if 0x38 ≤ op ∧ op ≤ 0x3B then some 2 else if 0x3C ≤ op ∧ op ≤ 0x3F then some 3 else none

/-- Lane instructions (R130). -/
def isLane (op : Nat) : Bool := op ≤ 0x1D || op == 0x32

/-- The fields of a word. -/
def fieldsOf (w : Word) : MI :=
  let n := w.toNat
  { op := n / 2 ^ 24 % 64, pe := n.testBit 23, p := n / 2 ^ 21 % 4, d := n / 2 ^ 16 % 32, a := n / 2 ^ 11 % 32,
    b := n / 2 ^ 6 % 32, c := n / 2 % 32, sc := n.testBit 0, imm := n % 65536, base := n / 2 ^ 12 % 16,
    off := n % 4096, target := n % 1024 }

/-- Which of the fields d, a, b, c name a vector group, given the scalar flag. -/
def vecFields (i : MI) : List Nat :=
  let last := fun (v : Nat) => if i.sc then [] else [v]
  if i.op ≤ 0x09 ∨ i.op = 0x0B ∨ i.op = 0x0C ∨ i.op = 0x15 ∨ i.op = 0x1A then i.d :: i.a :: last i.b
  else if i.op = 0x0A ∨ i.op = 0x0F ∨ i.op = 0x11 then i.d :: i.a :: i.b :: last i.c
  else if i.op = 0x10 then [i.d]
  else if i.op = 0x0D ∨ i.op = 0x0E ∨ (0x12 ≤ i.op ∧ i.op ≤ 0x14) ∨ i.op = 0x16 ∨ i.op = 0x17 ∨ i.op = 0x1D then i.d :: last i.a
  else if i.op = 0x18 ∨ i.op = 0x19 then i.a :: last i.b
  else if i.op = 0x1B ∨ i.op = 0x1C then [i.d, i.a]
  else if i.op = 0x22 ∨ i.op = 0x25 ∨ i.op = 0x26 then last i.a
  else if i.op = 0x23 ∨ i.op = 0x24 ∨ i.op = 0x32 ∨ i.op = 0x38 ∨ i.op = 0x39 then [i.d]
  else []

/-- Which fields name a scalar register. -/
def scalarFields (i : MI) : List Nat :=
  let last := fun (v : Nat) => if i.sc then [v] else []
  if i.op ≤ 0x09 ∨ i.op = 0x0B ∨ i.op = 0x0C ∨ i.op = 0x15 ∨ i.op = 0x1A ∨ i.op = 0x18 ∨ i.op = 0x19 then last i.b
  else if i.op = 0x0A ∨ i.op = 0x0F ∨ i.op = 0x11 then last i.c
  else if i.op = 0x10 ∨ i.op = 0x23 ∨ i.op = 0x24 ∨ i.op = 0x27 then [i.a]
  else if i.op = 0x0D ∨ i.op = 0x0E ∨ (0x12 ≤ i.op ∧ i.op ≤ 0x14) ∨ i.op = 0x16 ∨ i.op = 0x17 ∨ i.op = 0x1D
      ∨ i.op = 0x25 ∨ i.op = 0x26 then last i.a
  else if i.op = 0x1B ∨ i.op = 0x1C then [i.c]
  else if i.op = 0x20 ∨ i.op = 0x21 then [i.d, i.a, i.b]
  else if i.op = 0x22 then i.d :: last i.a
  else if i.op = 0x30 ∨ i.op = 0x31 ∨ i.op = 0x3A ∨ i.op = 0x3B ∨ i.op = 0x3E then [i.d]
  else []

/-- The further operands lie in their ranges, for a vector length and a cheque kind (R130, R135). -/
def operandsOk (i : MI) (vl : Nat) (effect : Bool) : Bool :=
  match i.op with
  | 0x10 => i.c ≤ 3
  | 0x14 => i.c ≤ 1
  | 0x16 => i.c ≤ 3
  | 0x17 => i.c ≤ 3
  | 0x18 => i.c ≤ 3 && i.d ≤ 3
  | 0x19 => i.c ≤ 3 && i.d ≤ 3
  | 0x1A => i.c ≤ 3
  | 0x1C => 4 ≤ i.b && i.b ≤ 10
  | 0x22 => i.c < 4 * vl
  | 0x24 => i.c ≤ 3
  | 0x26 => if effect then i.c ≤ 3 else i.c ≤ 2
  | 0x33 => 1 ≤ i.imm && i.imm ≤ 8
  | 0x3D => i.pe
  | 0x3E => !i.pe
  | 0x3F => !i.pe
  | _ => true

/-- The instruction of a word, none where it is illegal (R125, R129, R130). -/
def decodeMint (w : Word) (vl : Nat) (effect : Bool) : Option MI :=
  let i := fieldsOf w
  let fmt := w.toNat / 2 ^ 30
  if opFormat i.op ≠ some fmt then none
  else if (fmt = 1 ∨ fmt = 2) ∧ w.toNat / 2 ^ 21 % 8 ≠ 0 then none
  else if fmt = 3 ∧ w.toNat / 2 ^ 10 % 64 ≠ 0 then none
  else if fmt = 0 && i.pe && !isLane i.op then none
  else if (vecFields i).any fun v => decide (32 < v + vl) then none
  else if (scalarFields i).any fun v => decide (16 ≤ v) then none
  else if !operandsOk i vl effect then none
  else some i

/-! The mint's registers and stores. -/

def MintS.s (m : MintS) (n : Nat) : Word := Tbl.get (fun _ => 0) m.sreg n
def MintS.setS (m : MintS) (n : Nat) (w : Word) : MintS := { m with sreg := Tbl.set (fun _ => 0) m.sreg n w }
def MintS.p (m : MintS) (n : Nat) : Word := Tbl.get (fun _ => 0) m.preg n
def MintS.setP (m : MintS) (n : Nat) (w : Word) : MintS := { m with preg := Tbl.set (fun _ => 0) m.preg n w }

/-- Element `k` of the group that starts at register `n`. -/
def MintS.v (m : MintS) (n k : Nat) : Word := Tbl.get (fun _ => 0) m.vreg (4 * n + k)
def MintS.setV (m : MintS) (n k : Nat) (w : Word) : MintS := { m with vreg := Tbl.set (fun _ => 0) m.vreg (4 * n + k) w }

/-- The elements of a group (R125). -/
def MintS.elems (m : MintS) : List Nat := List.range (4 * m.vl)

/-- The elements that an instruction writes: with pe, those whose predicate bit is 1 (R129). -/
def MintS.active (m : MintS) (i : MI) : List Nat := m.elems.filter fun k => !i.pe || (m.p i.p).getLsbD k

/-- An operand that is the opcode's last source: a group element, or a scalar broadcast. -/
def MintS.last (m : MintS) (i : MI) (n k : Nat) : Word := if i.sc then m.s n else m.v n k

/-- Group `d` takes `f k` at each active element; every source is read before. -/
def MintS.lanes (m : MintS) (i : MI) (f : Nat → Word) : MintS := (m.active i).foldl (fun (t : MintS) k => t.setV i.d k (f k)) m

/-- A word of the data store, little-endian. -/
def MintS.word (m : MintS) (a : Nat) : Word :=
  BitVec.ofNat 32 (ofLeBytes ((List.range 4).map fun j => Tbl.get (fun _ => 0) m.data (a + j)))
def MintS.setWord (m : MintS) (a : Nat) (w : Word) : MintS := { m with data := putBytes m.data a (leBytes 4 w.toNat) }

/-- An access of `n` bytes at `a` is admitted (R127, R136): inside the store, aligned, and no store to the constants. -/
def storeOk (a n align : Nat) (write : Bool) : Bool :=
  a + n ≤ 0x2000 && a % align == 0 && !(write && a < 0x1000 && 0x200 < a + n)

/-- The address of a memory instruction (R129). DESIGN CHOICE (log 117): R129 says nothing of a sum past 32 bits; it wraps modulo
2^32, before the range check of R136. -/
def MintS.addr (m : MintS) (i : MI) : Nat := ((m.s i.base).toNat + 4 * i.off) % 2 ^ 32

/-! One instruction (R129, R136). -/

/-- What an instruction does to its mint: it is illegal or breaks a limit, it waits for stream data, or it leaves the
mint so, going on at the next word or at a target. -/
inductive Ran where
  | bad
  | wait
  | go (m : MintS)
  | jump (m : MintS) (target : Nat)
  deriving DecidableEq, Repr

/-- The mint after an instruction retired: counted, the lane-ops and the time noted, the program counter at `pc`. -/
def MintS.retire (m : MintS) (lane : Nat) (pc now : Nat) : MintS :=
  { m with pc := pc, count := m.count + 1, ops := m.ops + lane, lastAt := now }

/-- The instruction that mint `m` runs next, when it runs a cheque: the cheque's number and record, and the decoded word,
none where the word is illegal. -/
def State.current (s : State) (m : Nat) : Option (Nat × Cheque × Option MI) :=
  let v := s.mint m
  if v.phase ≠ .running then none
  else match v.cheque with
    | none => none
    | some id => match s.cheque id with
      | none => none
      | some c => some (id, c, if v.codeLen ≤ v.pc then none
          else decodeMint (Tbl.get (fun _ => 0) v.code v.pc) v.vl c.acct.isSome)

/-- The lane-ops of an instruction (R125). -/
def laneOpsOf (i : MI) (vl : Nat) : Nat := if isLane i.op then 4 * vl else 0

/-- The limits of R136 on the next instruction: 4,096 instructions, and an effect cheque's declared lane-ops. -/
def overLimit (v : MintS) (c : Cheque) (i : MI) : Bool :=
  decide (4096 ≤ v.count) || (c.acct.isSome && decide (c.routine.cost < v.ops + laneOpsOf i v.vl))

/-- TALLY4 of the press, held in lane-ops (R149). -/
def State.countOps (s : State) (m n : Nat) : State :=
  { s with tally := NatTbl.put s.tally (8 * pressPage (m / 8) + 4) (NatTbl.at_ s.tally (8 * pressPage (m / 8) + 4) + n) }

/-- One read of a store of mint `m` meets an injected error (R325): a correctable one is counted; an uncorrectable one raises
STORE_ECC and bounces the cheque (R136, R149). Whether the read is good. -/
def State.storeRead (s : State) (m : Nat) : State × Bool :=
  match s.useInject (pressPage (m / 8)) 2 with
  | (t, none) => (t, true)
  | (t, some 0) => (t.count (pressPage (m / 8)) 6, true)
  | (t, some _) => ((t.fault (pressPage (m / 8)) 2).bounce m, false)

/-- The instructions that read the data store: LUT, LUTF, LDV, LDS. -/
def readsData (op : Nat) : Bool := [0x1B, 0x1C, 0x38, 0x3A].contains op

/-- One instruction of mint `m`, if the next word holds opcode `op`: `sem` gives its effect on the mint. The word is read from
the routine store; an illegal word and a broken limit bounce the cheque. -/
def State.runOp (s : State) (m op : Nat) (sem : MI → Cheque → MintS → Ran) : State :=
  match s.current m with
  | none => s
  | some (_, _, none) => s.bounce m
  | some (_, c, some i) =>
    let v := s.mint m
    if i.op ≠ op then s
    else match (if overLimit v c i then Ran.bad else sem i c v) with
      | .wait => s
      | r =>
        let (t, ok) := s.storeRead m
        if !ok then t
        else match r with
          | .go w =>
            let (t, ok) := if readsData op then t.storeRead m else (t, true)
            if ok then (t.setMint m (w.retire (laneOpsOf i v.vl) (v.pc + 1) s.now)).countOps m (laneOpsOf i v.vl) else t
          | .jump w g => if v.codeLen ≤ g then t.bounce m else t.setMint m (w.retire 0 g s.now)
          | _ => t.bounce m

/-- A lane instruction whose element `k` of group d becomes `f` of the instruction, the mint and k. -/
def State.laneOp (s : State) (m op : Nat) (f : MI → MintS → Nat → Word) : State :=
  s.runOp m op fun i _ v => .go (v.lanes i fun k => f i v k)

/-- Operands a and b, and a, b and c, of an element. -/
def opA (i : MI) (v : MintS) (k : Nat) : Word := v.v i.a k
def opA1 (i : MI) (v : MintS) (k : Nat) : Word := v.last i i.a k
def opB (i : MI) (v : MintS) (k : Nat) : Word := v.last i i.b k
def opB3 (i : MI) (v : MintS) (k : Nat) : Word := v.v i.b k
def opC3 (i : MI) (v : MintS) (k : Nat) : Word := v.last i i.c k

/-! Streams and outputs (R133 to R135, R138). -/

/-- The stream position of a mint, in half positions (two raw elements to a position of forms 1 and 2). -/
def MintS.sp (m : MintS) (n : Nat) : Nat := NatTbl.at_ m.spos n
def MintS.setSp (m : MintS) (n v : Nat) : MintS := { m with spos := NatTbl.put m.spos n v }

/-- Half positions per raw element of a form. -/
def elemStep (form : Nat) : Nat := if form = 0 then 2 else 1

/-- The components at position `pos` of a stream: 0 past the cell's end, where absent, and where the data failed. -/
def State.at (s : State) (c : Cheque) (st : Stream) (pos : Nat) : Got (Option Rgba) :=
  if c.w * c.h ≤ pos then .val none
  else match s.deliverAt c st (pos % c.w) (pos / c.w) with
    | .bad => .val none
    | g => g

/-- The raw element of a position (R133): ARGB8888, or G and R, then A and B. -/
def rawElem (form : Nat) (second : Bool) (p : Rgba) : Word :=
  BitVec.ofNat 32 (if form = 0 then p.b + p.g * 256 + p.r * 65536 + p.a * 2 ^ 24
    else if second then p.b + p.a * 65536 else p.r + p.g * 65536)

/-- A component as FP32 (R133): FP16 exactly. -/
def compF (form v : Nat) : Word :=
  if form = 0 then ratio v 255 else if form = 1 then ratio v 65535 else halfExact v

/-- GETC's value: the component as FP32, decoded where it is a colour (R133). -/
def getComp (st : Stream) (p : Rgba) (c : Nat) : Word :=
  let x := compF st.form (p.list.getD c 0)
  if c < 3 then decodeTf st.decode x else x

/-- The stream that s[a] names, if the cheque has it. -/
def streamOf (i : MI) (c : Cheque) (v : MintS) : Option Stream := c.streams[(v.s i.a).toNat]?

/-- Before a composition cheque reads a layer whose effect has not settled, the layer becomes transparent (R115). -/
def State.touchStream (s : State) (m op : Nat) : State :=
  match s.current m with
  | some (id, c, some i) => match streamOf i c (s.mint m) with
    | some st => if i.op == op && c.acct.isNone && st.src.effect && st.output.isNone && !st.transparent then s.lateEffect id st.layer c.out else s
    | none => s
  | _ => s

/-- The uncleared cell's components, unset until written. -/
def cellGet (t : List (Nat × Word)) (k : Nat) : Word := Tbl.get (fun _ => unset) t k
def cellSet (t : List (Nat × Word)) (k : Nat) (w : Word) : List (Nat × Word) := Tbl.set (fun _ => unset) t k w

/-- The output form of a cheque: an effect's stream form, or 16-bit components (R135). -/
def outForm (c : Cheque) : Nat := if c.acct.isSome then (match c.streams.head? with | some st => st.form | none => 0) else 1

/-- The position may be written (R135): inside the cell, and for an effect not absent. -/
def mayPut (c : Cheque) (pos : Nat) : Bool :=
  decide (pos < c.w * c.h) && (c.acct.isNone || (match c.streams.head? with | some st => st.present (pos % c.w) (pos / c.w) | none => false))

/-- Component `k` of position `pos` written, if it may be. -/
def putComp (c : Cheque) (v : MintS) (pos k : Nat) (x : Nat) : MintS :=
  if mayPut c pos then { v with cell := cellSet v.cell (4 * pos + k) (BitVec.ofNat 32 x) } else v

/-- A component converted to the output form (R135). -/
def toForm (form : Nat) (x : Word) : Nat :=
  if form = 0 then (fsatV x).scaled 255 else if form = 1 then (fsatV x).scaled 65535 else halfNearest x

/-- A raw element written at a half position. -/
def putElem (c : Cheque) (v : MintS) (half : Nat) (e : Word) : MintS :=
  let n := e.toNat
  let pos := half / 2
  if outForm c = 0 then
    putComp c (putComp c (putComp c (putComp c v pos 2 (n % 256)) pos 1 (n / 256 % 256)) pos 0 (n / 65536 % 256)) pos 3 (n / 2 ^ 24)
  else if half % 2 = 0 then putComp c (putComp c v pos 0 (n % 65536)) pos 1 (n / 65536)
  else putComp c (putComp c v pos 2 (n % 65536)) pos 3 (n / 65536)

end Sys2Proof.Machine
end

