-- ==== Sys2Proof/Machine/MintLanes.lean ====
section
/-! DEFINITION. The lane instructions of the mints (R130, R134), in the opcode table's order. -/

namespace Sys2Proof.Machine

/-- The integer operations (R130). -/
def execIadd (m : MintId) (s : State) : Host.Outcome State Fault Refusal :=
  .next (s.laneOp m.val 0x00 fun i v k => opA i v k + opB i v k)
def execIsub (m : MintId) (s : State) : Host.Outcome State Fault Refusal :=
  .next (s.laneOp m.val 0x01 fun i v k => opA i v k - opB i v k)
def execImul (m : MintId) (s : State) : Host.Outcome State Fault Refusal :=
  .next (s.laneOp m.val 0x02 fun i v k => opA i v k * opB i v k)
def execIand (m : MintId) (s : State) : Host.Outcome State Fault Refusal :=
  .next (s.laneOp m.val 0x03 fun i v k => opA i v k &&& opB i v k)
def execIor (m : MintId) (s : State) : Host.Outcome State Fault Refusal :=
  .next (s.laneOp m.val 0x04 fun i v k => opA i v k ||| opB i v k)

/-- Shifts by b[4:0]. -/
def execShl (m : MintId) (s : State) : Host.Outcome State Fault Refusal :=
  .next (s.laneOp m.val 0x05 fun i v k => opA i v k <<< ((opB i v k).toNat % 32))
def execShr (m : MintId) (s : State) : Host.Outcome State Fault Refusal :=
  .next (s.laneOp m.val 0x06 fun i v k => opA i v k >>> ((opB i v k).toNat % 32))

/-- The FP32 operations (R126, R130). -/
def execFadd (m : MintId) (s : State) : Host.Outcome State Fault Refusal :=
  .next (s.laneOp m.val 0x07 fun i v k => Machine.fadd (opA i v k) (opB i v k))
def execFsub (m : MintId) (s : State) : Host.Outcome State Fault Refusal :=
  .next (s.laneOp m.val 0x08 fun i v k => Machine.fsub (opA i v k) (opB i v k))
def execFmul (m : MintId) (s : State) : Host.Outcome State Fault Refusal :=
  .next (s.laneOp m.val 0x09 fun i v k => Machine.fmul (opA i v k) (opB i v k))
def execFma (m : MintId) (s : State) : Host.Outcome State Fault Refusal :=
  .next (s.laneOp m.val 0x0A fun i v k => Machine.fma (opA i v k) (opB3 i v k) (opC3 i v k))
def execFmin (m : MintId) (s : State) : Host.Outcome State Fault Refusal :=
  .next (s.laneOp m.val 0x0B fun i v k => Machine.fmin (opA i v k) (opB i v k))
def execFmax (m : MintId) (s : State) : Host.Outcome State Fault Refusal :=
  .next (s.laneOp m.val 0x0C fun i v k => Machine.fmax (opA i v k) (opB i v k))
def execFsat (m : MintId) (s : State) : Host.Outcome State Fault Refusal :=
  .next (s.laneOp m.val 0x0D fun i v k => Machine.fsat (opA1 i v k))
def execFrcp (m : MintId) (s : State) : Host.Outcome State Fault Refusal :=
  .next (s.laneOp m.val 0x0E fun i v k => Machine.frcp (opA1 i v k))

/-- FBLD: d ← a × c + d × (1 − b × c). -/
def execFbld (m : MintId) (s : State) : Host.Outcome State Fault Refusal :=
  .next (s.laneOp m.val 0x0F fun i v k => Machine.fbld (opA i v k) (opB3 i v k) (opC3 i v k) (v.v i.d k))

/-- The positions of the current group of a stream (R133). -/
def groupPos (v : MintS) (n k : Nat) : Nat := v.sp n / 2 + k

/-- The values of a stream's current group: none while data of a position that counts is not present. -/
def State.groupAt (s : State) (c : Cheque) (st : Stream) (v : MintS) (n : Nat) (ks : List Nat) : Got (List (Option Rgba)) :=
  Got.all (ks.map fun k => s.at c st (groupPos v n k))

/-- BLD (R134): component c of the stream's current group blended into d by the stream's mode. -/
def execBld (m : MintId) (s : State) : Host.Outcome State Fault Refusal :=
  let s := s.touchStream m.val 0x10
  .next (s.runOp m.val 0x10 fun i c v =>
    match streamOf i c v with
    | none => .bad
    | some st =>
      match s.groupAt c st v (v.s i.a).toNat (v.active i) with
      | .val ps =>
        let pairs := (v.active i).zip ps
        .go (pairs.foldl (fun (t : MintS) e => match e.2 with
          | some p => t.setV i.d e.1 (bldAt st.mode (getComp st p i.c) (compF st.form p.a) (v.v i.d e.1) st.alpha)
          | none => t) v)
      | _ => .wait)

/-- HFMA on both halves. -/
def execHfma (m : MintId) (s : State) : Host.Outcome State Fault Refusal :=
  .next (s.laneOp m.val 0x11 fun i v k => Machine.hfma (opA i v k) (opB3 i v k) (opC3 i v k))

/-- The conversions (R130). -/
def execCvtif (m : MintId) (s : State) : Host.Outcome State Fault Refusal :=
  .next (s.laneOp m.val 0x12 fun i v k => Machine.cvtif (opA1 i v k))
def execCvtfi (m : MintId) (s : State) : Host.Outcome State Fault Refusal :=
  .next (s.laneOp m.val 0x13 fun i v k => Machine.cvtfi (opA1 i v k))
def execCvthf (m : MintId) (s : State) : Host.Outcome State Fault Refusal :=
  .next (s.laneOp m.val 0x14 fun i v k => cvthf (opA1 i v k) (i.c == 1))
def execCvtfh (m : MintId) (s : State) : Host.Outcome State Fault Refusal :=
  .next (s.laneOp m.val 0x15 fun i v k => BitVec.ofNat 32 (toHalf (opA i v k) + 65536 * toHalf (opB i v k)))
def execUnpk8 (m : MintId) (s : State) : Host.Outcome State Fault Refusal :=
  .next (s.laneOp m.val 0x16 fun i v k => ratio ((opA1 i v k).toNat / 2 ^ (8 * i.c) % 256) 255)

/-- PACK8: byte c of d ← round half up(FSAT(a) × 255); the other bytes stay. -/
def execPack8 (m : MintId) (s : State) : Host.Outcome State Fault Refusal :=
  .next (s.laneOp m.val 0x17 fun i v k => Fld.put ⟨0, 0, 8 * i.c + 7, 8 * i.c⟩ (v.v i.d k) ((fsatV (opA1 i v k)).scaled 255))

/-- A condition code on a comparison: eq, lt, le, ne; an unordered pair is only unequal (R126, R130). -/
def condHolds (c : Nat) (o : Option Ordering) : Bool :=
  match c with
  | 0 => o == some .eq
  | 1 => o == some .lt
  | 2 => o == some .lt || o == some .eq
  | _ => o != some .eq

/-- A compare into predicate d: the active elements' bits take the outcome, the others stay. -/
def State.cmpOp (s : State) (m op : Nat) (f : Word → Word → Option Ordering) : State :=
  s.runOp m op fun i _ v =>
    .go (v.setP i.d (BitVec.ofNat 32 ((v.active i).foldl (fun n k => setBit n k (condHolds i.c (f (opA i v k) (opB i v k))))
      (v.p i.d).toNat)))

def execFcmp (m : MintId) (s : State) : Host.Outcome State Fault Refusal :=
  .next (s.cmpOp m.val 0x18 fun a b => (fv a).cmp (fv b))
def execIcmp (m : MintId) (s : State) : Host.Outcome State Fault Refusal :=
  .next (s.cmpOp m.val 0x19 fun a b => some (compare a.toInt b.toInt))

/-- SEL: a where predicate c is 1, else b. -/
def execSel (m : MintId) (s : State) : Host.Outcome State Fault Refusal :=
  .next (s.laneOp m.val 0x1A fun i v k => if (v.p i.c).getLsbD k then opA i v k else opB i v k)

/-- LUT: the word at s[c] + 4 × a, modulo 2^32 (log 117); a word outside the store or misaligned is an illegal access (R136). -/
def execLut (m : MintId) (s : State) : Host.Outcome State Fault Refusal :=
  .next (s.runOp m.val 0x1B fun i _ v =>
    let at_ := fun k => ((v.s i.c).toNat + 4 * (opA i v k).toNat) % 2 ^ 32
    if (v.active i).all fun k => storeOk (at_ k) 4 4 false then .go (v.lanes i fun k => v.word (at_ k)) else .bad)

/-- LUTF: interpolation over the 2^b + 1 entries at s[c]. The entries that the active elements read lie inside the store and are
aligned (R136), their addresses modulo 2^32 (log 117); an element outside 0 to 1 reads none. -/
def execLutf (m : MintId) (s : State) : Host.Outcome State Fault Refusal :=
  .next (s.runOp m.val 0x1C fun i _ v =>
    let at_ := fun (j : Nat) => ((v.s i.c).toNat + 4 * j) % 2 ^ 32
    let after := fun (j : Nat) => if j = 2 ^ i.b then j else j + 1
    let ok := fun k => match lutIndex (opA i v k) i.b with
      | some j => storeOk (at_ j) 4 4 false && storeOk (at_ (after j)) 4 4 false
      | none => true
    if (v.active i).all ok then
      .go (v.lanes i fun k =>
        let j := (lutIndex (opA i v k) i.b).getD 0
        lutfAt (opA i v k) (v.word (at_ j)) (v.word (at_ (after j))) i.b)
    else .bad)

/-- MOV: a group, or a scalar broadcast. -/
def execMov (m : MintId) (s : State) : Host.Outcome State Fault Refusal :=
  .next (s.laneOp m.val 0x1D fun i v k => opA1 i v k)

end Sys2Proof.Machine
end

