-- ==== Sys2Proof/Machine/Blend.lean ====
section
/-! DEFINITION. What the composition routine computes (R113, R114): the conversion of a layer's pixels into blend space, the blend of
the listed layers, and the pixels that a cell publishes. -/

namespace Sys2Proof.Machine

/-- The curve of a layer (R75) as a code of OUT_CMP_BLEND.enc: 0 sRGB, 1 BT.1886, 2 PQ, 3 HLG; 4 linear. -/
def curveOf (cs tf : Nat) : Nat :=
  if tf = 0 then (if cs = 0 then 0 else 1) else if tf = 1 then 2 else if tf = 2 then 3 else 4

/-- What 1.0 of a PQ or HLG encoding stands for, in cd/m². -/
def fullLight (enc : Nat) : Nat := if enc = 2 then 10000 else 1000

/-- The colour of a layer in the blend space of `blend`, the word of OUT_CMP_BLEND (R113). A layer that has the space's own encoding
and primaries needs no conversion. Step 3 scales an SDR layer alone: PQ and HLG light keeps its own scale in every space, which is
the model's reading where their 1.0 differs from the space's (log 116). -/
def toBlend (blend : Word) (cs tf : Nat) (v : List Word) : List Word :=
  let space := OUT_CMP_BLEND_space.get blend
  let enc := OUT_CMP_BLEND_enc.get blend
  let prim := OUT_CMP_BLEND_prim.get blend
  let curve := curveOf cs tf
  let src := if cs = 2 then 1 else 0
  if space = 0 ∧ curve = enc ∧ src = prim ∧ (enc < 2 ∨ tf ≠ 0) then v.map fsat
  else
    let v := toPrimaries src prim (decodeLight curve v)
    let v := if 2 ≤ enc ∧ (tf = 0 ∨ tf = 3) then v.map (fmul (ratio (OUT_CMP_BLEND_sdr_white.get blend) (fullLight enc))) else v
    let v := v.map fsat
    if space = 0 then encodeLight enc v else v

/-- One layer blended into the pixel `d` (R114): `p` its pixel as read, none where it is not visible or not there. -/
def blendLayer (blend : Word) (st : Stream) (d : List Word) (p : Option Rgba) : List Word :=
  match p with
  | none => d
  | some p =>
    let c := toBlend blend st.src.cs st.src.tf ((List.range 3).map fun k => compF st.form (p.list.getD k 0))
    let a := compF st.form p.a
    (List.range 3).map fun k => bldAt st.mode (c.getD k 0) a (d.getD k 0) st.alpha

/-- The composed pixel at a position of a cheque's cell (R114): the listed layers over the background, each component as a 16-bit
fraction. Waiting while a layer's data is not there yet. -/
def State.composedAt (s : State) (c : Cheque) (v : MintS) (pos : Nat) : Got (List Nat) :=
  (Got.all (c.streams.map fun st => s.at c st pos)).map fun ps =>
    ((c.streams.zip ps).foldl (fun d e => blendLayer (v.word 12) e.1 d e.2) [v.word 0, v.word 4, v.word 8]).map (toForm 1)

/-- The components of a composed cell, by 4 × position + component. -/
def State.composed (s : State) (c : Cheque) (v : MintS) : Got (List (Nat × Word)) :=
  (Got.all ((List.range (c.w * c.h)).map (s.composedAt c v))).map fun cells =>
    cells.zipIdx.foldl (fun t e => e.1.zipIdx.foldl (fun t x => cellSet t (4 * e.2 + x.2) (BitVec.ofNat 32 x.1)) t) []

end Sys2Proof.Machine
end

