-- ==== Sys2Proof/Machine/LineStore.lean ====
section
/-! DEFINITION. The press line stores (R24, R101, R102, R115): the slots of a stream's data in a cell, those in use of a press's 32,
and when a further one may be opened. -/

namespace Sys2Proof.Machine

/-- The destination part of a layer in a stream's cell. -/
def Stream.part (st : Stream) (c : Cheque) : Rect := ⟨c.x + st.x0, c.x + st.xe, c.y + st.y0, c.y + st.ye⟩

/-- The line-store slots of a stream's data in a cell of `w` × `h`. -/
def Stream.slots (st : Stream) (w h : Nat) : Nat := cdiv (w * h) st.span

/-- The lines and columns of a cell at (`x`, `y`) that slot `k` of a stream holds, in raster order of its positions. -/
def Stream.slotRect (st : Stream) (x y w h k : Nat) : Rect :=
  let p := k * st.span
  let e := min (w * h) (p + st.span) - 1
  if p / w = e / w then ⟨x + p % w, x + e % w + 1, y + p / w, y + p / w + 1⟩ else ⟨x, x + w, y + p / w, y + e / w + 1⟩

/-- Slot `k` of a stream holds visible positions. -/
def Stream.slotUsed (st : Stream) (c : Cheque) (k : Nat) : Bool := !((st.slotRect c.x c.y c.w c.h k).inter (st.part c)).empty

/-- A mint stands at the SETTLE of a composition cheque and has written nothing: the routine's reads of every stream go with it, and
each slot is consumed as it fills (R114, R137). -/
def State.readsAll (s : State) (m : Nat) : Bool :=
  match s.current m with
  | some (_, c, some i) => i.op == 0x3F && c.acct.isNone && (s.mint m).cell.isEmpty
  | _ => false

/-- The slots of stream number `i` that the mint of press `p` with cheque `id` has consumed, of `n` (R101). -/
def State.consumed (s : State) (id p i span n : Nat) : Nat :=
  match ((List.range 8).map (· + 8 * p)).find? fun m => (s.mint m).cheque == some id with
  | some m => if s.readsAll m then n else min n (NatTbl.at_ (s.mint m).spos i / 2 / span)
  | none => 0

/-- The number of a stream in its cheque's list. -/
def Cheque.index (c : Cheque) (st : Stream) : Nat := (c.streams.findIdx? fun x => x.layer == st.layer).getD 0

/-- The opened slots of a stream's fetched data that its reader has consumed: the effect cheque of a layer with an effect, whose
output or absence frees them all, else the composition cheque. -/
def State.freed (s : State) (id : Nat) (c : Cheque) (st : Stream) : Nat :=
  if st.transparent || st.output.isSome then st.opened
  else if st.src.effect then (match st.effect with | some e => s.consumed e st.press 0 st.span st.opened | none => 0)
  else s.consumed id c.press (c.index st) st.span st.opened

/-- Whether streams of a cheque fill together: all of a normal cell; of a racing cell those from DRAM, prefetched (R24), and those
read at its instant (R183) apart. -/
def Cheque.mates (c : Cheque) (st x : Stream) : Bool :=
  x.press == st.press && (!c.racing || (x.src.kind == 0) == (st.src.kind == 0))

/-- Some stream that fills together with `st` has data in the line store. -/
def Cheque.begun (c : Cheque) (st : Stream) : Bool := c.streams.any fun x => c.mates st x && x.opened != 0

/-- The slots of its press's line store that a stream's fetched data holds (R101): those opened and not consumed, and one at least
from the first fetch of its mates until all are consumed. -/
def State.fetchedHeld (s : State) (id : Nat) (c : Cheque) (st : Stream) : Nat :=
  let freed := s.freed id c st
  if !c.begun st || (st.slots c.w c.h ≤ freed) || st.transparent || st.output.isSome then 0
  else max 1 (((List.range st.opened).drop freed).countP fun k => st.slotUsed c k)

/-- The slots of the output press's line store that an effect's published data holds until the composition has consumed it
(R115). -/
def State.publishedHeld (s : State) (id : Nat) (c : Cheque) (st : Stream) : Nat :=
  if st.output.isNone || st.transparent then 0
  else st.slots c.w c.h - s.consumed id c.press (c.index st) st.span (st.slots c.w c.h)

/-- The slots that a stream of a composition cheque holds in the line store of press `p`. -/
def State.slotsHeld (s : State) (p id : Nat) (c : Cheque) (st : Stream) : Nat :=
  (if st.press = p then s.fetchedHeld id c st else 0) + (if c.press = p then s.publishedHeld id c st else 0)

/-- The composition cheques, by number. -/
def State.cells (s : State) : List (Nat × Cheque) :=
  s.cheques.filterMap fun e => match e.2 with | some c => if c.acct.isNone then some (e.1, c) else none | none => none

/-- The slots in use of a press's line store. -/
def State.storeUsed (s : State) (p : Nat) : Nat :=
  s.cells.foldl (fun n e => e.2.streams.foldl (fun n st => n + s.slotsHeld p e.1 e.2 st) n) 0

/-- The slots that hold prefetched DRAM data of output `g` in racing mode, which take at most half of its line stores (R102). -/
def State.prefetched (s : State) (g : Nat) : Nat :=
  (s.cells.filter fun e => e.2.racing && e.2.out == g).foldl (fun n e =>
    (e.2.streams.filter fun st => st.src.kind == 0).foldl (fun n st => n + s.fetchedHeld e.1 e.2 st) n) 0

/-- A stream may open a further slot of the 32 of its press's line store (R101). The streams that fill together begin with one slot
each, so that the cheque can go on whatever the order in which its routine reads them; a prefetch leaves room for the
cell's other streams, and keeps to half of the output's stores (R102). -/
def State.mayOpen (s : State) (id : Nat) (c : Cheque) (st : Stream) : Bool :=
  let used := s.storeUsed st.press
  let pre := c.racing && st.src.kind == 0
  let half := 16 * s.rd (outPage c.out 2) OUT_CMP_ASSIGNED_count
  if !st.slotUsed c st.opened then true
  else if c.begun st then st.opened ≤ s.freed id c st || (used < 32 && (!pre || s.prefetched c.out < half))
  else
    let n := c.streams.countP fun x => c.mates st x
    let rest := if pre then c.streams.countP fun x => x.press == st.press && x.src.kind != 0 else 0
    used == 0 || (used + n + rest ≤ 32 && (!pre || s.prefetched c.out + n ≤ half))

/-- The output press's line store has room for the output that the effect cheque `c` publishes (R115). -/
def State.effectRoom (s : State) (c : Cheque) : Bool :=
  match s.cheque c.parent, c.streams.head? with
  | some p, some st => match p.streams.find? (·.layer == st.layer) with
    | some x => x.transparent || s.storeUsed p.press + x.slots p.w p.h ≤ 32
    | none => true
  | _, _ => true

end Sys2Proof.Machine
end

