-- ==== Sys2Proof/Machine/MintCells.lean ====
section
/-! DEFINITION. The scalar, cell I/O, immediate, memory and control instructions of the mints (R130, R133, R135 to R137). -/

namespace Sys2Proof.Machine

/-- A scalar instruction: s[d] becomes `f` of the instruction and the mint. -/
def State.scalarOp (s : State) (m op : Nat) (f : MI → MintS → Word) : State :=
  s.runOp m op fun i _ v => .go (v.setS i.d (f i v))

def execSadd (m : MintId) (s : State) : Host.Outcome State Fault Refusal :=
  .next (s.scalarOp m.val 0x20 fun i v => v.s i.a + v.s i.b)
def execSmul (m : MintId) (s : State) : Host.Outcome State Fault Refusal :=
  .next (s.scalarOp m.val 0x21 fun i v => v.s i.a * v.s i.b)
def execLane (m : MintId) (s : State) : Host.Outcome State Fault Refusal :=
  .next (s.scalarOp m.val 0x22 fun i v => opA1 i v i.c)

/-- GET (R133): the next 4 × VL raw elements of a stream; the stream advances past them. -/
def execGet (m : MintId) (s : State) : Host.Outcome State Fault Refusal :=
  let s := s.touchStream m.val 0x23
  .next (s.runOp m.val 0x23 fun i c v =>
    match streamOf i c v with
    | none => .bad
    | some st =>
      let n := (v.s i.a).toNat
      let step := elemStep st.form
      match Got.all (v.elems.map fun k => s.at c st ((v.sp n + step * k) / 2)) with
      | .val ps =>
        let w := (v.elems.zip ps).foldl (fun (t : MintS) e => t.setV i.d e.1 (match e.2 with
          | some p => rawElem st.form ((v.sp n + step * e.1) % 2 == 1) p
          | none => 0)) v
        .go (w.setSp n (v.sp n + step * (4 * v.vl)))
      | _ => .wait)

/-- GETC (R133): one component of the current group as FP32, with the descriptor's decode. -/
def execGetc (m : MintId) (s : State) : Host.Outcome State Fault Refusal :=
  let s := s.touchStream m.val 0x24
  .next (s.runOp m.val 0x24 fun i c v =>
    match streamOf i c v with
    | none => .bad
    | some st =>
      match s.groupAt c st v (v.s i.a).toNat v.elems with
      | .val ps => .go ((v.elems.zip ps).foldl (fun (t : MintS) e => t.setV i.d e.1 (match e.2 with
          | some p => getComp st p i.c
          | none => 0)) v)
      | _ => .wait)

/-- The output group lies wholly past the cell's last position (R135). -/
def outPast (c : Cheque) (v : MintS) : Bool := decide (c.w * c.h ≤ v.opos / 2)

/-- PUT (R135): 4 × VL raw elements appended to the output. -/
def execPut (m : MintId) (s : State) : Host.Outcome State Fault Refusal :=
  .next (s.runOp m.val 0x25 fun i c v =>
    if outPast c v then .bad
    else
      let step := elemStep (outForm c)
      let w := v.elems.foldl (fun (t : MintS) k => putElem c t (v.opos + step * k) (opA1 i v k)) v
      .go { w with opos := v.opos + step * (4 * v.vl) })

/-- PUTC (R135): one component of the current output group, converted to the output form. -/
def execPutc (m : MintId) (s : State) : Host.Outcome State Fault Refusal :=
  .next (s.runOp m.val 0x26 fun i c v =>
    if outPast c v then .bad
    else .go (v.elems.foldl (fun (t : MintS) k => putComp c t (v.opos / 2 + k) i.c (toForm (outForm c) (opA1 i v k))) v))

/-- NEXT and NEXTO: 4 × VL positions on. -/
def execNext (m : MintId) (s : State) : Host.Outcome State Fault Refusal :=
  .next (s.runOp m.val 0x27 fun i c v =>
    match streamOf i c v with
    | none => .bad
    | some _ => let n := (v.s i.a).toNat; .go (v.setSp n (v.sp n + 8 * v.vl)))
def execNexto (m : MintId) (s : State) : Host.Outcome State Fault Refusal :=
  .next (s.runOp m.val 0x28 fun _ _ v => .go { v with opos := v.opos + 8 * v.vl })

/-- The immediate instructions. -/
def signExt (imm : Nat) : Word := (BitVec.ofNat 16 imm).signExtend 32
def execSmovi (m : MintId) (s : State) : Host.Outcome State Fault Refusal :=
  .next (s.scalarOp m.val 0x30 fun i _ => signExt i.imm)
def execSaddi (m : MintId) (s : State) : Host.Outcome State Fault Refusal :=
  .next (s.scalarOp m.val 0x31 fun i v => v.s i.d + signExt i.imm)
def execMovh (m : MintId) (s : State) : Host.Outcome State Fault Refusal :=
  .next (s.runOp m.val 0x32 fun i _ v =>
    .go (v.elems.foldl (fun (t : MintS) k => t.setV i.d k (cvthf (BitVec.ofNat 32 i.imm) false)) v))
def execSetvl (m : MintId) (s : State) : Host.Outcome State Fault Refusal :=
  .next (s.runOp m.val 0x33 fun i _ v => .go { v with vl := i.imm })

/-- The memory instructions (R127, R129, R136). -/
def execLdv (m : MintId) (s : State) : Host.Outcome State Fault Refusal :=
  .next (s.runOp m.val 0x38 fun i _ v =>
    if storeOk (v.addr i) (16 * v.vl) 16 false then
      .go (v.elems.foldl (fun (t : MintS) k => t.setV i.d k (v.word (v.addr i + 4 * k))) v)
    else .bad)
def execStv (m : MintId) (s : State) : Host.Outcome State Fault Refusal :=
  .next (s.runOp m.val 0x39 fun i _ v =>
    if storeOk (v.addr i) (16 * v.vl) 16 true then
      .go (v.elems.foldl (fun (t : MintS) k => t.setWord (v.addr i + 4 * k) (v.v i.d k)) v)
    else .bad)
def execLds (m : MintId) (s : State) : Host.Outcome State Fault Refusal :=
  .next (s.runOp m.val 0x3A fun i _ v =>
    if storeOk (v.addr i) 4 4 false then .go (v.setS i.d (v.word (v.addr i))) else .bad)
def execSts (m : MintId) (s : State) : Host.Outcome State Fault Refusal :=
  .next (s.runOp m.val 0x3B fun i _ v =>
    if storeOk (v.addr i) 4 4 true then .go (v.setWord (v.addr i) (v.s i.d)) else .bad)

/-- The control instructions: a target outside the loaded routine is illegal, taken or not (R136). -/
def State.controlOp (s : State) (m op : Nat) (taken : MI → MintS → Bool) (eff : MI → MintS → MintS) : State :=
  s.runOp m op fun i _ v =>
    if v.codeLen ≤ i.target then .bad else if taken i v then .jump (eff i v) i.target else .go (eff i v)

def execBr (m : MintId) (s : State) : Host.Outcome State Fault Refusal :=
  .next (s.controlOp m.val 0x3C (fun i v => !i.pe || v.p i.p != 0) fun _ v => v)
def execBrn (m : MintId) (s : State) : Host.Outcome State Fault Refusal :=
  .next (s.controlOp m.val 0x3D (fun i v => v.p i.p == 0) fun _ v => v)
def execLoop (m : MintId) (s : State) : Host.Outcome State Fault Refusal :=
  .next (s.controlOp m.val 0x3E (fun i v => v.s i.d - 1 != 0) fun i v => v.setS i.d (v.s i.d - 1))

/-- An effect's output published into its parent's stream (R115, R137), unless the layer is transparent there already. -/
def State.publishEffect (s : State) (c : Cheque) (cell : List (Nat × Word)) : State :=
  match s.cheque c.parent, c.streams.head? with
  | some p, some st => s.setCheque c.parent (some { p with streams := p.streams.map fun (x : Stream) =>
      if x.layer = st.layer ∧ !x.transparent then { x with output := some cell } else x })
  | _, _ => s

/-- The cheque that mint `m`'s next instruction settles (R136, R137): a SETTLE within the limits, its output group past the
cell's last position. -/
def State.settling (s : State) (m : Nat) : Option (Nat × Cheque) :=
  match s.current m with
  | some (id, c, some i) => if i.op == 0x3F && !overLimit (s.mint m) c i && outPast c (s.mint m) then some (id, c) else none
  | _ => none

/-- The composition routine reads every listed layer: one whose effect has not settled becomes transparent (R115). -/
def State.touchSettle (s : State) (m : Nat) : State :=
  match s.settling m with
  | some (id, c) =>
    if c.acct.isSome then s
    else c.streams.foldl (fun (t : State) st =>
      if st.src.effect && st.output.isNone && !st.transparent then t.lateEffect id st.layer c.out else t) s
  | none => s

/-- The cell that a composition cheque publishes: its buffer as the routine's PUTC and PUT have written it, an unwritten component 0
(R135), or, where the library's routine wrote none, what R113 and R114 give (log 35). -/
def State.settled (s : State) (c : Cheque) (v : MintS) : Got (List (Nat × Word)) :=
  if v.cell.isEmpty then s.composed c v else .val v.cell

/-- A SETTLE must wait: a composition cheque for the data that it composes, an effect cheque for room in the line store of the
output press (R115, R133). -/
def State.settleWaits (s : State) (c : Cheque) (v : MintS) : Bool :=
  if c.acct.isSome then !s.effectRoom c else match s.settled c v with | .wait => true | _ => false

/-- SETTLE (R137): an effect cheque ends and publishes, once the output press's line store has room (R115); a composition cheque is
settled with its cell and waits for its place in the FIFO (R177). A cheque whose output group has not passed the last position is
bounced (R136). -/
def execSettle (m : MintId) (s : State) : Host.Outcome State Fault Refusal :=
  let s := s.touchSettle m.val
  let t := s.runOp m.val 0x3F fun _ c v =>
    if !outPast c v then .bad
    else if s.settleWaits c v then .wait
    else if c.acct.isSome then .go { v with phase := .settled }
    else match s.settled c v with
      | .val cell => .go { v with phase := .settled, cell := cell }
      | _ => .wait
  .next (match s.settling m.val with
    | none => t
    | some (id, c) =>
      if c.acct.isSome && (t.mint m.val).phase == .settled then
        (((t.publishEffect c (s.mint m.val).cell).dropRecord id).count (pressPage (m.val / 8)) 0).leaveMint m.val
      else t)

/-! Stuck mints. -/

/-- The next instruction of mint `m` reads line-store data that is not yet present (R133): the mint waits on its handshake. -/
def State.atWait (s : State) (m : Nat) : Bool :=
  match s.current m with
  | some (_, c, some i) =>
    let v := s.mint m
    let waits := fun (st : Stream) (ps : List Nat) => match Got.all (ps.map fun k => s.at c st k) with | .wait => true | _ => false
    if i.op = 0x3F then s.settleWaits c v
    else match streamOf i c v with
    | none => false
    | some st =>
      let n := (v.s i.a).toNat
      if i.op = 0x23 then waits st (v.elems.map fun k => (v.sp n + elemStep st.form * k) / 2)
      else if i.op = 0x24 then waits st (v.elems.map (groupPos v n))
      else if i.op = 0x10 then waits st ((v.active i).map (groupPos v n)) else false
  | _ => false

/-- Data arrived for cheque `id`: for a mint that waited the time without a retired instruction starts again (R146). -/
def State.endWaits (s before : State) (id press : Nat) : State :=
  (List.range 8).foldl (fun (t : State) j =>
    let m := 8 * press + j
    if (t.mint m).cheque = some id && before.atWait m then t.setMint m { t.mint m with lastAt := t.now } else t) s

/-- A mint is stuck (R146): running, not at a cell I/O wait, and no instruction retired for 100 µs since its last one or since
its last wait ended. -/
def State.isStuck (s : State) (m : Nat) : Bool :=
  let v := s.mint m
  v.phase == .running && !s.atWait m && decide (v.lastAt + 100000 ≤ s.now)

/-- MINT_STUCK (R146), which is the condition of a timeout on the channel between a dispatcher and a mint (R44): it raises what
R146 names, and no HS_TIMEOUT of the exchange page beside it (log entry 104). -/
def execMintStuck (m : MintId) (s : State) : Host.Outcome State Fault Refusal :=
  .next (
    if !s.isStuck m.val then s
    else match (s.mint m.val).cheque with
      | none => s
      | some id =>
        let m := m.val
        let p := m / 8
        let again := match s.cheque id with | some c => c.again | none => true
        let st := s.rd (pressPage p) MNT_P_MINT_STATE
        let s := s.hwChange (fkey (pressPage p) MNT_P_MINT_STATE 0)
          (BitVec.ofNat 32 (setBit (setBit (setBit st (8 + m % 8) true) (16 + m % 8) true) (24 + m % 8) false))
        let s := (s.wr (mintBranch m) ⟨0x084, 4, m % 32, m % 32⟩ 1).wr (mintBranch m) ⟨0x088, 4, m % 32, m % 32⟩ 0
        let s := s.setMint m { (s.mint m).leave s.now with retiring := false, slowRun := 0 }
        let s := if again then s.bounceCheque id
          else match s.cheque id with
            | some c => ((s.setCheque id (some { c with again := true })).setPress p (id :: s.press p)).count (pressPage p) 2
            | none => s
        (((s.syncPress p).fault (pressPage p) 1).raise (mintBranch m) 1).syncNoMint p)

end Sys2Proof.Machine
end

