-- ==== Sys2Proof/Machine/Checks.lean ====
section
/-! DEFINITION. The check-value units (R327 to R332): sampling at a frame start, feeding units of data, comparing, and
the end of a frame. -/

namespace Sys2Proof.Machine

/-- A sampled setting of a unit. -/
def CheckS.get (c : CheckS) (f : Fld) (i : Nat := 0) : Nat :=
  match c.live.find? (·.1 == (f.off + i * f.stride) / 4) with | some e => f.get e.2 | none => 0

/-- The offsets that a unit samples: its control and block registers and, per window, CTRL, XY, WH and EXP0 to EXP3. -/
def chkSampled : List Nat :=
  [CHK_CTRL.off, CHK_BLOCK.off] ++ (List.range 16).flatMap fun i =>
    [0x100, 0x104, 0x108, 0x110, 0x114, 0x118, 0x11C].map (· + 0x40 * i)

/-- The snoop point that a unit serves in the present frame. -/
def State.chkPoint (s : State) (n : Nat) : Option Nat :=
  if (s.check n).active then some ((s.check n).get CHK_CTRL_point) else none

/-- The enabled windows of a unit. -/
def CheckS.windows (c : CheckS) : List Nat := (List.range 16).filter fun i => c.get CHK_WIN_CTRL_en i == 1

/-- A mask of a list of bits. -/
def maskOf (l : List Nat) : Nat := l.foldl (fun n i => setBit n i true) 0

/-- The end of a unit's frame (R331): enabled windows that did not complete are incomplete and counted. -/
def State.chkEnd (s : State) (n : Nat) : State :=
  let c := s.check n
  if !c.active then s
  else
    let p := chkPage n
    let (full, inc) := c.windows.partition fun i => c.done.testBit i
    let s := (s.wr p CHK_RESULT_incomplete (maskOf inc)).wr p CHK_RESULT_mismatch
      (maskOf (full.filter fun i => (s.rd p CHK_RESULT_mismatch).testBit i))
    let s := (s.count p 2 inc.length).wr p CHK_STATUS_frames ((s.rd p CHK_STATUS_frames + 1) % 65536)
    s.setCheck n { c with resume := false, done := 0, seeded := 0, spoiled := 0, period := 0 }

/-- The start of a frame at a unit (R329, R330): its registers are sampled; a unit newly enabled with resume continues
from CHK_WINi_RUN in this frame. A unit that has sampled before keeps its samples until it is found disabled. -/
def State.chkStart (s : State) (n : Nat) : State :=
  let p := chkPage n
  let on := s.rd p CHK_CTRL_en == 1
  let was := !(s.check n).live.isEmpty
  let live := (chkSampled.map fun o => (o / 4, s.reg (regKey p o))).filter fun e => e.2 != 0
  (s.setCheck n (if on then ⟨live, true, 0, 0, 0, 0, !was && s.rd p CHK_CTRL_resume == 1⟩ else CheckS.zero)).wr p CHK_STATUS_active (b2n on)

/-- A frame starts at point `pt` for unit `n`: a unit set to the point samples its registers; one that has served it and is set to another
point leaves it, and waits for a frame start there (R330). -/
def State.chkSample (s : State) (pt n : Nat) : State :=
  if s.rd (chkPage n) CHK_CTRL_point = pt then
    if s.rd (chkPage n) CHK_CTRL_en = 1 ∨ !(s.check n).live.isEmpty then s.chkStart n else s
  else if s.chkPoint n = some pt then
    if s.rd (chkPage n) CHK_CTRL_en = 0 then s.chkStart n
    else (s.setCheck n { CheckS.zero with live := (s.check n).live }).wr (chkPage n) CHK_STATUS_active 0
  else s

/-- A frame starts at point `pt`. -/
def State.chkFrameStart (s : State) (pt : Nat) : State := (List.range 16).foldl (fun (t : State) n => t.chkSample pt n) s

/-- A frame ends at point `pt`. -/
def State.chkFrameEnd (s : State) (pt : Nat) : State :=
  (List.range 16).foldl (fun (t : State) n => if t.chkPoint n = some pt then t.chkEnd n else t) s

/-- Window `i` of a unit holds the unit of data at column `x` (none: the columns are ignored) and line `y`. -/
def CheckS.holds (c : CheckS) (i : Nat) (x : Option Nat) (y : Nat) : Bool :=
  let y0 := c.get CHK_WIN_XY_y i
  decide (y0 ≤ y ∧ y ≤ y0 + c.get CHK_WIN_WH_h_m1 i) && (match x with
    | none => true
    | some x => decide (c.get CHK_WIN_XY_x i ≤ x ∧ x ≤ c.get CHK_WIN_XY_x i + c.get CHK_WIN_WH_w_m1 i))

/-- The unit of data is the window's last. -/
def CheckS.last (c : CheckS) (i : Nat) (x : Option Nat) (y : Nat) : Bool :=
  y == c.get CHK_WIN_XY_y i + c.get CHK_WIN_WH_h_m1 i && (match x with
    | none => true | some x => x == c.get CHK_WIN_XY_x i + c.get CHK_WIN_WH_w_m1 i)

/-- The compare of a window (R331), its value inverted by an injection at the unit's compare check (R325); a spoiled
window, or one that meets CK_PARITY, is not compared. -/
def State.chkCompare (s : State) (n i : Nat) : State :=
  let p := chkPage n
  let (s, par) := s.useInject p 1
  let s := if par.isSome then s.fault p 1 else s
  let c := s.check n
  if par.isSome || c.spoiled.testBit i then s
  else
    let code := c.get CHK_CTRL_poly
    let w := (chkPoly code).2
    let (s, inv) := s.useInject p 0
    let run := s.rd p CHK_WIN_RUN i % 2 ^ w
    let v := if inv.isSome then 2 ^ w - 1 - run else run
    let hit := (List.range 4).find? fun j =>
      (c.get CHK_WIN_CTRL_exp_valid i).testBit j && c.get ⟨0x110 + 4 * j, 0x40, 31, 0⟩ i % 2 ^ w == v
    let s := ((s.wr p CHK_WIN_LAST v i).setCheck n { c with done := setBit c.done i true }).count p 0
    match hit with
    | some j => ((s.wr p CHK_WIN_MATCH_index j i).wr p CHK_WIN_MATCH_matched 1 i).wr p CHK_RESULT_mismatch
        (setBit (s.rd p CHK_RESULT_mismatch) i false)
    | none =>
      let s := ((s.wr p CHK_WIN_MATCH_index 0 i).wr p CHK_WIN_MATCH_matched 0 i).wr p CHK_RESULT_mismatch
        (setBit (s.rd p CHK_RESULT_mismatch) i true)
      ((s.count p 1).fault p 0).raise p 0

/-- A unit of data fed to window `i` of unit `n` (R329). -/
def State.chkWindow (s : State) (n i : Nat) (x : Option Nat) (y : Nat) (bs : List Nat) : State :=
  let p := chkPage n
  let c := s.check n
  let code := c.get CHK_CTRL_poly
  let run := if c.seeded.testBit i || c.resume then s.rd p CHK_WIN_RUN i else chkSeed code
  let s := (s.wr p CHK_WIN_RUN (chkBytes code run bs) i).setCheck n { c with seeded := setBit c.seeded i true }
  if c.last i x y then s.chkCompare n i else s

/-- A unit of data at a point: fed to each window of each unit there that holds it. -/
def State.chkFeed (s : State) (pt : Nat) (x : Option Nat) (y : Nat) (bs : List Nat) : State :=
  (List.range 16).foldl (fun (t : State) n =>
    if t.chkPoint n = some pt then
      ((t.check n).windows.filter fun i => (t.check n).holds i x y).foldl (fun (t : State) i => t.chkWindow n i x y bs) t
    else t) s

/-- A line that does not reach a point (a dropped capture line): the windows that hold it do not complete (R328). -/
def State.chkSpoil (s : State) (pt y : Nat) : State :=
  (List.range 16).foldl (fun (t : State) n =>
    if t.chkPoint n = some pt then
      let c := t.check n
      t.setCheck n { c with spoiled := ((c.windows.filter fun i => c.holds i none y).foldl (fun m i => setBit m i true) c.spoiled) }
    else t) s

end Sys2Proof.Machine
end

