-- ==== Sys2Proof/Machine/Admission.lean ====
section
/-! DEFINITION. What a commit covers and the checks of its admission (R150, R151, R155): layer rules (R68 to R87),
bandwidth (R105), lane-ops (R106), effects (R116, R143), prefetch (R102), protected layers (R93), scalers (R112). -/

namespace Sys2Proof.Machine

/-! What a commit covers (R150, R151). -/

/-- The pages that hold escrowed registers, in page order (ACC page 0 holds ACC_EFX_TABLE and ACC_EFX_COUNT). -/
def escrowPages : List Nat :=
  (List.range 32).map (fun a => accPage a 0) ++ (List.range 128).map layPage ++ (List.range 8).map plPage
    ++ (List.range 8).flatMap (fun n => [outPage n 2, outPage n 3, outPage n 4]) ++ (List.range 32).map sclPage

/-- The keys of a page's escrowed registers. -/
def escrowKeys (p : Nat) : List Nat :=
  ((blockRows (kindOf p).1).filter fun r => r.fields.any (·.acc == .rwe)).flatMap fun r =>
    (List.range r.count).map fun i => fkey p r.reg i

/-- The dirty escrowed pages that an account owns. -/
def State.covered (s : State) (a : Nat) : List Nat :=
  escrowPages.filter fun p => s.ownerAcct p == some a && s.rd p ⟨0x044, 4, 0, 0⟩ == 1

/-- The covered values of a page: those that some scene, or a commit still waiting, holds otherwise. -/
def State.coveredVals (s : State) (p : Nat) : List (Nat × Word) :=
  ((escrowKeys p).filter fun k =>
    (List.range 9).any (fun n => s.appl n k != s.reg k) || s.waits.any fun w => w.vals.any fun e => e.1 == k).map fun k => (k, s.reg k)

/-- An output is enabled: its enabling write was admitted and it has not stopped (R174). -/
def State.enabled (s : State) (n : Nat) : Bool := (s.out (s.gen n)).enabled

/-- The outputs on which a page's escrowed fields act (R151); a locked pair counts as its even output. -/
def State.actsAll (s : State) (p : Nat) : List Nat :=
  let outs := match kindOf p with
    | (.lay, _) => bitsOf ((s.rdA 8 p LAY_PLACE_outputs) ||| (s.rd p LAY_PLACE_outputs)) 8
    | (.out _, n) => [n]
    | (.pl, n) => [n]
    | (.sclCtl, _) => if s.rd p SCL_STATUS_in_use = 1 then [s.rd p SCL_STATUS_output] else []
    | _ => []
  (outs.map s.gen).eraseDups

/-- Those of them that are enabled. -/
def State.actsOn (s : State) (p : Nat) : List Nat := (s.actsAll p).filter s.enabled

/-- The members of a commit of `pages`, one bit per output. -/
def State.membersOf (s : State) (pages : List Nat) : Nat :=
  (List.range 8).foldl (fun m n => if pages.any fun p => (s.actsOn p).contains n then m + 2 ^ n else m) 0

/-- The values that the waiting commits selected by `f` will apply, the latest first. -/
def State.pendingVals (s : State) (f : Waiting → Bool) : List (Nat × Word) := (s.waits.filter f).reverse.flatMap (·.vals)

/-- The account's scene that a commit of `vals` would apply, with every earlier admitted commit (R103). -/
def State.wouldBe (s : State) (a : Nat) (vals : List (Nat × Word)) : Scene :=
  (s.scene 8).over (vals ++ s.pendingVals (·.acct == a))

/-- The scene of output `n`, all accounts', after every admitted commit and then `vals`. -/
def State.wouldBeOn (s : State) (n : Nat) (vals : List (Nat × Word)) : Scene :=
  (s.scene n).over (vals ++ s.pendingVals (·.out == n))

/-- The outputs that stand for themselves: all but the odd halves of locked pairs. -/
def State.heads (s : State) : List Nat := (List.range 8).filter fun n => s.gen n == n

/-- The layers of one account only. -/
def State.ownOnly (s : State) (a l : Nat) : Option Nat := if s.layOwner l = some a then some a else none

/-- The account's placed layers on output `n` in a scene (own occlusion, R105). -/
def State.minePlaced (s : State) (a : Nat) (sc : Scene) (n : Nat) : List Placed :=
  placedOn sc (s.ownOnly a) (s.slots n) n (s.inForce n).hact (s.inForce n).vact

/-! Layer rules (R87). -/

/-- Bytes from column 0 to the right edge of the source rectangle in one line of a plane (R81). -/
def Lay.lineBytes (l : Lay) (plane : Nat) : Nat :=
  if l.ilt then
    let t := (l.sx + l.sw - 1) / 64 + 1
    if plane = 0 then slotBytes l.format * t else 8 * t
  else if plane = 0 then cdiv ((l.sx + l.sw) * bitsPerPixel l.format) 8
  else (l.sx + l.sw) * bitsPerPixel l.format / 8

/-- The planes of a layer. -/
def Lay.planes (l : Lay) : List Nat := if l.ilt || planar l.format then [0, 1] else [0]

/-- A plane's extent: first byte and length (R82). -/
def Lay.extent (l : Lay) (plane : Nat) : Nat × Nat :=
  let (a, st) := if plane = 0 then (l.a0, l.st0) else (l.a1, l.st1)
  let (first, last) :=
    if l.ilt then
      let w := if plane = 0 then slotBytes l.format else 8
      (a + l.sy / 8 * st + l.sx / 64 * w, a + (l.sy + l.sh - 1) / 8 * st + ((l.sx + l.sw - 1) / 64 + 1) * w)
    else if plane = 0 then
      (a + l.sy * st + l.sx * bitsPerPixel l.format / 8, a + (l.sy + l.sh - 1) * st + cdiv ((l.sx + l.sw) * bitsPerPixel l.format) 8)
    else
      (a + l.sy / 2 * st + l.sx * bitsPerPixel l.format / 8,
       a + ((l.sy + l.sh) / 2 - 1) * st + (l.sx + l.sw) * bitsPerPixel l.format / 8)
  (first, last - first)

/-- The format that a capture port stores (R207). -/
def capFormat (dt : Nat) : Nat := if dt = 0 then 1 else if dt = 1 then 3 else 10

/-- The source of a layer is admitted (R81, R82, R207). -/
def State.sourceOk (s : State) (a : Nat) (l : Lay) : Bool :=
  if l.kind = 2 then
    s.ownerAcct (capPage l.cap) == some a && l.format == capFormat (s.rd (capPage l.cap) CAP_CTRL_dt) && !l.ilt
  else
    l.planes.all (fun p =>
      let st := if p = 0 then l.st0 else l.st1
      (decide (l.lineBytes p ≤ st) || (st == 0 && l.sh == 1)) && s.inRegions a l.kind (l.extent p).1 (l.extent p).2)
    && (l.kind == 0 || decide (l.a0 < 2 ^ 26 ∧ l.a1 < 2 ^ 26))

/-- Format, colour space and transfer (R74, R75, R78). -/
def Lay.formatOk (l : Lay) : Bool :=
  [0, 1, 2, 3, 4, 8, 9, 10, 0x10, 0x11, 0x12, 0x13].contains l.format
    && (if l.format = 4 then l.tf == 3 && l.cs ≤ 2 else l.cs ≤ 2 && (l.tf == 0 || (l.cs == 2 && l.tf ≤ 2)))
    && (!l.ilt || [0, 1, 2, 4].contains l.format)

/-- The scale ratio lies within 1/8 and 16 in each direction (R76). -/
def Lay.ratioOk (l : Lay) : Bool :=
  decide (l.sw ≤ 8 * l.dw ∧ l.dw ≤ 16 * l.sw ∧ l.sh ≤ 8 * l.dh ∧ l.dh ≤ 16 * l.sh)

/-- Chroma alignment (R77). -/
def Lay.chromaOk (l : Lay) : Bool :=
  if planar l.format then [l.sx, l.sy, l.sw, l.sh].all (· % 2 == 0)
  else if l.format = 10 then [l.sx, l.sw].all (· % 2 == 0) else true

/-- Racing restrictions (R24, R86). -/
def Lay.racingOk (l : Lay) : Bool := !l.racing || (l.kind != 0 && !l.ilt && !l.effect)

/-- The opaque rectangle, where in force, lies within the destination (R73). -/
def Lay.opqOk (l : Lay) : Bool := !l.opqEn || decide (l.ox + l.ow ≤ l.dw ∧ l.oy + l.oh ≤ l.dh)

/-- The enabled layers of an account in a scene, in ascending order. -/
def State.enabledLays (s : State) (a : Nat) (sc : Scene) : List Lay :=
  ((List.range 128).filter fun l => s.layOwner l == some a && sc.f (layPage l) LAY_CTRL_enable == 1).map (layOf sc a)

/-- Placement rules of a layer on each of its outputs (R68, R69, R71, R72). -/
def State.placeOk (s : State) (a : Nat) (ls : List Lay) (l : Lay) : Bool :=
  (bitsOf l.outputs 8).all fun n =>
    s.gen n == n && (match s.slotOf n a with
      | none => false
      | some v => decide (l.z < v.zn) && decide ((ls.countP fun m => m.outputs.testBit n) ≤ v.layers))

/-- The scalers of an account: unbound ones, and those bound in a scene to a placement (R76, R112). -/
def State.freeScalers (s : State) (a : Nat) (sc : Scene) : Nat :=
  (List.range 32).countP fun c => s.ownerAcct (sclPage c) == some a && sc.f (sclPage c) SCL_CTRL_bind_en == 0
def State.boundScaler (s : State) (a : Nat) (sc : Scene) (l n : Nat) : Bool :=
  (List.range 32).any fun c => s.ownerAcct (sclPage c) == some a && sc.f (sclPage c) SCL_CTRL_bind_en == 1
    && sc.f (sclPage c) SCL_CTRL_bind_layer == l && sc.f (sclPage c) SCL_CTRL_bind_out == n

/-- The placements of a layer that take an unbound scaler. -/
def State.unboundNeeds (s : State) (a : Nat) (sc : Scene) (l : Lay) : Nat :=
  if !l.needsScaler then 0 else (bitsOf l.outputs 8).countP fun n => !s.boundScaler a sc l.num n

/-- The scalers suffice for the layers up to `l` in layer order. -/
def State.scalersOk (s : State) (a : Nat) (sc : Scene) (ls : List Lay) (l : Lay) : Bool :=
  s.unboundNeeds a sc l == 0 ||
    decide (((ls.filter fun m => m.num ≤ l.num).foldl (fun n m => n + s.unboundNeeds a sc m) 0) ≤ s.freeScalers a sc)

/-- The layers that break a rule of chapter 4, in ascending order. -/
def State.badLayers (s : State) (a : Nat) (sc : Scene) : List Nat :=
  let ls := s.enabledLays a sc
  (ls.filter fun l => !(l.formatOk && l.ratioOk && l.chromaOk && l.racingOk && l.opqOk && s.placeOk a ls l
    && s.scalersOk a sc ls l && s.sourceOk a l)).map (·.num)

/-! Effect routines (R142, R143). -/

/-- The routine that entry `id` of the account's table names in a scene, if the entry and image are in order. -/
def State.routineAt (s : State) (a : Nat) (sc : Scene) (id : Nat) : Option Routine :=
  let table := sc.f (accPage a 0) ACC_EFX_TABLE_offset * 64
  if sc.f (accPage a 0) ACC_EFX_COUNT ≤ id ∨ !s.inRegions a 1 (table + 16 * id) 16 then none
  else
    let e := fun o => s.wordAt 1 (table + 16 * id + o)
    let image := e 0
    let h := fun o => s.wordAt 1 (image + o)
    if image % 64 ≠ 0 ∨ e 4 = 0 ∨ 2 ^ 24 ≤ e 4 ∨ e 8 ≠ 0 ∨ e 12 ≠ 0 ∨ !s.inRegions a 1 image 16 then none
    else if h 0 = 0 ∨ 1024 < h 0 ∨ 3584 < h 4 ∨ h 4 % 16 ≠ 0 ∨ h 8 ≠ 0 ∨ h 12 ≠ 0 then none
    else if !s.inRegions a 1 image (16 + 4 * h 0 + h 4) then none
    else some ⟨image, e 4, h 0, h 4⟩

/-- The routines of the enabled layers that name one, by layer, none where it is refused. -/
def State.routinesOf (s : State) (a : Nat) (sc : Scene) : List (Nat × Option Routine) :=
  ((s.enabledLays a sc).filter (·.effect)).map fun l => (l.num, s.routineAt a sc l.routine)

/-! The figures of admission. -/

/-- The account's fetch bandwidth in bytes per second (R105). -/
def State.fetchDemand (s : State) (a : Nat) (sc : Scene) (rate : Nat → Nat) : Nat :=
  let scl := s.scalersIn a sc (s.heads.flatMap fun n => ((s.minePlaced a sc n).filter (·.lay.needsScaler)).map fun q => (q.lay.num, n))
  let sit := fun n l => match scl.find? fun (e : (Nat × Nat) × Nat) => e.1 == (l, n) with | some e => sc.f (sclPage e.2) SCL_CTRL_siting | none => 0
  s.heads.foldl (fun t n =>
    t + fetchBytes (sit n) (s.minePlaced a sc n) (s.inForce n).hact (s.inForce n).vact * rate n) 0

/-- The account's reservation in bytes per second (MEM_RSV). -/
def State.reservation (s : State) (a : Nat) : Nat := s.rd (memPage 19) MEM_RSV_RATE_rate a * 10000000

/-- The account's lane-op demand on output `n` per second (R106). -/
def State.laneDemand (s : State) (a : Nat) (sc : Scene) (vals : List (Nat × Word)) (n rate : Nat) : Nat :=
  laneOps ((s.wouldBeOn n vals).f (outPage n 2) OUT_CMP_BLEND_prim) (s.minePlaced a sc n) (s.inForce n).hact (s.inForce n).vact * rate

/-- The account's effect demand in lane-ops per second at the captured costs (R116). -/
def State.effectDemand (s : State) (a : Nat) (sc : Scene) (routs : List (Nat × Routine)) (rate : Nat → Nat) : Nat :=
  s.heads.foldl (fun t n =>
    let ps := s.minePlaced a sc n
    let (w, h) := ((s.inForce n).hact, (s.inForce n).vact)
    ps.foldl (fun t q => if !q.lay.effect then t else
      match routs.find? (·.1 == q.lay.num) with
      | some e => t + e.2.cost * (q.listed ps (racingScene ps) w h).length * rate n
      | none => t) t) 0

/-- The racing prefetch on output `n` fits half its line stores, or the output does not race (R102). -/
def State.prefetchOk (s : State) (vals : List (Nat × Word)) (n : Nat) : Bool :=
  let ps := placedOn (s.wouldBeOn n vals) s.layOwner (s.slots n) n (s.inForce n).hact (s.inForce n).vact
  !racingScene ps || decide (prefetchBytes ps ≤ 16384 * s.rd (outPage n 2) OUT_CMP_ASSIGNED_count)

/-- A protected layer of a scene keeps to its sub-region (R93). -/
def State.plOk (s : State) (sc : Scene) (n : Nat) : Bool :=
  let p := plPage n
  let g := fun f => sc.f p f
  if g PL_CTRL_enable = 0 then true
  else
    let bpp := if g PL_CTRL_format = 0 then 1 else if g PL_CTRL_format = 1 then 2 else 4
    let w := g PL_SIZE_w_m1 + 1
    let st := g PL_STRIDE_stride * 64
    let a := g PL_ADDR_offset * 64
    let base := s.rd p PL_REGION_base * 65536
    decide (w * bpp ≤ st ∧ base ≤ a ∧ a + st * g PL_SIZE_h_m1 + w * bpp ≤ base + s.rd p PL_REGION_size * 65536)

/-- A bound scaler of the account names a layer that it does not own (R112). DEDUCED (log 116): bind_layer names a layer only where
bind_en is 1. -/
def State.badScalers (s : State) (a : Nat) (sc : Scene) : List Nat :=
  (List.range 32).filter fun c => s.ownerAcct (sclPage c) == some a && sc.f (sclPage c) SCL_CTRL_bind_en == 1
    && s.layOwner (sc.f (sclPage c) SCL_CTRL_bind_layer) != some a

/-- Some of a commit's fields act on output `n`. -/
def Commit.actsAt (c : Commit) (n : Nat) : Bool := c.acts.any fun e => e.2.contains n

/-- The commit is one of a protected layer alone: no bandwidth admission (R93). -/
def Commit.plOnly (c : Commit) : Bool := !c.pages.isEmpty && c.pages.all fun p => (kindOf p).1 == .pl

/-- The first failing check of R155 on the scene, in table order, with the page at fault (0: the scene as a whole). -/
def State.sceneFail (s : State) (a : Nat) (c : Commit) : Option (Nat × Nat) :=
  let sc := s.wouldBe a c.snap
  let routs := (s.routinesOf a sc).filterMap fun e => e.2.map fun r => (e.1, r)
  let share := fun n => match s.slotOf n a with | some v => v.share * 10000000 | none => 0
  if !c.plOnly && decide (s.reservation a < s.fetchDemand a sc s.rmax) then some (1, 0)
  else match s.heads.find? fun n => decide (share n < s.laneDemand a sc c.snap n (s.rmax n)) with
  | some n => some (2, outPage n 2)
  | none =>
  if (s.acct a).share * 10000000 < s.effectDemand a sc routs s.rmax then some (3, 0)
  else match s.badLayers a sc with
  | l :: _ => some (4, layPage l)
  | [] => match (s.heads.filter fun n => s.enabled n && c.actsAt n).find? fun n => !s.prefetchOk c.snap n with
  | some n => some (5, outPage n 2)
  | none => match (c.pages.filter fun p => (kindOf p).1 == .pl).find? fun p => !s.plOk sc (kindOf p).2 with
  | some p => some (6, p)
  | none => match (s.routinesOf a sc).find? fun e => e.2.isNone with
  | some e => some (7, layPage e.1)
  | none => match s.badScalers a sc with
  | b :: _ => some (8, sclPage b)
  | [] => none

/-- The first failing check of a commit (R155): of its scene, where it covers anything (R151), and of its syndicate target. -/
def State.firstFail (s : State) (a : Nat) (c : Commit) : Option (Nat × Nat) :=
  let near := match c.syn with | some y => if y.near then some (9, 0) else none | none => none
  if c.pages.isEmpty then near else (s.sceneFail a c).or near

end Sys2Proof.Machine
end

