-- ==== Sys2Proof/Machine/Pages.lean ====
section
/-! DEFINITION. The common header (R53, R56, R64): the event latches, clearing and injecting faults, and tallies. -/

namespace Sys2Proof.Machine

/-! What a protected layer holds of its output (R97). -/

/-- The protected layer of output `n` is enabled in its applied state (R97). -/
def State.plApplied (s : State) (n : Nat) : Bool := s.rdA n (plPage n) PL_CTRL_enable == 1

/-- R97: an open-world write that would disable output `n` or stop its timing generator is refused while its protected layer is
enabled; a locked pair, which one generator drives, counts as a whole. -/
def State.plHolds (s : State) (who n : Nat) : Bool := !s.trustedActor who && (s.withPair n).any s.plApplied

/-- R97: an open-world write that would power down the port of output `n` is refused while its own protected layer is enabled. -/
def State.plHoldsPort (s : State) (who n : Nat) : Bool := !s.trustedActor who && s.plApplied n

/-! The output depth and the FIFO's capacity (R176, R177). -/

/-- The component depth of an output in bits. -/
def State.depth (s : State) (n : Nat) : Nat := 6 + 2 * s.rdA n (outPage n 3) OUT_COL_CTRL_depth

/-- Pixels that the FIFO of output `n` holds at its depth (R176). -/
def State.fifoCap (s : State) (n : Nat) : Nat := if s.depth n = 12 then 65536 else 131072

/-- OUT_FIFO_CAPS shows the capacity at the present depth (R177). -/
def State.syncCaps (s : State) (n : Nat) : State := s.wr (outPage n 1) OUT_FIFO_CAPS_capacity (s.fifoCap n)

/-! Events (R56). -/

/-- The events that a page's chapter lists. -/
def evtMask (p : Nat) : Nat := (capsOf (kindOf p).1).evt

/-- R56's rule on EVT_ENABLE and EVT_PENDING: a 1 in a reserved bit is out of range. -/
def evtRule (p : Nat) (v : Word) : Rule := if v &&& ~~~(BitVec.ofNat 32 (evtMask p)) = 0 then .ok else .range

/-- A write of EVT_PENDING: each 1 clears the bit and the latch; an event of the same access cycle (`recur`) leaves both
bits set. -/
def State.pendingWrite (s : State) (who p : Nat) (value : Word) (be : BitVec 4) (recur : Word) : State :=
  let again := recur &&& BitVec.ofNat 32 (evtMask p)
  let s := s.writeWith who p EVT_PENDING.off value be false (evtRule p) (s.writeRec who p EVT_PENDING.off) fun v t =>
    let clr := v &&& ~~~again
    (t.setReg (fkey p EVT_PENDING 0) (t.reg (fkey p EVT_PENDING 0) &&& ~~~clr)).setReg (fkey p EVT_RAW 0)
      (t.reg (fkey p EVT_RAW 0) &&& ~~~clr)
  s.raiseAll ((bitsOf again.toNat 32).map fun b => (p, b))

/-- EVT_PENDING_CLEAR (R56). -/
def execEvtPendingClear (who : Actor) (p : Page) (bits recur : Word) (s : State) : Host.Outcome State Fault Refusal :=
  .next (s.pendingWrite who.val p.val bits 15 recur)

/-! Faults (R319, R326). -/

/-- The sources of a page that sit in a trusted class. -/
def State.trustedBits (s : State) (p bits : Nat) : Nat :=
  ((bitsOf bits 16).filter fun i => 4 ≤ s.fltClass p i).foldl (fun n i => n + 2 ^ i) 0

/-- The level sources of a page whose condition is present. -/
def State.persisting (s : State) (p bits : Nat) : Nat :=
  ((bitsOf bits 16).filter fun i => s.level (16 * p + i)).foldl (fun n i => n + 2 ^ i) 0

/-- The collectors brought up to date after sticky bits of a page changed. -/
def State.afterClear (s : State) (p : Nat) : State := (State.settle ((s.syncFaults p).syncDevice)).syncSafe

/-- The entries of a FLT_STICKY write that clears `bits` of the page's sticky bits (R319): kind 0x08 for those cleared, kind 0x09
for those whose level condition persists. -/
def State.clearRecs (s : State) (who p bits : Nat) : List Rec :=
  let k := regKey p FLT_STICKY.off
  let old := s.sticky p
  let stay := s.persisting p bits
  (if bits - stay ≠ 0 then [s.recOf who 0x08 0 k (BitVec.ofNat 32 old) (BitVec.ofNat 32 (old - (bits - stay)))] else [])
    ++ (if stay ≠ 0 then [s.recOf who 0x09 0 k (BitVec.ofNat 32 old) (BitVec.ofNat 32 stay)] else [])

/-- The part of a FLT_STICKY write that may clear (R319): those whose level condition does not persist. -/
def State.clearBits (s : State) (who p bits : Nat) : State :=
  let gone := bits - s.persisting p bits
  let s := s.log who (s.clearRecs who p bits)
  (s.wr p FLT_STICKY (s.sticky p &&& (0xFFFF - gone))).afterClear p

/-- A write of FLT_STICKY (R319). `recur` names sources that occur in the same access cycle: each counts as a new
capture. -/
def State.stickyWrite (s : State) (who p : Nat) (value : Word) (be : BitVec 4) (recur : Nat) : State :=
  let v := (value &&& beMask be).toNat
  let s := if who < 32 && !s.hostHeard then s
    else if !s.owns who p || (kindOf p).1 == .none then s.turnAway who p FLT_STICKY.off value .foreign
    else if 65536 ≤ v then s.refuse who p FLT_STICKY.off 3 (BitVec.ofNat 32 v)
    else
      let set := v &&& s.sticky p
      let held := if s.trustedActor who then 0 else s.trustedBits p set
      let s := if held ≠ 0 then s.refuse who p FLT_STICKY.off 4 (BitVec.ofNat 32 v) else s
      if set - held = 0 then s
      else if !s.room who (s.clearRecs who p (set - held)).length then State.settle (s.refuseFull who)
      else s.clearBits who p (set - held)
  (bitsOf recur 16).foldl (fun (t : State) i => t.fault p i) s

/-- FAULT_CLEAR (R319). -/
def execFaultClear (who : Actor) (p : Page) (bits recur : BitVec 16) (s : State) : Host.Outcome State Fault Refusal :=
  .next (s.stickyWrite who.val p.val (bits.setWidth 32) 15 recur.toNat)

/-- The sources of a page kind that have a checker (R426). -/
def checkers : Kind → List Nat
  | .xch => [1] | .press => [2] | .sclCtl => [0] | .cap => [0] | .chk => [0, 1] | .vltBg => [0, 1] | .tchB => [3] | .hapCh => [6]
  | .out k => if k = 0 then [2] else if k = 1 ∨ k = 2 ∨ k = 3 ∨ k = 5 then [0] else []
  | .mem k => if k = 17 then [0, 1, 2] else []
  | .cus k => if k = 4 then [3] else []
  | .hst k => if 2 ≤ k then [0] else []
  | .flt k => if k = 2 then [4] else []
  | .aud k => if k = 0 then [0] else if 13 ≤ k ∧ k ≤ 20 then [0] else []
  | _ => []

/-- The rule of a FLT_INJECT write (R326). -/
def State.injectRule (s : State) (who p : Nat) (v : Word) : Rule :=
  if FLT_INJECT_mode.get v = 1 ∧ FLT_INJECT_count.get v = 0 then .range
  else if !v.getLsbD 31 then .ok
  else if s.rd (cusPage 0) CUS_ISOLATION_inject_perm = 0 ∨ !(checkers (kindOf p).1).contains (FLT_INJECT_source.get v) then .range
  else if !s.trustedActor who && decide (4 ≤ s.fltClass p (FLT_INJECT_source.get v)) then .locked
  else .ok

/-- A write of FLT_INJECT. -/
def State.injectWrite (s : State) (who p : Nat) (value : Word) (be : BitVec 4) : State :=
  s.writeWith who p FLT_INJECT.off value be false (s.injectRule who p) (s.writeRec who p FLT_INJECT.off)
    fun v t => t.store p FLT_INJECT.off v

/-- FLT_INJECT_ARM (R326). -/
def execFltInjectArm (who : Actor) (p : Page) (source : Fin 16) (counted : Bool) (count : BitVec 16) (s : State) :
    Host.Outcome State Fault Refusal :=
  .next (s.injectWrite who.val p.val
    (BitVec.ofNat 32 (source.val + b2n counted * 16 + count.toNat * 256 + 2 ^ 31)) 15)

/-! Tallies (R64). -/

/-- The value that a tally shows for its running counter: TALLY2 of an output's tally page is the least fill, at most what the FIFOs
of the output or its locked pair hold (R196), TALLY4 of a press counts in units of 65,536 lane-ops. With what stays in the counter. -/
def State.tallyShown (s : State) (p i run : Nat) : Nat × Nat :=
  match (kindOf p).1, i with
  | .press, 4 => (min 0xFFFFFFFF (run / 65536), run % 65536)
  | .out 7, 2 => (min (if s.pairLocked (kindOf p).2 then 262144 else 131072) (262144 - run), 0)
  | _, _ => (run, 0)

/-- The pages of the DRAM controller and its channels. -/
def isMem : Kind → Bool
  | .mem _ => true
  | .memCh => true
  | _ => false

/-- Every tally of a page latches, the counters restart, and tally_seq advances. -/
def State.latch (s : State) (p : Nat) : State :=
  let s := if isMem (kindOf p).1 then s.accrue else s
  let s := (List.range (capsOf (kindOf p).1).tallies).foldl (fun (t : State) i =>
    let (shown, rest) := t.tallyShown p i (NatTbl.at_ t.tally (8 * p + i))
    { t.wr p TALLY shown i with tally := NatTbl.put t.tally (8 * p + i) rest }) s
  if (capsOf (kindOf p).1).tallies = 0 then s
  else s.wr p PAGE_STATUS_tally_seq ((s.rd p PAGE_STATUS_tally_seq + 1) % 256)

/-- The lowest enabled output on which a layer is placed in the applied scenes; its boundary latches the layer's tallies (R64). -/
def State.latchOut (s : State) (l : Nat) : Option Nat :=
  (List.range 8).find? fun n => (s.out n).enabled && (s.rdA n (layPage l) LAY_PLACE_outputs).testBit n

/-- The page latches on the time-base tick (R64). -/
def State.ticks (s : State) (p : Nat) : Bool :=
  match kindOf p with
  | (.lay, l) => (s.latchOut l).isNone
  | (k, _) => tallyClock k == 2

/-- The lowest enabled output to which the owner of an effect press contributes (R145). -/
def State.effectFrameOut (s : State) (p : Nat) : Option Nat :=
  (List.range 8).find? fun n => (s.out n).enabled && (s.slotOf n (s.rd (pressPage p) MNT_P_ROLE_account)).isSome

/-- The time base shows a multiple of 100 ms at which page `p` has not yet latched (R64). -/
def State.tickDue (s : State) (p : Nat) : Bool := s.now % 100000000 == 0 && NatTbl.at_ s.ticked p != s.now + 1

/-- TALLY_LATCH (R64): on the 100 ms tick of a page that latches there; an effect press with no output to follow ends its
frame then (R145). -/
def execTallyLatch (p : Page) (s : State) : Host.Outcome State Fault Refusal :=
  .next (
    if !s.ticks p.val || !s.tickDue p.val then s
    else
      let s := { s.latch p.val with ticked := NatTbl.put s.ticked p.val (s.now + 1) }
      match kindOf p.val with
      | (.press, i) => if s.rd p.val MNT_P_ROLE_role = 2 ∧ (s.effectFrameOut i).isNone then s.slowCheck i else s
      | _ => s)

end Sys2Proof.Machine
end

