-- ==== Sys2Proof/Machine/Commit.lean ====
section
/-! DEFINITION. Commits (R150 to R164): the take, the decision, application at frame boundaries, late and stopped
members, held and syndicate commits, and their commands. -/

namespace Sys2Proof.Machine

/-! Occurrences that end the static state (R186, R189). -/

/-- The frame boundary that ends the static state of a generator whose presses are to wake from now (R47, R187, R189): its next one, or,
of a frame that is stretched, one that comes no earlier than the wake time allows. -/
def State.staticEnds (s : State) (g : Nat) : Nat :=
  if s.rd (outPage g 0) OUT_STATIC_STATUS_stretching = 1 then
    max (s.nextBoundary g) (s.now + 1000 * s.rd (outPage g 0) OUT_STATIC_CTRL_wake_us)
  else s.nextBoundary g

/-- An occurrence of R186 on output `n`: the frame does not count; a static output leaves the state, its presses waking
in the deadline class (R189). -/
def State.touch (s : State) (n : Nat) : State :=
  let g := s.gen n
  let o := s.out g
  if !o.enabled then s
  else
    let s := s.setOut g { o with touched := true }
    if s.rd (outPage g 0) OUT_STATIC_STATUS_static = 0 ∨ o.wakeAt.isSome then s
    else
      let s := s.setOut g { o with touched := true, wakeAt := some s.now }
      (s.pressesOf 1 g).foldl (fun (t : State) p =>
        if t.power (pressPage p) = 1 then t.wakeAsk (pressPage p) 0 (t.staticEnds g) else t) s

/-! Status registers of a commit. -/

def comPage (a : Nat) : Nat := accPage a 1

/-- The rebuild of an undecided commit ends on the outputs it names (R103): its duration from the take, or from the end of the
rebuild before it on that output. -/
def State.endRebuild (s : State) (outs since : Nat) : State :=
  ((bitsOf outs 8).foldl (fun (t : State) n =>
    let t := t.wr (outPage n 2) OUT_CMP_REBUILD_last_ns (min 0xFFFF ((t.now - max since (t.out n).rebuiltAt) / 10))
    t.setOut n { t.out n with rebuiltAt := t.now }) s).syncBusy outs

/-- The event-queue entry of a commit's outcome (R157, R274). -/
def State.outcomeEntry (s : State) (a : Nat) : Sig :=
  .entry a (eventEntry 3 (comPage a) (s.rd (comPage a) ACC_COMMIT_STATUS) (s.rd (comPage a) ACC_COMMIT_GEN) s.now)

/-- An event of ACC page 1 and its kind 3 entry. -/
def State.outcome (s : State) (a b : Nat) : State := State.settle (s.raise (comPage a) b, [(s.raise (comPage a) b).outcomeEntry a])

/-- A commit's ledger entry (R161): kind 0x05 or 0x06 with its detail, from the room that the COMMIT write reserved. -/
def State.commitEntry (s : State) (a kind detail old new : Nat) : State :=
  State.settle (s.useReserved a (s.trustedActor a)
    ⟨s.orgOf a, clsOf a, comPage a, ACC_COMMIT.off / 4, BitVec.ofNat 32 old, BitVec.ofNat 32 new, kind, detail⟩)

/-- A refused commit (R155, R157). -/
def State.refuseCommit (s : State) (a : Nat) (c : Commit) (reason page : Nat) : State :=
  let p := comPage a
  let gen := s.rd p ACC_COMMIT_GEN
  let s := (s.commitEntry a 0x06 reason gen gen).setCommit a none
  let s := ((((s.wr p ACC_COMMIT_STATUS_busy 0).wr p ACC_COMMIT_STATUS_rebuilding 0).wr p ACC_COMMIT_STATUS_result 2).wr p
    ACC_COMMIT_STATUS_reason reason).wr p ACC_COMMIT_STATUS_pending 0
  (((s.wr p ACC_COMMIT_REFUSED_AT_page page).markPending c.pages 0).count p 1).outcome a 1

/-- Busy returns to 0 after an admitted commit (R157). -/
def State.finishCommit (s : State) (a : Nat) (c : Commit) : State :=
  (((s.setCommit a none).wr (comPage a) ACC_COMMIT_STATUS_busy 0).markPending c.pages 0).outcome a 0

/-- Pages whose escrow has been applied: what follows from their applied values. -/
def State.afterApply (s : State) (pages : List Nat) : State :=
  pages.foldl (fun (t : State) p =>
    let t := t.syncDirty p
    match kindOf p with
    | (.lay, l) => t.syncLayer l
    | (.pl, _) => t.wr p PL_STATUS_applied (t.rdA 8 p PL_CTRL_enable)
    | (.out 3, n) => t.syncCaps n
    | _ => t) s |>.syncSafe

/-- Values applied in a list of scenes. -/
def State.applyVals (s : State) (scenes : List Nat) (vals : List (Nat × Word)) : State :=
  vals.foldl (fun (t : State) e => scenes.foldl (fun (t : State) n => t.setAppl n e.1 e.2) t) s

/-- Captured routines in force on an output, by layer. -/
def State.setRoutines (s : State) (n : Nat) (routs : List (Nat × Routine)) : State :=
  routs.foldl (fun (t : State) e => { t with routines := Tbl.set (fun _ => none) t.routines (128 * n + e.1) (some e.2) }) s

/-- The pages of a list of values. -/
def pagesOf (vals : List (Nat × Word)) : List Nat := (vals.map (·.1 / 1024)).eraseDups

/-- The account's commit of generation `gen` is recorded, once, before its first change is applied (R161). -/
def State.recordCommit (s : State) (a old gen : Nat) : State :=
  let s := s.commitEntry a 0x05 0 old gen
  let mine := fun (w : Waiting) => w.acct == a && w.gen == gen
  let s := { s with waits := s.waits.map fun w => if mine w then { w with recorded := true } else w }
  match s.commit a with
  | some c => if c.gen = gen then s.setCommit a (some { c with recorded := true }) else s
  | none => s

/-- A member's frame period in ns (R159): between its last two boundaries, or nominal. -/
def State.framePeriod (s : State) (n : Nat) : Nat :=
  match (s.out n).bounds with
  | b :: b' :: _ => b - b'
  | _ => (s.inForce n).htotal * (s.inForce n).vtotal * 1000000 / max 1 (s.inForce n).pclk

/-- The outputs at which a commit's admission applies the fields of page `p` at once (R151, R160): those that no remaining member
`stay` drives, on which the page acts or which are stopped; and whether the page waits for no member. -/
def State.atOnce (s : State) (c : Commit) (stay : List Nat) (p : Nat) : List Nat × Bool :=
  let outs := match c.acts.find? fun e => e.1 == p with | some e => e.2 | none => []
  ((List.range 8).filter fun n => !stay.contains (s.gen n) && (!s.enabled n || outs.contains (s.gen n)), !outs.any stay.contains)

/-- The fields of a commit that its admission applies (R151, R160), page by page. -/
def State.applyAtOnce (s : State) (a : Nat) (c : Commit) (stay : List Nat) : State :=
  let s := c.pages.foldl (fun (t : State) p =>
    let (outs, alone) := s.atOnce c stay p
    t.applyVals (outs ++ if alone then [8] else []) (c.snap.filter fun e => e.1 / 1024 == p)) s
  let stopped := (List.range 8).filter fun n => !stay.contains (s.gen n) && (!s.enabled n || c.actsAt (s.gen n))
  let s := stopped.foldl (fun (t : State) n =>
    let t := t.setRoutines n c.routs
    if c.actsAt (t.gen n) then t.wr (comPage a) ACC_COMMIT_SHOWN_gen c.gen n else t) s
  s.afterApply (c.pages.filter fun p => (s.atOnce c stay p).2)

/-- An admitted commit (R151, R157): the generation advances, what acts on no enabled output, or on one that has left the
commit, applies now, and each remaining member waits for its boundary. The commit is recorded now where any of it does (R161). -/
def State.admitCommit (s : State) (a : Nat) (c : Commit) (notBefore : Nat) : State :=
  let p := comPage a
  let gen := (c.old + 1) % 2 ^ 32
  let stay := (bitsOf c.members 8).filter fun n => !c.departed.testBit n && s.enabled n
  let c := { c with admitted := true, final := true, gen := gen, period := (stay.map s.framePeriod).foldl max 0 }
  let s := (((((s.wr p ACC_COMMIT_GEN_gen gen).wr p ACC_COMMIT_STATUS_rebuilding 0).wr p ACC_COMMIT_STATUS_result 1).wr p
    ACC_COMMIT_STATUS_reason 0).count p 0).setCommit a (some c)
  let early := stay.isEmpty || (c.pages.any fun q => (s.atOnce c stay q).2)
    || (List.range 8).any fun n => !stay.contains (s.gen n) && c.actsAt (s.gen n)
  let s := { s with waits := s.waits ++ stay.map fun n =>
    (⟨a, n, c.old, gen, c.snap.filter fun e => c.acts.any fun f => f.1 == e.1 / 1024 && f.2.contains n, c.routs, notBefore,
      (match c.syn with | some y => some y.frame | none => none), false, false⟩ : Waiting) }
  let s := if early then s.recordCommit a c.old gen else s
  let s := s.applyAtOnce a c stay
  if stay.isEmpty then (match s.commit a with | some c => s.finishCommit a c | none => s) else s

/-- Entries of a syndicate commit in the device's clearing-link slot (R164). -/
def State.sendToken (s : State) (y : SynTarget) (outcome : Nat) : State :=
  let keep := s.link.tokensOut.filter fun t => !(t.tag == y.tag && t.frame == y.frame)
  { s with link := { s.link with tokensOut := keep ++ [⟨y.tag, outcome, true, y.frame⟩] } }

/-- SYN_MISMATCH of an account (R164, R167). -/
def State.synMismatch (s : State) (a : Nat) : State := (s.raise (comPage a) 4).fault (comPage a) 0

/-- The outcome acted on, to be sent in the first cycle after the boundary of F; one received before that differs from it raises
SYN_MISMATCH (R164). -/
def State.noteActed (s : State) (a : Nat) (y : SynTarget) (applied : Bool) : State :=
  let s := { s with link := { s.link with acted := s.link.acted ++ [(a, y.tag, y.frame, applied)] } }
  if s.link.tokensIn.any fun (e : Nat × Nat × Nat × Nat) => e.1 == y.tag && e.2.1 == y.frame && e.2.2.2 == (if applied then 4 else 3)
  then s.synMismatch a else s

/-- The commit with the routines captured for the layers of the scene it would make (R143). -/
def State.withRoutines (s : State) (a : Nat) (c : Commit) : Commit :=
  { c with routs := (s.routinesOf a (s.wouldBe a c.snap)).filterMap fun (e : Nat × Option Routine) => e.2.map fun r => (e.1, r) }

/-- The nominal boundary of output `n` for syndicate frame `f` (R163, R215): `lead` lines before the line 0 that lies on the frame
start plus the offset; none before a syndicate frame start is known. -/
def State.synBoundary (s : State) (n f : Nat) : Option Int :=
  s.link.start.map fun t0 =>
    let t := s.inForce n
    let p := t.htotal * t.vtotal * 1000000 / max 1 t.pclk * (s.rd (outPage n 0) OUT_REF_CTRL_mult + 1)
    (t0 : Int) + signed 32 ((f + 2 ^ 32 - s.rd gngPage GNG_FRAME_frame) % 2 ^ 32) * p
      + signed 24 (s.rd (outPage n 0) OUT_REF_OFFSET_offset) * 10 - (t.lead * t.lineNs : Nat)

/-- The instant by which the tokens of a syndicate commit must have arrived (R164): 2 µs before its first member's boundary of F. -/
def State.synLimit (s : State) (c : Commit) (y : SynTarget) : Option Int :=
  ((bitsOf c.members 8).filterMap fun n => s.synBoundary n y.frame).foldl (fun (b : Option Int) t => match b with
    | none => some (t - 2000)
    | some u => some (min u (t - 2000))) none

/-- The limit of R164 has passed. -/
def State.synOver (s : State) (c : Commit) (y : SynTarget) : Bool :=
  match s.synLimit c y with
  | some t => decide (t < (s.now : Int))
  | none => s.link.start.isNone || decide ((s.rd gngPage GNG_FRAME_frame + 2 ^ 32 - y.frame) % 2 ^ 32 < 2 ^ 31)

/-- A syndicate commit refused for its partners (reason 10); one still rebuilding ends its rebuilds (R103). -/
def State.refuseSyn (s : State) (a : Nat) (c : Commit) (y : SynTarget) : State :=
  let t := (s.noteActed a y false).refuseCommit a c 10 0
  if c.admitted then t else t.endRebuild c.members c.takenAt

/-- A commit whose checks pass: admitted, or, for a syndicate commit, admitted here and waiting for its partners; one decided after the
limit of its frame has no admitted token in time (R164). -/
def State.passCommit (s : State) (a : Nat) (c : Commit) : State :=
  match c.syn with
  | some y => if s.synOver c y then (s.sendToken y 2).refuseSyn a { c with admitted := true } y
    else (s.sendToken y 1).setCommit a (some { c with admitted := true })
  | none => s.admitCommit a c (c.takenAt + 2000)

/-- The decision of R155 carried out: refused with the failing check, or passed. -/
def State.decided (s : State) (a : Nat) (c : Commit) : Option (Nat × Nat) → State
  | some (reason, page) =>
    let s := match c.syn with | some y => (s.sendToken y 2).noteActed a y false | none => s
    s.refuseCommit a c reason page
  | none => s.passCommit a (s.withRoutines a c)

/-- Admission decided (R155): by the first failing check, if any; the rebuilds are over (R103). -/
def State.decideCommit (s : State) (a : Nat) (c : Commit) : State :=
  (s.decided a c (s.firstFail a c)).endRebuild c.members c.takenAt

/-- The take of a commit (R150, R151, R157). -/
def State.take (s : State) (a : Nat) (syn : Bool) : State :=
  let p := comPage a
  let pages := s.covered a
  let members := s.membersOf pages
  let f := s.rd p ACC_COMMIT_TARGET_frame
  let ahead := (f + 2 ^ 32 - s.rd gngPage GNG_FRAME_frame) % 2 ^ 32
  let y : Option SynTarget := if syn then
      some ⟨s.rd p ACC_COMMIT_SYN_tag, s.rd p ACC_COMMIT_SYN_devices, f, decide (ahead < 2 ∨ 2 ^ 31 ≤ ahead)⟩ else none
  let c : Commit := {
    snap := pages.flatMap s.coveredVals, pages := pages, acts := pages.map fun q => (q, s.actsAll q), takenAt := s.now,
    order := s.orders, members := members, departed := 0, admitted := false, final := false, recorded := false, old := s.rd p ACC_COMMIT_GEN_gen, gen := 0, syn := y, routs := [],
    targets := [], period := 0 }
  let s := ({ s with orders := s.orders + 1 } : State).setCommit a (some c)
  let s := ((s.wr p ACC_COMMIT_STATUS_busy 1).wr p ACC_COMMIT_STATUS_rebuilding 1).wr p ACC_COMMIT_STATUS_pending members
  let s := (s.markPending pages 1).syncBusy members
  let s := (bitsOf members 8).foldl State.touch s
  if members = 0 then s.decideCommit a c else s

/-- Token entries in use (R215): those still to be sent, and one for each syndicate commit taken or held that has none yet. -/
def State.synCount (s : State) : Nat :=
  let entered := fun (y : SynTarget) => s.link.tokensOut.any fun t => t.tag == y.tag && t.frame == y.frame
  s.link.tokensOut.length
    + (List.range 32).countP (fun a => match s.commit a with
      | some c => (match c.syn with | some y => !entered y && !c.final | none => false) | none => false)
    + (List.range 32).countP (fun a => Tbl.get (fun _ => false) s.heldSyn a)

/-- The rule of a COMMIT write (R158, R215, R257, and the note after R166). -/
def State.commitRule (s : State) (a : Nat) (v : Word) : Rule :=
  let p := comPage a
  if ACC_COMMIT_go.get v = 0 then .ok
  else if (s.acct a).legacy || s.astate a != 3 || s.rd p ACC_COMMIT_STATUS_held == 1 then .range
  else if ACC_COMMIT_syn.get v = 1 then
    let d := s.rd p ACC_COMMIT_SYN_devices
    let me := s.rd gngPage GNG_CTRL_device
    let here := s.rd gngPage GNG_STATUS_present
    if !d.testBit me || (bitsOf d 4).any (fun i => i != me && !here.testBit i) || 4 ≤ s.synCount then .range else .ok
  else .ok

/-- A write of ACC_COMMIT (R150, R158): one ledger entry is reserved; the commit is taken, or held while busy. -/
def State.commitWrite (s : State) (who a : Nat) (value : Word) (be : BitVec 4) : State :=
  let p := comPage a
  s.writeWith who p ACC_COMMIT.off value be false (s.commitRule a) (fun _ => []) fun v t =>
    if ACC_COMMIT_go.get v = 0 then t
    else
      let syn := ACC_COMMIT_syn.get v == 1
      let t := State.settle (t.reserve a)
      if t.rd p ACC_COMMIT_STATUS_busy = 1 then
        { (t.wr p ACC_COMMIT_STATUS_held 1).count p 4 with heldSyn := Tbl.set (fun _ => false) t.heldSyn a syn }
      else t.take a syn

/-- COMMIT (R150) and SYNDICATE_COMMIT (R163). -/
def execCommit (who : Actor) (a : Acct) (s : State) : Host.Outcome State Fault Refusal := .next (s.commitWrite who.val a.val 1 15)
def execSyndicateCommit (who : Actor) (a : Acct) (s : State) : Host.Outcome State Fault Refusal := .next (s.commitWrite who.val a.val 3 15)

/-- HELD_COMMIT_TAKE (R158): once busy is 0. -/
def execHeldCommitTake (a : Acct) (s : State) : Host.Outcome State Fault Refusal :=
  let p := comPage a.val
  .next (
    if s.rd p ACC_COMMIT_STATUS_held = 0 ∨ s.rd p ACC_COMMIT_STATUS_busy = 1 then s
    else
      let syn := Tbl.get (fun _ => false) s.heldSyn a.val
      (({ s with heldSyn := Tbl.set (fun _ => false) s.heldSyn a.val false } : State).wr p ACC_COMMIT_STATUS_held 0).take a.val syn)

/-- The scene of a commit would give an enabled output a DRAM-sourced visible layer (R237). -/
def State.needsDram (s : State) (a : Nat) (c : Commit) : Bool :=
  (s.heads.filter s.enabled).any fun n =>
    (s.minePlaced a (s.wouldBe a c.snap) n).any fun q => q.lay.kind == 0 && !q.vis.empty

/-- No earlier undecided commit shares a member: the rebuilds of the commit can have finished (R103), and the
DRAM is out of deep sleep if its scene needs it (R237). -/
def State.rebuilt (s : State) (a : Nat) (c : Commit) : Bool :=
  (s.rd (memPage 0) MEM_STATUS_power < 2 || !s.needsDram a c) && (List.range 32).all fun b => match s.commit b with
    | some d => d.admitted || c.order ≤ d.order || d.members &&& c.members == 0
    | none => true

/-- REBUILD_DONE (R155). -/
def execRebuildDone (a : Acct) (s : State) : Host.Outcome State Fault Refusal :=
  .next (match s.commit a.val with
    | some c => if !c.admitted && s.rebuilt a.val c then s.decideCommit a.val c else s
    | none => s)

/-! Application (R153, R154, R157, R159, R160). -/

/-- The waits of an account's commit that have neither applied nor been flagged late. -/
def State.openWaits (s : State) (a gen : Nat) : Bool := s.waits.any fun w => w.acct == a && w.gen == gen && !w.late

/-- The account's commit ends once no member is left (R157). -/
def State.maybeFinish (s : State) (a gen : Nat) : State :=
  match s.commit a with
  | some c => if c.final && c.gen == gen && !s.openWaits a gen then s.finishCommit a c else s
  | none => s

/-- One waiting commit applied on its output: recorded first if nothing of it has been, then its values, its captured
routines, SHOWN, and its bits cleared. `hw`: a change logged with the hardware as origin (late members, departures). A late
member's values came into the account's last applied scene as it was flagged. -/
def State.applyWait (s : State) (w : Waiting) (hw : Bool) : State :=
  let p := comPage w.acct
  let s := if w.recorded then s else s.recordCommit w.acct w.old w.gen
  let scenes := s.withPair w.out ++ (if w.late then [] else [8])
  let s := (s.applyVals scenes w.vals).setRoutines w.out w.routs
  let s := (s.withPair w.out).foldl (fun (t : State) m => t.wr p ACC_COMMIT_SHOWN_gen w.gen m) s
  let s := { s with waits := s.waits.filter fun v => !(v.acct == w.acct && v.out == w.out && v.gen == w.gen),
                    blanked := Tbl.set (fun _ => false) s.blanked (32 * w.out + w.acct) false }
  let bit := w.out + if w.late then 24 else 16
  let s := if w.late || hw then s.hwField p ⟨0x084, 4, bit, bit⟩ 0 else s.wr p ⟨0x084, 4, bit, bit⟩ 0
  (s.afterApply (pagesOf w.vals)).maybeFinish w.acct w.gen

/-- The syndicate frame to which the next frame of output `n` belongs (R215): its line 0 comes `lead` lines after the
boundary, or has just begun where the boundary falls there (R171); none before a syndicate frame start is known. -/
def State.synFrame (s : State) (n : Nat) : Option Nat :=
  match s.link.start with
  | none => none
  | some t0 =>
    let t := s.inForce n
    let p := t.vtotal * t.lineNs * (s.rd (outPage n 0) OUT_REF_CTRL_mult + 1)
    let off := signed 24 (s.rd (outPage n 0) OUT_REF_OFFSET_offset) * 10
    let v := s.out (s.gen n)
    let line0 := if v.line = 0 then v.line0At.getD s.now else s.now + t.lead * t.lineNs
    let d : Int := (line0 : Nat) - (t0 : Nat) - off
    if p = 0 then none
    else some (unsigned 32 ((s.rd gngPage GNG_FRAME_frame : Nat) + (2 * d + p) / (2 * p : Nat)))

/-- A waiting commit is due at output `n`'s boundary now (R153, R163). -/
def State.waitDue (s : State) (n : Nat) (w : Waiting) : Bool :=
  w.out == n && decide (w.notBefore ≤ s.now) && (match w.synFrame, s.synFrame n with
    | some f, some g => decide ((g + 2 ^ 32 - f) % 2 ^ 32 < 2 ^ 31)
    | _, _ => true)

/-- The boundary is the member's target boundary or a later one (R153, R163). -/
def State.pastTarget (s : State) (n : Nat) (c : Commit) : Bool :=
  match c.syn with
  | none => decide (c.takenAt + 2000 ≤ s.now)
  | some y => match s.synFrame n with
    | some g => decide ((g + 2 ^ 32 - y.frame) % 2 ^ 32 < 2 ^ 31)
    | none => decide (c.takenAt + 2000 ≤ s.now)

/-- What a boundary of output `n` means for an account's commit in progress: a target boundary noted (R159), and a
deferral if admission is pending (R153). -/
def State.meetBoundary (s : State) (n a : Nat) : State :=
  match s.commit a with
  | none => s
  | some c =>
    if !c.members.testBit n || c.departed.testBit n || !s.pastTarget n c then s
    else
      let seen := c.targets.any (·.1 == n)
      let s := if seen then s else s.setCommit a (some { c with targets := c.targets ++ [(n, s.now)] })
      if !c.admitted && c.syn.isNone then (s.count (comPage a) 2).raise (comPage a) 2 else s

/-- The commits of a boundary (R153, R154): targets and deferrals of all accounts, then every due commit in admission
order, then COMMIT_APPLIED if any applied. -/
def State.applyCommits (s : State) (n : Nat) : State :=
  let s := (List.range 32).foldl (fun (t : State) a => t.meetBoundary n a) s
  let due := (s.waits.filter (s.waitDue n)).map fun w => (w.acct, w.gen)
  let s := due.foldl (fun (t : State) e => match t.waits.find? fun w => w.out == n && w.acct == e.1 && w.gen == e.2 with
    | some w => t.applyWait w false
    | none => t) s
  if due.isEmpty then s else (s.withPair n).foldl (fun (t : State) m => t.raise (outPage m 0) 5) (s.touch n)

/-- The group deadline, once every remaining member's target boundary has come (R159). -/
def Commit.deadline (c : Commit) : Option Nat :=
  if (bitsOf c.members 8).all fun n => c.departed.testBit n || c.targets.any (·.1 == n)
  then some (((c.targets.filter fun e => !c.departed.testBit e.1).map (·.2)).foldl max 0 + 2 * c.period) else none

/-- MEMBER_LATE (R159): an admitted commit's member that has not applied by the group deadline. -/
def execMemberLate (a : Acct) (o : Out) (s : State) : Host.Outcome State Fault Refusal :=
  let p := comPage a.val
  .next (match s.commit a.val with
    | none => s
    | some c =>
      let mine := fun (w : Waiting) => w.acct == a.val && w.out == o.val && w.gen == c.gen && !w.late
      match c.deadline with
      | none => s
      | some t =>
        if !c.admitted || !s.waits.any mine || decide (s.now < t) then s
        else
          let s := (s.waits.filter mine).foldl (fun (t : State) w => t.applyVals [8] w.vals) s
          let s := { s with waits := s.waits.map fun w => if mine w then { w with late := true } else w }
          let s := (s.wr p ⟨0x084, 4, 16 + o.val, 16 + o.val⟩ 0).hwField p ⟨0x084, 4, 24 + o.val, 24 + o.val⟩ 1
          (((s.count p 3).raise p 3).maybeFinish a.val c.gen))

/-- The legacy writes of output `n` whose rebuild has finished, or all of them, come into force (R389). -/
def State.applyLegs (s : State) (n : Nat) (all : Bool) : State :=
  let due := s.legs.filter fun w => w.out == n && (all || decide (w.ready ≤ s.now))
  if due.isEmpty then s
  else
    let vals := due.map fun w => (w.key, w.value)
    ((({ s with legs := s.legs.filter fun (w : LegWrite) => !(w.out == n && (all || decide (w.ready ≤ s.now))) } : State).applyVals
      (8 :: s.withPair n) vals).afterApply (pagesOf vals))

/-- Every commit leaves an output that stops (R160): waiting ones apply at the stop; an undecided one goes on without it. A member
that has left before its target boundary has none to wait for (R159). -/
def State.departCommits (s : State) (n : Nat) : State :=
  let due := (s.waits.filter (·.out == n)).map fun w => (w.acct, w.gen)
  let s := (due.foldl (fun (t : State) e => match t.waits.find? fun w => w.out == n && w.acct == e.1 && w.gen == e.2 with
    | some w => t.applyWait w true
    | none => t) s).applyLegs n true
  (List.range 32).foldl (fun (t : State) a => match t.commit a with
    | some c =>
      let open_ := (t.rd (comPage a) ACC_COMMIT_STATUS_pending).testBit n
      if c.members.testBit n && !c.departed.testBit n && (open_ || !c.targets.any (·.1 == n)) then
        let t := t.setCommit a (some { c with departed := c.departed + 2 ^ n })
        if open_ then t.hwField (comPage a) ⟨0x084, 4, 16 + n, 16 + n⟩ 0 else t
      else t
    | none => t) s

/-! Syndicate commits (R164). -/

/-- Every participant but this device has sent an admitted token for the tag and frame. -/
def State.partnersIn (s : State) (y : SynTarget) : Bool :=
  (bitsOf y.devices 4).all fun d => d == s.rd gngPage GNG_CTRL_device || s.link.tokensIn.any fun t => t == (y.tag, y.frame, d, 1)

/-- The commit of an account applies at F only if it is locally admitted and every participant's admitted token is in; it is refused
once the limit has passed without them (R164). -/
def State.synDecide (s : State) (a : Nat) : State :=
  match s.commit a with
  | none => s
  | some c => match c.syn with
    | none => s
    | some y =>
      if c.final then s
      else if c.admitted && s.partnersIn y then (s.noteActed a y true).admitCommit a c s.now
      else if s.synOver c y then (if c.admitted then s else s.sendToken y 2).refuseSyn a c y else s

/-- SYNDICATE_DECIDE (R164). -/
def execSyndicateDecide (a : Acct) (s : State) : Host.Outcome State Fault Refusal := .next (s.synDecide a.val)

/-- The syndicate commits whose boundary of F this is are decided by then (R164). -/
def State.synBoundaries (s : State) (n : Nat) : State :=
  (List.range 32).foldl (fun (t : State) a => match t.commit a with
    | some c => if c.members.testBit n && !c.departed.testBit n && t.pastTarget n c then t.synDecide a else t
    | none => t) s

end Sys2Proof.Machine
end

