-- ==== Sys2Proof/Machine/Links.lean ====
section
/-! DEFINITION. Output links (R197 to R206): rates and capacities, bring-up, hot plug, retraining, and their commands. -/

namespace Sys2Proof.Machine

def lnkPage (n : Nat) : Nat := outPage n 6

/-! Rates (R197, R199). -/

/-- The bit rate of a rate code in Mbit/s (OUT_LNK_STATUS.rate). -/
def rateMbps (code : Nat) : Nat :=
  [1620, 2700, 5400, 8100, 10000, 13500, 20000, 2000, 2160, 2430, 3240, 4320, 4000, 8000, 12000, 16000].getD code 0

/-- The code efficiency, as numerator and denominator. -/
def rateEff (code : Nat) : Nat × Nat := if 4 ≤ code ∧ code ≤ 6 then (128, 132) else (4, 5)

/-- The rate codes of a protocol in ascending rate. -/
def protoRates (proto : Nat) : List Nat :=
  if proto = 0 then [0, 1, 2, 3, 4, 5, 6] else if proto = 1 then [0, 8, 9, 1, 10, 11, 2, 3] else [7, 12, 13, 14, 15]

/-- The active width that output `n` carries: its half on a locked pair (R173). -/
def State.halfWidth (s : State) (n : Nat) : Nat :=
  let t := s.inForce n
  if s.pairLocked n then (if n % 2 = 0 then t.split else t.hact - t.split) else t.hact

/-- The stream rate in units of 1/16 kbit/s, times the width of the pair (R199). -/
def State.streamRate (s : State) (n : Nat) : Nat :=
  let t := s.inForce n
  let bpp := if s.rd (outPage n 5) OUT_FMT_CTRL_dsc_en = 1 then s.rd (outPage n 5) OUT_FMT_CTRL_bpp_x16 else 48 * s.depth n
  t.pclk * bpp * s.halfWidth n

/-- A rate carries the stream: capacity × 0.97 is at least the stream rate (R199). -/
def State.carries (s : State) (n lanes code : Nat) : Bool :=
  let (u, d) := rateEff code
  decide (s.streamRate n * d * 100 ≤ lanes * rateMbps code * 1000 * u * 97 * 16 * (s.inForce n).hact)

def State.proto (s : State) (n : Nat) : Nat := s.rd (lnkPage n) OUT_LNK_CTRL_proto
def State.aphy (s : State) (n : Nat) : Bool := decide (2 ≤ s.proto n)

/-- The lanes at which the link trains: the widest that both ends permit. -/
def State.linkLanes (s : State) (n : Nat) (c : SinkCaps) : Nat := if s.aphy n then 1 else min 4 c.lanes

/-- The rate at which the link trains (R199), none where no rate qualifies. -/
def State.linkRate (s : State) (n : Nat) (c : SinkCaps) : Option Nat :=
  (protoRates (s.proto n)).find? fun code =>
    decide (rateMbps code ≤ rateMbps c.maxRate ∧ rateMbps (s.rd (lnkPage n) OUT_LINK_LIMITS_min_rate) ≤ rateMbps code)
      && s.carries n (s.linkLanes n c) code

/-! Link state (R200, R204, R205). -/

def State.linkState (s : State) (n : Nat) : Nat := s.rd (lnkPage n) OUT_LNK_STATUS_state
def State.portOn (s : State) (n : Nat) : Bool := s.rd (lnkPage n) OUT_LNK_CTRL_port_en == 1
def State.present (s : State) (n : Nat) : Bool := s.rd (lnkPage n) OUT_LNK_STATUS_present == 1

/-- LINK_DOWN (R204): port_en and run are 1 and the link is not up. -/
def State.syncLinkDown (s : State) (n : Nat) : State :=
  s.setLevel (lnkPage n) 0 (s.portOn n && s.rd (outPage (s.gen n) 0) OUT_TIM_CTRL_run == 1 && s.linkState n != 4)

/-- OUT_LNK_STATUS.present (R200, R205): HPDn on DisplayPort and eDP, the A-PHY link of a powered port otherwise. -/
def State.syncPresent (s : State) (n : Nat) : State :=
  s.wr (lnkPage n) OUT_LNK_STATUS_present (b2n (if s.aphy n then s.portOn n && (s.port n).phy else (s.port n).hpd))

/-- A change of link state: logged, with LINK_EVENT and the cause where it has a code (R175, R205). -/
def State.setLink (s : State) (n st cause : Nat) : State :=
  let was := s.linkState n
  let s := s.hwField (lnkPage n) OUT_LNK_STATUS_state st
  let s := if st = 4 then s else (s.wr (lnkPage n) OUT_LNK_STATUS_lanes 0)
  let s := s.syncLinkDown n
  if was = st ∧ cause ≠ 5 ∧ cause ≠ 6 then s
  else (if cause = 0 then s else s.wr (lnkPage n) OUT_LNK_CAUSE_cause cause).raise (outPage n 0) 8

/-- R200 from step 1, if the port is on and a partner is present. -/
def State.linkStart (s : State) (n cause : Nat) : State :=
  if s.portOn n && s.present n then
    (s.setPort n { s.port n with attempts := 0, retrain := 0, waiting := false }).setLink n 1 cause
  else s

/-- Step 4 of R200: training begins at the rate of R199 for the present stream, or the link is refused. -/
def State.linkTrain (s : State) (n cause : Nat) : State :=
  match (s.port n).caps with
  | none => s
  | some c => match s.linkRate n c with
    | none => (s.setLink n 5 4).fault (lnkPage n) 2
    | some r => (s.setPort n { s.port n with attempts := 0, goal := (r, s.linkLanes n c) }).setLink n 3 cause

/-- A retrain begins: `kind` 1 trains again a link that is up, 2 starts from discovery. -/
def State.retrainNow (s : State) (n kind : Nat) : State :=
  let s := s.setPort n { s.port n with retrain := 0 }
  let asked := fun (s : State) => s.setPort n { s.port n with again := true }
  if kind = 2 then (asked s).linkStart n 5 else if s.linkState n = 4 then (asked s).linkTrain n 5 else s

/-- A retrain asked for (R204): at the next line start of line vactive of a running output, else now. -/
def State.askRetrain (s : State) (n kind : Nat) : State :=
  if !s.portOn n || !s.present n then s
  else if s.running n then s.setPort n { s.port n with retrain := max kind (s.port n).retrain }
  else s.retrainNow n kind

/-- A write of retrain (R199, R201, R203, R204): from discovery, whatever the link's state; the sink is accepted as it is. -/
def State.retrainWritten (s : State) (n : Nat) : State :=
  if !s.portOn n || !s.present n then s
  else (s.setPort n { s.port n with replug := false, changed := false }).askRetrain n 2

/-- What the start of line vactive does to the link of a running output (R204). -/
def State.linkVblank (s : State) (n : Nat) : State :=
  if (s.port n).retrain = 0 then s else s.retrainNow n (s.port n).retrain

/-- The partner leaves: no lanes driven, state 0 (R203, R205). -/
def State.linkGone (s : State) (n : Nat) : State :=
  let s := (s.setPort n { s.port n with attempts := 0, retrain := 0, waiting := false, again := false }).syncPresent n
  (s.wr (lnkPage n) OUT_LNK_CABLE_valid 0).setLink n 0 2

/-- A link refused before (state 5) starts again after a write that lifts the refusal (R199, R201). -/
def State.linkRetry (s : State) (n : Nat) (causes : List Nat) : State :=
  if s.linkState n = 5 ∧ causes.contains (s.rd (lnkPage n) OUT_LNK_CAUSE_cause) then s.linkStart n 0 else s

/-! Writes of the link and formatter pages. -/

/-- The rule of an OUT_LNK_CTRL write (R97, R197). -/
def State.lnkRule (s : State) (who n : Nat) (v : Word) : Rule :=
  if OUT_LNK_CTRL_proto.get v ≠ s.proto n ∧ s.portOn n then .range
  else if OUT_LNK_CTRL_proto.get v ≥ 2 ∧ n < 4 then .range
  else if OUT_LNK_CTRL_port_en.get v = 0 ∧ s.portOn n ∧ s.plHoldsPort who n then .range
  else .ok

/-- A write of OUT_LNK_CTRL: power of the port, protocol, retrain. -/
def State.lnkWrite (s : State) (who n : Nat) (value : Word) (be : BitVec 4) : State :=
  let p := lnkPage n
  s.writeWith who p OUT_LNK_CTRL.off value be false (s.lnkRule who n) (s.writeRec who p OUT_LNK_CTRL.off) fun v t =>
    let was := t.portOn n
    let t := (t.store p OUT_LNK_CTRL.off v).wr p OUT_LNK_CTRL_retrain 0
    let t := if was && !t.portOn n then
        let t := (t.setPort n { t.port n with retrain := 0, waiting := false, again := false, phy := false }).syncPresent n
        (if t.present n then t else t.wr p OUT_LNK_CABLE_valid 0).setLink n 0 2
      else if !was && t.portOn n then ((t.syncPresent n).linkStart n 1).syncLinkDown n
      else t.syncPresent n
    if v.getLsbD 31 then t.retrainWritten n else t

/-- A write of OUT_LINK_LIMITS (R199, R201). -/
def State.limitsWrite (s : State) (who n : Nat) (value : Word) (be : BitVec 4) : State :=
  let p := lnkPage n
  s.writeWith who p OUT_LINK_LIMITS.off value be false (fun _ => .ok) (s.writeRec who p OUT_LINK_LIMITS.off) fun v t =>
    (t.store p OUT_LINK_LIMITS.off v).linkRetry n [3, 4]

/-- The rule of an OUT_FMT_CTRL write (R198 and the register's map). -/
def State.fmtRule (s : State) (n : Nat) (v : Word) : Rule :=
  let bpp := OUT_FMT_CTRL_bpp_x16.get v
  if s.running n then .range
  else if OUT_FMT_CTRL_dsc_en.get v = 0 then .ok
  else if s.rd (lnkPage n) OUT_LNK_STATUS_dsc_sink = 0 ∨ (s.depth n ≠ 8 ∧ s.depth n ≠ 10) ∨ bpp < 128 ∨ 256 < bpp ∨ 48 * s.depth n ≤ bpp
      ∨ s.halfWidth n % 2 ^ OUT_FMT_CTRL_slices.get v ≠ 0 then .range
  else .ok

/-- A write of OUT_FMT_CTRL (R198, R199). -/
def State.fmtWrite (s : State) (who n : Nat) (value : Word) (be : BitVec 4) : State :=
  let p := outPage n 5
  s.writeWith who p OUT_FMT_CTRL.off value be false (s.fmtRule n) (s.writeRec who p OUT_FMT_CTRL.off) fun v t =>
    (t.store p OUT_FMT_CTRL.off v).linkRetry n [4]

/-! Commands. -/

/-- PORT_ENABLE, PORT_DISABLE (R205), RETRAIN (R204): writes of one field of OUT_LNK_CTRL. -/
def execPortEnable (who : Actor) (o : Out) (s : State) : Host.Outcome State Fault Refusal :=
  .next (s.lnkWrite who.val o.val (s.fieldWrite (lnkPage o.val) OUT_LNK_CTRL_port_en 0 1) 15)
def execPortDisable (who : Actor) (o : Out) (s : State) : Host.Outcome State Fault Refusal :=
  .next (s.lnkWrite who.val o.val (s.fieldWrite (lnkPage o.val) OUT_LNK_CTRL_port_en 0 0) 15)
def execRetrain (who : Actor) (o : Out) (s : State) : Host.Outcome State Fault Refusal :=
  .next (s.lnkWrite who.val o.val (s.fieldWrite (lnkPage o.val) OUT_LNK_CTRL_retrain 0 1) 15)

/-- PARTNER_ARRIVE (R200, R203): HPDn goes high, or the A-PHY link of a powered port comes up. -/
def execPartnerArrive (o : Out) (s : State) : Host.Outcome State Fault Refusal :=
  let n := o.val
  .next (
    if s.present n || (s.aphy n && !s.portOn n) then s
    else
      let v := s.port n
      let s := s.setPort n { v with replug := v.caps.isSome, again := false, hpd := v.hpd || !s.aphy n, phy := v.phy || s.aphy n }
      ((s.syncPresent n).wr (lnkPage n) OUT_LNK_CABLE_valid 0).linkStart n 1)

/-- HPD_UNPLUG (R203): HPDn held low for more than 2 ms; the partner of a DisplayPort or eDP port leaves. -/
def execHpdUnplug (o : Out) (lowNs : Nat) (s : State) : Host.Outcome State Fault Refusal :=
  let n := o.val
  .next (
    if lowNs ≤ 2000000 || !(s.port n).hpd then s
    else
      let s := s.setPort n { s.port n with hpd := false }
      if s.aphy n then s else s.linkGone n)

/-- A_PHY_LINK_DOWN (R200, R203): the A-PHY link falls. -/
def execAPhyLinkDown (o : Out) (s : State) : Host.Outcome State Fault Refusal :=
  let n := o.val
  .next (if !s.aphy n || !s.present n then s else (s.setPort n { s.port n with phy := false }).linkGone n)

/-- A link that an IRQ_HPD may retrain or rediscover: one that R199, R201, R203 or R204 keeps for a write of retrain stays as
it is. -/
def State.heedsIrq (s : State) (n : Nat) : Bool := [1, 2, 3, 4].contains (s.linkState n) && !(s.port n).waiting

/-- HPD_IRQ (R203): a low pulse of 250 µs to 2 ms. -/
def execHpdIrq (o : Out) (lowNs : Nat) (lockLost capsChanged : Bool) (s : State) : Host.Outcome State Fault Refusal :=
  let n := o.val
  .next (
    if s.aphy n || lowNs < 250000 || 2000000 < lowNs || !s.present n then s
    else
      let s := s.count (lnkPage n) 1
      if !s.heedsIrq n then s
      else if capsChanged then s.askRetrain n 2 else if lockLost then s.askRetrain n 1 else s)

/-- The discovery record as words of OUT_LNK_DISC. -/
def State.setDisc (s : State) (n : Nat) (record : List Byte) : State :=
  (List.range 256).foldl (fun (t : State) i =>
    t.setReg (fkey (lnkPage n) OUT_LNK_DISC i) (BitVec.ofNat 32 (ofLeBytes ((record.drop (4 * i)).take 4)))) s

/-- The capability fields that bear on R199 and R201. -/
def bearing (c : SinkCaps) : Nat × Nat × Bool := (c.maxRate, c.lanes, c.dsc)

/-- DISCOVERY_DONE (R200 step 1): the partner's capabilities and its 1,024-byte record are held; the cable is measured
next. A replugged partner whose capabilities differ is noted for the end of step 3. -/
def execDiscoveryDone (o : Out) (caps : SinkCaps) (record : List Byte) (s : State) : Host.Outcome State Fault Refusal :=
  let n := o.val
  if record.length ≠ 1024 then .fault .badOperand
  else .next (
    if s.linkState n ≠ 1 then s
    else
      let v := s.port n
      let differs := v.changed || match v.caps with | some c => v.replug && bearing c != bearing caps | none => false
      let p := lnkPage n
      let s := (s.setDisc n record).setPort n { v with caps := some caps, replug := false, changed := differs }
      let s := (s.wr p OUT_LNK_STATUS_adaptive_sync (b2n caps.vrr.isSome)).wr p OUT_LNK_STATUS_dsc_sink (b2n caps.dsc)
      let s := (s.wr p OUT_LNK_SINK_VRR_min_hz (min 255 (caps.vrr.getD (0, 0)).1)).wr p OUT_LNK_SINK_VRR_max_hz (min 255 (caps.vrr.getD (0, 0)).2)
      s.setLink n 2 0)

/-- CABLE_MEASURE_DONE (R200 steps 2 to 4, R201): `length` in units of 0.05 m, none over range. -/
def execCableMeasureDone (o : Out) (length : Option Nat) (s : State) : Host.Outcome State Fault Refusal :=
  let n := o.val
  let p := lnkPage n
  .next (
    if s.linkState n ≠ 2 ∨ (s.port n).waiting then s
    else match (s.port n).caps with
      | none => s
      | some c =>
        let far := match length with | some l => decide (400 < l) | none => true
        let len := match length with | some l => max 6 l | none => 0
        let s := (s.wr p OUT_LNK_CABLE_length (if far then 0x1FF else len)).wr p OUT_LNK_CABLE_valid 1
        let cable := far || decide (s.rd p OUT_LINK_LIMITS_cable_max < len)
        let partner := decide (rateMbps c.maxRate < rateMbps (s.rd p OUT_LINK_LIMITS_min_rate))
          || (!s.aphy n && decide (c.lanes < s.rd p OUT_LINK_LIMITS_min_lanes))
        if cable || partner then
          let s := s.setLink n 5 3
          let s := if cable then s.fault p 1 else s
          if partner then s.fault p 2 else s
        else if (s.port n).changed then (s.setPort n { s.port n with waiting := true }).setLink n 2 6
        else s.linkTrain n 0)

/-- TRAINING_DONE (R204): the link is up, or tries again, or has failed after 3 attempts. -/
def execTrainingDone (o : Out) (ok : Bool) (s : State) : Host.Outcome State Fault Refusal :=
  let n := o.val
  let p := lnkPage n
  .next (
    if s.linkState n ≠ 3 then s
    else
      let v := s.port n
      let s := if v.again then s.count p 0 else s
      if ok then
        let s := s.setPort n { v with attempts := 0, again := false }
        ((s.wr p OUT_LNK_STATUS_rate v.goal.1).setLink n 4 8).wr p OUT_LNK_STATUS_lanes v.goal.2
      else if 3 ≤ v.attempts + 1 then
        ((s.setPort n { v with attempts := 0, again := false }).setLink n 6 7).fault p 3
      else s.setPort n { v with attempts := v.attempts + 1 })

end Sys2Proof.Machine
end

