-- ==== Sys2Proof/Machine/Timing.lean ====
section
/-! DEFINITION. The timing page (R168 to R174, R185, R192): what its writes are refused for, enabling, starting and
stopping an output, and the static state's retained frame. -/

namespace Sys2Proof.Machine

def timPage (n : Nat) : Nat := outPage n 0

/-! The rules of timing writes (R169, R170, R173, R185, R202). -/

/-- The refresh rate is at most `hz`, and at least `hz`. -/
def Timing.atMost (t : Timing) (hz : Nat) : Bool := decide (t.pclk * 1000 ≤ hz * t.htotal * t.vtotal)
def Timing.atLeast (t : Timing) (hz : Nat) : Bool := decide (hz * t.htotal * t.vtotal ≤ t.pclk * 1000)

/-- The sum of the pixel clocks of enabled outputs other than `n`, a locked pair counted once. -/
def State.otherClocks (s : State) (n : Nat) : Nat :=
  (s.heads.filter fun m => m != s.gen n && (s.out m).enabled).foldl (fun t m => t + (s.timing m).pclk) 0

/-- R169 on the timing that the registers of output `n` hold; `runs`: the output counts as running. -/
def State.timingOk (s : State) (n : Nat) (runs : Bool) : Bool :=
  let t := s.timing (s.gen n)
  let pair := s.pairLocked n
  let halves := [t.split, t.hact - t.split]
  (if pair then
      decide (16 ≤ t.hact ∧ t.hact ≤ 16384 ∧ t.pclk ≤ 2700000 ∧ t.split ≤ t.hact) &&
        halves.all fun w => decide (8 ≤ w ∧ w ≤ 8192 ∧ t.pclk * w ≤ 1350000 * t.hact)
    else decide (8 ≤ t.hact ∧ t.hact ≤ 8192 ∧ t.pclk ≤ 1350000))
    && decide (t.split % 8 = 0) && t.atMost 240 && t.atLeast 1 && decide (t.lead < t.vtotal)
    && t.atMost (s.rmax n) && (!runs || decide (t.pclk + s.otherClocks n ≤ 10800000))

/-- OUT_REF_CTRL names a source. -/
def State.namesRef (s : State) (n : Nat) : Bool :=
  [OUT_REF_CTRL_prio0, OUT_REF_CTRL_prio1, OUT_REF_CTRL_prio2, OUT_REF_CTRL_prio3].any fun f => s.rd (timPage (s.gen n)) f != 0

/-- The applied scene of output `n` has an enabled racing layer placed on it. -/
def State.racesNow (s : State) (n : Nat) : Bool :=
  racingScene (placedOn (s.scene n) s.layOwner (slotsIn (s.scene n) n) n (s.inForce n).hact (s.inForce n).vact)

/-- R185 with vrr_en 1: what every run or vrr_en write needs. -/
def State.vrrOk (s : State) (n : Nat) : Bool :=
  let t := s.timing (s.gen n)
  !s.namesRef n && decide (t.lead < t.vtotal - t.vact) && !s.racesNow (s.gen n)
    && (s.withPair n).all (fun m => s.rd (lnkPage m) OUT_LNK_STATUS_adaptive_sync == 1) && decide (t.vtotal ≤ t.vtotalMax)

/-- R202: the refresh range that the sink declared. -/
def State.vrrRangeOk (s : State) (n : Nat) : Bool :=
  let t := s.timing (s.gen n)
  (s.withPair n).all fun m => t.atMost (s.rd (lnkPage m) OUT_LNK_SINK_VRR_max_hz)
    && decide (s.rd (lnkPage m) OUT_LNK_SINK_VRR_min_hz * t.htotal * t.vtotalMax ≤ t.pclk * 1000)

/-- A free press: no role, and cleared (R128). -/
def State.freePress (s : State) (p : Nat) : Bool :=
  s.rd (pressPage p) MNT_P_ROLE_role == 0 && s.rd (pressPage p) MNT_P_ROLE_clearing == 0

/-- A free press of the open reserve, from which outputs are served (R18); what A0 has placed in A16's sub-reserve is not there. -/
def State.reservePress (s : State) (p : Nat) : Bool := s.freePress p && s.owner (pressPage p) == ownReserve

/-- The open-world accounts that contribute to output `n`. -/
def State.openContrib (s : State) (n : Nat) : List Nat := ((s.slots n).map (·.acct)).filter fun a => !s.trustedAcct a

/-- The open-world accounts that the presses of branch `b` serve, an output press serving its output's contributor (R302). -/
def State.branchAccts (s : State) (b : Nat) : List Nat :=
  (List.range 4).flatMap fun i =>
    let p := pressPage (4 * b + i)
    let role := s.rd p MNT_P_ROLE_role
    if role = 1 then s.openContrib (s.rd p MNT_P_ROLE_output)
    else if role = 2 ∧ !s.trustedAcct (s.rd p MNT_P_ROLE_account) then [s.rd p MNT_P_ROLE_account] else []

/-- In strict isolation mode, a branch whose presses may also serve the accounts `accts` (R100, R302). -/
def State.branchTakes (s : State) (accts : List Nat) (b : Nat) : Bool := (s.branchAccts b ++ accts).eraseDups.length ≤ 1

/-- Strict isolation mode. -/
def State.strict (s : State) : Bool := s.rd (cusPage 0) CUS_ISOLATION_strict == 1

/-- In strict isolation mode, a branch from which output `n` takes presses (R100): its presses are free, or serve this output
or an open-world account that contributes to it, an output press serving its output's contributor. -/
def State.branchJoins (s : State) (n b : Nat) : Bool :=
  let mine := s.openContrib n
  (List.range 4).all fun i =>
    let p := pressPage (4 * b + i)
    let role := s.rd p MNT_P_ROLE_role
    if role = 0 then true
    else if role = 1 then
      let o := s.rd p MNT_P_ROLE_output
      o == s.gen n || (!(s.openContrib o).isEmpty && (s.openContrib o).all mine.contains)
    else mine.contains (s.rd p MNT_P_ROLE_account)

/-- The presses that an enabling write assigns (R100), none where they do not suffice. -/
def State.choosePresses (s : State) (n : Nat) : Option (List Nat) :=
  let want := s.rd (outPage n 2) OUT_CMP_PRESS_count
  let free := (List.range 128).filter fun p =>
    s.reservePress p && (!s.strict || (s.branchTakes (s.openContrib n) (p / 4) && s.branchJoins n (p / 4)))
  if free.length < want then none else some (free.take want)

/-- The cheque records that an output reserves (R141). -/
def recordsFor (w : Nat) : Nat := max (4 * cdiv w 64) (64 * cdiv w 256)

/-- An amount of A16's sub-reserve, by kind, and what accounts hold of it (R254). -/
def State.subTotal (s : State) (kind : Nat) : Nat := NatTbl.at_ s.subPool kind
def State.subDrawn (s : State) (kind a : Nat) : Nat := NatTbl.at_ s.subPool (64 * kind + a + 64)
def State.subFree (s : State) (kind : Nat) : Nat := s.subTotal kind - (List.range 32).foldl (fun n a => n + s.subDrawn kind a) 0

/-- Records of the pool in use: reserved by outputs, granted as credit, and in the sub-reserve (R141, R254, R261). -/
def State.recordsUsed (s : State) : Nat := s.subFree 5 +
  (List.range 8).foldl (fun n o => n + (s.out o).records) 0 + (List.range 32).foldl (fun n a => n + (s.acct a).credit) 0

/-- The 8 MiB pool holds 131,072 records of 64 bytes. -/
def poolRecords : Nat := 131072

/-- The enabling write of output `n` is in order (R174). -/
def State.enableOk (s : State) (n : Nat) : Bool :=
  s.timingOk n true && (s.choosePresses n).isSome && decide (s.recordsUsed + recordsFor (s.timing n).hact ≤ poolRecords)

/-- The routines captured for the layers, as some output has them. -/
def State.captured (s : State) : List (Nat × Routine) :=
  (List.range 128).filterMap fun l =>
    ((List.range 8).findSome? fun n => Tbl.get (fun _ => none) s.routines (128 * n + l)).map fun r => (l, r)

/-- An account's scene passes checks 1 to 3 of R155 with output `n` at `rate` (R170). -/
def State.rateFits (s : State) (n rate a : Nat) (sc : Scene) (vals : List (Nat × Word)) : Bool :=
  let f := fun m => if m = s.gen n then rate else s.rmax m
  decide (s.fetchDemand a sc f ≤ s.reservation a)
    && (match s.slotOf n a with | some v => decide (s.laneDemand a sc vals (s.gen n) rate ≤ v.share * 10000000) | none => true)
    && decide (s.effectDemand a sc s.captured f ≤ (s.acct a).share * 10000000)

/-- R170 on a write of OUT_TIM_RMAX. -/
def State.rmaxOk (s : State) (n rate : Nat) : Bool :=
  let accts := (s.slots n).map (·.acct)
  (s.timing (s.gen n)).atMost rate &&
    (rate ≤ s.rmax n || accts.all fun a => s.rateFits n rate a (s.scene 8) [] && s.rateFits n rate a (s.wouldBe a []) [])

/-- A write of a timing or reference register of the odd output of a locked pair (R173). -/
def State.oddHalf (s : State) (n off : Nat) : Bool :=
  n % 2 == 1 && s.pairLocked n && decide (off ≤ OUT_REF_TRIM.off) && off != OUT_TIM_MATCH0.off && off != OUT_TIM_MATCH1.off

/-- The rule of a write to the timing page. -/
def State.timRule (s : State) (who n off : Nat) (v : Word) : Rule :=
  let p := timPage n
  let t := s.setReg (regKey p off) (s.produced p off v)
  let ok := fun (b : Bool) => if b then Rule.ok else .range
  if s.oddHalf n off then .range
  else if off = OUT_TIM_CTRL.off then
    let rise := OUT_TIM_CTRL_run.get v == 1 && s.rd p OUT_TIM_CTRL_run == 0
    let fall := OUT_TIM_CTRL_run.get v == 0 && s.rd p OUT_TIM_CTRL_run == 1
    let lock := OUT_TIM_CTRL_pair_lock.get v != s.rd p OUT_TIM_CTRL_pair_lock
    let vrr := OUT_TIM_CTRL_vrr_en.get v == 1
    let vrise := vrr && s.rd p OUT_TIM_CTRL_vrr_en == 0
    ok (!(lock && (n % 2 == 1 || (s.out n).enabled || (s.out (n + 1)).enabled))
      && (!lock || t.timingOk n false)
      && (!rise || (s.out n).stopReq || t.enableOk n)
      && (!fall || !s.plHolds who n)
      && (!(vrr && (rise || vrise)) || t.vrrOk n) && (!vrise || t.vrrRangeOk n))
  else if off = OUT_TIM_RMAX.off then ok (s.rmaxOk n (OUT_TIM_RMAX_rate.get v))
  else if off = OUT_REF_CTRL.off then
    let cs := [OUT_REF_CTRL_prio0, OUT_REF_CTRL_prio1, OUT_REF_CTRL_prio2, OUT_REF_CTRL_prio3].filterMap fun f =>
      if f.get v = 0 then none else some (f.get v)
    ok (cs.eraseDups.length == cs.length)
  else if off ≤ OUT_TIM_VRR.off then
    ok (t.timingOk n (s.out (s.gen n)).enabled
      && (s.rd (timPage (s.gen n)) OUT_TIM_CTRL_vrr_en == 0 || decide ((t.timing (s.gen n)).vtotal ≤ (t.timing (s.gen n)).vtotalMax)))
  else .ok

/-! The frame reference's registers (R192, R195). -/

/-- REF_LOST (R195): prio0 names a source and the crystal is selected. -/
def State.syncRefLost (s : State) (n : Nat) : State :=
  s.setLevel (timPage n) 1 (s.rd (timPage n) OUT_REF_CTRL_prio0 != 0 && s.rd (timPage n) OUT_REF_STATUS_selected == 0)

/-- A change of the selected reference or its state: logged, with REF_CHANGE (R195). -/
def State.setRef (s : State) (n sel st : Nat) : State :=
  let k := fkey (timPage n) OUT_REF_STATUS 0
  let new := OUT_REF_STATUS_state.put (OUT_REF_STATUS_selected.put (s.reg k) sel) st
  let s' := if new = s.reg k then s else (s.hwChange k new).raise (timPage n) 9
  s'.syncRefLost n

/-- A write to OUT_REF_CTRL, or a change of vtotal or pclk (R192). A lost target leaves holdover at a write of OUT_REF_CTRL alone. -/
def State.refWritten (s : State) (n : Nat) (ctrl : Bool) : State :=
  let target := s.rd (timPage n) OUT_REF_STATUS_target
  let s := s.setOut n { s.out n with lockRun := 0 }
  if target ≠ 0 ∧ (ctrl ∨ s.rd (timPage n) OUT_REF_STATUS_state ≠ 3) then s.setRef n (s.rd (timPage n) OUT_REF_STATUS_selected) 1
  else if ctrl then s.setRef n 0 0 else s.syncRefLost n

/-! The retained frame (R188). -/

/-- Vault space held for retention, in 64 KiB units, given back or taken. -/
def State.moveSpace (s : State) (give take : Nat) : State :=
  s.wr (vltPage 0) VLT_SPACE_retained (s.rd (vltPage 0) VLT_SPACE_retained + take - give)

/-- The retained frame of an output freed. -/
def State.freeRetained (s : State) (n : Nat) : State :=
  match (s.out n).retained with
  | none => s
  | some r =>
    let s := (s.setOut n { s.out n with retained := none }).moveSpace r.units 0
    (s.wr (timPage n) OUT_STATIC_STATUS_retained 0).wr (timPage n) OUT_STATIC_STATUS_size 0

/-- Retention given up (R188, R190): its space freed, and the abandonment logged as a hardware change. -/
def State.dropRetained (s : State) (n : Nat) : State :=
  if (s.out n).retained.isNone then s
  else
    let k := fkey (timPage n) OUT_STATIC_STATUS 0
    let t := s.freeRetained n
    State.settle (t.hwRaw k (s.reg k) (t.reg k))

/-! Real-time ports (R232). -/

/-- A port asserts panic. -/
def State.anyPanic (s : State) : Bool := (List.range 11).any fun n => s.rd (memPage 18) MEM_RT_panic n == 1

/-- MEM_LT_MIN from the ports, and since when every port has been unlimited (R235). -/
def State.syncPorts (s : State) : State :=
  let tol := fun n => s.rd (memPage 18) MEM_RT_tolerance n
  let least := ((List.range 11).map tol).foldl min 0xFFFF
  let port := ((List.range 11).find? fun n => tol n == least).getD 0
  let s := (s.wr (memPage 0) MEM_LT_MIN_tolerance least).wr (memPage 0) MEM_LT_MIN_port port
  let panic := s.anyPanic
  let s := match s.mem.panicAt, panic with
    | some t, false => ({ s with mem := { s.mem with panicAt := none } } : State).addTime (memPage 18) 0 t
    | none, true => { s with mem := { s.mem with panicAt := some s.now } }
    | _, _ => s
  { s with mem := { s.mem with unlimitedAt := if least = 0xFFFF then some (s.mem.unlimitedAt.getD s.now) else none } }

/-- What a port reports. -/
def State.setPort11 (s : State) (n tol : Nat) (urgent panic : Bool) : State :=
  (((s.wr (memPage 18) MEM_RT_tolerance tol n).wr (memPage 18) MEM_RT_urgent (b2n urgent) n).wr (memPage 18) MEM_RT_panic (b2n panic) n).syncPorts

/-! Starting and stopping (R174). -/

/-- The presses assigned, in rank order (R100). -/
def State.assigned (s : State) (n : Nat) : List Nat := s.pressesOf 1 (s.gen n)

/-- A press given a role. -/
def State.setRole (s : State) (p role out acct : Nat) : State :=
  ((s.wr (pressPage p) MNT_P_ROLE_role role).wr (pressPage p) MNT_P_ROLE_output out).wr (pressPage p) MNT_P_ROLE_account acct

/-- The enabling write admitted: presses assigned and woken, records reserved (R18, R49, R141, R199). -/
def State.enableOutput (s : State) (n : Nat) : State :=
  let ps := (s.choosePresses n).getD []
  let s := s.setOut n { OutS.zero with enabled := true, records := recordsFor (s.timing n).hact, refs := (s.out n).refs, safeAt := (s.out n).safeAt,
                                       dispFrame := s.rd (timPage n) OUT_TIM_FRAME_count }
  let by_ := s.nextBoundary n
  let s := ps.foldl (fun (t : State) p => ((t.setRole p 1 n 0).wakeAsk (pressPage p) 0 by_).syncNoMint p) s
  let s := s.wr (outPage n 2) OUT_CMP_ASSIGNED_count ps.length
  (s.withPair n).foldl (fun (t : State) m => t.linkRetry m [4]) s

/-- A press returns to the reserve: it clears before it serves again (R128); a wake not begun is cancelled, one begun completes
(R48). -/
def State.releasePress (s : State) (p : Nat) : State :=
  let s := ((s.setRole p 0 0 0).wr (pressPage p) MNT_P_ROLE_clearing 1).setPress p []
  let pg := pressPage p
  let s := if s.power pg = 2 then s
    else ({ s with seq := { s.seq with queue := s.seq.queue.filter fun w => w.page != pg } }.setPower pg 0).syncSeq
  (s.syncPress p).syncNoMint p

/-! Two-bank tables (R122, R165). -/

/-- When READY was set on a two-bank table (plus 1), and whether its background bank was written since its last swap. -/
def State.ready (s : State) (t : Nat) : Nat := NatTbl.at_ s.readyAt t
def State.setReady (s : State) (t v : Nat) : State := { s with readyAt := NatTbl.put s.readyAt t v }
def State.wasWritten (s : State) (t : Nat) : Bool := Tbl.get (fun _ => false) s.written t
def State.setWritten (s : State) (t : Nat) (b : Bool) : State := { s with written := Tbl.set (fun _ => false) s.written t b }

/-- The numbers of the two-bank tables. -/
def colTable (n t : Nat) : Nat := n * 3 + t
def sclTable (c : Nat) (vert : Bool) : Nat := 100 + 2 * c + b2n vert

/-- The coefficient registers of a scaler's background bank: the first, and their number. -/
def coefRegs (vert : Bool) : Fld × Nat := if vert then (SCL_VCOEF, 192) else (SCL_HCOEF, 256)

/-- A scaler's bank of one direction swaps: the contents exchange (R165, R122). -/
def State.swapScl (s : State) (c : Nat) (vert : Bool) : State :=
  let p := sclPage c
  let (f, n) := coefRegs vert
  let s := (List.range n).foldl (fun (t : State) i =>
    let k := fkey (p + 1) f i
    let back := t.reg k
    (t.setReg k (t.lut (coefKey c vert i))).setLut (coefKey c vert i) back) s
  let act := if vert then SCL_BANK_v_active else SCL_BANK_h_active
  let rdy := if vert then SCL_BANK_v_ready else SCL_BANK_h_ready
  ((s.wr p act (1 - s.rd p act)).wr p rdy 0 |>.setReady (sclTable c vert) 0).setWritten (sclTable c vert) false

/-- A scaler that serves no placement swaps each bank as soon as READY is set (R122). -/
def State.swapIdle (s : State) (c : Nat) : State :=
  if s.rd (sclPage c) SCL_STATUS_in_use = 1 then s
  else [false, true].foldl (fun (t : State) v => if t.ready (sclTable c v) ≠ 0 then t.swapScl c v else t) s

/-- A scaler ceases to serve its placement. -/
def State.freeScaler (s : State) (c : Nat) : State := (s.setReg (fkey (sclPage c) SCL_STATUS 0) 0).swapIdle c

/-- An output's scalers serve no placement of it any longer. -/
def State.dropScalers (s : State) (n : Nat) : State :=
  (List.range 32).foldl (fun (t : State) c =>
    if t.rd (sclPage c) SCL_STATUS_in_use = 1 ∧ t.rd (sclPage c) SCL_STATUS_output = n then t.freeScaler c else t) s

/-- The safe state's marks of an output (R320, R321), logged. -/
def State.setSafe1 (s : State) (n v : Nat) : State :=
  let s := s.hwField (outPage n 4) OUT_KPR_STATUS_safe v
  (s.wr (plPage n) PL_STATUS_safe v).wr (fltPage 2) ⟨0x0A0, 4, n, n⟩ v

/-- The layers enabled in the applied scene of an output. -/
def State.layersOn (s : State) (n : Nat) : List Nat := (List.range 128).filter fun l => s.rdA n (layPage l) LAY_CTRL_enable == 1

/-- The output stops (R174): the generator stops, the FIFO empties, commits leave it (R160), its cheques are abandoned,
its presses and records return to the reserve. -/
def State.stopOutput (s : State) (n : Nat) : State :=
  let s := s.departCommits n
  let s := (s.chequesOf fun c => c.acct.isNone && c.out == n).foldl State.abandon s
  let s := (s.assigned n).foldl State.releasePress s
  let s := (s.freeRetained n).dropScalers n
  let s := (s.withPair n).foldl (fun (t : State) m => t.setOut m { OutS.zero with refs := (t.out m).refs, safeAt := (t.out m).safeAt }) s
  let s := (s.setReg (fkey (timPage n) OUT_STATIC_STATUS 0) 0).wr (outPage n 2) OUT_CMP_ASSIGNED_count 0
  let s := (s.withPair n).foldl (fun (t : State) m =>
    let t := ((t.setReg (fkey (timPage m) OUT_TIM_STATUS 0) 0).wr (outPage m 1) OUT_FIFO_LEVEL_fill 0).setReg (fkey (outPage m 1) OUT_LT_STATUS 0) 0xFFFF
    let t := (t.wr (plPage m) PL_STATUS_drawing 0).wr (outPage m 4) OUT_KPR_STATUS_pl_drawing 0
    ((if t.rd (outPage m 4) OUT_KPR_STATUS_safe = 1 then t.setSafe1 m 0 else t).syncLinkDown m).setPort11 m 0xFFFF false false) s
  let s := (s.layersOn n).foldl State.syncLayer s
  let s := (List.range 2).foldl (fun (t : State) c =>
    t.setCap c { t.cap c with readers := (t.cap c).readers.filter fun (e : Nat × Nat) => e.1 % 16 != n }) s
  (s.withPair n).foldl State.linkVblank (s.setRef n 0 0)

/-! Writes of the timing page. -/

/-- What an admitted write of the timing page does beyond the register (R171, R174, R186, R192): run rises or falls, the
frame reference returns to acquiring, and an RWI or OUT_STATIC_* register counts as an occurrence. -/
def State.timEffect (s : State) (n off : Nat) (v : Word) : State :=
  let p := timPage n
  let was := s.rd p OUT_TIM_CTRL_run
  let t0 := s.timing n
  let s := s.store p off v
  let t1 := s.timing n
  let run := s.rd p OUT_TIM_CTRL_run
  let s := if was = 0 ∧ run = 1 then
      (if (s.out n).stopReq then s.setOut n { s.out n with stopReq := false } else s.enableOutput n)
    else if was = 1 ∧ run = 0 then
      (if s.running n then s.setOut n { s.out n with stopReq := true } else s.stopOutput n)
    else s
  let s := if was ≠ run then (s.withPair n).foldl State.syncLinkDown s else s
  let s := if off = OUT_TIM_CTRL.off then s.syncSafe else s
  let s := if off = OUT_REF_CTRL.off then s.refWritten n true
    else if t0.vtotal ≠ t1.vtotal ∨ t0.pclk ≠ t1.pclk then s.refWritten n false else s
  if off = OUT_TIM_MATCH0.off ∨ off = OUT_TIM_MATCH1.off then s else s.touch n

/-- A write of a register of the timing page. -/
def State.timWrite (s : State) (who n off : Nat) (value : Word) (be : BitVec 4) : State :=
  let p := timPage n
  s.writeWith who p off value be false (s.timRule who n off) (s.writeRec who p off) fun v t => t.timEffect n off v

/-- A write of one field of the timing page. -/
def State.timField (s : State) (who n : Nat) (f : Fld) (v : Nat) : State :=
  s.timWrite who n f.off (s.fieldWrite (timPage n) f 0 v) 15

/-- OUTPUT_ENABLE, OUTPUT_DISABLE (R174), PAIR_LOCK (R173), VRR_ENABLE (R185), RMAX_WRITE (R170). -/
def execOutputEnable (who : Actor) (o : Out) (s : State) : Host.Outcome State Fault Refusal :=
  .next (s.timField who.val o.val OUT_TIM_CTRL_run 1)
def execOutputDisable (who : Actor) (o : Out) (s : State) : Host.Outcome State Fault Refusal :=
  .next (s.timField who.val o.val OUT_TIM_CTRL_run 0)
def execPairLock (who : Actor) (o : Out) (on : Bool) (s : State) : Host.Outcome State Fault Refusal :=
  .next (s.timField who.val o.val OUT_TIM_CTRL_pair_lock (b2n on))
def execVrrEnable (who : Actor) (o : Out) (s : State) : Host.Outcome State Fault Refusal :=
  .next (s.timField who.val o.val OUT_TIM_CTRL_vrr_en 1)
def execRmaxWrite (who : Actor) (o : Out) (rate : Byte) (s : State) : Host.Outcome State Fault Refusal :=
  .next (s.timField who.val o.val OUT_TIM_RMAX_rate rate.toNat)

/-- OUTPUT_STOP (R174): the line start at which a stop asked for takes effect. -/
def execOutputStop (o : Out) (s : State) : Host.Outcome State Fault Refusal :=
  let n := s.gen o.val
  .next (if (s.out n).enabled && (s.out n).stopReq then s.stopOutput n else s)

end Sys2Proof.Machine
end

