-- ==== Sys2Proof/Machine/Vault.lean ====
section
/-! DEFINITION. Accesses to the memories as the units of the device make them: the vault's SECDED and address parity
(R249), DRAM channels, buckets and inline ECC (R224 to R244), and what a blocked or failed access raises (R283, R295). -/

namespace Sys2Proof.Machine

/-! The vault (R245, R249). -/

/-- Injections at any checker of a list of sources of a page: the pattern of the one used. -/
def State.useAny (s : State) (p : Nat) : List Nat → State × Option Nat
  | [] => (s, none)
  | i :: t => match s.useInject p i with
    | (s', some k) => (s', some k)
    | (_, none) => s.useAny p t

/-- One access to the 64-byte line of vault offset `off`: counted, with its address parity. True where that fails. -/
def State.vltParity (s : State) (off : Nat) : State × Bool :=
  let p := vltGroup off
  match (s.count p 3).useInject p 1 with
  | (s, some _) => ((s.count p 2).fault p 1, true)
  | (s, none) => (s, false)

/-- The SECDED of the words of a line: a single-bit error is corrected. True where it fails. -/
def State.vltWords (s : State) (off : Nat) : State × Bool :=
  let p := vltGroup off
  match s.useInject p 0 with
  | (s, some 0) => (s.count p 0, false)
  | (s, some _) => ((s.count p 1).fault p 0, true)
  | (s, none) => (s, false)

/-- One access to the 64-byte line of vault offset `off`, with both checks. True where one fails. -/
def State.vltLine (s : State) (off : Nat) : State × Bool :=
  match s.vltParity off with
  | (s, true) => (s, true)
  | (s, false) => s.vltWords off

/-- The lines of an access, each checked; true where any fails. -/
def State.vltLines (s : State) : List Nat → State × Bool
  | [] => (s, false)
  | l :: t =>
    let (s, a) := s.vltLine (64 * l)
    let (s, b) := s.vltLines t
    (s, a || b)

/-- A racing-layer update of R186: a write into the source extent of a vault racing layer that an output shows. -/
def State.vaultTouched (s : State) (addr len : Nat) : State :=
  (s.heads.filter fun n => (s.out n).enabled && (s.layersOn n).any fun l =>
    let y := layOf (s.scene n) 0 l
    y.racing && y.kind == 1 && y.outputs.testBit n && y.planes.any fun q =>
      decide ((y.extent q).1 < addr + len ∧ addr < (y.extent q).1 + (y.extent q).2)).foldl (fun (t : State) n => t.touch n) s

/-- The 64-bit words of a part of a line that the write covers whole: address and length (R249). -/
def wholeWords (a n : Nat) : Nat × Nat :=
  let lo := cdiv a 8 * 8
  (lo, (a + n) / 8 * 8 - lo)

/-- Vault lines written (R249): whole 64-bit words need no check of what they replace and are stored whatever the check of a partial
word in the line finds, which merges nothing; an address parity error stops the access. True where any part failed. -/
def State.vltStore (s : State) (addr : Nat) (data : List Byte) : List Nat → State × Bool
  | [] => (s, false)
  | l :: t =>
    let (a, n) := inLine addr data.length l
    let (s, stopped) := s.vltParity (64 * l)
    let (s, ue) := if stopped || (a % 8 == 0 && n % 8 == 0) then (s, false) else s.vltWords (64 * l)
    let (lo, m) := if ue then wholeWords a n else (a, n)
    let s := if stopped then s else s.storeVault lo ((data.drop (lo - addr)).take m)
    let (s, b) := s.vltStore addr data t
    (s, stopped || ue || b)

/-! Inline ECC (R241 to R244). -/

/-- What a checked line is found to be, by what it holds and by the error injected into it (R243, R325). -/
inductive EccAct where
  | clean | corrected (bs : Option (List Byte)) | uncorrectable | poison
  deriving DecidableEq, Repr

/-- The finding on a line as it stands, with an injected error: 0 one bit, 1 two bits, else the poison pattern. -/
def eccAct : EccFound → Option Nat → EccAct
  | .clean, none => .clean
  | .clean, some 0 => .corrected none
  | .clean, some 1 => .uncorrectable
  | .clean, some _ => .poison
  | .corrected bs, none => .corrected (some bs)
  | .corrected _, some _ => .uncorrectable
  | .poisoned, none => .poison
  | .poisoned, some 0 => .uncorrectable
  | .poisoned, some 1 => .uncorrectable
  | .poisoned, some _ => .clean
  | .uncorrectable, _ => .uncorrectable

/-- What a finding leaves: its tally, its fault source, and, where enabled, the corrected line written back. -/
def State.eccDo (s : State) (line : Nat) : EccAct → State × Option MemErr
  | .clean => (s, none)
  | .corrected bs =>
    let t := s.count (memPage 17) 0
    if t.rd (memPage 17) MEM_ECC_CTRL_wb_en = 1 ∧ !(t.wq (t.channel (64 * line))).any fun (e : Nat × List Byte) => e.1 / 64 == line then
      (((match bs with | some b => t.storeDram (64 * line) b | none => t).retag line false).count (memPage 17) 4, none)
    else (t, none)
  | .uncorrectable => ((s.count (memPage 17) 1).fault (memPage 17) 0, some MemErr.uncorrectable)
  | .poison => ((s.count (memPage 17) 3).fault (memPage 17) 2, some MemErr.poison)

/-- The check of a line of an inline ECC region as it is read. -/
def State.eccLine (s : State) (line : Nat) : State × Option MemErr :=
  if (s.eccRegion (64 * line)).isNone then (s, none)
  else
    let (s, inj) := s.useAny (memPage 17) [0, 1, 2]
    s.eccDo line (eccAct (s.eccFound line) inj)

/-- One line of a DRAM read (R227): forwarded whole from the queue, else read after the queued writes to it. -/
def State.readLine (s : State) (o addr len line : Nat) : State × Option MemErr :=
  let (a, n) := inLine addr len line
  let c := s.channel (64 * line)
  let q := s.wq c
  if n ≠ 0 ∧ (List.range n).all fun i => (queuedByte q (a + i)).isSome then ((s.touchRank a).count (chPage c) 2, none)
  else ((((s.issueLine line).chAccess (64 * line) false).spend o).eccLine line)

/-- The lines of a DRAM read; the first error. -/
def State.readLines (s : State) (o addr len : Nat) : List Nat → State × Option MemErr
  | [] => (s, none)
  | l :: t =>
    let (s, e) := s.readLine o addr len l
    let (s, e') := s.readLines o addr len t
    (s, match e with | some x => some x | none => e')

/-- One line of a DRAM write (R227, R244): a whole line gets its correct tag as it is issued; a partial write of a region line is a
read-modify-write, whose read the queue may forward, and poisons a line that fails. -/
def State.writeLine (s : State) (o addr : Nat) (data : List Byte) (line : Nat) : State × Option MemErr :=
  let (a, n) := inLine addr data.length line
  let part := (data.drop (a - addr)).take n
  if n = 64 ∨ (s.eccRegion (64 * line)).isNone then ((s.spend o).enqueue a part, none)
  else
    let (s, e) := s.readLine o (64 * line) 64 line
    match e with
    | none => ((s.spend o).enqueue a part, none)
    | some x => (((s.retag line true).count (memPage 17) 2).fault (memPage 17) 1, some x)

/-- The lines of a DRAM write. -/
def State.writeLines (s : State) (o addr : Nat) (data : List Byte) : List Nat → State × Option MemErr
  | [] => (s, none)
  | l :: t =>
    let (s, e) := s.writeLine o addr data l
    let (s, e') := s.writeLines o addr data t
    (s, match e with | some x => some x | none => e')

/-! Power (R234 to R237). -/

/-- Exit from self-refresh or deep sleep begins (R234, R237): residency tallied; a deep-sleep exit is logged. -/
def State.beginExit (s : State) : State :=
  if s.dramPower = 1 then (s.addTime (memPage 18) 1 s.mem.sleepAt).wr (memPage 0) MEM_STATUS_power 3
  else if s.dramPower = 2 then
    let s := (s.addTime (memPage 18) 2 s.mem.sleepAt).hwField (memPage 0) MEM_STATUS_power 3
    { s with mem := { s.mem with lastDeepExit := some s.now } }
  else s

/-- A unit's request that may not be served: it waits, and a sleeping DRAM begins its exit (R234, R235, R237). -/
def State.holdUnit (s : State) (who : Nat) (rt : Option Nat) (work : HeldWork) : State :=
  let s := s.beginExit
  if s.mem.held.any fun h => h.work == work && work != .other then s
  else
    let s := s.noteNonRt rt
    { s with mem := { s.mem with held := s.mem.held ++ [⟨who, rt, s.now, work⟩] } }

/-- A unit's request that no longer waits. -/
def State.dropHeld (s : State) (work : HeldWork) : State :=
  { s with mem := { s.mem with held := s.mem.held.filter fun h => h.work != work } }

/-! Accesses of the device's units. -/

/-- What a failed access raises besides its completion (R225, R241, R283, R295): `who` is the initiator's account. -/
def State.memFault (s : State) (who : Nat) : MemErr → State
  | .firewall => if who < 32 then s.charge who else s
  | .capacity => if who < 32 then s.charge who else s
  | .tagArea => let t := s.fault (memPage 17) 3; if who < 32 then t.charge who else t
  | .failed => s
  | .poison => s
  | .uncorrectable => s

/-- A read by a unit: the bytes, or why not. Its caller has seen that it may be served (R237, R239); a fetch, and an access that
names its port, is a real-time request (R232). -/
def State.readMem (s : State) (who cls space addr len : Nat) (rt : Option Nat := if cls = 2 then some 0 else none) :
    State × Except MemErr (List Byte) :=
  match s.memCheck who cls space addr len false with
  | some e => (s.memFault who e, .error e)
  | none =>
    if space = 0 then
      let (t, e) := (s.noteNonRt rt).readLines who addr len (linesOf addr len)
      (t, match e with | some x => .error x | none => .ok (t.checkedBytes addr len))
    else
      let (t, bad) := s.vltLines (linesOf addr len)
      (t, if bad then .error .uncorrectable else .ok (t.bytesAt 1 addr len))

/-- A write by a unit. -/
def State.writeMem (s : State) (who cls space addr : Nat) (data : List Byte) (rt : Option Nat := none) : State × Option MemErr :=
  match s.memCheck who cls space addr data.length true with
  | some e => (s.memFault who e, some e)
  | none =>
    if space = 0 then (s.noteNonRt rt).writeLines who addr data (linesOf addr data.length)
    else
      let (t, bad) := s.vltStore addr data (linesOf addr data.length)
      (t.vaultTouched addr data.length, if bad then some .uncorrectable else none)

/-- A posted write by a unit: one that the line's check fails is charged (R244). -/
def State.postMem (s : State) (who cls space addr : Nat) (data : List Byte) (rt : Option Nat := none) : State × Option MemErr :=
  let (s, e) := s.writeMem who cls space addr data rt
  (if (e == some .poison || e == some .uncorrectable) && space == 0 && decide (who < 32) then s.charge who else s, e)

end Sys2Proof.Machine
end

