-- ==== Sys2Proof/Machine/Memory.lean ====
section
/-! DEFINITION. The commands of the DRAM controller and the vault (R219 to R250). -/

namespace Sys2Proof.Machine

/-! Set-up (R220 to R225). -/

/-- log2 of the populated capacity, as a bit number of PA[39:6]. -/
def State.capBit (s : State) : Nat := 27 + s.rd (memPage 0) MEM_CFG_ranks + s.rd (memPage 0) MEM_CFG_density

/-- The masks form an invertible map within the capacity (R225). -/
def State.mapOk (s : State) : Bool :=
  let one := s.rd (memPage 0) MEM_CFG_ranks == 0
  let used := (List.range 9).filter fun m => !(m == 4 && one)
  let homes := used.filterMap fun m => homeBit (s.mask m)
  used.all (fun m => s.mask m != 0) && (!one || s.mask 4 == 0) && homes.eraseDups.length == homes.length
    && (List.range 9).all fun m => s.mask m < 2 ^ s.capBit

/-- The length of a strict window at the present rate (R239): the round less the refresh, in 64 equal parts. -/
def State.syncStrict (s : State) : State :=
  let fast := (List.range 16).any fun c => s.rd (chPage c) MEM_CH_STATUS_rate_r0 == 1 || s.rd (chPage c) MEM_CH_STATUS_rate_r1 == 1
  let trfc := match s.rd (memPage 0) MEM_CFG_density with | 0 => 180 | 1 => 210 | _ => 280
  if s.rd (memPage 0) MEM_CTRL_strict = 0 then s
  else
    let s := s.wr (memPage 20) MEM_STRICT_WIN_length (((if fast then 1953 else 3906) - trfc - 20) / 64)
    s.wr (memPage 20) MEM_STRICT_WIN_accesses (Config.windowAccesses (s.rd (memPage 0) MEM_CFG_rate) ((1953 - trfc - 20) / 64)).toNat

/-- The rule of a write of MEM_CTRL (R220, R225). -/
def State.memCtrlRule (s : State) (v : Word) : Rule :=
  if MEM_CTRL_init.get v = 1 ∧ (s.rd (memPage 0) MEM_STATUS_state ≠ 0 ∨ !s.mapOk) then .range else .ok

/-- A write of MEM_CTRL: training begins (R221). -/
def State.memCtrlWrite (s : State) (who : Nat) (value : Word) (be : BitVec 4) : State :=
  let p := memPage 0
  s.writeWith who p MEM_CTRL.off value be false s.memCtrlRule (s.writeRec who p MEM_CTRL.off) fun v t =>
    let t := ((t.store p MEM_CTRL.off v).wr p MEM_CTRL_init 0).syncStrict
    if MEM_CTRL_init.get v = 1 then t.wr p MEM_STATUS_state 1 else t

/-- MEM_INIT (R221). -/
def execMemInit (who : Actor) (s : State) : Host.Outcome State Fault Refusal :=
  .next (s.memCtrlWrite who.val (s.fieldWrite (memPage 0) MEM_CTRL_init 0 1) 15)

/-- MEM_TRAIN_DONE (R221, R222). -/
def execMemTrainDone (failed capacity : BitVec 16) (s : State) : Host.Outcome State Fault Refusal :=
  let p := memPage 0
  .next (
    if s.rd p MEM_STATUS_state ≠ 1 then s
    else if failed ≠ 0 then ((s.wr p MEM_STATUS_state 3).wr p MEM_STATUS_failed_ch failed.toNat).setLevel p 0 true
    else (s.wr p MEM_STATUS_state 2).wr p MEM_CAP_capacity capacity.toNat)

/-- The DRAM serves (R221, R222). -/
def State.dramReady (s : State) : Bool := s.rd (memPage 0) MEM_STATUS_state == 2

/-- A rank is fitted. -/
def State.rankHere (s : State) (rank : Nat) : Bool := rank == 0 || s.rd (memPage 0) MEM_CFG_ranks == 1

/-! Refresh (R229 to R231). -/

def rateField (rank : Nat) : Fld := if rank = 0 then MEM_CH_STATUS_rate_r0 else MEM_CH_STATUS_rate_r1
def creditField (rank : Nat) : Fld := if rank = 0 then MEM_CH_STATUS_credit_r0 else MEM_CH_STATUS_credit_r1
def mr4Field (rank : Nat) : Fld := if rank = 0 then MEM_CH_STATUS_mr4_r0 else MEM_CH_STATUS_mr4_r1

/-- MR4_POLL (R231): the code held, the rate set, MR4_HIGH and MR4_UNREADABLE. `goodMr4` counts readings at 1× in a row
up to 4, and is 15 for a rank whose last reading was shorter than half. -/
def execMr4Poll (ch : Fin 16) (rank : Fin 2) (code : Mr4) (s : State) : Host.Outcome State Fault Refusal :=
  let p := chPage ch.val
  let k := ch.val * 2 + rank.val
  .next (
    if !s.dramReady || !s.rankHere rank.val then s
    else
      let was := NatTbl.at_ s.mem.goodMr4 k
      let (c, good, bad) : Nat × Nat × Bool := match code with
        | .standardOrLonger c => (c.val, if was = 15 then 1 else min 4 (was + 1), false)
        | .half c => (c.val, 0, false)
        | .shorter c => (c.val, 15, false)
        | .failed c => (c.val, 0, true)
      let s := (s.wr p (mr4Field rank.val) c).hwField p (rateField rank.val) (if good = 4 then 0 else 1)
      let s := { s with mem := { s.mem with goodMr4 := NatTbl.put s.mem.goodMr4 k good } }
      let s := s.setLevel p 0 ((List.range 2).any fun r => NatTbl.at_ s.mem.goodMr4 (ch.val * 2 + r) == 15)
      (if bad then s.fault p 1 else s).syncStrict)

/-- A refresh of a rank: counted, its rows closed (R226, R229). -/
def State.refresh (s : State) (ch rank : Nat) : State :=
  let s := { s with mem := { s.mem with openRow := Tbl.drop (fun k => k / 16 == ch * 2 + rank) s.mem.openRow } }
  (s.wakeRank (ch * 2 + rank)).count (chPage ch) 4

/-- The ranks refresh under the controller: trained and active. -/
def State.refreshes (s : State) (rank : Nat) : Bool := s.dramReady && s.dramPower == 0 && s.rankHere rank

/-- REFRESH_DUE (R230, R239). -/
def execRefreshDue (ch : Fin 16) (rank : Fin 2) (s : State) : Host.Outcome State Fault Refusal :=
  let p := chPage ch.val
  .next (
    if !s.refreshes rank.val then s
    else if s.strictMem then s.refresh ch.val rank.val
    else if s.rd p (creditField rank.val) = 8 then (s.refresh ch.val rank.val).fault (memPage 18) 0
    else if !s.anyPanic then s.refresh ch.val rank.val
    else (s.wr p (creditField rank.val) (s.rd p (creditField rank.val) + 1)).count p 5)

/-- REFRESH_REPAY (R230). -/
def execRefreshRepay (ch : Fin 16) (rank : Fin 2) (s : State) : Host.Outcome State Fault Refusal :=
  let p := chPage ch.val
  .next (
    if !s.refreshes rank.val || s.anyPanic || s.rd p (creditField rank.val) == 0 then s
    else (s.wr p (creditField rank.val) (s.rd p (creditField rank.val) - 1)).refresh ch.val rank.val)

/-! Requests (R227, R228, R237, R239). -/

/-- The completion of a request. -/
def State.complete (s : State) (error : Bool) (data : List Byte) : State := { s with resp := ⟨error, data⟩ }

/-- The class of R228 that a waiting request takes: 2, 4 and 5 of a real-time port as it signals, 6 of an owner whose bucket is
positive (the Custodian's before the others', which count as 7 here), and 8 of the others. -/
def State.classFor (s : State) (rt : Option Nat) (who : Nat) : Nat :=
  match rt with
  | some p => if s.rd (memPage 18) MEM_RT_panic p = 1 then 2 else if s.rd (memPage 18) MEM_RT_urgent p = 1 then 4 else 5
  | none => if s.bucketNow who ≤ 0 then 8 else if who = 32 then 6 else 7
def State.classOf (s : State) (w : DramWait) : Nat := s.classFor w.rt w.who

/-- Waiting request number `i` may not be served at `line` yet: an older one has that line left, and one of the two writes (R227). -/
def State.lineHeld (s : State) (i line : Nat) (w : DramWait) : Bool :=
  (s.mem.waiting.take i).any fun v => v.left.contains line && (opWrites v.op || opWrites w.op)

/-- The requests that channel `c` may serve now, in order of arrival: number, line, class. -/
def State.servable (s : State) (c : Nat) : List (Nat × Nat × Nat) :=
  s.mem.waiting.zipIdx.filterMap fun e =>
    match e.1.left.find? fun l => s.channel (64 * l) == c with
    | none => none
    | some l =>
      let k := s.classOf e.1
      if s.mayServe e.1.who (64 * l) && !s.lineHeld e.2 l e.1 && !(s.strictMem && k == 8) then some (e.2, l, k) else none

/-- The row of a line is open. -/
def State.rowHit (s : State) (line : Nat) : Bool := NatTbl.at_ s.mem.openRow (s.bankKey (64 * line)) == s.rowOf (64 * line) + 1

/-- The choice of channel `c` (R228): within the first class, under the open policy, the oldest request to an open row, unless it
would pass a request that has been passed 8 times; else the oldest. With the numbers of the requests that it passes. -/
def State.pick (s : State) (c : Nat) : Option (Nat × Nat × List Nat) :=
  let rs := s.servable c
  let k := (rs.map fun r => r.2.2).foldl min 9
  let rs := rs.filter fun r => r.2.2 == k
  let old := rs.head?.map fun r => (r.1, r.2.1, [])
  if s.rd (chPage c) MEM_CH_CTRL_policy = 1 ∨ s.strictMem then old
  else match rs.find? fun r => s.rowHit r.2.1 with
    | none => old
    | some r =>
      let passed := (rs.map (·.1)).filter (· < r.1)
      if passed.all fun i => decide ((s.mem.waiting[i]?.map (·.passed)).getD 0 < 8) then some (r.1, r.2.1, passed) else old

/-- The end of a waiting request: its completion; a posted write that fails is charged (R244). -/
def State.finishWait (s : State) (w : DramWait) : State :=
  match w.op with
  | .read n =>
    if w.err then s.complete true (List.replicate n 0)
    else s.complete false ((linesOf w.addr n).flatMap fun l => ((w.got.find? fun e => e.1 == l).map (·.2)).getD [])
  | .write _ =>
    if w.err then (if w.posted then (if w.who < 32 then s.charge w.who else s) else s.complete true [])
    else if w.host then s.complete false [] else s

/-- One line of a waiting request served: the request leaves with its last line. -/
def State.serveLine (s : State) (i line : Nat) (passed : List Nat) : State :=
  match s.mem.waiting[i]? with
  | none => s
  | some w =>
    let ws := s.mem.waiting.zipIdx.map fun e => if passed.contains e.2 then { e.1 with passed := e.1.passed + 1 } else e.1
    let left := w.left.erase line
    let r : State × Option MemErr := match w.op with
      | .read n => s.readLine w.who w.addr n line
      | .write bs => s.writeLine w.who w.addr bs line
    let (a, n) := inLine w.addr (opSize w.op) line
    let w' := { w with left := left, err := w.err || r.2.isSome, got := if opWrites w.op then w.got else w.got ++ [(line, r.1.checkedBytes a n)] }
    let ws := if left.isEmpty then ws.eraseIdx i else ws.set i w'
    let t : State := { r.1 with mem := { r.1.mem with waiting := ws } }
    if left.isEmpty then t.finishWait w' else t

/-- Lines of waiting requests served while a channel may serve one; `fuel` bounds their number. -/
def State.serveN : Nat → State → State
  | 0, s => s
  | n + 1, s => match (List.range 16).findSome? s.pick with
    | none => s
    | some (i, l, passed) => (s.serveLine i l passed).serveN n

/-- What the channels may serve of the waiting requests; queues with no read left waiting drain (R227). -/
def State.serveWaiting (s : State) : State :=
  let s := s.serveN (s.mem.waiting.foldl (fun n w => n + w.left.length) 0)
  (List.range 16).foldl State.drainIdle s

/-- A DRAM request that passed its checks, served at once: its completion; a posted write that fails is charged (R244). -/
def State.serve (s : State) (req : MemReq) (pa : Nat) : MemOp → State
  | .read n =>
    let (t, e) := s.readLines req.actor.val pa n (linesOf pa n)
    if e.isSome then t.complete true (List.replicate n 0) else t.complete false (t.checkedBytes pa n)
  | .write bs =>
    let (t, e) := s.writeLines req.actor.val pa bs (linesOf pa bs.length)
    match e with
    | none => t.complete false []
    | some _ => if req.posted then (if req.actor.val < 32 then t.charge req.actor.val else t) else t.complete true []

/-- The bytes of DRAM and of the vault that BAR4 reaches (R252): an access past them is an Unsupported Request. -/
def apertureDram : Nat := 2 ^ 36
def apertureVault : Nat := 2 ^ 26

/-- A DRAM request: refused with an error completion; served at once where the DRAM is active, no window holds it and nothing
waits before it; else it waits for the exit or its windows. -/
def State.dramRequest (s : State) (req : MemReq) (pa : Nat) (op : MemOp) : State :=
  let none_ := if opWrites op then [] else List.replicate (opSize op) 0
  if req.cls.val = 0 && (!s.hostHeard || decide (apertureDram < pa + opSize op)) then s.complete true none_
  else match s.memCheck req.actor.val req.cls.val 0 pa (opSize op) (opWrites op) with
  | some e => (s.memFault req.actor.val e).complete true none_
  | none =>
    let rt := req.port.map (·.val)
    let s := s.noteNonRt rt
    if s.dramPower = 0 ∧ !s.strictMem ∧ s.mem.waiting.isEmpty then s.serve req pa op
    else
      let w : DramWait := ⟨req.actor.val, rt, true, req.posted, pa, op, linesOf pa (opSize op), false, [], 0, s.now⟩
      ({ s with mem := { s.mem with waiting := s.mem.waiting ++ [w] } } : State).serveWaiting

/-- DRAM_READ and DRAM_WRITE (R225, R227, R241 to R244, R295). -/
def execDramRead (req : MemReq) (pa len : Nat) (s : State) : Host.Outcome State Fault Refusal :=
  .next (if len = 0 then s else s.dramRequest req pa (.read len))
def execDramWrite (req : MemReq) (pa : Nat) (data : List Byte) (s : State) : Host.Outcome State Fault Refusal :=
  .next (if data.isEmpty then s else s.dramRequest req pa (.write data))

/-! Low power (R233 to R237). -/

def State.minTolerance (s : State) : Nat := s.rd (memPage 0) MEM_LT_MIN_tolerance

/-- POWER_DOWN_ENTRY (R233): the exit time is 0.03 us, so a tolerance of one unit exceeds it. -/
def execPowerDownEntry (ch : Fin 16) (rank : Fin 2) (s : State) : Host.Outcome State Fault Refusal :=
  let k := ch.val * 2 + rank.val
  let idle := s.rd (chPage ch.val) MEM_CH_PD_IDLE_idle
  .next (
    if !s.refreshes rank.val || s.rd (memPage 0) MEM_CTRL_strict == 1 || idle == 0 || s.minTolerance == 0
        || s.mem.down.any (fun (e : Nat × Nat) => e.1 == k) || decide (s.now < NatTbl.at_ s.mem.lastReq k + idle * 10) then s
    else { s with mem := { s.mem with down := s.mem.down ++ [(k, s.now)],
                                      openRow := Tbl.drop (fun j => j / 16 == k) s.mem.openRow } })

/-- The self-refresh threshold: exit time plus sr_margin, in units of 100 ns. -/
def State.srLimit (s : State) : Nat := 10 + s.rd (memPage 0) MEM_PWR_sr_margin

/-- SELF_REFRESH_ENTRY (R234): owed refreshes are repaid first (R230), rows close. -/
def execSelfRefreshEntry (s : State) : Host.Outcome State Fault Refusal :=
  .next (
    if !s.dramReady || s.dramPower != 0 || s.rd (memPage 0) MEM_PWR_sr_en == 0 || s.rd (memPage 0) MEM_CTRL_strict == 1
        || decide (s.minTolerance ≤ s.srLimit) || decide (s.now < s.mem.lastNonRt + 1000) || !s.mem.waiting.isEmpty || !s.mem.held.isEmpty then s
    else
      let s := (List.range 32).foldl (fun (t : State) k =>
        let p := chPage (k / 2)
        let n := t.rd p (creditField (k % 2))
        ((t.wakeRank k).count p 4 n).wr p (creditField (k % 2)) 0) s
      let s := (s.count (memPage 18) 3).wr (memPage 0) MEM_STATUS_power 1
      { s with mem := { s.mem with sleepAt := s.now, openRow := [] } })

/-- SELF_REFRESH_EXIT (R234). -/
def execSelfRefreshExit (s : State) : Host.Outcome State Fault Refusal :=
  .next (if s.dramPower = 1 ∧ (!s.mem.waiting.isEmpty ∨ s.anyPanic ∨ s.minTolerance ≤ s.srLimit) then s.beginExit else s)

/-- DEEP_SLEEP_ENTRY (R235). -/
def execDeepSleepEntry (s : State) : Host.Outcome State Fault Refusal :=
  let idle := 1000 * s.rd (memPage 0) MEM_PWR_ds_idle
  .next (match s.mem.unlimitedAt with
    | none => s
    | some t =>
      if s.dramPower != 1 || s.rd (memPage 0) MEM_PWR_ds_en == 0 || decide (s.now < t + idle) || decide (s.now < s.mem.lastNonRt + idle)
          || (match s.mem.lastDeepExit with
              | some x => decide (s.now < x + 10000000 * s.rd (memPage 0) MEM_PWR_HOLD_holdoff) | none => false) then s
      else
        let s := ((s.addTime (memPage 18) 1 s.mem.sleepAt).count (memPage 18) 4).hwField (memPage 0) MEM_STATUS_power 2
        { s with mem := { s.mem with sleepAt := s.now } })

/-- A static output that replays a retained frame leaves the static state with a DRAM-sourced layer in its scene (R237). -/
def State.replayEnds (s : State) : Bool :=
  s.heads.any fun n => (s.out n).wakeAt.isSome && s.rd (timPage n) OUT_STATIC_STATUS_retained == 1 &&
    (s.layersOn n).any fun l => (s.scene n).f (layPage l) LAY_CTRL_src_kind == 0 && (s.rdA n (layPage l) LAY_PLACE_outputs).testBit n

/-- A commit taken and not yet decided would give an output a DRAM-sourced visible layer (R237). -/
def State.commitNeeds (s : State) : Bool :=
  (List.range 32).any fun a => match s.commit a with | some c => !c.admitted && s.needsDram a c | none => false

/-- DEEP_SLEEP_EXIT (R237). -/
def execDeepSleepExit (s : State) : Host.Outcome State Fault Refusal :=
  .next (if s.dramPower = 2 ∧ (!s.mem.waiting.isEmpty ∨ s.commitNeeds ∨ s.replayEnds) then s.beginExit else s)

/-! Strict isolation (R239). -/

/-- STRICT_ROUND: every rank is refreshed, and the round's windows begin anew. -/
def execStrictRound (ch : Fin 16) (s : State) : Host.Outcome State Fault Refusal :=
  .next (
    if s.rd (memPage 0) MEM_CTRL_strict = 0 ∨ !s.dramReady then s
    else
      let s := ((List.range 2).filter s.rankHere).foldl (fun (t : State) r => t.refresh ch.val r) s
      { s with mem := { s.mem with window := NatTbl.put s.mem.window ch.val 0 } })

/-! The vault (R249, R264). -/

/-- The areas of a passbook page that an initiator writes (R264), as its tenant and as its manager. -/
def bookArea (tenant manager : Bool) (o : Nat) : Bool :=
  (tenant && ((0x10 ≤ o && o < 0x14) || (0x1C ≤ o && o < 0x20) || (0x300 ≤ o && o < 0x700)))
    || (manager && ((0x14 ≤ o && o < 0x1C) || (0x700 ≤ o && o < 0xB00) || 0xF00 ≤ o))

/-- A write of a host port to the system area keeps to its writer's areas. -/
def State.bookOk (s : State) (who off len : Nat) : Bool :=
  off < vaultSystem || vaultLibrary ≤ off || who == 32 ||
    let a := (off - vaultSystem) / 0x1000
    (List.range len).all fun i => bookArea (a == who) (s.managedBy a who) ((off + i) % 0x1000)

/-- VAULT_ACCESS (R249, R264, R295). -/
def execVaultAccess (req : MemReq) (off : Nat) (op : MemOp) (s : State) : Host.Outcome State Fault Refusal :=
  let who := req.actor.val
  .next (if req.cls.val = 0 && (!s.hostHeard || decide (apertureVault < off + opSize op)) then
      s.complete true (match op with | .read n => List.replicate n 0 | .write _ => [])
    else match op with
    | .read n =>
      if n = 0 then s
      else match s.readMem who req.cls.val 1 off n with
      | (t, .ok bs) => t.complete false bs
      | (t, .error _) => t.complete true (List.replicate n 0)
    | .write bs =>
      if bs.isEmpty then s
      else if (s.memCheck who req.cls.val 1 off bs.length true).isNone && !s.bookOk who off bs.length then (s.memFault who .firewall).complete true []
      else match s.writeMem who req.cls.val 1 off bs with
      | (t, none) => t.complete false []
      | (t, some e) => if req.posted && (e == .uncorrectable) then t else t.complete true [])

/-- VAULT_SCRUB (R249): the patrol reads and corrects every word; armed injections meet its checks. -/
def execVaultScrub (s : State) : Host.Outcome State Fault Refusal :=
  .next (
    if s.rd (vltPage 0) VLT_CTRL_scrub_en = 0 then s
    else ((List.range 16).foldl (fun (t : State) g =>
      let p := vltGroup (1024 * g)
      let n := if t.rd p FLT_INJECT_arm = 0 then 0 else if t.rd p FLT_INJECT_mode = 0 then 1 else t.rd p FLT_INJECT_count
      ((List.range n).foldl (fun (t : State) _ => (t.vltLine (1024 * g)).1) t).count p 3 (65536 - n)) s).count (vltPage 0) 0)

end Sys2Proof.Machine
end

