-- ==== Sys2Proof/Machine/Colour.lean ====
section
/-! DEFINITION. The colour pipeline (R117, R118), the two-bank tables (R119, R122, R165, R166) and the scan-out FIFO's
geometry (R173, R176, R177), with the commands that fill and arm tables. -/

namespace Sys2Proof.Machine

def colPage (n : Nat) : Nat := outPage n 3

/-! Table banks. -/

/-- The key of entry `i` of bank `b` of colour table `t` of output `n`. -/
def lutKey (n t b i : Nat) : Nat := ((n * 3 + t) * 2 + b) * 16384 + i

/-- The foreground bank of a colour table. -/
def State.colBank (s : State) (n t : Nat) : Nat := s.rd (colPage n) ⟨0x0CC, 4, 4 + t, 4 + t⟩

/-- An entry of a table's foreground bank. -/
def State.colEntry (s : State) (n t i : Nat) : Nat := (s.lut (lutKey n t (s.colBank n t) i)).toNat % 65536

/-- A colour table swaps (R165). -/
def State.swapCol (s : State) (n t : Nat) : State :=
  let p := colPage n
  let s := (s.wr p ⟨0x0CC, 4, 4 + t, 4 + t⟩ (1 - s.colBank n t)).wr p ⟨0x0CC, 4, t, t⟩ 0
  ((s.setReady (colTable n t) 0).setWritten (colTable n t) false).count p 0

/-- The swap point of a table: READY since `at` (plus 1), 2 µs ago or longer. -/
def State.dueSwap (s : State) (t : Nat) : Bool := s.ready t != 0 && decide (s.ready t - 1 + 2000 ≤ s.now)

/-- A table meets a boundary (R165, R166): swapped when due; LATE where its owner's commit applied and it was written
but not swapped. -/
def State.meetTable (s : State) (tab : Nat) (owner : Option Nat) (acts : List Nat) (swap : State → State) (late : State → State) : State :=
  if s.dueSwap tab then swap s
  else if (match owner with | some a => acts.contains a | none => false) && (s.ready tab != 0 || s.wasWritten tab) then late s else s

/-- The page of an equaliser's column, and the number of its two-bank table. -/
def eqPage (c : Nat) : Nat := audPage (13 + c / 8)
def eqTable (c : Nat) : Nat := 200 + c

/-- LATE for the equalisers of the accounts whose commits applied (R166, R374): READY clear on a bank that was written, or
set less than 2 µs ago. -/
def State.lateEq (s : State) (acts : List Nat) : State :=
  (List.range 64).foldl (fun (t : State) c =>
    let hit := match t.ownerAcct (eqPage c) with | some a => acts.contains a | none => false
    if hit && (if t.ready (eqTable c) = 0 then t.wasWritten (eqTable c) else decide (t.now < t.ready (eqTable c) - 1 + 2000)) then
      (t.wr (eqPage c) ⟨0x080, 4, 16 + c % 8, 16 + c % 8⟩ 1).count (eqPage c) 2
    else t) s

/-- The tables of output `n` and of the scalers that serve it, at its frame boundary; `acts`: the accounts whose commits
applied. -/
def State.swapTables (s : State) (n : Nat) (acts : List Nat) : State :=
  let s := s.lateEq acts
  let s := (s.withPair n).foldl (fun (t : State) m =>
    (List.range 3).foldl (fun (t : State) i =>
      t.meetTable (colTable m i) (t.ownerAcct (colPage m)) acts (fun t => t.swapCol m i)
        (fun t => (t.wr (colPage m) ⟨0x0CC, 4, 8 + i, 8 + i⟩ 1).count (colPage m) 1)) t) s
  (List.range 32).foldl (fun (t : State) c =>
    if t.rd (sclPage c) SCL_STATUS_in_use = 0 ∨ t.rd (sclPage c) SCL_STATUS_output ≠ n then t
    else [false, true].foldl (fun (t : State) v =>
      t.meetTable (sclTable c v) (t.ownerAcct (sclPage c)) acts (fun t => t.swapScl c v)
        (fun t => t.wr (sclPage c) (if v then SCL_BANK_v_late else SCL_BANK_h_late) 1)) t) s

/-- READY set on a table newly. -/
def State.armTable (s : State) (tab : Nat) (was now : Nat) : State :=
  if was = 0 ∧ now = 1 then s.setReady tab (s.now + 1) else s

/-- A write of OUT_COL_BANK. -/
def State.colBankWrite (s : State) (who n : Nat) (value : Word) (be : BitVec 4) : State :=
  let p := colPage n
  s.writeWith who p OUT_COL_BANK.off value be false (fun _ => .ok) (s.writeRec who p OUT_COL_BANK.off) fun v t =>
    let was := t.rd p OUT_COL_BANK_ready
    let t := t.store p OUT_COL_BANK.off v
    (List.range 3).foldl (fun (t : State) i => t.armTable (colTable n i) (b2n (was.testBit i)) (b2n ((t.rd p OUT_COL_BANK_ready).testBit i))) t

/-- A write of SCL_BANK: a scaler that serves no placement swaps as READY is set. -/
def State.sclBankWrite (s : State) (who c : Nat) (value : Word) (be : BitVec 4) : State :=
  let p := sclPage c
  s.writeWith who p SCL_BANK.off value be false (fun _ => .ok) (s.writeRec who p SCL_BANK.off) fun v t =>
    let (h, w) := (t.rd p SCL_BANK_h_ready, t.rd p SCL_BANK_v_ready)
    let t := t.store p SCL_BANK.off v
    ((t.armTable (sclTable c false) h (t.rd p SCL_BANK_h_ready)).armTable (sclTable c true) w (t.rd p SCL_BANK_v_ready)).swapIdle c

/-- A write of a scaler coefficient (R122). -/
def State.coefWrite (s : State) (who c off : Nat) (value : Word) (be : BitVec 4) : State :=
  let p := sclPage c + 1
  let vert := decide (SCL_VCOEF.off ≤ off)
  s.writeWith who p off value be false
    (fun _ => if s.rd (sclPage c) (if vert then SCL_BANK_v_ready else SCL_BANK_h_ready) = 1 then .range else .ok)
    (s.writeRec who p off) fun v t => (t.store p off v).setWritten (sclTable c vert) true

/-! Loads from memory (R119). -/

/-- Bytes of a colour table's source. -/
def lutBytes (t : Nat) : Nat := if t = 1 then 39304 else 6150

def State.load (s : State) (n : Nat) : Option LutLoad := Tbl.get (fun _ => none) s.loads n
def State.setLoad (s : State) (n : Nat) (v : Option LutLoad) : State := { s with loads := Tbl.set (fun _ => none) s.loads n v }

/-- The source address of a load. -/
def State.lutAddr (s : State) (n : Nat) : Nat :=
  s.rd (colPage n) OUT_COL_LOAD_LO_addr * 64 + s.rd (colPage n) OUT_COL_LOAD_HI_addr_hi * 2 ^ 32

/-- The rule of a write of OUT_COL_LOAD. -/
def State.loadRule (s : State) (n : Nat) (v : Word) : Rule :=
  let t := OUT_COL_LOAD_table.get v
  if OUT_COL_LOAD_go.get v = 0 then .ok
  else match s.ownerAcct (colPage n) with
    | none => .range
    | some a =>
      if s.rd (colPage n) OUT_COL_BANK_load_busy = 1 ∨ (s.rd (colPage n) OUT_COL_BANK_ready).testBit t
          ∨ !s.inRegions a (OUT_COL_LOAD_src.get v) (s.lutAddr n) (lutBytes t) then .range else .ok

/-- A write of OUT_COL_LOAD: the load starts. -/
def State.loadWrite (s : State) (who n : Nat) (value : Word) (be : BitVec 4) : State :=
  let p := colPage n
  s.writeWith who p OUT_COL_LOAD.off value be false (s.loadRule n) (s.writeRec who p OUT_COL_LOAD.off) fun v t =>
    let t := (t.store p OUT_COL_LOAD.off v).wr p OUT_COL_LOAD_go 0
    if OUT_COL_LOAD_go.get v = 0 then t
    else ((t.wr p OUT_COL_BANK_load_busy 1).wr p OUT_COL_BANK_load_done 0).setLoad n
      (some ⟨OUT_COL_LOAD_table.get v, OUT_COL_LOAD_src.get v, t.lutAddr n, []⟩)

/-- LUT_LOAD (R119): the write of OUT_COL_LOAD that names the table and the memory, with go. -/
def execLutLoad (who : Actor) (o : Out) (table : Fin 3) (vault : Bool) (s : State) : Host.Outcome State Fault Refusal :=
  .next (s.loadWrite who.val o.val (BitVec.ofNat 32 (table.val + 16 * b2n vault + 2 ^ 31)) 15)

/-- How far a unit's long read has come. -/
inductive LongRead where
  | done | failed | waits
  deriving DecidableEq, Repr

/-- A read by a unit, 64-byte line by line, up to the first that fails or has to wait for the DRAM or its window (R237, R239): the
bytes read, and how it ended. -/
def State.readLong (s : State) (who cls space addr len : Nat) : List Nat → State × List Byte × LongRead
  | [] => (s, [], .done)
  | l :: t =>
    let (a, n) := inLine addr len l
    if space = 0 ∧ s.dramReady ∧ !s.unitMay who a then (s.holdUnit who none .other, [], .waits)
    else match s.readMem who cls space a n with
    | (s, .error _) => (s, [], .failed)
    | (s, .ok bs) =>
      let (s, r, ok) := s.readLong who cls space addr len t
      (s, bs ++ r, ok)

/-- The lines of an extent that a long read of which `got` bytes have come has still to read. -/
def linesAfter (addr len got : Nat) : List Nat := (linesOf addr len).filter fun l => decide (addr + got ≤ (inLine addr len l).1)

/-- The entries of a table's source: 16-bit values in the order of the bank. -/
def lutValues (t : Nat) (bs : List Byte) : List Nat :=
  let w := fun (i : Nat) => ofLeBytes ((bs.drop i).take 2)
  if t = 1 then (List.range (bs.length / 8)).flatMap fun i => [w (8 * i), w (8 * i + 2), w (8 * i + 4)]
  else (List.range (bs.length / 2)).map fun i => w (2 * i)

/-- An entry that the hardware makes, of a kind and about the register with key `k` (R303, R310). -/
def State.hwEntry (s : State) (kind k : Nat) (old new : Word) : State :=
  State.settle (s.hwRec ⟨64, 6, k / 1024, k % 1024, old, new, kind, 0⟩)

/-- LUT_LOAD_DONE (R119): the load ends once its last line has been served (R237, R239). -/
def execLutLoadDone (o : Out) (s : State) : Host.Outcome State Fault Refusal :=
  let n := o.val
  let p := colPage n
  .next (match s.load n with
    | none => s
    | some l =>
      let len := lutBytes l.table
      let (s, bs, ok) := s.readLong ((s.ownerAcct p).getD 32) 4 l.space l.addr len (linesAfter l.addr len l.got.length)
      let bs := l.got ++ bs
      if ok = .waits then s.setLoad n (some { l with got := bs })
      else
        let back := 1 - s.colBank n l.table
        let s := (lutValues l.table bs).zipIdx.foldl (fun (t : State) e => t.setLut (lutKey n l.table back e.2) (BitVec.ofNat 32 e.1)) s
        let s := ((s.setLoad n none).wr p OUT_COL_BANK_load_busy 0).setWritten (colTable n l.table) true
        if ok = .done then
          (s.wr p OUT_COL_BANK_load_done 1).hwEntry 0x0E (fkey p OUT_COL_LOAD 0) 0 (BitVec.ofNat 32 (crc32c bs))
        else s.fault p 1)

/-! The pipeline (R117, R118). -/

/-- A 1D LUT: the top 10 bits index it, the low 6 interpolate, rounded half up. -/
def State.lut1 (s : State) (n t c v : Nat) : Nat :=
  let e := fun i => s.colEntry n t (c * 1025 + i)
  (e (v / 64) * (64 - v % 64) + e (v / 64 + 1) * (v % 64) + 32) / 64

/-- One row of the matrix: coefficients S2.13, offset in units of 2^-16. -/
def matrixRow (m : List Int) (off : Int) (v : List Nat) : Nat :=
  let num := (m.zip v).foldl (fun (n : Int) e => n + e.1 * e.2 * 65536) (off * 65535 * 8192)
  let q := num / 2 ^ 29
  (clamp 0 65535 (if num % 2 ^ 29 ≠ 0 ∧ Config.matrixUp num then q + 1 else q)).toNat

/-- The 3D LUT: tetrahedral interpolation between the nodes of a cell. -/
def State.lut3 (s : State) (n : Nat) (v : List Nat) (c : Nat) : Nat :=
  let ax := (v.zip [289, 17, 1]).map fun e =>
    let i := min 15 (e.1 * 16 / 65535)
    (e.1 * 16 - i * 65535, i * e.2, e.2)
  let node := fun i => s.colEntry n 1 (3 * i + c)
  let base := (ax.map fun e => e.2.1).foldl (· + ·) 0
  let ord := (sortBy (fun (e : Nat × Nat × Nat) => e.1) ax).reverse
  let f := fun (i : Nat) => (ord.getD i (0, 0, 0)).1
  let st := fun (i : Nat) => (ord.getD i (0, 0, 0)).2.2
  let num := node base * (65535 - f 0) + node (base + st 0) * (f 0 - f 1) + node (base + st 0 + st 1) * (f 1 - f 2)
    + node (base + st 0 + st 1 + st 2) * f 2
  let q := num / 65535
  if num % 65535 ≠ 0 ∧ Config.lut3dUp (v.getD 0 0) (v.getD 1 0) (v.getD 2 0) c then q + 1 else q

/-- The ordered matrix of R118. -/
def ditherAt (y x : Nat) : Nat :=
  ([0, 8, 2, 10, 12, 4, 14, 6, 3, 11, 1, 9, 15, 7, 13, 5] : List Nat).getD (y % 4 * 4 + x % 4) 0

/-- Dither to `d` bits (R118). -/
def dither (mode d x y frame v : Nat) : Nat :=
  let top := 2 ^ d - 1
  let f := if mode = 2 then frame % 4 else 0
  min top (if mode = 0 then (2 * v * top + 65535) / 131070
    else (32 * v * top + (2 * ditherAt (y + f) (x + 2 * f) + 1) * 65535) / (32 * 65535))

/-- A pixel of 16-bit fractions at (x, y) of a frame, through the pipeline of output `n`. -/
def State.colour (s : State) (n x y frame : Nat) (v : List Nat) : Px :=
  let on := fun f => s.rdA n (colPage n) f == 1
  let v := if on OUT_COL_CTRL_degamma_en then v.zipIdx.map fun e => s.lut1 n 0 e.2 e.1 else v
  let v := if on OUT_COL_CTRL_matrix_en then (List.range 3).map fun i =>
      matrixRow ((List.range 3).map fun j => signed 16 (s.rdA n (colPage n) ⟨0x084 + 4 * (3 * i + j), 4, 15, 0⟩))
        (signed 17 (s.rdA n (colPage n) OUT_COL_OFF_offset i)) v
    else v
  let v := if on OUT_COL_CTRL_lut3d_en then (List.range 3).map fun c => s.lut3 n v c else v
  let v := if on OUT_COL_CTRL_regamma_en then v.zipIdx.map fun e => s.lut1 n 2 e.2 e.1 else v
  let d := fun i => dither (s.rdA n (colPage n) OUT_COL_CTRL_dither) (s.depth n) x y frame (v.getD i 0)
  ⟨d 0, d 1, d 2⟩

/-- The same, with the parity of the LUT entries it reads: a failed entry gives a free value (R123). -/
def State.colourPx (s : State) (n x y frame : Nat) (v : List Nat) : State × Px :=
  if [OUT_COL_CTRL_degamma_en, OUT_COL_CTRL_lut3d_en, OUT_COL_CTRL_regamma_en].all fun f => s.rdA n (colPage n) f == 0 then
    (s, s.colour n x y frame v)
  else match s.useInject (colPage n) 0 with
    | (t, none) => (t, t.colour n x y frame v)
    | (t, some _) =>
      let top := 2 ^ t.depth n
      let w := fun c => (Config.parityPixel t.fresh c).toNat % top
      (t.next.fault (colPage n) 0, ⟨w 0, w 1, w 2⟩)

/-! The FIFO (R173, R176, R177). -/

/-- The half of a locked pair that carries column `x`, with its first column and width. -/
def State.halfOf (s : State) (g x : Nat) : Nat × Nat × Nat :=
  let t := s.inForce g
  if !s.pairLocked g then (g, 0, t.hact)
  else if x < t.split then (g, 0, t.split) else (g + 1, t.split, t.hact - t.split)

/-- The position of a FIFO entry. -/
def fifoKey (frame y x : Nat) : Nat := frame * 2 ^ 28 + y * 2 ^ 14 + x

/-- The next pixel due at the keeper stage: frame, line, column; in blanking, the first of the next frame. -/
def State.due (s : State) (g : Nat) : Nat × Nat × Nat :=
  let o := s.out g
  if o.line < o.tim.vact ∧ o.slot < o.tim.hact then (o.dispFrame, o.line, o.slot)
  else if o.line + 1 < o.tim.vact then (o.dispFrame, o.line + 1, 0) else ((o.dispFrame + 1) % 2 ^ 32, 0, 0)

/-- The time in ns from `now` until the raster reaches a position (frame, line, column), from the line start and the slot
reached since. -/
def OutS.nsTo (o : OutS) (now : Nat) (e : Nat × Nat × Nat) : Nat :=
  let frames := (e.1 + 2 ^ 32 - o.dispFrame) % 2 ^ 32
  let ns := fun (slots : Nat) => slots * 1000000 / max 1 o.tim.pclk
  ns ((frames * o.tim.vtotal + e.2.1 - o.line) * o.tim.htotal + e.2.2) - max (ns o.slot) (now - o.lineAt)

/-- A pixel's distance from the next one due, in raster order of its half's active pixels; none for one already due. -/
def State.ahead (s : State) (g frame y x : Nat) : Option Nat :=
  let (m, x0, w) := s.halfOf g x
  let (f, dy, dx) := s.due g
  let h := (s.inForce g).vact
  let pos := fun (y x : Nat) => y * w + (min (max x x0) (x0 + w) - x0)
  let d : Int := (if frame = f then 0 else if frame = (f + 1) % 2 ^ 32 then (w * h : Nat) else if frame = (f + 2) % 2 ^ 32 then (2 * w * h : Nat) else -1 - (w * h : Nat) : Int)
    + (pos y x : Nat) - (pos dy dx : Nat)
  if m < 8 ∧ 0 ≤ d then some d.toNat else none

/-- Every pixel of a rectangle of a frame lies within the FIFO (R177). -/
def State.fits (s : State) (g frame : Nat) (r : Rect) : Bool :=
  let corner := fun x => match s.ahead g frame (r.y1 - 1) x with
    | some d => decide (d < s.fifoCap (s.halfOf g x).1)
    | none => true
  let split := (s.inForce g).split
  corner (r.x1 - 1) && (!(s.pairLocked g && decide (r.x0 < split ∧ split < r.x1)) || corner (split - 1))

/-- A cell whose first line starts at `y0`, or whose first pixel is at (x0, y0), is late in frame `frame` (R181). -/
def State.isLate (s : State) (g frame : Nat) (racing : Bool) (y0 x0 : Nat) : Bool :=
  let o := s.out g
  let behind := (o.dispFrame + 2 ^ 32 - frame) % 2 ^ 32
  if behind = 0 then (if racing then decide (y0 < o.line ∨ (o.line = y0 ∧ x0 < o.slot)) else decide (y0 ≤ o.line))
  else decide (behind < 2 ^ 31)

/-- Pixels put into the FIFO of the generator `g`. -/
def State.fifoPut (s : State) (g : Nat) (es : List (Nat × FifoPx)) : State :=
  s.setOut g { s.out g with fifo := es.foldl (fun t (e : Nat × FifoPx) => (t.filter fun (f : Nat × FifoPx) => f.1 != e.1) ++ [e]) (s.out g).fifo }

/-! The fill (R176, R178). -/

/-- The position after one in raster order of active pixels. -/
def rasterNext (w h : Nat) (e : Nat × Nat × Nat) : Nat × Nat × Nat :=
  if e.2.2 + 1 < w then (e.1, e.2.1, e.2.2 + 1) else if e.2.1 + 1 < h then (e.1, e.2.1 + 1, 0) else ((e.1 + 1) % 2 ^ 32, 0, 0)

/-- Pixels present consecutively from a position on, and the first position absent. -/
def fillFrom (fifo : List (Nat × FifoPx)) (w h : Nat) : Nat → Nat × Nat × Nat → Nat × (Nat × Nat × Nat)
  | 0, e => (0, e)
  | n + 1, e =>
    if fifo.any (fun (p : Nat × FifoPx) => p.1 == fifoKey e.1 e.2.1 e.2.2) then
      let r := fillFrom fifo w h n (rasterNext w h e)
      (r.1 + 1, r.2)
    else (0, e)

/-- The output replays its retained frame (R188). -/
def State.replays (s : State) (g : Nat) : Bool := s.rd (timPage g) OUT_STATIC_STATUS_retained == 1

/-- The fill of generator `g`, and the first absent position; a replayed FIFO is kept full. -/
def State.fill (s : State) (g : Nat) : Nat × (Nat × Nat × Nat) :=
  let t := (s.out g).tim
  if s.replays g then (s.fifoCap g, s.due g) else fillFrom (s.out g).fifo t.hact t.vact (s.out g).fifo.length (s.due g)

/-- The applied scene has a DRAM-sourced visible layer. -/
def State.dramScene (s : State) (g : Nat) : Bool :=
  let t := s.inForce g
  (placedOn (s.scene g) s.layOwner (slotsIn (s.scene g) g) g t.hact t.vact).any fun q => q.lay.kind == 0 && !q.vis.empty

/-- Wakes of the output's presses move into the deadline class (R178), and a lower-class step in progress is withdrawn (R47). -/
def State.urgentWakes (s : State) (g : Nat) : State :=
  s.promoteWakes ((s.assigned g).map pressPage) (s.nextBoundary g)

/-- What a generator reports at its outputs' FIFO pages and DRAM ports. -/
def State.report (s : State) (g tol : Nat) (urgent panic : Bool) : State :=
  (s.withPair g).foldl (fun (t : State) m =>
    let p := outPage m 1
    (((t.wr p OUT_LT_STATUS_tolerance tol).wr p OUT_LT_STATUS_urgent (b2n urgent)).wr p OUT_LT_STATUS_panic (b2n panic)).setPort11 m tol urgent panic) s

/-- A tally of the tally page of each output of a generator (R196). -/
def State.countPair (s : State) (g i : Nat) (n : Nat := 1) : State :=
  (s.withPair g).foldl (fun (t : State) m => t.count (outPage m 7) i n) s

/-- The fill and what follows from it (R178): the level, the least fill, urgency and panic. -/
def State.updateFill (s : State) (g : Nat) : State :=
  if s.rd (timPage g) OUT_TIM_STATUS_running = 0 then s
  else
    let n := (s.fill g).1
    let p := outPage g 1
    let w := (s.inForce g).hact
    let was := s.rd p OUT_LT_STATUS_urgent == 1
    let pan := s.rd p OUT_LT_STATUS_panic == 1
    let urgent := decide (n * 8 < s.rd p OUT_WM_URGENT_level * w)
    let panic := urgent && (pan || (decide (n * 8 < s.rd p OUT_WM_PANIC_level * w) && s.dramScene g))
    let s := (s.withPair g).foldl (fun (t : State) m =>
      let k := 8 * outPage m 7 + 2
      { t.wr (outPage m 1) OUT_FIFO_LEVEL_fill (min 262143 n) with tally := NatTbl.put t.tally k (max (NatTbl.at_ t.tally k) (262144 - n)) }) s
    let s := if panic && !pan then s.countPair g 3 else s
    let s := if urgent && !was then (s.setOut g { s.out g with urgentAt := some s.now }).urgentWakes g
      else if was && !urgent then
        (match (s.out g).urgentAt with | some t => s.countPair g 4 (s.usSince t) | none => s).setOut g { s.out g with urgentAt := none }
      else s
    if urgent = was ∧ panic = pan then s else s.report g (s.rd p OUT_LT_STATUS_tolerance) urgent panic

end Sys2Proof.Machine
end

