-- ==== Sys2Proof/Machine/Raster.lean ====
section
/-! DEFINITION. The raster (R168 to R175): line starts, frame boundaries, variable and reduced refresh (R185 to R190) and
the frame reference (R191 to R195). -/

namespace Sys2Proof.Machine

/-! The protected layer's line (R93, R95). -/

/-- Bytes per pixel of a protected layer's format. -/
def plBytes (format : Nat) : Nat := if format = 0 then 1 else if format = 1 then 2 else 4

/-- The vault address and length of the protected layer's row on line `y`, in scene `sc`, if it has one. -/
def State.plRow (s : State) (n sc y : Nat) : Option (Nat × Nat) :=
  let g := fun f => s.rdA sc (plPage n) f
  let row : Int := (y : Nat) - signed 16 (g PL_POS_y)
  if g PL_CTRL_enable = 0 ∨ row < 0 ∨ (g PL_SIZE_h_m1 : Int) < row then none
  else some (g PL_ADDR_offset * 64 + row.toNat * (g PL_STRIDE_stride * 64), (g PL_SIZE_w_m1 + 1) * plBytes (g PL_CTRL_format))

/-- The 64-bit words of a vault line that a failed check loses: all of them to an address parity error, the first one
read to an uncorrectable word. -/
def State.wordsLost (s : State) (addr len line : Nat) : List Nat :=
  let (a, n) := inLine addr len line
  if s.rd (vltGroup (64 * line)) FLT_INJECT_source = 1 then (List.range ((a + (n - 1)) / 8 + 1 - a / 8)).map (· + a / 8) else [a / 8]

/-- The lines of a keeper read: the words that failed. -/
def State.plLines (s : State) (addr len : Nat) : List Nat → State × List Nat
  | [] => (s, [])
  | l :: t =>
    let lost := s.wordsLost addr len l
    let (s, bad) := s.vltLine (64 * l)
    let (s, r) := s.plLines addr len t
    (s, if bad then lost ++ r else r)

/-- The keeper stage reads the protected layer of output `n` for line `y` (R95). -/
def State.plRead (s : State) (n sc y : Nat) : State × PlLine :=
  match s.plRow n sc y with
  | none => (s, ⟨y, [], []⟩)
  | some (a, len) =>
    let (s, bad) := s.plLines a len (linesOf a len)
    let s := if bad.isEmpty then s else (s.count (plPage n) 1 bad.length).fault (plPage n) 0
    (s, ⟨y, s.bytesAt 1 a len, bad⟩)

/-- The protected layer of output `m` for line `y` of a frame of `vact` active lines; no other line's reading is taken for one
that was not read. -/
def State.plGet (s : State) (m sc y vact : Nat) : State × PlLine := if y < vact then s.plRead m sc y else (s, ⟨2 ^ 20, [], []⟩)

/-- The protected layers of a generator's outputs, one line ahead: `next` is the line after the present one. A line that a change of
the timing has made the present one unread is read at its start. Where the frame boundary falls at this line 0, it takes the state
first, and reads the line after it (R93, R171). -/
def State.plAhead (s : State) (g line next : Nat) : State :=
  (s.withPair g).foldl (fun (t : State) m =>
    let vact := (t.out g).tim.vact
    let (t, cur) := if (t.out m).plNext.line = line then (t, (t.out m).plNext) else t.plGet m (9 + m) line vact
    let (t, nx) := if line = 0 ∧ (t.out g).boundaryDue then (t, ⟨2 ^ 20, [], []⟩) else t.plGet m (if next = 0 then m else 9 + m) next vact
    t.setOut m { t.out m with plCur := cur, plNext := nx }) s

/-! Line starts (R168, R171, R175, R185, R187, R321). -/

/-- The safe state entered at a line start (R321). -/
def State.safeEntry (s : State) (g : Nat) : State :=
  if s.rd (outPage g 4) OUT_KPR_STATUS_safe = 1 then s
  else if !s.safeCause g then s.setOut g { s.out g with safeAt := none }
  else
    let at_ := (s.out g).safeAt.getD s.now
    let s := s.setOut g { s.out g with safeAt := some at_ }
    if at_ + 2000 ≤ s.now then (s.withPair g).foldl (fun (t : State) m => t.setSafe1 m 1) s else s

/-- The timing of the coming line: the registers', or the previous one on a parity error (R171, R196). -/
def State.latchTiming (s : State) (g : Nat) : State × Timing :=
  match s.useInject (timPage g) 2 with
  | (t, some _) => (t.fault (timPage g) 2, (t.out g).tim)
  | (t, none) => (t, t.timing g)

/-- The vertical total in force: nominal, with the line adjustment of this frame. -/
def OutS.total (o : OutS) (t : Timing) : Nat := ((t.vtotal : Int) + o.adjust).toNat

/-- A generator with variable refresh holds (R185). -/
def State.vrrHolds (s : State) (g : Nat) (t : Timing) : Bool :=
  let lines := (s.out g).total t + (s.out g).repeats
  t.vrr && !(s.waits.any (·.out == g)) && decide (lines < t.vtotalMax) && !t.release

/-- A static output stretches the frame (R187, R189, R202). -/
def State.stretchHolds (s : State) (g : Nat) (t : Timing) : Bool :=
  s.rd (timPage g) OUT_STATIC_STATUS_stretching == 1 && (match (s.out g).wakeAt with
    | some w => decide (s.now < w + 1000 * s.rd (timPage g) OUT_STATIC_CTRL_wake_us)
    | none =>
      let slots := fun (more : Nat) => ((s.out g).total t + (s.out g).repeats + more) * t.htotal
      decide (slots 0 * s.rd (timPage g) OUT_STATIC_RATE_rate < 1000 * t.pclk)
        && (s.withPair g).all fun m => decide (slots 1 * s.rd (lnkPage m) OUT_LNK_SINK_VRR_min_hz ≤ 1000 * t.pclk))

/-- OUT_TIM_STATUS of a generator's outputs. -/
def State.timStatus (s : State) (g line : Nat) (vblank held : Bool) : State :=
  (s.withPair g).foldl (fun (t : State) m =>
    let p := timPage m
    (((t.wr p OUT_TIM_STATUS_line line).wr p OUT_TIM_STATUS_vblank (b2n vblank)).wr p OUT_TIM_STATUS_held (b2n held)).wr p
      OUT_TIM_STATUS_running 1) s

/-- The protected layers' state taken for a frame, with what shows and counts it (R93, R98). -/
def State.plTake (s : State) (g : Nat) : State :=
  (s.withPair g).foldl (fun (t : State) m =>
    let t := (escrowKeys (plPage m)).foldl (fun (t : State) k => t.setAppl (9 + m) k (t.appl m k)) t
    let on := t.rdA (9 + m) (plPage m) PL_CTRL_enable
    let t := (t.wr (plPage m) PL_STATUS_drawing on).wr (outPage m 4) OUT_KPR_STATUS_pl_drawing on
    if on = 1 then t.count (plPage m) 0 else t) s

/-- Output `g` is the reference output of the clearing link's master (R215). -/
def State.refOut (s : State) (g : Nat) : Bool :=
  s.rd gngPage GNG_CTRL_en == 1 && s.rd gngPage GNG_CTRL_master == 1 && s.rd gngPage GNG_CTRL_ref_out == g

/-- The start of line 0 (R93, R98, R215, R328): the protected layers' state is taken for the frame, unless the frame boundary
falls at this line start (R171) and takes it. -/
def State.frameStart (s : State) (g : Nat) : State :=
  let o := s.out g
  let s := s.setOut g { o with repeats := 0, adjust := o.nextAdjust, line0At := some s.now, passed := false, underrun := false,
                               dispFrame := s.rd (timPage g) OUT_TIM_FRAME_count, boundaryDue := o.boundaryDue || !o.passed }
  let s := if o.passed then s.plTake g else s
  let s := (s.withPair g).foldl (fun (t : State) m =>
    let t := t.setOut m { t.out m with underrun := false }
    (t.chkFrameStart m).chkFrameStart (8 + m)) s
  if s.refOut g then
    { s.wr gngPage GNG_FRAME_frame (s.rd (timPage g) OUT_TIM_FRAME_count) with link := { s.link with start := some s.now } }
  else s

/-- The frame boundary falls at the start of line 0 (R171): the frame draws the protected layers as applied there (R93). -/
def State.plRetake (s : State) (g : Nat) : State :=
  let s := s.plTake g
  (s.withPair g).foldl (fun (t : State) m =>
    let vact := (t.out g).tim.vact
    let (t, cur) := t.plGet m (9 + m) 0 vact
    let (t, nx) := t.plGet m (9 + m) 1 vact
    t.setOut m { t.out m with plCur := cur, plNext := nx }) s

/-- The events of the start of a line on one output (R175, R204, R331). -/
def State.lineEvents (s : State) (m line : Nat) (t : Timing) : State :=
  let p := timPage m
  let hit := fun (f en : Fld) => s.rd p en == 1 && s.rd p f == line && decide (line < t.vtotal)
  let s := if line = t.vact then s.raise p 0 else s
  let s := if hit OUT_TIM_MATCH0_line OUT_TIM_MATCH0_en then s.raise p 1 else s
  let s := if hit OUT_TIM_MATCH1_line OUT_TIM_MATCH1_en then s.raise p 2 else s
  if line = t.vact then ((s.linkVblank m).chkFrameEnd m).chkFrameEnd (8 + m) else s

/-- The generator moves to a line (R171). -/
def State.newLine (s : State) (g line : Nat) (t : Timing) : State :=
  let s := s.setOut g { s.out g with tim := t, line := line, slot := 0, lineAt := s.now }
  let s := if line = 0 then s.frameStart g else s
  let o := s.out g
  let s := if !o.passed && line + t.lead == o.total t then s.setOut g { o with boundaryDue := true, passed := true } else s
  let s := s.timStatus g line (decide (t.vact ≤ line)) false
  let next := if (s.out g).total t ≤ line + 1 then 0 else line + 1
  let s := s.plAhead g line next
  (s.withPair g).foldl (fun (u : State) m => u.lineEvents m line t) s

/-- LINE_START (R171): a stop asked for takes effect; a generator that holds repeats line vactive. -/
def execLineStart (o : Out) (s : State) : Host.Outcome State Fault Refusal :=
  let g := s.gen o.val
  .next (
    if s.rd (timPage g) OUT_TIM_STATUS_running = 0 then s
    else if (s.out g).stopReq then s.stopOutput g
    else
      let s := s.safeEntry g
      let (s, t) := s.latchTiming g
      let v := s.out g
      if v.line = t.vact ∧ (s.vrrHolds g t ∨ s.stretchHolds g t) then
        let s := (s.setOut g { v with tim := t, repeats := v.repeats + 1, lineAt := s.now }).timStatus g v.line true true
        (s.withPair g).foldl State.linkVblank s
      else s.newLine g (if v.total t ≤ v.line + 1 then 0 else v.line + 1) t)

/-- GENERATOR_START (R174): once every assigned press is ON the generator starts at line vactive. -/
def execGeneratorStart (o : Out) (s : State) : Host.Outcome State Fault Refusal :=
  let g := s.gen o.val
  .next (
    if !(s.out g).enabled || s.rd (timPage g) OUT_TIM_STATUS_running == 1 || !((s.assigned g).all s.pressOn) then s
    else
      let t := s.timing g
      let s := s.setOut g { s.out g with passed := decide (t.vtotal < t.vact + t.lead) }
      s.newLine g t.vact t)

/-! The static state (R186 to R190). -/

/-- Stretching takes place (R187). -/
def State.mayStretch (s : State) (g : Nat) : Bool :=
  let t := s.inForce g
  (s.withPair g).all (fun m => s.rd (lnkPage m) OUT_LNK_STATUS_adaptive_sync == 1) && !s.namesRef g && decide (t.lead < t.vtotal - t.vact)

/-- The pixels of the displayed frame that a replay has still to bring, at most `n` in raster order, stay in the FIFO as it ends
(R188). -/
def State.keepReplay (s : State) (g n : Nat) : State :=
  match (s.out g).retained with
  | none => s
  | some r =>
    if !s.replays g then s
    else
      let o := s.out g
      let w := o.tim.hact
      let pos := fun (k : Nat) => k / 2 ^ 14 * w + k % 2 ^ 14
      let from_ := o.line * w + o.slot
      s.fifoPut g ((r.pixels.filter fun e => decide (from_ ≤ pos e.1 ∧ pos e.1 < from_ + n)).map fun e =>
        (fifoKey o.dispFrame 0 0 + e.1, e.2))

/-- Retention given up for the episode: its space freed, presses wake, logged (R188, R190, R248). -/
def State.dropRetention (s : State) (g : Nat) : State :=
  let replays := s.rd (timPage g) OUT_STATIC_STATUS_retained == 1
  let s := (s.keepReplay g (s.fifoCap g)).dropRetained g
  if replays then (s.assigned g).foldl (fun (t : State) p => if t.power (pressPage p) = 1 then t.wakeAsk (pressPage p) 0 (t.nextBoundary g) else t) s
  else s

/-- The retained frame at a boundary: a complete one is replayed from now on; a frame that lost cells is written again. -/
def State.turnRetained (s : State) (g : Nat) : State :=
  match (s.out g).retained with
  | none => s
  | some r =>
    let t := s.inForce g
    let p := timPage g
    if r.complete then s.countPair g 6
    else if r.pixels.length = t.hact * t.vact then
      let s := (s.setOut g { s.out g with retained := some { r with complete := true } }).wr p OUT_STATIC_STATUS_retained 1
      let s := s.countPair g 6
      (s.assigned g).foldl (fun (t : State) q => if t.power (pressPage q) = 3 then t.setPower (pressPage q) 1 else t) s
    else ((s.setOut g { s.out g with retained := some ⟨[], 0, false⟩ }).moveSpace r.units 0).wr p OUT_STATIC_STATUS_size 0

/-- The static state at a frame boundary: left after an occurrence, entered after OUT_STATIC_FRAMES quiet frames, unless a commit
applies at this boundary, which belongs to the frame that begins (R186). -/
def State.turnStatic (s : State) (g : Nat) : State :=
  let p := timPage g
  let o := s.out g
  if s.rd p OUT_STATIC_STATUS_static = 1 then
    if o.wakeAt.isSome then
      let s := (s.keepReplay g ((s.out g).tim.hact * (s.out g).tim.vact)).freeRetained g
      let s := s.setOut g { s.out g with wakeAt := none, quiet := 0 }
      let k := fkey p OUT_STATIC_STATUS 0
      (s.hwChange k (OUT_STATIC_STATUS_stretching.put (OUT_STATIC_STATUS_static.put (s.reg k) 0) 0)).raise p 7
    else (s.wr p OUT_STATIC_STATUS_stretching (b2n (s.mayStretch g))).turnRetained g
  else if s.rd p OUT_STATIC_CTRL_en = 1 ∧ s.rd p OUT_STATIC_FRAMES_frames ≤ o.quiet ∧ !o.touched then
    let k := fkey p OUT_STATIC_STATUS 0
    let s := (s.hwChange k (OUT_STATIC_STATUS_stretching.put (OUT_STATIC_STATUS_static.put (s.reg k) 1) (b2n (s.mayStretch g)))).raise p 6
    if s.rd p OUT_STATIC_CTRL_retain_en = 1 then s.setOut g { s.out g with retained := some ⟨[], 0, false⟩ } else s
  else s

/-! The frame reference (R191 to R195). -/

/-- The expected period of a reference in ns (R191). -/
def State.refPeriod (s : State) (g : Nat) : Nat :=
  let t := s.inForce g
  t.htotal * t.vtotal * 1000000 / max 1 t.pclk * (s.rd (timPage g) OUT_REF_CTRL_mult + 1)

def State.refSrc (s : State) (n c : Nat) : RefSrc := Tbl.get (fun _ => ⟨none, 0⟩) (s.out n).refs c
def State.setRefSrc (s : State) (n c : Nat) (r : RefSrc) : State :=
  (s.setOut n { s.out n with refs := Tbl.set (fun _ => ⟨none, 0⟩) (s.out n).refs c r }).wr (timPage n) ⟨0x0C8, 4, 7 + c, 7 + c⟩
    (b2n (decide (8 ≤ r.good)))

/-- The time in ns of the frame in progress, with its line adjustment and the trim in force. -/
def State.frameNs (s : State) (g : Nat) : Nat :=
  let t := s.inForce g
  let rate : Int := 1000000 + signed 12 (s.rd (timPage g) OUT_REF_TRIM_ppm)
  (s.out g).total t * t.htotal * 1000000000000 / (max 1 t.pclk * rate.toNat)

/-- The phase error against an edge at `t`, wrapped into half an expected period (R193), in ns. The frame due at the edge is the one
whose line 0 starts nearest to it: the last one begun, or the next. -/
def State.phaseError (s : State) (g t : Nat) : Int :=
  match (s.out g).line0At with
  | none => 0
  | some l =>
    let p : Int := s.refPeriod g
    let last : Int := (l : Nat) - (t : Nat) - signed 24 (s.rd (timPage g) OUT_REF_OFFSET_offset) * 10
    let next : Int := last + (s.frameNs g : Nat)
    let d := if next.natAbs < last.natAbs then next else last
    if p = 0 then 0 else (d + p / 2) % p - p / 2

/-- The mean of the trims of the last frames (R194). -/
def meanTrim (l : List Int) : Int := if l.isEmpty then 0 else (l.foldl (· + ·) 0) / (l.length : Int)

/-- A source is lost: a selected one enters holdover, its trim frozen at the mean of the last 8 frames (R191, R194). -/
def State.loseRef (s : State) (g c : Nat) : State :=
  let p := timPage g
  if s.rd p OUT_REF_STATUS_selected = c then
    let s := s.wr p OUT_REF_TRIM_ppm (unsigned 12 (meanTrim (s.out g).trims))
    (s.setOut g { s.out g with lockRun := 0, nextAdjust := 0 }).setRef g 0 3
  else s

/-- An edge of source `c` at the instant `at_`, at generator `g`: qualification, and, for the target, the phase error (R191, R193). An edge
at the instant of the last one is that edge. -/
def State.refEdge (s : State) (g c at_ : Nat) : State :=
  let r := s.refSrc g c
  let per := s.refPeriod g
  if c = 0 ∨ r.last = some at_ then s
  else
    let (good, lost) : Nat × Bool := match r.last with
      | none => (0, false)
      | some t =>
        let d := at_ - t
        if (max d per - min d per) * 1000 ≤ per then (r.good + 1, false) else (0, decide (8 ≤ r.good))
    let s := s.setRefSrc g c ⟨some at_, good⟩
    let s := if lost then s.loseRef g c else s
    let p := timPage g
    if s.rd p OUT_REF_STATUS_target ≠ c ∨ s.rd p OUT_REF_STATUS_selected ≠ c ∨ !s.running g then s
    else
      let e := s.phaseError g at_
      let run := if e.natAbs ≤ 1000 then (s.out g).lockRun + 1 else 0
      let s := (s.wr p OUT_REF_ERROR_error (unsigned 24 (e / 10))).setOut g { s.out g with phase := e, lockRun := run }
      s.setRef g c (if 8 ≤ run then 2 else 1)

/-- REF_EDGE (R191, R193): the clearing-link source is absent on the master device. -/
def execRefEdge (o : Out) (src : Fin 5) (s : State) : Host.Outcome State Fault Refusal :=
  .next (if src.val = 2 ∧ s.rd gngPage GNG_CTRL_master = 1 then s else s.refEdge (s.gen o.val) src.val s.now)

/-- REF_TIMEOUT (R191, R194): no edge within 1.5 expected periods. -/
def execRefTimeout (o : Out) (src : Fin 5) (s : State) : Host.Outcome State Fault Refusal :=
  let g := s.gen o.val
  .next (match (s.refSrc g src.val).last with
    | none => s
    | some t =>
      if src.val = 0 ∨ 2 * s.now ≤ 2 * t + 3 * s.refPeriod g then s
      else
        let was := decide (8 ≤ (s.refSrc g src.val).good)
        let s := s.setRefSrc g src.val ⟨none, 0⟩
        if was then s.loseRef g src.val else s)

/-- The first qualified source of the priority list (R192). -/
def State.refTarget (s : State) (g : Nat) : Nat :=
  (([OUT_REF_CTRL_prio0, OUT_REF_CTRL_prio1, OUT_REF_CTRL_prio2, OUT_REF_CTRL_prio3].map fun f => s.rd (timPage g) f).find? fun c =>
    c != 0 && decide (8 ≤ (s.refSrc g c).good)).getD 0

/-- The reference at a frame boundary: the target, the next frame's length, and the trim (R192 to R194). With its whole line and
its trim, a frame differs by one line time at most from one with the mean trim of the last 8 frames (R193). -/
def State.turnRef (s : State) (g : Nat) : State :=
  let p := timPage g
  let o := s.out g
  let line : Int := (s.inForce g).lineNs
  let was := s.rd p OUT_REF_STATUS_target
  let tgt := s.refTarget g
  let left := o.phase + o.nextAdjust * line
  let s := s.wr p OUT_REF_STATUS_target tgt
  let now_ := signed 12 (s.rd p OUT_REF_TRIM_ppm)
  let held := meanTrim o.trims
  if tgt = 0 then
    let s := s.setOut g { o with nextAdjust := 0, phase := 0, lockRun := 0 }
    let free := s.rd p OUT_REF_STATUS_state != 3
    let s := if free then (s.setRef g 0 0).wr p OUT_REF_TRIM_ppm 0 else s
    s.setOut g { s.out g with trims := ((if free then 0 else now_) :: o.trims).take 8 }
  else
    let phase := if tgt = was then left else match (s.refSrc g tgt).last with | some t => s.phaseError g t | none => 0
    let adj : Int := if line ≤ phase then -1 else if phase ≤ -line then 1 else 0
    let room : Int := if adj = 0 then (1000000 / max 1 (s.inForce g).vtotal : Nat) else 0
    let trim := clamp (-1500) 1500 (clamp (held - room) (held + room) (Config.refTrim (phase / 10) (s.refPeriod g) now_).toInt)
    let s := s.setOut g { o with phase := phase, nextAdjust := adj, trims := (trim :: o.trims).take 8,
                                 lockRun := if tgt = was then o.lockRun else 0 }
    let s := s.wr p OUT_REF_TRIM_ppm (unsigned 12 trim)
    if s.rd p OUT_REF_STATUS_selected = tgt then s else s.setRef g tgt 1

/-! The frame boundary (R154, R171). -/

/-- The tallies of an output's frame latch (R64, R196), and the presses that serve it or follow it end their frame (R145). -/
def State.latchFrame (s : State) (g : Nat) : State :=
  let o := s.out g
  let s := match o.bounds with | b :: _ => s.countPair g 5 ((s.now - b) / 10) | [] => s
  let s := match o.urgentAt with
    | some t => (s.countPair g 4 (s.usSince t)).setOut g { s.out g with urgentAt := some (t + 1000 * s.usSince t) }
    | none => s
  let pages := (s.withPair g).flatMap (fun m => (List.range 8).map (outPage m) ++ [plPage m])
    ++ ((List.range 128).filter fun l => s.latchOut l == some g).map layPage
  let s := pages.foldl (fun (t : State) p => t.latch p) s
  let fx := (List.range 128).filter fun p => s.rd (pressPage p) MNT_P_ROLE_role == 2 && s.effectFrameOut p == some g
  (s.assigned g ++ fx).foldl (fun (t : State) p => t.slowCheck p) s

/-- The slots as granted come into the scene of the output (R121). -/
def State.takeSlots (s : State) (g : Nat) : State :=
  (List.range 32).foldl (fun (t : State) i =>
    let k := regKey (outPage g 2) (0x100 + 4 * i)
    (t.setAppl g k (t.reg k)).setAppl 8 k (t.reg k)) s

/-- The scalers of the placements on an output (R76, R112): those no longer needed are freed, the rest assigned in
stacking order. -/
def State.assignScalers (s : State) (g : Nat) : State :=
  let t := s.inForce g
  let ps := (placedOn (s.scene g) s.layOwner (slotsIn (s.scene g) g) g t.hact t.vact).filter (·.lay.needsScaler)
  let s := (List.range 32).foldl (fun (s : State) c =>
    let p := sclPage c
    if s.rd p SCL_STATUS_in_use = 1 ∧ s.rd p SCL_STATUS_output = g ∧ !(ps.any fun q =>
        q.lay.num == s.rd p SCL_STATUS_layer && s.scalerFor q.lay.acct q.lay.num g == some c)
    then s.freeScaler c else s) s
  ps.foldl (fun (s : State) q => match s.scalerFor q.lay.acct q.lay.num g with
    | some c => ((s.wr (sclPage c) SCL_STATUS_in_use 1).wr (sclPage c) SCL_STATUS_layer q.lay.num).wr (sclPage c) SCL_STATUS_output g
    | none => s) s

/-- Line `y` of slot `slot` of port `c` is published. -/
def State.lineShown (s : State) (c slot y : Nat) : Bool := Tbl.get (fun _ => false) (s.cap c).published (slot * 4320 + y)

/-- Non-racing layers of the output read, for the frame, the capture frame completed last, and the one completed before it where a
line of the first is unpublished (R83, R209): the readers of a slot, by output, and by 16 + output for the frame before. -/
def State.takeCaptures (s : State) (g : Nat) : State :=
  (List.range 2).foldl (fun (t : State) c =>
    let reads := (t.layersOn g).any fun l =>
      let y := layOf (t.scene g) 0 l
      y.kind == 2 && y.cap == c && !y.racing && y.outputs.testBit g
    let v := t.cap c
    let rest := v.readers.filter fun (e : Nat × Nat) => e.1 != g && e.1 != 16 + g
    let new := match v.last with
      | some f => (g, f) :: (if (List.range (t.rd (capPage c) CAP_GEOM_height)).all (t.lineShown c f) then []
          else match v.prev with | some b => [(16 + g, b)] | none => [])
      | none => []
    t.setCap c { v with readers := if reads then rest ++ new else rest }) s

/-- No fetch of a source that a commit has replaced, or removed, begins after the boundary (R84). -/
def State.endReplaced (s : State) (g : Nat) : State :=
  s.endFetches fun c st =>
    let l := layOf (s.scene g) st.src.acct st.layer
    c.acct.isNone && c.out == g && !(l.enable && l.outputs.testBit g && l.kind == st.src.kind && l.cap == st.src.cap
      && (l.kind == 2 || (l.a0 == st.src.a0 && l.a1 == st.src.a1)))

/-- FRAME_BOUNDARY (R154, R171): once for each boundary that the raster has reached. -/
def State.boundary (s : State) (g : Nat) : State :=
  let frame := (s.rd (timPage g) OUT_TIM_FRAME_count + 1) % 2 ^ 32
  let s := s.latchFrame g
  let s := (s.withPair g).foldl (fun (t : State) m => t.wr (timPage m) OUT_TIM_FRAME_count frame) s
  let v := s.out g
  let s := s.setOut g { v with boundaryDue := false, bounds := s.now :: v.bounds.take 1, bands := 0, bandAt := s.now, raceCell := 0,
                               grid := (v.tim.hact, v.tim.vact), held := [], counted := [], quiet := if v.touched then 0 else v.quiet + 1, touched := false,
                               dispFrame := if v.line = 0 then frame else v.dispFrame }
  let s := if v.line = 0 ∧ s.refOut g then s.wr gngPage GNG_FRAME_frame frame else s
  let s := s.takeSlots g
  let s := s.synBoundaries g
  let acts := (s.waits.filter (s.waitDue g)).map (·.acct)
  let s := s.applyCommits g
  let s := s.endReplaced g
  let s := if v.line = 0 then s.plRetake g else s
  let s := s.swapTables g acts
  let race := b2n (s.racesNow g)
  let s := (s.withPair g).foldl (fun (t : State) m =>
    (t.wr (timPage m) OUT_TIM_STATUS_racing race).syncCaps m) s
  let s := ((s.layersOn g).foldl (fun (t : State) l => t.syncLayer l) s).syncSafe
  let s := ((s.assignScalers g).turnStatic g).turnRef g
  let s := if s.rd (outPage g 4) OUT_KPR_STATUS_safe = 1 ∧ !s.safeCause g then
      (s.withPair g).foldl (fun (t : State) m => t.setSafe1 m 0) (s.setOut g { s.out g with safeAt := none })
    else s
  s.takeCaptures g

def execFrameBoundary (o : Out) (s : State) : Host.Outcome State Fault Refusal :=
  let g := s.gen o.val
  .next (if (s.out g).boundaryDue && s.rd (timPage g) OUT_TIM_STATUS_running == 1 then s.boundary g else s)

end Sys2Proof.Machine
end

