-- ==== Sys2Proof/Machine/Compose.lean ====
section
/-! DEFINITION. Composition (R21 to R24, R83 to R85, R99 to R107, R115, R140 to R144): bands, the sorter's lists, cheques,
fetching, effects, routine loads, and publication into the FIFO (R177, R181, R188). -/

namespace Sys2Proof.Machine

/-! Routine loads (R144). -/

/-- The vault address of a routine image: the library's images are named above 2^40 (R142). -/
def imageAt (image : Nat) : Nat := if 2 ^ 40 ≤ image then vaultLibrary + (image - 2 ^ 40) else image

/-- Code words and constants placed in a mint's stores. -/
def codeTable (bs : List Byte) (n : Nat) : List (Nat × Word) :=
  ((List.range n).map fun i => (i, BitVec.ofNat 32 (ofLeBytes ((bs.drop (4 * i)).take 4)))).filter fun e => e.2 != 0

/-- ROUTINE_LOAD (R144): code into the routine store, constants to 0x200; an access that fails raises
ROUTINE_LOAD_ERROR and bounces the cheque. -/
def execRoutineLoad (m : MintId) (s : State) : Host.Outcome State Fault Refusal :=
  let p := pressPage (m.val / 8)
  .next (
    if (s.mint m.val).phase ≠ .loading then s
    else match (s.mint m.val).cheque with
      | none => s
      | some id => match s.cheque id with
        | none => s
        | some c =>
          let who := c.acct.getD 32
          let cls := 3
          let a := imageAt c.routine.image
          match s.readMem who cls 1 a 16 with
          | (s, .error _) => (s.fault p 4).bounce m.val
          | (s, .ok h) =>
            let n := if c.acct.isSome then c.routine.code else min 1024 (ofLeBytes (h.take 4))
            let k := if c.acct.isSome then c.routine.consts else min 3584 (ofLeBytes ((h.drop 4).take 4))
            match s.readMem who cls 1 (a + 16) (4 * n + k) with
            | (s, .error _) => (s.fault p 4).bounce m.val
            | (s, .ok bs) =>
              let v := s.mint m.val
              (s.setMint m.val { v with code := codeTable bs n, codeLen := n, data := putBytes v.data 0x200 (bs.drop (4 * n)),
                                        resident := some c.routine.image, phase := .running, lastAt := s.now }).count p 5)


/-! Streams (R83, R101, R109, R132). -/

/-- The vault address of a slot of a capture ring (R208). -/
def State.slotBase (s : State) (c slot : Nat) : Nat :=
  s.rd (capPage c) CAP_RING_base * 64 + slot * (s.rd (capPage c) CAP_STRIDE_stride * 64 * s.rd (capPage c) CAP_GEOM_height)

/-- The slots of its capture ring that a layer of output `g` reads, the first one that has published a line giving it (R83, R209): the
frame in progress for a racing layer, the frame completed last, and the one completed before it. -/
def State.capSlots (s : State) (g : Nat) (l : Lay) : List Nat :=
  let v := s.cap l.cap
  let held := fun k => (v.readers.find? fun (e : Nat × Nat) => e.1 == k).map (·.2)
  if l.racing then v.open_.toList ++ v.last.toList ++ v.prev.toList
  else match held g with | some c => c :: (held (16 + g)).toList | none => v.last.toList

/-- The slot of `slots` from which line `y` of a capture ring is read: the first that has published it, else the last. -/
def State.capLineSlot (s : State) (c : Nat) (slots : List Nat) (y : Nat) : Nat :=
  ((slots.find? fun k => s.lineShown c k y).or slots.getLast?).getD 0

/-- The source lines of plane 0 that a part of the destination reads. -/
def Lay.lines (l : Lay) (part : Rect) : List Nat :=
  reads l.needsScaler 2 6 l.sy l.sh l.dh ((part.y0 : Int) - l.y).toNat ((part.y1 : Int) - l.y).toNat

/-- The tiles of a stream's part. -/
def Stream.tiles (st : Stream) (part : Rect) : List (Nat × Nat) :=
  let l := st.src
  if !l.ilt then [] else
    let cols := ((reads l.needsScaler 3 8 l.sx l.sw l.dw ((part.x0 : Int) - l.x).toNat ((part.x1 : Int) - l.x).toNat).map (· / 64)).eraseDups
    let rows := ((l.lines part).map (· / 8)).eraseDups
    rows.flatMap fun r => cols.map fun c => (c, r)

/-- Blocks of tile bodies that their headers make needless are no longer wanted (R79). -/
def Stream.trim (st : Stream) (part : Rect) : Stream :=
  { st with want := st.want.filter fun (w : Nat × Nat) => !((st.tiles part).any fun (e : Nat × Nat) =>
      match st.val (st.src.a1 + e.2 * st.src.st1 + e.1 * 8) 8 with
      | none => false
      | some h =>
        let base := blockOf st.src.kind (st.src.a0 + e.2 * st.src.st0 + e.1 * slotBytes st.src.format)
        decide (base + iltNeed st.src.format h ≤ w.2 ∧ w.2 < base + slotBytes st.src.format / 64)) }

/-- The blocks of a stream's part of a cell, each with the first slot that needs it. -/
def Stream.blocksOf (st : Stream) (sit : Nat) (cell part : Rect) : List (Nat × Nat) :=
  let w := cell.x1 - cell.x0
  let h := cell.y1 - cell.y0
  ((List.range (st.slots w h)).flatMap fun k =>
    let r := (st.slotRect cell.x0 cell.y0 w h k).inter part
    if r.empty then [] else (st.src.blocks r sit st.row).map fun b => (k, if st.src.kind = 0 then b else 2 ^ 40 + b)).foldl
      (fun (t : List (Nat × Nat)) e => if t.any fun f => f.2 == e.2 then t else t ++ [e]) []

/-- A stream whose source read begins: its capture slot and the blocks it wants (R83, R105). One whose fetches have ended reads
nothing (R25, R84). -/
def State.aim (s : State) (g : Nat) (st : Stream) (cell part : Rect) : Stream :=
  let l := st.src
  let sit := match st.scaler with | some c => s.sclCtrl c SCL_CTRL_siting | none => 0
  if st.ended then st else
  let st := if l.kind ≠ 2 then st
    else
      let slots := s.capSlots g l
      let cur := slots.headD 0
      let from_ := (l.lines part).map fun y => (y, s.capLineSlot l.cap slots y)
      { st with ring := (s.slotBase l.cap cur, s.rd (capPage l.cap) CAP_STRIDE_stride * 64),
                alt := (from_.filter fun e => e.2 != cur).map fun e => (e.1, s.slotBase l.cap e.2) }
  Stream.trim { st with want := st.blocksOf sit cell part } part

/-- Lines of a placement counted in a tally, each once in a frame. -/
def State.countLines (s : State) (g page tally base : Nat) (lines : List Nat) : State :=
  let new := (lines.map (· + base)).filter fun k => !(s.out g).counted.contains k
  (s.count page tally new.length).setOut g { s.out g with counted := (s.out g).counted ++ new }

/-- Source lines read from the previous frame, counted once for each line of a placement (R83, R88). -/
def State.countAlt (s : State) (g : Nat) (st : Stream) : State :=
  if st.alt.isEmpty then s else s.countLines g (layPage st.layer) 5 (st.layer * 2 ^ 14) (st.alt.map (·.1))

/-- The lines that a scaler produces for a placement, each counted once (R123). -/
def State.countScaled (s : State) (g : Nat) (st : Stream) (part : Rect) : State :=
  match st.scaler with
  | some c => s.countLines g (sclPage c) 0 (2 ^ 24 + st.layer * 2 ^ 14) ((List.range (part.y1 - part.y0)).map (· + part.y0))
  | none => s

/-- The effect press that takes an account's next effect cheque: the one with the fewest waiting. -/
def State.effectPress (s : State) (a : Nat) : Option Nat :=
  (s.pressesOf 2 a).foldl (fun (b : Option Nat) p => match b with
    | none => some p
    | some q => if (s.press p).length < (s.press q).length then some p else some q) none

/-- The stream of a listed layer in a cell of press `press` (R132), not yet reading its source. The data of a layer with an effect
goes to the press of its effect cheque (R107, R115). -/
def State.streamOf (s : State) (g press : Nat) (cell : Rect) (q : Placed) : Stream :=
  let l := q.lay
  let v := q.vis.inter cell
  let o := (if l.opaq then v else if l.opqEn then v.inter l.opqRect else ⟨0, 0, 0, 0⟩ : Rect)
  let scl := if l.needsScaler then s.scalerFor l.acct l.num g else none
  let space := s.rdA g (outPage g 2) OUT_CMP_BLEND_space
  { layer := l.num, form := if l.needsScaler then 1 else if l.format = 4 then 2 else if l.format = 2 then 1 else 0,
    mode := if l.needsScaler ∧ l.mode = 2 then 1 else l.mode,
    decode := if space = 1 ∧ l.tf = 0 then (if l.cs = 0 then 1 else 2) else 0, tf := l.tf,
    primConv := b2n (l.cs == 2) != s.rdA g (outPage g 2) OUT_CMP_BLEND_prim, alpha := l.alpha,
    x0 := v.x0 - cell.x0, xe := v.x1 - cell.x0, y0 := v.y0 - cell.y0, ye := v.y1 - cell.y0,
    opq := if o.empty then none else some (o.x0 - cell.x0, o.x1 - cell.x0, o.y0 - cell.y0, o.y1 - cell.y0),
    src := l, scaler := scl, ring := (0, 0), alt := [],
    press := if l.effect then (s.effectPress l.acct).getD press else press, want := [], ended := false, opened := 0, blocks := [], bad := [],
    spoilt := [], effect := none, output := none, transparent := false }

/-! Cells (R99 to R104, R285). -/

/-- The output composes its present frame in racing mode. -/
def State.races (s : State) (g : Nat) : Bool := s.rd (timPage g) OUT_TIM_STATUS_racing == 1

/-- The placed layers of the applied scene of output `g`. -/
def State.placedNow (s : State) (g : Nat) : List Placed :=
  placedOn (s.scene g) s.layOwner (slotsIn (s.scene g) g) g (s.out g).grid.1 (s.out g).grid.2

/-- An empty cell shows the fallback colour after an account's reset (R285). -/
def State.blankCell (s : State) (g : Nat) (cell : Rect) : Bool :=
  let off := fun a => Tbl.get (fun _ => false) s.blanked (32 * g + a)
  (match s.ownerAcct (timPage g) with | some a => off a | none => false)
    || (slotsIn (s.scene g) g).any fun v => off v.acct && !(cell.inter ⟨v.x, v.x + v.w, v.y, v.y + v.h⟩).empty

/-- A fresh cheque number. -/
def State.newCheque (s : State) (c : Cheque) : State × Nat :=
  (({ s with nextCheque := s.nextCheque + 1 } : State).setCheque s.nextCheque (some c), s.nextCheque)

/-- The scalers whose coefficients a cell's streams read meet an injected parity error (R123): a pixel of the layer in the
cell takes a free value. -/
def State.coefParity (s : State) (w : Nat) (st : Stream) : State × Stream :=
  match st.scaler with
  | none => (s, st)
  | some c => match s.useInject (sclPage c) 0 with
    | (t, none) => (t, st)
    | (t, some _) =>
      let k := (st.y0 * w + st.x0) * 4
      (t.next.fault (sclPage c) 0,
        { st with spoilt := (List.range 3).map fun i => (k + i, BitVec.ofNat 32 (Config.parityPixel t.fresh i).toNat) })

/-- The streams of a cell, aimed at their sources unless their read begins later (racing mode, vault and capture, R183). -/
def State.streams (s : State) (g press : Nat) (race : Bool) (cell : Rect) : List Placed → State × List Stream
  | [] => (s, [])
  | q :: t =>
    let part := cell.inter q.vis
    let later := race && q.lay.kind != 0
    let st := if later then s.streamOf g press cell q else s.aim g (s.streamOf g press cell q) cell part
    let s := (s.countAlt g st).countScaled g st part
    let (s, st) := s.coefParity (cell.x1 - cell.x0) st
    let (s, r) := s.streams g press race cell t
    (s, st :: r)

/-- The composition routine's image (R142). -/
def compositionRoutine : Routine := ⟨2 ^ 40, 0, 0, 0⟩

/-- The first line-store slot of a stream's data is filled (R101, R140). -/
def State.firstSlot (s : State) (c : Cheque) (st : Stream) : Bool :=
  (st.opened != 0 || !st.slotUsed c 0) && (List.range (min (c.w * c.h) st.span)).all fun i => !(st.present (i % c.w) (i / c.w))
    || (match s.sample st c.out c.x c.y (i % c.w) (i / c.w) with | .wait => false | _ => true)

/-- The effect cheque of a stream (R115, R140, R141): issued once, with the stream as it stands, which the composition cheque goes
on fetching for both; without credit, routine or press the layer is transparent in the cell. -/
def State.issueEffect (s : State) (id : Nat) (c : Cheque) (st : Stream) : State :=
  let a := st.src.acct
  let v := s.acct a
  let p := st.press
  match Tbl.get (fun _ => none) s.routines (128 * c.out + st.layer) with
  | some r =>
    if v.credit ≤ v.creditUsed || !(s.pressesOf 2 a).contains p then s.lateEffect id st.layer c.out
    else
      let (s, e) := s.newCheque ⟨some a, c.out, c.frame, c.racing, c.x, c.y, c.w, c.h, p, [{ st with want := [] }], st.src.arg, id, r,
        false, true⟩
      let s := s.setAcct a { v with creditUsed := v.creditUsed + 1 }
      let s := s.setCheque id (some { c with streams := c.streams.map fun (x : Stream) => if x.layer = st.layer then { x with effect := some e } else x })
      (s.setPress p (s.press p ++ [e])).syncPress p
  | none => s.lateEffect id st.layer c.out

/-- The effect of a layer is issued once its first line-store slot is filled. -/
def State.tryEffect (s : State) (id layer : Nat) : State :=
  match s.cheque id with
  | none => s
  | some c => match c.streams.find? (·.layer == layer) with
    | none => s
    | some x => if x.src.effect && x.effect.isNone && !x.transparent && s.firstSlot c x then s.issueEffect id c x else s

/-- A late cell is counted once, on the outputs whose columns it holds, but not in the safe state (R181, R196, R320). -/
def State.lateCell (s : State) (g : Nat) (cell : Rect) : State :=
  if s.rd (outPage g 4) OUT_KPR_STATUS_safe = 1 then s
  else ([(s.halfOf g cell.x0).1, (s.halfOf g (cell.x1 - 1)).1].eraseDups).foldl (fun (t : State) m => t.count (outPage m 7) 1) s

/-- One cell of a band: sorted, filled by the compositor or issued as a cheque to its press (R100, R104, R140). -/
def State.startCell (s : State) (g : Nat) (race : Bool) (ps : List Placed) (presses : List Nat) (col row : Nat) : State :=
  let cell := cellRect race (s.out g).grid.1 (s.out g).grid.2 col row
  let all := meeting ps cell
  let list := cellList ps cell
  let gone := all.filter fun q => !(list.any fun r => r.lay.num == q.lay.num)
  let p := outPage g 2
  let s := list.foldl (fun (s : State) q => s.count (layPage q.lay.num) 0) s
  let s := (gone.foldl (fun (s : State) q => s.count (layPage q.lay.num) 1) s).count p 2 gone.length
  let frame := s.rd (timPage g) OUT_TIM_FRAME_count
  match s.useInject p 0 with
  | (s, some _) => (s.fault p 0).lateCell g cell
  | (s, none) =>
    if list.isEmpty then
      let s := s.count p 1
      s.setOut g { s.out g with backs := (s.out g).backs ++ [⟨cell.x0, cell.x1, cell.y0, cell.y1, frame, s.blankCell g cell⟩] }
    else
      let press := presses.getD (col % max 1 presses.length) 0
      let (s, sts) := s.streams g press race cell list
      let (s, id) := s.newCheque ⟨none, g, frame, race, cell.x0, cell.y0, cell.x1 - cell.x0, cell.y1 - cell.y0, press, sts, 0, 0,
        compositionRoutine, false, true⟩
      let s := ((s.setPress press (s.press press ++ [id])).syncPress press).count p 0
      (sts.filter fun st => st.src.effect).foldl (fun (s : State) st => s.tryEffect id st.layer) s

/-- The band period (R21): the time of a band's lines at the pins. -/
def State.bandNs (s : State) (g : Nat) : Nat := (if s.races g then 1 else 8) * (s.inForce g).lineNs

/-! Publication (R172, R177, R181, R188). -/

/-- Raster pixels written to the retained frame of a static output (R188): space is taken in units as they are written;
where none is left retention ends. -/
def State.retain (s : State) (g : Nat) (es : List (Nat × FifoPx)) : State :=
  match (s.out g).retained with
  | none => s
  | some r =>
    if r.complete then s
    else
      let t := s.inForce g
      let bound := cdiv ((s.withPair g).foldl (fun n m => n + (s.portLine m).1 * t.vact * (if s.depth m = 12 then 8 else 4)) 0 + 8 * (cdiv t.hact 64 * cdiv t.vact 8)) 65536
      let need := b2n (r.units == 0 || (decide (r.units < bound) && Config.retainGrow s.fresh))
      let s := s.next
      if s.rd (vltPage 0) VLT_SPACE_free < s.rd (vltPage 0) VLT_SPACE_retained + need then
        s.dropRetained g
      else
        let pix := es.foldl (fun t (e : Nat × FifoPx) => (t.filter fun (f : Nat × FifoPx) => f.1 != e.1) ++ [e]) r.pixels
        ((s.setOut g { s.out g with retained := some { r with pixels := pix, units := r.units + need } }).moveSpace 0 need).wr (timPage g)
          OUT_STATIC_STATUS_size (r.units + need)

/-- Finished pixels of a frame enter the FIFO, and the retained frame. -/
def State.enterFifo (s : State) (g frame : Nat) (es : List (Nat × Nat × FifoPx)) : State :=
  let t := (s.out g).tim
  let es := es.filter fun (e : Nat × Nat × FifoPx) => e.1 < t.hact && e.2.1 < t.vact
  let s := (s.fifoPut g (es.map fun e => (fifoKey frame e.2.1 e.1, e.2.2))).updateFill g
  s.retain g (es.map fun e => (fifoKey 0 e.2.1 e.1, e.2.2))

/-- The positions of a rectangle in raster order. -/
def Rect.points (r : Rect) : List (Nat × Nat) :=
  (List.range (r.y1 - r.y0)).flatMap fun j => (List.range (r.x1 - r.x0)).map fun i => (r.x0 + i, r.y0 + j)

/-- Pixels through the colour pipelines of the halves that carry them (R99, R117). -/
def State.colourAll (s : State) (g frame : Nat) : List (Nat × Nat × List Nat × Bool) → State × List (Nat × Nat × FifoPx)
  | [] => (s, [])
  | (x, y, v, rep) :: t =>
    let (s, p) := s.colourPx (s.halfOf g x).1 x y frame v
    let (s, r) := s.colourAll g frame t
    (s, (x, y, ⟨p, rep⟩) :: r)

/-- The background as 16-bit fractions (R104, R114). -/
def State.background (s : State) (g : Nat) : List Nat :=
  let bg := s.rdA g (outPage g 2) OUT_CMP_BACKGROUND_colour
  (List.range 3).map fun i => ((bg / 2 ^ (20 - 10 * i) % 1024) * 131070 + 1023) / 2046

/-- The cells that the compositor fills itself, each entering as the raster makes room. -/
def State.fillBacks (s : State) (g : Nat) : List Back → State
  | [] => s
  | b :: t =>
    let r : Rect := ⟨b.x0, b.x1, b.y0, b.y1⟩
    let s := if s.isLate g b.frame (s.races g) b.y0 b.x0 then s.lateCell g r
      else if s.rd (outPage g 4) OUT_KPR_STATUS_safe = 1 then s
      else if !s.fits g b.frame r then s.setOut g { s.out g with backs := (s.out g).backs ++ [b] }
      else
        let (s, es) := s.colourAll g b.frame (r.points.map fun p => (p.1, p.2, s.background g, b.fallback))
        s.enterFifo g b.frame es
    s.fillBacks g t
def State.flushBacks (s : State) (g : Nat) : State := (s.setOut g { s.out g with backs := [] }).fillBacks g (s.out g).backs

/-- BAND_START (R21): nothing before the first boundary, before the band period has passed, past the last band, or while
a retained frame is replayed. -/
def execBandStart (o : Out) (s : State) : Host.Outcome State Fault Refusal :=
  let g := s.gen o.val
  .next (
    let v := s.out g
    let race := s.races g
    if s.rd (timPage g) OUT_TIM_STATUS_running = 0 ∨ v.bounds.isEmpty ∨ cellRows race v.grid.2 ≤ v.bands
        ∨ (v.bands ≠ 0 ∧ s.now < v.bandAt + s.bandNs g) ∨ s.rd (timPage g) OUT_STATIC_STATUS_retained = 1 then s
    else
      let s := s.applyLegs g false
      let ps := s.placedNow g
      let presses := s.assigned g
      let s := (List.range (cellCols race v.grid.1)).foldl (fun (s : State) c => s.startCell g race ps presses c v.bands) s
      (s.setOut g { s.out g with bands := v.bands + 1, bandAt := s.now }).flushBacks g)

/-- The source read of a stream that waited for its cell's instant. -/
def State.aimLate (s : State) (g : Nat) (c : Cheque) (st : Stream) : Stream :=
  if st.src.kind = 0 then st else s.aim g st ⟨c.x, c.x + c.w, c.y, c.y + c.h⟩ (st.part c)

/-- The next racing cell's first pixel leaves the pins within the racing lead (R183). -/
def State.raceDue (s : State) (g : Nat) : Bool :=
  let v := s.out g
  let cols := max 1 (cellCols true v.grid.1)
  decide (v.nsTo s.now (s.rd (timPage g) OUT_TIM_FRAME_count, v.raceCell / cols, v.raceCell % cols * 256) ≤ v.tim.racingLead * 10)

/-- RACING_CELL_READ (R183): the next cell of the frame in raster order begins its source reads from the vault, the racing lead
before the slot of its first pixel. -/
def execRacingCellRead (o : Out) (s : State) : Host.Outcome State Fault Refusal :=
  let g := s.gen o.val
  .next (
    let v := s.out g
    let cols := max 1 (cellCols true v.grid.1)
    if !s.races g || decide (v.bands ≤ v.raceCell / cols) || !s.raceDue g then s
    else
      let s := s.setOut g { v with raceCell := v.raceCell + 1 }
      let frame := s.rd (timPage g) OUT_TIM_FRAME_count
      match (s.chequesOf fun c => c.acct.isNone && c.out == g && c.frame == frame && c.y == v.raceCell / cols
          && c.x == v.raceCell % cols * 256) with
      | [] => s
      | id :: _ => match s.cheque id with
        | none => s
        | some c =>
          let sts := c.streams.map (s.aimLate g c)
          sts.foldl (fun (s : State) st => if st.src.kind = 0 then s else s.countAlt g st) (s.setCheque id (some { c with streams := sts })))

/-! Fetching (R84, R85, R107, R108). -/

/-- How soon the raster needs a cheque's band, in ns from now. -/
def State.deadline (s : State) (c : Cheque) : Int :=
  let o := s.out c.out
  let frames := (c.frame + 2 ^ 32 - o.dispFrame) % 2 ^ 32
  (((frames * o.tim.vtotal + c.y : Nat) : Int) - (o.line : Nat)) * (o.tim.lineNs : Nat)

/-- The order of service of R107. -/
def State.fetchKey (s : State) (c : Cheque) : List Int :=
  [if c.racing then 0 else 1, if s.rd (outPage c.out 1) OUT_LT_STATUS_urgent = 1 then 0 else 1, s.deadline c, (c.out : Nat), (c.y : Nat), (c.x : Nat)]

/-- The slot of a stream's next block is open. -/
def Stream.slotReady (st : Stream) : Bool := match st.want with | [] => false | e :: _ => e.1 < st.opened

/-- A stream's next block can be fetched: its slot is open, or a further slot may be. -/
def State.fetchable (s : State) (id : Nat) (c : Cheque) (st : Stream) : Bool :=
  !st.ended && (!st.want.isEmpty || !st.blocks.isEmpty || !st.bad.isEmpty)
    && (st.slotReady || (st.opened < st.slots c.w c.h && s.mayOpen id c st))

/-- The stream of a cheque, in list order, that branch `b` can fetch for (R101, R107). -/
def State.fetchOf (s : State) (b id : Nat) (c : Cheque) : Option Stream :=
  if c.acct.isSome then none else c.streams.find? fun st => st.press / 4 == b && s.fetchable id c st

/-- The cheque and stream that an engine of branch `b` serves next (R107). -/
def State.nextFetch (s : State) (b : Nat) : Option (Nat × Cheque × Stream) :=
  (s.cheques.filterMap fun e => match e.2 with
    | some c => (s.fetchOf b e.1 c).map fun st => (e.1, c, st)
    | none => none).foldl (fun (best : Option (Nat × Cheque × Stream)) e => match best with
      | none => some e
      | some d => if decide (s.fetchKey e.2.1 < s.fetchKey d.2.1) then some e else some d) none

/-- What an arriving block does to a stream: the block, or the mark that it failed. -/
def Stream.arrive (st : Stream) (b : Nat) (data : Option (List Byte)) (part : Rect) : Stream :=
  let st := { st with want := st.want.filter fun (w : Nat × Nat) => w.2 != b }
  match data with
  | some bs => Stream.trim { st with blocks := st.blocks ++ [(b, bs)] } part
  | none => { st with bad := st.bad ++ [b] }

/-- A stream of a cheque replaced. -/
def Cheque.setStream (c : Cheque) (layer : Nat) (f : Stream → Stream) : Cheque :=
  { c with streams := c.streams.map fun (x : Stream) => if x.layer = layer then f x else x }

/-- A cheque, if it is still there, takes an arriving block for one layer; a mint that waited for it counts its time anew (R146). -/
def State.takeBlock (s : State) (id layer b : Nat) (data : Option (List Byte)) : State :=
  match s.cheque id with
  | none => s
  | some c => (s.setCheque id (some (c.setStream layer fun x => x.arrive b data (x.part c)))).endWaits s id c.press

/-- A block has arrived for a stream of cheque `id`: kept there and in its effect cheque; the first error of a stream counts a
span (R85, R88); an effect whose first line-store slot is filled is issued (R140). -/
def State.deliverBlock (s : State) (id : Nat) (c : Cheque) (st : Stream) (b : Nat) (data : Option (List Byte)) : State :=
  let part := st.part c
  let nu := st.arrive b data part
  let s := s.takeBlock id st.layer b data
  let s := match st.effect with | some e => s.takeBlock e st.layer b data | none => s
  let broke := (nu.tiles part).any fun (e : Nat × Nat) => nu.tileBad e.1 e.2 && !st.tileBad e.1 e.2
  let clean := st.bad.isEmpty && !((st.tiles part).any fun (e : Nat × Nat) => st.tileBad e.1 e.2)
  let s := if (data.isNone || broke) && clean then s.count (layPage st.layer) 3 else s
  let s := if data.isNone then s.fault (layPage st.layer) 0 else s
  let s := if broke then s.fault (layPage st.layer) 1 else s
  s.tryEffect id st.layer

/-- A slot opened for a stream, in its cheque and in its effect cheque. -/
def State.openSlot (s : State) (id layer : Nat) : State :=
  let one := fun (s : State) (id : Nat) => match s.cheque id with
    | some c => s.setCheque id (some (c.setStream layer fun x => { x with opened := x.opened + 1 }))
    | none => s
  match s.cheque id with
  | none => s
  | some c => match c.streams.find? (·.layer == layer) with
    | none => s
    | some x => match x.effect with | some e => one (one s id) e | none => one s id

/-- The slots opened before a stream's next block is fetched, each while the store has room: up to that block's slot, or all where
no block is left to fetch (R101). A slot whose blocks have come with an earlier one is filled as it opens. -/
def State.openSlots (s : State) (id layer : Nat) : Nat → State
  | 0 => s
  | n + 1 => match s.cheque id with
    | none => s
    | some c => match c.streams.find? (·.layer == layer) with
      | none => s
      | some x =>
        if x.slotReady || x.slots c.w c.h ≤ x.opened || !s.mayOpen id c x then s else (s.openSlot id layer).openSlots id layer n

/-- A block of a layer's frame in DRAM that the fetch for another cell has brought: it is not fetched again (R105). -/
def State.heldBlock (s : State) (c : Cheque) (st : Stream) (k : Nat) : Option (List Byte) :=
  if st.src.kind ≠ 0 ∨ c.frame ≠ s.rd (timPage c.out) OUT_TIM_FRAME_count then none
  else ((s.out c.out).held.find? fun e => e.1 == st.layer * 2 ^ 40 + k).map (·.2)

/-- A fetched block of the present frame kept for its other cells (R105). -/
def State.holdBlock (s : State) (c : Cheque) (st : Stream) (k : Nat) (bs : List Byte) : State :=
  if st.src.kind ≠ 0 ∨ c.frame ≠ s.rd (timPage c.out) OUT_TIM_FRAME_count then s
  else s.setOut c.out { s.out c.out with held := (s.out c.out).held ++ [(st.layer * 2 ^ 40 + k, bs)] }

/-- A stream's next block `k` comes into its open slot: from DRAM or the vault, with the counts of R88, R105 and R107, or from what
the layer's fetches of the frame have brought. -/
def State.fetchInto (s : State) (b e id : Nat) (c : Cheque) (st : Stream) (k : Nat) : State :=
  match s.heldBlock c st k with
  | some bs => s.deliverBlock id c st k (some bs)
  | none =>
    let space := if st.src.kind = 0 then 0 else 1
    match s.readMem st.src.acct 2 space ((if space = 0 then k else k - 2 ^ 40) * 64) 64 with
    | (s, .ok bs) =>
      let s := ((s.count (branchPage b) e).count (layPage st.layer) 2).count (outPage c.out 2) 4
      (s.holdBlock c st k bs).deliverBlock id c st k (some bs)
    | (s, .error _) => s.deliverBlock id c st k none

/-- A stream's next block must wait: the DRAM is in a low-power state, or in strict mode the owner's window is not open (R237,
R239). -/
def State.fetchWaits (s : State) (c : Cheque) (st : Stream) : Bool :=
  match st.want with
  | [] => false
  | (_, k) :: _ => st.src.kind == 0 && (s.heldBlock c st k).isNone && s.dramReady && !s.unitMay st.src.acct (k * 64)

/-- One engine of a branch reads the block that its order of service names, into a slot of the press's line store, once the store has room
for it (R101, R107); a block that must wait is held as a request of its output's port (R228, R232). -/
def State.fetchBlock (s : State) (b e : Nat) : State :=
  let s := s.dropHeld (.fetch b e)
  match s.nextFetch b with
  | none => s
  | some (id, c, st) =>
    if s.fetchWaits c st then s.holdUnit st.src.acct (some c.out) (.fetch b e)
    else
      let t := s.openSlots id st.layer 4
      match t.cheque id with
      | none => t
      | some c => match c.streams.find? (·.layer == st.layer) with
        | none => t
        | some x => if x.slotReady then t.fetchInto b e id c x (x.want.headD (0, 0)).2 else (t.tryEffect id st.layer).endWaits s id c.press

/-- FETCH_BLOCK (R107). -/
def execFetchBlock (b : Fin 32) (e : Fin 2) (s : State) : Host.Outcome State Fault Refusal := .next (s.fetchBlock b.val e.val)

/-! Published cells (R114, R138, R177). -/

/-- A position whose data failed on some stream (R85). -/
def State.spanBad (s : State) (c : Cheque) (x y : Nat) : Bool :=
  c.streams.any fun st => match s.deliverAt c st x y with | .bad => true | _ => false

/-- A settled composition cheque ends. -/
def State.endCell (s : State) (m id : Nat) : State :=
  (((s.dropRecord id).count (pressPage (m / 8)) 0).leaveMint m)

/-- CELL_PUBLISH (R177, R181): the cell of a settled mint enters the FIFO, waits for room, or is discarded as late. -/
def execCellPublish (m : MintId) (s : State) : Host.Outcome State Fault Refusal :=
  let v := s.mint m.val
  .next (match v.phase, v.cheque with
    | .settled, some id => match s.cheque id with
      | none => s
      | some c =>
        let g := c.out
        let r : Rect := ⟨c.x, c.x + c.w, c.y, c.y + c.h⟩
        if s.isLate g c.frame c.racing c.y c.x then (s.lateCell g r).endCell m.val id
        else if s.rd (outPage g 4) OUT_KPR_STATUS_safe = 1 then s.endCell m.val id
        else
          if !s.fits g c.frame r then s
          else
            let px := r.points.map fun p =>
              let i := ((p.2 - c.y) * c.w + (p.1 - c.x)) * 4
              (p.1, p.2, (List.range 3).map (fun k => (Tbl.get (fun _ => (0 : Word)) v.cell (i + k)).toNat % 65536), s.spanBad c (p.1 - c.x) (p.2 - c.y))
            let (s, es) := s.colourAll g c.frame px
            (s.enterFifo g c.frame es).endCell m.val id
    | _, _ => s)

end Sys2Proof.Machine
end

