-- ==== Sys2Proof/Machine/Keeper.lean ====
section
/-! DEFINITION. The keeper stage (R91 to R97, R180, R182, R320): each pixel at its slot, with the fallback colour, the
backdrop and the protected layer; and the latency tolerance (R179). -/

namespace Sys2Proof.Machine

/-- An 8-bit and a 10-bit component at depth `d` (R94): bit replication, or truncation. -/
def at8 (d v : Nat) : Nat := if d = 6 then v / 4 else if d = 8 then v else if d = 10 then v * 4 + v / 64 else v * 16 + v / 16
def at10 (d v : Nat) : Nat := if d = 6 then v / 16 else if d = 8 then v / 4 else if d = 10 then v else v * 4 + v / 256

/-- A 10-bit colour word (R[29:20] G[19:10] B[9:0]) at depth `d`. -/
def colour10 (d c : Nat) : Px := ⟨at10 d (c / 2 ^ 20 % 1024), at10 d (c / 2 ^ 10 % 1024), at10 d (c % 1024)⟩

/-- A protected-layer pixel: the components as 8-bit values, and alpha (R92, R94). DEDUCED (log 27): R94 widens 8- and 10-bit
components alone; an RGB565 component is first widened to 8 bits by bit replication. -/
def plPixel (format : Nat) (palette : Nat → Nat) (bs : List Byte) (col : Nat) : Px × Nat :=
  let argb := fun (w : Nat) => ((⟨w / 2 ^ 16 % 256, w / 2 ^ 8 % 256, w % 256⟩ : Px), w / 2 ^ 24 % 256)
  let w := ofLeBytes ((bs.drop (col * plBytes format)).take (plBytes format))
  if format = 0 then argb (palette w)
  else if format = 1 then
    let r := w / 2048 % 32
    let g := w / 32 % 64
    let b := w % 32
    (⟨r * 8 + r / 4, g * 4 + g / 16, b * 8 + b / 4⟩, 255)
  else argb w

/-- The blend of the keeper stage, rounded half up (R94). -/
def keepBlend (a q p : Nat) : Nat := (2 * (q * a + p * (255 - a)) + 255) / 510

/-- The protected layer's pixel over (x, y) of its half in the present frame, if it is drawn there (R91, R93, R95). -/
def State.plAt (s : State) (m x y : Nat) : Option (Px × Nat) :=
  let g := fun f => s.rdA (9 + m) (plPage m) f
  let col : Int := (x : Nat) - signed 16 (g PL_POS_x)
  let cur := (s.out m).plCur
  match s.plRow m (9 + m) y with
  | none => none
  | some (addr, _) =>
    let c := col.toNat
    let word := (addr + c * plBytes (g PL_CTRL_format)) / 8
    if col < 0 ∨ (g PL_SIZE_w_m1 : Int) < col ∨ cur.line ≠ y ∨ cur.bad.contains word then none
    else some (plPixel (g PL_CTRL_format) (fun i => (s.appl (9 + m) (fkey (plPage m) PL_PALETTE i)).toNat) cur.bytes c)

/-- (x, y) of a half lies inside the backdrop rectangle. -/
def State.inBackdrop (s : State) (m x y : Nat) : Bool :=
  let g := fun f => s.rdA (9 + m) (plPage m) f
  g PL_CTRL_backdrop_en == 1 && decide (g PL_BACKDROP_XY_x ≤ x ∧ x ≤ g PL_BACKDROP_XY_x + g PL_BACKDROP_WH_w_m1
    ∧ g PL_BACKDROP_XY_y ≤ y ∧ y ≤ g PL_BACKDROP_XY_y + g PL_BACKDROP_WH_h_m1)

/-- The pixel that the keeper stage emits at (x, y) of half `m`, from what the FIFO gave (R94). -/
def State.keep (s : State) (m x y : Nat) (p : Option FifoPx) : Px :=
  let d := s.depth m
  let base := match p with
    | some ⟨px, false⟩ => px
    | _ => colour10 d (s.rdA m (outPage m 4) OUT_KPR_FALLBACK_colour)
  let base := if s.inBackdrop m x y then colour10 d (s.rdA (9 + m) (plPage m) PL_BACKDROP_COLOUR_colour) else base
  match s.plAt m x y with
  | none => base
  | some (q, alpha) =>
    let a := (2 * alpha * s.rdA (9 + m) (plPage m) PL_ALPHA_plane_alpha + 255) / 510
    ⟨keepBlend a (at8 d q.r) base.r, keepBlend a (at8 d q.g) base.g, keepBlend a (at8 d q.b) base.b⟩

/-- The FIFO's pixel at a position, removed from it (R176, R188). -/
def State.fifoTake (s : State) (g y x : Nat) : State × Option FifoPx :=
  let o := s.out g
  let kept : Option FifoPx := match o.retained with
    | some r => if s.replays g then (r.pixels.find? fun (e : Nat × FifoPx) => e.1 == fifoKey 0 y x).map (·.2) else none
    | none => none
  match kept with
  | some p => (s, some p)
  | none =>
    let k := fifoKey o.dispFrame y x
    (s.setOut g { o with fifo := o.fifo.filter fun (e : Nat × FifoPx) => e.1 != k },
      (o.fifo.find? fun (e : Nat × FifoPx) => e.1 == k).map (·.2))

/-- The FIFO's error code on a pixel read (R182, R325). -/
def State.fifoEcc (s : State) (m : Nat) : Option FifoPx → State × Option FifoPx
  | none => (s, none)
  | some p => match s.useInject (outPage m 1) 0 with
    | (t, none) => (t, some p)
    | (t, some 0) => (t.count (outPage m 7) 7, some p)
    | (t, some _) => (t.fault (outPage m 1) 0, none)

/-- An underrun pixel (R175, R180): counted, the first of a frame with its event and fault; none in the safe state. -/
def State.underrunPx (s : State) (m : Nat) : State :=
  let s := s.count (outPage m 7) 0
  if (s.out m).underrun then s
  else ((s.setOut m { s.out m with underrun := true }).raise (timPage m) 4).fault (timPage m) 0

/-- Two bytes of a component, most significant first (R327). -/
def be16 (v : Nat) : List Nat := [v / 256 % 256, v % 256]

/-- A pixel enters the DSC encoder: slices are 8 lines high (R198). -/
def State.dscTake (s : State) (m x y : Nat) (px : Px) : State :=
  if s.rd (outPage m 5) OUT_FMT_CTRL_dsc_en = 0 then s
  else
    let o := s.out m
    let o := if x = 0 ∧ y % 8 = 0 then { o with dsc := [], dscBad := [] } else o
    s.setOut m { o with dsc := px :: o.dsc }

/-- The chunk of slice `j` of a line ends, the slice `sw` pixels wide (R198, R327): its bytes, which an error of the slice in
progress corrupts (R206, R426). -/
def State.dscChunk (s : State) (m w sw j : Nat) : State × List Nat :=
  let p := outPage m 5
  let s := match s.useInject p 0 with
    | (t, none) => t
    | (t, some _) => (t.setOut m { t.out m with dscBad := j :: (t.out m).dscBad }).fault p 0
  let o := s.out m
  let mine := (o.dsc.reverse.zipIdx.filter fun (e : Px × Nat) => e.2 % w / sw == j).flatMap fun (e : Px × Nat) => [e.1.r, e.1.g, e.1.b]
  let bpp := s.rd p OUT_FMT_CTRL_bpp_x16
  (s.next, (List.range (cdiv (sw * bpp) 128)).map fun i =>
    (if o.dscBad.contains j then Config.dscSpoilt s.fresh i else Config.dscByte bpp (s.depth m) sw mine i).toNat)

/-- The chunks of a line's slices, from slice `j` on, fed to the check-value units. -/
def State.dscChunks (s : State) (m w sw : Nat) : Nat → Nat → State × List Nat
  | 0, _ => (s, [])
  | n + 1, j =>
    let (s, bs) := s.dscChunk m w sw j
    let (s, rest) := s.dscChunks m w sw n (j + 1)
    (s, bs ++ rest)

/-- The DSC encoder's bytes of a line, at the line's last pixel: those of its 1, 2, 4 or 8 slices of equal width (R198). -/
def State.dscLine (s : State) (m w y : Nat) : State :=
  let p := outPage m 5
  if s.rd p OUT_FMT_CTRL_dsc_en = 0 then s
  else
    let k := 2 ^ s.rd p OUT_FMT_CTRL_slices
    let (s, bs) := s.dscChunks m w (max 1 (w / k)) k 0
    s.chkFeed (8 + m) none y bs

/-- KEEPER_PIXEL (R94, R180): the pixel due at the present slot leaves; nothing in blanking or while no generator runs. -/
def execKeeperPixel (o : Out) (s : State) : Host.Outcome State Fault Refusal :=
  let g := s.gen o.val
  .next (
    let v := s.out g
    let y := v.line
    let x := v.slot
    if s.rd (timPage g) OUT_TIM_STATUS_running = 0 ∨ v.tim.vact ≤ y ∨ v.tim.hact ≤ x then s
    else
      let (m, x0, w) := s.halfOf g x
      let safe := s.rd (outPage g 4) OUT_KPR_STATUS_safe == 1
      let (s, p) := s.fifoTake g y x
      let (s, p) := s.fifoEcc m p
      let s := if p.isNone && !safe then s.underrunPx m else s
      let px := s.keep m (x - x0) y (if safe then none else p)
      let s := (s.setOut m { s.out m with sent := some px }).dscTake m (x - x0) y px
      let s := s.chkFeed m (some (x - x0)) y (be16 px.r ++ be16 px.g ++ be16 px.b)
      let s := if x - x0 + 1 = w then s.dscLine m w y else s
      let s := s.setOut g { s.out g with slot := x + 1 }
      let s := if y + 1 = v.tim.vact ∧ x + 1 = v.tim.hact then s.raiseAll ((s.withPair g).map fun n => (timPage n, 3)) else s
      (s.flushBacks g).updateFill g)

/-! The latency tolerance (R179). -/

/-- The time covered by a racing output's DRAM prefetch: up to the first line of a cheque that still wants DRAM blocks,
else up to the first band not yet begun (R24, R179). -/
def State.prefetchNs (s : State) (g : Nat) : Nat :=
  let o := s.out g
  let wants := s.cheques.filterMap fun e => match e.2 with
    | some c => if c.out = g ∧ c.acct.isNone ∧ c.streams.any (fun st => st.src.kind = 0 ∧ !st.want.isEmpty) then some (c.frame, c.y) else none
    | none => none
  match wants with
  | [] => o.nsTo s.now (s.rd (timPage g) OUT_TIM_FRAME_count, o.bands, 0)
  | e :: t => t.foldl (fun n (e : Nat × Nat) => min n (o.nsTo s.now (e.1, e.2, 0))) (o.nsTo s.now (e.1, e.2, 0))

/-- The latency tolerance of a generator in units of 100 ns; 0xFFFF is unlimited. -/
def State.tolerance (s : State) (g : Nat) : Nat :=
  let o := s.out g
  if s.rd (timPage g) OUT_TIM_STATUS_running = 0 ∨ !s.dramScene g ∨ s.replays g then 0xFFFF
  else
    let full := o.nsTo s.now (s.fill g).2
    let (cover, lead) : Nat × Nat := if s.races g then (min full (s.prefetchNs g), o.tim.racingLead * 10) else (full, o.tim.lead * o.tim.lineNs)
    min 0xFFFE ((cover - lead - s.rd (outPage g 1) OUT_LT_MARGIN_margin * 100) / 100)

/-- LATENCY_TOLERANCE_EVAL (R179). -/
def execLatencyToleranceEval (o : Out) (s : State) : Host.Outcome State Fault Refusal :=
  let g := s.gen o.val
  let p := outPage g 1
  .next ((s.updateFill g).report g (s.tolerance g) ((s.updateFill g).rd p OUT_LT_STATUS_urgent == 1) ((s.updateFill g).rd p OUT_LT_STATUS_panic == 1))

end Sys2Proof.Machine
end

