-- ==== Sys2Proof/Machine/Capture.lean ====
section
/-! DEFINITION. The capture ports (R207 to R211): enabling, frame starts, lines, frame ends, the DRAM mirror. -/

namespace Sys2Proof.Machine

/-- The CSI-2 data type of a CAP_CTRL.dt code, and the stored bytes per pixel (R207). -/
def capType (dt : Nat) : Nat := if dt = 0 then 0x24 else if dt = 1 then 0x22 else 0x1E
def capBpp (dt : Nat) : Nat := if dt = 0 then 4 else 2

/-- The account to which a port is bound. -/
def State.capOwner (s : State) (c : Nat) : Option Nat := s.ownerAcct (capPage c)

/-- Bytes of a stored line, of a line's place in the ring, and of a slot (R208). -/
def State.capWidth (s : State) (c : Nat) : Nat := s.rd (capPage c) CAP_GEOM_width * capBpp (s.rd (capPage c) CAP_CTRL_dt)
def State.capStride (s : State) (c : Nat) : Nat := s.rd (capPage c) CAP_STRIDE_stride * 64
def State.capHeight (s : State) (c : Nat) : Nat := s.rd (capPage c) CAP_GEOM_height

/-- The mirror's DRAM address (R210). -/
def State.mirrorBase (s : State) (c : Nat) : Nat :=
  s.rd (capPage c) CAP_MIRROR_LO_addr * 64 + s.rd (capPage c) CAP_MIRROR_HI_addr_hi * 2 ^ 32

/-- An extent lies in the regions of the port's bound owner. -/
def State.capHeld (s : State) (c space addr len : Nat) : Bool :=
  match s.capOwner c with | some a => s.inRegions a space addr (max 1 len) | none => false

/-- The slots of the ring (R208): 2 to 8. DESIGN CHOICE (log entry 111): code 0 of the three-bit field stands for 8. -/
def State.capCount (s : State) (c : Nat) : Nat :=
  if s.rd (capPage c) CAP_RING_slots = 0 then 8 else s.rd (capPage c) CAP_RING_slots

/-- The enabling write is in order (R208): the ring lies in the owner's vault region, and its stride and slots are in range. -/
def State.capEnableOk (s : State) (c : Nat) : Bool :=
  decide (s.capWidth c ≤ s.capStride c)
    && s.capHeld c 1 (s.rd (capPage c) CAP_RING_base * 64) (s.capCount c * (s.capStride c * s.capHeight c))

/-- The rule of a write to a port's registers. -/
def State.capRule (s : State) (c off : Nat) (v : Word) : Rule :=
  let p := capPage c
  let k := regKey p off
  let t := s.setReg k (s.produced p off v)
  let ok := fun (b : Bool) => if b then Rule.ok else .range
  if s.rd p CAP_CTRL_en = 1 then
    ok (off == CAP_CTRL.off && CAP_CTRL_en.put (t.reg k) 1 == s.reg k)
  else if off = CAP_CTRL.off then ok (CAP_CTRL_en.get v == 0 || t.capEnableOk c)
  else if off = CAP_STRIDE.off then ok (decide (s.capWidth c ≤ t.capStride c))
  else if off = CAP_MIRROR_LO.off ∨ off = CAP_MIRROR_HI.off then ok (t.capHeld c 0 (t.mirrorBase c) (s.capStride c * s.capHeight c))
  else .ok

/-- The bytes of the mirror's write buffer (R232). -/
def mirrorRoom : Nat := 262144

/-- What the port reports at its real-time DRAM port (R232): unlimited with no mirror; else the free part of its 256 KiB buffer over the
incoming payload rate, which is that of its last two lines (log 54). -/
def State.capReport (s : State) (c : Nat) : State :=
  if s.rd (capPage c) CAP_CTRL_mirror_en = 0 ∨ s.rd (capPage c) CAP_CTRL_en = 0 then s.setPort11 (8 + c) 0xFFFF false false
  else
    let v := s.cap c
    let lv := v.buffer.length
    s.setPort11 (8 + c) (if v.lineNs = 0 then 0xFFFF else min 0xFFFF ((mirrorRoom - lv) * v.lineNs / (100 * max 1 (s.capWidth c))))
      (decide (131072 < lv)) (decide (196608 < lv))

/-- No mirror copy in progress. -/
def CapS.noMirror (v : CapS) : CapS := { v with mirror := none, copied := 0, buffer := [], drained := 0 }

/-- A write of a port's registers: enabling and disabling leave no slot open. -/
def State.capWrite (s : State) (who c off : Nat) (value : Word) (be : BitVec 4) : State :=
  let p := capPage c
  s.writeWith who p off value be false (s.capRule c off) (s.writeRec who p off) fun v t =>
    let was := t.rd p CAP_CTRL_en
    let t := t.store p off v
    let t := if off = CAP_CTRL.off ∧ was ≠ t.rd p CAP_CTRL_en then t.setCap c { (t.cap c).noMirror with open_ := none, next := 0, lineAt := none, lineNs := 0 } else t
    if off = CAP_CTRL.off then t.capReport c else t

/-- CAP_ENABLE (R208). -/
def execCapEnable (who : Actor) (c : Fin 2) (s : State) : Host.Outcome State Fault Refusal :=
  .next (s.capWrite who.val c.val CAP_CTRL.off (s.fieldWrite (capPage c.val) CAP_CTRL_en 0 1) 15)

/-- The frame that is open is completed (R209, R210): a mirror copy still running is stopped and counted. -/
def State.capComplete (s : State) (c : Nat) : State :=
  let p := capPage c
  let v := s.cap c
  match v.open_ with
  | none => s
  | some k =>
    let s := (s.count p 0).wr p CAP_STATUS_frame ((s.rd p CAP_STATUS_frame + 1) % 65536)
    let mir := s.rd p CAP_CTRL_mirror_en == 1
    let s := if mir && v.mirror.isSome then s.count p 5 else s
    let s := s.setCap c { v.noMirror with open_ := none, last := some k, prev := v.last, mirror := if mir then some k else none }
    (s.capReport c).chkFrameEnd (16 + c)

/-- The slot that a frame start takes (R208): the next in ring order that no non-racing layer is reading, and that does not hold
the frame completed last. -/
def State.capSlot (s : State) (c : Nat) : Option Nat :=
  let v := s.cap c
  let n := s.capCount c
  let start := match v.last with | some k => k + 1 | none => 0
  ((List.range n).map fun i => (start + i) % n).find? fun k => v.last != some k && !(v.readers.any fun (e : Nat × Nat) => e.2 == k)

/-- CAP_FRAME_START (R208, R209): the reference edge, the completion of a frame with no frame end, and the next slot. -/
def execCapFrameStart (c : Fin 2) (s : State) : Host.Outcome State Fault Refusal :=
  let p := capPage c.val
  .next (
    if s.rd p CAP_CTRL_en = 0 then s
    else
      let s := s.capComplete c.val
      let s := s.heads.foldl (fun (t : State) g => t.refEdge g (3 + c.val) t.now) s
      match s.capSlot c.val with
      | none => (s.count p 1).fault p 1
      | some k =>
        let v := s.cap c.val
        let s := s.setCap c.val { v with open_ := some k, next := 0, published := Tbl.drop (fun j => j / 4320 == k) v.published }
        (s.wr p CAP_STATUS_slot k).chkFrameStart (16 + c.val))

/-- The stored bytes of a payload, at most `w` pixels (R207): RGB888 arrives blue first and is widened to XRGB8888, RGB565
is stored as it arrives, and YUV422 arrives as U Y V Y and is stored as YUY2. With the number of pixels. -/
def capStored (dt w fresh : Nat) (payload : List Byte) : List Byte × Nat :=
  if dt = 0 then
    let n := min w (payload.length / 3)
    ((List.range n).flatMap (fun i => (payload.drop (3 * i)).take 3 ++ [Config.captureX fresh i]), n)
  else
    let n := min w (payload.length / 2)
    let b := payload.take (2 * n)
    if dt = 1 then (b, n) else ((List.range n).flatMap (fun i => [b.getD (2 * i + 1) 0, b.getD (2 * i) 0]), n)

/-- A dropped line (R209): it stays unpublished; a check window that holds it does not complete (R328). -/
def State.capDrop (s : State) (c : Nat) : State :=
  let v := s.cap c
  ((s.setCap c { v with next := v.next + 1 }).count (capPage c) 2).chkSpoil (16 + c) v.next

/-- The outputs that have a layer of the ring of port `c` (R186). -/
def State.capOuts (s : State) (c : Nat) : List Nat :=
  s.heads.filter fun g => (s.layersOn g).any fun l =>
    s.rdA g (layPage l) LAY_CTRL_src_kind == 2 && s.rdA g (layPage l) LAY_CTRL_cap_port == c && (s.rdA g (layPage l) LAY_PLACE_outputs).testBit g

/-- A line that passed its checks is stored and published (R209), an occurrence on each output that has a layer of the ring (R186). -/
def State.capPublish (s : State) (c slot : Nat) (payload : List Byte) : State :=
  let p := capPage c
  let v := s.cap c
  let dt := s.rd p CAP_CTRL_dt
  let w := s.rd p CAP_GEOM_width
  let (bs, n) := capStored dt w s.fresh payload
  let bs := bs ++ List.replicate ((w - n) * capBpp dt) 0
  let s := s.next.setCap c { v with next := v.next + 1 }
  let s := if n < w then s.count p 3 else s
  match s.writeMem ((s.capOwner c).getD 32) 4 1 (s.slotBase c slot + v.next * s.capStride c) bs with
  | (s, some _) => s.chkSpoil (16 + c) v.next
  | (s, none) =>
    let s := s.setCap c { s.cap c with published := Tbl.set (fun _ => false) (s.cap c).published (slot * 4320 + v.next) true }
    let s := (s.capOuts c).foldl State.touch (s.wr p CAP_STATUS_line v.next)
    (List.range w).foldl (fun (t : State) x => t.chkFeed (16 + c) (some x) v.next (((bs.drop (x * capBpp dt)).take (capBpp dt)).map (·.toNat))) s

/-! The mirror (R210, R232). -/

/-- The account on whose behalf a port's mirror writes. -/
def State.capAcct (s : State) (c : Nat) : Nat := (s.capOwner c).getD 32

/-- A mirror copy stopped, and counted. -/
def State.mirrorStop (s : State) (c : Nat) : State := (s.setCap c (s.cap c).noMirror).count (capPage c) 5

/-- The next line of the frame enters the port's write buffer, an unpublished one as zeros; a full buffer stops the copy. -/
def State.mirrorTake (s : State) (c : Nat) : State :=
  match (s.cap c).mirror with
  | none => s
  | some k =>
    let y := (s.cap c).copied
    let zeros := List.replicate (s.capWidth c) (0 : Byte)
    if s.capHeight c ≤ y then s
    else if mirrorRoom < (s.cap c).buffer.length + s.capWidth c then s.mirrorStop c
    else
      let (s, bs) := if !s.lineShown c k y then (s, zeros)
        else match s.readMem (s.capAcct c) 4 1 (s.slotBase c k + y * s.capStride c) (s.capWidth c) with
          | (s, .ok bs) => (s, bs)
          | (s, .error _) => (s, zeros)
      s.setCap c { s.cap c with copied := y + 1, buffer := (s.cap c).buffer ++ bs }

/-- What the buffer holds is written to DRAM, within one 64-byte line at a time, up to the first that must wait (R237, R239). -/
def State.mirrorDrain (s : State) (c : Nat) : Nat → State
  | 0 => s
  | n + 1 =>
    let v := s.cap c
    let (y, x) := (v.drained / s.capWidth c, v.drained % s.capWidth c)
    let a := s.mirrorBase c + y * s.capStride c + x
    let m := min (s.capWidth c - x) (64 - a % 64)
    if v.buffer.isEmpty ∨ !s.dramReady then s
    else if !s.unitMay (s.capAcct c) a then s.holdUnit (s.capAcct c) (some (8 + c)) (.mirror c)
    else
      let t := (s.postMem (s.capAcct c) 4 0 a (v.buffer.take m) (some (8 + c))).1
      (t.setCap c { t.cap c with buffer := v.buffer.drop m, drained := v.drained + m }).mirrorDrain c n

/-- The buffer drained, and then `n` further lines of the copy as each leaves it empty; a copy that has written its last line ends. -/
def State.mirrorRun (s : State) (c : Nat) : Nat → State
  | 0 => s
  | n + 1 =>
    let s := s.mirrorDrain c ((s.cap c).buffer.length)
    if !(s.cap c).buffer.isEmpty ∨ (s.cap c).mirror.isNone then s
    else if s.capHeight c ≤ (s.cap c).copied then s.setCap c (s.cap c).noMirror
    else (s.mirrorTake c).mirrorRun c n

/-- A held copy goes on to its end, as the DRAM serves it. -/
def State.mirrorGo (s : State) (c : Nat) : State :=
  let s := s.dropHeld (.mirror c)
  (s.mirrorRun c (s.capHeight c + 2)).capReport c

/-- A line's arrival: the payload rate that it shows (R232), and a line of the mirror copy enters the buffer at that rate. -/
def State.mirrorLine (s : State) (c : Nat) : State :=
  let v := s.cap c
  let s := s.setCap c { v with lineAt := some s.now, lineNs := match v.lineAt with | some t => s.now - t | none => 0 }
  if v.mirror.isNone then s
  else
    let s := s.mirrorTake c
    (s.mirrorDrain c ((s.cap c).buffer.length)).capReport c

/-- CAP_LINE (R207, R209): packets of another channel or type are discarded without error. -/
def execCapLine (c : Fin 2) (vc dt : Nat) (hdr : HdrCheck) (crcOk : Bool) (payload : List Byte) (s : State) :
    Host.Outcome State Fault Refusal :=
  let p := capPage c.val
  .next (match (s.cap c.val).open_ with
    | none => s
    | some k =>
      let v := s.cap c.val
      if s.rd p CAP_CTRL_en = 0 then s
      else if hdr ≠ .bad ∧ (vc ≠ s.rd p CAP_CTRL_vc ∨ dt ≠ capType (s.rd p CAP_CTRL_dt)) then s
      else
        let s := if hdr = .corrected then s.count p 4 else s
        if s.capHeight c.val ≤ v.next then (s.setCap c.val { v with next := v.next + 1 }).count p 3
        else if hdr = .bad then s.capDrop c.val
        else
          let (s, inj) := s.useInject p 0
          let s := if !crcOk || inj.isSome then (s.capDrop c.val).fault p 0 else s.capPublish c.val k payload
          s.mirrorLine c.val)

/-- CAP_FRAME_END (R209). -/
def execCapFrameEnd (c : Fin 2) (s : State) : Host.Outcome State Fault Refusal :=
  .next (if s.rd (capPage c.val) CAP_CTRL_en = 0 then s else s.capComplete c.val)

/-- CAP_MIRROR_DONE (R210, R232): the copy runs to its end, as far as the DRAM serves it; with the DRAM out of service the buffer fills,
and the copy is stopped and counted. -/
def execCapMirrorDone (c : Fin 2) (s : State) : Host.Outcome State Fault Refusal :=
  .next (
    if (s.cap c.val).mirror.isNone then s
    else if !s.dramReady then (s.mirrorStop c.val).capReport c.val
    else s.mirrorGo c.val)

/-- PHY_ERROR (R211). -/
def execPhyError (c : Fin 2) (s : State) : Host.Outcome State Fault Refusal := .next (s.fault (capPage c.val) 2)

end Sys2Proof.Machine
end

