-- ==== Sys2Proof/Machine/NightSafe.lean ====
section
/-! DEFINITION. Night safes (R278 to R282): the deposit of a message, taking it, and clearing DROPPED. -/

namespace Sys2Proof.Machine

/-- A receiver: the Custodian or an account. -/
inductive Receiver where
  | custodian
  | account (a : Nat)
  deriving DecidableEq, Repr

/-- The Custodian takes messages: its firmware runs and it is not halted (R288). -/
def State.cusUp (s : State) : Bool := s.boot.cusRuns && !s.boot.halted

/-- A receiver is OFF (R280, R281, R288). -/
def State.isOff (s : State) : Receiver → Bool
  | .custodian => !s.cusUp
  | .account a => s.power (accPage a 7) == 0 || s.power (accPage a 7) == 2 && s.powerGoal (accPage a 7) == 0

/-- A message as the device stores it: the sender field is the device's own (R279). -/
def stamp (sender : Nat) (m : Msg) : Msg :=
  (List.range 16).map fun i =>
    let w := m.getD i 0
    if i = 0 then (⟨0, 4, 21, 16⟩ : Fld).put w sender else w

/-- The status registers of a channel's receiver brought up to date. -/
def State.syncReceiver (s : State) : Receiver → State
  | .custodian => s
  | .account a => s.syncNs a

/-- A receiver asleep is woken by a deposit (R281): the wake joins the sequencer's second class, sleep_req clears, and a
function in D3hot sends a PME. -/
def State.nsWake (s : State) (a : Nat) : State :=
  let p := accPage a 7
  if s.power p ≠ 1 then s
  else
    let s := (s.wr p PAGE_CTRL_sleep_req 0).wakeAsk p 1 0
    if (s.acct a).power = .d3hot then s.setAcct a { s.acct a with pme := (s.acct a).pme + 1 } else s

/-- A deposit (R280): by sender (0 to 31, 32 the Custodian) into channel `ch` of a receiver. -/
def State.deposit (s : State) (sender ch : Nat) (to_ : Receiver) (m : Msg) : State :=
  if s.isOff to_ then
    if sender < 32 then (s.wr (accPage sender 7) NS_TX_STATUS_off_error 1).fault (accPage sender 7) 0
    else { s with resp := ⟨true, []⟩ }
  else if 16 ≤ (s.safe ch).length then
    let s := { s with dropped := NatTbl.put s.dropped ch (min 0xFFFF (NatTbl.at_ s.dropped ch + 1)) }
    let s := match to_ with | .account a => s.count (accPage a 7) 1 | .custodian => s
    s.syncReceiver to_
  else
    let s := (s.pushSafe ch (stamp sender m)).syncReceiver to_
    match to_ with
    | .custodian => s
    | .account a => ((s.count (accPage a 7) 0).nsWake a).raise (accPage a 7) 0

/-- The Custodian deposits a message for an account. -/
def State.tell (s : State) (a : Nat) (m : Msg) : State := s.deposit 32 (nsFromCus a) (.account a) m

/-- A message's header word (R279): type, payload length, sequence. -/
def nsHeader (type len seq : Nat) : Word := BitVec.ofNat 32 (type + len * 2 ^ 8 + seq * 2 ^ 24)

/-- A write of NS_TX_SEND (R280): the 16 data words go to the Custodian, or, from a manager, to the other manager. -/
def State.nsSendWrite (s : State) (who a : Nat) (value : Word) (be : BitVec 4) : State :=
  let p := accPage a 7
  s.writeWith who p NS_TX_SEND.off value be true
    (fun v => if NS_TX_SEND_dest.get v = 1 ∧ a ≠ 0 ∧ a ≠ 16 then .range else .ok) (fun _ => [])
    fun v t =>
      let m := (List.range 16).map fun i => t.reg (fkey p NS_TX_DATA i)
      if NS_TX_SEND_dest.get v = 0 then t.deposit a (nsToCus a) .custodian m
      else t.deposit a (nsMgr (a == 0)) (.account (16 - a)) m

/-- The channel that an account's NS_RX_SEL names, if it has that channel. -/
def State.rxChannel (s : State) (a : Nat) : Option Nat :=
  if s.rd (accPage a 7) NS_RX_SEL_channel = 0 then some (nsFromCus a)
  else if a = 0 ∨ a = 16 then some (nsMgr (a == 16)) else none

/-- The messages in the channel that an account has selected. -/
def State.rxQueue (s : State) (a : Nat) : List Msg := match s.rxChannel a with | some ch => s.safe ch | none => []

/-- A write of NS_RX_TAKE (R282): take frees the oldest slot, clr_dropped clears the count. A take on an empty channel is
out of range. -/
def State.nsTakeWrite (s : State) (who a : Nat) (value : Word) (be : BitVec 4) : State :=
  s.writeWith who (accPage a 7) NS_RX_TAKE.off value be true
    (fun v => if NS_RX_TAKE_take.get v = 1 ∧ (s.rxQueue a).isEmpty then .range else .ok) (fun _ => [])
    fun v t => match t.rxChannel a with
      | none => t
      | some ch =>
        let t := if NS_RX_TAKE_take.get v = 1 then t.popSafe ch else t
        let t := if NS_RX_TAKE_clr_dropped.get v = 1 then { t with dropped := NatTbl.put t.dropped ch 0 } else t
        t.syncNs a

/-- A write of NS_RX_SEL (R282): a data-path register. -/
def State.nsSelWrite (s : State) (who a : Nat) (value : Word) (be : BitVec 4) : State :=
  s.writeWith who (accPage a 7) NS_RX_SEL.off value be true (fun _ => .ok) (fun _ => [])
    fun v t => (t.store (accPage a 7) NS_RX_SEL.off v).syncNs a

/-- NS_SEND (R280), NS_TAKE and NS_CLR_DROPPED (R282): the account on its own ACC page 7. The Custodian's endpoints are
its firmware's own (R299's registers). -/
def execNsSend (who : Actor) (dest : Fin 2) (s : State) : Host.Outcome State Fault Refusal :=
  .next (if who.val = 32 then s else s.nsSendWrite who.val who.val (BitVec.ofNat 32 dest.val) 15)

def execNsTake (who : Actor) (s : State) : Host.Outcome State Fault Refusal :=
  .next (if who.val = 32 then s else s.nsTakeWrite who.val who.val 1 15)

def execNsClrDropped (who : Actor) (s : State) : Host.Outcome State Fault Refusal :=
  .next (if who.val = 32 then s else s.nsTakeWrite who.val who.val 0x80000000 15)

end Sys2Proof.Machine
end

