-- ==== Sys2Proof/Machine/Grants.lean ====
section
/-! DEFINITION. What a grant holds: slots of the page window (R60, R263, R385), the passbook (R264 to R267), pooled
pages, regions (R296), capacity (R27, R106, R240), and how each kind of R261 is checked, added and taken back. -/

namespace Sys2Proof.Machine

/-! The page window table (R60, R263). -/

/-- Account `a` has a page window table; the managers' windows show every page at its offset (R59). -/
def windowed (a : Nat) : Bool := a != 0 && a != 16

/-- The device page of a slot: its own ACC pages, a legacy account's LEG pages, else the table's. -/
def State.slotPage (s : State) (a sl : Nat) : Option Nat :=
  if sl < 16 then some (accPage a sl)
  else if (s.acct a).legacy && decide (sl < 32) then some (legPage a (sl - 16))
  else match NatTbl.at_ s.pwt (256 * a + sl) with | 0 => none | p + 1 => some p

/-- The first slot that grants and bindings of account `a` take. -/
def State.lowSlot (s : State) (a : Nat) : Nat := if (s.acct a).legacy then 32 else 16

/-- The native pages that the legacy window presents (R385, R386). -/
def State.presented (s : State) (a p : Nat) : Bool :=
  (s.acct a).legacy && match kindOf p with
    | (.out _, n) => (s.outsOf a).idxOf n < 4
    | (.lay, l) => (s.layersOf a).idxOf l < 16
    | (.tchB, b) => (s.ownedBy a tchPage 4).idxOf b == 0
    | (.hapCh, h) => (s.ownedBy a hapPage 8).idxOf h < 2
    | (.aud k, _) =>
      if 1 ≤ k ∧ k ≤ 12 then (s.ownedBy a (fun g => audPage (1 + g)) 12).idxOf (k - 1) < 2
      else if 13 ≤ k ∧ k ≤ 20 then (s.ownedBy a (fun g => audPage (13 + g)) 8).idxOf (k - 13) == 0 else false
    | _ => false

/-- The pages of account `a` that take a slot beside its ACC and LEG pages, in ascending order. -/
def State.slotted (s : State) (a : Nat) : List Nat :=
  (List.range 2048).filter fun p => s.ownerAcct p == some a
    && (match (kindOf p).1 with | .acc _ => false | .leg => false | .none => false | _ => true) && !s.presented a p

/-- The pages that the table of account `a` maps. -/
def State.mapped (s : State) (a : Nat) : List (Nat × Nat) :=
  (s.pwt.filter fun e => e.1 / 256 == a).map fun e => (e.1 % 256, e.2 - 1)

/-- The lowest slot from which `n` slots in a row are free. -/
def State.freeSlot (s : State) (a n : Nat) : Option Nat :=
  (List.range 256).find? fun i => decide (s.lowSlot a ≤ i ∧ i + n ≤ 256)
    && (List.range n).all fun j => NatTbl.at_ s.pwt (256 * a + i + j) == 0

/-- Pages put into the lowest free slots: a scaler's two pages into two slots in a row. False where no slot is free. -/
def State.mapPages (s : State) (a : Nat) (ps : List Nat) : State × Bool :=
  ps.foldl (fun (r : State × Bool) p =>
    match (kindOf p).1 with
    | .sclCoef => r
    | k =>
      let n := if k = .sclCtl then 2 else 1
      match r.1.freeSlot a n with
      | none => (r.1, false)
      | some i => ({ r.1 with pwt := (List.range n).foldl (fun t j => NatTbl.put t (256 * a + i + j) (p + j + 1)) r.1.pwt }, r.2)) (s, true)

/-- The table brought up to date with what the account holds: pages no longer held are unmapped, new ones mapped in
ascending page order. -/
def State.syncSlots (s : State) (a : Nat) : State × Bool :=
  if !windowed a then (s, true)
  else
    let want := s.slotted a
    let s := { s with pwt := s.pwt.filter fun e => e.1 / 256 != a || want.contains (e.2 - 1) }
    let have_ := (s.mapped a).map (·.2)
    s.mapPages a (want.filter fun p => !have_.contains p)

/-- The slot that shows a page, or 0. -/
def State.slotShowing (s : State) (a p : Nat) : Nat :=
  match (s.mapped a).find? fun e => e.2 == p with | some e => e.1 | none => 0

/-! The passbook (R264, R265). -/

/-- The kind of a slot map entry (R264). -/
def slotKind (p : Nat) : Nat :=
  match (kindOf p).1 with | .acc _ => 1 | .lay => 2 | .pl => 3 | .sclCtl => 4 | .sclCoef => 4 | .press => 5 | _ => 6

/-- The rows or columns of an account, as first and count: groups of eight pages from AUD page `base`; row 95 is not
granted. -/
def State.lines (s : State) (a base n : Nat) : Nat × Nat :=
  let gs := s.ownedBy a (fun g => audPage (base + g)) n
  (8 * gs.headD 0, 8 * gs.length - b2n (n == 12 && gs.contains 11))

/-- The words of the grant summary from 0x040 to 0x0CF (R265). -/
def State.summary (s : State) (a : Nat) : List Nat :=
  let c := s.acct a
  let out := (List.range 8).foldl (fun m n => m + (if (s.slotOf n a).isSome && s.gen n == n then 2 ^ n else 0)
    + (if s.ownerAcct (outPage n 0) = some a then 2 ^ (8 + n) else 0)) 0
  let line := fun (r : Nat × Nat) => r.1 + r.2 * 65536
  let pair := fun r => let (b, n, _) := s.region a r; [if n = 0 then 0 else b, n]
  [(s.layersOf a).length, (s.ownedBy a sclPage 32).length, (s.ownedBy a pressPage 128).length, c.queues, c.credit,
   s.rd (memPage 19) MEM_RSV_RATE_rate a, s.rd (memPage 19) MEM_RSV_DEPTH_depth a, c.share, out,
   line (s.lines a 1 12), line (s.lines a 13 8), 0] ++ (List.range 12).flatMap pair

/-- The passbook's Custodian areas rewritten, but for its notice ring, and its reserved words 0 (R264, R265). -/
def State.syncBook (s : State) (a : Nat) : State :=
  let s := s.storeVault (passbook a) (leBytes 4 (a + 256) ++ leBytes 4 (s.astate a) ++ leBytes 4 (s.rd (accPage a 0) ACC_GRANT_GEN_gen))
  let s := s.storeVault (passbook a + 0xC) (leBytes 4 (s.acct a).notices)
  let s := s.storeVault (passbook a + 0x20) (List.replicate 32 0)
  let s := s.storeVault (passbook a + 0x40) ((s.summary a).flatMap (leBytes 4))
  s.storeVault (passbook a + 0x100) ((List.range 256).flatMap fun sl =>
    leBytes 2 (match (if windowed a then s.slotPage a sl else none) with | some p => p + slotKind p * 4096 | none => 0))

/-! Regions (R294, R296). -/

/-- The world regions of a memory: base, size, world. -/
def State.worldRegions (s : State) (space : Nat) : List (Nat × Nat × Nat) :=
  let (pg, n) := if space = 0 then (cusPage 1, 64) else (cusPage 2, 32)
  ((List.range n).map fun i => (s.rd pg ⟨0x80, 8, 23, 0⟩ i, s.rd pg ⟨0x84, 8, 23, 0⟩ i, s.rd pg ⟨0x84, 8, 31, 31⟩ i)).filter fun e => e.2.1 != 0

/-- Two intervals of units meet. -/
def meets (b n c m : Nat) : Bool := decide (b < c + m ∧ c < b + n)

/-- A region lies wholly inside one world region of a world; a vault region also inside the allocatable area (R261, R262). -/
def State.regionFits (s : State) (space world b n : Nat) : Bool :=
  n != 0 && (s.worldRegions space).any (fun e => decide (e.1 ≤ b ∧ b + n ≤ e.1 + e.2.1) && e.2.2 == world)
    && (space == 0 || decide (s.reservedEnd ≤ b * 65536 ∧ (b + n) * 65536 ≤ vaultSystem))

/-- A region overlaps one of another account. -/
def State.regionTaken (s : State) (space a b n : Nat) : Bool :=
  (List.range 32).any fun o => o != a && (regionsOf space).any fun r =>
    let (c, m, _) := s.region o r
    m != 0 && meets b n c m

/-- A region overlaps one placed in the sub-reserve, or lies inside one. -/
def State.subMeets (s : State) (space b n : Nat) : Bool := s.subRegions.any fun e => e.1 == space && meets b n e.2.1 e.2.2
def State.subHolds (s : State) (space b n : Nat) : Bool :=
  s.subRegions.any fun e => e.1 == space && decide (e.2.1 ≤ b ∧ b + n ≤ e.2.1 + e.2.2)

/-- The number of the region of account `a` that has a base and size, and its first unused one. -/
def State.regionIs (s : State) (space a b n : Nat) : Option Nat :=
  (regionsOf space).find? fun r => (s.region a r).1 == b && (s.region a r).2.1 == n && n != 0
def State.regionFree (s : State) (space a : Nat) : Option Nat := (regionsOf space).find? fun r => (s.region a r).2.1 == 0

/-- Region `r` of account `a` set. -/
def State.setRegion (s : State) (a r b n perm : Nat) : State :=
  ((s.wr (cusPage 3) CUS_ACC_RGN_BASE_base b (12 * a + r)).wr (cusPage 3) CUS_ACC_RGN_SIZE_size n (12 * a + r)).wr (cusPage 3)
    CUS_ACC_RGN_SIZE_perm perm (12 * a + r)

/-- The regions of a memory in grant order after one leaves: those after it move down. -/
def State.dropRegion (s : State) (space a r : Nat) : State :=
  let rs := regionsOf space
  let left := (rs.filter (· != r)).map (s.region a)
  rs.zipIdx.foldl (fun (t : State) e => let (b, n, p) := left.getD e.2 (0, 0, 0); t.setRegion a e.1 b n p) s

/-- An extent of bytes meets a region of 64 KiB units. -/
def extentMeets (addr len b n : Nat) : Bool := len != 0 && meets addr len (b * 65536) (n * 65536)

/-- The region of account `a` holds something in use (R262): an applied source, an enabled ring, a capture ring of a
port that it owns, the effect table, the export ring. -/
def State.regionBusy (s : State) (space a b n : Nat) : Bool :=
  let layers := (s.layersOf a).any fun l => (List.range 9).any fun sc =>
    s.rdA sc (layPage l) LAY_CTRL_enable == 1 &&
      let y := layOf (s.scene sc) a l
      y.kind != 2 && (if y.kind == 0 then space == 0 else space == 1) && y.planes.any fun p => extentMeets (y.extent p).1 (y.extent p).2 b n
  let ring := fun c => space == 1 && extentMeets (s.rd (capPage c) CAP_RING_base * 64) (s.capCount c * (s.capStride c * s.capHeight c)) b n
  let read := (s.layersOf a).any fun l => (List.range 9).any fun sc =>
    s.rdA sc (layPage l) LAY_CTRL_enable == 1 && s.rdA sc (layPage l) LAY_CTRL_src_kind == 2 && ring (s.rdA sc (layPage l) LAY_CTRL_cap_port)
  let rings := (List.range 256).any fun q => s.qOn a q && s.qctl a q ACC_Q_CTRL_space == space && extentMeets (s.qBase a q) (64 * s.qSize a q) b n
  let caps := (List.range 2).any fun c => s.ownerAcct (capPage c) == some a && ring c
  let table := space == 1 && s.rd (accPage a 0) ACC_EFX_COUNT != 0 &&
    extentMeets (s.rd (accPage a 0) ACC_EFX_TABLE_offset * 64) (16 * s.rd (accPage a 0) ACC_EFX_COUNT) b n
  let sent := space == 0 && a == 0 && s.rd (ldgPage 0) LDG_EXP_CTRL_en == 1 &&
    extentMeets (s.rd (ldgPage 0) LDG_EXP_BASE_LO_addr * 64 + s.rd (ldgPage 0) LDG_EXP_BASE_HI_addr_hi * 2 ^ 32)
      (32 * 2 ^ s.rd (ldgPage 0) LDG_EXP_CTRL_log2size) b n
  layers || read || rings || caps || table || sent

/-! Grants and releases by kind (R261, R262). -/

/-- A grant or release request: requester, target, into or out of the sub-reserve, kind, words 3 and on. -/
structure Ask where
  who : Nat
  tgt : Nat
  sub : Bool
  kind : Nat
  w : List Word
  deriving DecidableEq, Repr

/-- Word 3 + i of the request as a number. -/
def Ask.n (k : Ask) (i : Nat) : Nat := (k.w.getD i 0).toNat

/-- The request takes from, or returns to, the sub-reserve: A16's requests. -/
def Ask.fromSub (k : Ask) : Bool := k.who == 16

/-- The pages that a page-based kind names, if its first and count are in range (R261, R364). -/
def Ask.pages (k : Ask) : Option (List Nat) :=
  let (f, n) := (k.n 0, k.n 1)
  let all := fun (lim : Nat) (g : Nat → List Nat) => if n = 0 ∨ lim < f + n then none else some ((List.range n).flatMap fun i => g (f + i))
  if k.kind = 1 then all 128 fun i => [layPage i]
  else if k.kind = 2 then all 32 fun i => [sclPage i, sclPage i + 1]
  else if k.kind = 3 then all 128 fun i => [pressPage i]
  else if k.kind = 11 then
    if n = 0 ∨ f % 8 ≠ 0 ∨ 96 < f + n ∨ (n % 8 ≠ 0 ∧ f + n ≠ 95) then none else some ((List.range (cdiv n 8)).map fun i => audPage (1 + f / 8 + i))
  else if k.kind = 12 then
    if n = 0 ∨ f % 8 ≠ 0 ∨ 64 < f + n ∨ n % 8 ≠ 0 then none else some ((List.range (n / 8)).map fun i => audPage (13 + f / 8 + i))
  else none

/-- The pages of the instances that a page-based kind names and that exist, in or out of range as a whole. -/
def Ask.named (k : Ask) : List Nat :=
  let (f, n) := (k.n 0, k.n 1)
  let all := fun (lim : Nat) (g : Nat → List Nat) => ((List.range lim).filter fun i => decide (f ≤ i ∧ i < f + n)).flatMap g
  if k.kind = 1 then all 128 fun i => [layPage i]
  else if k.kind = 2 then all 32 fun i => [sclPage i, sclPage i + 1]
  else if k.kind = 3 then all 128 fun i => [pressPage i]
  else if k.kind = 11 then all 96 fun i => [audPage (1 + i / 8)]
  else if k.kind = 12 then all 64 fun i => [audPage (13 + i / 8)]
  else []

/-- The kind grants pages. -/
def paged (kind : Nat) : Bool := [1, 2, 3, 11, 12].contains kind

/-- The kind is a region's; its memory. -/
def regional (kind : Nat) : Bool := kind == 6 || kind == 7
def spaceOf (kind : Nat) : Nat := if kind = 6 then 0 else 1

/-- Page marks of the sub-reserve's lineage (R254). -/
def subMark (p : Nat) : Nat := 2 ^ 20 + p
def State.subMarked (s : State) (p : Nat) : Bool := NatTbl.at_ s.subPool (subMark p) != 0

/-- 90 % of the mint capacity at the slowest corner, in units of 10,000 lane-ops per second (R27), and of the press capacity of an
output in lane-ops per second (R106; of a stopped output, that of the presses it would be assigned), each unretired mint counting
4 lanes (R148). -/
def State.mintCapacity (s : State) : Nat :=
  let mv := codeMv (s.rd (glbPage 2) GLB_AVS_LIMITS_min_code)
  let live := (List.range 128).foldl (fun n p => n + s.liveMints p) 0
  4 * live * (min (rateAt 0 mv) (min (rateAt 1 mv) (rateAt 2 mv))) * 9 / 10
def State.pressCapacity (s : State) (n : Nat) : Nat :=
  let mv := codeMv (s.rd (glbPage 2) GLB_AVS_LIMITS_max_code)
  let of := fun (ps : List Nat) => ps.foldl (fun m p => m + s.liveMints p) 0
  let mints := if !(s.assigned n).isEmpty then of (s.assigned n)
    else match s.choosePresses n with | some ps => of ps | none => 8 * s.rd (outPage n 2) OUT_CMP_PRESS_count
  4 * mints * (min (rateAt 0 mv) (rateAt 2 mv)) * 9000

/-- What kind 8 or 9 grants in total, outside what `a` holds: the open reserve's grants and all of the sub-reserve. -/
def State.heldOf (s : State) (kind a : Nat) : Nat := if kind = 8 then s.rd (memPage 19) MEM_RSV_RATE_rate a else (s.acct a).share
def State.granted (s : State) (kind a : Nat) : Nat :=
  ((List.range 32).filter (· != a)).foldl (fun n o => n + (s.heldOf kind o - s.subDrawn kind o)) 0 + s.subTotal kind

/-- Reserve admission of a total of kind 8 or 9 (R27). -/
def State.reserveOk (s : State) (kind total : Nat) : Bool :=
  if kind = 8 then decide (total * 10 ≤ s.rd (memPage 0) MEM_CAP_capacity * 9) else decide (total * 1000 ≤ s.mintCapacity)

/-- Reserve admission of a request (result 4): a rate or share that the reserve, or A16's sub-reserve, cannot give. -/
def State.overReserve (s : State) (k : Ask) : Bool :=
  if k.kind ≠ 8 ∧ k.kind ≠ 9 then false
  else if k.sub then !s.reserveOk k.kind (s.granted k.kind 32 + k.n 0)
  else if k.fromSub then s.subFree k.kind + s.subDrawn k.kind k.tgt < k.n 0
  else !s.reserveOk k.kind (s.granted k.kind k.tgt + k.n 0)

/-- The windows that the strict round gives account `a` (R239, R240). -/
def State.windowsOf (s : State) (a : Nat) : Nat :=
  (List.range 64).countP fun i => s.rd (memPage 20) ⟨0x080, 4, 8 * (i % 4) + 5, 8 * (i % 4)⟩ (i / 4) == a

/-- A reservation exceeds the capacity of its owner's windows: rate × 10 MB/s over windows × accesses × 64 bytes × 16
channels in a round of 1,953 ns at 2x (R240). -/
def State.overWindows (s : State) (k : Ask) : Bool :=
  k.kind == 8 && !k.sub && s.strict &&
    decide (s.windowsOf k.tgt * s.rd (memPage 20) MEM_STRICT_WIN_accesses * 64 * 16 * 1000000000 < k.n 0 * 10000000 * 1953)

/-- The parameters of a grant are out of range (result 5). -/
def State.badParams (s : State) (k : Ask) : Bool :=
  if paged k.kind then k.pages.isNone
  else if k.kind = 4 then
    k.n 0 == 0 || decide (256 < k.n 0) || decide (256 < (if k.sub then s.subTotal 4 else (s.acct k.tgt).queues) + k.n 0)
      || (k.fromSub && decide (s.subFree 4 < k.n 0))
  else if k.kind = 5 then
    decide (131072 < (if k.sub then s.subTotal 5 else (s.acct k.tgt).credit) + k.n 0) || (k.fromSub && decide (s.subFree 5 < k.n 0))
  else if regional k.kind then
    let sp := spaceOf k.kind
    !s.regionFits sp (if k.sub then 0 else b2n (s.trustedAcct k.tgt)) (k.n 0) (k.n 1) || (!k.sub && (s.regionFree sp k.tgt).isNone)
  else if k.kind = 8 then decide (65535 < k.n 0 ∨ k.n 1 = 0 ∨ 4095 < k.n 1)
  else if k.kind = 9 then false
  else if k.kind = 10 then
    decide (7 < k.n 0 ∨ 16383 < k.n 1 ∨ 4319 < k.n 2 ∨ k.n 3 = 0 ∨ 16384 < k.n 3 ∨ k.n 4 = 0 ∨ 8192 < k.n 4 ∨ 63 < k.n 5
      ∨ k.n 6 = 0 ∨ 32 < k.n 6 ∨ 65535 < k.n 7 ∨ k.n 8 = 0 ∨ 32 < k.n 8)
  else true

/-- The resource is bound, or held by another, or the grant would give a branch a second open-world account (R302; result 3); a second
open-world account on one output is result 8. -/
def State.taken (s : State) (k : Ask) : Bool :=
  if paged k.kind then
    (k.kind == 11 && decide (k.n 0 ≤ 95 ∧ 95 < k.n 0 + k.n 1)) ||
      k.named.any (fun p =>
        let src := if k.fromSub then ownSub else ownReserve
        let mine := !k.sub && s.ownerAcct p == some k.tgt
        !mine && (s.owner p != src || ((kindOf p).1 == .press && (s.rd p MNT_P_ROLE_role != 0 || s.rd p MNT_P_ROLE_clearing == 1))))
      || (k.kind == 3 && !k.sub && s.strict && !s.trustedAcct k.tgt && k.named.any fun p => !s.branchTakes [k.tgt] ((p - pressPage 0) / 4))
  else if k.kind = 10 then
    !k.sub && s.strict && !s.trustedAcct k.tgt && (s.openContrib (k.n 0)).all (· == k.tgt)
      && (s.pressesOf 1 (k.n 0)).any fun p => !s.branchTakes [k.tgt] (p / 4)
  else if regional k.kind then
    let (sp, b, n) := (spaceOf k.kind, k.n 0, k.n 1)
    s.regionTaken sp (if k.sub then 32 else k.tgt) b n || (if k.fromSub then !s.subHolds sp b n else s.subMeets sp b n)
  else false

/-- A slot record of the sub-reserve encloses a slot, and its share and allowance suffice for those granted from it. -/
def State.subSlotOk (s : State) (k : Ask) : Bool :=
  s.subSlots.any fun r =>
    let g := fun i => r.getD i 0
    let used := (s.slots (k.n 0)).filter fun v => v.acct != k.tgt && decide (g 5 ≤ v.z ∧ v.z + v.zn ≤ g 5 + g 6)
    g 0 == k.n 0 && decide (g 1 ≤ k.n 1 ∧ g 2 ≤ k.n 2 ∧ k.n 1 + k.n 3 ≤ g 1 + g 3 ∧ k.n 2 + k.n 4 ≤ g 2 + g 4
      ∧ g 5 ≤ k.n 5 ∧ k.n 5 + k.n 6 ≤ g 5 + g 6
      ∧ (used.foldl (fun n v => n + v.share) 0) + k.n 7 ≤ g 7 ∧ (used.foldl (fun n v => n + v.layers) 0) + k.n 8 ≤ g 8)

/-- The layers that an account has enabled on output `n`, in a scene or in escrow. -/
def State.slotLayers (s : State) (a n : Nat) (escrow : Bool) : List Nat :=
  (s.layersOf a).filter fun l =>
    if escrow then s.rd (layPage l) LAY_CTRL_enable == 1 && (s.rd (layPage l) LAY_PLACE_outputs).testBit n
    else s.rdA n (layPage l) LAY_CTRL_enable == 1 && (s.rdA n (layPage l) LAY_PLACE_outputs).testBit n

/-- The slot that a sub-reserve record stands for on output `n`, one for each. -/
def State.subBands (s : State) (n : Nat) : List (List Nat) := s.subSlots.filter fun r => r.getD 0 0 == n

/-- A slot that was granted from A16's sub-reserve: its z-band lies in the record's. -/
def State.fromBand (s : State) (n : Nat) (v : Slot) : Bool :=
  (s.subBands n).any fun r => decide (r.getD 5 0 ≤ v.z ∧ v.z + v.zn ≤ r.getD 5 0 + r.getD 6 0)

/-- The sum of what the slots of an output hold, once request `k` is admitted (R106, R121): a record of the sub-reserve stands for
the slots granted from it, but to a request of A16, which counts the slots themselves. -/
def State.slotSum (s : State) (k : Ask) (others : List Slot) (g : Slot → Nat) (i : Nat) : Nat :=
  let n := k.n 0
  (others.filter fun v => k.fromSub || !s.fromBand n v).foldl (fun m v => m + g v) 0
    + (if k.fromSub || k.sub then 0 else (s.subBands n).foldl (fun m r => m + r.getD i 0) 0) + k.n i

/-- An output slot is refused (R69, R106, R121, R302; result 8). DEDUCED (log 116): the allowance is compared with the account's
applied layers and with its escrowed ones, each set by itself. -/
def State.slotRefused (s : State) (k : Ask) : Bool :=
  if k.kind ≠ 10 then false
  else
    let n := k.n 0
    let others := (s.slots n).filter fun v => k.sub || v.acct != k.tgt
    let outside := others.filter fun v => !(k.fromSub || k.sub) || !s.fromBand n v
    let bands := if k.fromSub || k.sub then [] else s.subBands n
    let overlap := others.any (fun v => meets v.z v.zn (k.n 5) (k.n 6)) && !k.sub
      || outside.any (fun v => meets v.z v.zn (k.n 5) (k.n 6))
      || bands.any fun r => meets (r.getD 5 0) (r.getD 6 0) (k.n 5) (k.n 6)
    let t := s.inForce n
    let share := s.slotSum k others (·.share) 7
    let layers := s.slotSum k others (·.layers) 8
    let mine := [false, true].map (s.slotLayers k.tgt n)
    s.gen n != n || decide (64 < k.n 5 + k.n 6) || overlap || decide (32 < layers)
      || (!k.sub && decide (8 ≤ others.length))
      || (k.fromSub && !s.subSlotOk k)
      || (decide (s.pressCapacity n < t.hact * t.vact * s.rmax n + share * 10000000))
      || (!k.sub && (mine.any fun ls => decide (k.n 8 < ls.length)))
      || (!k.sub && (s.slotLayers k.tgt n true).any fun l => decide (k.n 6 ≤ s.rd (layPage l) LAY_PLACE_z))
      || (!k.sub && (s.slotLayers k.tgt n false).any fun l => decide (k.n 6 ≤ s.rdA n (layPage l) LAY_PLACE_z))
      || (!k.sub && s.strict && !s.trustedAcct k.tgt && others.any fun v => !s.trustedAcct v.acct)

/-- The slot registers of output `n`, instance `i`. -/
def State.putSlot (s : State) (n i acct : Nat) (v : Option Slot) : State :=
  let p := outPage n 2
  let f := fun (t : State) (fld : Fld) x => t.setReg (fkey p fld i) (BitVec.ofNat 32 x)
  match v with
  | none => f (f (f (f s OUT_CMP_SLOT_ACCT 0) OUT_CMP_SLOT_VP_XY 0) OUT_CMP_SLOT_VP_WH 0) OUT_CMP_SLOT_ZS 0
  | some v =>
    f (f (f (f s OUT_CMP_SLOT_ACCT (acct + v.layers * 2 ^ 8 + 2 ^ 31)) OUT_CMP_SLOT_VP_XY (v.x + v.y * 2 ^ 16))
      OUT_CMP_SLOT_VP_WH (v.w - 1 + (v.h - 1) * 2 ^ 16)) OUT_CMP_SLOT_ZS (v.z + v.zn * 2 ^ 8 + v.share * 2 ^ 16)

/-- The instance that holds the slot of account `a` on output `n`, and the first free one. -/
def State.slotIndex (s : State) (n a : Nat) : Option Nat :=
  (List.range 8).find? fun i => s.rd (outPage n 2) OUT_CMP_SLOT_ACCT_valid i == 1 && s.rd (outPage n 2) OUT_CMP_SLOT_ACCT_account i == a
def State.slotSpare (s : State) (n : Nat) : Option Nat :=
  (List.range 8).find? fun i => s.rd (outPage n 2) OUT_CMP_SLOT_ACCT_valid i == 0

/-- The slot of account `a` on output `n` set or removed. A stopped output shows its slots as granted (R121). -/
def State.setSlot (s : State) (n a : Nat) (v : Option Slot) : State :=
  match (match s.slotIndex n a with | some i => some i | none => s.slotSpare n) with
  | none => s
  | some i =>
    let s := s.putSlot n i a v
    if s.running n then s else s.takeSlots n

/-- Branch pages follow their presses (R254): to the sub-reserve once all four are marked, back when any is not. -/
def State.syncBranches (s : State) : State :=
  (List.range 32).foldl (fun (t : State) b =>
    let all := (List.range 4).all fun i => t.subMarked (pressPage (4 * b + i))
    let o := t.owner (branchPage b)
    if all && o == ownReserve then t.setOwner (branchPage b) ownSub
    else if !all && o == ownSub then t.setOwner (branchPage b) ownReserve else t) s

/-- A crosspoint page that changes hands: its rows' or columns' gain codes become 0 (R365). -/
def State.dropCodes (s : State) (p k : Nat) : State :=
  if 1 ≤ k ∧ k ≤ 12 then s.overRegs (fun j => j / 1024 == p && decide (256 ≤ j % 1024)) (fun _ _ => 0)
  else if 13 ≤ k ∧ k ≤ 20 then
    s.overRegs (fun j => decide (audPage 1 ≤ j / 1024 ∧ j / 1024 ≤ audPage 12 ∧ 256 ≤ j % 1024) && (j % 1024 - 256) % 32 / 4 == k - 13)
      (fun _ _ => 0)
  else s

/-- What the device holds for a legacy account on a page it owns (R388, R390): the highest rate of its outputs at 61 Hz, and
its scalers on the legacy coefficients. -/
def State.legacyHold (s : State) (a p : Nat) : State :=
  if !(s.acct a).legacy then s
  else match (kindOf p).1 with
    | .out 0 => s.wr p OUT_TIM_RMAX_rate 61
    | .sclCtl => (List.range 9).foldl (fun (t : State) n => t.wrA n p SCL_CTRL_coef_src 1) (s.wr p SCL_CTRL_coef_src 1)
    | _ => s

/-- Account `a` takes the 4410 personality (R263, R382, R385, R392): its window table is built anew, its LEG pages, what the device holds,
INT_N. -/
def State.becomeLegacy (s : State) (a : Nat) : State :=
  let s : State := { s.setAcct a { s.acct a with legacy := true } with pwt := s.pwt.filter fun e => e.1 / 256 != a }
  let s := (List.range 16).foldl (fun (t : State) k => t.setOwner (legPage a k) a) (s.wr (accPage a 0) ACC_ID_personality 1)
  let pin := s.rd (pinPage 1) PIN_FN_en 19 == 1 && s.rd (pinPage 1) PIN_FN_account 19 == a && s.rd (pinPage 1) PIN_FN_world 19 == 0
  (s.slotted a).foldl (fun (t : State) p => t.legacyHold a p) ((s.outsOf a).foldl (fun (t : State) n => t.legacyHold a (outPage n 0))
    (s.setLeg a 4 (b2n pin)))

/-- A page moved to an owner code; a press takes its role with it. -/
def State.movePage (s : State) (p code : Nat) (acct : Option Nat) : State :=
  let s := s.setOwner p code
  match (kindOf p).1, acct with
  | .press, some a => (s.setRole (p - pressPage 0) 2 0 a).powerFollow p
  | .press, none => if s.rd p MNT_P_ROLE_role = 2 then s.releasePress (p - pressPage 0) else s
  | .aud k, _ => s.dropCodes p k
  | _, some a => s.legacyHold a p
  | _, _ => s

/-- The vault space that retention may use after a grant or release of vault units (R188, R247, R248). -/
def State.syncVaultSpace (s : State) : State :=
  let used := (List.range 32).foldl (fun n a => (regionsOf 1).foldl (fun n r => n + (s.region a r).2.1) n) 0
  let s := s.wr (vltPage 0) VLT_SPACE_free (816 - s.rd (vltPage 0) VLT_SPACE_reserved - used)
  (List.range 8).foldl (fun (t : State) g =>
    if t.rd (vltPage 0) VLT_SPACE_free < t.rd (vltPage 0) VLT_SPACE_retained ∧ (t.out g).retained.isSome then t.dropRetention g else t) s

/-- An admitted grant takes effect. -/
def State.applyGrant (s : State) (k : Ask) : State :=
  let a := k.tgt
  if paged k.kind then
    let ps := (k.pages.getD []).filter fun p => s.owner p == (if k.fromSub then ownSub else ownReserve)
    let s := ps.foldl (fun (t : State) p =>
      let t := if k.sub then { t with subPool := NatTbl.put t.subPool (subMark p) 1 } else t
      if k.sub then t.movePage p ownSub none else t.movePage p (t.ownCode a) (some a)) s
    s.syncBranches
  else if k.sub then
    if k.kind = 4 ∨ k.kind = 5 then { s with subPool := NatTbl.put s.subPool k.kind (s.subTotal k.kind + k.n 0) }
    else if k.kind = 8 ∨ k.kind = 9 then { s with subPool := NatTbl.put s.subPool k.kind (s.subTotal k.kind + k.n 0) }
    else if regional k.kind then { s with subRegions := s.subRegions ++ [(spaceOf k.kind, k.n 0, k.n 1)] }
    else { s with subSlots := s.subSlots ++ [(List.range 9).map k.n] }
  else
    let draw := fun (t : State) (v : Nat) => { t with subPool := NatTbl.put t.subPool (64 * k.kind + a + 64) v }
    let c := s.acct a
    if k.kind = 4 then
      let s := if k.fromSub then draw s (s.subDrawn 4 a + k.n 0) else s
      s.setAcct a { c with queues := c.queues + k.n 0 }
    else if k.kind = 5 then
      let s := if k.fromSub then draw s (s.subDrawn 5 a + k.n 0) else s
      s.setAcct a { c with credit := c.credit + k.n 0 }
    else if regional k.kind then
      let sp := spaceOf k.kind
      let s := match s.regionFree sp a with | some r => s.setRegion a r (k.n 0) (k.n 1) 0 | none => s
      if sp = 1 then s.syncVaultSpace else s
    else if k.kind = 8 then
      let s := (draw s (if k.fromSub then k.n 0 else 0)).rebase a
      (s.wr (memPage 19) MEM_RSV_RATE_rate (k.n 0) a).wr (memPage 19) MEM_RSV_DEPTH_depth (k.n 1) a
    else if k.kind = 9 then
      let s := draw s (if k.fromSub then k.n 0 else 0)
      s.setAcct a { c with share := k.n 0 }
    else s.setSlot (k.n 0) a (some ⟨a, k.n 8, k.n 1, k.n 2, k.n 3, k.n 4, k.n 5, k.n 6, k.n 7⟩)

/-! Releases. -/

/-- A release names pages that the target does not hold, or a rate or share that the other manager granted (result 3). -/
def State.notHeld (s : State) (k : Ask) : Bool :=
  let a := k.tgt
  if paged k.kind then
    k.named.any fun p => if k.sub then !s.subMarked p else s.ownerAcct p != some a || (k.fromSub && !s.subMarked p)
  else (k.kind == 8 || k.kind == 9) && k.fromSub && s.heldOf k.kind a != 0 && s.subDrawn k.kind a == 0

/-- What the target, or the sub-reserve, holds of queues or credit as far as the requester granted it. -/
def State.heldFrom (s : State) (k : Ask) : Nat :=
  if k.sub then s.subTotal k.kind
  else if k.fromSub then s.subDrawn k.kind k.tgt
  else (if k.kind = 4 then (s.acct k.tgt).queues else (s.acct k.tgt).credit) - s.subDrawn k.kind k.tgt

/-- A release's parameters are out of range (result 5): among them an amount above what is held, a region or slot not held. -/
def State.badRelease (s : State) (k : Ask) : Bool :=
  if paged k.kind then k.pages.isNone
  else if regional k.kind then
    if k.sub then !(s.subRegions.contains (spaceOf k.kind, k.n 0, k.n 1)) else (s.regionIs (spaceOf k.kind) k.tgt (k.n 0) (k.n 1)).isNone
  else if k.kind = 4 then k.n 0 == 0 || decide (s.heldFrom k < k.n 0)
  else if k.kind = 5 then decide (s.heldFrom k < k.n 0)
  else if k.kind = 10 then decide (7 < k.n 0) || if k.sub then (s.subBands (k.n 0)).isEmpty else (s.slotIndex (k.n 0) k.tgt).isNone
  else !(k.kind == 8 || k.kind == 9)

/-- A page in use (R262): an applied layer, a scaler that serves a placement, a press with cheques, a row or column that
is enabled. -/
def State.pageBusy (s : State) (p : Nat) : Bool :=
  match kindOf p with
  | (.lay, _) => (List.range 9).any fun n => s.rdA n p LAY_CTRL_enable == 1
  | (.sclCtl, _) => s.rd p SCL_STATUS_in_use == 1
  | (.press, i) => !(s.press i).isEmpty || (List.range 8).any fun j => (s.mint (8 * i + j)).cheque.isSome
  | (.aud k, _) =>
    if 1 ≤ k ∧ k ≤ 12 then (List.range 8).any fun i => s.rd p AUD_ROW_SRC_en i == 1
    else if 13 ≤ k ∧ k ≤ 20 then (List.range 8).any fun i => s.rd p AUD_COL_SINK_en i == 1 else false
  | _ => false

/-- A release is of something in use, or, from the sub-reserve, of something granted onward (result 2; R254, R262). -/
def State.releaseBusy (s : State) (k : Ask) : Bool :=
  let a := k.tgt
  if paged k.kind then
    if k.sub then k.named.any fun p => s.subMarked p && s.owner p != ownSub else k.named.any s.pageBusy
  else if regional k.kind then
    let (sp, b, n) := (spaceOf k.kind, k.n 0, k.n 1)
    if k.sub then (List.range 32).any fun o => (o == 16 || (s.acct o).delegated) && (regionsOf sp).any fun r =>
        (s.region o r).2.1 != 0 && meets (s.region o r).1 (s.region o r).2.1 b n
    else s.regionBusy sp a b n
  else if k.sub then
    if k.kind = 10 then (s.slots (k.n 0)).any (s.fromBand (k.n 0))
    else if k.kind = 4 ∨ k.kind = 5 then s.subFree k.kind < k.n 0 && k.n 0 ≤ s.subTotal k.kind
    else s.subFree k.kind < s.subTotal k.kind
  else if k.kind = 4 then (List.range 256).any fun q => decide ((s.acct a).queues - k.n 0 ≤ q) && s.qOn a q
  else if k.kind = 5 then decide ((s.acct a).credit - k.n 0 < (s.acct a).creditUsed)
  else if k.kind = 10 then [false, true].any fun e => !(s.slotLayers a (k.n 0) e).isEmpty
  else false

/-- Where a pooled page returns to: the sub-reserve if it came from there (R259). -/
def State.home (s : State) (p : Nat) : Nat := if s.subMarked p then ownSub else ownReserve

/-- An admitted release takes effect. -/
def State.applyRelease (s : State) (k : Ask) : State :=
  let a := k.tgt
  let undraw := fun (t : State) (v : Nat) => { t with subPool := NatTbl.put t.subPool (64 * k.kind + a + 64) v }
  if paged k.kind then
    let s := (k.pages.getD []).foldl (fun (t : State) p =>
      if k.sub then ({ t with subPool := NatTbl.put t.subPool (subMark p) 0 } : State).movePage p ownReserve none
      else t.movePage p (t.home p) none) s
    s.syncBranches
  else if k.sub then
    if regional k.kind then { s with subRegions := s.subRegions.erase (spaceOf k.kind, k.n 0, k.n 1) }
    else if k.kind = 10 then { s with subSlots := s.subSlots.filter fun r => r.getD 0 0 != k.n 0 }
    else { s with subPool := NatTbl.put s.subPool k.kind (if k.kind = 4 ∨ k.kind = 5 then s.subTotal k.kind - k.n 0 else 0) }
  else
    let c := s.acct a
    if k.kind = 4 then
      let s := if k.fromSub then undraw s (s.subDrawn 4 a - k.n 0) else s
      s.setAcct a { c with queues := c.queues - k.n 0 }
    else if k.kind = 5 then
      let s := if k.fromSub then undraw s (s.subDrawn 5 a - k.n 0) else s
      s.setAcct a { c with credit := c.credit - k.n 0 }
    else if regional k.kind then
      let sp := spaceOf k.kind
      let s := match s.regionIs sp a (k.n 0) (k.n 1) with | some r => s.dropRegion sp a r | none => s
      if sp = 1 then s.syncVaultSpace else s
    else if k.kind = 8 then
      let s := (undraw s 0).rebase a
      (s.wr (memPage 19) MEM_RSV_RATE_rate 0 a).wr (memPage 19) MEM_RSV_DEPTH_depth 0 a
    else if k.kind = 9 then (undraw s 0).setAcct a { c with share := 0 }
    else s.setSlot (k.n 0) a none

end Sys2Proof.Machine
end

