-- ==== Sys2Proof/Machine/Clearing.lean ====
section
/-! DEFINITION. The clearing link (R212 to R218): sending and receiving frames, presence, exclusion, and the tokens of
syndicate commits (R164). -/

namespace Sys2Proof.Machine

/-- The time of a cycle (R213), in ns. -/
def clCycle : Nat := 125000

/-- This device's number, and whether it is the master. -/
def State.clMe (s : State) : Nat := s.rd gngPage GNG_CTRL_device
def State.clMaster (s : State) : Bool := s.rd gngPage GNG_CTRL_master == 1

/-- Bit `d` of a mask field of GNG_STATUS. -/
def gngBit (f : Fld) (d : Nat) : Fld := ⟨f.off, 4, f.lo + d, f.lo + d⟩

/-- Bytes most significant first, and the number they spell (R214). -/
def beBytes (n v : Nat) : List Byte := (leBytes n v).reverse
def ofBeBytes (bs : List Byte) : Nat := ofLeBytes bs.reverse

/-- A token entry of a frame body, in 8 bytes (R214). -/
def tokenBytes (t : Token) : List Byte :=
  [BitVec.ofNat 8 t.tag, BitVec.ofNat 8 (t.outcome % 16 + b2n t.valid * 128), 0, 0] ++ beBytes 4 t.frame
def tokenOfBytes (bs : List Byte) : Token :=
  ⟨(bs.getD 0 0).toNat, (bs.getD 1 0).toNat % 16, (bs.getD 1 0).getLsbD 7, ofBeBytes ((bs.drop 4).take 4)⟩

/-- The 48-byte body of a frame (R214), and the frame that a body spells. -/
def clBody (f : ClFrame) : List Byte :=
  ([BitVec.ofNat 8 (1 - b2n f.sync), BitVec.ofNat 8 (f.device.val + b2n f.rejoin * 4 + b2n f.master * 8)] ++ beBytes 2 f.cycle
    ++ beBytes 4 f.frame ++ beBytes 4 f.phase ++ beBytes 4 f.faults ++ f.tokens.flatMap tokenBytes ++ List.replicate 32 0).take 48
def clOfBody (bs : List Byte) : ClFrame :=
  let flags := (bs.getD 1 0).toNat
  let be := fun (i n : Nat) => ofBeBytes ((bs.drop i).take n)
  { sync := bs.getD 0 0 == 0, device := ⟨flags % 4, Nat.mod_lt _ (by decide)⟩, rejoin := flags.testBit 2, master := flags.testBit 3,
    cycle := be 2 2, frame := be 4 4, phase := be 8 4, faults := be 12 4,
    tokens := (List.range 4).map fun i => tokenOfBytes ((bs.drop (16 + 8 * i)).take 8) }

/-- The 56 characters of a frame: two K28.5, K27.7, the body, its CRC-32C, K29.7 (R214). -/
def clChars (f : ClFrame) : List ClChar :=
  [.k28_5, .k28_5, .k27_7] ++ (clBody f ++ beBytes 4 (crc32c (clBody f))).map ClChar.data ++ [.k29_7]

/-- The bytes of characters, none if one of them is a control character. -/
def clBytes : List ClChar → Option (List Byte)
  | [] => some []
  | .data b :: t => (clBytes t).map (b :: ·)
  | _ :: _ => none

/-- The frame that characters spell: none for an unexpected character, a body of the wrong length or a bad CRC (R214). -/
def clParse : List ClChar → Option ClFrame
  | .k28_5 :: .k28_5 :: .k27_7 :: rest =>
    match clBytes (rest.take 52), rest.drop 52 with
    | some bs, [.k29_7] => if bs.length = 52 ∧ ofBeBytes (bs.drop 48) = crc32c (bs.take 48) then some (clOfBody (bs.take 48)) else none
    | _, _ => none
  | _ => none

/-- A valid sync frame was received in the present cycle. -/
def State.clSynced (s : State) : Bool :=
  match s.link.lastSync, s.link.cycleAt with | some t, some c => decide (c ≤ t ∧ s.now < c + clCycle) | _, _ => false

/-- A frame may start `t` ns after the start of its window (R213): it is meant to start at 2.0 µs, and one that comes later keeps to
the start window, 2.0 to 17.4 µs. -/
def inStart (t : Nat) : Bool := decide (2000 ≤ t ∧ t ≤ 17400)

/-- The device's slot in the present cycle has its frame still to come (R213). -/
def State.slotOpen (s : State) : Bool :=
  match s.link.cycleAt with
  | none => false
  | some c => decide (c + 25000 * (s.clMe + 1) ≤ s.now) && inStart (s.now - (c + 25000 * (s.clMe + 1)))
    && (match s.link.statusAt with | some t => decide (t < c) | none => true)

/-- Syndicate frame `f` has begun. -/
def State.frameBegun (s : State) (f : Nat) : Bool := decide ((s.rd gngPage GNG_FRAME_frame + 2 ^ 32 - f) % 2 ^ 32 < 2 ^ 31)

/-- The token sent for an entry of the list (R164): its outcome until its frame begins, then what the device acted on. -/
def State.tokenNow (s : State) (t : Token) : Token :=
  if !s.frameBegun t.frame then t
  else match s.link.acted.find? fun e => e.2.1 == t.tag && e.2.2.1 == t.frame with
    | some e => { t with outcome := if e.2.2.2 then 3 else 4 }
    | none => t

/-- The fault bits of a frame (R214). -/
def State.clFaults (s : State) : Nat :=
  (List.range 8).foldl (fun n c => n + (if s.rd (fltPage 0) FLT_COUNT_count c = 0 then 0 else 2 ^ c)) 0
    + s.rd (fltPage 2) FLT_SAFE_STATUS_device * 256 + (1 - s.rd (fltPage 2) FLT_OUT_STATUS_alive) * 512

/-- The master's next frame is its sync frame: in the sync window of a cycle after its last (R213). -/
def State.syncNext (s : State) : Bool :=
  s.clMaster && (match s.link.cycleAt with
    | some c => decide (c + clCycle ≤ s.now) && inStart ((s.now - c) % clCycle)
    | none => true)

/-- The device may transmit (R216, R217): not while SYNC_LOST is raised, nor while it excludes itself and has seen fewer than 8 valid
sync frames in a row, and, but for a sync frame, only in its slot, with a valid sync frame in the cycle, and once it has recomputed
its slot. -/
def State.maySend (s : State) (sync : Bool) : Bool :=
  (s.rd gngPage GNG_STATUS_self_excluded == 0 || decide (8 ≤ s.link.syncRun)) && !s.level (16 * gngPage)
    && (sync || (s.clSynced && s.slotOpen && !s.link.recompute))

/-- The frame that the device sends now (R213, R214). -/
def State.clFrame (s : State) (sync : Bool) : ClFrame :=
  { sync := sync, device := ⟨s.clMe % 4, Nat.mod_lt _ (by decide)⟩, rejoin := s.rd gngPage GNG_STATUS_self_excluded == 1, master := s.clMaster,
    cycle := if sync then (s.link.cycle + 1) % 65536 else s.link.cycle, frame := s.rd gngPage GNG_FRAME_frame,
    phase := if sync then (match s.link.start with | some t => (s.now - t) / 10 % 2 ^ 32 | none => 0) else 0,
    faults := s.clFaults, tokens := if sync then [] else (s.link.tokensOut.take 4).map s.tokenNow }

/-- The sync window after the cycle of the last valid sync frame has not passed yet. -/
def State.clFresh (s : State) : Bool :=
  match s.link.lastSync, s.link.cycleAt with | some t, some c => decide (c ≤ t ∧ s.now < c + clCycle + 25000) | _, _ => false

/-- GNG_STATUS.sync falls once a sync window has passed without a valid sync frame (R213, R218). -/
def State.clMissed (s : State) : State :=
  if s.clFresh then s
  else ({ s with link := { s.link with syncRun := 0 } } : State).hwField gngPage GNG_STATUS_sync 0

/-- CL_FRAME_SEND (R213, R164): the master's sync frame as a cycle begins, or the status frame of the device's slot. -/
def execClFrameSend (s : State) : Host.Outcome State Fault Refusal :=
  .next (
    if s.rd gngPage GNG_CTRL_en = 0 then s
    else
      let s := s.clMissed
      let sync := s.syncNext
      if !s.maySend sync then s
      else
        let f := s.clFrame sync
        let keep := if sync then s.link.tokensOut
          else s.link.tokensOut.filter fun t => !((s.tokenNow t).outcome == 3 || (s.tokenNow t).outcome == 4)
        { s with link := { s.link with sent := some f, wire := clChars f, cycle := f.cycle, tokensOut := keep,
                                       cycleAt := if sync then some (s.now - 2000) else s.link.cycleAt,
                                       statusAt := if sync then s.link.statusAt else some s.now } })

/-- How a receiver classifies a frame (R216). -/
inductive ClClass where
  | accepted | edge | discarded
  deriving DecidableEq, Repr

def clClass (startNs endNs : Int) (crcOk : Bool) : ClClass :=
  if !crcOk ∨ startNs < 0 ∨ 25000 < endNs ∨ 19400 < startNs then .discarded
  else if 2000 ≤ startNs ∧ startNs ≤ 15860 then .accepted else .edge

/-- A sender is excluded after 3 discards in a row (R217); the device itself raises SELF_EXCLUDED. -/
def State.clExclude (s : State) (d : Nat) : State :=
  let s := (s.hwField gngPage (gngBit GNG_STATUS_excluded d) 1).count gngPage 3
  let s := s.hwField gngPage (gngBit GNG_STATUS_present d) 0
  if d = s.clMe then
    (({ s with link := { s.link with syncRun := 0 } } : State).hwField gngPage GNG_STATUS_self_excluded 1).fault gngPage 1
  else s

/-- A discarded frame (R214, R216, R217). -/
def State.clDiscard (s : State) (d : Nat) : State :=
  let n := NatTbl.at_ s.link.discards d + 1
  let s := s.count gngPage 2
  let s := { s with link := { s.link with discards := NatTbl.put s.link.discards d n } }
  let s := if d = s.clMe then ({ s with link := { s.link with recompute := true } } : State).count gngPage 4 else s
  if n = 3 then s.clExclude d else s

/-- A valid sync frame (R213 to R217): cycle, syndicate frame and its start, from which the reference edge follows. Sync frames of
consecutive cycles start within a window's length of one cycle apart. -/
def State.clSync (s : State) (f : ClFrame) (sof : Nat) : State :=
  let master := s.clMaster
  let edge := !master && (s.link.start.isNone || f.frame != s.rd gngPage GNG_FRAME_frame)
  let at_ := sof - f.phase * 10
  let run := match s.link.lastSync with | some t => if s.now ≤ t + clCycle + 25000 then s.link.syncRun + 1 else 1 | none => 1
  let s := { s with link := { s.link with lastSync := some s.now, cycle := f.cycle, cycleAt := some (sof - 2000), syncRun := run,
                                          recompute := false } }
  let s := (s.hwField gngPage GNG_STATUS_sync 1).setLevel gngPage 0 false
  if master then s
  else
    let s := { s.wr gngPage GNG_FRAME_frame f.frame with link := { s.link with start := some at_ } }
    if edge then s.heads.foldl (fun (t : State) g => t.refEdge g 2 at_) s else s

/-- An admitted token that comes after the limit of R164 for a commit here that still waits. -/
def State.tokenLate (s : State) (t : Token) : Bool :=
  t.outcome == 1 && (List.range 32).any fun a => match s.commit a with
    | some c => (match c.syn with | some y => y.tag == t.tag && y.frame == t.frame && !c.final && s.synOver c y | none => false)
    | none => false

/-- A token of device `d` (R164): kept; a refusal refuses the commit here, and an outcome that differs from the local one
raises SYN_MISMATCH. -/
def State.clToken (s : State) (d : Nat) (t : Token) : State :=
  if !t.valid || s.tokenLate t then s
  else
    let s := { s with link := { s.link with tokensIn :=
      (s.link.tokensIn.filter fun (e : Nat × Nat × Nat × Nat) => !(e.1 == t.tag && e.2.1 == t.frame && e.2.2.1 == d)) ++ [(t.tag, t.frame, d, t.outcome)] } }
    if t.outcome = 2 then
      (List.range 32).foldl (fun (u : State) a => match u.commit a with
        | some c => match c.syn with
          | some y => if y.tag = t.tag ∧ y.frame = t.frame ∧ y.devices.testBit d ∧ u.rd (comPage a) ACC_COMMIT_STATUS_rebuilding = 1
              then (if c.admitted then u.refuseSyn a c y else (u.sendToken y 2).refuseSyn a c y) else u
          | none => u
        | none => u) s
    else if t.outcome = 3 ∨ t.outcome = 4 then
      (s.link.acted.filter fun e => e.2.1 == t.tag && e.2.2.1 == t.frame && e.2.2.2 != (t.outcome == 3)).foldl
        (fun (u : State) e => u.synMismatch e.1) s
    else s

/-- An accepted frame of a sender that is not excluded, or rejoins; the device's own EDGE frame calls for a recompute from the next
valid sync frame (R216). -/
def State.clAccept (s : State) (d : Nat) (f : ClFrame) (sof : Nat) (edge : Bool) : State :=
  let own := d == s.clMe
  let s := s.count gngPage 0
  let s := if edge then s.count gngPage 1 else s
  let s := { s with link := { s.link with discards := NatTbl.put s.link.discards d 0, accepted := NatTbl.put s.link.accepted d s.now } }
  let s := s.hwField gngPage (gngBit GNG_STATUS_excluded d) 0
  let s := s.hwField gngPage (gngBit GNG_STATUS_present d) 1
  let s := if own then s.hwField gngPage GNG_STATUS_self_excluded 0 else s
  let s := if f.sync then (if s.clMaster && !own then s.fault gngPage 2 else s.clSync f sof)
    else if own then s
    else f.tokens.foldl (fun (t : State) k => t.clToken d k) s
  if own && edge then ({ s with link := { s.link with recompute := true } } : State).count gngPage 4 else s

/-- CL_FRAME_RECEIVE (R214, R216, R217): the times are those from the start of the sender's window; the command falls at the
frame's end; `sof` holds the start-of-frame characters received and `rest` those after them. -/
def execClFrameReceive (sender : Fin 4) (startNs endNs : Int) (sof rest : List ClChar) (s : State) :
    Host.Outcome State Fault Refusal :=
  let d := sender.val
  let out := (s.rd gngPage GNG_STATUS_excluded).testBit d
  let chars := sof ++ rest
  .next (
    if s.rd gngPage GNG_CTRL_en = 0 then s
    else match clClass startNs endNs (clParse chars).isSome, clParse chars with
      | .accepted, some f => if out && !f.rejoin then s else s.clAccept d f (s.now - (endNs - startNs).toNat) false
      | .edge, some f => if out && !f.rejoin then s else s.clAccept d f (s.now - (endNs - startNs).toNat) true
      | _, _ => if out then s else s.clDiscard d)

/-- SYNC_LOST (R217): no valid sync frame for 8 cycles. -/
def execSyncLost (s : State) : Host.Outcome State Fault Refusal :=
  let late : Bool := match s.link.lastSync.or s.link.since with | some t => decide (t + 8 * clCycle ≤ s.now) | none => false
  .next (
    if s.rd gngPage GNG_CTRL_en = 0 ∨ !late then s
    else (({ s with link := { s.link with syncRun := 0 } } : State).hwField gngPage GNG_STATUS_sync 0).setLevel gngPage 0 true)

/-- CL_PRESENCE_TIMEOUT (R217): no frame of the device accepted within the last 8 cycles. -/
def execClPresenceTimeout (d : Fin 4) (s : State) : Host.Outcome State Fault Refusal :=
  .next (if s.now < NatTbl.at_ s.link.accepted d.val + 8 * clCycle then s else s.hwField gngPage (gngBit GNG_STATUS_present d.val) 0)

/-! The clearing link's enable. -/

/-- With the link not active, nothing of it is in progress and no device is present. -/
def State.linkFollow (s : State) : State :=
  if s.rd gngPage GNG_CTRL_en = 1 then { s with link := { s.link with since := some (s.link.since.getD s.now) } }
  else (({ s with link := State.reset.link } : State).hwChange (fkey gngPage GNG_STATUS 0) 0).setLevel gngPage 0 false

end Sys2Proof.Machine
end

