-- ==== Sys2Proof/Machine/PageCtrl.lean ====
section
/-! DEFINITION. PAGE_CTRL of the common header (R54, R55, R57, R303): power, block reset and the lock. -/

namespace Sys2Proof.Machine

/-- The rule of a PAGE_CTRL write: the power of a press that is free, reserved or serves an output is the device's
alone (R148's registers), and R97 protects the timing generator and the port of an output. -/
def State.pageCtrlRule (s : State) (who p : Nat) (v : Word) : Rule :=
  let changes := PAGE_CTRL_enable.get v ≠ s.rd p PAGE_CTRL_enable ∨ PAGE_CTRL_sleep_req.get v ≠ s.rd p PAGE_CTRL_sleep_req
  match kindOf p with
  | (.press, _) => if changes && s.rd p MNT_P_ROLE_role != 2 then .range else .ok
  | (.out k, n) =>
    if !((k == 0 && s.plHolds who n) || (k == 6 && s.plHoldsPort who n)) then .ok
    else if (s.powerGoal p == 3 && (PAGE_CTRL_enable.get v == 0 || PAGE_CTRL_sleep_req.get v == 1)) || v.getLsbD 1 then .range else .ok
  | _ => .ok

/-- The entries of a PAGE_CTRL write, one for each effect in order (R303, R304). -/
def State.pageCtrlRecs (s : State) (who p : Nat) (v : Word) : List Rec :=
  let cur := s.reg (fkey p PAGE_CTRL 0)
  let plain := PAGE_CTRL_sleep_req.put (PAGE_CTRL_enable.put cur (PAGE_CTRL_enable.get v)) (PAGE_CTRL_sleep_req.get v)
  let r := fun kind detail (old new : Word) => s.recOf who kind detail (regKey p PAGE_CTRL.off) old new
  (if plain ≠ cur then [r 1 0 cur plain] else [])
    ++ (if v.getLsbD 31 && !cur.getLsbD 31 then [r 0x0A 0 plain (PAGE_CTRL_lock.put plain 1)] else [])
    ++ (if v.getLsbD 1 then [r 0x07 5 0 0] else [])

/-- A row of a page's block that software or the escrow can change. -/
def RegRow.writable (r : RegRow) : Bool := r.fields.any fun f => f.acc != .ro

/-- Status that block_reset leaves: a register that shows a grant, a binding, a role, a record, an identity or the state of supplies and
power, which other units make and which no work of this page's unit does. DESIGN CHOICE (log entry 107): R55 names the registers of the
block without saying which of them follow from elsewhere. -/
def keptStatus (k : Kind) (off : Nat) : Bool :=
  match k with
  | .cus _ => true | .ldg _ => true | .pin _ => true | .vlt => true | .vltBg => true | .hst _ => true | .branch => true
  | .glb j => j != 3 && off != GLB_SEQ_WAKE_WORST.off
  | .flt j => !(j == 0 && off == FLT_SCAN.off)
  | .acc j => j == 0
  | .press => [MNT_P_ROLE.off, MNT_P_MINT_STATE.off, MNT_P_QUEUE.off].contains off
  | .xch => off == MNT_X_SLOWSAFE.off
  | .aud j => j == 21 && off != AUD_TDM_STATUS.off
  | .pl => off == PL_REGION.off
  | .out j => (j == 2 && off != OUT_CMP_REBUILD.off) || j == 4
  | .mem j => j == 19 || j == 20
  | .chk => false | .lay => false | .sclCtl => false | .sclCoef => false | .memCh => false | .cap => false
  | .tch0 => false | .tchB => false | .hap0 => false | .hapCh => false | .gng => false | .leg => false | .none => false

/-- The two-bank tables that a page arms. -/
def pageTables (p : Nat) : List Nat :=
  match kindOf p with
  | (.out 3, n) => (List.range 3).map (colTable n)
  | (.sclCtl, c) => [sclTable c false, sclTable c true]
  | (.aud k, _) => if 13 ≤ k ∧ k ≤ 20 then (List.range 8).map fun i => eqTable (8 * (k - 13) + i) else []
  | _ => []

/-- What block_reset ends of the unit's work in progress, while its registers still say what that was. -/
def State.beforeReset (s : State) (p : Nat) : State :=
  let s := (pageTables p).foldl (fun (t : State) k => (t.setReady k 0).setWritten k false) s
  match kindOf p with
  | (.out 0, n) => if (s.out (s.gen n)).enabled then s.stopOutput (s.gen n) else s
  | (.out 3, n) => s.setLoad n none
  | (.out 6, n) => if s.linkState n = 0 then s else s.linkGone n
  | (.chk, n) => s.setCheck n CheckS.zero
  | (.cap, c) => s.setCap c { CapS.zero with readers := (s.cap c).readers }
  | (.tchB, b) => s.setTch b TouchS.zero
  | (.hapCh, h) => (s.hapOff h).setHap h { HapS.zero with rose := (s.hap h).rose }
  | (.branch, b) => (List.range 32).foldl (fun (t : State) i =>
      if (s.rd p MNT_B_RETIRE_retire).testBit i then t.unretireMint (32 * b + i) else t) s
  | (.xch, x) => { s with avs := { s.avs with margins := Tbl.drop (fun k => k / 16 == x) s.avs.margins } }
  | (.aud 23, _) => s.setAudio fun a => { a with chimeAt := none }
  | (.mem 21, _) => { s with mem := { s.mem with refilled := (List.range 33).foldl (fun t o => NatTbl.put t o s.now) s.mem.refilled } }
  | (.acc 6, a) => ({ s with queues := Tbl.drop (fun k => k / 256 == a) s.queues,
                             audio := { s.audio with streams := Tbl.drop (fun k => k / 256 == a) s.audio.streams } } : State).dropJobs a
  | (.acc 7, a) => match s.rxChannel a with | some ch => { s with dropped := NatTbl.put s.dropped ch 0 } | none => s
  | (.acc 4, a) => { s with queues := Tbl.drop (fun k => k / 256 == a && k % 256 < 128) s.queues }
  | (.acc 5, a) => { s with queues := Tbl.drop (fun k => k / 256 == a && 128 ≤ k % 256) s.queues }
  | _ => s

/-- The fields of ACC_COMMIT_STATUS that say what is in progress. -/
def commitLive : List Fld := [ACC_COMMIT_STATUS_busy, ACC_COMMIT_STATUS_held, ACC_COMMIT_STATUS_rebuilding, ACC_COMMIT_STATUS_pending]

/-- What shows the state of the unit once its registers are reset; `old` is the state before. -/
def State.afterReset (s old : State) (p : Nat) : State :=
  match kindOf p with
  | (.xch, x) => s.setLevel (xchPage x) 2 false
  | (.acc 1, _) => commitLive.foldl (fun (t : State) f => t.wr p f (old.rd p f)) s
  | (.acc 7, a) => s.syncNs a
  | (.lay, l) => s.syncLayer l
  | (.out 0, n) => (s.withPair n).foldl State.syncLinkDown s
  | (.out 1, n) => s.updateFill (s.gen n)
  | (.out 6, n) => (s.syncPresent n).syncLinkDown n
  | (.cap, c) => s.capReport c
  | (.hapCh, h) => (s.wr (hapPage h) HAP_TRIP_pin (old.rd (hapPage h) HAP_TRIP_pin)).setLevel (hapPage h) 0 false
  | (.gng, _) => s.linkFollow
  | _ => s

/-- block_reset (R55): the block's registers, applied and in escrow, and the event latches return to reset, the running tallies
restart; a unit in FAULT leaves it (R54). -/
def State.blockReset (s : State) (p : Nat) : State :=
  let keep := fun k => match rowAt p (4 * (k % 1024)) with
    | some (r, _) => decide (k % 1024 < 32) || (!r.writable && keptStatus (kindOf p).1 r.reg.off)
    | none => true
  let old := s
  let s := (s.beforeReset p).overRegs (fun k => k / 1024 == p && !keep k) fun k _ => regReset k
  let s := { s with applied := Tbl.drop (fun k => k % 2 ^ 22 / 1024 == p) s.applied }
  let s := ((s.wr p EVT_RAW 0).wr p EVT_PENDING 0)
  let s := { s with tally := Tbl.drop (fun k => k / 8 == p) s.tally }
  let s := (s.afterReset old p).syncDirty p
  if s.power p = 4 then (s.setPower p 0).powerFollow p else s

/-- A write of PAGE_CTRL: power, lock, block reset. -/
def State.pageCtrlWrite (s : State) (who p : Nat) (value : Word) (be : BitVec 4) : State :=
  s.writeWith who p PAGE_CTRL.off value be false (s.pageCtrlRule who p) (s.pageCtrlRecs who p) fun v t =>
    let t := ((t.wr p PAGE_CTRL_enable (PAGE_CTRL_enable.get v)).wr p PAGE_CTRL_sleep_req (PAGE_CTRL_sleep_req.get v)).powerFollow p
    let t := if v.getLsbD 31 then t.wr p PAGE_CTRL_lock 1 else t
    if v.getLsbD 1 then t.blockReset p else t

/-- PAGE_ENABLE, SLEEP_REQ (R54), BLOCK_RESET (R55), PAGE_LOCK (R57): writes of one field of PAGE_CTRL. -/
def execPageEnable (who : Actor) (p : Page) (on : Bool) (s : State) : Host.Outcome State Fault Refusal :=
  .next (s.pageCtrlWrite who.val p.val (s.fieldWrite p.val PAGE_CTRL_enable 0 (b2n on)) 15)
def execSleepReq (who : Actor) (p : Page) (on : Bool) (s : State) : Host.Outcome State Fault Refusal :=
  .next (s.pageCtrlWrite who.val p.val (s.fieldWrite p.val PAGE_CTRL_sleep_req 0 (b2n on)) 15)
def execBlockReset (who : Actor) (p : Page) (s : State) : Host.Outcome State Fault Refusal :=
  .next (s.pageCtrlWrite who.val p.val (s.fieldWrite p.val PAGE_CTRL_block_reset 0 1) 15)
def execPageLock (who : Actor) (p : Page) (s : State) : Host.Outcome State Fault Refusal :=
  .next (s.pageCtrlWrite who.val p.val (s.fieldWrite p.val PAGE_CTRL_lock 0 1) 15)


end Sys2Proof.Machine
end

