-- ==== Sys2Proof/Machine/Accounts.lean ====
section
/-! DEFINITION. The requests to the Custodian (R253 to R263, R296, R297): how one is taken, decided, applied and
answered, and its commands. -/

namespace Sys2Proof.Machine

/-- The message types of R260. -/
def reqCreate : Nat := 0x01
def reqGrant : Nat := 0x02
def reqRelease : Nat := 0x03
def reqActivate : Nat := 0x04
def reqQuiesce : Nat := 0x05
def reqReset : Nat := 0x06
def reqDestroy : Nat := 0x07
def reqDelegate : Nat := 0x08
def reqList : Nat := 0x20
def reqPerm : Nat := 0x21
def reqResult : Nat := 0x81

/-- The types that some request command takes by its own name. -/
def knownTypes : List Nat := [1, 2, 3, 4, 5, 6, 7, 8, 0x20, 0x21]

/-- Word `i` of a message. -/
def Msg.w (m : Msg) (i : Nat) : Word := m.getD i 0
def msgType (m : Msg) : Nat := (Msg.w m 0).toNat % 256
def msgSeq (m : Msg) : Nat := (Msg.w m 0).toNat / 2 ^ 24
def msgTarget (m : Msg) : Nat := (Msg.w m 2).toNat % 64

/-- The first failing check, in the order of the result codes (R262). -/
def firstCode : List (Nat × Bool) → Nat
  | [] => 0
  | (c, bad) :: t => if bad then c else firstCode t

/-- `who` may name account `a` in a request (R254): A0 every account not delegated, A16 itself and the delegated ones; that of a
trusted-world account is refused by a check of its own (R255, result 7). -/
def State.manages (s : State) (who a : Nat) : Bool :=
  decide (a < 32) && ((who == 0 && !(s.acct a).delegated) || (who == 16 && (a == 16 || (s.acct a).delegated)))

/-- A request about an account's life that names A0 or A16 (R256), or an account that the requester does not manage. -/
def State.notManaged (s : State) (who a : Nat) : Bool := !s.manages who a || a == 0 || a == 16

/-- The request as a grant or release. -/
def askOf (who : Nat) (m : Msg) : Ask :=
  ⟨who, msgTarget m, (Msg.w m 2).getLsbD 31, (Msg.w m 2).toNat / 256 % 256, m.drop 3⟩

/-- A request that may not use the sub-reserve flag: only A0 may (result 1), and only with A16 as target (result 5). -/
def Ask.subForeign (k : Ask) : Bool := k.sub && k.who != 0
def Ask.subTarget (k : Ask) : Bool := k.sub && k.tgt != 16

/-- The kind is one of R261. -/
def Ask.known (k : Ask) : Bool := decide (1 ≤ k.kind ∧ k.kind ≤ 12)

/-- A grant of pages for which the account has no free slot (result 6). -/
def State.noSlot (s : State) (k : Ask) : Bool := paged k.kind && !k.sub && !((s.applyGrant k).syncSlots k.tgt).2

/-- The request needs room in the ledger (result 10). -/
def State.noRoom (s : State) (who : Nat) : Bool := !s.room who

/-- The result of a request (R262). -/
def State.requestCode (s : State) (who : Nat) (m : Msg) : Nat :=
  let a := msgTarget m
  let k := askOf who m
  let tr := s.trustedAcct a
  let st := s.astate a
  let tail := [(7, tr), (10, s.noRoom who)]
  let t := msgType m
  if t = reqCreate then firstCode ([(1, s.notManaged who a), (2, st != 0)] ++ tail)
  else if t = reqActivate then firstCode ([(1, s.notManaged who a), (2, st != 2)] ++ tail)
  else if t = reqQuiesce then firstCode ([(1, s.notManaged who a), (2, st != 3)] ++ tail)
  else if t = reqReset then firstCode ([(1, !s.manages who a), (2, st == 0 || st == 5)] ++ tail)
  else if t = reqDestroy then firstCode ([(1, s.notManaged who a), (2, st == 0)] ++ tail)
  else if t = reqDelegate then
    firstCode ([(1, who != 0 || a == 0 || a == 16), (2, decide (a < 32) && st != 0), (5, decide (a < 17 ∨ 31 < a))] ++ tail)
  else if t = reqGrant then
    firstCode [(1, k.subForeign || !s.manages who a), (2, !k.sub && !([1, 2, 3, 4].contains st)), (3, k.known && s.taken k),
      (4, s.overReserve k), (5, k.subTarget || !k.known || s.badParams k), (6, s.noSlot k), (7, !k.sub && tr),
      (8, s.slotRefused k), (9, s.overWindows k), (10, s.noRoom who)]
  else if t = reqRelease then
    firstCode [(1, k.subForeign || !s.manages who a), (2, (!k.sub && st != 2) || (k.known && s.releaseBusy k)),
      (3, k.known && s.notHeld k), (5, k.subTarget || !k.known || s.badRelease k), (7, !k.sub && tr), (10, s.noRoom who)]
  else if t = reqList then firstCode [(1, !(s.manages who a || who == a)), (5, decide (11 < (Msg.w m 3).toNat % 16)), (7, tr && who != a),
    (10, s.noRoom who)]
  else if t = reqPerm then
    let r := (Msg.w m 3).toNat % 16
    firstCode [(1, !s.manages who a), (5, decide (11 < r) || (s.region a r).2.1 == 0 || (Msg.w m 3).toNat / 256 % 4 == 3), (7, tr), (10, s.noRoom who)]
  else 5

/-- A transition of R258 by the Custodian: state and passbook, STATE_CHANGE, the event-queue entry, the notice; the
night-safe page follows (R281). -/
def State.moveState (s : State) (a st : Nat) : State :=
  let old := s.astate a
  State.settle (((s.setState a st).powerFollow (accPage a 7)),
    [.event (accPage a 0) 2, .entry a (eventEntry 4 (accPage a 0) st 0 s.now), .notice a 1 old st])

/-- An admitted request that names account `a` (R262, R265): the grant generation advances, the slots and the passbook follow. -/
def State.genDone (s : State) (a : Nat) : State :=
  let old := s.rd (accPage a 0) ACC_GRANT_GEN_gen
  ((s.wr (accPage a 0) ACC_GRANT_GEN_gen ((old + 1) % 2 ^ 32)).syncSlots a).1.syncBook a

/-- A change of what an account holds (R262, R267): as for every admitted request, and a notice with the generations. -/
def State.grantDone (s : State) (a : Nat) : State :=
  let old := s.rd (accPage a 0) ACC_GRANT_GEN_gen
  State.settle (s.genDone a, [.notice a 2 old ((old + 1) % 2 ^ 32)])

/-- The header registers that a DESTROY returns to their resets (R259): all but the sticky bits, the owner and the power state. -/
def wipedHeader : List Nat :=
  [PAGE_CTRL.off, EVT_RAW.off, EVT_ENABLE.off, EVT_PENDING.off, EVT_VECTOR.off, FLT_CLASS0.off, FLT_CLASS1.off, FLT_INJECT.off,
   ESCROW_STATUS.off] ++ (List.range 8).map fun i => TALLY.off + 4 * i

/-- Registers of a page that a DESTROY returns to their resets (R259): the block's, the enables, pending bits and the
lock, the fault classes and the tallies; sticky bits stay, and so do a press's role, on its way to the reserve (R128), and the state of its mints
(R146, R147). -/
def State.wipe (s : State) (p : Nat) : State :=
  let hdr := wipedHeader.map (· / 4)
  let kept := fun k => (kindOf p).1 == .press && (k == MNT_P_ROLE.off / 4 || k == MNT_P_MINT_STATE.off / 4)
  let s := s.overRegs (fun k => k / 1024 == p && (decide (32 ≤ k % 1024) || hdr.contains (k % 1024)) && !kept (k % 1024)) fun k _ => regReset k
  let s := { s with tally := Tbl.drop (fun k => k / 8 == p) s.tally }
  let s := { s with applied := s.applied.filter fun e => e.1 % 2 ^ 22 / 1024 != p }
  s.wr p PAGE_STATUS_tally_seq 0

/-- A page that carries an output whose protected layer is enabled: no DESTROY takes the layer from it (R29, R97). -/
def State.carriesPl (s : State) (p : Nat) : Bool :=
  match kindOf p with
  | (.out 0, n) => (s.withPair n).any s.plApplied
  | (.out 6, n) => s.plApplied n
  | _ => false

/-- A page of the account wiped by DESTROY (R259): a unit bound statically is reset as by block_reset, and its header returns to reset. The
timing generator and the port of an output that shows a protected layer keep their block and their power (log 107). -/
def State.wipeStatic (s : State) (p : Nat) : State :=
  let held := s.carriesPl p
  let s := if held then s else s.blockReset p
  let hdr := (if held then wipedHeader.filter (· != PAGE_CTRL.off) else wipedHeader).map (· / 4)
  let s := s.overRegs (fun k => k / 1024 == p && hdr.contains (k % 1024)) fun k _ => regReset k
  ((s.wr p PAGE_CTRL_lock 0).wr p PAGE_STATUS_tally_seq 0).powerFollow p

/-- The pooled kinds of page. -/
def isPooled (p : Nat) : Bool :=
  match (kindOf p).1 with
  | .lay => true | .sclCtl => true | .sclCoef => true | .press => true
  | .aud k => 1 ≤ k && k ≤ 20
  | _ => false

/-- All that DESTROY clears and returns (R259), after the reset actions. -/
def State.destroyAll (s : State) (a : Nat) : State :=
  let mine := (List.range 2048).filter fun p => s.ownerAcct p == some a
  let pooled := mine.filter isPooled
  let s := pooled.foldl (fun (t : State) p =>
    let t := (t.movePage p (t.home p) none).wipe p
    if (kindOf p).1 == .press then t else t.powerFollow p) s
  let s := s.syncBranches
  let static := mine.filter fun p => !isPooled p && (match (kindOf p).1 with | .acc _ => false | _ => true)
  let s := static.foldl State.wipeStatic s
  let host := s.reg (fkey (accPage a 0) ACC_STATE 0) &&& 0x00030000
  let s := (List.range 16).foldl (fun (t : State) k => t.wipe (accPage a k)) s
  let s := s.setReg (fkey (accPage a 0) ACC_STATE 0) host
  let s := (List.range 12).foldl (fun (t : State) r => t.setRegion a r 0 0 0) s
  let s := ((s.rebase a).wr (memPage 19) MEM_RSV_RATE_rate 0 a).wr (memPage 19) MEM_RSV_DEPTH_depth 0 a
  let s := (List.range 8).foldl (fun (t : State) n => if (t.slotIndex n a).isSome then t.setSlot n a none else t) s
  let s := { s with subPool := [4, 5, 8, 9].foldl (fun t k => NatTbl.put t (64 * k + a + 64) 0) s.subPool }
  let c := s.acct a
  let s := s.setAcct a { c with queues := 0, credit := 0, creditUsed := 0, share := 0, legacy := false, notices := 0 }
  let s := { s with queues := Tbl.drop (fun k => k / 256 == a) s.queues, dropped := Tbl.drop (fun ch => ch == nsToCus a || ch == nsFromCus a) s.dropped }
  let s := s.overRegs (fun k => legPage a 0 ≤ k / 1024 && k / 1024 < legPage a 0 + 16) fun k _ => regReset k
  let s := { s with pwt := s.pwt.filter fun e => e.1 / 256 != a }
  let s := s.storeVault (passbook a) (List.replicate 4096 0)
  let s := s.syncVaultSpace
  let s := (State.settle ((s.syncFaults (accPage a 0)).syncDevice)).syncSafe
  (s.syncSlots a).1.syncBook a

/-- The commit state of account `a` beyond its registers is empty after a DESTROY; its night-safe page is OFF. -/
def State.endAccount (s : State) (a : Nat) : State := (s.destroyAll a).setPower (accPage a 7) 0

/-- The ledger entry of an admitted request (R303, R304): a grant, release, delegation, or a step of an account's life;
a RESET's entry is its own (R258). -/
def State.requestRec (s : State) (who : Nat) (m : Msg) : Rec :=
  ⟨s.orgOf who, clsOf who, 0xFFF, msgTarget m, Config.resourceWord (msgType m) (m.drop 2), BitVec.ofNat 32 (msgTarget m), 0x0B, msgType m⟩

/-- The first slot that a grant has mapped, or 0 (R260). -/
def State.firstMapped (s : State) (k : Ask) (fresh : List Nat) : Nat :=
  if k.sub then 0 else ((fresh.map (s.slotShowing k.tgt)).filter (· != 0)).foldl (fun m n => if m = 0 then n else min m n) 0

/-- An admitted request takes effect, after its entry; with word 4 of its RESULT. -/
def State.applyRequest (s : State) (who : Nat) (m : Msg) : State × Nat :=
  let a := msgTarget m
  let k := askOf who m
  let t := msgType m
  if t = reqCreate then
    let leg := (Msg.w m 2).getLsbD 8
    let s := (if leg then s.becomeLegacy a else s).genDone a
    (s.moveState a 1, 0)
  else if t = reqActivate then ((s.moveState a 3).genDone a, 0)
  else if t = reqQuiesce then ((s.moveState a 4).genDone a, 0)
  else if t = reqReset then ((State.settle (s.beginResetFrom (s.orgOf who) (clsOf who) a 2)).genDone a, 0)
  else if t = reqDestroy then
    let old := s.astate a
    let s := State.settle (s.resetActions a false)
    let s := State.settle (s, [.event (accPage a 0) 2, .notice a 1 old 0])
    (s.endAccount a, 0)
  else if t = reqDelegate then
    let d := (Msg.w m 3).getLsbD 0
    let old := (s.acct a).delegated
    let s := (s.setAcct a { s.acct a with delegated := d }).genDone a
    (State.settle (s, [.notice a 4 (b2n old) (b2n d)]), 0)
  else if t = reqGrant then
    let new := (k.pages.getD []).filter fun p => s.ownerAcct p != some a
    let s := (s.applyGrant k).grantDone a
    let s := if s.astate a = 1 ∧ !k.sub then s.moveState a 2 else s
    (s, s.firstMapped k new)
  else if t = reqRelease then ((s.applyRelease k).grantDone a, 0)
  else if t = reqList then (s.genDone a, 0)
  else
    let r := (Msg.w m 3).toNat % 16
    ((s.wr (cusPage 3) CUS_ACC_RGN_SIZE_perm ((Msg.w m 3).toNat / 256 % 4) (12 * a + r)).grantDone a, 0)

/-- The RESULT deposited for a request (R260, R279, R297); `more` holds the base and size pairs of a REGION_LIST, of which
the first six go with it and the others are counted. -/
def State.answer (s : State) (who : Nat) (m : Msg) (code w4 : Nat) (more : List Word) : State :=
  let list := msgType m == reqList && code == 0
  let left := if list then more.length / 2 - 6 else 0
  let ws : List Word := [nsHeader reqResult (if list then 14 else 3) (Config.custodianSeq s.fresh).toNat, BitVec.ofNat 32 (msgSeq m),
    BitVec.ofNat 32 (code + left * 256), BitVec.ofNat 32 (msgTarget m)]
  s.next.tell who (ws ++ (if list then (more ++ List.replicate 12 0).take 12 else [BitVec.ofNat 32 w4]))

/-- The base and size of each region that a REGION_LIST asks for (R297): those the account holds, from the number it selects. -/
def State.listRegions (s : State) (m : Msg) : List Word :=
  (List.range 12).flatMap fun r =>
    let (b, n, _) := s.region (msgTarget m) r
    if (Msg.w m 3).toNat % 16 ≤ r ∧ n ≠ 0 then [BitVec.ofNat 32 b, BitVec.ofNat 32 n] else []

/-- A request for a resource that is bound or held is recorded as refused (R19). -/
def State.recordTaken (s : State) (who : Nat) (m : Msg) : State :=
  if s.room who then s.log who [{ s.requestRec who m with kind := 0x03 }] else State.settle (s.refuseFull who)

/-- The Custodian decides one request (R262). -/
def State.decide1 (s : State) (who : Nat) (m : Msg) : State :=
  let code := s.requestCode who m
  if code = 10 then (State.settle (s.refuseFull who)).answer who m 10 0 []
  else if code ≠ 0 then (if code = 3 then s.recordTaken who m else s).answer who m code 0 []
  else
    let s := if msgType m = reqReset then s else s.log who [s.requestRec who m]
    let (s, w4) := s.applyRequest who m
    s.answer who m 0 w4 (s.listRegions m)

/-- A request that changes regions (R296): grants and releases of kinds 6 and 7, REGION_PERM, and a DESTROY. -/
def changesRegions (m : Msg) : Bool :=
  let t := msgType m
  t == reqPerm || t == reqDestroy || ((t == reqGrant || t == reqRelease) && regional ((Msg.w m 2).toNat / 256 % 256))

/-- The Custodian takes the oldest message of a requester's channel, if it runs, has released the manager, and the message
is of the type that the command names, or of none that R260 and R297 define. One that changes regions waits until every DRAM access
already admitted has completed (R296). -/
def State.serveRequest (s : State) (who type : Nat) : State :=
  if !s.cusUp || !s.boot.released then s
  else match s.safe (nsToCus who) with
    | [] => s
    | m :: _ =>
      if changesRegions m && !s.mem.waiting.isEmpty then s
      else if msgType m = type ∨ !(knownTypes.contains (msgType m)) then (s.popSafe (nsToCus who)).decide1 who m else s

/-- The requests of R260 and R297. -/
def execCreate (who : Acct) (s : State) : Host.Outcome State Fault Refusal := .next (s.serveRequest who.val reqCreate)
def execGrant (who : Acct) (s : State) : Host.Outcome State Fault Refusal := .next (s.serveRequest who.val reqGrant)
def execRelease (who : Acct) (s : State) : Host.Outcome State Fault Refusal := .next (s.serveRequest who.val reqRelease)
def execActivate (who : Acct) (s : State) : Host.Outcome State Fault Refusal := .next (s.serveRequest who.val reqActivate)
def execQuiesce (who : Acct) (s : State) : Host.Outcome State Fault Refusal := .next (s.serveRequest who.val reqQuiesce)
def execReset (who : Acct) (s : State) : Host.Outcome State Fault Refusal := .next (s.serveRequest who.val reqReset)
def execDestroy (who : Acct) (s : State) : Host.Outcome State Fault Refusal := .next (s.serveRequest who.val reqDestroy)
def execDelegate (who : Acct) (s : State) : Host.Outcome State Fault Refusal := .next (s.serveRequest who.val reqDelegate)
def execRegionList (who : Acct) (s : State) : Host.Outcome State Fault Refusal := .next (s.serveRequest who.val reqList)
def execRegionPerm (who : Acct) (s : State) : Host.Outcome State Fault Refusal := .next (s.serveRequest who.val reqPerm)

/-- A copy job of account `a` is queued or in progress (R258). -/
def State.jobsOf (s : State) (a : Nat) : Bool :=
  (List.range 16).any (fun e => match (s.engine e).job with | some j => j.acct == a | none => false)
    || s.jobs.any (·.acct == a)
    || (List.range 256).any fun q => s.qOn a q && s.qctl a q ACC_Q_CTRL_type == 0 && s.qTail a q != s.qHead a q

/-- QUIESCE_COMPLETE (R258): QUIESCING ends once no copy job and no commit of the account is left. -/
def execQuiesceComplete (a : Acct) (s : State) : Host.Outcome State Fault Refusal :=
  let st := s.reg (fkey (accPage a.val 1) ACC_COMMIT_STATUS 0)
  .next (
    if s.astate a.val ≠ 4 ∨ s.jobsOf a.val ∨ st &&& 3 ≠ 0 then s
    else
      let k := fkey (accPage a.val 0) ACC_STATE 0
      let (t, sg) := s.hwRaw k (s.reg k) (ACC_STATE_state.put (s.reg k) 2)
      (State.settle (t, sg)).moveState a.val 2)

/-- RESET_COMPLETE (R256, R258): ACTIVE after an FLR or the clearing of VF Enable if the account was, and always for A0 and
A16; GRANTED otherwise. -/
def execResetComplete (a : Acct) (s : State) : Host.Outcome State Fault Refusal :=
  .next (
    if s.astate a.val ≠ 5 then s
    else
      let cause := s.rd (accPage a.val 0) ACC_STATE_reset_cause
      let back := a.val = 0 ∨ a.val = 16 ∨ ((cause = 1 ∨ cause = 4) ∧ (s.acct a.val).before = 3)
      let st := if back then 3 else 2
      let k := fkey (accPage a.val 0) ACC_STATE 0
      let (t, sg) := s.hwRaw k (s.reg k) (ACC_STATE_state.put (s.reg k) st)
      (State.settle (t, sg)).moveState a.val st)

end Sys2Proof.Machine
end

