-- ==== Sys2Proof/Machine/Functions.lean ====
section
/-! DEFINITION. The PCI Express functions and ports (R251 to R253, R258, R281, R286, R398) and the passbook doorbells
(R266). -/

namespace Sys2Proof.Machine

/-- The function's own state reset (R284, R286): Bus Master Enable, and by an FLR the pending bits. -/
def State.functionReset (s : State) (a : Nat) (flr : Bool) : State :=
  s.setAcct a { s.acct a with busMaster := false, msixPending := if flr then 0 else (s.acct a).msixPending }

/-- The function's power state, as ACC_STATE shows it. -/
def State.setFunction (s : State) (a : Nat) (pw : Power) : State :=
  ((s.setAcct a { s.acct a with power := pw }).wr (accPage a 0) ACC_STATE_func_present (b2n (pw != .absent))).wr (accPage a 0)
    ACC_STATE_d3 (b2n (pw == .d3hot))

/-- One function is reset with a cause (R258, R286): its account, or, for a trusted-world account, only its PCIe state and
its queues. -/
def State.resetFunction (s : State) (a cause : Nat) : State :=
  let s := if s.trustedAcct a then s.dropQueues a else State.settle (s.beginReset a cause)
  s.functionReset a (cause == 1 || s.trustedAcct a)

/-- The accounts on the virtual functions of a port (R252). -/
def vfAccts (port : Nat) : List Nat := (List.range 15).map (· + 1 + 16 * port)

/-- VF Enable of a port clears (R286): every virtual function is reset with cause 4 and absent, and NumVFs shows none. -/
def State.clearVfs (s : State) (port : Nat) : State :=
  ((vfAccts port).foldl (fun (t : State) a => (t.resetFunction a 4).setFunction a .absent) s).wr (hstPage port) HST_PORT_STATUS_numvfs 0

/-- FLR (R258, R286): of the function's account; of a physical function, VF Enable clears as well. -/
def State.flrOf (s : State) (a : Nat) : State :=
  let s := s.resetFunction a 1
  if a = 0 then s.clearVfs 0 else if a = 16 then s.clearVfs 1 else s

def execFlr (a : Acct) (s : State) : Host.Outcome State Fault Refusal := .next (s.flrOf a.val)

/-- VF_ENABLE_CLEAR (R286). -/
def execVfEnableClear (port : Fin 2) (s : State) : Host.Outcome State Fault Refusal := .next (s.clearVfs port.val)

/-- PORT_RESET (R398): the link is down, and every function is reset as by an FLR of the physical function. -/
def execPortReset (port : Fin 2) (s : State) : Host.Outcome State Fault Refusal :=
  let a := 16 * port.val
  let s := (s.flrOf a).setFunction a .absent
  .next ((s.setReg (fkey (hstPage port.val) HST_PORT_STATUS 0) 0).setLevel (hstPage port.val) 0 true)

/-- PCIE_LINK_UP (R251, R404): a port with a reference clock comes up at a supported speed and width. -/
def execPcieLinkUp (port : Fin 2) (speed : Fin 8) (width : Fin 64) (s : State) : Host.Outcome State Fault Refusal :=
  let p := hstPage port.val
  .next (
    if !([3, 4, 5].contains speed.val) || !([1, 2, 4, 8].contains width.val) || s.boot.noClock.contains port.val || !s.boot.awake then s
    else
      let s := (s.wr p HST_PORT_STATUS_speed speed.val).wr p HST_PORT_STATUS_width width.val
      (s.wr p HST_PORT_STATUS_link_up 1).setLevel p 0 false)

/-- FUNCTION_D3 (R253, R281): in D3hot the account's night-safe page goes to SLEEP. -/
def execFunctionD3 (a : Acct) (cold : Bool) (s : State) : Host.Outcome State Fault Refusal :=
  let p := accPage a.val 7
  .next (
    if (s.acct a.val).power = .absent then s
    else if cold then s.setFunction a.val .d3cold
    else
      let s := s.setFunction a.val .d3hot
      if s.powerGoal p = 3 then (s.wr p PAGE_CTRL_sleep_req 1).powerFollow p else s)

/-- FUNCTION_D0 (R253): the function is enabled and masters the bus; the interrupts held are sent. -/
def execFunctionD0 (a : Acct) (s : State) : Host.Outcome State Fault Refusal :=
  let s := s.setFunction a.val .d0
  let c := s.acct a.val
  let p := hstPage (a.val / 16)
  let s := if a.val % 16 = 0 then s else s.wr p HST_PORT_STATUS_numvfs (max (s.rd p HST_PORT_STATUS_numvfs) (a.val % 16))
  .next (s.setAcct a.val { c with busMaster := true, msixSent := c.msixSent + popcount c.msixPending 64, msixPending := 0 })

/-- A write of ACC_PB_DOORBELL (R266): the tenant's bit of the manager's ACC_PB_PENDING, and PB_REQUEST there; a trusted-world account
has no manager to ring (R254, R255). -/
def State.pbDoorbellWrite (s : State) (who a : Nat) (value : Word) (be : BitVec 4) : State :=
  s.writeWith who (accPage a 0) ACC_PB_DOORBELL.off value be true (fun _ => .ok) (fun _ => []) fun v t =>
    if ACC_PB_DOORBELL_ring.get v = 0 ∨ t.trustedAcct a then t
    else
      let m := accPage (t.manager a) 0
      (t.wr m ⟨0x08C, 4, a, a⟩ 1).raise m 0

def execPbDoorbell (who : Actor) (a : Acct) (s : State) : Host.Outcome State Fault Refusal :=
  .next (s.pbDoorbellWrite who.val a.val 1 15)

/-- A write of ACC_PB_RING (R266): PB_RESPONSE in the page of a tenant that the writer manages. -/
def State.pbRingWrite (s : State) (who a : Nat) (value : Word) (be : BitVec 4) : State :=
  s.writeWith who (accPage a 0) ACC_PB_RING.off value be true
    (fun v => if s.manages a (ACC_PB_RING_account.get v) && !s.trustedAcct (ACC_PB_RING_account.get v) then .ok else .range) (fun _ => []) fun v t =>
      t.raise (accPage (ACC_PB_RING_account.get v) 0) 1

def execPbRing (who : Actor) (tenant : BitVec 6) (s : State) : Host.Outcome State Fault Refusal :=
  .next (if who.val = 32 then s else s.pbRingWrite who.val who.val (tenant.setWidth 32) 15)

end Sys2Proof.Machine
end

