-- ==== Sys2Proof/Machine/Queues.lean ====
section
/-! DEFINITION. Queues (R268 to R274, R287): enabling, disabling, doorbells, the interrupt timer, and how a unit takes an
entry from a host-to-device ring. -/

namespace Sys2Proof.Machine

/-- The queue types of R268. -/
def qSubmit : Nat := 0
def qCompletion : Nat := 1
def qEvent : Nat := 2
def qAudioIn : Nat := 3
def qAudioOut : Nat := 4
def qTouch : Nat := 5
def qHaptic : Nat := 6

/-- The type of queue `q`; an enabled queue of a type. -/
def State.qType (s : State) (a q : Nat) : Nat := s.qctl a q ACC_Q_CTRL_type
def State.qIs (s : State) (a q type : Nat) : Bool := s.qOn a q && s.qType a q == type

/-- The host produces the entries of a type (R268): its doorbell sets the tail. -/
def hostToDevice (type : Nat) : Bool := type == qSubmit || type == qAudioOut || type == qHaptic

/-- The account holds the unit that a queue type serves (R270, R333, R364, and the haptic channels' owner). -/
def State.unitFor (s : State) (a type : Nat) : Bool :=
  if type = qAudioIn then !(s.ownedBy a (fun g => audPage (13 + g)) 8).isEmpty
  else if type = qAudioOut then !(s.ownedBy a (fun g => audPage (1 + g)) 12).isEmpty || s.ownerAcct (audPage 23) == some a
  else if type = qTouch then !(s.ownedBy a tchPage 4).isEmpty || a == 0 && (List.range 4).any fun b => s.owner (tchPage b) == ownReserve
  else if type = qHaptic then !(s.ownedBy a hapPage 8).isEmpty
  else true

/-- An account's state accepts queue enables and escrow writes (R257). -/
def State.accepts (s : State) (a : Nat) : Bool := [2, 3, 4].contains (s.astate a)

/-- The enabling write of queue `q` is in order (R257, R269, R270), in the state that holds the written register. -/
def State.queueOk (s : State) (a q : Nat) : Bool :=
  let n := s.qctl a q ACC_Q_CTRL_log2size
  let type := s.qType a q
  s.accepts a && decide (q < (s.acct a).queues) && decide (type ≤ 6 ∧ 1 ≤ n ∧ n ≤ 16)
    && s.qBase a q % (64 * s.qSize a q) == 0
    && s.inRegions a (s.qctl a q ACC_Q_CTRL_space) (s.qBase a q) (64 * s.qSize a q)
    && (type != qSubmit || s.qIs a (s.qctl a q ACC_Q_CTRL_cq) qCompletion)
    && s.unitFor a type

/-- The rule of a write to queue `q`'s configuration registers at offset `off` (R270). -/
def State.queueRule (s : State) (a q off : Nat) (v : Word) : Rule :=
  let p := qPage a q
  let k := fkey p ACC_Q_CTRL (q % 128)
  let on := s.qOn a q
  let ok := fun (b : Bool) => if b then Rule.ok else .range
  if off = ACC_Q_CTRL.off + 16 * (q % 128) then
    let t := s.setReg k (s.produced p off v)
    if on then
      ok (ACC_Q_CTRL_en.put (t.reg k) 1 == s.reg k &&
        (t.qOn a q || !(s.qType a q == qCompletion && (List.range 256).any fun r => s.qIs a r qSubmit && s.qctl a r ACC_Q_CTRL_cq == q)))
    else ok (!t.qOn a q || t.queueOk a q)
  else if off = ACC_Q_INT.off + 16 * (q % 128) then .ok
  else ok (!on)

/-- Queue `q` stopped at once (R270): entries of a host-to-device queue not yet taken are discarded. -/
def State.stopQueue (s : State) (a q : Nat) : State :=
  let s := s.wr (qPage a q) ACC_Q_CTRL_en 0 (q % 128)
  let st := s.queue (256 * a + q)
  let s := s.setQueue (256 * a + q) { st with since := 0, first := none, lost := false }
  let k := 256 * a + q
  let s := s.setStream k { s.stream k with entry := [], pos := 0, ahead := [] }
  if hostToDevice (s.qType a q) then s.setTail a q (s.qHead a q) else s

/-- A write of a queue's configuration register. -/
def State.queueWrite (s : State) (who a q off : Nat) (value : Word) (be : BitVec 4) : State :=
  let p := qPage a q
  s.writeWith who p off value be false (s.queueRule a q off) (s.writeRec who p off) fun v t =>
    let was := t.qOn a q
    let t := t.store p off v
    if !was && t.qOn a q then
      ((t.setHead a q 0).setTail a q 0).setQueue (256 * a + q) { t.queue (256 * a + q) with since := 0, first := none, lost := false }
    else if was && !t.qOn a q then t.stopQueue a q else t

/-- QUEUE_ENABLE and QUEUE_DISABLE (R270). -/
def execQueueEnable (who : Actor) (a : Acct) (q : Fin 256) (s : State) : Host.Outcome State Fault Refusal :=
  .next (s.queueWrite who.val a.val q.val (ACC_Q_CTRL.off + 16 * (q.val % 128))
    (s.fieldWrite (qPage a.val q.val) ACC_Q_CTRL_en (q.val % 128) 1) 15)

def execQueueDisable (who : Actor) (a : Acct) (q : Fin 256) (s : State) : Host.Outcome State Fault Refusal :=
  .next (s.queueWrite who.val a.val q.val (ACC_Q_CTRL.off + 16 * (q.val % 128))
    (s.fieldWrite (qPage a.val q.val) ACC_Q_CTRL_en (q.val % 128) 0) 15)

/-- The rule of a doorbell write (R257, R271). -/
def State.doorbellRule (s : State) (a q : Nat) (v : Nat) : Rule :=
  let ok := fun (b : Bool) => if b then Rule.ok else .range
  if !s.qOn a q then .range
  else if hostToDevice (s.qType a q) then
    ok (decide (idxDiff v (s.qHead a q) ≤ s.qSize a q) && decide (idxDiff v (s.qTail a q) ≤ s.qSize a q)
      && (s.qType a q != qSubmit || s.astate a == 3))
  else ok (decide (idxDiff v (s.qHead a q) ≤ idxDiff (s.qTail a q) (s.qHead a q)))

/-- A write of ACC_Qq_DB (R271, R272). -/
def State.doorbellWrite (s : State) (who a q : Nat) (value : Word) (be : BitVec 4) : State :=
  s.writeWith who (accPage a 3) (ACC_Q_DB.off + 8 * q) value be true (fun v => s.doorbellRule a q v.toNat) (fun _ => []) fun v t =>
    if hostToDevice (t.qType a q) then t.setTail a q v.toNat else t.setHead a q v.toNat

/-- QUEUE_DOORBELL (R271). -/
def execQueueDoorbell (who : Actor) (a : Acct) (q : Fin 256) (index : Word) (s : State) : Host.Outcome State Fault Refusal :=
  .next (s.doorbellWrite who.val a.val q.val index 15)

/-- QUEUE_INT_TIMER (R273): the message is due time_us after the first entry since the last one. -/
def execQueueIntTimer (a : Acct) (q : Fin 256) (s : State) : Host.Outcome State Fault Refusal :=
  let k := 256 * a.val + q.val
  let st := s.queue k
  .next (match st.first with
    | none => s
    | some t =>
      if s.qctl a.val q.val ACC_Q_INT_irq_en = 0 ∨ s.now < t + s.qctl a.val q.val ACC_Q_INT_time_us * 1000 then s
      else (s.setQueue k { st with since := 0, first := none }).msix a.val (s.qctl a.val q.val ACC_Q_INT_vector))

/-- QUEUE_ERROR of an account (R287): the event and the fault source of its ACC page 6. -/
def State.queueError (s : State) (a : Nat) : State := (s.raise (accPage a 6) 0).fault (accPage a 6) 0

/-- A ring access that raises QUEUE_ERROR stops a queue other than a submit queue (R287). -/
def State.queueStop (s : State) (a q : Nat) : State := (s.stopQueue a q).queueError a

/-- An entry written by a device unit (class 4): dropped and counted on a full ring; an access that is blocked stops the
queue with QUEUE_ERROR. -/
def State.ringWrite (s : State) (a q : Nat) (bytes : List Byte) : State :=
  State.settle (s.ringPut a q 4 bytes)

/-- The address of the entry at the head of a ring, and whether its read must wait for the DRAM or its owner's window (R237, R239). -/
def State.headAt (s : State) (a q : Nat) : Nat := s.qBase a q + 64 * (s.qHead a q % s.qSize a q)
def State.headWaits (s : State) (a q : Nat) : Bool :=
  s.qctl a q ACC_Q_CTRL_space == 0 && s.dramReady && !s.unitMay a (s.headAt a q)

/-- The entry at the head of a host-to-device ring, read with class `cls`, not yet taken; an audio ring's comes through RT10 (R232). -/
def State.headEntry (s : State) (a q cls : Nat) : State × Except MemErr (List Byte) :=
  s.readMem a cls (s.qctl a q ACC_Q_CTRL_space) (s.headAt a q) 64 (if s.qctl a q ACC_Q_CTRL_type = 4 then some 10 else none)

/-- The entry at the head taken (R287: TALLY1 of ACC page 6). -/
def State.takeEntry (s : State) (a q : Nat) : State := (s.setHead a q (s.qHead a q + 1)).count (accPage a 6) 1

/-- Entries are waiting in a host-to-device ring. -/
def State.qWaiting (s : State) (a q : Nat) : Bool := s.qOn a q && s.qTail a q != s.qHead a q

end Sys2Proof.Machine
end

