-- ==== Sys2Proof/Machine/CopyEngine.lean ====
section
/-! DEFINITION. The copy engines (R275 to R277): jobs, chunks, completions, and the commands. How far a chunk has come when its
engine is next looked at is time: a free number of its blocks move as the engine takes it, the rest by CHUNK_DONE (log 72). -/

namespace Sys2Proof.Machine

/-- `n` bytes of an entry from offset `o`, little-endian. -/
def field (e : List Byte) (o n : Nat) : Nat := ofLeBytes ((e.drop o).take n)

/-- A submit queue entry as a job (R275). -/
def jobOf (a q index cq ident : Nat) (e : List Byte) : Job :=
  ⟨a, q, index, field e 0 1, field e 1 1, field e 4 4, field e 8 8, field e 16 8, field e 24 4, field e 28 4, field e 32 4,
   field e 36 4, field e 40 8, 0, none, cq, 0, ident⟩

/-- The spaces of a job's source and destination. -/
def Job.srcSpace (j : Job) : Nat := j.flags / 4 % 4
def Job.dstSpace (j : Job) : Nat := j.flags / 16 % 4

/-- The entry is valid (R275): a listed op, reserved fields 0, spaces and sizes in range. -/
def jobValid (e : List Byte) (j : Job) : Bool :=
  decide (1 ≤ j.op ∧ j.op ≤ 4) && field e 2 2 == 0 && field e 48 16 == 0 && decide (j.flags < 64)
    && (j.op == 4 || j.dstSpace != 3) && (j.op != 1 || j.srcSpace != 3)
    && (2 < j.op || decide (1 ≤ j.width ∧ j.width ≤ 65536 ∧ 1 ≤ j.lines ∧ j.lines ≤ 16384))

/-- The bytes that a job writes. -/
def Job.total (j : Job) : Nat := if j.op ≤ 2 then j.width * j.lines else if j.op = 3 then 4 else 0

/-- What engines take of a job in chunks: its bytes, or one unit of a job that moves none. -/
def Job.span (j : Job) : Nat := max 1 j.total

/-- Same job. -/
def Job.same (j k : Job) : Bool := j.ident == k.ident

/-- A job in the list replaced. -/
def State.setJob (s : State) (j : Job) : State := { s with jobs := s.jobs.map fun k => if k.same j then j else k }

/-- The status that a failed access gives (R276). -/
def statusOf : MemErr → Nat
  | .firewall => 1 | .capacity => 1 | .tagArea => 1 | .poison => 2 | .uncorrectable => 2 | .failed => 2

/-- A read of a job (R275): host memory through the account's own function, device memory as class 1. -/
def State.jobRead (s : State) (a space addr n : Nat) : State × Except Nat (List Byte) :=
  if space = 2 then
    if !(s.acct a).busMaster || (s.acct a).power != .d0 || Config.hostFails a addr s.fresh then (s.next, .error 4)
    else (s.next, .ok ((List.range n).map fun i => Config.hostByte a (addr + i) s.fresh))
  else
    let (t, r) := s.readMem a 1 space addr n
    (t, match r with | .ok b => .ok b | .error e => .error (statusOf e))

/-- A write of a job; what host memory then holds is the host's. -/
def State.jobWrite (s : State) (a space addr : Nat) (data : List Byte) : State × Option Nat :=
  if space = 2 then
    if !(s.acct a).busMaster || (s.acct a).power != .d0 || Config.hostFails a addr s.fresh then (s.next, some 4) else (s.next, none)
  else
    let (t, e) := s.writeMem a 1 space addr data
    (t, e.map statusOf)

/-- The next piece of a job from byte `pos`: its source and destination addresses and its length, at most `room` bytes,
within one line and one 64-byte block of the destination. -/
def Job.piece (j : Job) (pos room : Nat) : Nat × Nat × Nat :=
  let (y, x) := (pos / j.width, pos % j.width)
  let d := j.dst + y * j.dstStride + x
  (j.src + y * j.srcStride + x, d, min (min room (j.width - x)) (64 - d % 64))

/-- The bytes of a FILL at position `x` of its line. -/
def Job.pattern (j : Job) (x n : Nat) : List Byte :=
  (List.range n).map fun i => (leBytes 8 j.value).getD ((x + i) % 8) 0

/-- The access of a job at byte `pos`, at most `room` bytes, may be served now: DRAM active, and in strict mode within the owner's
windows (R237, R239, R277). -/
def State.pieceReady (s : State) (j : Job) (pos room : Nat) : Bool :=
  let (src, dst, n) := j.piece pos room
  let ok := fun space addr n => space != 0 || !s.dramReady || s.maySpan j.acct addr n
  j.op == 4 || (if j.op = 3 then ok j.dstSpace j.dst 4 else ok j.dstSpace dst n && (j.op != 1 || ok j.srcSpace src n))

/-- Pieces of a COPY or FILL moved from byte `pos` on, up to `upto` or to the first that must wait; `fuel` bounds their number. With the
byte reached and the status of a failure. -/
def State.move (s : State) (j : Job) : Nat → Nat → Nat → State × Nat × Option Nat
  | 0, _, pos => (s, pos, none)
  | fuel + 1, upto, pos =>
    if upto ≤ pos ∨ !s.pieceReady j pos (upto - pos) then (s, pos, none)
    else
      let (src, dst, n) := j.piece pos (upto - pos)
      let (s, r) := if j.op = 1 then s.jobRead j.acct j.srcSpace src n else (s, .ok (j.pattern (pos % j.width) n))
      match r with
      | .error st => (s, pos, some st)
      | .ok bs =>
        let (s, w) := s.jobWrite j.acct j.dstSpace dst bs
        match w with
        | some st => (s, pos, some st)
        | none => s.move j fuel upto (pos + n)

/-- A job's bytes from `pos` to `upto`, in at most `fuel` pieces (R275): with the byte reached, the bytes written, and the status of a
failure. -/
def State.runJob (s : State) (j : Job) (fuel upto pos : Nat) : State × Nat × Nat × Option Nat :=
  if j.op ≤ 2 then
    let (s, p, st) := s.move j fuel upto pos
    (s, p, p - pos, st)
  else if upto ≤ pos ∨ fuel = 0 ∨ !s.pieceReady j pos 4 then (s, pos, 0, none)
  else if j.op = 3 then
    let (s, w) := s.jobWrite j.acct j.dstSpace j.dst (leBytes 4 j.value)
    if w.isSome then (s, pos, 0, w) else (s, upto, 4, none)
  else (s, upto, 0, none)

/-- The job of an engine as the list of jobs has it. -/
def State.engineJob (s : State) (e : Nat) : Option Job :=
  match (s.engine e).job with
  | none => none
  | some k => s.jobs.find? k.same

/-- An engine moves on with its chunk (R277), in at most `fuel` pieces: a failure ends the job, and what must wait for the DRAM or a window
is held (R237, R239). -/
def State.runChunk (s : State) (e fuel : Nat) : State :=
  match s.engineJob e with
  | none => s
  | some j =>
    let v := s.engine e
    let s := s.dropHeld (.engine e)
    let (s, pos, n, st) := if j.status.isSome then (s, v.upto, 0, none) else s.runJob j fuel v.upto v.pos
    let j := { j with written := j.written + n, status := match j.status with | some x => some x | none => st }
    let s := (s.setJob j).setEngine e { s.engine e with pos := if st.isSome then v.upto else pos }
    if st.isNone && decide (pos < v.upto) && !s.pieceReady j pos (v.upto - pos) then s.holdUnit j.acct none (.engine e) else s

/-- Free entries of a completion queue that no job has reserved (R276): none of one that is disabled. -/
def State.cqFree (s : State) (a c : Nat) : Nat :=
  if s.qIs a c qCompletion then s.qSize a c - idxDiff (s.qTail a c) (s.qHead a c) - (s.queue (256 * a + c)).reserved else 0

/-- A completion entry (R276). -/
def State.completion (s : State) (j : Job) (status : Nat) : List Byte :=
  leBytes 4 j.tag ++ leBytes 2 j.queue ++ leBytes 1 status ++ [0] ++ leBytes 8 j.written ++ leBytes 8 s.now ++ List.replicate 40 0

/-- A completion entry is due: wanted, or the job failed (R276). -/
def Job.reports (j : Job) (status : Nat) : Bool := j.flags % 2 == 1 || status != 0

/-- A job leaves the engines (R276, R287): its completion written if it is due, its reservation given back, COPY_ERROR for statuses 1
and 2. -/
def State.finishJob (s : State) (j : Job) (status : Nat) : State :=
  let a := j.acct
  let st := s.queue (256 * a + j.cq)
  let s := { s with jobs := s.jobs.filter fun k => !k.same j }
  let s := s.setQueue (256 * a + j.cq) { st with reserved := st.reserved - 1 }
  let s := if j.reports status then State.settle (s.ringPut a j.cq 1 (s.completion j status)) else s
  let s := (s.count (accPage a 0) 0).count (accPage a 0) 1 (cdiv j.written 64)
  if status = 1 ∨ status = 2 then s.fault (accPage a 0) 1 else s

/-- Some engine still runs a chunk of the job. -/
def State.running1 (s : State) (j : Job) : Bool :=
  (List.range 16).any fun e => match (s.engine e).job with | some k => k.same j | none => false

/-- The ended jobs of a submit queue completed in submission order; a completion waits for its queue while that is disabled (R276). -/
def State.completeJobs (s : State) (a q : Nat) : Nat → State
  | 0 => s
  | n + 1 =>
    match s.jobs.find? fun j => j.acct == a && j.queue == q with
    | none => s
    | some j => match j.status with
      | none => s
      | some st =>
        if s.running1 j || (j.reports st && !s.qIs a j.cq qCompletion) then s else (s.finishJob j st).completeJobs a q n

/-- Every submit queue's ended jobs completed. -/
def State.completeAll (s : State) : State :=
  ((s.jobs.map fun j => (j.acct, j.queue)).eraseDups).foldl (fun (t : State) (e : Nat × Nat) => t.completeJobs e.1 e.2 256) s

/-- The next entry of a submit queue taken as a job (R275, R276, R287). An invalid entry, or one whose read is blocked,
completes with status 3. -/
def State.takeJob (s : State) (a q : Nat) : State :=
  let c := s.qctl a q ACC_Q_CTRL_cq
  let idx := s.qHead a q
  let (s, r) := s.headEntry a q 1
  let s := s.takeEntry a q
  let st := s.queue (256 * a + c)
  let s := s.setQueue (256 * a + c) { st with reserved := st.reserved + 1 }
  let id := s.fresh
  let s := s.next
  match r with
  | .ok e =>
    let j := jobOf a q idx c id e
    if jobValid e j then { s with jobs := s.jobs ++ [j] }
    else ({ s with jobs := s.jobs ++ [{ j with status := some 3 }] } : State).queueError a
  | .error _ => ({ s with jobs := s.jobs ++ [{ jobOf a q idx c id [] with status := some 3 }] } : State).queueError a

/-- The jobs of a queue that are taken and not yet completed. -/
def State.jobsIn (s : State) (a q : Nat) : List Job := s.jobs.filter fun j => j.acct == a && j.queue == q

/-- A job has bytes left that no engine has taken. -/
def Job.open_ (j : Job) : Bool := j.status.isNone && decide (j.taken < j.span)

/-- The job of a queue whose next chunk may run: the earliest with bytes left, unless it waits on earlier jobs (R275). -/
def State.startable (s : State) (a q : Nat) : Option Job :=
  let js := s.jobsIn a q
  match js.find? Job.open_ with
  | none => none
  | some j =>
    let first := match js.head? with | some k => k.same j | none => true
    if (j.op = 3 ∨ j.flags / 2 % 2 = 1) ∧ !first then none else some j

/-- The next entry of the ring may be taken: no job of the queue still has bytes to be started, and the completion queue
has a free entry. -/
def State.mayTake (s : State) (a q : Nat) : Bool :=
  s.qIs a q qSubmit && s.qWaiting a q && ((s.jobsIn a q).all fun j => !j.open_)
    && decide (0 < s.cqFree a (s.qctl a q ACC_Q_CTRL_cq))

/-- Queue `q` has a chunk for engine `e`; entries are taken from the ring up to a job that may start. -/
def State.offer (s : State) (e a q : Nat) : Nat → State × Option Job
  | 0 => (s, none)
  | n + 1 =>
    match s.startable a q with
    | some j => (s, some j)
    | none =>
      if !s.mayTake a q then (s, none)
      else if s.headWaits a q then (s.holdUnit a none (.engine e), none)
      else ((s.takeJob a q).completeJobs a q 1).offer e a q n

/-- The numbers from after `last`, round-robin below `n`. -/
def roundFrom (last n : Nat) : List Nat := (List.range n).map fun i => (last + 1 + i) % n

/-- The first chunk that the submit queues of an account offer, in the given order. -/
def State.offerQueues (s : State) (e a : Nat) : List Nat → State × Option Job
  | [] => (s, none)
  | q :: qs =>
    match s.offer e a q 64 with
    | (s, some j) => (s, some j)
    | (s, none) => s.offerQueues e a qs

/-- The first chunk that accounts offer, in the given order. -/
def State.offerAccts (s : State) (e : Nat) : List Nat → State × Option Job
  | [] => (s, none)
  | a :: t =>
    let qs := (roundFrom (NatTbl.at_ (s.engine e).lastQ a + 255) 256).filter fun q => s.qType a q == qSubmit && (s.qOn a q || !(s.jobsIn a q).isEmpty)
    match s.offerQueues e a qs with
    | (s, some j) => (s, some j)
    | (s, none) => s.offerAccts e t

/-- The accounts that engine `e` serves, in order (R277): all in shared mode, the one of the present turn in strict mode. -/
def State.engineAccts (s : State) (e : Nat) : List Nat :=
  if s.strict then [e + 16 * b2n (s.engine e).upper] else roundFrom (s.engine e).lastAcct 32

/-- The engine's status register (HST_CEj_STATUS). -/
def State.syncEngine (s : State) (e : Nat) : State :=
  let p := hstPage (2 + e / 2)
  match (s.engine e).job with
  | none => s.wr p HST_CE_STATUS_busy 0 (e % 2)
  | some j => ((s.wr p HST_CE_STATUS_busy 1 (e % 2)).wr p HST_CE_STATUS_account j.acct (e % 2)).wr p HST_CE_STATUS_queue j.queue (e % 2)

/-- An engine takes the next chunk of a job (R277): at most 64 KiB. -/
def State.giveChunk (s : State) (e : Nat) (j : Job) : State :=
  let upto := min (j.taken + 65536) j.span
  let v := s.engine e
  ((s.setJob { j with taken := upto }).setEngine e
    { v with job := some j, pos := j.taken, upto := upto, lastAcct := j.acct, lastQ := NatTbl.put v.lastQ j.acct (j.queue + 1) }).syncEngine e

/-- A free engine takes the next chunk, if its job is one that `f` admits, and moves a free number of its blocks at once (R277). -/
def State.takeChunk (s : State) (e : Nat) (f : Job → Bool) : State :=
  if (s.engine e).job.isSome then s
  else
    let s := (s.dropHeld (.engine e)).completeAll
    match s.offerAccts e (s.engineAccts e) with
    | (s, none) => s
    | (s, some j) => if !f j then s else (s.giveChunk e j).next.runChunk e (Config.chunkBlocks s.fresh).toNat

/-- COPY, FILL, SIGNAL and NOP (R275): a free engine takes the next chunk in its order, of a job of that kind. -/
def execCopy (e : Fin 16) (s : State) : Host.Outcome State Fault Refusal := .next (s.takeChunk e.val (·.op == 1))
def execFill (e : Fin 16) (s : State) : Host.Outcome State Fault Refusal := .next (s.takeChunk e.val (·.op == 2))
def execSignal (e : Fin 16) (s : State) : Host.Outcome State Fault Refusal := .next (s.takeChunk e.val (·.op == 3))
def execNop (e : Fin 16) (s : State) : Host.Outcome State Fault Refusal := .next (s.takeChunk e.val (·.op == 4))

/-- An engine's chunk ends: counted, the engine's parity check; a job whose last bytes are moved is done, and the jobs of its queue that
have ended are completed. -/
def State.endChunk (s : State) (e : Nat) : State :=
  match (s.engine e).job with
  | none => s
  | some k =>
    let p := hstPage (2 + e / 2)
    let s := ((s.setEngine e { s.engine e with job := none }).syncEngine e).count p (e % 2)
    let s := match s.useInject p 0 with
      | (t, some _) => t.fault p 0
      | (t, none) => t
    let s := match s.jobs.find? k.same with
      | none => s
      | some j => if j.status.isNone && decide (j.taken = j.span) && !s.running1 j then s.setJob { j with status := some 0 } else s
    s.completeJobs k.acct k.queue 256

/-- The engine's chunk goes on to its end, if nothing holds it. -/
def State.engineGo (s : State) (e : Nat) : State :=
  let s := s.runChunk e 65537
  if (s.engine e).upto ≤ (s.engine e).pos then s.endChunk e else s

/-- CHUNK_DONE (R277): the rest of the chunk moves, the chunk ends, and the engine takes the next one; one that must wait for the DRAM or
a window goes on as it is served (R237, R239). -/
def execChunkDone (e : Fin 16) (s : State) : Host.Outcome State Fault Refusal :=
  .next (
    if (s.engine e.val).job.isNone then s
    else
      let s := s.engineGo e.val
      if (s.engine e.val).job.isSome then s else s.takeChunk e.val fun _ => true)

/-- An engine's chunk stopped at the block it has reached: the rest is to be taken again (R277). -/
def State.stopChunk (s : State) (e : Nat) : State :=
  match s.engineJob e with
  | none => s
  | some j =>
    let v := s.engine e
    if v.upto ≤ v.pos then s.endChunk e
    else (((s.setJob { j with taken := v.pos }).setEngine e { v with job := none }).dropHeld (.engine e)).syncEngine e

/-- CE_TURN (R277): in strict mode, once the turn has lasted HST_CE_TURN.us, the engine turns to the other account; a chunk
stops at the block it has reached, and its job goes on in its account's next turn. -/
def execCeTurn (e : Fin 16) (s : State) : Host.Outcome State Fault Refusal :=
  let v := s.engine e.val
  .next (
    if !s.strict ∨ s.now < v.turnAt + s.rd (hstPage 2) HST_CE_TURN_us * 1000 then s
    else
      let s := s.stopChunk e.val
      let v := s.engine e.val
      (s.setEngine e.val { v with upper := !v.upper, turnAt := s.now }).takeChunk e.val fun _ => true)

end Sys2Proof.Machine
end

