-- ==== Sys2Proof/Machine/Haptics.lean ====
section
/-! DEFINITION. The haptic channels (R349 to R363): the coil check, the thermal model, the trip, play requests and their
decision, the segments of an effect, the two loops, and the handover between them. -/

namespace Sys2Proof.Machine

/-- The unit of the drive command: full-scale drive is 2^20. -/
def hapOne : Int := 1048576

/-- A quotient with a positive divisor; which way an inexact one is rounded is open. -/
def hapDiv (n : Int) (d : Nat) : Int := n / (d : Int) + (if n % (d : Int) = 0 then 0 else if Config.hapUp n d then 1 else 0)

/-- The account that a page's unit acts for (R17, R254): its owner, A0 for the open reserve, A16 for its sub-reserve. -/
def State.unitActor (s : State) (p : Nat) : Option Nat :=
  match s.ownerAcct p with
  | some a => some a
  | none => if s.owner p = ownReserve then some 0 else if s.owner p = ownSub then some 16 else none

/-- HAP_STATUS.state, and the PWM frequency in kHz. -/
def State.hapState (s : State) (h : Nat) : Nat := s.rd (hapPage h) HAP_STATUS_state
def State.setHapState (s : State) (h v : Nat) : State := s.wr (hapPage h) HAP_STATUS_state v
def State.hapKhz (s : State) (h : Nat) : Nat := s.rd (hapPage h) HAP_PWM_freq_khz

/-- Requests discarded, counted in TALLY1 (R354, R357, R363). -/
def State.hapDiscard (s : State) (h n : Nat) : State := s.count (hapPage h) 1 n

/-- The channel stops at once, its waiting requests discarded, and takes a state. -/
def State.hapHalt (s : State) (h st : Nat) : State :=
  let n := (s.hap h).reqs.length
  ((s.hapOff h).setHapState h st).hapDiscard h n

/-- The device is in the device safe state (R320, R321). -/
def State.deviceSafe (s : State) : Bool := s.rd (fltPage 2) FLT_SAFE_STATUS_device == 1

/-! Enabling, the coil check, the trip (R352, R354). -/

/-- How long a channel's trip pin has been high without interruption, in ns (R354). -/
def State.pinHigh (s : State) (h : Nat) : Nat := if s.rd (hapPage h) HAP_TRIP_pin = 1 then 0 else s.now - (s.hap h).rose

/-- A coil check begins: c = +0.05 for 1 ms; in the device safe state the gates stay off (R320). -/
def State.coilCheck (s : State) (h : Nat) : State :=
  let s := (s.hapOff h).setHapState h 1
  let c := hapDiv hapOne 20
  s.setHap h { s.hap h with c := c, cmd := c, bridge := !s.deviceSafe, checkAt := s.now }

/-- Column `c` is granted to the owner of page `p` (R362). -/
def State.colFor (s : State) (p c : Nat) : Bool := s.owner (audPage (13 + c / 8)) == s.owner p

/-- The channel's own rule of a write to its registers (R360, R362, and the bounds of HAP_RES); while it plays or stops, a
write may change en alone. `highNs` is how long the trip pin has been high. -/
def State.hapRule (s : State) (h off highNs : Nat) (v : Word) : Rule :=
  let p := hapPage h
  let k := regKey p off
  let ok := fun (b : Bool) => if b then Rule.ok else .range
  let new := s.produced p off v
  let busy := s.hapState h == 3 || s.hapState h == 4
  if busy && !(off == HAP_CTRL.off && HAP_CTRL_en.put new (s.rd p HAP_CTRL_en) == s.reg k) then .range
  else if off = HAP_CTRL.off then
    ok (HAP_CTRL_src.get v == 0 || s.colFor p (HAP_CTRL_col.get v))
  else if off = HAP_RES.off then ok (decide (HAP_RES_f_min.get v ≤ HAP_RES_f_max.get v))
  else if off = HAP_TRIP.off then (if v.getLsbD 31 && decide (highNs < 10000) then .locked else .ok)
  else if HAP_TRIG.off ≤ off ∧ off < HAP_TRIG.off + 16 then
    ok (s.owner (tchPage (HAP_TRIG_bank.get v)) == s.owner p && (HAP_TRIG_en.get v == 0 || HAP_TRIG_event.get v != 0)
      && (HAP_TRIG_kind.get v == 0 || decide (HAP_TRIG_index.get v < 8)))
  else .ok

/-- The tracked frequency brought within the bounds of HAP_RES (R351). -/
def State.clampFreq (s : State) (h : Nat) : State :=
  let p := hapPage h
  let f := (clamp (s.rd p HAP_RES_f_min * 1000 : Nat) (s.rd p HAP_RES_f_max * 1000 : Nat) ((s.hap h).freq : Int)).toNat
  (s.setHap h { s.hap h with freq := f }).wr p HAP_STATUS_res_hz (f / 1000)

/-- The source of c changes (R362): the requests that wait, load or are ready are discarded; an idle channel's bridge is off until the
new source drives it. -/
def State.srcChanged (s : State) (h : Nat) : State :=
  let v := s.hap h
  let n := v.reqs.length + b2n v.loading.isSome + b2n v.ready.isSome
  let v : HapS := { v with reqs := [], loading := none, ready := none, parked := false }
  let v : HapS := if s.hapState h = 1 then v else { v with c := 0, cmd := 0, bridge := false }
  (s.setHap h v).hapDiscard h n

/-- A write of a channel's registers, with what enabling, disabling, a change of source and a trip clear do. -/
def State.hapWrite (s : State) (who h off : Nat) (value : Word) (be : BitVec 4) (highNs : Nat) : State :=
  let p := hapPage h
  s.writeWith who p off value be false (s.hapRule h off highNs) (s.writeRec who p off) fun v t =>
    if off = HAP_TRIP.off then
      if !v.getLsbD 31 then t
      else
        ((t.wr p HAP_TRIP_latched 0).setLevel p 0 false).coilCheck h
    else
      let was := t.rd p HAP_CTRL_en
      let src := t.rd p HAP_CTRL_src
      let t := t.store p off v
      let on := t.rd p HAP_CTRL_en
      let t := if src = t.rd p HAP_CTRL_src then t else t.srcChanged h
      if was = on then (if off = HAP_RES.off ∧ on = 1 then t.clampFreq h else t)
      else if on = 0 then t.hapHalt h 0
      else
        let t := t.setHap h { t.hap h with freq := t.rd p HAP_RES_f_min * 1000, barred := false, parked := false }
        let t := t.wr p HAP_STATUS_res_hz (t.rd p HAP_RES_f_min)
        if t.rd p HAP_TRIP_latched = 1 then t.setHapState h 5 else t.coilCheck h

/-- HAPTIC_ENABLE (R352). -/
def execHapticEnable (who : Actor) (h : Fin 8) (s : State) : Host.Outcome State Fault Refusal :=
  .next (s.hapWrite who.val h.val HAP_CTRL.off (s.fieldWrite (hapPage h.val) HAP_CTRL_en 0 1) 15 0)

/-- HAP_TRIP_CLEAR (R354): `highNs` is how long the pin has been high without interruption, 0 where the pin has not changed. -/
def execHapTripClear (who : Actor) (h : Fin 8) (highNs : Nat) (s : State) : Host.Outcome State Fault Refusal :=
  let p := hapPage h.val
  let s := if highNs = 0 then s else (s.wr p HAP_TRIP_pin 0).setHap h.val { s.hap h.val with rose := s.now - highNs }
  .next (s.hapWrite who.val h.val HAP_TRIP.off (s.fieldWrite p HAP_TRIP_clr 0 1) 15 (if highNs = 0 then s.pinHigh h.val else highNs))

/-- HAP_TRIP (R354): the gates off, the latch, the level source and the event. -/
def execHapTrip (h : Fin 8) (s : State) : Host.Outcome State Fault Refusal :=
  let p := hapPage h.val
  let s := s.wr p HAP_TRIP_pin 1
  let s := s.hapHalt h.val (if s.rd p HAP_CTRL_en = 1 then 5 else 0)
  .next (if s.rd p HAP_TRIP_latched = 1 then s
    else (((s.wr p HAP_TRIP_latched 1).count p 4).setLevel p 0 true).raise p 1)

/-! Play requests (R356, R357, R360). -/

/-- A play request arrives: discarded and counted while the channel is off, halted, over temperature, in the safe state or
fed by the audio unit; else it waits for the next PWM period boundary. DEDUCED (log 122): outside the safe state a request resumes a channel that the
audio unit feeds, though it plays nothing itself (R361, R362). -/
def State.hapAsk (s : State) (h : Nat) (r : HapReq) : State :=
  let st := s.hapState h
  let s := if s.deviceSafe then s else s.setHap h { s.hap h with parked := false }
  if st = 0 ∨ s.rd (hapPage h) HAP_CTRL_en = 0 ∨ st = 5 ∨ s.level (16 * hapPage h + 4) ∨ s.deviceSafe ∨ s.rd (hapPage h) HAP_CTRL_src = 1 then s.hapDiscard h 1
  else s.setHap h { s.hap h with reqs := (s.hap h).reqs ++ [r] }

/-- Request `a` ranks before the later request `b`, or with it. -/
def HapReq.before (a b : HapReq) : Bool := decide (b.prio < a.prio) || (a.prio == b.prio && (a.touch || !b.touch))

/-- The request ranked first: higher priority, then touch triggers, then arrival. -/
def hapFirst : List HapReq → Option HapReq
  | [] => none
  | r :: rs => match hapFirst rs with
    | none => some r
    | some q => if r.before q then some r else some q

/-- The requests of a period decided (R357): the first replaces the effect playing, or the one being loaded, if its
priority is at least that effect's. -/
def State.hapDecide (s : State) (h : Nat) : State :=
  let v := s.hap h
  match hapFirst v.reqs with
  | none => s
  | some r =>
    let n := v.reqs.length
    let s := s.setHap h { v with reqs := [] }
    let v := s.hap h
    let cur := match v.loading, v.ready, v.play with
      | some q, _, _ => some q | none, some q, _ => some q.1 | none, none, some q => some q | none, none, none => none
    let wins := match cur with | none => true | some q => decide (q.prio ≤ r.prio)
    if wins then
      let lost := if v.loading.isSome || v.ready.isSome then 1 else 0
      (s.setHap h { v with loading := some r, ready := none }).hapDiscard h (n - 1 + lost)
    else s.hapDiscard h n

/-! Effects (R355, R358). -/

/-- A segment word is in range. -/
def segOk (w : Nat) : Bool :=
  let dur := w % 1024
  let amp := w / 1024 % 1024
  let f := w / 2 ^ 21
  decide (1 ≤ dur) && decide (amp ≤ 1000) && (f == 0 || decide (40 ≤ f ∧ f ≤ 1000))

/-- The words of an access of the channel to the owner's vault regions, class 4; none where it is outside them, blocked
or poisoned. -/
def State.hapRead (s : State) (h addr words : Nat) : State × Option (List Nat) :=
  match s.unitActor (hapPage h) with
  | none => (s, none)
  | some a =>
    if !s.inRegions a 1 addr (4 * words) then (s, none)
    else match s.readMem a 4 1 addr (4 * words) with
      | (s, .ok bs) => (s, some ((List.range words).map fun i => ofLeBytes ((bs.drop (4 * i)).take 4)))
      | (s, .error _) => (s, none)

/-- The segments of effect `e`. -/
def State.effectSegs (s : State) (h e : Nat) : State × Option (List Nat) :=
  let p := hapPage h
  if s.rd p HAP_LIB_COUNT_count ≤ e then (s, none)
  else match s.hapRead h (s.rd p HAP_LIB_offset * 64 + 4 * e) 1 with
    | (s, none) => (s, none)
    | (s, some ws) =>
      let at_ := ws.headD 0 / 64 % 2 ^ 20 * 64
      match s.hapRead h at_ 1 with
      | (s, none) => (s, none)
      | (s, some hd) =>
        let n := hd.headD 0 % 256
        if n = 0 ∨ 64 < n then (s, none)
        else match s.hapRead h (at_ + 4) n with
          | (s, none) => (s, none)
          | (s, some segs) => if segs.all segOk then (s, some segs) else (s, none)

/-- EFFECT_LOAD (R355): the image of the request decided has been read; its drive begins at the next PWM period. -/
def execEffectLoad (h : Fin 8) (s : State) : Host.Outcome State Fault Refusal :=
  .next (match (s.hap h.val).loading with
    | none => s
    | some r =>
      let s := s.setHap h.val { s.hap h.val with loading := none }
      match s.effectSegs h.val r.effect with
      | (s, none) => s.fault (hapPage h.val) 5
      | (s, some segs) => s.setHap h.val { s.hap h.val with ready := some (r, segs) })

/-- The fields of the segment in progress: duration, amplitude, ramp, frequency. -/
def HapS.dur (v : HapS) : Nat := v.segs.getD v.seg 0 % 1024
def HapS.level (v : HapS) : Nat := v.segs.getD v.seg 0 / 1024 % 1024
def HapS.ramps (v : HapS) : Bool := (v.segs.getD v.seg 0).testBit 20
def HapS.fixed (v : HapS) : Nat := v.segs.getD v.seg 0 / 2 ^ 21

/-- The target of the segment in progress, as a fraction of full scale; 0 once the effect is stopping. -/
def State.hapTarget (s : State) (h : Nat) : Int :=
  let v := s.hap h
  if s.hapState h ≠ 3 then 0
  else
    let g : Int := ((v.play.map (·.gain)).getD 0 : Nat)
    let total := v.dur * s.hapKhz h
    if v.ramps then
      hapDiv (((v.prev : Int) * total + ((v.level : Int) - v.prev) * ((total - v.left : Nat) : Int)) * g * hapOne) (256000 * total)
    else hapDiv ((v.level : Int) * g * hapOne) 256000

/-- The open-loop command (R358): overdrive, the target, or the brake in antiphase. -/
def State.openCmd (s : State) (h : Nat) : Int :=
  let v := s.hap h
  let full := hapDiv ((s.rd (hapPage h) HAP_OL_od_level : Int) * hapOne) 1000
  if s.hapState h = 4 then -full else if 0 < v.od then full else s.hapTarget h

/-- The closed-loop command from an error and the integrator (R358). -/
def State.closedCmd (s : State) (h : Nat) (e i : Int) : Int :=
  clamp (-hapOne) hapOne (hapDiv (e * (s.rd (hapPage h) HAP_CL_kp : Int)) 64 + i)

/-- The closed loop is in force (R359). -/
def State.hapClosed (s : State) (h : Nat) : Bool := s.rd (hapPage h) HAP_STATUS_loop == 1

/-- HAP_PLAY as the effect in play says. -/
def State.syncPlay (s : State) (h : Nat) : State :=
  let v := s.hap h
  let p := hapPage h
  match v.play with
  | none => s.setReg (fkey p HAP_PLAY 0) 0
  | some r => (((s.wr p HAP_PLAY_effect r.effect).wr p HAP_PLAY_segment v.seg).wr p HAP_PLAY_prio r.prio).wr p HAP_PLAY_touch (b2n r.touch)

/-- A ramp begins where the commands differ by more than 0.25 (R359). -/
def rampFrom (old new : Int) : Option (Int × Nat) := if 4 * (new - old).natAbs > hapOne.natAbs then some (old, 0) else none

/-- HAP_STATUS.ramp as the channel stands. -/
def State.syncRamp (s : State) (h : Nat) : State := s.wr (hapPage h) HAP_STATUS_ramp (b2n (s.hap h).ramp.isSome)

/-- The effect that was loaded begins (R357, R358): from idle with overdrive, or in place of the one playing. -/
def State.hapStart (s : State) (h : Nat) : State :=
  let v := s.hap h
  match v.ready with
  | none => s
  | some (r, segs) =>
    let p := hapPage h
    let idle := v.play.isNone
    let v := (s.clampFreq h).hap h
    let v : HapS := if idle then { v with peak := 0, env := 0, amp := none, lastAmp := 0 } else v
    let v := { v with ready := none, play := some r, segs := segs, seg := 0, prev := 0, reps := r.rep, cycles := 0, stalled := 0,
                      brake := 0, quiet := 0, ramp := none, bridge := true,
                      od := if idle then s.rd p HAP_OL_od_cycles else 0, phase := if idle then 0 else v.phase }
    let v := { v with left := v.dur * s.hapKhz h }
    let s := (((s.clampFreq h).setHap h v).setHapState h 3).count p 0
    let cmd := if s.hapClosed h then s.closedCmd h (s.hapTarget h - v.env) v.integ else s.openCmd h
    let s := s.setHap h { v with cmd := cmd, ramp := if idle then none else rampFrom v.c cmd }
    (s.syncPlay h).syncRamp h

/-- The effect has stopped: the bridge off, the channel idle, EFFECT_DONE (R358). -/
def State.hapDone (s : State) (h : Nat) : State :=
  let v := s.hap h
  let s := (s.setHap h { v with play := none, segs := [], seg := 0, left := 0, cmd := 0, c := 0, integ := 0, bridge := false, ramp := none,
                                brake := 0, od := 0 }).setHapState h 2
  ((s.syncPlay h).syncRamp h).raise (hapPage h) 0

/-- The effect ends and the stop begins (R358); a ramp is cancelled (R359). -/
def State.hapEnd (s : State) (h : Nat) : State :=
  let v := s.hap h
  let n := s.rd (hapPage h) HAP_OL_brake_cycles
  let s := (s.setHap h { v with brake := n * s.hapKhz h * 1000000, endAmp := v.lastAmp, quiet := 0, ramp := none, reps := 0, od := 0 }).setHapState h 4
  let s := s.syncRamp h
  if n = 0 then s.hapDone h
  else if s.hapClosed h then s else s.setHap h { s.hap h with cmd := s.openCmd h }

/-- The effect stops at once with the bridge off (R353, R363). -/
def State.hapCut (s : State) (h st : Nat) : State :=
  let reqs := (s.hap h).reqs
  let s := (s.hapOff h).setHapState h st
  if st = 5 then s.hapDiscard h reqs.length else s.setHap h { s.hap h with reqs := reqs }

/-- A fields' check of a haptic-effect entry (R356). -/
def State.hapEntryOk (s : State) (a : Nat) (b : List Byte) : Bool :=
  (field b 0 1 == 1 || field b 0 1 == 2) && field b 1 1 == 0 && decide (field b 2 1 < 8)
    && s.ownerAcct (hapPage (field b 2 1)) == some a && decide (field b 3 1 < 4) && decide (field b 6 2 ≤ 256)
    && (b.drop 9).all (· == 0)

/-- The entry at the head of a haptic-effect queue, if the device takes it: the account is ACTIVE, and the entry is of
operation `op`. An entry with any other value, or a ring access that fails, stops the queue with QUEUE_ERROR. -/
def State.hapEntry (s : State) (a q op : Nat) (eff : List Byte → State → State) : State :=
  if !s.qWaiting a q || s.qType a q != qHaptic || s.astate a != 3 then s
  else if s.headWaits a q then s.holdUnit a none .other
  else match s.headEntry a q 4 with
    | (s, .error _) => s.queueStop a q
    | (s, .ok b) =>
      if !s.hapEntryOk a b then s.queueStop a q
      else if field b 0 1 ≠ op then s
      else
        let s := s.takeEntry a q
        if s.deviceSafe then s.hapDiscard (field b 2 1) 1 else eff b s

/-- HAPTIC_PLAY (R356). -/
def execHapticPlay (a : Acct) (q : Fin 256) (s : State) : Host.Outcome State Fault Refusal :=
  .next (s.hapEntry a.val q.val 1 fun b t =>
    t.hapAsk (field b 2 1) ⟨false, field b 3 1, field b 4 2, field b 6 2, field b 8 1⟩)

/-- HAPTIC_STOP (R356, R357). -/
def execHapticStop (a : Acct) (q : Fin 256) (s : State) : Host.Outcome State Fault Refusal :=
  .next (s.hapEntry a.val q.val 2 fun b t => if t.hapState (field b 2 1) = 3 then t.hapEnd (field b 2 1) else t)

/-- COIL_CHECK_DONE (R352), 1 ms after the check began, with the mean of voltage over current that the senses give: requests that waited are
decided. The check of a channel that is not enabled leaves it off; a coil found missing or shorted lets no effect play until en is written. -/
def execCoilCheckDone (h : Fin 8) (milliohm : Nat) (s : State) : Host.Outcome State Fault Refusal :=
  let p := hapPage h.val
  .next (
    if s.hapState h.val ≠ 1 ∨ s.now < (s.hap h.val).checkAt + 1000000 then s
    else
      let on := s.rd p HAP_CTRL_en == 1
      let bad := 100000 < milliohm || milliohm < 500
      let s := s.wr p HAP_COIL_r_mohm (min milliohm 0xFFFFF)
      let s := s.setHap h.val { s.hap h.val with bridge := false, c := 0, cmd := 0, barred := (s.hap h.val).barred || bad }
      if 100000 < milliohm then ((s.wr p HAP_COIL_result 2).hapHalt h.val (if on then 5 else 0)).fault p 1
      else if milliohm < 500 then ((s.wr p HAP_COIL_result 3).hapHalt h.val (if on then 5 else 0)).fault p 2
      else if !on then (s.wr p HAP_COIL_result 1).hapHalt h.val 0
      else if s.level (16 * p + 4) || (s.hap h.val).barred then (s.wr p HAP_COIL_result 1).hapHalt h.val 5
      else ((s.wr p HAP_COIL_result 1).setHapState h.val 2).hapDecide h.val)

/-! The bridge (R350, R351). -/

/-- The segment in progress tracks resonance. -/
def State.hapTracks (s : State) (h : Nat) : Bool :=
  (s.hap h).play.isSome && (s.hap h).fixed == 0 && s.rd (hapPage h) HAP_RES_track_en == 1

/-- The frequency of the drive cycle in mHz: the segment's, or the one tracked. -/
def HapS.drive (v : HapS) : Nat := if v.fixed = 0 then v.freq else v.fixed * 1000

/-- The bridge is in the gap around a zero crossing of the drive (R351): HAP_SENSE.gap_us centred on the crossing, while a
segment tracks resonance. The phase is in cycles of `hapKhz × 10^6`. -/
def State.hapGap (s : State) (h : Nat) : Bool :=
  let v := s.hap h
  let half := s.hapKhz h * 500000
  let off := v.phase % half
  s.hapTracks h && decide (2 * min off (half - off) * 1000000000 ≤ s.rd (hapPage h) HAP_SENSE_gap_us * (2 * half) * v.drive)

/-- The sine of a phase in a full cycle, in units of 2^-20: the series of the sine on a quarter of the cycle, in binary fractions of 40 places
(R351 gives the drive no number format, log 84). -/
def sine (phase full : Nat) : Int :=
  let q := 4 * phase / full % 4
  let r := 4 * phase % full
  let x := 1727108826179 * (if q % 2 = 1 then full - r else r) / full
  let t := x * x / 2 ^ 40
  let k := fun (d n : Nat) => 2 ^ 40 - t * n / 2 ^ 40 / d
  let y := x * k 6 (k 20 (k 42 (k 72 (k 110 (k 156 (2 ^ 40)))))) / 2 ^ 40
  let v : Int := (((y + 2 ^ 19) / 2 ^ 20 : Nat) : Int)
  if 2 ≤ q then -v else v

/-- The drive of the present period: during an effect a sine of the drive frequency modulated onto c (R351); else c. -/
def State.hapWave (s : State) (h : Nat) : Int :=
  let v := s.hap h
  if v.play.isNone then v.c else hapDiv (v.c * sine v.phase (s.hapKhz h * 1000000)) 1048576

/-- A gate pair's part in a period (R350): how long the leg's high side is wanted, and since when, at the period's start, its high and its low
side are low. -/
structure Leg where
  on : Nat
  hs : Nat
  ls : Nat
  deriving DecidableEq, Repr

/-- The high side rises in the period: its partner has been low for the dead time before its part ends. -/
def Leg.rises (l : Leg) (dead : Nat) : Bool := decide (0 < l.on) && decide (dead < l.on + l.ls)

/-- When the low side rises: after the high side's part, and the dead time after the high side fell. -/
def Leg.lowFrom (l : Leg) (dead : Nat) : Nat := max l.on (if l.rises dead then l.on + dead else dead - l.hs)

/-- The high and the low side at `ns` into the period. -/
def Leg.gates (l : Leg) (dead ns : Nat) : Bool × Bool :=
  (decide (ns < l.on) && decide (dead ≤ ns + l.ls), decide (l.lowFrom dead ≤ ns))

/-- How long ago, at the end of a period of `full` ns, the high and the low side were high. -/
def Leg.after (l : Leg) (dead full : Nat) : Nat × Nat :=
  (min 10000 (if l.rises dead then full - l.on else l.hs + full), min 10000 (if l.lowFrom dead < full then 0 else l.ls + full))

/-- The legs of a channel in the present period: for |c| of it the pair of c's sign is wanted, for the rest both low sides; none while the
bridge is off or in a gap. -/
def State.hapLegs (s : State) (h : Nat) : Option (Leg × Leg) :=
  let v := s.hap h
  let c := s.hapWave h
  let on := c.natAbs * 1000000 / (s.hapKhz h * 1048576)
  let g := fun (i : Nat) => v.ago.getD i 10000
  if !v.bridge || s.hapGap h then none else some (⟨if 0 < c then on else 0, g 0, g 1⟩, ⟨if c < 0 then on else 0, g 2, g 3⟩)

/-- The dead time in ns. -/
def State.hapDead (s : State) (h : Nat) : Nat := s.rd (hapPage h) HAP_PWM_dead * 10

/-- The four gates HSA, LSA, HSB and LSB at `ns` into the present period: a gate rises only HAP_PWM.dead after its leg partner fell, in this
period or the one before (R350). -/
def State.hapGates (s : State) (h ns : Nat) : Bool × Bool × Bool × Bool :=
  match s.hapLegs h with
  | none => (false, false, false, false)
  | some (a, b) => ((a.gates (s.hapDead h) ns).1, (a.gates (s.hapDead h) ns).2, (b.gates (s.hapDead h) ns).1, (b.gates (s.hapDead h) ns).2)

/-- The gates at the boundary that ends the present period. -/
def State.gatesEnd (s : State) (h : Nat) : State :=
  let v := s.hap h
  let full := 1000000 / s.hapKhz h
  let ago := match s.hapLegs h with
    | none => v.ago.map fun t => min 10000 (t + full)
    | some (a, b) =>
      let (x, y) := (a.after (s.hapDead h) full, b.after (s.hapDead h) full)
      [x.1, x.2, y.1, y.2]
  s.setHap h { v with ago := ago }

/-! The PWM period (R350 to R359). -/

/-- The thermal model (R353): the modelled rise after a period with an RMS current in mA; OVERTEMP halts the channel until
the rise falls below 0.8 of the limit. -/
def State.hapThermal (s : State) (h currentMa : Nat) : State :=
  let p := hapPage h
  let v := s.hap h
  let heat : Int := (currentMa * currentMa * s.rd p HAP_COIL_r_mohm * s.rd p HAP_THERM_rth : Nat)
  let rise := (v.rise + hapDiv (heat - 10 * (v.rise : Int)) (10 * s.hapKhz h * 1000 * s.rd p HAP_THERM_tau_s)).toNat
  let s := (s.setHap h { v with rise := rise }).wr p HAP_THERM_STATUS_rise (min 0xFFFF (rise / 10000000))
  let limit := s.rd p HAP_THERM_rise_max * 1000000000
  if limit ≤ rise then
    let s := if s.hapState h = 2 ∨ s.hapState h = 3 ∨ s.hapState h = 4 then s.hapCut h 5
      else if s.hapState h = 1 then (s.setHap h { s.hap h with reqs := [] }).hapDiscard h (s.hap h).reqs.length else s
    s.setLevel p 4 true
  else if s.level (16 * p + 4) && decide (10 * rise < 8 * limit) then
    let s := s.setLevel p 4 false
    if s.hapState h = 5 ∧ s.rd p HAP_TRIP_latched = 0 ∧ s.rd p HAP_COIL_result = 1 ∧ !(s.hap h).barred then s.setHapState h 2 else s
  else s

/-- The tracked frequency corrected at the end of a cycle in which the induced voltage was sampled (R351): at most 2 %,
and within f_min to f_max. -/
def State.hapTrack (s : State) (h : Nat) : State :=
  let p := hapPage h
  let v := s.hap h
  if v.fixed ≠ 0 ∨ s.rd p HAP_RES_track_en = 0 ∨ v.amp.isNone then s
  else
    let m : Nat := v.freq * 2 / 100
    let step : Int := (((Config.hapStep s.fresh).toNat % (2 * m + 1) : Nat) : Int) - m
    let f := (clamp (s.rd p HAP_RES_f_min * 1000 : Nat) (s.rd p HAP_RES_f_max * 1000 : Nat) ((v.freq : Int) + step)).toNat
    (s.next.setHap h { v with freq := f }).wr p HAP_STATUS_res_hz (f / 1000)

/-- Stall detection at the end of a cycle (R353): from the 5th cycle and while |c| is at least 0.25. -/
def State.hapStall (s : State) (h : Nat) : State :=
  let p := hapPage h
  let v := s.hap h
  let kv := s.rd p HAP_ACT_kv
  match v.amp with
  | none => s
  | some a =>
    if kv = 0 ∨ v.cycles < 5 ∨ 4 * v.c.natAbs < hapOne.natAbs then s.setHap h { v with stalled := 0 }
    else if 10 * a * hapOne.natAbs < 3 * kv * v.c.natAbs then
      if 3 ≤ v.stalled + 1 then (s.hapCut h 2).fault p 3 else s.setHap h { v with stalled := v.stalled + 1 }
    else s.setHap h { v with stalled := 0 }

/-- The end of a half-cycle in closed loop (R358): the acceleration envelope, the error, the integrator, the command. -/
def State.hapHalf (s : State) (h : Nat) : State :=
  let p := hapPage h
  let v := s.hap h
  let a := hapDiv ((v.peak : Int) * 100 * hapOne) (s.rd p HAP_ACC_SCALE_counts_per_g * s.rd p HAP_CL_target_fs)
  let v := { v with quiet := if 20 * a < hapOne then v.quiet + 1 else 0 }
  if !s.hapClosed h then s.setHap h { v with peak := 0, env := a }
  else
    let e := s.hapTarget h - a
    let i := v.integ + hapDiv (e * (s.rd p HAP_CL_ki : Int)) 256
    s.setHap h { v with peak := 0, env := a, integ := i, cmd := s.closedCmd h e i }

/-- The end of a drive cycle: tracking, stall detection, and the progress of overdrive. An amplitude sampled in the gap in progress stays. -/
def State.hapCycle (s : State) (h : Nat) : State :=
  let v := s.hap h
  let s := s.setHap h { v with cycles := v.cycles + 1, od := v.od - 1 }
  let s := s.hapTrack h
  let s := if s.hapState h = 3 then s.hapStall h else s
  s.setHap h { s.hap h with amp := if (s.hap h).inGap then (s.hap h).amp else none }

/-- The stop goes on by one period (R358): it is over after brake_cycles cycles, or, in closed loop, once the envelope has stayed low for
2 cycles. -/
def State.hapBrake (s : State) (h : Nat) : State :=
  let v := s.hap h
  if (s.hapClosed h && decide (4 ≤ v.quiet)) || decide (v.brake ≤ v.drive) then s.hapDone h
  else s.setHap h { v with brake := v.brake - v.drive }

/-- The phase advances by one PWM period, through the ends of half-cycles and cycles. -/
def State.hapPhase (s : State) (h : Nat) : State :=
  let v := s.hap h
  let full := s.hapKhz h * 1000000
  let now := v.phase + v.drive
  let s := s.setHap h { v with phase := now % full }
  let s := if (v.phase < full / 2 ∧ full / 2 ≤ now) ∨ full ≤ now then s.hapHalf h else s
  let s := if full ≤ now then s.hapCycle h else s
  if s.hapState h = 4 then s.hapBrake h else s

/-- The time of the segment in progress advances by one PWM period; after the last segment a repeat, or the end. -/
def State.hapSegment (s : State) (h : Nat) : State :=
  let v := s.hap h
  if 1 < v.left then s.setHap h { v with left := v.left - 1 }
  else
    let go := fun (v : HapS) => (s.setHap h { v with left := v.dur * s.hapKhz h }).syncPlay h
    let v' := { v with prev := v.level, left := 0 }
    if v.seg + 1 < v.segs.length then go { v' with seg := v.seg + 1 }
    else if 0 < v.reps then go { v' with seg := 0, reps := v.reps - 1 }
    else (s.setHap h v').hapEnd h

/-- The loop that HAP_CTRL.mode and the accelerometer ask for; a legacy account's channels run open loop (R359). -/
def State.loopGoal (s : State) (h : Nat) : Bool :=
  s.rd (hapPage h) HAP_CTRL_mode == 1 && s.rd (hapPage h) HAP_CTRL_en == 1 && (s.hap h).accValid
    && !(match s.ownerAcct (hapPage h) with | some a => (s.acct a).legacy | none => false)

/-- The handover at a period boundary (R359), logged and counted. -/
def State.hapHandover (s : State) (h : Nat) : State :=
  let p := hapPage h
  let goal := s.loopGoal h
  if goal = s.hapClosed h then s
  else
    let v := s.hap h
    let s := ((s.hwField p HAP_STATUS_loop (b2n goal)).count p (if goal then 3 else 2)).raise p 2
    if v.play.isNone then s
    else
      let i := if goal then v.cmd else v.integ
      let new := if goal then s.closedCmd h (s.hapTarget h - v.env) i else s.openCmd h
      (s.setHap h { s.hap h with integ := i, cmd := new, ramp := rampFrom v.c new }).syncRamp h

/-- The drive command of the period that begins: the loop's command, through a ramp of 4 ms. -/
def State.hapDrive (s : State) (h : Nat) : State :=
  let v := s.hap h
  if v.play.isNone then s
  else
    let cmd := if s.hapClosed h then v.cmd else s.openCmd h
    let n := 4 * s.hapKhz h
    let v : HapS := match v.ramp with
      | none => { v with cmd := cmd, c := cmd }
      | some (from_, k) =>
        if n ≤ k + 1 then { v with cmd := cmd, c := cmd, ramp := none }
        else { v with cmd := cmd, c := from_ + hapDiv ((cmd - from_) * (k + 1 : Nat)) n, ramp := some (from_, k + 1) }
    (s.setHap h v).syncRamp h

/-- An injected driver fault of the period (R357) cuts the bridge. -/
def State.pwmInjected (s : State) (h : Nat) : State :=
  let r := s.useInject (hapPage h) 6
  if r.2.isSome then (r.1.hapCut h (if r.1.hapState h = 3 ∨ r.1.hapState h = 4 then 2 else r.1.hapState h)).fault (hapPage h) 6
  else r.1

/-- The induced voltage sampled in the period that ends (R351): in a gap its peak is the induced amplitude. A gap that has ended gives the
amplitude that ends an open-loop stop early, below 10 % of its value at the effect's end (R358). -/
def State.pwmSampled (s : State) (h : Nat) (emf : Option Int) : State :=
  let v := s.hap h
  let g := s.hapGap h
  if g then
    match emf with
    | none => s.setHap h { v with inGap := true }
    | some e =>
      let a := max e.natAbs (if v.inGap then v.amp.getD 0 else 0)
      s.setHap h { v with inGap := true, amp := some a, lastAmp := a }
  else
    let s := s.setHap h { v with inGap := false }
    if v.inGap ∧ s.hapState h = 4 ∧ !s.hapClosed h ∧ 10 * v.lastAmp < v.endAmp then s.hapDone h else s

/-- The phase of an effect that plays or stops, then the segment of one that plays (R357). -/
def State.pwmPlay (s : State) (h : Nat) : State :=
  let s := if s.hapState h = 3 ∨ s.hapState h = 4 then s.hapPhase h else s
  if s.hapState h = 3 then s.hapSegment h else s

/-- PWM_PERIOD (R357): the period that ends (its RMS current, and the induced amplitude in mV where the gap was sampled in
it), the handover, the start of a loaded effect, and the decision of the requests that arrived in it. -/
def State.pwmPeriod (s : State) (h currentMa : Nat) (emf : Option Int) : State :=
  let s := (((((s.gatesEnd h).pwmInjected h).hapThermal h currentMa).pwmSampled h emf).pwmPlay h).hapHandover h
  (if s.hapState h = 1 ∨ s.hapState h = 5 ∨ s.hapState h = 0 then s else (s.hapStart h).hapDecide h).hapDrive h

/-- PWM_PERIOD. -/
def execPwmPeriod (h : Fin 8) (currentMa : Nat) (emf : Option Int) (s : State) : Host.Outcome State Fault Refusal :=
  .next (s.pwmPeriod h.val currentMa emf)

/-! The accelerometer (R359) and the audio sink (R362). -/

/-- The SPI master of a channel's accelerometer runs. -/
def State.spiOn (s : State) (h : Nat) : Bool :=
  if s.rd (hapPage h) HAP_ACC_spi = 0 then s.rd 1424 HAP_SPI0_CFG_en == 1 else s.rd 1424 HAP_SPI1_CFG_en == 1

/-- A sample lost: the accelerometer is no longer valid, and the samples must be good again 160 times. -/
def State.accLost (s : State) (h : Nat) : State :=
  (s.setHap h { s.hap h with accGood := 0, accValid := false, accAt := s.now }).count (hapPage h) 5

/-- ACCEL_SAMPLE (R359): a saturated sample exceeds every range. -/
def execAccelSample (h : Fin 8) (sample : BitVec 16) (s : State) : Host.Outcome State Fault Refusal :=
  .next (
    if !s.spiOn h.val then s
    else
      let m := sample.toInt.natAbs
      if s.rd (hapPage h.val) HAP_ACC_range < m then s.accLost h.val
      else
        let v := s.hap h.val
        let n := min 160 (v.accGood + 1)
        s.setHap h.val { v with accGood := n, accValid := v.accValid || n == 160, accAt := s.now, peak := max v.peak m })

/-- ACCEL_TIMEOUT (R359): no sample for 1 ms. -/
def execAccelTimeout (h : Fin 8) (s : State) : Host.Outcome State Fault Refusal :=
  .next (if s.now < (s.hap h.val).accAt + 1000000 then s else s.accLost h.val)

/-- A channel with src = 1 follows an output column's 32-bit sample (R362), while nothing holds its bridge off. -/
def State.hapFollow (s : State) (col : Nat) (sample : Int) : State :=
  (List.range 8).foldl (fun (t : State) h =>
    let p := hapPage h
    if t.rd p HAP_CTRL_src = 1 ∧ t.rd p HAP_CTRL_col = col ∧ t.hapState h = 2 ∧ !t.deviceSafe ∧ !(t.hap h).parked then
      t.setHap h { t.hap h with c := hapDiv sample 2048, cmd := hapDiv sample 2048, bridge := true }
    else t) s

end Sys2Proof.Machine
end

