-- ==== Sys2Proof/Machine/Touch.lean ====
section
/-! DEFINITION. The touch banks (R333 to R348): scans and their slots, baselines and touch states, groups, reports,
frequency hops, and the calibration table. -/

namespace Sys2Proof.Machine

/-- A quotient with a positive divisor; which way an inexact one is rounded is open. -/
def tchDiv (n : Int) (d : Nat) : Int := n / (d : Int) + (if n % (d : Int) = 0 then 0 else if Config.touchUp n d then 1 else 0)

/-- A channel and a group of a bank. -/
def State.chan (s : State) (b c : Nat) : ChanS := Tbl.get (fun _ => ChanS.zero) (s.tch b).chans c
def State.setChan (s : State) (b c : Nat) (v : ChanS) : State :=
  s.setTch b { s.tch b with chans := Tbl.set (fun _ => ChanS.zero) (s.tch b).chans c v }
def State.grp (s : State) (b g : Nat) : GroupS := Tbl.get (fun _ => GroupS.zero) (s.tch b).groups g
def State.setGrp (s : State) (b g : Nat) (v : GroupS) : State :=
  s.setTch b { s.tch b with groups := Tbl.set (fun _ => GroupS.zero) (s.tch b).groups g v }

/-- The present drive frequency. -/
def State.tchFreq (s : State) (b : Nat) : Nat := s.rd (tchPage b) TCH_B_STATUS_freq

/-- The settings that a scan takes at its start: timing and thresholds. -/
def tchSampled : List Nat := [TCH_B_SCAN.off, TCH_B_NOISE.off] ++ (List.range 32).map fun c => TCH_B_CH_THR.off + 16 * c

/-- A sampled setting of the present scan. -/
def State.tchLive (s : State) (b : Nat) (f : Fld) (i : Nat := 0) : Nat :=
  match (s.tch b).live.find? (·.1 == (f.off + i * f.stride) / 4) with | some e => f.get e.2 | none => 0

/-- A scan of a bank may start now (R334). DESIGN CHOICE (log 121): a bank scans at the whole multiples of its period on the time base, so
that banks of one period start together; a period written takes effect at the next start. -/
def State.scanDue (s : State) (b : Nat) : Bool :=
  let v := s.tch b
  let us := if v.period = 0 then s.rd (tchPage b) TCH_B_SCAN_period_us else v.period
  s.now % (1000 * us) == 0 && v.ran != s.now + 1

/-- TOUCH_SCAN (R334): a scan starts; the changed settings take effect. -/
def execTouchScan (b : Fin 4) (s : State) : Host.Outcome State Fault Refusal :=
  let p := tchPage b.val
  let v := s.tch b.val
  .next (
    if s.rd p TCH_B_CTRL_en = 0 ∨ v.loading ∨ v.scanAt.isSome ∨ !s.scanDue b.val then s
    else s.setTch b.val { v with scanAt := some s.now, ran := s.now + 1, period := s.rd p TCH_B_SCAN_period_us, slot := 0, conv := [], reports := [],
                                 live := tchSampled.map fun o => (o / 4, s.reg (regKey p o)) })

/-- The shield driver and the disabled channels of a bank carry the drive waveform in slots 0 to 4 of a scan while
shield_en is 1; in the listen slot they are held at ground (R334). -/
def State.shieldDriven (s : State) (b : Nat) : Bool :=
  s.rd (tchPage b) TCH_B_CTRL_shield_en == 1 && (s.tch b).scanAt.isSome && decide ((s.tch b).slot ≤ 4)

/-- The drive frequency of an index, in Hz: the 38.4 MHz crystal over its divisor (R336). -/
def driveHz (f : Nat) : Nat := 38400000 / [40, 32, 24, 20, 16, 12, 10, 8].getD f 40

/-! Conversions (R337). -/

/-- CH_RANGE as the channels and the reference stand: 16 conversions out of range in a row. -/
def State.syncRange (s : State) (b : Nat) : State :=
  s.setLevel (tchPage b) 1 ((List.range 32).any (fun c => decide (16 ≤ (s.chan b c).wild)) || decide (16 ≤ (s.tch b).refWild))

/-- A count is out of range. -/
def countWild (n : Nat) : Bool := n == 0 || decide (65535 ≤ n)

/-- The run of out-of-range conversions after one more: it ends at a valid one, and, below 16, at any in range. -/
def nextWild (wild : Nat) (out valid : Bool) : Nat :=
  if out then min 16 (wild + 1) else if valid || decide (wild < 16) then 0 else wild

/-- An invalid conversion counted. -/
def State.countInvalid (s : State) (b : Nat) (out valid : Bool) : State :=
  let s := if valid then s else s.count (tchPage b) 2
  if out then s.count (tchPage b) 3 else s

/-! Reports (R346). -/

/-- A member of an enabled group. -/
def State.memberOf (s : State) (b c g : Nat) : Bool :=
  let p := tchPage b
  s.rd p TCH_B_GRP_CFG_en g == 1 && decide (s.rd p TCH_B_GRP_CFG_first g ≤ c ∧ c < s.rd p TCH_B_GRP_CFG_first g + s.rd p TCH_B_GRP_CFG_count g)
def State.grouped (s : State) (b c : Nat) : Bool := (List.range 8).any fun g => s.memberOf b c g

/-- The entry of a report: kind, flags, index, event or mask, the two 16-bit fields, and 32 bytes of counts. The scan
count is that of the scan that decides the entry, which TCH_B_STATUS shows once the scan has ended. -/
def State.touchEntry (s : State) (b kind flags idx ev w6 w8 : Nat) (raw : List Byte) : List Byte :=
  leBytes 1 kind ++ leBytes 1 (flags + (if (s.tch b).sinceHop < 2 then 8 else 0)) ++ leBytes 1 b ++ leBytes 1 idx ++ leBytes 2 ev
    ++ leBytes 2 w6 ++ leBytes 2 w8 ++ leBytes 1 (s.tchFreq b) ++ [0] ++ leBytes 4 (((s.tch b).scans + 1) % 2 ^ 32) ++ leBytes 8 s.now
    ++ (raw ++ List.replicate 40 0).take 40

/-- A report put with the others of the scan. -/
def State.addReport (s : State) (b : Nat) (bytes : List Byte) (trig : Option (Bool × Bool × Nat)) : State :=
  s.setTch b { s.tch b with reports := (s.tch b).reports ++ [⟨bytes, trig⟩] }

/-- A touch or a release of a channel that reports for itself. -/
def State.chanReport (s : State) (b c flags : Nat) (release : Bool) : State :=
  let p := tchPage b
  if s.grouped b c then s
  else
    let fl := flags + (if s.rd p TCH_B_CH_STATE_recal c = 1 then 4 else 0)
    s.addReport b (s.touchEntry b 1 fl c (if release then 2 else 1) (s.rd p TCH_B_CH_STATE_delta c) (s.rd p TCH_B_CH_BASE_baseline c) [])
      (some (release, false, c))

/-! Baseline and touch state (R335, R340, R341). -/

/-- The delta of a count against a baseline, in the channel's mode. -/
def tchDelta (mode base n : Nat) : Int := if mode = 2 then (n : Int) - base else (base : Int) - n

/-- A channel's registers as it stands after a valid conversion. -/
def State.syncChan (s : State) (b c n : Nat) (d : Int) : State :=
  let p := tchPage b
  let v := s.chan b c
  ((((s.wr p TCH_B_CH_BASE_baseline (min 0xFFFF (v.base / 65536)) c).wr p TCH_B_CH_BASE_signal n c).wr p TCH_B_CH_STATE_delta
    (unsigned 16 (clamp (-32768) 32767 d)) c)).wr p TCH_B_CH_STATE_recal
    (b2n (match v.recalUntil with | some t => decide (s.now < t) | none => false)) c

/-- Whether a reference count lies within 5 % of its factory count. -/
def refClose (ref fac : Nat) : Bool := 20 * (if ref < fac then fac - ref else ref - fac) ≤ fac

/-- Word `i` of the calibration table in use. -/
def State.calWord (s : State) (b i : Nat) : Nat := ((s.tch b).cal.getD []).getD i 0

/-- The table's entry for channel `c` may be used: cal_en is 1, and the entry and the table frequency are valid. -/
def State.calFor (s : State) (b c : Nat) : Bool :=
  s.rd (tchPage b) TCH_B_CTRL_cal_en == 1 && (s.calWord b c).testBit 31 && (s.calWord b 32).testBit 31

/-- The first valid reference decides the start of a channel: none before it; then whether it was within 5 %. -/
def State.startRef (s : State) (b : Nat) : Option Bool := (s.tch b).firstRef.map (·.2)

/-- The touch state after a valid conversion with delta `d`, by R340: the channel, and the touch (1), release (2) or STUCK
release (3) that it gives. -/
def touchStep (v : ChanS) (touched waiting : Bool) (d : Int) (touch release debounce : Nat) : ChanS × Nat :=
  let low := decide (d < (release : Int))
  let v := { v with below := if low then v.below + 1 else 0, above := if (touch : Int) ≤ d then v.above + 1 else 0,
                    away := if d < -(release : Int) then v.away + 1 else 0 }
  if touched then
    if low && decide (debounce ≤ v.below) then ({ v with above := 0, holdOver := false }, 2)
    else if v.holdOver then ({ v with above := 0, holdOver := false }, 3)
    else (v, 0)
  else if !waiting && decide (debounce ≤ v.above) then ({ v with below := 0 }, 1)
  else (v, 0)

/-- A valid conversion `n` of a channel with a baseline (R340). -/
def State.valid (s : State) (b c n : Nat) : State :=
  let p := tchPage b
  let v := s.chan b c
  let d := tchDelta (s.rd p TCH_B_CH_CFG_mode c) (v.base / 65536) n
  let debounce := s.tchLive b TCH_B_CH_THR_debounce c
  let release := s.tchLive b TCH_B_CH_THR_release c
  let was := s.rd p TCH_B_CH_STATE_touched c == 1
  let waiting := s.rd p TCH_B_CH_STATE_stuck_wait c == 1
  let held := was && decide (v.touchedAt + s.rd p TCH_B_CH_CFG_hold_s c * 1000000000 ≤ s.now)
  let (v, ev) := touchStep { v with holdOver := v.holdOver || held } was waiting d (s.tchLive b TCH_B_CH_THR_touch c) release debounce
  let v := if ev = 1 then { v with touchedAt := s.now } else v
  let v := if debounce ≤ v.away then { v with recalUntil := some (s.now + 1000000000) } else v
  let touched := (was && ev == 0) || ev == 1
  let fast := match v.recalUntil with | some t => decide (s.now < t) | none => false
  let tau := if fast then 125000 else s.rd p TCH_B_CH_CFG_tau_s c * 1000000
  let base : Nat := if touched then v.base
    else (clamp 0 0xFFFFFFFF ((v.base : Int) + tchDiv (((n * 65536 : Nat) : Int) * (s.tchLive b TCH_B_SCAN_period_us : Int)
      - (v.base : Int) * (s.tchLive b TCH_B_SCAN_period_us : Int)) tau)).toNat
  let s := (s.setChan b c { v with base := base }).syncChan b c n d
  let s := s.wr p TCH_B_CH_STATE_touched (b2n touched) c
  let s := s.wr p TCH_B_CH_STATE_stuck_wait (b2n (ev == 3 || (waiting && decide ((release : Int) ≤ d)))) c
  let s := if touched then s else s.wr p TCH_B_CH_STATE_at_start 0 c
  if ev = 1 then s.chanReport b c 0 false
  else if ev = 2 then s.chanReport b c 0 true
  else if ev = 3 then ((s.chanReport b c 2 true).count p 4).raise p 1
  else s

/-- The first valid conversion `n` of a channel once its baseline can be set (R341): from the table where `usable`, where a
touch is reported at once; else the conversion is the baseline. A conversion that gives no touch so is a valid one like any other (R340). -/
def State.startChan (s : State) (b c n : Nat) (usable : Bool) : State :=
  let p := tchPage b
  let fac := s.rd p TCH_B_REF_FACTORY_count (s.calWord b 32 % 8)
  let base : Nat := if usable then min 0xFFFFFFFF (tchDiv ((s.calWord b c % 65536 * (((s.tch b).firstRef.map (·.1)).getD 0) * 65536 : Nat) : Int) fac).toNat else n * 65536
  let d := tchDelta (s.rd p TCH_B_CH_CFG_mode c) (base / 65536) n
  let v := { s.chan b c with base := base, set := true, first := none }
  if usable ∧ (s.tchLive b TCH_B_CH_THR_touch c : Int) ≤ d then
    let s := s.setChan b c { v with touchedAt := s.now }
    let s := ((s.syncChan b c n d).wr p TCH_B_CH_STATE_touched 1 c).wr p TCH_B_CH_STATE_at_start 1 c
    s.chanReport b c 1 false
  else (s.setChan b c v).valid b c n

/-- A conversion of a channel: marked, counted, and, when valid, given to its baseline and touch state. -/
def State.convert (s : State) (b c n : Nat) (parity : Bool) : State :=
  let v := s.chan b c
  let out := countWild n
  let ok := !parity && !out && v.skip == 0
  let s := s.setChan b c { v with skip := v.skip - 1, wild := nextWild v.wild out ok }
  let s := s.setTch b { s.tch b with conv := Tbl.set (fun _ => (0, false)) (s.tch b).conv c (min 0xFFFF n, ok) }
  let s := s.countInvalid b out ok
  if !ok then s
  else if (s.chan b c).set then s.valid b c n
  else if !s.calFor b c then s.startChan b c n false
  else match s.startRef b with
    | none => if (s.chan b c).first.isSome then s else s.setChan b c { s.chan b c with first := some n }
    | some close => s.startChan b c n close

/-- Every baseline rescaled at the first valid reference after a hop (R339). -/
def State.rescale (s : State) (b ref : Nat) : State :=
  match (s.tch b).rescale with
  | none => s
  | some old =>
    let s := (List.range 32).foldl (fun (t : State) c =>
      let v := t.chan b c
      if v.set then
        let base := min 0xFFFFFFFF (tchDiv ((v.base * ref : Nat) : Int) old).toNat
        (t.setChan b c { v with base := base }).wr (tchPage b) TCH_B_CH_BASE_baseline (base / 65536) c
      else t) s
    s.setTch b { s.tch b with rescale := none }

/-- A valid reference conversion (R339, R341, R343): the rescale, REF_FAULT after 3 readings outside 5 %, gone after 3 inside,
and, at the first, the channels that wait for it. -/
def State.reference (s : State) (b ref : Nat) : State :=
  let p := tchPage b
  let s := (s.wr p TCH_B_REF_count ref).wr p TCH_B_REF_freq (s.tchFreq b)
  let s := s.rescale b ref
  let v := s.tch b
  let near := refClose ref (s.rd p TCH_B_REF_FACTORY_count (s.tchFreq b))
  let bad := if near then 0 else v.refBad + 1
  let good := if near then v.refGood + 1 else 0
  let first := v.firstRef.isNone
  let s := s.setTch b { v with ref := some ref, firstRef := some (v.firstRef.getD (ref, near)), refBad := bad, refGood := good }
  let s := if 3 ≤ bad then s.setLevel p 0 true else if 3 ≤ good then s.setLevel p 0 false else s
  if !first then s
  else (List.range 32).foldl (fun (t : State) c =>
    match (t.chan b c).first with
    | none => t
    | some n => t.startChan b c n near) s

/-- The reference slot. -/
def State.convertRef (s : State) (b n : Nat) (parity : Bool) : State :=
  let v := s.tch b
  let out := countWild n
  let ok := !parity && !out && v.refSkip == 0
  let s := (s.setTch b { v with refSkip := v.refSkip - 1, refWild := nextWild v.refWild out ok }).countInvalid b out ok
  if ok then s.reference b n else s

/-! Noise and hopping (R338, R339). -/

/-- A noise level filtered. -/
def State.noise (s : State) (b f m : Nat) : State :=
  let n := s.rd (tchPage b) TCH_B_NOISE_LEVEL_noise f
  s.wr (tchPage b) TCH_B_NOISE_LEVEL_noise (clamp 0 4095 ((n : Int) + tchDiv ((m : Int) - n) 8)).toNat f

/-- The next candidate frequency after `c` among those of the mask that are not the present one. -/
def nextFreq (mask present c : Nat) : Option Nat :=
  ((List.range 8).map fun i => (c + 1 + i) % 8).find? fun f => mask.testBit f && f != present

/-- The listen slot: the present frequency and one candidate are measured. -/
def State.listen (s : State) (b : Nat) (noise : Nat × Nat) : State :=
  let f := s.tchFreq b
  let s := s.noise b f noise.1
  match nextFreq (s.tchLive b TCH_B_NOISE_mask) f (s.tch b).cand with
  | none => s
  | some c => (s.noise b c noise.2).setTch b { s.tch b with cand := c }

/-- The frequency to which the bank hops at the end of this scan, if it does. -/
def State.hopTo (s : State) (b : Nat) : Option Nat :=
  let p := tchPage b
  let f := s.tchFreq b
  let here := s.rd p TCH_B_NOISE_LEVEL_noise f
  let level := fun g => s.rd p TCH_B_NOISE_LEVEL_noise g
  let ok := (List.range 8).filter fun g => g != f && (s.tchLive b TCH_B_NOISE_mask).testBit g && decide (2 * level g ≤ here)
  if s.rd p TCH_B_NOISE_hop_en = 0 ∨ here ≤ s.tchLive b TCH_B_NOISE_thresh ∨ s.now < (s.tch b).hopAt + 10000000 then none
  else ok.foldl (fun r g => match r with | none => some g | some h => if level g < level h then some g else r) none

/-- The hop: logged, counted, entered in the report queue; the next 2 conversions of each channel and of the reference
are invalid. -/
def State.hop (s : State) (b f : Nat) : State :=
  let p := tchPage b
  let old := s.tchFreq b
  let s := ((s.hwField p TCH_B_STATUS_freq f).count p 1).raise p 0
  let v := s.tch b
  let s := s.setTch b { v with hopAt := s.now, sinceHop := 0, refSkip := 2, ref := none,
                               rescale := match v.rescale with | some r => some r | none => v.ref }
  let s := (List.range 32).foldl (fun (t : State) c =>
    if t.rd p TCH_B_CH_CFG_en c = 1 then t.setChan b c { t.chan b c with skip := 2 } else t) s
  s.addReport b (s.touchEntry b 4 0 0 0 (old + 256 * f) 0 []) none

/-! Groups (R344, R345). -/

/-- The members of a group, and the delta that each gives in this scan. -/
def State.members (s : State) (b g : Nat) : List Nat :=
  (List.range (s.rd (tchPage b) TCH_B_GRP_CFG_count g)).map (· + s.rd (tchPage b) TCH_B_GRP_CFG_first g)
def State.memberDelta (s : State) (b c : Nat) : Nat :=
  let ok := (Tbl.get (fun _ => (0, false)) (s.tch b).conv c).2 && (s.chan b c).set && s.rd (tchPage b) TCH_B_CH_CFG_en c == 1
  if ok then (max 0 (signed 16 (s.rd (tchPage b) TCH_B_CH_STATE_delta c))).toNat else 0

/-- The member with the greatest delta, the lowest index among equals. -/
def peakOf (ds : List Nat) : Nat :=
  ds.idxOf (ds.foldl max 0)

/-- The position from the members' deltas (R344); none where all are 0. -/
def touchPosition (wheel : Bool) (ds : List Nat) : Option Nat :=
  let n := ds.length
  let k := peakOf ds
  let at_ := fun (i : Int) => if wheel then ds.getD (i % (n : Int)).toNat 0 else if i < 0 then 0 else ds.getD i.toNat 0
  let lo : Int := (at_ ((k : Int) - 1) : Nat)
  let mid : Int := (ds.getD k 0 : Nat)
  let hi : Int := (at_ ((k : Int) + 1) : Nat)
  let w := lo + mid + hi
  if w = 0 then none
  else
    let p := (k : Int) * w + hi - lo
    if wheel then
      let d := w * n
      some (((2 * p * 65536 + d) / (2 * d)) % 65536).toNat
    else
      let d := w * ((n : Int) - 1)
      some (clamp 0 65535 ((2 * p * 65535 + d) / (2 * d))).toNat

/-- The distance from position `x` to `y`; on a wheel, the shorter way. -/
def posDiff (wheel : Bool) (y x : Nat) : Int :=
  let d := (y : Int) - x
  if wheel then signed 16 (unsigned 16 d) else d

/-- A group without movement for 50 ms comes to a standstill. -/
def GroupS.rest (v : GroupS) (now : Nat) : GroupS := if v.movedAt + 50000000 ≤ now then { v with still := true } else v

/-- The speed of a move report by the table of R345, and the group after it. -/
def moveSpeed (v : GroupS) (raw : Int) (limit : Nat) : Int × GroupS :=
  let big := decide (limit < raw.natAbs)
  let sg : Int := if raw < 0 then -1 else 1
  let rev := big && v.sign != 0 && sg != v.sign
  let sp := if v.still || decide (v.moves < 2) || rev then 0 else clamp (-32768) 32767 raw
  (sp, { v with moves := if v.still then 0 else v.moves + 1, sign := if big then sg else v.sign })

/-- A group's entry. -/
def State.groupReport (s : State) (b g ev flags pos : Nat) (speed : Int) : State :=
  let p := tchPage b
  let fl := flags + (if (s.members b g).any (fun c => s.rd p TCH_B_CH_STATE_recal c == 1) then 4 else 0)
  let s := s.wr p TCH_B_GRP_POS_speed (unsigned 16 speed) g
  s.addReport b (s.touchEntry b 2 fl g ev pos (unsigned 16 speed) []) (if ev = 3 then none else some (ev == 2, true, g))

/-- A group at the end of a scan: a scan in which no member's conversion is valid leaves its position (R337). -/
def State.groupScan (s : State) (b g : Nat) : State :=
  let p := tchPage b
  if s.rd p TCH_B_GRP_CFG_en g = 0 then s
  else
    let wheel := s.rd p TCH_B_GRP_CFG_kind g == 1
    let ms := s.members b g
    let v := s.grp b g
    let on := ms.any fun c => s.rd p TCH_B_CH_CFG_en c == 1 && s.rd p TCH_B_CH_STATE_touched c == 1
    if !on then
      if !v.touched then s
      else
        let stuck := ms.any fun c => s.rd p TCH_B_CH_STATE_stuck_wait c == 1
        (s.setGrp b g { v with touched := false }).groupReport b g 2 (if stuck then 2 else 0) (s.rd p TCH_B_GRP_POS_pos g) 0
    else
      let seen := ms.any fun c => s.rd p TCH_B_CH_CFG_en c == 1 && (Tbl.get (fun _ => (0, false)) (s.tch b).conv c).2
      let (s, pos) := match touchPosition wheel (ms.map fun c => s.memberDelta b c) with
        | some x => (s, x)
        | none => if seen then (s.next, (Config.touchPos s.fresh).toNat) else (s, s.rd p TCH_B_GRP_POS_pos g)
      let s := s.wr p TCH_B_GRP_POS_pos pos g
      if !v.touched then
        let start := ms.any fun c => s.rd p TCH_B_CH_STATE_at_start c == 1
        (s.setGrp b g ⟨true, s.now, s.now, pos, pos, s.now, true, 0, 0⟩).groupReport b g 1 (b2n start) pos 0
      else
        let limit := s.rd p TCH_B_GRP_CFG_hyst g * 64
        let v := v.rest s.now
        let v : GroupS := if limit < (posDiff wheel pos v.anchor).natAbs then
            { v with anchor := pos, movedAt := s.now, still := false, moves := if v.still then 0 else v.moves }
          else v
        if (s.now - v.touchAt) / 10000000 ≤ (v.reportAt - v.touchAt) / 10000000 then s.setGrp b g v
        else
          let (speed, v) := moveSpeed v (posDiff wheel pos v.last) limit
          (s.setGrp b g { v with last := pos, reportAt := s.now }).groupReport b g 3 0 pos speed

/-! The end of a scan. -/

/-- A raw entry: the valid mask and the counts of half `h`. -/
def State.rawReport (s : State) (b h : Nat) : State :=
  let conv := fun c => Tbl.get (fun _ => (0, false)) (s.tch b).conv c
  let cs := (List.range 16).map (· + 16 * h)
  let mask := cs.foldl (fun m c => if (conv c).2 then m + 2 ^ (c - 16 * h) else m) 0
  s.addReport b (s.touchEntry b 3 0 h mask 0 0 (cs.flatMap fun c => leBytes 2 (conv c).1)) none

/-- A touch or release presented to the haptic unit (R360): the matching triggers of the owner's channels make a request. -/
def State.trigger (s : State) (b : Nat) (release group : Bool) (idx : Nat) : State :=
  (List.range 8).foldl (fun (t : State) h =>
    let p := hapPage h
    let live := match t.unitActor p with | some a => t.astate a == 3 | none => false
    if t.owner p ≠ t.owner (tchPage b) ∨ !live then t
    else (List.range 4).foldl (fun (t : State) k =>
      if t.rd p HAP_TRIG_en k = 1 ∧ (t.rd p HAP_TRIG_event k).testBit (b2n release) ∧ t.rd p HAP_TRIG_kind k = b2n group
          ∧ t.rd p HAP_TRIG_bank k = b ∧ t.rd p HAP_TRIG_index k = idx then
        t.hapAsk h ⟨true, t.rd p HAP_TRIG_prio k, t.rd p HAP_TRIG_effect k, 256, 0⟩
      else t) t) s

/-- A report leaves: to the queue named, or discarded and counted; its touch or release to the haptic unit. -/
def State.emit (s : State) (b : Nat) (r : Report) : State :=
  let p := tchPage b
  let q := s.rd p TCH_B_REPORT_queue
  let s := match s.unitActor p with
    | some a => if s.rd p TCH_B_REPORT_en = 1 ∧ s.qIs a q qTouch then s.ringWrite a q r.bytes else s.count p 5
    | none => s.count p 5
  match r.trig with
  | some (release, group, i) =>
    let s := match s.ownerAcct p with
      | some a => if (s.acct a).legacy && !group && decide (i < 16) && (s.ownedBy a tchPage 4).head? == some b then s.legInt a 0x10000 else s
      | none => s
    s.trigger b release group i
  | none => s

/-- The end of a scan: groups, raw entries, the hop, and the reports. -/
def State.scanEnd (s : State) (b : Nat) : State :=
  let p := tchPage b
  let v := s.tch b
  let s := (s.count p 0).wr p TCH_B_STATUS_scans ((s.rd p TCH_B_STATUS_scans + 1) % 65536)
  let s := (List.range 8).foldl (fun (t : State) g => t.groupScan b g) s
  let s := if s.rd p TCH_B_CTRL_raw_en = 1 then (s.rawReport b 0).rawReport b 1 else s
  let s := s.setTch b { s.tch b with sinceHop := min 2 (v.sinceHop + 1) }
  let s := match s.hopTo b with | some f => s.hop b f | none => s
  let rs := (s.tch b).reports
  let s := rs.foldl (fun (t : State) r => t.emit b r) s
  s.setTch b { s.tch b with scanAt := none, slot := 0, reports := [], scans := (v.scans + 1) % 2 ^ 32 }

/-- TOUCH_SLOT (R334): the slot that ends: its counts in channel order, or the reference, or the two noise levels. -/
def execTouchSlot (b : Fin 4) (counts : List Nat) (noise : Nat × Nat) (s : State) : Host.Outcome State Fault Refusal :=
  let p := tchPage b.val
  let v := s.tch b.val
  .next (
    if v.scanAt.isNone then s
    else
      let s := s.setTch b.val { v with slot := v.slot + 1 }
      if v.slot = 5 then (s.listen b.val noise).scanEnd b.val
      else
        let (s, inj) := s.useInject p 3
        let s := if inj.isSome then s.fault p 3 else s
        let s := if v.slot = 4 then s.convertRef b.val (counts.getD 0 0) inj.isSome
          else (List.range 8).foldl (fun (t : State) i =>
            let c := 8 * v.slot + i
            if t.rd p TCH_B_CH_CFG_en c = 1 then t.convert b.val c (counts.getD i 0) inj.isSome else t) s
        s.syncRange b.val)

/-- TOUCH_HOLD_EXPIRY (R340): acted on at the next valid conversion. -/
def execTouchHoldExpiry (b : Fin 4) (c : Fin 32) (s : State) : Host.Outcome State Fault Refusal :=
  let p := tchPage b.val
  let v := s.chan b.val c.val
  .next (
    if s.rd p TCH_B_CH_STATE_touched c.val = 0 ∨ s.now < v.touchedAt + s.rd p TCH_B_CH_CFG_hold_s c.val * 1000000000 then s
    else s.setChan b.val c.val { v with holdOver := true })

/-- TOUCH_RECAL_END (R340). -/
def execTouchRecalEnd (b : Fin 4) (c : Fin 32) (s : State) : Host.Outcome State Fault Refusal :=
  let v := s.chan b.val c.val
  .next (match v.recalUntil with
    | none => s
    | some t =>
      if s.now < t then s
      else (s.setChan b.val c.val { v with recalUntil := none }).wr (tchPage b.val) TCH_B_CH_STATE_recal 0 c.val)

/-- GROUP_STANDSTILL (R345). -/
def execGroupStandstill (b : Fin 4) (g : Fin 8) (s : State) : Host.Outcome State Fault Refusal :=
  let v := s.grp b.val g.val
  .next (if v.touched then s.setGrp b.val g.val (v.rest s.now) else s)

/-! Enabling, the calibration table, and the bank's own rules (R341, R342, R344, R346). -/

/-- The table's memory and address. -/
def State.calAt (s : State) (b : Nat) : Nat × Nat :=
  let p := tchPage b
  (s.rd p TCH_B_CAL_HI_space, s.rd p TCH_B_CAL_LO_addr * 64 + s.rd p TCH_B_CAL_HI_addr_hi * 2 ^ 32)

/-- Two enabled groups share a channel. -/
def State.groupsMeet (s : State) (b g : Nat) : Bool :=
  (s.members b g).any fun c => (List.range 8).any fun h => h != g && s.memberOf b c h

/-- The bank's rule of a write that would leave a register of it as `v`. -/
def State.tchRule (s : State) (b off : Nat) (v : Word) : Rule :=
  let p := tchPage b
  let k := regKey p off
  let t := s.setReg k (s.produced p off v)
  let ok := fun (c : Bool) => if c then Rule.ok else .range
  if off = TCH_B_CTRL.off then
    let (space, addr) := t.calAt b
    let held := match t.unitActor p with | some a => t.inRegions a space addr 132 | none => false
    ok ((t.rd p TCH_B_NOISE_mask).testBit (t.rd p TCH_B_CTRL_freq_init)
      && (t.rd p TCH_B_CTRL_en == 0 || t.rd p TCH_B_CTRL_cal_en == 0 || held))
  else if off = TCH_B_SCAN.off then ok (decide (6 * t.rd p TCH_B_SCAN_slot_us ≤ t.rd p TCH_B_SCAN_period_us))
  else if off = TCH_B_NOISE.off then ok ((t.rd p TCH_B_NOISE_mask).testBit (t.rd p TCH_B_CTRL_freq_init))
  else if off = TCH_B_REPORT.off then
    ok (t.rd p TCH_B_REPORT_en == 0 || (match t.unitActor p with | some a => t.qIs a (t.rd p TCH_B_REPORT_queue) qTouch | none => false))
  else if off = TCH_B_CAL_HI.off then ok (t.rd p TCH_B_CAL_HI_space == 0 || t.rd p TCH_B_CAL_HI_addr_hi == 0)
  else if 0x300 ≤ off then
    let g := (off - 0x300) / 8
    ok (decide (t.rd p TCH_B_GRP_CFG_first g ≤ 30) && (t.rd p TCH_B_GRP_CFG_en g == 0
      || (decide (t.rd p TCH_B_GRP_CFG_first g + t.rd p TCH_B_GRP_CFG_count g ≤ 32) && !t.groupsMeet b g)))
  else if 0x100 ≤ off then
    let c := (off - 0x100) / 16
    ok (decide (t.rd p TCH_B_CH_THR_release c < t.rd p TCH_B_CH_THR_touch c)
      && (s.rd p TCH_B_CH_CFG_en c == 0 || t.rd p TCH_B_CH_CFG_mode c == s.rd p TCH_B_CH_CFG_mode c))
  else .ok

/-- A run of 16 or more conversions out of range, kept until the next valid one (R337). -/
def keptWild (wild : Nat) : Nat := if 16 ≤ wild then wild else 0

/-- A channel starts afresh: its first 2 conversions are invalid, and it has no baseline. -/
def State.freshChan (s : State) (b c : Nat) : State :=
  let p := tchPage b
  (((s.setChan b c { ChanS.zero with skip := 2, wild := keptWild (s.chan b c).wild }).setReg (fkey p TCH_B_CH_BASE c) 0).setReg (fkey p TCH_B_CH_STATE c) 0).syncRange b

/-- The bank starts (R337, R341, R342): the channels afresh, at freq_init, or, with cal_en, once the table is read. -/
def State.startBank (s : State) (b : Nat) : State :=
  let p := tchPage b
  let v := s.tch b
  let s := s.setTch b { TouchS.zero with chans := v.chans, refWild := keptWild v.refWild, hopAt := s.now, refSkip := 2, scans := v.scans, loading := s.rd p TCH_B_CTRL_cal_en == 1 }
  let s := (s.wr p TCH_B_STATUS_freq (s.rd p TCH_B_CTRL_freq_init)).wr p TCH_B_STATUS_scanning 1
  (List.range 32).foldl (fun (t : State) c => t.freshChan b c) s

/-- A write of a bank's registers, with what enabling and disabling do. -/
def State.tchWrite (s : State) (who b off : Nat) (value : Word) (be : BitVec 4) : State :=
  let p := tchPage b
  s.writeWith who p off value be false (s.tchRule b off) (s.writeRec who p off) fun v t =>
    let was := t.rd p TCH_B_CTRL_en
    let c := (off - 0x100) / 16
    let chan := decide (0x100 ≤ off ∧ off < 0x300)
    let wasC := t.rd p TCH_B_CH_CFG_en c
    let g := (off - 0x300) / 8
    let wasG := t.rd p TCH_B_GRP_CFG_en g
    let t := t.store p off v
    if off = TCH_B_CTRL.off then
      if was = t.rd p TCH_B_CTRL_en then t
      else if was = 0 then t.startBank b
      else (t.wr p TCH_B_STATUS_scanning 0).setTch b { t.tch b with scanAt := none, slot := 0, reports := [], loading := false }
    else if chan && wasC != t.rd p TCH_B_CH_CFG_en c then t.freshChan b c
    else if 0x300 ≤ off && wasG != t.rd p TCH_B_GRP_CFG_en g then t.setGrp b g GroupS.zero
    else t

/-- TOUCH_BANK_ENABLE (R342). -/
def execTouchBankEnable (who : Actor) (b : Fin 4) (s : State) : Host.Outcome State Fault Refusal :=
  .next (s.tchWrite who.val b.val TCH_B_CTRL.off (s.fieldWrite (tchPage b.val) TCH_B_CTRL_en 0 1) 15)

/-- What the read of a calibration table gives (R343): a failed read raises CAL_ERROR; bit 31 of the last word overrides the
drive frequency. -/
def State.calTaken (s : State) (b : Nat) : Option (List Byte) → State
  | none => s.fault (tchPage b) 2
  | some bs =>
    let ws := (List.range 33).map fun i => ofLeBytes ((bs.drop (4 * i)).take 4)
    let s := s.setTch b { s.tch b with cal := some ws }
    if (ws.getD 32 0).testBit 31 then s.wr (tchPage b) TCH_B_STATUS_freq (ws.getD 32 0 % 8) else s

/-- CAL_LOAD_DONE (R342): a table whose word 32 is valid sets the frequency; a read that is blocked or poisoned raises
CAL_LOAD_ERROR, and the bank starts as if cal_en were 0; the load ends once its last line has been served (R237, R239). -/
def execCalLoadDone (b : Fin 4) (s : State) : Host.Outcome State Fault Refusal :=
  .next (
    if !(s.tch b.val).loading then s
    else
      let a := s.calAt b.val
      let had := (s.tch b.val).calGot
      let (s, bs, ok) := s.readLong ((s.unitActor (tchPage b.val)).getD 32) 4 a.1 a.2 132 (linesAfter a.2 132 had.length)
      let bs := had ++ bs
      if ok = .waits then s.setTch b.val { s.tch b.val with calGot := bs }
      else (s.setTch b.val { s.tch b.val with loading := false, calGot := [] }).calTaken b.val (if ok = .done then some bs else none))

end Sys2Proof.Machine
end

