-- ==== Sys2Proof/Machine/Audio.lean ====
section
/-! DEFINITION. The audio unit (R364 to R381): rows, bridges, gain nodes, ducking, equalisers and sinks, and the sample of
the primary domain that runs them all. -/

namespace Sys2Proof.Machine

/-- A quotient with a positive divisor; which way an inexact one is rounded is open. -/
def audDiv (n : Int) (d : Nat) : Int := n / (d : Int) + (if n % (d : Int) = 0 then 0 else if Config.audioUp n d then 1 else 0)

/-- A value kept as a signed word of `w` bits. -/
def satBits (w : Nat) (v : Int) : Int := clamp (-(2 ^ (w - 1) : Nat)) ((2 ^ (w - 1) : Nat) - 1) v

/-! Rows, columns and their owners (R364, R365). -/

def rowPage (r : Nat) : Nat := audPage (1 + r / 8)
def State.rowRd (s : State) (f : Fld) (r : Nat) : Nat := s.rd (rowPage r) f (r % 8)
def State.colRd (s : State) (f : Fld) (c : Nat) : Nat := s.rd (eqPage c) f (c % 8)
def State.rowOn (s : State) (r : Nat) : Bool := s.rowRd AUD_ROW_SRC_en r == 1
def State.colOn (s : State) (c : Nat) : Bool := s.colRd AUD_COL_SINK_en c == 1
def State.rowsOn (s : State) : List Nat := (List.range 95).filter s.rowOn
def State.colsOn (s : State) : List Nat := (List.range 64).filter s.colOn

/-- The owner code of pin instance `i` (R407), if the plan gave it one. -/
def State.pinOwner (s : State) (i : Nat) : Option Nat :=
  if s.rd (pinPage 1) PIN_FN_en i = 0 then none
  else some (s.rd (pinPage 1) PIN_FN_account i + 64 * s.rd (pinPage 1) PIN_FN_world i)

/-- The rate domain of a TDM port: 0 P, 1 M, 2 X (R377). -/
def State.tdmDomain (s : State) (p : Nat) : Nat := s.rd (audPage 21) AUD_TDM_CFG_domain p
def State.fsPresent (s : State) (p : Nat) : Bool := s.rd (audPage 21) AUD_TDM_STATUS_fs_present p == 1

/-- The domain of a row's source and of a column's sink. -/
def State.rowDomain (s : State) (r : Nat) : Nat :=
  match s.rowRd AUD_ROW_SRC_kind r with
  | 0 => s.tdmDomain (s.rowRd AUD_ROW_SRC_port r)
  | 2 => s.rowRd AUD_ROW_SRC_domain r
  | _ => 0
def State.colDomain (s : State) (c : Nat) : Nat :=
  if s.colRd AUD_COL_SINK_kind c = 0 then s.tdmDomain (s.colRd AUD_COL_SINK_port c) else 0

/-- P-domain samples in 1 ms, and M-domain frames that fall to P sample `n` (R366). -/
def State.perMs (s : State) : Nat := if s.rd (audPage 0) AUD_RATE_p = 1 then 96 else 48
def State.mTicks (s : State) : Nat :=
  let m := if s.rd (audPage 0) AUD_RATE_m = 1 then 88200 else 44100
  (s.audio.samples + 1) * m / (s.perMs * 1000) - s.audio.samples * m / (s.perMs * 1000)

/-! Bridges (R367, R368). -/

/-- Bridge `b` is locked. -/
def State.bridgeOn (s : State) (b : Nat) : Bool :=
  if b < 32 then s.rd (audPage 0) ⟨0x084, 4, b, b⟩ == 1 else s.rd (audPage 0) ⟨0x088, 4, b - 32, b - 32⟩ == 1

/-- A bridge's lock bits set: the row's or column's is logged. -/
def State.setBridge (s : State) (b v : Nat) : State :=
  if b < 32 then (s.wr (audPage 0) ⟨0x084, 4, b, b⟩ v).hwField (rowPage b) AUD_ROW_STATUS_locked v (b % 8)
  else (s.wr (audPage 0) ⟨0x088, 4, b - 32, b - 32⟩ v).hwField (eqPage (b + 16)) AUD_COL_STATUS_locked v ((b + 16) % 8)

/-- A bridge unlocks. -/
def State.unlock (s : State) (b : Nat) : State :=
  ((s.setAudio fun a => { a with unlocked := NatTbl.put a.unlocked b (s.now + 1) }).count (audPage 0) 0).setBridge b 0

/-- The X-domain port whose FS a bridge follows, if it is in use. -/
def State.bridgePort (s : State) (b : Nat) : Option Nat :=
  if b < 32 then
    if s.rowOn b && s.rowRd AUD_ROW_SRC_kind b == 0 && s.rowDomain b == 2 then some (s.rowRd AUD_ROW_SRC_port b) else none
  else
    let c := b + 16
    if s.colOn c && s.colRd AUD_COL_SINK_kind c == 0 && s.colDomain c == 2 then some (s.colRd AUD_COL_SINK_port c) else none

/-- The bridges on an X-domain port unlock. -/
def State.unlockPort (s : State) (p : Nat) : State :=
  (List.range 48).foldl (fun (t : State) b => if t.bridgePort b = some p then t.unlock b else t) s

/-- FS_LOST of the row pages: an enabled row on an X port without FS (R381). -/
def State.syncFsLost (s : State) : State :=
  (List.range 12).foldl (fun (t : State) g =>
    t.setLevel (audPage (1 + g)) 0 ((List.range 8).any fun i =>
      let r := 8 * g + i
      decide (r < 95) && t.rowOn r && t.rowRd AUD_ROW_SRC_kind r == 0 && t.rowDomain r == 2
        && !t.fsPresent (t.rowRd AUD_ROW_SRC_port r))) s

/-- BRIDGE_LOCK (R368): never within 16 ms of the last unlock. -/
def execBridgeLock (b : Fin 48) (s : State) : Host.Outcome State Fault Refusal :=
  let on := if b.val < 32 then s.rowOn b.val else s.colOn (b.val + 16)
  let fs := match s.bridgePort b.val with | some p => s.fsPresent p | none => true
  .next (
    if !on || !fs || s.bridgeOn b.val || decide (s.now < NatTbl.at_ s.audio.unlocked b.val - 1 + 16000000) then s
    else s.setBridge b.val 1)

/-- FS_TIMEOUT (R368): no edge for 2 mean periods. -/
def execFsTimeout (port : Fin 8) (s : State) : Host.Outcome State Fault Refusal :=
  let f := Tbl.get (fun _ => FsS.zero) s.audio.fs port.val
  let mean := f.periods.foldl (· + ·) 0 / max 1 f.periods.length
  .next (match f.last with
    | none => s
    | some t =>
      if s.tdmDomain port.val ≠ 2 ∨ s.now < t + 2 * mean then s
      else
        let s := s.setAudio fun a => { a with fs := Tbl.set (fun _ => FsS.zero) a.fs port.val FsS.zero }
        let s := (s.wr (audPage 21) AUD_TDM_STATUS_fs_present 0 port.val).wr (audPage 21) AUD_TDM_STATUS_rate_hz 0 port.val
        (s.unlockPort port.val).syncFsLost)

/-! Check-value units at TDM points (R327, R328). -/

/-- The slot samples of one sample period at a TDM point, fed to the units there; a frame is CHK_BLOCK periods. -/
def State.tdmPeriod (s : State) (port : Nat) (slots : List Nat) : State :=
  let pt := 24 + port
  (List.range 16).foldl (fun (t : State) n =>
    if t.chkPoint n ≠ some pt ∧ t.rd (chkPage n) CHK_CTRL_point ≠ pt then t
    else
      let t := if (t.check n).period = 0 then t.chkSample pt n else t
      if t.chkPoint n ≠ some pt then t
      else
        let y := (t.check n).period
        let t := (slots.zip (List.range slots.length)).foldl (fun (t : State) e =>
          ((t.check n).windows.filter fun i => (t.check n).holds i (some e.2) y).foldl
            (fun (t : State) i => t.chkWindow n i (some e.2) y [e.1 / 2 ^ 24 % 256, e.1 / 2 ^ 16 % 256, e.1 / 256 % 256, e.1 % 256]) t) t
        let t := t.setCheck n { t.check n with period := y + 1 }
        if (t.check n).get CHK_BLOCK_periods ≤ y + 1 then t.chkEnd n else t) s

/-- The word length of a TDM port. -/
def State.tdmWord (s : State) (p : Nat) : Nat := 16 + 8 * s.rd (audPage 21) AUD_TDM_CFG_word p

/-- A sample rounded half up to `w` bits and saturated (R372), with whether it was; left-justified in 32 bits. -/
def sinkRound (w : Nat) (y : Int) : Nat × Bool :=
  let half : Nat := if w = 32 then 0 else 2 ^ (31 - w)
  let v := (y + (half : Int)) / ((2 ^ (32 - w) : Nat) : Int)
  (unsigned 32 (satBits w v * ((2 ^ (32 - w) : Nat) : Int)), decide (satBits w v ≠ v))

/-- The column that sources a TDM slot. -/
def State.slotColumn (s : State) (port slot : Nat) : Option Nat :=
  s.colsOn.find? fun c => s.colRd AUD_COL_SINK_kind c == 0 && s.colRd AUD_COL_SINK_port c == port && s.colRd AUD_COL_SINK_slot c == slot

/-- A sample period of a port of domain M or X: the samples that the bridges deliver to its slots; 0 for a slot that no
column sources or whose bridge is unlocked. -/
def State.bridgedPeriod (s : State) (port : Nat) : State :=
  let w := s.tdmWord port
  let n := s.rd (audPage 21) AUD_TDM_CFG_slots_m1 port + 1
  let slots := (List.range n).map fun i => match s.slotColumn port i with
    | some c => if 48 ≤ c ∧ s.bridgeOn (c - 16) then (Config.bridged (s.fresh + i)).toNat / 2 ^ (32 - w) * 2 ^ (32 - w) else 0
    | none => 0
  ({ s with fresh := s.fresh + n }).tdmPeriod port slots

/-- TDM_FS (R368): an edge of the FS input of a port in X: a period more than 1 % off the mean of the last 8 unlocks the
bridges on it; the port's measured rate follows, and its slots go out. -/
def execTdmFs (port : Fin 8) (s : State) : Host.Outcome State Fault Refusal :=
  let p := port.val
  .next (
    if s.tdmDomain p ≠ 2 then s
    else
      let f := Tbl.get (fun _ => FsS.zero) s.audio.fs p
      let (periods, moved) : List Nat × Bool := match f.last with
        | none => ([], false)
        | some t =>
          let d := s.now - t
          let n := f.periods.length
          let sum : Nat := f.periods.foldl (· + ·) 0
          ((d :: f.periods).take 8, decide (0 < n) && decide (sum < 100 * (((n * d : Nat) : Int) - (sum : Int)).natAbs))
      let s := s.setAudio fun a => { a with fs := Tbl.set (fun _ => FsS.zero) a.fs p ⟨some s.now, periods, false⟩ }
      let sum : Nat := periods.foldl (· + ·) 0
      let s := s.wr (audPage 21) AUD_TDM_STATUS_fs_present 1 p
      let s := if sum = 0 then s else s.wr (audPage 21) AUD_TDM_STATUS_rate_hz (1000000000 * periods.length / sum) p
      let s := if moved then s.unlockPort p else s
      (s.syncFsLost).bridgedPeriod p)

/-! Gain nodes and ducking (R370, R371, R375, R376). -/

/-- The code written for node (r, c). -/
def State.nodeCode (s : State) (r c : Nat) : Nat :=
  if r = 95 then s.rd (audPage 23) (if c % 2 = 0 then AUD_CHIME_G_even else AUD_CHIME_G_odd) (c / 2)
  else s.rd (rowPage r) (if c % 2 = 0 then AUD_ROW_G_even else AUD_ROW_G_odd) (32 * (r % 8) + c / 2)

/-- The effective code of a node: 0 between rows and columns of two accounts and, but for the chime's, in the device safe
state; less the ducking into a column that the chime reaches. -/
def State.effective (s : State) (r c : Nat) : Nat :=
  let g := s.nodeCode r c
  if r = 95 then g
  else if s.owner (rowPage r) ≠ s.owner (eqPage c) ∨ s.deviceSafe then 0
  else if s.rd (audPage 23) AUD_CHIME_STATUS_active = 1 ∧ s.nodeCode 95 c ≠ 0 then g - s.rd (audPage 23) AUD_CHIME_DUCK_amount
  else g

/-- The nodes that hold a code, a gain in force or a pending change, by 64 r + c, in rising order. -/
def State.nodes (s : State) : List Nat :=
  let coded := s.regs.flatMap fun e =>
    let p := e.1 / 1024
    let w := e.1 % 1024
    if w < 256 ∨ p < audPage 1 then []
    else if p ≤ audPage 12 then
      let r := 8 * (p - audPage 1) + (w - 256) / 32
      let c := 2 * ((w - 256) % 32)
      [64 * r + c, 64 * r + c + 1]
    else if p = audPage 23 then [64 * 95 + 2 * (w - 256), 64 * 95 + 2 * (w - 256) + 1] else []
  (((coded ++ s.audio.inForce.map (·.1) ++ s.audio.wait.map (·.1)).foldl (fun t k => NatTbl.put t k 1) ([] : NatTbl))).map (·.1)

/-- A node's pending change as its effective code stands; the time of the first change of a pending one is kept. A change that the end of the
device safe state makes arises at that instant (R376). -/
def State.syncNode (s : State) (k : Nat) : State :=
  let goal := s.effective (k / 64) (k % 64)
  let a := s.audio
  let cur := NatTbl.at_ a.inForce k
  let arose := match a.wait.find? (·.1 == k) with | some e => e.2.2 | none => if a.muted then s.flt.leftAt else s.now
  if goal = cur then s.setAudio fun a => { a with wait := a.wait.filter (fun (e : Nat × (Nat × Nat)) => e.1 != k) }
  else s.setAudio fun a => { a with wait := Tbl.set (fun _ => (0, 0)) (a.wait.filter (fun (e : Nat × (Nat × Nat)) => e.1 != k)) k (goal, arose) }

/-- Every node's pending change, and AUD_CHIME_STATUS.ducking, brought up to date. -/
def State.syncNodes (s : State) : State :=
  let p := audPage 23
  let on := s.rd p AUD_CHIME_STATUS_active == 1 && (List.range 64).any fun c => s.nodeCode 95 c != 0
  let was := s.rd p AUD_CHIME_STATUS_ducking == 1
  let s := if on && !was then s.count p 0 else s
  let s := s.hwField p AUD_CHIME_STATUS_ducking (b2n on)
  s.nodes.foldl State.syncNode s

/-- The pending changes that satisfy `f` take place. -/
def State.applyNodes (s : State) (f : Nat → Bool) : State :=
  s.setAudio fun a =>
    { a with inForce := (a.wait.filter fun (e : Nat × (Nat × Nat)) => f e.1).foldl (fun t (e : Nat × (Nat × Nat)) => NatTbl.put t e.1 e.2.1) a.inForce,
             wait := a.wait.filter fun (e : Nat × (Nat × Nat)) => !f e.1 }

/-- GAIN_ZC_TIMEOUT (R371). -/
def execGainZcTimeout (row : Fin 96) (col : Fin 64) (s : State) : Host.Outcome State Fault Refusal :=
  let k := 64 * row.val + col.val
  .next (match s.audio.wait.find? (·.1 == k) with
    | none => s
    | some e =>
      if s.now < e.2.2 + s.rd (rowPage row.val) AUD_ROW_ZC_timeout_ms * 1000000 then s else s.applyNodes (· == k))

/-- CHIME_HOLD_EXPIRE (R375). -/
def execChimeHoldExpire (s : State) : Host.Outcome State Fault Refusal :=
  let p := audPage 23
  .next (
    if s.rd p AUD_CHIME_STATUS_active = 0 ∨ s.now < s.audio.chimeAt.getD 0 + s.rd p AUD_CHIME_DUCK_hold * 10000000 then s
    else (s.wr p AUD_CHIME_STATUS_active 0).syncNodes)

/-- A sample reaches −t dBFS: |x| ≥ 2^31 × 10^(−t / 20). -/
def reaches (x : Int) (t : Nat) : Bool := decide ((2 : Nat) ^ 620 ≤ x.natAbs ^ 20 * 10 ^ t)

/-! Streams (R380). -/

/-- Bytes of a sample in a format code 1 to 3. -/
def sampleBytes (fmt : Nat) : Nat := if fmt = 1 then 2 else 4

/-- The fields of an audio-out entry are in range. -/
def audioEntryOk (b : List Byte) : Bool :=
  let f := field b 0 1
  let c := field b 2 1
  decide (1 ≤ f ∧ f ≤ 3) && decide (1 ≤ c ∧ c ≤ 8) && decide (1 ≤ field b 3 1 ∧ field b 3 1 ≤ 48 / (c * sampleBytes f))

/-- A sample of an entry as a 32-bit fraction: frame `i`, channel `k`. -/
def entrySample (b : List Byte) (i k : Nat) : Int :=
  let f := field b 0 1
  let n := sampleBytes f
  let w := field b (16 + (i * field b 2 1 + k) * n) n
  if f = 1 then signed 32 (w * 65536) else if f = 2 then signed 32 (w * 256) else signed 32 w

/-- An entry becomes the one that plays; one with a field out of range stops the queue (R380). -/
def State.startEntry (s : State) (a q : Nat) (b : List Byte) : State :=
  let k := 256 * a + q
  if audioEntryOk b then s.setStream k { s.stream k with entry := b, pos := 0, ahead := (s.stream k).ahead.drop 1 }
  else s.queueStop a q

/-- The stream of queue `q` of account `a` with a frame ready, if there is one: when an entry is used up, the next comes from what RT10's
buffer holds of a DRAM ring (R232), or is read; a ring in DRAM is read while the DRAM is in service. -/
def State.readyFrame (s : State) (a q : Nat) : State :=
  let st := s.stream (256 * a + q)
  if !st.entry.isEmpty || !s.qWaiting a q || s.qType a q != qAudioOut then s
  else if !st.ahead.isEmpty then s.startEntry a q (st.ahead.headD [])
  else if s.headWaits a q then s.holdUnit a (some 10) .other
  else match s.headEntry a q 4 with
    | (s, .error _) => s.queueStop a q
    | (s, .ok b) => s.startEntry a q b

/-- Entries of a ring in DRAM read into RT10's buffer, beyond the one that plays, while the DRAM serves and fewer than `room` are held
(R232); the access that fails stops the queue. -/
def State.readAhead (s : State) (a q room : Nat) : Nat → State
  | 0 => s
  | n + 1 =>
    let k := 256 * a + q
    let st := s.stream k
    let held := st.ahead.length + b2n (!st.entry.isEmpty)
    let pa := s.qBase a q + 64 * ((s.qHead a q + held) % s.qSize a q)
    if !s.qIs a q qAudioOut || s.qctl a q ACC_Q_CTRL_space != 0 || decide (room ≤ held) || decide (idxDiff (s.qTail a q) (s.qHead a q) ≤ held)
        || !s.dramReady || !s.unitMay a pa then s
    else match s.readMem a 4 0 pa 64 (some 10) with
      | (s, .error _) => s.queueStop a q
      | (s, .ok b) => (s.setStream k { s.stream k with ahead := (s.stream k).ahead ++ [b] }).readAhead a q room n

/-- The frame taken; an entry whose frames are all taken is consumed. -/
def State.takeFrame (s : State) (a q : Nat) : State :=
  let k := 256 * a + q
  let st := s.stream k
  if st.entry.isEmpty then s
  else if st.pos + 1 < field st.entry 3 1 then s.setStream k { st with pos := st.pos + 1 }
  else (s.setStream k { st with entry := [], pos := 0 }).takeEntry a q

/-- A channel of a stream's present frame. -/
def State.frameSample (s : State) (a q ch : Nat) : State × Option Int :=
  let st := s.stream (256 * a + q)
  if st.entry.isEmpty then (s, none)
  else if field st.entry 2 1 ≤ ch then (s.next, some (Config.absentChannel s.fresh).toInt)
  else (s, some (entrySample st.entry st.pos ch))

/-- The queue streams of enabled rows and of the chime: account, queue, domain. -/
def State.streamsOn (s : State) : List (Nat × Nat × Nat) :=
  let rows := s.rowsOn.filterMap fun r =>
    if s.rowRd AUD_ROW_SRC_kind r = 2 then (s.ownerAcct (rowPage r)).map fun a => (a, s.rowRd AUD_ROW_SRC_queue r, s.rowRd AUD_ROW_SRC_domain r)
    else none
  let p := audPage 23
  let chime := if s.rd p AUD_CHIME_SRC_en = 1 ∧ s.rd p AUD_CHIME_SRC_kind = 2 then
      match s.ownerAcct p with | some a => [(a, s.rd p AUD_CHIME_SRC_index / 256 % 256, 0)] | none => [] else []
  (rows ++ chime).eraseDups

/-! Rows (R369). -/

/-- The input sample that arrived from a TDM slot or a PDM channel. -/
def inputOf (ins : List AudioIn) (pdm : Bool) (port slot : Nat) : Int :=
  match ins.find? fun e => e.pdm == pdm && e.port == port && e.slot == slot with | some e => e.sample.toInt | none => 0

/-- The sample of an enabled row, and whether the row is invalid: zero then. -/
def State.rowSample (s : State) (ins : List AudioIn) (r : Nat) : State × Int × Bool :=
  let kind := s.rowRd AUD_ROW_SRC_kind r
  let port := s.rowRd AUD_ROW_SRC_port r
  let dom := s.rowDomain r
  let a := (s.ownerAcct (rowPage r)).getD 0
  let unlocked := decide (r < 32) && !s.bridgeOn r
  let noFs := kind == 0 && dom == 2 && !s.fsPresent port
  let early := kind == 1 && decide (s.now < NatTbl.at_ s.audio.pdmAt port + 2000000)
  let (s, x) : State × Option Int :=
    if kind = 2 then s.frameSample a (s.rowRd AUD_ROW_SRC_queue r) (s.rowRd AUD_ROW_SRC_ch r)
    else if kind = 1 then (s, some (inputOf ins true port (s.rowRd AUD_ROW_SRC_slot r % 2)))
    else (s, some (inputOf ins false port (s.rowRd AUD_ROW_SRC_slot r)))
  let s := if x.isNone then s.count (rowPage r) 0 else s
  let bad := unlocked || noFs || early || x.isNone
  let (s, v) : State × Int := if dom = 0 then (s, x.getD 0) else (s.next, (Config.bridged s.fresh).toInt)
  let s := if bad then s.count (rowPage r) 1 else s
  (s.wr (rowPage r) AUD_ROW_STATUS_valid (b2n (!bad)) (r % 8), if bad then 0 else v, bad)

/-- The chime's sample (row 95), and whether it is invalid. -/
def State.chimeSample (s : State) (ins : List AudioIn) : State × Int × Bool :=
  let p := audPage 23
  let i := s.rd p AUD_CHIME_SRC_index
  if s.rd p AUD_CHIME_SRC_en = 0 then (s, 0, false)
  else if s.rd p AUD_CHIME_SRC_kind = 0 then (s, inputOf ins false (i % 8) (i / 16 % 16), false)
  else match s.frameSample ((s.ownerAcct p).getD 0) (i / 256 % 256) (i / 65536 % 8) with
    | (s, some x) => (s, x, false)
    | (s, none) => (s, 0, true)

/-- Every row's sample of this period: (row, sample, invalid). -/
def State.rowSamples (s : State) (ins : List AudioIn) : State × List (Nat × Int × Bool) :=
  let r := s.rowsOn.foldl (fun (r : State × List (Nat × Int × Bool)) n =>
    let (t, x, bad) := r.1.rowSample ins n
    (t, r.2 ++ [(n, x, bad)])) (s, [])
  let (t, x, bad) := r.1.chimeSample ins
  (t, r.2 ++ [(95, x, bad)])

/-- A zero crossing of a row: a sample of 0, or of the other sign than the one before. -/
def crossing (prev x : Int) : Bool := x == 0 || decide ((x < 0) ≠ (prev < 0))

/-! Equalisers (R373, R374). -/

/-- The coefficients and section count of a column's foreground and background banks; index 5 × section + t, 80 the count. -/
def eqKey (c i : Nat) : Nat := 2 ^ 25 + c * 128 + i
def State.frontEq (s : State) (c i : Nat) : Nat := (s.lut (eqKey c i)).toNat
def State.backEq (s : State) (c i : Nat) : Nat :=
  if i = 80 then s.colRd AUD_COL_EQ_sections c else (s.reg (fkey (eqPage c) AUD_COL_COEF (80 * (c % 8) + i))).toNat

/-- A column's banks exchange (R165, R374), and its crossfade of 2 ms begins. -/
def State.swapEq (s : State) (c : Nat) : State :=
  let p := eqPage c
  let s := (List.range 81).foldl (fun (t : State) i =>
    let f := t.frontEq c i
    let b := t.backEq c i
    let t := t.setLut (eqKey c i) (BitVec.ofNat 32 b)
    if i = 80 then t.wr p AUD_COL_EQ_sections f (c % 8) else t.wr p AUD_COL_COEF f (80 * (c % 8) + i)) s
  let b := ⟨0x080, 4, 8 + c % 8, 8 + c % 8⟩
  let s := (((s.wr p b (1 - s.rd p b)).wr p ⟨0x080, 4, c % 8, c % 8⟩ 0).wr p ⟨0x080, 4, 24 + c % 8, 24 + c % 8⟩ 1).count p 1
  let s := (s.setReady (eqTable c) 0).setWritten (eqTable c) false
  s.setAudio fun a =>
    let kept := (List.range 64).foldl (fun t i => Tbl.set (fun _ => (0 : Int)) t (64 * c + i) (Tbl.get (fun _ => (0 : Int)) a.delay (64 * c + i))) a.oldDelay
    { a with fade := NatTbl.put a.fade c (2 * s.perMs), oldDelay := kept }

/-- One section: its output from a sample and its delays x1, x2, y1, y2. -/
def eqSection (b : Nat → Int) (d : Nat → Int) (x : Int) : Int :=
  let acc := b 0 * x + b 1 * d 0 + b 2 * d 1 - b 3 * d 2 - b 4 * d 3
  let y := audDiv acc (2 ^ 29)
  if satBits 64 acc = acc ∧ satBits 32 y = y then y else (Config.eqWide acc).toInt

/-- A chain of sections from section `i`, `n` of them, over a table of delays (64 × column + 4 × section + j). -/
def eqChain (coef : Nat → Nat) (c : Nat) : Nat → Nat → List (Nat × Int) → Int → Int × List (Nat × Int)
  | 0, _, t, x => (x, t)
  | n + 1, i, t, x =>
    let d := fun j => Tbl.get (fun _ => (0 : Int)) t (64 * c + 4 * i + j)
    let y := eqSection (fun j => signed 32 (coef (5 * i + j))) d x
    let put := fun (t : List (Nat × Int)) j v => Tbl.set (fun _ => (0 : Int)) t (64 * c + 4 * i + j) v
    eqChain coef c n (i + 1) (put (put (put (put t 0 x) 1 (d 0)) 2 y) 3 (d 2)) y

/-- A column's output from its mixed sample: its chain, through the crossfade where one runs. -/
def State.equalise (s : State) (c : Nat) (x : Int) : State × Int :=
  let (y, d) := eqChain (s.frontEq c) c (s.frontEq c 80) 0 s.audio.delay x
  let left := NatTbl.at_ s.audio.fade c
  if left = 0 then (s.setAudio fun a => { a with delay := d }, y)
  else
    let n := 2 * s.perMs
    let (z, e) := eqChain (s.backEq c) c (s.backEq c 80) 0 s.audio.oldDelay x
    let k := n - left + 1
    let s := s.setAudio fun a => { a with delay := d, oldDelay := if left = 1 then Tbl.drop (fun j => j / 64 == c) e else e, fade := NatTbl.put a.fade c (left - 1) }
    let s := if left = 1 then s.wr (eqPage c) ⟨0x080, 4, 24 + c % 8, 24 + c % 8⟩ 0 else s
    (s, audDiv (((n - k : Nat) : Int) * z + (k : Int) * y) n)

/-- The swap points of a 1 ms block (R374): due columns that are not in a crossfade. -/
def State.swapColumns (s : State) : State :=
  if s.audio.samples % s.perMs ≠ 0 then s
  else (List.range 64).foldl (fun (t : State) c => if t.dueSwap (eqTable c) && NatTbl.at_ t.audio.fade c == 0 then t.swapEq c else t) s

/-! Columns (R369, R372). -/

/-- The linear factor of a gain code, in units of 2^-22. -/
def gainOf (g : Nat) : Int := if g = 0 then 0 else if g = 801 then 4194304 else ((Config.gainFactor g).toNat : Int)

/-- The gains in force into a column: row and code. -/
def State.gainsInto (s : State) (c : Nat) : List (Nat × Nat) :=
  (s.audio.inForce.filter fun (e : Nat × Nat) => e.1 % 64 == c).map fun (e : Nat × Nat) => (e.1 / 64, e.2)

/-- A parity error of a column (R381): its delay state restarts, and its samples are invalid for 1 ms. -/
def State.spoilColumn (s : State) (c : Nat) : State :=
  s.setAudio fun a =>
    { a with delay := Tbl.drop (fun j => j / 64 == c) a.delay, oldDelay := Tbl.drop (fun j => j / 64 == c) a.oldDelay,
             spoilt := NatTbl.put a.spoilt c (a.samples + s.perMs) }

/-- The bytes of audio entries that wait in the 16 KiB buffer of RT10 to be written (R232). -/
def State.audioHeld (s : State) : Nat :=
  s.mem.waiting.foldl (fun n w => if w.rt = some 10 ∧ opWrites w.op then n + opSize w.op else n) 0

/-- A frame of an audio-in queue gathered; a full entry is written, or dropped while its ring in DRAM cannot take it. -/
def State.gather (s : State) (a q fmt : Nat) (frame : List Int) (bad : Bool) : State :=
  let k := 256 * a + q
  let st := s.stream k
  let st := if st.gathered.isEmpty then { st with index := s.audio.samples % 2 ^ 32, at_ := s.now, invalid := false } else st
  let st := { st with gathered := st.gathered ++ [frame], invalid := st.invalid || bad }
  let bytes := sampleBytes (fmt + 1)
  let n := 48 / (frame.length * bytes)
  if st.gathered.length < n then s
  else
    let word := fun (v : Int) => if fmt = 0 then leBytes 2 (unsigned 32 v / 65536) else if fmt = 1 then leBytes 4 (unsigned 32 (v / 256)) else leBytes 4 (unsigned 32 v)
    let body := st.gathered.flatMap fun f => f.flatMap word
    let e := leBytes 1 (fmt + 1) ++ leBytes 1 (b2n st.invalid) ++ leBytes 1 frame.length ++ leBytes 1 n ++ leBytes 4 st.index ++ leBytes 8 st.at_
      ++ (body ++ List.replicate 48 0).take 48
    let s := s.setStream k StreamS.zero
    if !s.qIs a q qAudioIn then s
    else if s.qctl a q ACC_Q_CTRL_space = 0 ∧ 16384 ≤ s.audioHeld + 64 then
      let s := s.wr (accPage a 6) ACC_Q_LOST (min 0xFFFFFFFF (s.rd (accPage a 6) ACC_Q_LOST q + 1)) q
      s.setQueue k { s.queue k with lost := true }
    else s.ringWrite a q e

/-- DisplayPort audio is sent on output `n` (R379). -/
def State.dpAudio (s : State) (n : Nat) : Bool :=
  s.linkState n == 4 && (match (s.port n).caps with
    | some c => if s.rd (audPage 0) AUD_RATE_p = 1 then c.lpcm96 else c.lpcm48
    | none => false)

/-- The frame of the DisplayPort audio packets of output `n` (R379): 2 channels if only channels 0 and 1 are named, else 8;
nothing while it is not sent. -/
def State.dpFrame (s : State) (n : Nat) : List Int :=
  let named := s.colsOn.filter fun c => s.colRd AUD_COL_SINK_kind c == 1 && s.colRd AUD_COL_SINK_port c == n
  let ch := fun c => s.colRd AUD_COL_SINK_slot c % 8
  if !s.dpAudio n ∨ named.isEmpty then []
  else (List.range (if named.all fun c => decide (ch c < 2) then 2 else 8)).map fun k =>
    match named.find? fun c => ch c == k with | some c => Tbl.get (fun _ => (0 : Int)) s.audio.outputs c | none => 0

/-- The audio-in queues named by enabled columns: account, queue, format code, channels. -/
def State.inQueues (s : State) : List (Nat × Nat × Nat × Nat) :=
  (s.colsOn.filterMap fun c =>
    if s.colRd AUD_COL_SINK_kind c = 2 then (s.ownerAcct (eqPage c)).map fun a =>
      (a, s.colRd AUD_COL_SINK_queue c, s.colRd AUD_COL_SINK_fmt c, s.colRd AUD_COL_SINK_chans_m1 c + 1) else none).eraseDups

/-- One column of a sample period: mixed, equalised, delivered to its sink. -/
def State.column (s : State) (rows : List (Nat × Int × Bool)) (c : Nat) : State :=
  let p := eqPage c
  let (s, par) := s.useInject (audPage 0) 0
  let s := if par.isSome then (s.fault (audPage 0) 0).spoilColumn c else s
  let (s, eqp) := s.useInject p 0
  let s := if eqp.isSome then (s.fault p 0).spoilColumn c else s
  let gains := s.gainsInto c
  let of := fun r => (rows.find? fun (e : Nat × Int × Bool) => e.1 == r).map (·.2)
  let sum := gains.foldl (fun (n : Int) (e : Nat × Nat) => n + ((of e.1).map (·.1)).getD 0 * gainOf e.2) 0
  let touched := gains.any fun (e : Nat × Nat) => ((of e.1).map (·.2)).getD false
  let (s, y) := s.equalise c (satBits 32 (audDiv sum 4194304))
  let locked := decide (c < 48) || s.bridgeOn (c - 16)
  let bad := touched || !locked || decide (s.audio.samples < NatTbl.at_ s.audio.spoilt c)
  let s := (s.wr p AUD_COL_STATUS_valid (b2n (!bad)) (c % 8)).hapFollow c y
  let out := if locked then y else 0
  let kind := s.colRd AUD_COL_SINK_kind c
  let w := if kind = 0 then s.tdmWord (s.colRd AUD_COL_SINK_port c) else if kind = 1 then 24
    else if kind = 2 then 16 + 8 * s.colRd AUD_COL_SINK_fmt c else 32
  let (v, clip) := sinkRound w out
  let s := if clip ∧ kind ≠ 3 then s.count p 0 else s
  let s := if kind = 1 ∧ !s.dpAudio (s.colRd AUD_COL_SINK_port c) then s.count p 3 else s
  s.setAudio fun a => { a with outputs := Tbl.set (fun _ => 0) a.outputs c (signed 32 v) }

/-- The sinks that gather several columns: the TDM ports of P and M, and the audio-in queues. -/
def State.deliverSinks (s : State) : State :=
  let s := (List.range 8).foldl (fun (t : State) p =>
    if t.tdmDomain p = 0 then
      t.tdmPeriod p ((List.range (t.rd (audPage 21) AUD_TDM_CFG_slots_m1 p + 1)).map fun i => match t.slotColumn p i with
        | some c => unsigned 32 (Tbl.get (fun _ => (0 : Int)) t.audio.outputs c)
        | none => 0)
    else if t.tdmDomain p = 1 then (List.range t.mTicks).foldl (fun (t : State) _ => t.bridgedPeriod p) t else t) s
  s.inQueues.foldl (fun (t : State) e =>
    let (a, q, fmt, n) := e
    let cs := t.colsOn.filter fun c => t.colRd AUD_COL_SINK_kind c == 2 && t.ownerAcct (eqPage c) == some a && t.colRd AUD_COL_SINK_queue c == q
    let at_ := fun k => cs.find? fun c => t.colRd AUD_COL_SINK_ch c == k
    let frame := (List.range n).map fun k => match at_ k with | some c => Tbl.get (fun _ => (0 : Int)) t.audio.outputs c | none => 0
    t.gather a q fmt frame (cs.any fun c => t.colRd AUD_COL_STATUS_valid c == 0)) s

/-- The audio-out streams that play from a ring in DRAM (R232). -/
def State.dramStreams (s : State) : List (Nat × Nat × Nat) :=
  s.streamsOn.filter fun e => s.qctl e.1 e.2.1 ACC_Q_CTRL_space == 0 && s.qIs e.1 e.2.1 qAudioOut

/-- The entries of RT10's 16 KiB buffer, shared evenly by the rings that play from DRAM (log 54). -/
def State.bufferShare (s : State) : Nat := 256 / max 1 s.dramStreams.length

/-- RT10's buffer filled as far as the DRAM serves it (R232). -/
def State.fillBuffer (s : State) : State :=
  s.dramStreams.foldl (fun (t : State) e => t.readAhead e.1 e.2.1 s.bufferShare s.bufferShare) s

/-- The entries of a stream that the buffer holds, and the frames it has still to play. -/
def StreamS.entries (st : StreamS) : Nat := st.ahead.length + b2n (!st.entry.isEmpty)
def StreamS.frames (st : StreamS) : Nat :=
  (if st.entry.isEmpty then 0 else field st.entry 3 1 - st.pos) + (st.ahead.map fun b => field b 3 1).foldl (· + ·) 0

/-- The playing time of `n` frames of a queue domain, in units of 100 ns (R366). -/
def State.playTime (s : State) (dom n : Nat) : Nat :=
  if dom = 0 then n * 10000 / s.perMs else n * 10000000 / (if s.rd (audPage 0) AUD_RATE_m = 1 then 88200 else 44100)

/-- What the audio rings report at RT10 (R232): the least playing time of what its buffer holds of a ring, and its fill, from which what
waits to be written to audio-in rings is taken off (log 54). -/
def State.audioReport (s : State) : State :=
  let outs := s.dramStreams
  let inn := s.inQueues.any fun e => s.qctl e.1 e.2.1 ACC_Q_CTRL_space == 0 && s.qOn e.1 e.2.1
  if outs.isEmpty && !inn then s.setPort11 10 0xFFFF false false
  else
    let wait := ((s.mem.waiting.filter fun w => w.rt == some 10 && opWrites w.op).map fun w => opSize w.op).foldl (· + ·) 0
    let lv := (if outs.isEmpty then 16384 else 64 * (outs.map fun e => (s.stream (256 * e.1 + e.2.1)).entries).foldl (· + ·) 0) - wait
    let time := if outs.isEmpty then s.playTime 0 (lv / 64)
      else (outs.map fun e => s.playTime e.2.2 (s.stream (256 * e.1 + e.2.1)).frames).foldl min 0xFFFF
    s.setPort11 10 (min 0xFFFF time) (decide (lv < 8192)) (decide (lv < 4096))

/-- A chime at its threshold becomes active, from now (R375). -/
def State.chimeIn (s : State) (rows : List (Nat × Int × Bool)) : State :=
  let p := audPage 23
  let chime := ((rows.find? fun (e : Nat × Int × Bool) => e.1 == 95).map (·.2.1)).getD 0
  if s.rd p AUD_CHIME_SRC_en = 1 ∧ reaches chime (s.rd p AUD_CHIME_DUCK_thresh) then
    (s.setAudio fun a => { a with chimeAt := some s.now }).wr p AUD_CHIME_STATUS_active 1 else s

/-- In the device's safe state every gain in force but the chime's, and every one that waits, falls away at once. -/
def State.muteSafe (s : State) : State :=
  let mix := fun k => decide (k < 64 * 95)
  if s.deviceSafe then s.setAudio fun a => { a with inForce := Tbl.drop mix a.inForce, wait := Tbl.drop mix a.wait, muted := true }
  else s

/-- The gains follow their codes; one that waits is applied where its row crosses zero (R371). -/
def State.gainsAt (s : State) (rows : List (Nat × Int × Bool)) : State :=
  let s := s.syncNodes
  let s := s.applyNodes fun k => match rows.find? fun (e : Nat × Int × Bool) => e.1 == k / 64 with
    | some e => crossing (Tbl.get (fun _ => (0 : Int)) s.audio.prev e.1) e.2.1
    | none => true
  s.setAudio fun a => { a with muted := s.deviceSafe, prev := rows.foldl (fun t (e : Nat × Int × Bool) => Tbl.set (fun _ => (0 : Int)) t e.1 e.2.1) a.prev }

/-- The streams take their frames: one a sample, and those of domain M one for each of its ticks in it. -/
def State.takeFrames (s : State) (ticks : Nat) (streams : List (Nat × Nat × Nat)) : State :=
  streams.foldl (fun (t : State) e =>
    if e.2.2 = 0 then t.takeFrame e.1 e.2.1
    else (List.range ticks).foldl (fun (t : State) i => if i = 0 then t.takeFrame e.1 e.2.1 else (t.readyFrame e.1 e.2.1).takeFrame e.1 e.2.1) t) s

/-- AUDIO_SAMPLE (R366 to R380): one sample of the primary domain: swaps, streams, rows, the chime and its ducking, zero
crossings, columns, sinks. -/
def State.audioSample (s : State) (ins : List AudioIn) : State :=
  let s := s.swapColumns
  let r := (s.streamsOn.foldl (fun (t : State) e => t.readyFrame e.1 e.2.1) s).rowSamples ins
  let t := ((r.1.chimeIn r.2).muteSafe).gainsAt r.2
  let t := (t.colsOn.foldl (fun (t : State) c => t.column r.2 c) t).deliverSinks
  (((t.takeFrames s.mTicks s.streamsOn).fillBuffer).audioReport).setAudio fun a => { a with samples := a.samples + 1 }

/-- AUDIO_SAMPLE. -/
def execAudioSample (ins : List AudioIn) (s : State) : Host.Outcome State Fault Refusal := .next (s.audioSample ins)

/-! Register rules and writes (R365, R367, R368, R374). -/

/-- The source of a row that register value `v` names is its owner's, and in a domain that the row may take. -/
def State.rowSourceOk (s : State) (r : Nat) (v : Word) : Bool :=
  let code := s.owner (rowPage r)
  let kind := AUD_ROW_SRC_kind.get v
  let port := AUD_ROW_SRC_port.get v
  let far := if kind = 0 then s.tdmDomain port != 0 else kind == 2 && AUD_ROW_SRC_domain.get v == 1
  let held := if kind = 0 then s.pinOwner port == some code else if kind = 1 then s.pinOwner (8 + port) == some code
    else match s.ownerAcct (rowPage r) with | some a => s.qIs a (AUD_ROW_SRC_queue.get v) qAudioOut | none => false
  held && (!far || decide (r < 32))

/-- The sink of a column that register value `v` names is its owner's; columns that name one queue agree (R380). -/
def State.colSinkOk (s : State) (c : Nat) (v : Word) : Bool :=
  let code := s.owner (eqPage c)
  let kind := AUD_COL_SINK_kind.get v
  let port := AUD_COL_SINK_port.get v
  let far := kind == 0 && s.tdmDomain port != 0
  let held := if kind = 0 then s.pinOwner port == some code else if kind = 1 then s.owner (outPage port 0) == code
    else if kind = 2 then
      (match s.ownerAcct (eqPage c) with | some a => s.qIs a (AUD_COL_SINK_queue.get v) qAudioIn | none => false)
      && (List.range 64).all fun d => d == c || !s.colOn d || s.owner (eqPage d) != code || s.colRd AUD_COL_SINK_kind d != 2
        || s.colRd AUD_COL_SINK_queue d != AUD_COL_SINK_queue.get v
        || (s.colRd AUD_COL_SINK_fmt d == AUD_COL_SINK_fmt.get v && s.colRd AUD_COL_SINK_chans_m1 d == AUD_COL_SINK_chans_m1.get v)
    else true
  held && (!far || decide (48 ≤ c))

/-- The rule of a write to a row group's registers. -/
def State.rowRule (s : State) (g off : Nat) (v : Word) : Rule :=
  let ok := fun (b : Bool) => if b then Rule.ok else .range
  let p := audPage (1 + g)
  if off = AUD_ROW_ZC.off then .ok
  else if off < 0x400 then
    let i := (off - 0x100) / 16
    let r := 8 * g + i
    if r = 95 then .range
    else if s.rowOn r then ok (AUD_ROW_SRC_en.put v 1 == s.reg (regKey p off))
    else ok (AUD_ROW_SRC_en.get v == 0 || s.rowSourceOk r v)
  else
    let r := 8 * g + (off - 0x400) / 128
    let c := 2 * ((off - 0x400) / 4 % 32)
    if r = 95 then .range
    else ok ((AUD_ROW_G_even.get v == 0 || s.owner (eqPage c) == s.owner p) && (AUD_ROW_G_odd.get v == 0 || s.owner (eqPage (c + 1)) == s.owner p))

/-- The rule of a write to a column group's registers. -/
def State.colRule (s : State) (k off : Nat) (v : Word) : Rule :=
  let ok := fun (b : Bool) => if b then Rule.ok else .range
  let p := audPage (13 + k)
  if off = AUD_COL_BANK.off then .ok
  else if off < 0x400 then
    let c := 8 * k + (off - 0x100) / 16
    if off % 16 = 0 then
      if s.colOn c then ok (AUD_COL_SINK_en.put v 1 == s.reg (regKey p off))
      else ok (AUD_COL_SINK_en.get v == 0 || s.colSinkOk c v)
    else ok (!(s.rd p AUD_COL_BANK_ready).testBit (c % 8))
  else ok (!(s.rd p AUD_COL_BANK_ready).testBit ((off - 0x400) / 320))

/-- The rule of a write to the chime's page. -/
def State.chimeRule (s : State) (off : Nat) (v : Word) : Rule :=
  let ok := fun (b : Bool) => if b then Rule.ok else .range
  let p := audPage 23
  if off ≠ AUD_CHIME_SRC.off then .ok
  else if s.rd p AUD_CHIME_SRC_en = 1 then ok (AUD_CHIME_SRC_en.put v 1 == s.reg (regKey p off))
  else
    let i := AUD_CHIME_SRC_index.get v
    ok (AUD_CHIME_SRC_en.get v == 0 ||
      (if AUD_CHIME_SRC_kind.get v = 0 then s.pinOwner (i % 8) == some (s.owner p) && s.tdmDomain (i % 8) == 0
        else i / 2 ^ 18 == 0 && (match s.ownerAcct p with | some a => s.qIs a (i / 256 % 256) qAudioOut | none => false)))

/-- The rule of a write to register `off` of audio page `k`. -/
def State.audRule (s : State) (k off : Nat) (v : Word) : Rule :=
  if k = 0 then (if s.rowsOn.isEmpty && s.colsOn.isEmpty then .ok else .range)
  else if k ≤ 12 then s.rowRule (k - 1) off v
  else if k ≤ 20 then s.colRule (k - 13) off v
  else if k = 23 then s.chimeRule off v else .ok

/-- A write of the audio unit's registers, with what it starts. -/
def State.audWrite (s : State) (who k off : Nat) (value : Word) (be : BitVec 4) : State :=
  let p := audPage k
  s.writeWith who p off value be false (s.audRule k off) (s.writeRec who p off) fun v t =>
    let old := t.reg (regKey p off)
    let t := t.store p off v
    let newly := !old.getLsbD 0 && (t.reg (regKey p off)).getLsbD 0
    if k = 0 then if t.reg (regKey p off) = old then t else (List.range 48).foldl (fun (t : State) b => t.unlock b) t
    else if k ≤ 12 then
      if 0x400 ≤ off then t.syncNodes
      else if 0x100 ≤ off then
        let r := 8 * (k - 1) + (off - 0x100) / 16
        let t := if newly ∧ r < 32 then t.unlock r else t
        (if (t.reg (regKey p off)).getLsbD 0 then t else t.wr p AUD_ROW_STATUS_valid 0 (r % 8)).syncFsLost
      else t
    else if k ≤ 20 then
      if off = AUD_COL_BANK.off then
        (List.range 8).foldl (fun (t : State) i =>
          t.armTable (eqTable (8 * (k - 13) + i)) (b2n (old.getLsbD i)) (b2n ((t.reg (regKey p off)).getLsbD i))) t
      else if 0x400 ≤ off then t.setWritten (eqTable (8 * (k - 13) + (off - 0x400) / 320)) true
      else
        let c := 8 * (k - 13) + (off - 0x100) / 16
        if off % 16 ≠ 0 then t.setWritten (eqTable c) true
        else if newly ∧ 48 ≤ c then t.unlock (c - 16) else t
    else if k = 23 then t.syncNodes else t

/-- ROW_ENABLE and COLUMN_ENABLE (R368). -/
def execRowEnable (who : Actor) (r : Fin 96) (s : State) : Host.Outcome State Fault Refusal :=
  .next (s.audWrite who.val (1 + r.val / 8) (AUD_ROW_SRC.off + 16 * (r.val % 8)) (s.fieldWrite (rowPage r.val) AUD_ROW_SRC_en (r.val % 8) 1) 15)
def execColumnEnable (who : Actor) (c : Fin 64) (s : State) : Host.Outcome State Fault Refusal :=
  .next (s.audWrite who.val (13 + c.val / 8) (AUD_COL_SINK.off + 16 * (c.val % 8)) (s.fieldWrite (eqPage c.val) AUD_COL_SINK_en (c.val % 8) 1) 15)

/-! READY of a two-bank table (R165). -/

/-- TABLE_READY_SET (R165): READY bits set in the bank register of an output's colour tables, a scaler or a column group. -/
def execTableReadySet (who : Actor) (p : Page) (bits : Byte) (s : State) : Host.Outcome State Fault Refusal :=
  .next (match kindOf p.val with
    | (.out 3, n) => s.colBankWrite who.val n (BitVec.ofNat 32 (bits.toNat % 8)) 1
    | (.sclCtl, c) => s.sclBankWrite who.val c (BitVec.ofNat 32 (bits.toNat % 4)) 1
    | (.aud k, _) => if 13 ≤ k ∧ k ≤ 20 then s.audWrite who.val k AUD_COL_BANK.off (BitVec.ofNat 32 bits.toNat) 1 else s
    | _ => s)

end Sys2Proof.Machine
end

