-- ==== Sys2Proof/Machine/Faults.lean ====
section
/-! DEFINITION. The collector's scans (R314), FLT_OUT (R323), the heartbeat (R324), the safe-state requests (R321, R322),
and the writes of the fault pages and class fields (R315, R317). -/

namespace Sys2Proof.Machine

/-- FLT page 2. -/
def flt2 : Nat := fltPage 2

/-- The half-period of FLT_OUT in ns. -/
def State.halfNs (s : State) : Nat := s.rd flt2 FLT_OUT_CTRL_half_period * 10000

/-- An instant at which a condition of the wave ceased to hold is noted. -/
def State.noteCeased (s : State) (t : Nat) : State := { s with flt := { s.flt with ceased := max s.flt.ceased t } }

/-- The set bits for which no capture has reached the collector, in page order (R314). -/
def State.missed (s : State) : List (Nat × Nat) := s.uncleared.filter fun e => !s.flt.known.contains (16 * e.1 + e.2)

/-- A scan's late captures: the actions of each, and SCAN_MISMATCH (R314). -/
def State.lateCaptures (s : State) : State :=
  if s.missed.isEmpty then s
  else (s.missed.foldl (fun (t : State) e => State.settle (t.collect e.1 e.2)) s).fault flt2 0

/-- An instant at which the full-scan condition of the wave lapsed under the present half-period, and the heartbeat's (R323). -/
def State.noteScanLapse (s : State) : State :=
  match s.flt.scanEnd with
  | some t => if t + s.halfNs < s.now then s.noteCeased (t + s.halfNs) else s
  | none => s
def State.noteBeatLapse (s : State) : State :=
  match s.flt.heartbeat with
  | some (_, t) => if t + 4 * s.halfNs < s.now then s.noteCeased (t + 4 * s.halfNs) else s
  | none => s

/-- FAULT_SCAN (R314): a scan completes and the next begins. The class and action registers are checked as they are read; the parity error of an injection is class 0's. -/
def execFaultScan (s : State) : Host.Outcome State Fault Refusal :=
  .next (
    if !s.boot.awake then s
    else
      let (s, inj) := s.useInject flt2 4
      let s := if inj.isSome then ({ s with flt := { s.flt with parity := setBit s.flt.parity 0 true } } : State).fault flt2 4 else s
      let s := s.lateCaptures.noteScanLapse
      let s := (s.wr (fltPage 0) FLT_SCAN_scans ((s.rd (fltPage 0) FLT_SCAN_scans + 1) % 65536)).wr (fltPage 0) FLT_SCAN_last
        (min 0xFFFF ((s.now - s.flt.scanAt) / 10))
      { s with flt := { s.flt with scanAt := s.now, scanEnd := some s.now } })

/-- SCAN_LATE (R314): the scan in progress began 100 µs ago or earlier. -/
def execScanLate (s : State) : Host.Outcome State Fault Refusal :=
  .next (if !s.boot.awake ∨ s.now < s.flt.scanAt + 100000 then s else s.fault flt2 1)

/-! The safe state. -/

/-- The causes of the device safe state changed. -/
def State.safeChanged (s : State) : State :=
  (State.settle s.syncDevice).syncSafe

/-- SAFE_REQ_ASSERT (R322): low for 1 µs. -/
def execSafeReqAssert (lowNs : Nat) (s : State) : Host.Outcome State Fault Refusal :=
  .next (if lowNs < 1000 then s
    else ({ s with flt := { s.flt with safeReq := true } } : State).safeChanged.setLevel flt2 3 true)

/-- SAFE_REQ_RELEASE (R322): high for 10 ms. -/
def execSafeReqRelease (highNs : Nat) (s : State) : Host.Outcome State Fault Refusal :=
  .next (if highNs < 10000000 then s
    else (({ s with flt := { s.flt with safeReq := false } } : State).setLevel flt2 3 false).safeChanged)

/-! FLT_OUT (R323). -/

/-- The full-scan and heartbeat conditions of the wave at this instant. -/
def State.scanGood (s : State) : Bool := match s.flt.scanEnd with | some t => decide (s.now ≤ t + s.halfNs) | none => false
def State.beatGood (s : State) : Bool := match s.flt.heartbeat with | some (_, t) => decide (s.now ≤ t + 4 * s.halfNs) | none => false

/-- A half-period boundary: the pin toggles, stops low, or restarts high 16 half-periods after the latest instant at which
a condition ceased to hold. -/
def State.halfBoundary (s : State) : State :=
  if s.rd flt2 FLT_OUT_STATUS_compat = 1 ∨ !s.boot.awake then s
  else
    let s := (s.wr flt2 FLT_OUT_STATUS_scan_late (b2n (!s.scanGood))).wr flt2 FLT_OUT_STATUS_hb_late (b2n (!s.beatGood))
    let good := s.rd flt2 FLT_OUT_STATUS_pin_fault == 0 && s.scanGood && s.beatGood
    let k := fkey flt2 FLT_OUT_STATUS 0
    let w := s.reg k
    if s.rd flt2 FLT_OUT_STATUS_alive = 1 then
      if good then s.wr flt2 FLT_OUT_STATUS_level (1 - s.rd flt2 FLT_OUT_STATUS_level)
      else (s.count flt2 1).hwChange k (FLT_OUT_STATUS_level.put (FLT_OUT_STATUS_alive.put w 0) 0)
    else if good && decide (s.flt.ceased + 16 * s.halfNs ≤ s.now) then
      s.hwChange k (FLT_OUT_STATUS_level.put (FLT_OUT_STATUS_alive.put w 1) 1)
    else s

/-- Now is a half-period boundary not yet acted on: a whole multiple of half_period after the instant from which the
boundaries are counted (R323). -/
def State.boundaryDue (s : State) : Bool := (s.now - s.flt.wave) % s.halfNs == 0 && s.flt.flipped != s.now + 1

/-- The boundary of this instant, acted on once. -/
def State.atBoundary (s : State) : State := ({ s with flt := { s.flt with flipped := s.now + 1 } } : State).halfBoundary

/-- A boundary falls at this instant, and later ones are counted from it: PORST_N release, or a write that changes
half_period (R323). -/
def State.restartWave (s : State) : State := ({ s with flt := { s.flt with wave := s.now } } : State).atBoundary

/-- FLT_OUT_TOGGLE (R323). -/
def execFltOutToggle (s : State) : Host.Outcome State Fault Refusal := .next (if s.boundaryDue then s.atBoundary else s)

/-- A write of FLT_HEARTBEAT (R324): valid when it is the first, or one more than the last valid one. The Custodian writes it
while it runs. -/
def State.heartbeatWrite (s : State) (who : Nat) (value : Word) (be : BitVec 4) : State :=
  if who = 32 ∧ !s.cusUp then s
  else s.writeWith who flt2 FLT_HEARTBEAT.off value be true (fun _ => .ok) (fun _ => []) fun v t =>
    let n := FLT_HEARTBEAT_seq.get v
    match t.flt.heartbeat with
    | none => { t with flt := { t.flt with heartbeat := some (n, t.now) } }
    | some (m, _) =>
      if n ≠ (m + 1) % 65536 then t.fault flt2 2
      else
        let t := t.noteBeatLapse
        { t with flt := { t.flt with heartbeat := some (n, t.now) } }

/-- HEARTBEAT (R324). -/
def execHeartbeat (who : Actor) (seq : BitVec 16) (s : State) : Host.Outcome State Fault Refusal :=
  .next (s.heartbeatWrite who.val (seq.setWidth 32) 15)

/-- The half-period has changed from `half` (R323): what lapsed under the old one is noted, and a condition that held under the old one
and does not under the new one ceases now; the boundaries are counted anew. -/
def State.halfChanged (s t : State) : State :=
  let u := { t with flt := s.noteScanLapse.noteBeatLapse.flt }
  let u := if (s.scanGood && !u.scanGood) || (s.beatGood && !u.beatGood) then u.noteCeased u.now else u
  u.restartWave

/-- A write of FLT_ACTIONc (R315 to R317), FLT_OUT_CTRL, FLT_SAFE_CTRL or FLT_INJECT_PATTERN. Bits 4 and 5 of an open class's
mask are refused; the trusted masks are locked from the manager's release. -/
def State.fltWrite (s : State) (who k off : Nat) (value : Word) (be : BitVec 4) : State :=
  let p := fltPage k
  let rule : Word → Rule := fun v => if k = 0 ∧ v.toNat % 64 / 16 ≠ 0 then .range
    else if k = 2 ∧ off < 0x90 ∧ s.boot.released then .locked else .ok
  s.writeWith who p off value be false rule (s.writeRec who p off) fun v t =>
    let before := t
    let t := t.store p off v
    if off < 0x90 then
      let c := (off - 0x80) / 4 + (if k = 0 then 0 else 4)
      let t : State := { t with flt := { t.flt with parity := setBit t.flt.parity c false } }
      (State.settle ((t.syncFaults p).syncDevice)).syncSafe
    else if off = FLT_OUT_CTRL.off then (if t.halfNs = before.halfNs then t else before.halfChanged t)
    else if off = FLT_SAFE_CTRL.off then t.safeChanged
    else t

/-- SAFE_FORCE (R321) and FLT_OUT_PERIOD_WRITE (R323). -/
def execSafeForce (who : Actor) (on : Bool) (s : State) : Host.Outcome State Fault Refusal :=
  .next (s.fltWrite who.val 2 FLT_SAFE_CTRL.off (s.fieldWrite flt2 FLT_SAFE_CTRL_force 0 (b2n on)) 15)
def execFltOutPeriodWrite (who : Actor) (halfPeriod : BitVec 10) (s : State) : Host.Outcome State Fault Refusal :=
  .next (s.fltWrite who.val 2 FLT_OUT_CTRL.off (s.fieldWrite flt2 FLT_OUT_CTRL_half_period 0 halfPeriod.toNat) 15)

/-- The rule of a write to FLT_CLASS0 or FLT_CLASS1 (R315): the open world neither sets a trusted class nor changes a field
that holds one, and from the manager's release nobody does. The class fields of a trusted page are locked once the Custodian
has written them. -/
def State.classRule (s : State) (who p off : Nat) (v : Word) : Rule :=
  let cur := s.reg (regKey p off)
  let three := fun (w : Word) (i : Nat) => w.toNat / 2 ^ (3 * i) % 8
  if s.rd p OWNER_world == 1 && s.flt.classes.contains (regKey p off) && (who != 32 || s.boot.released) then .locked
  else if (List.range 8).any fun i => three v i != three cur i && (decide (4 ≤ three v i) || decide (4 ≤ three cur i))
    && (!s.trustedActor who || s.boot.released) then .locked
  else .ok

/-- The Custodian's write of a class register of a trusted page is noted (R315). -/
def State.noteClass (s : State) (who p off : Nat) : State :=
  if who = 32 ∧ s.rd p OWNER_world = 1 ∧ regKey p off ∉ s.flt.classes then
    { s with flt := { s.flt with classes := s.flt.classes ++ [regKey p off] } }
  else s

/-- A write of a page's class fields: counts, the pin and the device safe state follow. -/
def State.classWrite (s : State) (who p off : Nat) (value : Word) (be : BitVec 4) : State :=
  s.writeWith who p off value be false (s.classRule who p off) (s.writeRec who p off) fun v t =>
    (State.settle ((((t.store p off v).noteClass who p off).syncFaults p).syncDevice)).syncSafe

end Sys2Proof.Machine
end

