-- ==== Sys2Proof/Machine/Export.lean ====
section
/-! DEFINITION. The ledger's export ring (R307), its seals (R306, R308), and the halt of the Custodian (R288). -/

namespace Sys2Proof.Machine

/-- LDG page 0. -/
def ldg0 : Nat := ldgPage 0

/-- Held hardware entries appended once space returns, before any other entry (R310). -/
def State.flushHeld : List Held → State → State × List Sig
  | [], s => (s, [])
  | h :: hs, s =>
    if ringSize ≤ s.occupancy then (s, [])
    else
      let s := { s with led := { s.led with held := s.led.held.filter fun k => !k.same h.entry } }
      let (s, a) := s.append (if h.entry.kind = 0x0D then { h.entry with detail := h.count } else h.entry)
      let (s, b) := State.flushHeld hs s
      (s, a ++ b)

/-- An entry that an account's changes no longer occupy. -/
def State.entryGone (s : State) (e : Entry) : State :=
  let a := e.place % 128
  if a < 64 then { s with led := { s.led with acctOcc := NatTbl.put s.led.acctOcc a (NatTbl.at_ s.led.acctOcc a - 1) } } else s

/-- What returned space lets happen (R309, R310): held entries, and the end of LDG_FULL below the open world's limit. -/
def State.spaceBack (s : State) : State :=
  let s := State.settle (State.flushHeld s.led.held s)
  let s := s.syncLedger
  if s.occupancy < openLimit then s.setLevel ldg0 0 false else s

/-- The export ring's address and size in entries. -/
def State.expBase (s : State) : Nat := s.rd ldg0 LDG_EXP_BASE_LO_addr * 64 + s.rd ldg0 LDG_EXP_BASE_HI_addr_hi * 2 ^ 32
def State.expSize (s : State) : Nat := 2 ^ s.rd ldg0 LDG_EXP_CTRL_log2size

/-- The rule of a write to the export registers (R307): the write that sets en is refused if the ring does not lie in A0's DRAM regions;
its size stands while en is 1. -/
def State.expRule (s : State) (off : Nat) (v : Word) : Rule :=
  let t := s.setReg (regKey ldg0 off) (s.produced ldg0 off v)
  let was := s.rd ldg0 LDG_EXP_CTRL_en == 1
  let en := t.rd ldg0 LDG_EXP_CTRL_en == 1
  if off = LDG_EXP_HEAD.off then .ok
  else if was ∧ t.rd ldg0 LDG_EXP_CTRL_log2size ≠ s.rd ldg0 LDG_EXP_CTRL_log2size then .range
  else if en && !was && !t.inRegions 0 0 t.expBase (32 * t.expSize) then .range else .ok

/-- A write of LDG page 0's registers. -/
def State.ldgWrite (s : State) (who off : Nat) (value : Word) (be : BitVec 4) : State :=
  s.writeWith who ldg0 off value be (off == LDG_EXP_HEAD.off) (s.expRule off) (s.writeRec who ldg0 off) fun v t => t.store ldg0 off v

/-- EXPORT_ENABLE and EXPORT_HEAD (R307). -/
def execExportEnable (who : Actor) (s : State) : Host.Outcome State Fault Refusal :=
  .next (s.ldgWrite who.val LDG_EXP_CTRL.off (s.fieldWrite ldg0 LDG_EXP_CTRL_en 0 1) 15)
def execExportHead (who : Actor) (head : Word) (s : State) : Host.Outcome State Fault Refusal :=
  .next (s.ldgWrite who.val LDG_EXP_HEAD.off head 15)

/-- The ring entry that leaves next, the oldest one not yet exported. -/
def State.expNext (s : State) : Nat := (s.led.seq + 2 ^ 32 - s.led.occ) % 2 ^ 32 % ringSize

/-- What follows the write of an entry's bytes: a write that is dropped raises EXPORT_ERROR and clears en; else EXP_TAIL
advances and the entry's space returns. -/
def State.exported (e : Entry) (r : State × Option MemErr) : State :=
  match r with
  | (s, some _) => (s.wr ldg0 LDG_EXP_CTRL_en 0).fault ldg0 1
  | (s, none) =>
    let s : State := { s with led := { s.led with occ := s.led.occ - 1 } }
    let s := (s.setReg (fkey ldg0 LDG_EXP_TAIL 0) (BitVec.ofNat 32 ((s.reg (fkey ldg0 LDG_EXP_TAIL 0)).toNat + 1))).count ldg0 1
    (s.entryGone e).spaceBack

/-- The next entry copied into A0's ring as stored; one that the vault cannot read goes out with its time all ones. -/
def State.exportEntry (s : State) : State :=
  let i := s.expNext
  let e := Tbl.get (fun _ => Entry.blank) s.led.ring i
  let r := s.vltLine (vaultLedger + 32 * i)
  let u := if r.2 then r.1.fault ldg0 2 else r.1
  let bytes := e.body ++ leBytes 4 e.chain.toNat
  let bytes := if r.2 then List.replicate 8 255 ++ bytes.drop 8 else bytes
  State.exported e (u.postMem 0 4 0 (u.expBase + 32 * ((u.reg (fkey ldg0 LDG_EXP_TAIL 0)).toNat % u.expSize)) bytes)

/-- EXPORT_ENTRY (R307), where the export is enabled, an entry waits and the ring has room. -/
def execExportEntry (s : State) : Host.Outcome State Fault Refusal :=
  .next (
    if s.rd ldg0 LDG_EXP_CTRL_en = 0 ∨ s.led.occ = 0
        ∨ idxDiff (s.reg (fkey ldg0 LDG_EXP_TAIL 0)).toNat (s.reg (fkey ldg0 LDG_EXP_HEAD 0)).toNat = s.expSize then s
    else if s.dramReady && !s.unitMay 0 s.expBase then s.holdUnit 0 none .other
    else s.exportEntry)

/-! Seals (R306, R308). -/

/-- The last sequence of the span that is next to be sealed. -/
def State.spanEnd (s : State) : Nat := s.led.sealFrom / 4096 * 4096 + 4095

/-- The entries of a sealed span count as exported (R308). -/
def State.retire (s : State) (n : Nat) : State :=
  let n := min n s.led.occ
  let first := (s.led.seq + 2 ^ 32 - s.led.occ) % 2 ^ 32
  let s := (List.range n).foldl (fun (t : State) i => t.entryGone (Tbl.get (fun _ => Entry.blank) t.led.ring ((first + i) % ringSize))) s
  let s : State := { s with led := { s.led with occ := s.led.occ - n } }
  let tail := (s.reg (fkey ldg0 LDG_EXP_TAIL 0)).toNat
  let s := (List.range n).foldl (fun (t : State) _ => t.count ldg0 1) s
  (s.setReg (fkey ldg0 LDG_EXP_TAIL 0) (BitVec.ofNat 32 (tail + n))).spaceBack

/-- The words of a span's seal (R306): its first and last sequence, the time and the chain of its last entry, and the
signature's words, which the spec leaves open. -/
def State.sealWords (s : State) : List Word :=
  let e := Tbl.get (fun _ => Entry.blank) s.led.ring (s.spanEnd % ringSize)
  [BitVec.ofNat 32 s.led.sealFrom, BitVec.ofNat 32 s.spanEnd, BitVec.ofNat 32 e.time, BitVec.ofNat 32 (e.time / 2 ^ 32), e.chain, 0, 0, 0]
    ++ (List.range 24).map (Config.sealWord s.fresh)

/-- The seal of the span in its slot, LDG_SEAL_COUNT, and LDG's interrupt of a seal. -/
def State.sealSpan (s : State) : State :=
  let n := (s.reg (fkey (ldgPage 1) LDG_SEAL_COUNT 0)).toNat
  let t := (List.range 32).foldl (fun (t : State) i => t.setReg (fkey (ldgPage 1) LDG_SEAL (32 * (n % 16) + i)) (s.sealWords.getD i 0)) s.next
  let t := t.setReg (fkey (ldgPage 1) LDG_SEAL_COUNT 0) (BitVec.ofNat 32 (n + 1))
  let t : State := { t with led := { t.led with sealFrom := (s.spanEnd + 1) % 2 ^ 32 } }
  t.raise ldg0 0

/-- SEAL_WRITE (R306): the record of the span whose last entry has been appended. -/
def execSealWrite (s : State) : Host.Outcome State Fault Refusal :=
  .next (
    if !s.cusUp || s.boot.ledgerKeyGone || !s.led.started || decide (idxDiff s.led.seq s.led.sealFrom ≤ s.spanEnd - s.led.sealFrom) then s
    else if s.sealSpan.rd (cusPage 0) CUS_BOOT_STATUS_plan = 2 then s.sealSpan.retire (idxDiff (s.spanEnd + 1) s.led.sealFrom)
    else s.sealSpan)

/-- LOCKSTEP (R288): the Custodian halts. -/
def execLockstep (s : State) : Host.Outcome State Fault Refusal :=
  .next (if !s.cusUp then s
    else ({ s with boot := { s.boot with halted := true } } : State).fault (cusPage 4) 0)

end Sys2Proof.Machine
end

