-- ==== Sys2Proof/Machine/Startup.lean ====
section
/-! DEFINITION. Resets, straps, supplies, sensing and the backup domain (R395 to R399, R405 to R410). -/

namespace Sys2Proof.Machine

/-- CUS_LIFECYCLE's state and test access as the fuses give them. -/
def State.readFuses (s : State) : State :=
  (s.wr (cusPage 0) CUS_LIFECYCLE_state s.lifecycle).wr (cusPage 0) CUS_LIFECYCLE_tap (tapOf s.lifecycle)

/-! Cold reset (R398). -/

/-- The registers that the backup domain keeps (R408): alarms, retention data, the count of cold resets. -/
def backupKey (k : Nat) : Bool :=
  k == fkey (glbPage 0) GLB_RESET_CAUSE 0
    || (k / 1024 == glbPage 4 && (decide (0x90 ≤ 4 * (k % 1024) ∧ 4 * (k % 1024) ≤ 0xA0) || decide (0x400 ≤ 4 * (k % 1024))))

/-- A cold reset (R398): everything but the backup domain returns to reset; fuses and OTP are read again at the release. -/
def State.coldStart (s : State) (cause : Nat) : State :=
  let z := State.reset
  let t : State := { z with
    now := s.now, fresh := s.fresh, pending := s.pending, regs := s.regs.filter fun e => backupKey e.1,
    led := { z.led with seq := s.led.seq, chain := s.led.chain },
    boot := { z.boot with fuses := s.boot.fuses, keyHash := s.boot.keyHash, rollback := s.boot.rollback, keyLocked := s.boot.keyLocked, keysGone := s.boot.keysGone,
                          ledgerKeyGone := s.boot.ledgerKeyGone, retained := s.boot.retained, tbRestarted := s.boot.tbRestarted,
                          firedOff := s.boot.firedOff, alarmAt := s.boot.alarmAt, cause := cause, cooked := cause == 3,
                          temps := s.boot.temps, armed := s.boot.armed } }
  (t.wr (glbPage 0) GLB_RESET_CAUSE_count ((s.rd (glbPage 0) GLB_RESET_CAUSE_count + 1) % 65536)).readFuses

/-- COLD_RESET (R398): PORST_N low for 10 µs or more. -/
def execColdReset (lowNs : Nat) (s : State) : Host.Outcome State Fault Refusal :=
  .next (if s.boot.awake && decide (10000 ≤ lowNs) then s.coldStart 1 else s)

/-- BROWN_OUT (R396). -/
def execBrownOut (s : State) : Host.Outcome State Fault Refusal := .next (if s.boot.awake then s.coldStart 2 else s)

/-- A write of GLB_RESET (R398): any key but 0xC5 is out of range. -/
def State.glbResetWrite (s : State) (who : Nat) (value : Word) (be : BitVec 4) : State :=
  let p := glbPage 1
  s.writeWith who p GLB_RESET.off value be false (fun v => if GLB_RESET_key.get v = 0xC5 then .ok else .range)
    (s.writeRec who p GLB_RESET.off) fun v t => if GLB_RESET_cold.get v = 1 then t.coldStart 4 else t

/-- GLB_RESET. -/
def execGlbReset (who : Actor) (key : Byte) (cold : Bool) (s : State) : Host.Outcome State Fault Refusal :=
  .next (s.glbResetWrite who.val (BitVec.ofNat 32 (key.toNat * 256 + b2n cold)) 15)

/-! Straps (R397). -/

/-- A strap's value and whether its samples differed: the value they agree on, else the fallback. -/
def strap (samples : BitVec 16) (fallback : Nat) : Nat × Bool :=
  if samples = 0 then (0, false) else if samples = 0xFFFF then (1, false) else (fallback, true)

/-- BOOT_SRC: its two straps together; values 2 and 3 read as 1. -/
def bootSrc (b0 b1 : BitVec 16) : Nat × Bool :=
  let (x0, u0) := strap b0 1
  let (x1, u1) := strap b1 0
  if u0 || u1 then (1, true) else if x1 = 1 then (1, false) else (x0, false)

/-- PORST_RELEASE (R397): the straps latch, the sequencer begins the cold start (R45), the half-periods of FLT_OUT are counted
from here (R323), both host ports are without a link. A device that the thermal shutdown holds stays in reset. -/
def execPorstRelease (straps : StrapSamples) (s : State) : Host.Outcome State Fault Refusal :=
  .next (
    if s.boot.awake || s.boot.cooked then s
    else
      let (compat, uc) := strap straps.compat 0
      let (src, us) := bootSrc straps.bootSrc0 straps.bootSrc1
      let (test, ut) := strap straps.test 0
      let reserved := decide ((strap straps.bootSrc1 0) = (1, false) ∧ !(strap straps.bootSrc0 0).2)
      let st := s.lifecycle
      let s : State := { s with boot := { s.boot with awake := true }, flt := { s.flt with scanAt := s.now } }
      let p := glbPage 0
      let s := ((s.wr p GLB_STRAPS_compat compat).wr p GLB_STRAPS_boot_src src).wr p GLB_STRAPS_test test
      let s := (s.wr p GLB_STRAPS_unstable (b2n uc + 2 * b2n us + 4 * b2n ut)).wr p GLB_STRAPS_test_ignored
        (b2n (test == 1 && st != 0 && st != 3))
      let s := ((s.wr p GLB_RESET_CAUSE_cause s.boot.cause).wr (fltPage 2) FLT_OUT_STATUS_compat compat).readFuses
      let s := ([cusPage 0, vltPage 0, memPage 0] ++ (List.range 8).map fun n => outPage n 6).foldl
        (fun (t : State) q => t.wakeAsk q 2 0) s
      let s := if uc || us || ut || reserved then s.fault p 0 else s
      ((s.setLevel (hstPage 0) 0 true).setLevel (hstPage 1) 0 true).restartWave)

/-! Supplies (R395, R396). -/

/-- The monitor window of a rail: lowest and highest value in mV, VSRAM's around its request. -/
def State.railWindow (s : State) (r : Nat) : Nat × Nat :=
  let code := s.rd (glbPage 2) GLB_AVS_STATUS_vsram_code
  let v := if code = 0 then 800 else 500 + 5 * code
  match r with
  | 0 => (500, 970)
  | 1 => (cdiv (v * 95) 100, v * 105 / 100)
  | 2 => (475, 525)
  | 3 => (998, 1102)
  | 4 => (808, 892)
  | 5 => (1710, 1890)
  | 6 => (1710, 1890)
  | 7 => (760, 840)
  | _ => (1700, 3600)

/-- One sample of a rail: its register, and the samples outside its window in a row. -/
def State.railTake (s : State) (r mv : Nat) : State :=
  let (lo, hi) := s.railWindow r
  let ok := decide (lo ≤ mv ∧ mv ≤ hi)
  let s := (s.wr (glbPage 3) GLB_RAIL_mv mv r).wr (glbPage 3) GLB_RAIL_in_window (b2n ok) r
  { s with boot := { s.boot with railBad := NatTbl.put s.boot.railBad r (if ok then 0 else min 3 (NatTbl.at_ s.boot.railBad r + 1)) } }

/-- RAIL_OOR, present while some rail's last 3 samples or more lie outside its window. -/
def State.syncRails (s : State) : State :=
  s.setLevel (glbPage 3) 0 ((List.range 9).any fun r => NatTbl.at_ s.boot.railBad r == 3)

/-- VBAT_LOW follows VBAT back (R410). -/
def State.vbatSeen (s : State) (mv : Nat) : State :=
  if 1700 ≤ mv then (s.wr (glbPage 4) GLB_BKP_STATUS_vbat_ok 1).setLevel (glbPage 4) 0 false
  else s.wr (glbPage 4) GLB_BKP_STATUS_vbat_ok 0

/-- RAIL_SAMPLE (R396): while PORST_N is high. -/
def execRailSample (r : Fin 9) (mv : BitVec 13) (s : State) : Host.Outcome State Fault Refusal :=
  .next (
    if !s.boot.awake then s
    else
      let s := (s.railTake r.val mv.toNat).syncRails
      if r.val = 8 then s.vbatSeen mv.toNat else s)

/-- VBAT_LOW (R410): VBAT below 1.7 V for 1 ms. While the device is off or in reset that is the loss of the backup domain: the
time base restarts from 0, the alarms are cleared, retention is lost. -/
def execVbatLow (s : State) : Host.Outcome State Fault Refusal :=
  .next (
    if s.boot.awake then (s.wr (glbPage 4) GLB_BKP_STATUS_vbat_ok 0).setLevel (glbPage 4) 0 true
    else
      let s := s.overRegs (fun k => backupKey k) fun k _ => regReset k
      { s with now := 0, led := { s.led with seq := 0, chain := 0 },
               boot := { s.boot with retained := false, tbRestarted := true, firedOff := [], alarmAt := [], armed := [] } })

/-! Temperature (R404, R405). -/

/-- A reading lies in -45 °C to 140 °C. -/
def sensorOk (quarterC : Int) : Bool := decide (-180 ≤ quarterC ∧ quarterC ≤ 560)

/-- The hottest valid sensor, the lowest index of equals: reading and index. -/
def State.hottest (s : State) : Option (Int × Nat) :=
  (List.range 32).foldl (fun (m : Option (Int × Nat)) i =>
    if s.rd (glbPage 3) GLB_TEMP_valid i = 0 then m
    else
      let t := signed 12 (s.rd (glbPage 3) GLB_TEMP_temp i)
      match m with | some (u, _) => if u < t then some (t, i) else m | none => some (t, i)) none

/-- A reading of one sensor: its register, and SENSOR_FAIL when it becomes invalid. -/
def State.tempTake (s : State) (i : Nat) (quarterC : Int) : State :=
  let p := glbPage 3
  let ok := sensorOk quarterC
  let was := s.rd p GLB_TEMP_valid i
  let s : State := { s with boot := { s.boot with temps := Tbl.set (fun _ => 0) s.boot.temps i quarterC } }
  let s := (s.wr p GLB_TEMP_temp (unsigned 12 quarterC) i).wr p GLB_TEMP_valid (b2n ok) i
  if !ok && was == 1 then s.fault p 2 else s

/-- GLB_TEMP_MAX and THERM_HIGH. -/
def State.syncTemps (s : State) : State :=
  let p := glbPage 3
  match s.hottest with
  | none => s.setLevel p 1 false
  | some (t, i) =>
    ((s.wr p GLB_TEMP_MAX_temp (unsigned 12 t)).wr p GLB_TEMP_MAX_sensor i).setLevel p 1
      (decide ((4 * s.rd p GLB_SENS_LIMITS_t_high : Int) < t))

/-- TEMP_SAMPLE (R405): from the boot's step 3 on, and, by the always-on domain alone, while a thermal shutdown holds the
device. A valid reading of 135 °C or more shuts the device down. -/
def execTempSample (i : Fin 32) (quarterC : Int) (s : State) : Host.Outcome State Fault Refusal :=
  .next (
    if s.boot.cooked then { s with boot := { s.boot with temps := Tbl.set (fun _ => 0) s.boot.temps i.val quarterC } }
    else if s.rd (cusPage 0) CUS_BOOT_STATUS_stage < 3 then s
    else
      let s := (s.tempTake i.val quarterC).syncTemps
      if sensorOk quarterC && decide (540 ≤ quarterC) then s.coldStart 3 else s)

/-- THERMAL_RELEASE (R405): every sensor reads below 115 °C. -/
def execThermalRelease (s : State) : Host.Outcome State Fault Refusal :=
  .next (
    if s.boot.cooked && (List.range 32).all fun i => decide (Tbl.get (fun _ => (0 : Int)) s.boot.temps i < 460)
    then { s with boot := { s.boot with cooked := false } } else s)

/-! The time base and the alarms (R408, R409). -/

/-- The time of an alarm. -/
def State.alarmTime (s : State) (k : Nat) : Nat := s.rd (glbPage 4) GLB_ALARM_LO k + s.rd (glbPage 4) GLB_ALARM_HI k * 2 ^ 32

/-- After a write of alarm `k`'s time or enable: it is armed if it is enabled and its time is still to come. -/
def State.armAlarm (s : State) (k : Nat) : State :=
  let on := (s.rd (glbPage 4) GLB_ALARM_CTRL_en).testBit k && decide (s.now ≤ s.alarmTime k)
  { s with boot := { s.boot with armed := s.boot.armed.filter (· != k) ++ (if on then [k] else []) } }

/-- Alarm `k` fires, once its time has come: latched, its time stored; with PORST_N high its event and entry, else on_vbat. -/
def State.fireAlarm (s : State) (k : Nat) : State :=
  if !s.boot.armed.contains k || decide (s.now < s.alarmTime k) then s
  else
    let p := glbPage 4
    let t := s.alarmTime k
    let s : State := { s with boot := { s.boot with armed := s.boot.armed.filter (· != k), alarmAt := NatTbl.put s.boot.alarmAt k t } }
    if s.boot.awake then (s.hwField p ⟨GLB_ALARM_CTRL.off, 4, 8 + k, 8 + k⟩ 1).raise p k
    else
      let s := (s.wr p ⟨GLB_ALARM_CTRL.off, 4, 8 + k, 8 + k⟩ 1).wr p ⟨GLB_ALARM_CTRL.off, 4, 12 + k, 12 + k⟩ 1
      { s with boot := { s.boot with firedOff := (s.boot.firedOff.filter fun (e : Nat × Nat) => e.1 != k) ++ [(k, t)] } }

/-- ALARM_FIRE (R409). -/
def execAlarmFire (k : Fin 2) (s : State) : Host.Outcome State Fault Refusal := .next (s.fireAlarm k.val)

/-- A write of an alarm's time or of GLB_ALARM_CTRL: on_vbat clears with the latch; `firing` names alarms that fire in the
same access cycle, whose latch stays set. -/
def State.alarmWrite (s : State) (who off : Nat) (value : Word) (be : BitVec 4) (firing : Nat) : State :=
  let p := glbPage 4
  let s := s.writeWith who p off value be false (fun _ => .ok) (s.writeRec who p off) fun v t =>
    let was := t.rd p GLB_ALARM_CTRL_en
    let t := t.store p off v
    if off = GLB_ALARM_CTRL.off then
      let on := t.rd p GLB_ALARM_CTRL_on_vbat &&& t.rd p GLB_ALARM_CTRL_latched
      let t := t.wr p GLB_ALARM_CTRL_on_vbat on
      (List.range 2).foldl (fun (t : State) k =>
        if was.testBit k = (t.rd p GLB_ALARM_CTRL_en).testBit k then t else t.armAlarm k) t
    else t.armAlarm ((off - GLB_ALARM_LO.off) / 8)
  (bitsOf firing 2).foldl State.fireAlarm s

/-- ALARM_CLEAR (R409). -/
def execAlarmClear (who : Actor) (bits firing : BitVec 2) (s : State) : Host.Outcome State Fault Refusal :=
  .next (s.alarmWrite who.val GLB_ALARM_CTRL.off (s.fieldWrite (glbPage 4) GLB_ALARM_CTRL_latched 0 bits.toNat) 15 firing.toNat)

/-- TIME_BASE_READ (R408): a read of GLB_TB_LO latches GLB_TB_HI. -/
def execTimeBaseRead (who : Actor) (s : State) : Host.Outcome State Fault Refusal :=
  let p := glbPage 4
  .next (
    if who.val < 32 && !s.hostHeard then { s with resp := ⟨true, [0, 0, 0, 0]⟩ }
    else if !s.owns who.val p then
      { (if who.val < 32 then s.charge who.val else s) with resp := ⟨true, [0, 0, 0, 0]⟩ }
    else
      let s := (s.wr p GLB_TB_LO_ns_lo (s.now % 2 ^ 32)).wr p GLB_TB_HI_ns_hi (s.now / 2 ^ 32 % 2 ^ 32)
      { s with resp := ⟨false, leBytes 4 (s.now % 2 ^ 32)⟩ })

end Sys2Proof.Machine
end

