-- ==== Sys2Proof/Machine/BusWrite.lean ====
section
/-! DEFINITION. A write of any register of a native page (R20): the register's own path where it has one, else the checks of
R20 with the rule that the register's chapter states for it. -/

namespace Sys2Proof.Machine

/-- A rule from a condition: out of range where it fails. -/
def Rule.of (b : Bool) : Rule := if b then .ok else .range

/-- R257: an account writes to escrow only in the states that accept it. -/
def State.escrowRule (s : State) (who p off : Nat) : Rule :=
  match rowAt p off with
  | some (r, _) => .of (!(r.fields.any (·.acc == .rwe)) || decide (32 ≤ who) || s.accepts who)
  | none => .ok

/-- A write that stores the value, with a rule and an effect after it. -/
def State.plainWrite (s : State) (who p off : Nat) (value : Word) (be : BitVec 4) (rule : Word → Rule) (after : State → State) : State :=
  s.writeWith who p off value be false (fun v => match s.escrowRule who p off with | .ok => rule v | r => r)
    (s.writeRec who p off) fun v t => after (t.store p off v)

/-- The register's value that a write would produce, put in place, to check a rule between registers. -/
def State.withValue (s : State) (p off : Nat) (v : Word) : State := s.setReg (regKey p off) (s.produced p off v)

/-! Check-value units (R327 to R329). -/

/-- The owner code of a snoop point's output, capture port or TDM port. -/
def State.pointOwner (s : State) (pt : Nat) : Option Nat :=
  if pt < 16 then some (s.owner (outPage (pt % 8) 0))
  else if pt < 18 then some (s.owner (capPage (pt - 16)))
  else s.pinOwner (pt - 24)

/-- The rectangle of window `i` as set: columns (none where the point ignores them) and lines, first and past the end. -/
def State.chkWindowSet (s : State) (n i : Nat) : Option (Nat × Nat) × (Nat × Nat) :=
  let p := chkPage n
  let dsc := 8 ≤ s.rd p CHK_CTRL_point && s.rd p CHK_CTRL_point < 16
  let x := s.rd p CHK_WIN_XY_x i
  let y := s.rd p CHK_WIN_XY_y i
  (if dsc then none else some (x, x + s.rd p CHK_WIN_WH_w_m1 i + 1), (y, y + s.rd p CHK_WIN_WH_h_m1 i + 1))

/-- Two half-open intervals meet. -/
def spansMeet (a b : Nat × Nat) : Bool := decide (a.1 < b.2 ∧ b.1 < a.2)

/-- No two enabled windows share a unit of data, and a DSC point's windows are whole blocks of 8 lines (R328). -/
def State.chkWindowsOk (s : State) (n : Nat) : Bool :=
  let on := (List.range 16).filter fun i => s.rd (chkPage n) CHK_WIN_CTRL_en i == 1
  on.all (fun i =>
    let (x, y) := s.chkWindowSet n i
    (x.isSome || (y.1 % 8 == 0 && y.2 % 8 == 0))
      && on.all fun j => i == j ||
        (let (x', y') := s.chkWindowSet n j
         !(spansMeet y y' && (match x, x' with | some a, some b => spansMeet a b | _, _ => true))))

/-- The rule of a write to a check-value unit's registers. -/
def State.chkRule (s : State) (n off : Nat) (v : Word) : Rule :=
  let p := chkPage n
  let t := s.withValue p off v
  if off = CHK_CTRL.off then
    .of ((s.trustedPage p || s.pointOwner (CHK_CTRL_point.get v) == some (s.owner p)) && t.chkWindowsOk n)
  else if 0x100 ≤ off ∧ off % 0x40 = 0x20 then .of (s.rd p CHK_CTRL_en == 0)
  else if 0x100 ≤ off ∧ off % 0x40 ≤ 8 then .of (t.chkWindowsOk n)
  else .ok

/-! Inline ECC descriptors (R241). -/

/-- A descriptor's region, in units of 2 MiB. -/
def State.eccSpan (s : State) (i : Nat) : Nat × Nat :=
  let b := s.rd (memPage 17) MEM_ECC_BASE_base i
  (b, b + s.rd (memPage 17) MEM_ECC_SIZE_size i)

/-- The regions lie within the populated capacity and do not overlap. -/
def State.eccOk (s : State) : Bool :=
  let used := (List.range 8).filter fun i => s.rd (memPage 17) MEM_ECC_SIZE_size i != 0
  used.all fun i => decide ((s.eccSpan i).2 * 2 ^ 21 ≤ 2 ^ (s.capBit + 6)) && used.all fun j => i == j || !spansMeet (s.eccSpan i) (s.eccSpan j)

/-- A write leaves the panic watermark below the urgent one (R178). -/
def State.watermarkRule (s : State) (p off : Nat) (v : Word) : Rule :=
  let t := s.withValue p off v
  .of ((off != OUT_WM_URGENT.off && off != OUT_WM_PANIC.off) || decide (t.rd p OUT_WM_PANIC_level < t.rd p OUT_WM_URGENT_level))

/-! The native pages. -/

/-- A write of the block registers of a page. -/
def State.blockWrite (s : State) (who p off : Nat) (value : Word) (be : BitVec 4) : State :=
  let plain := fun (rule : Word → Rule) (after : State → State) => s.plainWrite who p off value be rule after
  let simple := plain (fun _ => .ok) id
  match kindOf p with
  | (.glb 1, _) => if off = GLB_RESET.off then s.glbResetWrite who value be else simple
  | (.glb 2, _) =>
    if off = GLB_SEQ_STATUS.off then s.clrWorstWrite who value be
    else if off = GLB_AVS_LIMITS.off then plain (fun v => .of (decide (GLB_AVS_LIMITS_min_code.get v ≤ GLB_AVS_LIMITS_max_code.get v))) id
    else simple
  | (.glb 3, _) => plain (fun _ => .ok) State.syncTemps
  | (.glb 4, _) =>
    if GLB_ALARM_LO.off ≤ off ∧ off ≤ GLB_ALARM_CTRL.off ∧ (rowAt p off).isSome then s.alarmWrite who off value be 0 else simple
  | (.flt k, _) =>
    if k = 2 ∧ off = FLT_HEARTBEAT.off then s.heartbeatWrite who value be
    else if k = 0 ∨ k = 2 then s.fltWrite who k off value be else simple
  | (.ldg 0, _) => s.ldgWrite who off value be
  | (.chk, n) => plain (s.chkRule n off) fun t => if off = CHK_CTRL.off then t.syncSafe else t
  | (.acc k, a) =>
    if k = 0 then
      if off = ACC_PB_DOORBELL.off then s.pbDoorbellWrite who a value be
      else if off = ACC_PB_RING.off then s.pbRingWrite who a value be
      else if off = ACC_EVENT_Q.off then plain (fun v => .of (ACC_EVENT_Q_en.get v == 0 || s.qIs a (ACC_EVENT_Q_queue.get v) qEvent)) id
      else if off = ACC_EFX_TABLE.off then plain (fun v => .of (s.inRegions a 1 (64 * ACC_EFX_TABLE_offset.get v) 1)) id
      else simple
    else if k = 1 then (if off = ACC_COMMIT.off then s.commitWrite who a value be else simple)
    else if k = 3 then (if ACC_Q_DB.off ≤ off ∧ (off - ACC_Q_DB.off) % 8 = 0 then s.doorbellWrite who a ((off - ACC_Q_DB.off) / 8) value be else simple)
    else if k = 4 ∨ k = 5 then
      if ACC_Q_BASE_LO.off ≤ off then s.queueWrite who a (128 * (k - 4) + (off - ACC_Q_BASE_LO.off) / 16) off value be else simple
    else if k = 7 then
      if off = NS_TX_SEND.off then s.nsSendWrite who a value be
      else if off = NS_RX_SEL.off then s.nsSelWrite who a value be
      else if off = NS_RX_TAKE.off then s.nsTakeWrite who a value be
      else if NS_TX_DATA.off ≤ off ∧ off < NS_TX_DATA.off + 64 then
        s.writeWith who p off value be true (fun _ => .ok) (fun _ => []) fun v t => t.store p off v
      else simple
    else simple
  | (.branch, b) => if off = MNT_B_RETIRE.off then s.branchWrite who b value be else simple
  | (.out k, n) =>
    if k = 0 then s.timWrite who n off value be
    else if k = 1 then plain (s.watermarkRule p off) fun t => t.updateFill (t.gen n)
    else if k = 2 ∧ off = OUT_CMP_PRESS.off then plain (fun _ => .of (!s.enabled n)) id
    else if k = 3 ∧ off = OUT_COL_LOAD.off then s.loadWrite who n value be
    else if k = 3 ∧ off = OUT_COL_BANK.off then s.colBankWrite who n value be
    else if k = 5 ∧ off = OUT_FMT_CTRL.off then s.fmtWrite who n value be
    else if k = 6 ∧ off = OUT_LNK_CTRL.off then s.lnkWrite who n value be
    else if k = 6 ∧ off = OUT_LINK_LIMITS.off then s.limitsWrite who n value be
    else simple
  | (.sclCtl, c) =>
    if off = SCL_BANK.off then s.sclBankWrite who c value be
    else if off == SCL_CTRL.off && (match s.ownerAcct p with | some a => (s.acct a).legacy | none => false) then
      s.plainWrite who p off (SCL_CTRL_coef_src.put value 1) be (fun _ => .ok) id
    else simple
  | (.sclCoef, c) => if 0x80 ≤ off ∧ (rowAt p off).isSome then s.coefWrite who c off value be else simple
  | (.mem k, _) =>
    if k = 0 then
      if off = MEM_CTRL.off then s.memCtrlWrite who value be
      else if off = MEM_CFG.off ∨ MEM_MAP0_LO.off ≤ off then plain (fun _ => .of (s.rd p MEM_STATUS_state == 0)) id
      else simple
    else if k = 17 ∧ MEM_ECC_BASE.off ≤ off then plain (fun v => .of (s.withValue p off v).eccOk) id
    else simple
  | (.memCh, _) =>
    if off = MEM_CH_CTRL.off then plain (fun v => .of (MEM_CH_CTRL_policy.get v == 1 || s.rd (memPage 0) MEM_CTRL_strict == 0)) id else simple
  | (.cap, c) => s.capWrite who c off value be
  | (.aud k, _) => s.audWrite who k off value be
  | (.tchB, b) => s.tchWrite who b off value be
  | (.hapCh, h) => s.hapWrite who h off value be (s.pinHigh h)
  | (.gng, _) => plain (fun _ => .ok) State.linkFollow
  | _ => simple

/-- A write of any register of a native page. -/
def State.pageWrite (s : State) (who p off : Nat) (value : Word) (be : BitVec 4) : State :=
  if off = PAGE_CTRL.off then s.pageCtrlWrite who p value be
  else if off = EVT_ENABLE.off then s.plainWrite who p off value be (evtRule p) id
  else if off = EVT_PENDING.off then s.pendingWrite who p value be 0
  else if off = FLT_STICKY.off then s.stickyWrite who p value be 0
  else if off = FLT_CLASS0.off ∨ off = FLT_CLASS1.off then s.classWrite who p off value be
  else if off = FLT_INJECT.off then s.injectWrite who p value be
  else if off < 0x80 then s.plainWrite who p off value be (fun _ => .ok) id
  else s.blockWrite who p off value be

end Sys2Proof.Machine
end

