-- ==== Sys2Proof/Machine/Legacy.lean ====
section
/-! DEFINITION. The legacy window of the 4410 personality (R385 to R393): where each offset leads, its narrowed writes, and
the reads that clear. -/

namespace Sys2Proof.Machine

/-- What an offset of the legacy window is (R386, R387): a register that ignores writes, LEG_INT_ENABLE, a native register,
one applied at once, a layer register (with its place: output k, position j), dither and depth, a pair of gains (row, first
column), or nothing. -/
inductive LegReg where
  | readOnly
  | intEnable
  | native (p off : Nat)
  | atOnce (p off : Nat)
  | layer (k j p off : Nat)
  | dither (p : Nat)
  | gains (row col : Nat)
  | missing
  deriving DecidableEq, Repr

/-- The legacy rows and columns of an account: the granted ones in ascending order (R386). -/
def State.legRows (s : State) (a : Nat) : List Nat :=
  (((s.ownedBy a (fun g => audPage (1 + g)) 12).flatMap fun g => (List.range 8).map (· + 8 * g)).filter (· != 95)).take 16
def State.legCols (s : State) (a : Nat) : List Nat :=
  ((s.ownedBy a (fun g => audPage (13 + g)) 8).flatMap fun g => (List.range 8).map (· + 8 * g)).take 8

/-- A register of legacy output `k` (offset `o` in its block). -/
def State.legOut (s : State) (a k o : Nat) : LegReg :=
  match ((s.outsOf a).take 4)[k]? with
  | none => .missing
  | some n =>
    if o ≤ 0x38 then .native (outPage n 0) (0x80 + o)
    else if o = 0x80 then .atOnce (outPage n 4) OUT_KPR_FALLBACK.off
    else if o = 0x84 then .atOnce (outPage n 2) OUT_CMP_BACKGROUND.off
    else if o = 0x88 then .dither (outPage n 3)
    else if 0xC0 ≤ o ∧ o ≤ 0xD4 then .native (outPage n 6) (o - 0x40)
    else .missing

/-- A register at native offset `off` of the layer of legacy index `i`. -/
def State.legLayer (s : State) (a i off : Nat) : LegReg :=
  match ((s.layersOf a).take 16)[i]? with
  | none => .missing
  | some l => .layer (i / 4) (i % 4) (layPage l) off

/-- The register at offset `off` of the legacy window of account `a`. -/
def State.legReg (s : State) (a off : Nat) : LegReg :=
  let bank := (s.ownedBy a tchPage 4).head?
  if off = 0x14 then .intEnable
  else if off = 0 ∨ off = 4 ∨ off = 0x10 ∨ off = 0x18 then .readOnly
  else if 0x1000 ≤ off ∧ off < 0x2000 then s.legOut a ((off - 0x1000) / 0x400) (off % 0x400)
  else if 0x2000 ≤ off ∧ off < 0x3000 then
    (if off % 0x100 ≤ 0x38 then s.legLayer a ((off - 0x2000) / 0x100) (0x80 + off % 0x100) else .missing)
  else if 0xA000 ≤ off ∧ off < 0xE000 then s.legLayer a ((off - 0xA000) / 0x400) (LAY_PALETTE.off + off % 0x400)
  else if 0x6000 ≤ off ∧ off < 0x6400 then match bank with
    | none => .missing
    | some b =>
      if off ≤ 0x6018 then .native (tchPage b) (0x80 + off % 0x100)
      else if 0x6100 ≤ off ∧ off < 0x6200 then .native (tchPage b) (off - 0x6000)
      else if off = 0x6300 then .readOnly else .missing
  else if 0x7000 ≤ off ∧ off < 0x7200 then
    (if 0x40 < off % 0x100 then .missing else match ((s.ownedBy a hapPage 8).take 2)[(off - 0x7000) / 0x100]? with
      | none => .missing
      | some h => .native (hapPage h) (0x80 + off % 0x100))
  else if 0x8000 ≤ off ∧ off < 0x8100 then match (s.legRows a)[(off - 0x8000) / 16]? with
    | none => .missing
    | some r => .gains r ((off % 16) / 2)
  else if 0x8200 ≤ off ∧ off < 0x8240 then match (s.legRows a)[(off - 0x8200) / 4]? with
    | none => .missing
    | some r => .native (rowPage r) (AUD_ROW_SRC.off + 16 * (r % 8))
  else if 0x8300 ≤ off ∧ off < 0x8320 then match (s.legCols a)[(off - 0x8300) / 4]? with
    | none => .missing
    | some c => .native (eqPage c) (AUD_COL_SINK.off + 16 * (c % 8))
  else .missing

/-! The narrowing of R388. -/

/-- A timing that the personality admits: at most 1,920 x 1,080 active, 61 Hz and 165 MHz. -/
def Timing.legacyOk (t : Timing) : Bool :=
  decide (t.hact ≤ 1920 ∧ t.vact ≤ 1080 ∧ t.pclk ≤ 165000 ∧ t.pclk * 1000 ≤ 61 * (t.htotal * t.vtotal))

/-- R388 on a value for a native register. -/
def State.narrow (s : State) (p off : Nat) (v : Word) : Bool :=
  match kindOf p with
  | (.out 0, n) =>
    if off = OUT_TIM_CTRL.off then OUT_TIM_CTRL_pair_lock.get v == 0 && OUT_TIM_CTRL_vrr_en.get v == 0
    else if OUT_TIM_PCLK.off ≤ off ∧ off ≤ OUT_TIM_VBACK.off then ((s.withValue p off v).timing n).legacyOk else true
  | (.tchB, _) =>
    if off = TCH_B_CTRL.off then TCH_B_CTRL_cal_en.get v == 0
    else if 0x100 ≤ off ∧ off % 16 = 0 then TCH_B_CH_CFG_mode.get v == 0 else true
  | (.hapCh, _) => !(off == HAP_CTRL.off) || (HAP_CTRL_mode.get v == 0 && HAP_CTRL_src.get v == 0)
  | _ => true

/-- The native register's own rule on a value. -/
def State.nativeRule (s : State) (who p off : Nat) (v : Word) : Rule :=
  match kindOf p with
  | (.out 0, n) => s.timRule who n off v
  | (.out 6, n) => if off = OUT_LNK_CTRL.off then s.lnkRule who n v else .ok
  | (.tchB, b) => s.tchRule b off v
  | (.hapCh, h) => s.hapRule h off (s.pinHigh h) v
  | (.aud k, _) => s.audRule k off v
  | _ => .ok

/-- R388 on a layer register: formats, sources and flags of the WM-4410, its own output, its own position. -/
def State.narrowLayer (s : State) (a k j off : Nat) (v : Word) : Bool :=
  if off = LAY_CTRL.off then LAY_CTRL_racing.get v == 0 && LAY_CTRL_effect_en.get v == 0 && LAY_CTRL_src_kind.get v != 2
  else if off = LAY_PLACE.off then
    let own := match ((s.outsOf a).take 4)[k]? with | some n => 2 ^ n | none => 0
    LAY_PLACE_z.get v == j && (LAY_PLACE_outputs.get v == 0 || LAY_PLACE_outputs.get v == own)
  else if off = LAY_FMT.off then LAY_FMT_ilt.get v == 0 && [0, 1, 3, 0x0A, 0x13].contains (LAY_FMT_format.get v)
  else true

/-! Writes. -/

/-- A refusal of a window write also sets LEG_ERR_STATUS.refused (R393). -/
def State.legRefused (s : State) (a : Nat) : Verdict → State
  | .range => s.legErr a 32
  | .locked => s.legErr a 32
  | .full => s.legErr a 32
  | _ => s

/-- A write of a native register under a rule: refused as the window records it, or the native path. -/
def State.viaWindow (s : State) (who a p off : Nat) (value : Word) (be : BitVec 4) (rule : Word → Rule) (go : State → State) : State :=
  match s.judge who p off value be false rule with
  | (.range, v) => (s.turnAway who p off v .range).legRefused a .range
  | (.locked, v) => (s.turnAway who p off v .locked).legRefused a .locked
  | (.full, v) => (s.turnAway who p off v .full).legRefused a .full
  | _ => go s

/-- The legacy rebuild of an output (R103, R389): after those already waiting, for its longest time. -/
def State.legReady (s : State) (n : Nat) : Nat :=
  let t := s.inForce n
  let start := (s.legs.filter (·.out == n)).foldl (fun (m : Nat) w => max m w.ready) s.now
  start + 2000 + cdiv (3 * (cellCols false t.hact * cellRows false t.vact)) 2

/-- The legacy writes not yet in force of account `a`'s layers, latest first. -/
def State.legVals (s : State) : List (Nat × Word) := (s.legs.map fun w => (w.key, w.value)).reverse

/-- A layer write checked alone as a commit of the changed scene (R389). -/
def State.legAdmits (s : State) (a p off : Nat) (v : Word) : Bool :=
  let c : Commit := ⟨(regKey p off, s.produced p off v) :: s.legVals, [p], [(p, List.range 8)], s.now, 0, 0, 0, false, false, false, 0, 0, none, [], [], 0⟩
  (s.firstFail a c).isNone

/-- A legacy layer write takes effect (R389): at once where the layer acts on no enabled output, else on each such output from
the first band after its rebuild. -/
def State.legApply (s : State) (p off : Nat) (v : Word) : State :=
  let k := regKey p off
  let before := s.actsOn p
  let w := s.produced p off v
  let s := s.store p off v
  let outs := (before ++ s.actsOn p).eraseDups
  let rest := (List.range 8).filter fun n => !outs.contains (s.gen n)
  let s := s.applyVals (if outs.isEmpty then 8 :: rest else rest) [(k, w)]
  let s := outs.foldl (fun (t : State) n => ({ t with legs := t.legs ++ [⟨n, k, w, t.legReady n⟩] } : State).touch n) s
  s.afterApply [p]

/-- A write of a layer register through the window. -/
def State.legLayerSet (s : State) (who a k j p off : Nat) (value : Word) (be : BitVec 4) : State :=
  let rule := fun v => match s.escrowRule who p off with
    | .ok => Rule.of (s.narrowLayer a k j off v && s.legAdmits a p off v)
    | r => r
  s.viaWindow who a p off value be rule fun t =>
    t.writeWith who p off value be false rule (fun v => [t.recOf who 1 0 (regKey p off) (t.reg (regKey p off)) (t.produced p off v)])
      fun v u => u.legApply p off v

/-- A write of an output's register that the window applies at once (R387). -/
def State.legAtOnce (s : State) (who a p off : Nat) (value : Word) (be : BitVec 4) (rule : Word → Rule) : State :=
  let rule := fun v => match s.escrowRule who p off with | .ok => rule v | r => r
  s.viaWindow who a p off value be rule fun t =>
    t.writeWith who p off value be false rule (fun v => [t.recOf who 1 0 (regKey p off) (t.reg (regKey p off)) (t.produced p off v)])
      fun v u =>
        let u := (u.store p off v).applyVals (List.range 9) [(regKey p off, t.produced p off v)]
        ((kindOf p).2 |> u.touch).afterApply [p]

/-- LEG_OUTk_DITHER as OUT_COL_CTRL: the register's value, or none for a value out of range. -/
def State.ditherValue (s : State) (p : Nat) (value : Word) (be : BitVec 4) : Option Word :=
  let cur := s.reg (fkey p OUT_COL_CTRL 0)
  let shown := BitVec.ofNat 32 (OUT_COL_CTRL_dither.get cur + 256 * OUT_COL_CTRL_depth.get cur)
  let v := (value &&& beMask be) ||| (shown &&& ~~~(beMask be))
  if v &&& ~~~(0x303 : Word) ≠ 0 ∨ 2 ≤ v.toNat % 4 ∨ 2 ≤ v.toNat / 256 % 4 then none
  else some (OUT_COL_CTRL_depth.put (OUT_COL_CTRL_dither.put cur (v.toNat % 4)) (v.toNat / 256 % 4))

/-- A write of the two gains of row `r` for legacy columns `c` and `c + 1` (R386): one native register for each column's node,
or one for both where they share it. -/
def State.legGains (s : State) (who a r c : Nat) (value : Word) (be : BitVec 4) (missed : State → State) : State :=
  let cols := s.legCols a
  let node := fun (t : State) (col : Nat) => (t.reg (regKey (rowPage r) (AUD_ROW_G.off + 128 * (r % 8) + 4 * (col / 2)))).toNat / 2 ^ (16 * (col % 2)) % 1024
  let shown := fun (i : Nat) => match cols[c + i]? with | some col => node s col | none => 0
  let v := (value &&& beMask be) ||| (BitVec.ofNat 32 (shown 0 + 65536 * shown 1) &&& ~~~(beMask be))
  let code := fun (i : Nat) => v.toNat / 2 ^ (16 * i) % 65536
  if (List.range 2).any fun i => decide (897 < code i) || (cols[c + i]? == none && code i != 0) then missed s
  else (List.range 2).foldl (fun (t : State) i => match cols[c + i]? with
    | none => t
    | some col =>
      let off := AUD_ROW_G.off + 128 * (r % 8) + 4 * (col / 2)
      let f : Fld := ⟨off, 4, 16 * (col % 2) + 9, 16 * (col % 2)⟩
      let w := f.put (t.reg (regKey (rowPage r) off)) (code i)
      let w := if i = 0 ∧ col % 2 = 0 ∧ cols[c + 1]? = some (col + 1) then (⟨off, 4, 25, 16⟩ : Fld).put w (code 1) else w
      t.viaWindow who a (rowPage r) off w 15 (t.nativeRule who (rowPage r) off) fun u => u.audWrite who (1 + r / 8) off w 15) s

/-- A write of LEG_INT_ENABLE (R391, R392): logged, and MSI-X vector 0 when the condition becomes nonzero without INT_N. -/
def State.legEnable (s : State) (who a : Nat) (value : Word) (be : BitVec 4) : State :=
  let cur := s.leg a 0x14
  let v := (value &&& beMask be) ||| (BitVec.ofNat 32 cur &&& ~~~(beMask be))
  if v.toNat = cur then s
  else if !s.room who then (State.settle (s.refuseFull who)).legRefused a .full
  else
    let k := regKey (legPage a 0) 0x14
    let t := (s.log who [s.recOf who 1 0 k (s.reg k) v]).setLeg a 0x14 v.toNat
    if t.leg a 0x10 &&& cur = 0 ∧ t.leg a 0x10 &&& v.toNat ≠ 0 ∧ t.leg a 4 % 2 = 0 then t.msix a 0 else t

/-- A write at offset `off` of the legacy window of account `a` (R387 to R389). -/
def State.legWrite (s : State) (who a off : Nat) (value : Word) (be : BitVec 4) : State :=
  let page := legPage a (off / 4096)
  let missed := fun (t : State) => t.turnAway who page (off % 4096) value .range
  if who < 32 && !s.hostHeard then s
  else if !s.owns who page || !(s.acct a).legacy then s.turnAway who page (off % 4096) value .foreign
  else match s.legReg a off with
    | .missing => missed s
    | .readOnly => s
    | .intEnable => s.legEnable who a value be
    | .native p o =>
      s.viaWindow who a p o value be (fun v => if s.narrow p o v then s.nativeRule who p o v else .range) fun t => t.pageWrite who p o value be
    | .atOnce p o => s.legAtOnce who a p o value be fun _ => .ok
    | .dither p => match s.ditherValue p value be with
      | none => (s.turnAway who p OUT_COL_CTRL.off value .range).legRefused a .range
      | some w => s.legAtOnce who a p OUT_COL_CTRL.off w 15 fun _ => .ok
    | .layer k j p o => s.legLayerSet who a k j p o value be
    | .gains r c => s.legGains who a r c value be missed

/-- LEG_LAYER_WRITE (R389). -/
def execLegLayerWrite (who : Actor) (a : Acct) (off : BitVec 16) (value : Word) (s : State) : Host.Outcome State Fault Refusal :=
  .next (s.legWrite who.val a.val (off.toNat / 4 * 4) value 15)

/-! Reads that clear (R391, R393). -/

/-- LEG_INT_READ: the bits returned are cleared; events that arrive in the same access cycle stay set; err follows
LEG_ERR_STATUS. -/
def execLegIntRead (a : Acct) (arriving : Word) (s : State) : Host.Outcome State Fault Refusal :=
  let a := a.val
  .next (
    if !(s.acct a).legacy then s
    else
      let old := s.leg a 0x10
      let en := s.leg a 0x14
      let new := (arriving.toNat % 2 ^ 31) ||| (if s.leg a 0x18 = 0 then 0 else 2 ^ 31)
      let t : State := { s.setLeg a 0x10 new with resp := ⟨false, leBytes 4 old⟩ }
      if old &&& en = 0 ∧ new &&& en ≠ 0 ∧ s.leg a 4 % 2 = 0 then t.msix a 0 else t)

/-- The fault sources that LEG_ERR_STATUS of account `a` lists: page, source, bit (R387, R393). -/
def State.legSources (s : State) (a : Nat) : List (Nat × Nat × Nat) :=
  let pages := (s.layersOf a).map layPage ++ (s.outsOf a).map (fun n => outPage n 6) ++ [memPage 0, memPage 17]
    ++ (List.range 16).map (fun g => vltPage (1 + g)) ++ (s.ownedBy a hapPage 8).map hapPage ++ (s.ownedBy a tchPage 4).map tchPage
  pages.flatMap fun p => (List.range 16).filterMap fun i => (s.legErrBit a p i).map fun k => (p, i, k)

/-- LEG_ERR_READ: the bits returned are cleared, a level cause still present sets its bit again, and err follows; under the
COMPAT defaults the Custodian owes the clear of the sources behind them. -/
def execLegErrRead (a : Acct) (s : State) : Host.Outcome State Fault Refusal :=
  let a := a.val
  .next (
    if !(s.acct a).legacy then s
    else
      let old := s.leg a 0x18
      let again := ((s.legSources a).filter fun (e : Nat × Nat × Nat) => s.level (16 * e.1 + e.2.1)).foldl (fun (m : Nat) e => m ||| 2 ^ e.2.2) 0
      let owed := if s.rd (cusPage 0) CUS_BOOT_STATUS_plan = 2 then NatTbl.put s.errOwed a (NatTbl.at_ s.errOwed a ||| old) else s.errOwed
      let t := (s.setLeg a 0x18 again).setLeg a 0x10 (s.leg a 0x10 % 2 ^ 31 + (if again = 0 then 0 else 2 ^ 31))
      { t with resp := ⟨false, leBytes 4 old⟩, errOwed := owed })

/-- LEG_ERR_CLEAR (R393): the Custodian clears the sticky bits of the class 4 sources behind the bits returned (R319). -/
def execLegErrClear (a : Acct) (s : State) : Host.Outcome State Fault Refusal :=
  let a := a.val
  .next (
    let owed := NatTbl.at_ s.errOwed a
    if owed = 0 || !s.cusUp then s
    else
      let due := (s.legSources a).filter fun (e : Nat × Nat × Nat) => owed.testBit e.2.2 && s.fltClass e.1 e.2.1 == 4
      let pages := (due.map (·.1)).eraseDups
      pages.foldl (fun (t : State) p =>
        t.stickyWrite 32 p (BitVec.ofNat 32 (((due.filter fun (e : Nat × Nat × Nat) => e.1 == p).map (·.2.1)).foldl (fun (m : Nat) i => m ||| 2 ^ i) 0)) 15 0)
        { s with errOwed := NatTbl.put s.errOwed a 0 })

end Sys2Proof.Machine
end

