-- ==== Sys2Proof/Machine/Bus.lean ====
section
/-! DEFINITION. REGISTER_WRITE (R20, R51, R59, R60): a write on the register bus, at a byte offset of the initiator's BAR0. -/

namespace Sys2Proof.Machine

/-- The device page at a byte offset of an initiator's BAR0: the managers' and the Custodian's windows show every page at its
offset, an account's 1 MiB window goes through its page window table (R51, R59, R60). -/
def State.busPage (s : State) (who addr : Nat) : Option Nat :=
  if who = 32 ∨ !windowed who then some (addr / 4096 % 4096)
  else if 0x100000 ≤ addr then none
  else s.slotPage who (addr / 4096)

/-- A write on the register bus. -/
def State.busWrite (s : State) (who addr : Nat) (value : Word) (be : BitVec 4) : State :=
  match s.busPage who addr with
  | none => if s.hostHeard then s.charge who else s
  | some p =>
    let off := addr % 4096 / 4 * 4
    match kindOf p with
    | (.leg, _) => s.legWrite who ((p - legPage 0 0) / 16) ((p - legPage 0 0) % 16 * 4096 + off) value be
    | _ => s.pageWrite who p off value be

/-- REGISTER_WRITE. -/
def execRegisterWrite (who : Actor) (addr : BitVec 24) (value : Word) (be : BitVec 4) (s : State) : Host.Outcome State Fault Refusal :=
  .next (s.busWrite who.val addr.toNat value be)

end Sys2Proof.Machine
end

