-- ==== Sys2Proof/WellFormed.lean ====
section
/-! DEFINITION. The commands that some sender can form: the lists and numbers that a command carries have the lengths
and the ranges that the spec gives them. Every other operand's type already says its range. -/

namespace Sys2Proof

/-- A boot input measures the 32 sensors in quarter degrees (12 bits signed, R38), the 9 rails in millivolts (13 bits, R405)
and carries the 96 bytes of the signing key (R304); a failed firmware load names result 1 to 4 (R289). -/
def BootInput.wf (b : BootInput) : Bool :=
  b.temps.length == 32 && b.temps.all (fun t => decide (-2048 ≤ t ∧ t < 2048))
    && b.rails.length == 9 && b.rails.all (fun v => decide (v < 8192)) && b.pubkey.length == 24

/-- A vault operation moves at least one byte. -/
def MemOp.wf : MemOp → Bool
  | .read len => decide (0 < len)
  | .write data => !data.isEmpty

/-- The check on a command: what its row describes can be formed by some sender. -/
def Instr.wellFormed : Instr → Bool
  | .discoveryDone _ _ record => record.length == 1024
  | .capLine _ vc dt _ _ _ => decide (vc < 16) && decide (dt < 64)
  | .clFrameReceive _ startNs endNs _ _ => decide (startNs ≤ endNs)
  | .dramRead _ _ len => decide (0 < len)
  | .dramWrite _ _ data => !data.isEmpty
  | .vaultAccess _ _ op => op.wf
  | .touchSlot _ counts _ => decide (counts.length ≤ 8) && counts.all (fun c => decide (c < 2 ^ 16))
  | .tempSample _ t => decide (-2048 ≤ t ∧ t < 2048)
  | .custodianBoot b => b.wf
  | _ => true

end Sys2Proof
end

