-- ==== Sys2Proof/Machine/Boot.lean ====
section
/-! DEFINITION. The Custodian's boot (R289 to R294, R299 to R301, R383, R400 to R404) and the manager's release (R255, R256,
R402). -/

namespace Sys2Proof.Machine

/-- CUS page 4, which carries the Custodian's fault sources. -/
def cus4 : Nat := cusPage 4

/-- The boot stage, and the register that shows it. -/
def State.stage (s : State) : Nat := s.rd (cusPage 0) CUS_BOOT_STATUS_stage
def State.setStage (s : State) (n : Nat) : State := s.wr (cusPage 0) CUS_BOOT_STATUS_stage n

/-- An entry of the Custodian's about no register (R304): subject, kind, detail, old and new value. -/
def cusRec (subject kind detail : Nat) (old new : Word) : Rec := ⟨64, 5, 0xFFF, subject, old, new, kind, detail⟩

/-- The entry of the `n`-th binding or of a request that the Custodian makes itself, for an account or 63. -/
def bindRec (subject detail n : Nat) : Rec :=
  cusRec subject 0x0B detail (Config.resourceWord detail [BitVec.ofNat 32 n]) (BitVec.ofNat 32 subject)

/-! Step 1: the lifecycle (R298 to R300). -/

/-- The entry actions of a lifecycle state (R300). -/
def State.lifeEntry (s : State) (st : Nat) : State :=
  let b := s.boot
  { s with boot := { b with
      keyLocked := b.keyLocked || st == 2, keysGone := b.keysGone || decide (3 ≤ st), ledgerKeyGone := b.ledgerKeyGone || decide (3 ≤ st) } }

/-- A device whose fuses are being blown: how many more power lasts for (none: it does not fail), and whether it has failed. -/
structure Blowing where
  dev : State
  left : Option Nat
  dead : Bool

/-- The fuses of a state's intent or commit group that are not yet blown, one after another (R300). -/
def Blowing.group (b : Blowing) (st : Nat) (intent : Bool) : Blowing :=
  if b.dead then b
  else
    let (i, c) := b.dev.fuseGroup st
    let want := if intent then 3 - i else 5 - c
    let n := match b.left with | some k => min k want | none => want
    let s := b.dev
    ⟨{ s with boot := { s.boot with fuses := Tbl.set (fun _ => ((0, 0) : Nat × Nat)) s.boot.fuses st (if intent then (i + n, c) else (i, c + n)) } },
      b.left.map (· - n), decide (n < want)⟩

/-- The entry actions of a state, and then its commit group (steps 2 and 3 of R300). -/
def Blowing.enter (b : Blowing) (st : Nat) : Blowing :=
  if b.dead then b else ({ b with dev := b.dev.lifeEntry st } : Blowing).group st false

/-- A transition into a state: the intent group, the entry actions, the commit group. -/
def Blowing.step (b : Blowing) (st : Nat) : Blowing := (b.group st true).enter st

/-- An interrupted transition: the lowest later state whose intent counts as set and whose commit does not. -/
def State.interrupted (s : State) : Option Nat :=
  (List.range 5).find? fun st => decide (s.lifecycle < st ∧ 2 ≤ (s.fuseGroup st).1 ∧ (s.fuseGroup st).2 < 3)

/-- The transitions of R299 and the keys that each requires. -/
def lifeAllowed (from_ : Nat) (r : LifeRecord) : Bool :=
  (from_ == 1 && r.target.val == 2 && r.planKey) || (from_ == 2 && r.target.val == 3 && r.planKey && r.talnanKey)
    || (from_ != 4 && r.target.val == 4)

/-- Step 1: an interrupted transition completed forward, then the record's. -/
def Blowing.bootLifecycle (b : Blowing) (record : Option LifeRecord) : Blowing :=
  let st0 := b.dev.lifecycle
  let b := match b.dev.interrupted with
    | none => b
    | some st =>
      let step := fun (d : Nat) => cusRec 0 0x0C d (BitVec.ofNat 32 st0) (BitVec.ofNat 32 st)
      let b := ({ b with dev := b.dev.log 32 [step 0, step 1] } : Blowing).enter st
      { b with dev := (b.dev.wr (cusPage 0) CUS_LIFECYCLE_recovered 1).fault cus4 2 }
  let st1 := b.dev.lifecycle
  match record with
  | none => b
  | some r =>
    let s := b.dev
    if lifeAllowed st1 r then
      ({ b with dev := s.log 32 [cusRec 0 0x0C 0 (BitVec.ofNat 32 st1) (BitVec.ofNat 32 r.target.val)] } : Blowing).step r.target.val
    else
      let k := fkey (cusPage 0) CUS_LIFECYCLE 0
      { b with dev := s.log 32 [s.recOf 32 3 0 k (s.reg k) (BitVec.ofNat 32 r.target.val)] }

/-- The lifecycle step of a boot; where power fails while fuses are blown, the cold reset that a brown-out is (R300, R396, R398), and the
boot has ended. -/
def State.bootLifecycle (s : State) (record : Option LifeRecord) (cut : Option Nat) : State × Bool :=
  let b := (⟨s, cut, false⟩ : Blowing).bootLifecycle record
  if b.dead then (b.dev.coldStart 2, false) else (b.dev.readFuses, true)

/-! Step 3: the measurements (R404). -/

/-- The rails, sensors, reference clocks and the backup domain as measured. -/
def State.measure (s : State) (b : BootInput) : State :=
  let s := b.rails.zipIdx.foldl (fun (t : State) e =>
    let t := t.railTake e.2 e.1
    if t.rd (glbPage 3) GLB_RAIL_in_window e.2 = 1 then t
    else { t with boot := { t.boot with railBad := NatTbl.put t.boot.railBad e.2 3 } }) s
  let s := b.temps.zipIdx.foldl (fun (t : State) e => t.tempTake e.2 e.1) s.syncRails
  let s := if b.temps.any fun t => !sensorOk t then s.fault (glbPage 3) 2 else s
  let s := (s.syncTemps).vbatSeen (b.rails.getD 8 0)
  let s := (s.wr (glbPage 4) GLB_BKP_STATUS_retention_valid (b2n s.boot.retained)).wr (glbPage 4) GLB_BKP_STATUS_tb_restarted (b2n s.boot.tbRestarted)
  { s with boot := { s.boot with noClock := (if b.refclk.1 then [] else [0]) ++ (if b.refclk.2 then [] else [1]) } }

/-- The hottest junction lies above a limit in °C. -/
def State.hotterThan (s : State) (limit : Int) : Bool :=
  match s.hottest with | some (t, _) => decide (4 * limit < t) | none => false

/-! Step 4: the binding plan (R17, R291 to R293, R407). -/

/-- The owner code of a holder. -/
def State.holderCode (s : State) : Option Actor → Nat
  | none => ownReserve
  | some a => if a.val = 32 then ownCustodian else s.ownCode a.val

/-- The subject of a holder's binding entry (R304). -/
def holderSubject : Option Actor → Nat
  | none => 63
  | some a => if a.val = 32 then 0 else a.val

/-- The owner of a page before the plan's entries: the pages that a chapter binds, the account's own, pooled resources and
what no entry names in the open reserve, the Custodian's. -/
def State.defaultOwner (s : State) (p : Nat) : Nat :=
  match kindOf p with
  | (.glb k, _) => if k = 0 ∨ k = 2 ∨ k = 3 then ownReserve else if k = 4 then 0 else ownCustodian
  | (.cus k, _) => if k < 4 then ownReserve else ownCustodian
  | (.flt k, _) => if k < 2 then 0 else ownCustodian
  | (.ldg _, _) => 0
  | (.acc _, a) => s.ownCode a
  | (.aud k, _) => if k = 0 ∨ k = 21 then 0 else if k = 23 then ownCustodian else ownReserve
  | (.pl, _) => ownCustodian
  | (.leg, _) => ownCustodian
  | (.none, _) => ownCustodian
  | _ => ownReserve

/-- Pages bound to a holder. -/
def State.bindPages (s : State) (ps : List Nat) (h : Option Actor) : State :=
  let c := s.holderCode h
  ps.foldl (fun (t : State) p => t.setOwner p c) s

/-- A refused entry of the plan: recorded, and BIND_CONFLICT (R291). -/
def State.bindConflict (s : State) (n : Nat) : State := (s.log 32 [bindRec 63 0 n]).fault cus4 1

/-- A trusted-world account. -/
def State.trustedHolder (s : State) : Option Actor → Bool
  | some a => decide (a.val < 32) && s.trustedAcct a.val
  | none => false

/-- The pages that an entry may bind by name (R291's interrupt sources, R311, R331, GLB page 4): FLT pages 2 to 7 to the trusted
world alone. -/
def State.namedPageOk (s : State) (p : Nat) (h : Option Actor) : Bool :=
  match (kindOf p).1 with
  | .glb k => k == 4
  | .ldg _ => true
  | .flt k => 2 ≤ k && (s.trustedHolder h || h == some 32)
  | _ => false

/-- The options of a pin claim are in range: a TDM port's are the fields of AUD_TDMp_CFG (R377); others have none. -/
def pinOptionOk (inst : Nat) (o : Nat) : Bool :=
  let f : Fld → Nat := fun f => f.get (BitVec.ofNat 32 o)
  if 8 ≤ inst then o == 0
  else
    f AUD_TDM_CFG_fmt != 3 && f AUD_TDM_CFG_slot_bits != 3 && f AUD_TDM_CFG_domain != 3 && o / 4 % 4 == 0 && o / 2 ^ 15 == 0
      && decide (f AUD_TDM_CFG_word ≤ f AUD_TDM_CFG_slot_bits) && (f AUD_TDM_CFG_fmt == 2 || f AUD_TDM_CFG_slots_m1 == 1)

/-- A pin claim (R407). -/
def State.claimPin (s : State) (inst : Nat) (h : Option Actor) (o : BitVec 16) (n : Nat) : State :=
  let p := pinPage 1
  let taken := fun (i : Nat) => s.rd p PIN_FN_en i == 1
  match h with
  | none => s
  | some _ =>
    if taken inst || (inst == 7 && taken 17) || (inst == 17 && taken 7) || !pinOptionOk inst o.toNat then
      ((s.bindConflict n).wr (pinPage 0) PIN_STATUS_conflicts (min 255 (s.rd (pinPage 0) PIN_STATUS_conflicts + 1))).fault (pinPage 0) 0
    else
      let c := s.holderCode h
      let s := s.log 32 [bindRec (holderSubject h) 0 n]
      let s := (((s.wr p PIN_FN_en 1 inst).wr p PIN_FN_account (c % 64) inst).wr p PIN_FN_world (c / 64) inst).wr p PIN_FN_option o.toNat inst
      if inst < 8 then s.setReg (fkey (audPage 21) AUD_TDM_CFG inst) (o.setWidth 32)
      else if inst < 16 then
        let s := s.wr (audPage 21) AUD_PDM_CFG_lines (setBit (s.rd (audPage 21) AUD_PDM_CFG_lines) (inst - 8) true)
        { s with audio := { s.audio with pdmAt := NatTbl.put s.audio.pdmAt (inst - 8) s.now } }
      else s

/-- A world region put into the next free descriptor; refused if it overlaps one there, or leaves the memory (R294). -/
def State.worldRegion (s : State) (vault : Bool) (base size : Nat) (trusted : Bool) : Option State :=
  let (pg, n, lim) : Nat × Nat × Nat := if vault then (cusPage 2, 32, 1024) else (cusPage 1, 64, 2 ^ 24)
  let used := s.worldRegions (b2n vault)
  if size = 0 ∨ lim < base + size ∨ 2 ^ 24 ≤ size ∨ used.any fun e => meets base size e.1 e.2.1 then none
  else match (List.range n).find? fun i => s.rd pg ⟨0x84, 8, 23, 0⟩ i == 0 with
    | none => none
    | some i => some (((s.wr pg ⟨0x80, 8, 23, 0⟩ base i).wr pg ⟨0x84, 8, 23, 0⟩ size i).wr pg ⟨0x84, 8, 31, 31⟩ (b2n trusted) i)

/-- A resource of the plan: bound once, to a holder that its check admits. `done` lists the first pages bound so far. -/
def State.bindOnce (s : State) (done : List Nat) (ps : List Nat) (h : Option Actor) (ok : Bool) (n : Nat) : State × List Nat :=
  let p := ps.headD 0
  if done.contains p || !ok then (s.bindConflict n, done)
  else ((s.log 32 [bindRec (holderSubject h) 0 n]).bindPages ps h, p :: done)

/-- One entry of the plan in step 4, the `n`-th. -/
def State.bindEntry (s : State) (done : List Nat) (n : Nat) : PlanEntry → State × List Nat
  | .output o h => s.bindOnce done ((List.range 8).map (outPage o.val)) h true n
  | .protectedLayer o h units =>
    let p := plPage o.val
    let base := s.rd (vltPage 0) VLT_SPACE_reserved
    if done.contains p || !(h.isNone || s.trustedHolder h) || decide (256 < base + units) then (s.bindConflict n, done)
    else if h.isNone then (s.log 32 [bindRec 63 0 n], p :: done)
    else
      let s := (s.log 32 [bindRec (holderSubject h) 0 n]).bindPages [p] h
      ((((s.wr p PL_REGION_base base).wr p PL_REGION_size units).wr (vltPage 0) VLT_SPACE_reserved (base + units)), p :: done)
  | .capture c h => s.bindOnce done [capPage c.val] h true n
  | .touchBank b h => s.bindOnce done [tchPage b.val] h true n
  | .haptic i h => s.bindOnce done [hapPage i.val] h true n
  | .chime h => if h.isNone then (s.log 32 [bindRec 63 0 n], done) else s.bindOnce done [audPage 23] h (s.trustedHolder h) n
  | .checkUnit k h => s.bindOnce done [chkPage k.val] h true n
  | .page p h => s.bindOnce done [p.val] h (s.namedPageOk p.val h) n
  | .pin i h o => (s.claimPin i.val h o n, done)
  | .faultClass p i c =>
    let off := FLT_CLASS0.off + 4 * (i.val / 8)
    let f : Fld := ⟨off, 4, 3 * (i.val % 8) + 2, 3 * (i.val % 8)⟩
    (s.classWrite 32 p.val off (f.put (s.reg (regKey p.val off)) c.val) 15, done)
  | .faultAction c m => (s.fltWrite 32 2 (FLT_TACTION.off + 4 * c.val) (m.setWidth 32) 15, done)
  | .register p off v => (s.pageWrite 32 p.val (off.toNat / 4 * 4) v 15, done)
  | .strictSlot e o => (s.wr (memPage 20) ⟨0x080, 4, 8 * (e.val % 4) + 5, 8 * (e.val % 4)⟩ o.val (e.val / 4), done)
  | .worldRegion _ _ _ _ => (s, done)
  | .trustedGrant _ _ _ => (s, done)
  | .early _ _ _ _ _ => (s, done)

/-- The defaults of R292 as a plan. -/
def State.nativeDefaults (s : State) : Plan where
  trusted := 0
  strict := false
  injectPerm := false
  entries := (List.finRange 8).map (fun o => .output o (some 0))
    ++ [.worldRegion false 0 (2 ^ (s.capBit + 6) / 65536) false, .worldRegion true 0 816 false]

/-- The COMPAT defaults of R383 as a plan. -/
def State.compatDefaults (s : State) : Plan where
  trusted := 0
  strict := false
  injectPerm := false
  entries := (List.finRange 8).map (fun o => .output o (if o.val < 4 then some 1 else none))
    ++ [.touchBank 0 (some 1), .haptic 0 (some 1), .haptic 1 (some 1)]
    ++ [.pin 0 (some 1) 0x0610, .pin 1 (some 1) 0x0610]
    ++ ([8, 9, 10, 11, 19] : List (Fin 20)).map (fun i => .pin i (some 1) 0)
    ++ [.faultAction 0 0x21]
    ++ ((List.range 16).flatMap fun l => [PlanEntry.faultClass (Fin.ofNat 4096 (layPage l)) 0 4, .faultClass (Fin.ofNat 4096 (layPage l)) 1 4])
    ++ ((List.range 4).flatMap fun o => [0, 1, 2, 3].map fun i => PlanEntry.faultClass (Fin.ofNat 4096 (outPage o 6)) i 4)
    ++ [.faultClass (Fin.ofNat 4096 (memPage 0)) 0 4, .faultClass (Fin.ofNat 4096 (memPage 17)) 0 4, .faultClass (Fin.ofNat 4096 (memPage 17)) 2 4]
    ++ (List.range 16).map (fun g => .faultClass (Fin.ofNat 4096 (vltPage (1 + g))) 0 4)
    ++ ([0, 1].flatMap fun h => [0, 1, 2, 3, 4].map fun i => PlanEntry.faultClass (Fin.ofNat 4096 (hapPage h)) i 4)
    ++ [.faultClass (Fin.ofNat 4096 (tchPage 0)) 0 4, .faultClass (Fin.ofNat 4096 (tchPage 0)) 1 4]
    ++ [.worldRegion false 0 (2 ^ (s.capBit + 6) / 65536) false, .worldRegion true 0 816 false]

/-- An account created and taken to ACTIVE by the Custodian, each step recorded (R255, R256, R383). -/
def State.raiseAcct (s : State) (a : Nat) : State :=
  ((s.log 32 [bindRec a reqCreate a]).log 32 [bindRec a reqActivate a]).moveState a 3

/-- Step 4: owners, then the plan's entries in record order; trusted-world accounts, the slots of static bindings, the pins. -/
def State.applyPlan (s : State) (pl : Plan) : State :=
  let s := s.wr (cusPage 0) CUS_TRUSTED (pl.trusted &&& 0xFFFEFFFE).toNat
  let s := (s.wr (cusPage 0) CUS_ISOLATION_strict (b2n pl.strict)).wr (cusPage 0) CUS_ISOLATION_inject_perm (b2n pl.injectPerm)
  let s := (List.range 2560).foldl (fun (t : State) p => t.setOwner p (t.defaultOwner p)) s
  let (s, _) := pl.entries.zipIdx.foldl (fun (r : State × List Nat) e => r.1.bindEntry r.2 e.2 e.1) (s, [])
  let s := if pl.strict then s.memCtrlWrite 32 (s.fieldWrite (memPage 0) MEM_CTRL_strict 0 1) 15 else s
  let s := (s.wr (pinPage 0) PIN_STATUS_applied 1).syncFaults (pinPage 0)
  let s := ((List.range 32).filter s.trustedAcct).foldl State.raiseAcct s
  let s := (List.range 32).foldl (fun (t : State) a => (t.syncSlots a).1) s
  s.syncVaultSpace

/-! Step 5: the world regions (R294), and the trusted world's grants. -/

/-- A grant of the plan to a trusted-world account: admitted as R262 checks the resource, else refused (R291). -/
def State.planGrant (s : State) (a kind : Nat) (words : List Word) (n : Nat) : State :=
  let k : Ask := ⟨0, a, false, kind, words⟩
  if !s.trustedAcct a || !k.known || s.taken k || s.overReserve k || s.badParams k || s.slotRefused k || s.overWindows k then s.bindConflict n
  else ((s.log 32 [bindRec a reqGrant n]).applyGrant k).grantDone a

/-- Step 5: the fixed areas and the Custodian-reserved region in trusted-world regions, then the plan's regions, then its
grants; a bandwidth grant waits for the measured capacity. -/
def State.applyWorlds (s : State) (pl : Plan) : State :=
  let fixed : List (Nat × Nat) := [(816, 32), (848, 16), (864, 32), (896, 128), (0, s.rd (vltPage 0) VLT_SPACE_reserved)]
  let s := fixed.foldl (fun (t : State) e => (t.worldRegion true e.1 e.2 true).getD t) s
  let s := pl.entries.zipIdx.foldl (fun (t : State) (e : PlanEntry × Nat) => match e.1 with
    | .worldRegion v b n tr => match t.worldRegion v b n tr with
      | some u => u
      | none => t.bindConflict e.2
    | _ => t) s
  let s := pl.entries.zipIdx.foldl (fun (t : State) (e : PlanEntry × Nat) => match e.1 with
    | .trustedGrant a kind ws =>
      if kind = 8 then { t with boot := { t.boot with later := t.boot.later ++ [(a.val, e.2, ws)] } } else t.planGrant a.val kind ws e.2
    | _ => t) s
  (s.wr (cusPage 0) CUS_ISOLATION_worlds_locked 1).wr (cusPage 0) CUS_ISOLATION_plan_locked 1

/-! Step 6: early outputs (R400). -/

/-- One entry of R161 for a commit that the Custodian makes on behalf of an account: the account's generation advances. -/
def State.bootCommit (s : State) (a : Nat) : State :=
  let p := comPage a
  let g := s.rd p ACC_COMMIT_GEN_gen
  (s.log 32 [⟨64, 5, p, ACC_COMMIT.off / 4, BitVec.ofNat 32 g, BitVec.ofNat 32 (g + 1), 0x05, 0⟩]).wr p ACC_COMMIT_GEN_gen ((g + 1) % 2 ^ 32)

/-- One early output: its image into the sub-region, the protected layer and fallback colour written and committed on behalf
of their accounts, timing and limits written, the port and the output enabled. Registers of the output are named by
4096 × page of the output + offset, those of the protected layer by their offset. -/
def State.earlyOutput (s : State) (o : Nat) (regs pl : List (Nat × Word)) (fallback : Word) (image : List Byte) : State :=
  let p := plPage o
  let s := s.storeVault (s.rd p PL_REGION_base * 65536) (image.take (s.rd p PL_REGION_size * 65536))
  let s := pl.foldl (fun (t : State) e => t.pageWrite 32 p (e.1 % 4096 / 4 * 4) e.2 15) s
  let s := s.pageWrite 32 (outPage o 4) OUT_KPR_FALLBACK.off fallback 15
  let pages := [p, outPage o 4]
  let vals := pages.flatMap s.coveredVals
  let sc := (s.scene 8).over vals
  let s := if s.plOk sc o then
      let accts := (pages.filterMap s.ownerAcct).eraseDups
      (((accts.foldl State.bootCommit s).applyVals (List.range 9) vals).afterApply pages)
    else s
  let s := regs.foldl (fun (t : State) e => t.pageWrite 32 (outPage o (e.1 / 4096 % 8)) (e.1 % 4096 / 4 * 4) e.2 15) s
  let s := s.lnkWrite 32 o (s.fieldWrite (outPage o 6) OUT_LNK_CTRL_port_en 0 1) 15
  s.timField 32 o OUT_TIM_CTRL_run 1

/-! Step 7: the ledger starts (R303, R305, R401). -/

/-- The ledger writer starts: the boot entry, the entries held since the boot began, the alarms that fired on VBAT. -/
def State.startLedger (s : State) (former : Nat) : State :=
  let early := s.led.early
  let fired := s.boot.firedOff.map fun (e : Nat × Nat) =>
    cusRec e.1 0x11 e.1 (BitVec.ofNat 32 (e.2 % 2 ^ 32)) (BitVec.ofNat 32 (e.2 / 2 ^ 32))
  let detail := b2n s.boot.tbRestarted + 2 * b2n (!s.boot.retained)
  let s : State := { s with led := { s.led with started := true, early := [], sealFrom := s.led.seq },
                            boot := { s.boot with tbRestarted := false, retained := true, firedOff := [] } }
  State.settle (s.appendAll ([cusRec 0 0x10 detail (BitVec.ofNat 32 former) (BitVec.ofNat 32 s.lifecycle)] ++ early ++ fired))

/-! CUSTODIAN_BOOT. -/

/-- The Custodian reads its OTP: an uncorrectable word, or one as FLT_INJECT makes it, raises OTP_ECC (R311, R325). -/
def State.readOtp (s : State) (bad : Bool) : State :=
  let (s, hit) := s.useInject cus4 3
  if bad || hit.isSome then s.fault cus4 3 else s

/-- The images that the ROM accepts in a lifecycle state (R298). -/
def imageOk (st : Nat) (k : ImageKind) : Bool :=
  match st with
  | 0 => k == .test
  | 3 => k == .analysis
  | 4 => false
  | _ => true

/-- Why the ROM refuses what a slot holds, by the codes of CUS_BOOT_STATUS.result, 0 where it accepts it (R289, R298). DESIGN CHOICE
(log 120): an empty slot, and an image of a kind that the lifecycle state does not accept, are code 1; the checks go in R289's order. -/
def State.imageCode (s : State) : Option Image → Nat
  | none => 1
  | some m =>
    if !imageOk s.lifecycle m.kind then 1
    else if !m.signed || m.keyHash != s.boot.keyHash then 2
    else if m.version.toNat < s.boot.rollback then 3
    else if !m.headerOk then 4 else 0

/-- The ROM's choice (R289): slot 0, then slot 1; the slot and version booted, or the cause of the failure, slot 1's where that slot has an
image it could judge, else slot 0's (DESIGN CHOICE, log 120). -/
def State.chooseImage (s : State) (b : BootInput) : Except Nat (Nat × Nat) :=
  let version : Option Image → Nat := fun m => match m with | some i => i.version.toNat | none => 0
  if s.imageCode b.slot0 = 0 then .ok (0, version b.slot0)
  else if s.imageCode b.slot1 = 0 then .ok (1, version b.slot1)
  else .error (if s.imageCode b.slot1 = 1 then s.imageCode b.slot0 else s.imageCode b.slot1)

/-- The boot fails (R289): the cause, and two pages that the open world may read. -/
def State.bootFails (s : State) (result : Nat) : State :=
  let s := s.wr (cusPage 0) CUS_BOOT_STATUS_result result
  { (s.setOwner (glbPage 0) ownReserve).setOwner (cusPage 0) ownReserve with boot := { s.boot with failed := true } }

/-- Steps 4 to 7. -/
def State.bootOn (s : State) (b : BootInput) (former : Nat) : State :=
  let compat := s.rd (glbPage 0) GLB_STRAPS_compat == 1
  let verified := if s.boot.keysGone then none else b.plan
  let (pl, code) : Plan × Nat := match verified with
    | some pl => (pl, 1)
    | none => if compat then (s.compatDefaults, 2) else (s.nativeDefaults, 0)
  let s := ((s.applyPlan pl).wr (cusPage 0) CUS_BOOT_STATUS_plan code).setStage 4
  let s := (s.applyWorlds pl).setStage 5
  let s := s.wr (cusPage 0) CUS_ISOLATION_promise (b2n (s.lifecycle == 2 && code == 1))
  let s := pl.entries.foldl (fun (t : State) e => match e with
    | .early o regs ws c im => t.earlyOutput o.val regs ws c im
    | _ => t) s
  let s := if s.boot.ledgerKeyGone then s
    else b.pubkey.zipIdx.foldl (fun (t : State) e => t.setReg (fkey (ldgPage 2) LDG_PUBKEY e.2) e.1) s
  let s := s.pageCtrlWrite 32 cus4 (s.fieldWrite cus4 PAGE_CTRL_lock 0 1) 15
  ((s.setStage 6).startLedger former).setStage 7

/-- CUSTODIAN_BOOT (R289, R290, R404): after PORST_N has risen, once; or again while the Custodian waits at step 3 for the
junction to cool. A crystal outside its limits halts the boot. -/
def execCustodianBoot (b : BootInput) (s : State) : Host.Outcome State Fault Refusal :=
  if !b.wf then .fault .badOperand
  else .next (
    let c0 := cusPage 0
    if !s.boot.awake || s.boot.failed || s.boot.halted then s
    else if s.boot.cusRuns then
      if s.stage ≠ 3 then s
      else
        let s := (s.readOtp b.otpBad).measure b
        if s.hotterThan (s.rd (glbPage 3) GLB_SENS_LIMITS_t_high - 10 : Int) then s else s.bootOn b s.lifecycle
    else match s.chooseImage b with
      | .error cause => s.bootFails cause
      | .ok (slot, version) =>
        let former := s.lifecycle
        let s := (((s.wr c0 CUS_BOOT_STATUS_slot slot).wr c0 CUS_FW_VERSION_version version).wr c0 CUS_FW_VERSION_rollback s.boot.rollback)
        let s : State := { s with boot := { s.boot with cusRuns := true } }
        match (s.readOtp b.otpBad).bootLifecycle b.record b.cut with
        | (s, false) => s
        | (s, true) =>
          let s := (s.setStage 3).measure b
          if !b.crystalOk then { s with boot := { s.boot with halted := true } }
          else if s.hotterThan (s.rd (glbPage 3) GLB_SENS_LIMITS_t_high) then s
          else s.bootOn b former)

/-! MANAGER_RELEASE (R255, R256, R383, R402). -/

/-- Zeros written across every inline ECC region (R402). -/
def State.zeroEcc (s : State) : State :=
  let spans := ((List.range 8).filter fun i => s.rd (memPage 17) MEM_ECC_SIZE_size i != 0).map fun i =>
    (s.rd (memPage 17) MEM_ECC_BASE_base i * 2 ^ 21, s.rd (memPage 17) MEM_ECC_SIZE_size i * 2 ^ 21)
  let inside := fun (a : Nat) => spans.any fun e => decide (e.1 ≤ a ∧ a < e.1 + e.2)
  { s with zeroed := spans ++ s.zeroed, dram := s.dram.filter fun e => !inside e.1 }

/-- A grant of the COMPAT defaults, made by the Custodian. -/
def State.compatGrant (s : State) (kind : Nat) (ws : List Nat) : State :=
  ((s.log 32 [bindRec 1 reqGrant kind]).applyGrant ⟨0, 1, false, kind, ws.map (BitVec.ofNat 32)⟩).grantDone 1

/-- The COMPAT defaults' A1 (R383): created in the personality, its grants, ACTIVE. -/
def State.compatAccount (s : State) : State :=
  let s := (((s.log 32 [bindRec 1 reqCreate 1]).becomeLegacy 1).genDone 1).moveState 1 1
  let s := ((((s.compatGrant 1 [0, 16]).compatGrant 2 [0, 16]).compatGrant 11 [0, 16]).compatGrant 12 [0, 8])
  let s := (s.compatGrant 6 [0, 2 ^ (s.capBit + 6) / 65536]).compatGrant 7 [0, 816]
  let s := s.compatGrant 8 [s.rd (memPage 0) MEM_CAP_capacity * 9 / 10, Config.compatDepth.toNat]
  let s := (List.range 4).foldl (fun (t : State) n =>
    let m := t.inForce n
    t.compatGrant 10 [n, 0, 0, 16384, 8192, 0, 4, (t.pressCapacity n - m.hact * m.vact * t.rmax n) / 10000000, 4]) s
  (((s.moveState 1 2).log 32 [bindRec 1 reqActivate 1]).moveState 1 3).genDone 1

/-- The Custodian's work at the end of memory training (R255, R402): zeros over the ECC regions, the manager's pages
and the copy turn's locked, the plan's queue bindings, the COMPAT defaults, the books. -/
def State.managerWork (s : State) : State :=
  let s := if s.rd (memPage 0) MEM_STATUS_state = 2 then s.zeroEcc else s
  let s := [memPage 0, memPage 17, hstPage 2].foldl (fun (t : State) p => t.pageCtrlWrite 32 p (t.fieldWrite p PAGE_CTRL_lock 0 1) 15) s
  let s := s.boot.later.foldl (fun (t : State) e => t.planGrant e.1 8 e.2.2 e.2.1) s
  let s := [0, 16].foldl State.raiseAcct s
  let s := if s.rd (cusPage 0) CUS_BOOT_STATUS_plan = 2 then s.compatAccount else s
  (List.range 32).foldl (fun (t : State) a => t.syncBook a) s

/-- Step 8 of the boot is reached, once. -/
def State.managerDone (s : State) : State := { s.setStage 8 with boot := { s.boot with released := true, later := [] } }

/-- MANAGER_RELEASE: once the boot has reached step 7 and DRAM training has ended. -/
def execManagerRelease (s : State) : Host.Outcome State Fault Refusal :=
  .next (if !s.cusUp || s.boot.released || s.stage ≠ 7
      || (s.rd (memPage 0) MEM_STATUS_state ≠ 2 && s.rd (memPage 0) MEM_STATUS_state ≠ 3) then s else s.managerWork.managerDone)

end Sys2Proof.Machine
end

