-- ==== Sys2Proof/Machine/Service.lean ====
section
/-! DEFINITION. What the DRAM serves as it leaves a low-power state and as a strict window opens: the waiting requests and the units'
held work, in the class order of R228 (R228, R236, R237, R239). -/

namespace Sys2Proof.Machine

/-- Held work goes on; what must wait still is held again. -/
def State.goOn (s : State) (h : DramHeld) : State :=
  match h.work with
  | .fetch b e => s.fetchBlock b e
  | .mirror c => s.mirrorGo c
  | .engine e =>
    if (s.engine e).job.isSome then s.engineGo e
    else s.takeChunk e fun _ => true
  | .other => s

/-- A request of class `a` that arrived at `x` goes before one of class `b` that arrived at `y` (R228). -/
def goesBefore (a x b y : Nat) : Bool := decide (a < b) || (a == b && decide (x < y))

/-- The line of a waiting request that some channel serves next: the first in class, then in order of arrival. -/
def State.nextLine (s : State) : Option (Nat × Nat × Nat × Nat × List Nat) :=
  let rows := ((List.range 16).filterMap s.pick).filterMap fun e => (s.mem.waiting[e.1]?).map fun w => (s.classOf w, w.since, e)
  match sortBy (fun e => e.1 * 2 ^ 64 + e.2.1) rows with
  | [] => none
  | (k, t, i, l, passed) :: _ => some (k, t, i, l, passed)

/-- Lines of waiting requests that go before a request of class `k` that arrived at `t`; `fuel` bounds their number. -/
def State.serveBefore (s : State) (k t : Nat) : Nat → State
  | 0 => s
  | n + 1 => match s.nextLine with
    | none => s
    | some (k', t', i, l, passed) => if goesBefore k' t' k t then (s.serveLine i l passed).serveBefore k t n else s

/-- Held work in class order, each after the waiting requests that go before it. -/
def State.goOnAll (s : State) : List DramHeld → State
  | [] => s
  | h :: t =>
    let s := s.serveBefore (s.classFor h.rt h.who) h.since (s.mem.waiting.foldl (fun n w => n + w.left.length) 0)
    (s.goOn h).goOnAll t

/-- All that waits for the DRAM is served, as far as it may be, in the class order of R228. -/
def State.serveHeld (s : State) : State :=
  let hs := sortBy (fun h => s.classFor h.rt h.who * 2 ^ 64 + h.since) s.mem.held
  let s : State := { s with mem := { s.mem with held := [] } }
  (s.goOnAll hs).serveWaiting

/-- DRAM_EXIT_DONE (R236): the DRAM is active, and what waits is served. -/
def execDramExitDone (s : State) : Host.Outcome State Fault Refusal :=
  .next (if s.dramPower = 3 then (s.wr (memPage 0) MEM_STATUS_power 0).serveHeld else s)

/-- STRICT_WINDOW (R239): the next window of the round serves its owner's waiting requests, real-time ones first, up to its accesses. -/
def execStrictWindow (ch : Fin 16) (s : State) : Host.Outcome State Fault Refusal :=
  .next (
    if s.rd (memPage 0) MEM_CTRL_strict = 0 ∨ !s.dramReady ∨ 64 ≤ NatTbl.at_ s.mem.window ch.val then s
    else ({ s with mem := { s.mem with window := NatTbl.put s.mem.window ch.val (NatTbl.at_ s.mem.window ch.val + 1),
                                       used := NatTbl.put s.mem.used ch.val 0 } } : State).serveHeld)

end Sys2Proof.Machine
end

