-- ==== Sys2Proof/Machine/Dispatch.lean ====
section
/-! DEFINITION. The dispatch: one arm per command, each one direct call of that command's meaning. -/

namespace Sys2Proof.Machine

/-- The effect of a command on everything but the queue. -/
def exec (i : Instr) (s : State) : Host.Outcome State Fault Refusal :=
  match i with
  | .registerWrite who addr value be => Sys2Proof.Machine.execRegisterWrite who addr value be s
  | .pageEnable who p on => Sys2Proof.Machine.execPageEnable who p on s
  | .sleepReq who p on => Sys2Proof.Machine.execSleepReq who p on s
  | .blockReset who p => Sys2Proof.Machine.execBlockReset who p s
  | .pageLock who p => Sys2Proof.Machine.execPageLock who p s
  | .evtPendingClear who p bits recur => Sys2Proof.Machine.execEvtPendingClear who p bits recur s
  | .faultClear who p bits recur => Sys2Proof.Machine.execFaultClear who p bits recur s
  | .fltInjectArm who p source counted count => Sys2Proof.Machine.execFltInjectArm who p source counted count s
  | .tallyLatch p => Sys2Proof.Machine.execTallyLatch p s
  | .clrWorst who => Sys2Proof.Machine.execClrWorst who s
  | .wakeRequest p cls deadline => Sys2Proof.Machine.execWakeRequest p cls deadline s
  | .seqStepIssue => Sys2Proof.Machine.execSeqStepIssue s
  | .seqStepComplete => Sys2Proof.Machine.execSeqStepComplete s
  | .avsRecompute => Sys2Proof.Machine.execAvsRecompute s
  | .avsFallStep => Sys2Proof.Machine.execAvsFallStep s
  | .avsReadback valid vcore vsram => Sys2Proof.Machine.execAvsReadback valid vcore vsram s
  | .avsShortfall => Sys2Proof.Machine.execAvsShortfall s
  | .canaryGuardBreach b canary margin => Sys2Proof.Machine.execCanaryGuardBreach b canary margin s
  | .canaryRecover b m0 m1 => Sys2Proof.Machine.execCanaryRecover b m0 m1 s
  | .hsParity x req => Sys2Proof.Machine.execHsParity x req s
  | .hsTimeout x req => Sys2Proof.Machine.execHsTimeout x req s
  | .lineStart o => Sys2Proof.Machine.execLineStart o s
  | .frameBoundary o => Sys2Proof.Machine.execFrameBoundary o s
  | .bandStart o => Sys2Proof.Machine.execBandStart o s
  | .racingCellRead o => Sys2Proof.Machine.execRacingCellRead o s
  | .fetchBlock b e => Sys2Proof.Machine.execFetchBlock b e s
  | .cellPublish m => Sys2Proof.Machine.execCellPublish m s
  | .keeperPixel o => Sys2Proof.Machine.execKeeperPixel o s
  | .latencyToleranceEval o => Sys2Proof.Machine.execLatencyToleranceEval o s
  | .outputEnable who o => Sys2Proof.Machine.execOutputEnable who o s
  | .generatorStart o => Sys2Proof.Machine.execGeneratorStart o s
  | .outputDisable who o => Sys2Proof.Machine.execOutputDisable who o s
  | .outputStop o => Sys2Proof.Machine.execOutputStop o s
  | .pairLock who o on => Sys2Proof.Machine.execPairLock who o on s
  | .vrrEnable who o => Sys2Proof.Machine.execVrrEnable who o s
  | .rmaxWrite who o rate => Sys2Proof.Machine.execRmaxWrite who o rate s
  | .refEdge o src => Sys2Proof.Machine.execRefEdge o src s
  | .refTimeout o src => Sys2Proof.Machine.execRefTimeout o src s
  | .commit who a => Sys2Proof.Machine.execCommit who a s
  | .syndicateCommit who a => Sys2Proof.Machine.execSyndicateCommit who a s
  | .heldCommitTake a => Sys2Proof.Machine.execHeldCommitTake a s
  | .rebuildDone a => Sys2Proof.Machine.execRebuildDone a s
  | .memberLate a o => Sys2Proof.Machine.execMemberLate a o s
  | .syndicateDecide a => Sys2Proof.Machine.execSyndicateDecide a s
  | .tableReadySet who p bits => Sys2Proof.Machine.execTableReadySet who p bits s
  | .lutLoad who o table vault => Sys2Proof.Machine.execLutLoad who o table vault s
  | .lutLoadDone o => Sys2Proof.Machine.execLutLoadDone o s
  | .chequePull m => Sys2Proof.Machine.execChequePull m s
  | .routineLoad m => Sys2Proof.Machine.execRoutineLoad m s
  | .iadd m => Sys2Proof.Machine.execIadd m s
  | .isub m => Sys2Proof.Machine.execIsub m s
  | .imul m => Sys2Proof.Machine.execImul m s
  | .iand m => Sys2Proof.Machine.execIand m s
  | .ior m => Sys2Proof.Machine.execIor m s
  | .shl m => Sys2Proof.Machine.execShl m s
  | .shr m => Sys2Proof.Machine.execShr m s
  | .fadd m => Sys2Proof.Machine.execFadd m s
  | .fsub m => Sys2Proof.Machine.execFsub m s
  | .fmul m => Sys2Proof.Machine.execFmul m s
  | .fma m => Sys2Proof.Machine.execFma m s
  | .fmin m => Sys2Proof.Machine.execFmin m s
  | .fmax m => Sys2Proof.Machine.execFmax m s
  | .fsat m => Sys2Proof.Machine.execFsat m s
  | .frcp m => Sys2Proof.Machine.execFrcp m s
  | .fbld m => Sys2Proof.Machine.execFbld m s
  | .bld m => Sys2Proof.Machine.execBld m s
  | .hfma m => Sys2Proof.Machine.execHfma m s
  | .cvtif m => Sys2Proof.Machine.execCvtif m s
  | .cvtfi m => Sys2Proof.Machine.execCvtfi m s
  | .cvthf m => Sys2Proof.Machine.execCvthf m s
  | .cvtfh m => Sys2Proof.Machine.execCvtfh m s
  | .unpk8 m => Sys2Proof.Machine.execUnpk8 m s
  | .pack8 m => Sys2Proof.Machine.execPack8 m s
  | .fcmp m => Sys2Proof.Machine.execFcmp m s
  | .icmp m => Sys2Proof.Machine.execIcmp m s
  | .sel m => Sys2Proof.Machine.execSel m s
  | .lut m => Sys2Proof.Machine.execLut m s
  | .lutf m => Sys2Proof.Machine.execLutf m s
  | .mov m => Sys2Proof.Machine.execMov m s
  | .sadd m => Sys2Proof.Machine.execSadd m s
  | .smul m => Sys2Proof.Machine.execSmul m s
  | .lane m => Sys2Proof.Machine.execLane m s
  | .get m => Sys2Proof.Machine.execGet m s
  | .getc m => Sys2Proof.Machine.execGetc m s
  | .put m => Sys2Proof.Machine.execPut m s
  | .putc m => Sys2Proof.Machine.execPutc m s
  | .next m => Sys2Proof.Machine.execNext m s
  | .nexto m => Sys2Proof.Machine.execNexto m s
  | .smovi m => Sys2Proof.Machine.execSmovi m s
  | .saddi m => Sys2Proof.Machine.execSaddi m s
  | .movh m => Sys2Proof.Machine.execMovh m s
  | .setvl m => Sys2Proof.Machine.execSetvl m s
  | .ldv m => Sys2Proof.Machine.execLdv m s
  | .stv m => Sys2Proof.Machine.execStv m s
  | .lds m => Sys2Proof.Machine.execLds m s
  | .sts m => Sys2Proof.Machine.execSts m s
  | .br m => Sys2Proof.Machine.execBr m s
  | .brn m => Sys2Proof.Machine.execBrn m s
  | .loop m => Sys2Proof.Machine.execLoop m s
  | .settle m => Sys2Proof.Machine.execSettle m s
  | .mintStuck m => Sys2Proof.Machine.execMintStuck m s
  | .mintRetire who m => Sys2Proof.Machine.execMintRetire who m s
  | .mintUnretire who m => Sys2Proof.Machine.execMintUnretire who m s
  | .pressClearDone p => Sys2Proof.Machine.execPressClearDone p s
  | .hpdIrq o lowNs lockLost capsChanged => Sys2Proof.Machine.execHpdIrq o lowNs lockLost capsChanged s
  | .hpdUnplug o lowNs => Sys2Proof.Machine.execHpdUnplug o lowNs s
  | .partnerArrive o => Sys2Proof.Machine.execPartnerArrive o s
  | .discoveryDone o caps record => Sys2Proof.Machine.execDiscoveryDone o caps record s
  | .cableMeasureDone o length => Sys2Proof.Machine.execCableMeasureDone o length s
  | .trainingDone o ok => Sys2Proof.Machine.execTrainingDone o ok s
  | .retrain who o => Sys2Proof.Machine.execRetrain who o s
  | .portEnable who o => Sys2Proof.Machine.execPortEnable who o s
  | .portDisable who o => Sys2Proof.Machine.execPortDisable who o s
  | .capEnable who c => Sys2Proof.Machine.execCapEnable who c s
  | .capFrameStart c => Sys2Proof.Machine.execCapFrameStart c s
  | .capLine c vc dt hdr crcOk payload => Sys2Proof.Machine.execCapLine c vc dt hdr crcOk payload s
  | .capFrameEnd c => Sys2Proof.Machine.execCapFrameEnd c s
  | .capMirrorDone c => Sys2Proof.Machine.execCapMirrorDone c s
  | .clFrameSend => Sys2Proof.Machine.execClFrameSend s
  | .clFrameReceive sender startNs endNs sof rest => Sys2Proof.Machine.execClFrameReceive sender startNs endNs sof rest s
  | .syncLost => Sys2Proof.Machine.execSyncLost s
  | .clPresenceTimeout d => Sys2Proof.Machine.execClPresenceTimeout d s
  | .memInit who => Sys2Proof.Machine.execMemInit who s
  | .memTrainDone failed capacity => Sys2Proof.Machine.execMemTrainDone failed capacity s
  | .mr4Poll ch rank code => Sys2Proof.Machine.execMr4Poll ch rank code s
  | .refreshDue ch rank => Sys2Proof.Machine.execRefreshDue ch rank s
  | .refreshRepay ch rank => Sys2Proof.Machine.execRefreshRepay ch rank s
  | .dramRead req pa len => Sys2Proof.Machine.execDramRead req pa len s
  | .dramWrite req pa data => Sys2Proof.Machine.execDramWrite req pa data s
  | .powerDownEntry ch rank => Sys2Proof.Machine.execPowerDownEntry ch rank s
  | .selfRefreshEntry => Sys2Proof.Machine.execSelfRefreshEntry s
  | .selfRefreshExit => Sys2Proof.Machine.execSelfRefreshExit s
  | .deepSleepEntry => Sys2Proof.Machine.execDeepSleepEntry s
  | .deepSleepExit => Sys2Proof.Machine.execDeepSleepExit s
  | .dramExitDone => Sys2Proof.Machine.execDramExitDone s
  | .strictRound ch => Sys2Proof.Machine.execStrictRound ch s
  | .strictWindow ch => Sys2Proof.Machine.execStrictWindow ch s
  | .vaultAccess req off op => Sys2Proof.Machine.execVaultAccess req off op s
  | .vaultScrub => Sys2Proof.Machine.execVaultScrub s
  | .create who => Sys2Proof.Machine.execCreate who s
  | .grant who => Sys2Proof.Machine.execGrant who s
  | .release who => Sys2Proof.Machine.execRelease who s
  | .activate who => Sys2Proof.Machine.execActivate who s
  | .quiesce who => Sys2Proof.Machine.execQuiesce who s
  | .quiesceComplete a => Sys2Proof.Machine.execQuiesceComplete a s
  | .reset who => Sys2Proof.Machine.execReset who s
  | .resetComplete a => Sys2Proof.Machine.execResetComplete a s
  | .destroy who => Sys2Proof.Machine.execDestroy who s
  | .delegate who => Sys2Proof.Machine.execDelegate who s
  | .regionList who => Sys2Proof.Machine.execRegionList who s
  | .regionPerm who => Sys2Proof.Machine.execRegionPerm who s
  | .flr a => Sys2Proof.Machine.execFlr a s
  | .vfEnableClear port => Sys2Proof.Machine.execVfEnableClear port s
  | .portReset port => Sys2Proof.Machine.execPortReset port s
  | .functionD3 a cold => Sys2Proof.Machine.execFunctionD3 a cold s
  | .functionD0 a => Sys2Proof.Machine.execFunctionD0 a s
  | .pbDoorbell who a => Sys2Proof.Machine.execPbDoorbell who a s
  | .pbRing who tenant => Sys2Proof.Machine.execPbRing who tenant s
  | .queueEnable who a q => Sys2Proof.Machine.execQueueEnable who a q s
  | .queueDisable who a q => Sys2Proof.Machine.execQueueDisable who a q s
  | .queueDoorbell who a q index => Sys2Proof.Machine.execQueueDoorbell who a q index s
  | .queueIntTimer a q => Sys2Proof.Machine.execQueueIntTimer a q s
  | .copy e => Sys2Proof.Machine.execCopy e s
  | .fill e => Sys2Proof.Machine.execFill e s
  | .signal e => Sys2Proof.Machine.execSignal e s
  | .nop e => Sys2Proof.Machine.execNop e s
  | .chunkDone e => Sys2Proof.Machine.execChunkDone e s
  | .ceTurn e => Sys2Proof.Machine.execCeTurn e s
  | .nsSend who dest => Sys2Proof.Machine.execNsSend who dest s
  | .nsTake who => Sys2Proof.Machine.execNsTake who s
  | .nsClrDropped who => Sys2Proof.Machine.execNsClrDropped who s
  | .custodianBoot input => Sys2Proof.Machine.execCustodianBoot input s
  | .lockstep => Sys2Proof.Machine.execLockstep s
  | .managerRelease => Sys2Proof.Machine.execManagerRelease s
  | .sealWrite => Sys2Proof.Machine.execSealWrite s
  | .exportEnable who => Sys2Proof.Machine.execExportEnable who s
  | .exportEntry => Sys2Proof.Machine.execExportEntry s
  | .exportHead who head => Sys2Proof.Machine.execExportHead who head s
  | .faultScan => Sys2Proof.Machine.execFaultScan s
  | .scanLate => Sys2Proof.Machine.execScanLate s
  | .safeReqAssert lowNs => Sys2Proof.Machine.execSafeReqAssert lowNs s
  | .safeReqRelease highNs => Sys2Proof.Machine.execSafeReqRelease highNs s
  | .safeForce who on => Sys2Proof.Machine.execSafeForce who on s
  | .fltOutToggle => Sys2Proof.Machine.execFltOutToggle s
  | .fltOutPeriodWrite who halfPeriod => Sys2Proof.Machine.execFltOutPeriodWrite who halfPeriod s
  | .heartbeat who seq => Sys2Proof.Machine.execHeartbeat who seq s
  | .touchScan b => Sys2Proof.Machine.execTouchScan b s
  | .touchSlot b counts noise => Sys2Proof.Machine.execTouchSlot b counts noise s
  | .touchHoldExpiry b c => Sys2Proof.Machine.execTouchHoldExpiry b c s
  | .touchRecalEnd b c => Sys2Proof.Machine.execTouchRecalEnd b c s
  | .groupStandstill b g => Sys2Proof.Machine.execGroupStandstill b g s
  | .touchBankEnable who b => Sys2Proof.Machine.execTouchBankEnable who b s
  | .calLoadDone b => Sys2Proof.Machine.execCalLoadDone b s
  | .hapticEnable who h => Sys2Proof.Machine.execHapticEnable who h s
  | .coilCheckDone h milliohm => Sys2Proof.Machine.execCoilCheckDone h milliohm s
  | .pwmPeriod h currentMa emf => Sys2Proof.Machine.execPwmPeriod h currentMa emf s
  | .hapticPlay a q => Sys2Proof.Machine.execHapticPlay a q s
  | .hapticStop a q => Sys2Proof.Machine.execHapticStop a q s
  | .effectLoad h => Sys2Proof.Machine.execEffectLoad h s
  | .hapTrip h => Sys2Proof.Machine.execHapTrip h s
  | .hapTripClear who h highNs => Sys2Proof.Machine.execHapTripClear who h highNs s
  | .accelSample h sample => Sys2Proof.Machine.execAccelSample h sample s
  | .accelTimeout h => Sys2Proof.Machine.execAccelTimeout h s
  | .audioSample ins => Sys2Proof.Machine.execAudioSample ins s
  | .gainZcTimeout row col => Sys2Proof.Machine.execGainZcTimeout row col s
  | .bridgeLock b => Sys2Proof.Machine.execBridgeLock b s
  | .fsTimeout port => Sys2Proof.Machine.execFsTimeout port s
  | .tdmFs port => Sys2Proof.Machine.execTdmFs port s
  | .chimeHoldExpire => Sys2Proof.Machine.execChimeHoldExpire s
  | .rowEnable who r => Sys2Proof.Machine.execRowEnable who r s
  | .columnEnable who c => Sys2Proof.Machine.execColumnEnable who c s
  | .legLayerWrite who a off value => Sys2Proof.Machine.execLegLayerWrite who a off value s
  | .legIntRead a arriving => Sys2Proof.Machine.execLegIntRead a arriving s
  | .legErrRead a => Sys2Proof.Machine.execLegErrRead a s
  | .legErrClear a => Sys2Proof.Machine.execLegErrClear a s
  | .porstRelease straps => Sys2Proof.Machine.execPorstRelease straps s
  | .coldReset lowNs => Sys2Proof.Machine.execColdReset lowNs s
  | .glbReset who key cold => Sys2Proof.Machine.execGlbReset who key cold s
  | .brownOut => Sys2Proof.Machine.execBrownOut s
  | .railSample r mv => Sys2Proof.Machine.execRailSample r mv s
  | .tempSample sensor quarterC => Sys2Proof.Machine.execTempSample sensor quarterC s
  | .thermalRelease => Sys2Proof.Machine.execThermalRelease s
  | .vbatLow => Sys2Proof.Machine.execVbatLow s
  | .alarmFire k => Sys2Proof.Machine.execAlarmFire k s
  | .alarmClear who bits firing => Sys2Proof.Machine.execAlarmClear who bits firing s
  | .timeBaseRead who => Sys2Proof.Machine.execTimeBaseRead who s
  | .pcieLinkUp port speed width => Sys2Proof.Machine.execPcieLinkUp port speed width s
  | .phyError c => Sys2Proof.Machine.execPhyError c s
  | .aPhyLinkDown o => Sys2Proof.Machine.execAPhyLinkDown o s

end Sys2Proof.Machine
end

