-- ==== Sys2Proof/Machine/Step.lean ====
section
/-! DEFINITION. One step: the command at the front of the queue, or, with the queue empty, a tick of the time base. -/

namespace Sys2Proof.Machine

/-- The step: the front command runs with the queue's rest; on an empty queue the block idles for one nanosecond. -/
def step (s : State) : Host.Outcome State Fault Refusal :=
  match s.pending with
  | [] => .next s.idle
  | c :: rest => exec c { s with pending := rest }

/-- `s` with the command that a table word spells put at the front of its queue. -/
def State.withFetchWord (s : State) (nbits w : Nat) : State := s.front (Sys2Proof.decodeTableWord nbits w)

end Sys2Proof.Machine
end

