-- ==== Sys2Proof/Machine/Pins.lean ====
section
/-! DEFINITION. What is read off the device without changing it: the value that a register read returns (R10, R11, R51), with
PAGE_STATUS.busy (R53) and PAGE_CAPS.tally_clock (R64), and the levels of the output pins WAKE_OUT (R409), INT_N (R392) and FLT_OUT (R323). -/

namespace Sys2Proof.Machine

/-- PAGE_STATUS.busy (R53): the page's unit has work in progress. -/
def State.busy (s : State) (p : Nat) : Bool :=
  match kindOf p with
  | (.out k, n) => s.running n || (k == 3 && s.rd p OUT_COL_BANK_load_busy == 1)
  | (.press, i) => !(s.press i).isEmpty || (List.range 8).any fun j => (s.mint (8 * i + j)).cheque.isSome
  | (.hst k, _) => decide (2 ≤ k) && [0, 1].any fun j => (s.engine (2 * (k - 2) + j)).job.isSome
  | (.cap, c) => (s.cap c).open_.isSome || (s.cap c).mirror.isSome
  | (.tchB, b) => (s.tch b).scanAt.isSome || (s.tch b).loading
  | (.hapCh, h) => (s.hap h).play.isSome || (s.hap h).loading.isSome || (s.hap h).ready.isSome
  | (.mem k, _) => decide (k = 0) && s.rd p MEM_STATUS_state == 1
  | (.acc k, a) => decide (k = 1) && (s.commit a).isSome
  | _ => false

/-- What a read of offset `off` of a native page shows: the register as it stands, 0 where the page lists none (R51) or the
offset belongs to no page (R52); a layer's page shows the tally clock of its output's frames while it lies on an enabled
output (R64), and a bucket's level is that of the present instant (R238). -/
def State.nativeValue (s : State) (p off : Nat) : Word :=
  if (rowAt p off).isNone then 0
  else
    let w := s.reg (regKey p off)
    if off = PAGE_STATUS.off then PAGE_STATUS_busy.put w (b2n (s.busy p))
    else if p = memPage 21 ∧ MEM_BUCKET.off ≤ off then
      BitVec.ofNat 32 (unsigned 32 (s.bucketNow ((off - MEM_BUCKET.off) / MEM_BUCKET.stride)))
    else match kindOf p with
      | (.lay, l) => if off = PAGE_CAPS.off ∧ (s.latchOut l).isSome then Fld.put ⟨PAGE_CAPS.off, 4, 23, 22⟩ w 1 else w
      | _ => w

/-- LEG_KEYS (R387): the touched channels of the lowest bank the account owns, for its 16 keys. -/
def State.legKeys (s : State) (a : Nat) : Nat :=
  match (s.ownedBy a tchPage 4).head? with
  | none => 0
  | some b => (List.range 16).foldl (fun m i => m + s.rd (tchPage b) TCH_B_CH_STATE_touched i * 2 ^ i) 0

/-- What a read of offset `off` of the legacy window of account `a` shows (R386, R387): the window's own registers, the native
register of an image, 0 where nothing stands behind it. -/
def State.legValue (s : State) (a off : Nat) : Word :=
  if off = 0x6300 then BitVec.ofNat 32 (s.legKeys a)
  else match s.legReg a off with
    | .readOnly => BitVec.ofNat 32 (s.leg a off)
    | .intEnable => BitVec.ofNat 32 (s.leg a off)
    | .native p o => s.nativeValue p o
    | .atOnce p o => s.nativeValue p o
    | .layer _ _ p o => s.nativeValue p o
    | .dither p => BitVec.ofNat 32 (s.rd p OUT_COL_CTRL_dither + 256 * s.rd p OUT_COL_CTRL_depth)
    | .gains r c =>
      let code := fun (i : Nat) => match (s.legCols a)[c + i]? with
        | some col => (s.reg (regKey (rowPage r) (AUD_ROW_G.off + 128 * (r % 8) + 4 * (col / 2)))).toNat / 2 ^ (16 * (col % 2)) % 1024
        | none => 0
      BitVec.ofNat 32 (code 0 + 65536 * code 1)
    | .missing => 0

/-- The value that a read of offset `off` of page `p` returns (R11, R51, R52, R387). -/
def State.readValue (s : State) (p off : Nat) : Word :=
  match kindOf p with
  | (.leg, _) => s.legValue ((p - legPage 0 0) / 16) ((p - legPage 0 0) % 16 * 4096 + off)
  | _ => s.nativeValue p off

/-- A page answers a read: its owner, the Custodian, and, after a failed boot, anyone who reads GLB page 0 and CUS page 0
(R58, R59, R289); a legacy window answers while its account has the personality (R385). -/
def State.answers (s : State) (who p : Nat) : Bool :=
  (s.owns who p || (s.boot.failed && (p == glbPage 0 || p == cusPage 0)))
    && match kindOf p with
      | (.none, _) => false
      | (.leg, _) => (s.acct ((p - legPage 0 0) / 16)).legacy
      | _ => true

/-- What a read on the register bus returns (R52, R59, R60, R399): the register, or 0 with an error completion where the host
ports pass nothing on, no page is mapped, or the page does not answer the initiator. -/
def State.busRead (s : State) (who addr : Nat) : Resp :=
  if who < 32 && !s.hostHeard then ⟨true, leBytes 4 0⟩
  else match s.busPage who addr with
    | none => ⟨true, leBytes 4 0⟩
    | some p => if s.answers who p then ⟨false, leBytes 4 (s.readValue p (addr % 4096 / 4 * 4)).toNat⟩ else ⟨true, leBytes 4 0⟩

/-- WAKE_OUT is driven low: a latched alarm has its wake_en bit (R409). -/
def State.wakeOutLow (s : State) : Bool :=
  [0, 1].any fun k => (s.rd (glbPage 4) GLB_ALARM_CTRL_latched).testBit k && (s.rd (glbPage 4) GLB_ALARM_CTRL_wake_en).testBit k

/-- INT_N is driven low by personality account `a`, to which the pin is bound (R392). -/
def State.intLow (s : State) (a : Nat) : Bool := s.leg a 0x4 % 2 == 1 && s.leg a 0x10 &&& s.leg a 0x14 != 0

/-- The level of FLT_OUT (R323). -/
def State.fltOut (s : State) : Bool := s.rd (fltPage 2) FLT_OUT_STATUS_level == 1

end Sys2Proof.Machine
end

