-- ==== Sys2Proof/Safety.lean ====
section
/-! DEFINITION. What counts as a safe run: the form of the state that every step keeps, in the terms statements use. -/

namespace Sys2Proof.Machine

/-- A mint's registers and stores are tables in canonical form. -/
def MintS.canonical (m : MintS) : Bool :=
  Tbl.wf (fun _ => (0 : Word)) m.sreg && Tbl.wf (fun _ => (0 : Word)) m.vreg && Tbl.wf (fun _ => (0 : Word)) m.preg
    && Tbl.wf (fun _ => (0 : Word)) m.code && Tbl.wf (fun _ => (0 : Byte)) m.data && Tbl.wf (fun _ => 0) m.spos
    && Tbl.wf (fun _ => unset) m.cell

/-- Every table of the state is in its canonical form: keys strictly rising, and no entry equal to what an unlisted key
reads as; so are the tables inside each mint. Two states with the same contents are then the same data. -/
def State.canonical (s : State) : Bool :=
  Tbl.wf regReset s.regs && Tbl.wf applReset s.applied && Memory.wf s
    && Tbl.wf (fun _ => 0) s.tally && Tbl.wf (fun _ => false) s.levels && Tbl.wf (fun _ => 0) s.pwt
    && Tbl.wf (fun _ => Entry.blank) s.led.ring
    && Tbl.wf (fun _ => AcctS.zero) s.accts && Tbl.wf (fun _ => QueueS.zero) s.queues && Tbl.wf (fun _ => 0) s.subPool
    && Tbl.wf (fun _ => Engine.zero) s.engines && Tbl.wf (fun _ => ((0, 0) : Nat × Nat)) s.safes && Tbl.wf (fun _ => 0) s.dropped
    && Tbl.wf (fun _ => none) s.commits && Tbl.wf (fun _ => false) s.heldSyn && Tbl.wf (fun _ => none) s.routines
    && Tbl.wf (fun _ => OutS.zero) s.outs && Tbl.wf (fun _ => none) s.cheques && Tbl.wf (fun _ => []) s.presses
    && Tbl.wf (fun _ => MintS.zero) s.mints
    && Tbl.wf (fun _ => CapS.zero) s.caps && Tbl.wf (fun _ => PortS.zero) s.ports && Tbl.wf (fun _ => false) s.blanked
    && Tbl.wf (fun _ => CheckS.zero) s.checks && Tbl.wf (fun _ => (0 : Word)) s.luts && Tbl.wf (fun _ => 0) s.readyAt
    && Tbl.wf (fun _ => false) s.written && Tbl.wf (fun _ => none) s.loads && Tbl.wf (fun _ => HapS.zero) s.haps
    && Tbl.wf (fun _ => TouchS.zero) s.touches && Tbl.wf (fun _ => 0) s.errOwed
    && Tbl.wf (fun _ => 0) s.ticked
    && s.mints.all (fun e => e.2.canonical)

/-- A write of a whole word passes steps 1 to 5 of R20. -/
def State.writeOk (s : State) (who p off : Nat) (value : Word) (data : Bool) (rule : Word → Rule) : Bool :=
  (s.judge who p off value 15 data rule).1 == .carried

/-- No injection is armed for the checker that source `i` of page `p` reports (R325). -/
def State.unarmed (s : State) (p i : Nat) : Prop := s.rd p FLT_INJECT_arm = 0 ∨ s.rd p FLT_INJECT_source ≠ i

/-- Mint `m` executes instruction `i` of cheque `c` next: the word decodes, holds opcode `op`, and breaks no limit of R136, and
the mint's stores are read without an injected error (R325). -/
def State.runs (s : State) (m op : Nat) (c : Cheque) (i : MI) : Prop :=
  (∃ id, s.current m = some (id, c, some i)) ∧ i.op = op ∧ overLimit (s.mint m) c i = false
    ∧ s.unarmed (pressPage (m / 8)) 2

/-- Between `s` and `t` only mint `m` has worked: no other mint, register, table or memory differs, and of the tallies only
TALLY4 of the mint's press, by the lane-ops executed (R149). -/
def State.onlyMint (s t : State) (m lane : Nat) : Prop :=
  t = { s with mints := t.mints, tally := t.tally } ∧ (∀ j, j ≠ m → t.mint j = s.mint j)
    ∧ (∀ k, NatTbl.at_ t.tally k = NatTbl.at_ s.tally k + if k = 8 * pressPage (m / 8) + 4 then lane else 0)

/-- One instruction has retired: mint `m` goes on at `pc`, and beside the count, the lane-ops and the time it differs from
what it was only as `w` does from it. -/
def State.retired (s t : State) (m lane pc : Nat) (w : MintS) : Prop :=
  s.onlyMint t m lane ∧ t.mint m = w.retire lane pc s.now

/-- From `v` to `w` the active elements of group d take `f`, and nothing else differs: not the inactive elements, not the
other registers, not the predicates, the scalars or the store (R129). -/
def MintS.laned (v w : MintS) (i : MI) (f : Nat → Word) : Prop :=
  w = { v with vreg := w.vreg } ∧ (∀ k ∈ v.active i, w.v i.d k = f k)
    ∧ (∀ n, (∀ k ∈ v.active i, n ≠ 4 * i.d + k) → Tbl.get (fun _ => 0) w.vreg n = Tbl.get (fun _ => 0) v.vreg n)

/-- A lane instruction has retired with group d taking `f`. -/
def State.laneDone (s t : State) (m : Nat) (i : MI) (f : Nat → Word) : Prop :=
  ∃ w, s.retired t m (4 * (s.mint m).vl) ((s.mint m).pc + 1) w ∧ (s.mint m).laned w i f

/-- A non-lane instruction has retired, the mint going on at `pc` as `w`. -/
def State.plainDone (s t : State) (m pc : Nat) (w : MintS) : Prop := s.retired t m 0 pc w

end Sys2Proof.Machine
end

