-- ==== Sys2Proof/Certificates/Slice0/Obligations.lean ====
section
/-! DEFINITION. The statements about the block, for the provers. -/

open Sys2Proof Sys2Proof.Machine

/-! The whole machine. -/

/-- A step runs the command at the front of the queue on the state with the queue's rest. -/
def Obligations.StepRunsFrontCommand : Prop :=
  ∀ (c : Instr) (rest : List Instr) (s : State),
    step { s with pending := c :: rest } = exec c { s with pending := rest }

/-- The model's choice (log entry 2): with no command waiting, only the time base advances, by 1 ns (R408). -/
def Obligations.EmptyQueueTicks : Prop :=
  ∀ s : State, s.pending = [] → step s = .next { s with now := s.now + 1 }

/-- The state after reset is in the canonical form: memory lists nothing, and so does every other table.

The model's own choices in it: log entries 6, 35, 100, 105 and 106. -/
def Obligations.ResetIsCanonical : Prop :=
  State.reset.canonical = true ∧ State.reset.pending = [] ∧ ∀ k, State.reset.reg k = regReset k

/-- Every step keeps the canonical form of the memories, the registers and every other table, inside each mint too. -/
def Obligations.EveryStepKeepsCanonical : Prop :=
  ∀ s t : State, s.canonical = true → step s = .next t → t.canonical = true

/-- No command touches the queue, and none but VBAT_LOW (R410) moves the time base, which only a tick advances (R408).

The model's own choices in it: log entries 2 and 94. -/
def Obligations.CommandsKeepQueueAndClock : Prop :=
  ∀ (c : Instr) (s t : State), s.canonical = true → exec c s = .next t →
    t.pending = s.pending ∧ (c ≠ .vbatLow → t.now = s.now)

/-- Every command answers a next state in every state; the only stop is a command that no sender can form: a discovery
record that is not 1,024 bytes long, or a boot input outside the ranges of its measurements.

The model's own choices in it: log entries 3 and 4. -/
def Obligations.OnlyIllFormedStop : Prop :=
  (∀ (c : Instr) (s : State), (∃ t, exec c s = .next t) ∨ (exec c s = .fault .badOperand ∧ c.wellFormed = false))
  ∧ (∀ (o : Out) (caps : SinkCaps) (record : List Byte) (s : State),
      record.length ≠ 1024 → exec (.discoveryDone o caps record) s = .fault .badOperand)
  ∧ (∀ (b : BootInput) (s : State), b.wf = false → exec (.custodianBoot b) s = .fault .badOperand)

/-- R20 in the order of its steps, on a write of a whole word: a foreign page drops the write and faults the initiator's
account; a read-only register ignores it; a locked page refuses it where its register holds nothing writable but RWL fields, or it
would change one (the reading of log entry 103), and so does the register's own lock; a value out of range is refused and
faulted; a value that changes nothing is ignored; without room for its entries it is counted in a refusal span; else it is
logged, then applied. A later step is not reached once an earlier one has stopped the write.

The model's own choices in it: log entries 9, 10, 11, 12 and 103. -/
def Obligations.WriteChecksInOrder : Prop :=
  ∀ (s : State) (who p off : Nat) (value : Word) (rule : Word → Rule) (recs : Word → List Rec)
    (eff : Word → State → State) (r : RegRow) (i : Nat),
    (who = 32 ∨ s.hostHeard = true) → (kindOf p).1 ≠ .none → rowAt p off = some (r, i) →
    let done := s.writeWith who p off value 15 false rule recs eff
    let new := r.produce (s.reg (fkey p r.reg i)) value
    (s.owns who p = false → done = if who < 32 then s.charge who else s)
    ∧ (s.owns who p = true → (r.fields.all fun x => x.acc == .ro || x.acc == .rc) = true → done = s)
    ∧ (s.owns who p = true → (r.fields.all fun x => x.acc == .ro || x.acc == .rc) = false →
        (s.locked p = true → r.lockStops (s.reg (fkey p r.reg i)) new = true → done = s.refuse who p off 4 value)
        ∧ (rule value = .locked → done = s.refuse who p off 4 value)
        ∧ ((s.locked p && r.lockStops (s.reg (fkey p r.reg i)) new) = false → rule value ≠ .locked →
            (r.inRange value = false ∨ rule value = .range → done = s.refuse who p off 3 value)
            ∧ (r.inRange value = true → rule value = .ok →
                (new = s.reg (fkey p r.reg i) → value &&& r.bits (· == .wo) = 0 → done = s)
                ∧ ((new ≠ s.reg (fkey p r.reg i) ∨ value &&& r.bits (· == .wo) ≠ 0) →
                    (s.room who = false ∨ s.room who (recs value).length = false → done = State.settle (s.refuseFull who))
                    ∧ (s.room who = true → s.room who (recs value).length = true → done = eff value (s.log who (recs value)))))))

/-- R20 and R11 on the value that a write would produce: plain fields take the written bits, RO and RC fields keep theirs,
W1C bits written 1 clear, W1S bits written 1 set; a WO field holds none. -/
def Obligations.WriteProducesByAccess : Prop :=
  ∀ (r : RegRow) (cur v : Word) (k : Nat),
    (r.produce cur v).getLsbD k =
      (((r.bits Access.plain).getLsbD k && v.getLsbD k)
        || ((r.bits fun a => a == .ro || a == .rc).getLsbD k && cur.getLsbD k)
        || ((r.bits (· == .w1c)).getLsbD k && cur.getLsbD k && !v.getLsbD k)
        || ((r.bits (· == .w1s)).getLsbD k && (cur.getLsbD k || v.getLsbD k)))

/-! The mints (R125 to R138). -/

/-- R129: a word that decodes has its opcode in bits 29:24 and the opcode's format in bits 31:30, with p, pe, d, a, b, c, s,
the immediate, the base, the offset and the target in the bits of its format; the bits that the format fixes at 0 are 0; pe is
not set on a register-format instruction that is no lane instruction; scalar fields lie in 0 to 15. With s = 1 the last source is
a scalar; with pe = 1 a lane instruction that retires writes only the elements whose bit in predicate p is 1; a memory address is
s[base] plus four times the offset, inside 0x0000 to 0x1FFF and aligned. A control instruction with pe = 1 tests predicate p: BR
branches if any bit of it is 1, BRN if none is. -/
def Obligations.MintWordFormat : Prop :=
  (∀ (w : Word) (vl : Nat) (effect : Bool) (i : MI), decodeMint w vl effect = some i →
    i.op = (w.extractLsb' 24 6).toNat ∧ opFormat i.op = some (w.extractLsb' 30 2).toNat
    ∧ i.pe = w.getLsbD 23 ∧ i.p = (w.extractLsb' 21 2).toNat ∧ i.d = (w.extractLsb' 16 5).toNat
    ∧ i.a = (w.extractLsb' 11 5).toNat ∧ i.b = (w.extractLsb' 6 5).toNat ∧ i.c = (w.extractLsb' 1 5).toNat
    ∧ i.sc = w.getLsbD 0 ∧ i.imm = (w.extractLsb' 0 16).toNat ∧ i.base = (w.extractLsb' 12 4).toNat
    ∧ i.off = (w.extractLsb' 0 12).toNat ∧ i.target = (w.extractLsb' 0 10).toNat
    ∧ (opFormat i.op = some 1 ∨ opFormat i.op = some 2 → w.extractLsb' 21 3 = 0)
    ∧ (opFormat i.op = some 3 → w.extractLsb' 10 6 = 0)
    ∧ (opFormat i.op = some 0 → i.pe = true → isLane i.op = true)
    ∧ (∀ n ∈ scalarFields i, n < 16))
  ∧ (∀ (v : MintS) (i : MI) (n k : Nat),
    v.addr i = ((v.s i.base).toNat + 4 * i.off) % 2 ^ 32
    ∧ v.last i n k = (if i.sc then v.s n else v.v n k)
    ∧ (k ∈ v.active i ↔ k < 4 * v.vl ∧ (i.pe = true → (v.p i.p).getLsbD k = true)))
  ∧ (∀ a n al : Nat, storeOk a n al false = true ↔ a + n ≤ 0x2000 ∧ a % al = 0)
  ∧ (∀ (m : MintId) (c : Cheque) (i : MI) (s : State), s.canonical = true → i.pe = true → i.target < (s.mint m.val).codeLen →
    let v := s.mint m.val
    (s.runs m.val 0x3C c i → ∃ t, exec (.br m) s = .next t
      ∧ (t.mint m.val).pc = if v.p i.p ≠ 0 then i.target else v.pc + 1)
    ∧ (s.runs m.val 0x3D c i → ∃ t, exec (.brn m) s = .next t
      ∧ (t.mint m.val).pc = if v.p i.p = 0 then i.target else v.pc + 1))
  ∧ (∀ (m : MintId) (c : Cheque) (i : MI) (s t : State), s.canonical = true → i.pe = true →
    let v := s.mint m.val
    let lanes : List (Nat × Instr) := [(0x00, .iadd m), (0x01, .isub m), (0x02, .imul m), (0x03, .iand m), (0x04, .ior m),
      (0x05, .shl m), (0x06, .shr m), (0x07, .fadd m), (0x08, .fsub m), (0x09, .fmul m), (0x0A, .fma m), (0x0B, .fmin m),
      (0x0C, .fmax m), (0x0D, .fsat m), (0x0E, .frcp m), (0x0F, .fbld m), (0x10, .bld m), (0x11, .hfma m), (0x12, .cvtif m), (0x13, .cvtfi m),
      (0x14, .cvthf m), (0x15, .cvtfh m), (0x16, .unpk8 m), (0x17, .pack8 m), (0x18, .fcmp m), (0x19, .icmp m), (0x1A, .sel m),
      (0x1B, .lut m), (0x1C, .lutf m), (0x1D, .mov m)]
    ∀ e ∈ lanes, s.runs m.val e.1 c i → exec e.2 s = .next t → (t.mint m.val).pc = v.pc + 1 →
      ∀ k < 4 * v.vl, (v.p i.p).getLsbD k = false →
        (t.mint m.val).v i.d k = v.v i.d k ∧ ((t.mint m.val).p i.d).getLsbD k = (v.p i.d).getLsbD k)

/-- R126, R129, R130: the integer, move and select lane instructions. Group d takes the result at each active element, every
source read before any is written; nothing else differs. -/
def Obligations.IntegerLanes : Prop :=
  ∀ (m : MintId) (c : Cheque) (i : MI) (s : State), s.canonical = true →
    let v := s.mint m.val
    let a := v.v i.a
    let b := v.last i i.b
    (s.runs m.val 0x00 c i → ∃ t, exec (.iadd m) s = .next t ∧ s.laneDone t m.val i fun k => a k + b k)
    ∧ (s.runs m.val 0x01 c i → ∃ t, exec (.isub m) s = .next t ∧ s.laneDone t m.val i fun k => a k - b k)
    ∧ (s.runs m.val 0x02 c i → ∃ t, exec (.imul m) s = .next t ∧ s.laneDone t m.val i fun k => a k * b k)
    ∧ (s.runs m.val 0x03 c i → ∃ t, exec (.iand m) s = .next t ∧ s.laneDone t m.val i fun k => a k &&& b k)
    ∧ (s.runs m.val 0x04 c i → ∃ t, exec (.ior m) s = .next t ∧ s.laneDone t m.val i fun k => a k ||| b k)
    ∧ (s.runs m.val 0x05 c i → ∃ t, exec (.shl m) s = .next t ∧ s.laneDone t m.val i fun k => a k <<< ((b k).toNat % 32))
    ∧ (s.runs m.val 0x06 c i → ∃ t, exec (.shr m) s = .next t ∧ s.laneDone t m.val i fun k => a k >>> ((b k).toNat % 32))
    ∧ (s.runs m.val 0x1A c i → ∃ t, exec (.sel m) s = .next t
        ∧ s.laneDone t m.val i fun k => if (v.p i.c).getLsbD k then a k else b k)
    ∧ (s.runs m.val 0x1D c i → ∃ t, exec (.mov m) s = .next t ∧ s.laneDone t m.val i fun k => v.last i i.a k)

/-- R126, R129, R130, R134: the binary32 lane instructions and the packed multiply-add. FMA and FBLD round once.

R126, R130: the conversions.

The model's own choices in it: log entries 28 and 31. -/
def Obligations.FloatLanes : Prop :=
  (∀ (m : MintId) (c : Cheque) (i : MI) (s : State), s.canonical = true →
    let v := s.mint m.val
    let a := v.v i.a
    let b := v.last i i.b
    let b3 := v.v i.b
    let c3 := v.last i i.c
    (s.runs m.val 0x07 c i → ∃ t, exec (.fadd m) s = .next t ∧ s.laneDone t m.val i fun k => fadd (a k) (b k))
    ∧ (s.runs m.val 0x08 c i → ∃ t, exec (.fsub m) s = .next t ∧ s.laneDone t m.val i fun k => fsub (a k) (b k))
    ∧ (s.runs m.val 0x09 c i → ∃ t, exec (.fmul m) s = .next t ∧ s.laneDone t m.val i fun k => fmul (a k) (b k))
    ∧ (s.runs m.val 0x0A c i → ∃ t, exec (.fma m) s = .next t ∧ s.laneDone t m.val i fun k => fma (a k) (b3 k) (c3 k))
    ∧ (s.runs m.val 0x0B c i → ∃ t, exec (.fmin m) s = .next t ∧ s.laneDone t m.val i fun k => fmin (a k) (b k))
    ∧ (s.runs m.val 0x0C c i → ∃ t, exec (.fmax m) s = .next t ∧ s.laneDone t m.val i fun k => fmax (a k) (b k))
    ∧ (s.runs m.val 0x0D c i → ∃ t, exec (.fsat m) s = .next t ∧ s.laneDone t m.val i fun k => fsat (v.last i i.a k))
    ∧ (s.runs m.val 0x0E c i → ∃ t, exec (.frcp m) s = .next t ∧ s.laneDone t m.val i fun k => frcp (v.last i i.a k))
    ∧ (s.runs m.val 0x0F c i → ∃ t, exec (.fbld m) s = .next t
        ∧ s.laneDone t m.val i fun k => fbld (a k) (b3 k) (c3 k) (v.v i.d k))
    ∧ (s.runs m.val 0x11 c i → ∃ t, exec (.hfma m) s = .next t ∧ s.laneDone t m.val i fun k => hfma (a k) (b3 k) (c3 k)))
  ∧ (∀ (m : MintId) (c : Cheque) (i : MI) (s : State), s.canonical = true →
    let v := s.mint m.val
    let x := v.last i i.a
    (s.runs m.val 0x12 c i → ∃ t, exec (.cvtif m) s = .next t ∧ s.laneDone t m.val i fun k => cvtif (x k))
    ∧ (s.runs m.val 0x13 c i → ∃ t, exec (.cvtfi m) s = .next t ∧ s.laneDone t m.val i fun k => cvtfi (x k))
    ∧ (s.runs m.val 0x14 c i → ∃ t, exec (.cvthf m) s = .next t ∧ s.laneDone t m.val i fun k => cvthf (x k) (i.c == 1))
    ∧ (s.runs m.val 0x15 c i → ∃ t, exec (.cvtfh m) s = .next t
        ∧ s.laneDone t m.val i fun k => BitVec.ofNat 32 (toHalf (v.v i.a k) + 65536 * toHalf (v.last i i.b k)))
    ∧ (s.runs m.val 0x16 c i → ∃ t, exec (.unpk8 m) s = .next t
        ∧ s.laneDone t m.val i fun k => ratio ((x k).toNat / 2 ^ (8 * i.c) % 256) 255)
    ∧ (s.runs m.val 0x17 c i → ∃ t, exec (.pack8 m) s = .next t
        ∧ s.laneDone t m.val i fun k => Fld.put ⟨0, 0, 8 * i.c + 7, 8 * i.c⟩ (v.v i.d k) ((fsatV (x k)).scaled 255)))

/-- R127, R130, R136: the table instructions read words of the mint's data store, addresses taken modulo 2^32; a word that an active
element reads outside the store or not aligned bounces the cheque; an element of LUTF outside 0 to 1 reads none.

The model's own choices in it: log entry 32. -/
def Obligations.TableLanes : Prop :=
  ∀ (m : MintId) (c : Cheque) (i : MI) (s : State), s.canonical = true →
    let v := s.mint m.val
    let at_ := fun k => ((v.s i.c).toNat + 4 * (v.v i.a k).toNat) % 2 ^ 32
    let entry := fun (j : Nat) => ((v.s i.c).toNat + 4 * j) % 2 ^ 32
    let after := fun (j : Nat) => if j = 2 ^ i.b then j else j + 1
    let fits := fun (a : Nat) => a + 4 ≤ 0x2000 ∧ a % 4 = 0
    let j := fun k => (lutIndex (v.v i.a k) i.b).getD 0
    (s.runs m.val 0x1B c i →
      ((∀ k ∈ v.active i, at_ k + 4 ≤ 0x2000 ∧ at_ k % 4 = 0) →
        ∃ t, exec (.lut m) s = .next t ∧ s.laneDone t m.val i fun k => v.word (at_ k))
      ∧ ((∃ k ∈ v.active i, 0x2000 < at_ k + 4 ∨ at_ k % 4 ≠ 0) → exec (.lut m) s = .next (s.bounce m.val)))
    ∧ (s.runs m.val 0x1C c i →
      ((∀ k ∈ v.active i, ∀ n, lutIndex (v.v i.a k) i.b = some n → fits (entry n) ∧ fits (entry (after n))) →
        ∃ t, exec (.lutf m) s = .next t ∧ s.laneDone t m.val i fun k =>
          lutfAt (v.v i.a k) (v.word (entry (j k))) (v.word (entry (after (j k)))) i.b)
      ∧ ((∃ k ∈ v.active i, ∃ n, lutIndex (v.v i.a k) i.b = some n ∧ ¬ (fits (entry n) ∧ fits (entry (after n)))) →
          exec (.lutf m) s = .next (s.bounce m.val)))

/-- R126, R129, R130: a compare sets the active elements' bits of predicate d to the outcome of condition c and keeps the
others; FCMP orders binary32 values (no order with a NaN), ICMP signed words. -/
def Obligations.CompareLanes : Prop :=
  ∀ (m : MintId) (c : Cheque) (i : MI) (s : State), s.canonical = true →
    let v := s.mint m.val
    let done := fun (t : State) (f : Word → Word → Option Ordering) =>
      ∃ w, s.retired t m.val (4 * v.vl) (v.pc + 1) w ∧ w = { v with preg := w.preg } ∧ (∀ n, n ≠ i.d → w.p n = v.p n)
        ∧ (∀ k < 32, (w.p i.d).getLsbD k =
            if k ∈ v.active i then condHolds i.c (f (v.v i.a k) (v.last i i.b k)) else (v.p i.d).getLsbD k)
    (s.runs m.val 0x18 c i → ∃ t, exec (.fcmp m) s = .next t ∧ done t fun a b => (fv a).cmp (fv b))
    ∧ (s.runs m.val 0x19 c i → ∃ t, exec (.icmp m) s = .next t ∧ done t fun a b => some (compare a.toInt b.toInt))

/-- R130: the scalar instructions: s[d] takes the result, everything else of the mint stays.

R130: MOVH fills every element of group d with the immediate, read as binary16; SETVL sets the vector length. -/
def Obligations.ScalarInstructions : Prop :=
  (∀ (m : MintId) (c : Cheque) (i : MI) (s : State), s.canonical = true →
    let v := s.mint m.val
    let done := fun (t : State) (x : Word) => ∃ w, s.plainDone t m.val (v.pc + 1) w ∧ w = { v with sreg := w.sreg }
      ∧ w.s i.d = x ∧ ∀ n, n ≠ i.d → w.s n = v.s n
    let imm := (BitVec.ofNat 16 i.imm).signExtend 32
    (s.runs m.val 0x20 c i → ∃ t, exec (.sadd m) s = .next t ∧ done t (v.s i.a + v.s i.b))
    ∧ (s.runs m.val 0x21 c i → ∃ t, exec (.smul m) s = .next t ∧ done t (v.s i.a * v.s i.b))
    ∧ (s.runs m.val 0x22 c i → ∃ t, exec (.lane m) s = .next t ∧ done t (v.last i i.a i.c))
    ∧ (s.runs m.val 0x30 c i → ∃ t, exec (.smovi m) s = .next t ∧ done t imm)
    ∧ (s.runs m.val 0x31 c i → ∃ t, exec (.saddi m) s = .next t ∧ done t (v.s i.d + imm)))
  ∧ (∀ (m : MintId) (c : Cheque) (i : MI) (s : State), s.canonical = true →
    let v := s.mint m.val
    (s.runs m.val 0x32 c i → ∃ t w, exec (.movh m) s = .next t ∧ s.retired t m.val (4 * v.vl) (v.pc + 1) w
      ∧ w = { v with vreg := w.vreg } ∧ (∀ k < 4 * v.vl, w.v i.d k = cvthf (BitVec.ofNat 32 i.imm) false)
      ∧ (∀ n, n < 4 * i.d ∨ 4 * i.d + 4 * v.vl ≤ n → Tbl.get (fun _ => 0) w.vreg n = Tbl.get (fun _ => 0) v.vreg n))
    ∧ (s.runs m.val 0x33 c i → ∃ t, exec (.setvl m) s = .next t ∧ s.plainDone t m.val (v.pc + 1) { v with vl := i.imm }))

/-- R127, R129, R136: the loads and stores of the mint's data store. A store writes its bytes little-endian at the address and
no other; what lies outside 0x0000 to 0x1FFF, is not aligned to its width, or would store to the constants bounces. -/
def Obligations.StoreInstructions : Prop :=
  ∀ (m : MintId) (c : Cheque) (i : MI) (s : State), s.canonical = true →
    let v := s.mint m.val
    let a := ((v.s i.base).toNat + 4 * i.off) % 2 ^ 32
    let byte := fun (w : MintS) (n : Nat) => Tbl.get (fun _ => (0 : Byte)) w.data n
    let fits := fun (n al : Nat) => a + n ≤ 0x2000 ∧ a % al = 0
    (s.runs m.val 0x38 c i →
      (fits (16 * v.vl) 16 → ∃ t w, exec (.ldv m) s = .next t ∧ s.plainDone t m.val (v.pc + 1) w ∧ w = { v with vreg := w.vreg }
        ∧ (∀ k < 4 * v.vl, w.v i.d k = v.word (a + 4 * k))
        ∧ (∀ n, n < 4 * i.d ∨ 4 * i.d + 4 * v.vl ≤ n → Tbl.get (fun _ => 0) w.vreg n = Tbl.get (fun _ => 0) v.vreg n))
      ∧ (¬ fits (16 * v.vl) 16 → exec (.ldv m) s = .next (s.bounce m.val)))
    ∧ (s.runs m.val 0x3A c i →
      (fits 4 4 → ∃ t w, exec (.lds m) s = .next t ∧ s.plainDone t m.val (v.pc + 1) w ∧ w = { v with sreg := w.sreg }
        ∧ w.s i.d = v.word a ∧ ∀ n, n ≠ i.d → w.s n = v.s n)
      ∧ (¬ fits 4 4 → exec (.lds m) s = .next (s.bounce m.val)))
    ∧ (s.runs m.val 0x3B c i →
      (fits 4 4 → (a + 4 ≤ 0x200 ∨ 0x1000 ≤ a) → ∃ t w, exec (.sts m) s = .next t ∧ s.plainDone t m.val (v.pc + 1) w
        ∧ w = { v with data := w.data } ∧ (∀ j < 4, byte w (a + j) = (v.s i.d).extractLsb' (8 * j) 8)
        ∧ (∀ n, n < a ∨ a + 4 ≤ n → byte w n = byte v n))
      ∧ (¬ fits 4 4 ∨ (0x200 < a + 4 ∧ a < 0x1000) → exec (.sts m) s = .next (s.bounce m.val)))
    ∧ (s.runs m.val 0x39 c i →
      (fits (16 * v.vl) 16 → (a + 16 * v.vl ≤ 0x200 ∨ 0x1000 ≤ a) → ∃ t w, exec (.stv m) s = .next t
        ∧ s.plainDone t m.val (v.pc + 1) w ∧ w = { v with data := w.data }
        ∧ (∀ k < 4 * v.vl, ∀ j < 4, byte w (a + 4 * k + j) = (v.v i.d k).extractLsb' (8 * j) 8)
        ∧ (∀ n, n < a ∨ a + 16 * v.vl ≤ n → byte w n = byte v n))
      ∧ (¬ fits (16 * v.vl) 16 ∨ (0x200 < a + 16 * v.vl ∧ a < 0x1000) → exec (.stv m) s = .next (s.bounce m.val)))

/-- R133, R134: GET, GETC and BLD read the current group of a stream that has delivered; NEXT advances it by 4 × VL positions.
An absent position gives 0 to GET and GETC, and leaves its element to BLD.

The model's own choices in it: log entry 28. -/
def Obligations.StreamInstructions : Prop :=
  ∀ (m : MintId) (c : Cheque) (i : MI) (st : Stream) (ps : List (Option Rgba)) (s : State), s.canonical = true →
    let v := s.mint m.val
    let n := (v.s i.a).toNat
    let step := elemStep st.form
    c.streams[n]? = some st → (c.acct.isNone && st.src.effect && st.output.isNone && !st.transparent) = false →
    (s.runs m.val 0x23 c i → Got.all (v.elems.map fun k => s.at c st ((v.sp n + step * k) / 2)) = .val ps →
      ∃ t w, exec (.get m) s = .next t ∧ s.plainDone t m.val (v.pc + 1) w ∧ w = { v with vreg := w.vreg, spos := w.spos }
        ∧ w.sp n = v.sp n + step * (4 * v.vl) ∧ (∀ x, x ≠ n → w.sp x = v.sp x)
        ∧ (∀ k < 4 * v.vl, w.v i.d k = match ps.getD k none with
            | some p => rawElem st.form ((v.sp n + step * k) % 2 == 1) p
            | none => 0))
    ∧ (s.runs m.val 0x24 c i → s.groupAt c st v n v.elems = .val ps →
      ∃ t w, exec (.getc m) s = .next t ∧ s.plainDone t m.val (v.pc + 1) w ∧ w = { v with vreg := w.vreg }
        ∧ (∀ k < 4 * v.vl, w.v i.d k = match ps.getD k none with | some p => getComp st p i.c | none => 0))
    ∧ (s.runs m.val 0x10 c i → i.pe = false → s.groupAt c st v n v.elems = .val ps →
      ∃ t w, exec (.bld m) s = .next t ∧ s.retired t m.val (4 * v.vl) (v.pc + 1) w ∧ w = { v with vreg := w.vreg }
        ∧ (∀ k < 4 * v.vl, w.v i.d k = match ps.getD k none with
            | some p => bldAt st.mode (getComp st p i.c) (compF st.form p.a) (v.v i.d k) st.alpha
            | none => v.v i.d k))
    ∧ (s.runs m.val 0x27 c i → ∃ t w, exec (.next m) s = .next t ∧ s.plainDone t m.val (v.pc + 1) w
        ∧ w = { v with spos := w.spos } ∧ w.sp n = v.sp n + 8 * v.vl ∧ ∀ x, x ≠ n → w.sp x = v.sp x)

/-- R135: PUT and PUTC write the current output group in the output's form, NEXTO advances it by 4 × VL positions. An output
group wholly past the cell's last position bounces the cheque.

The model's own choices in it: log entry 34. -/
def Obligations.OutputInstructions : Prop :=
  ∀ (m : MintId) (c : Cheque) (i : MI) (s : State), s.canonical = true →
    let v := s.mint m.val
    let step := elemStep (outForm c)
    let inCell := v.opos / 2 < c.w * c.h
    (s.runs m.val 0x25 c i →
      (inCell → ∃ t, exec (.put m) s = .next t ∧ s.plainDone t m.val (v.pc + 1)
        { v.elems.foldl (fun (w : MintS) k => putElem c w (v.opos + step * k) (v.last i i.a k)) v with
          opos := v.opos + step * (4 * v.vl) })
      ∧ (¬ inCell → exec (.put m) s = .next (s.bounce m.val)))
    ∧ (s.runs m.val 0x26 c i →
      (inCell → ∃ t, exec (.putc m) s = .next t ∧ s.plainDone t m.val (v.pc + 1)
        (v.elems.foldl (fun (w : MintS) k => putComp c w (v.opos / 2 + k) i.c (toForm (outForm c) (v.last i i.a k))) v))
      ∧ (¬ inCell → exec (.putc m) s = .next (s.bounce m.val)))
    ∧ (s.runs m.val 0x28 c i → ∃ t, exec (.nexto m) s = .next t
      ∧ s.plainDone t m.val (v.pc + 1) { v with opos := v.opos + 8 * v.vl })

/-- R129, R130, R136: the control instructions. A taken one goes to its target, one not taken to the next word; a target
outside the loaded routine bounces, taken or not. BR with pe, and BRN, test predicate p; LOOP decrements s[d] first.

The model's own choices in it: log entry 33. -/
def Obligations.ControlInstructions : Prop :=
  ∀ (m : MintId) (c : Cheque) (i : MI) (s : State), s.canonical = true →
    let v := s.mint m.val
    (s.runs m.val 0x3C c i →
      (i.target < v.codeLen → ∃ t, exec (.br m) s = .next t
        ∧ s.plainDone t m.val (if i.pe = false ∨ v.p i.p ≠ 0 then i.target else v.pc + 1) v)
      ∧ (v.codeLen ≤ i.target → exec (.br m) s = .next (s.bounce m.val)))
    ∧ (s.runs m.val 0x3D c i →
      (i.target < v.codeLen → ∃ t, exec (.brn m) s = .next t
        ∧ s.plainDone t m.val (if v.p i.p = 0 then i.target else v.pc + 1) v)
      ∧ (v.codeLen ≤ i.target → exec (.brn m) s = .next (s.bounce m.val)))
    ∧ (s.runs m.val 0x3E c i →
      (i.target < v.codeLen → ∃ t, exec (.loop m) s = .next t
        ∧ s.plainDone t m.val (if v.s i.d - 1 ≠ 0 then i.target else v.pc + 1) (v.setS i.d (v.s i.d - 1)))
      ∧ (v.codeLen ≤ i.target → exec (.loop m) s = .next (s.bounce m.val)))

/-- R113, R114, R115, R136, R137: SETTLE of a cheque whose output group has passed the cell's last position. A composition
cheque's layers whose effect has not settled are transparent from then on; its mint is settled with the cell that its routine has
written or that R114 gives, to be published, once all the data of the cell is there. An effect cheque's cell is published to its
parent's stream, once the output press's line store has room for it, its record returns to the pool, and the mint is free. Short of that position the cheque is bounced. -/
def Obligations.SettleInstruction : Prop :=
  ∀ (m : MintId) (id : Nat) (c : Cheque) (i : MI) (s : State), s.canonical = true → s.current m.val = some (id, c, some i) →
    s.runs m.val 0x3F c i →
    let v := s.mint m.val
    (c.acct = none → c.w * c.h ≤ v.opos / 2 →
      let u := c.streams.foldl (fun (t : State) st =>
        if st.src.effect && st.output.isNone && !st.transparent then t.lateEffect id st.layer c.out else t) s
      let w := u.mint m.val
      ∀ d cell, u.runs m.val 0x3F d i → d.acct = none → d.w * d.h ≤ w.opos / 2 → u.settled d w = .val cell →
        ∃ t, exec (.settle m) s = .next t ∧ u.plainDone t m.val (w.pc + 1) { w with phase := .settled, cell := cell })
    ∧ (c.acct.isSome → c.w * c.h ≤ v.opos / 2 → s.effectRoom c = true →
      ∃ t, s.plainDone t m.val (v.pc + 1) { v with phase := .settled }
        ∧ exec (.settle m) s = .next ((((t.publishEffect c v.cell).dropRecord id).count (pressPage (m.val / 8)) 0).leaveMint m.val))
    ∧ (v.opos / 2 < c.w * c.h → exec (.settle m) s = .next (s.bounce m.val))

/-- R129, R136: a mint whose next word is illegal, or which would break a limit, bounces its cheque whatever instruction the
word holds; a mint that runs no cheque does nothing.

The model's own choices in it: log entry 33. -/
def Obligations.MintLimits : Prop :=
  ∀ (m : MintId) (op : Nat) (sem : MI → Cheque → MintS → Ran) (s : State),
    (∀ id c, s.current m.val = some (id, c, none) → s.runOp m.val op sem = s.bounce m.val)
    ∧ (∀ id c i, s.current m.val = some (id, c, some i) → i.op = op → s.unarmed (pressPage (m.val / 8)) 2 →
        (4096 ≤ (s.mint m.val).count ∨ (c.acct.isSome ∧ c.routine.cost < (s.mint m.val).ops + laneOpsOf i (s.mint m.val).vl)) →
        s.runOp m.val op sem = s.bounce m.val)
    ∧ ((s.mint m.val).phase ≠ .running → s.runOp m.val op sem = s)

/-! The common header, the register bus and the faults. -/

/-- R48, R54, R55, R57, R303: an accepted write of PAGE_CTRL by PAGE_ENABLE, SLEEP_REQ, BLOCK_RESET or PAGE_LOCK is logged, one
entry for each effect; enable and sleep_req take the written bits and the unit's power follows; a written lock bit locks the
page; a written block_reset bit resets the block.

The model's own choices in it: log entries 10, 13, 14, 105 and 107. -/
def Obligations.PageControlCommands : Prop :=
  ∀ (who : Actor) (p : Page) (on : Bool) (s : State),
    let ok := fun (v : Word) => s.writeOk who.val p.val PAGE_CTRL.off v false (s.pageCtrlRule who.val p.val) = true
      ∧ s.room who.val (s.pageCtrlRecs who.val p.val v).length = true
    let done := fun (v : Word) =>
      let t := (((s.log who.val (s.pageCtrlRecs who.val p.val v)).wr p.val PAGE_CTRL_enable (PAGE_CTRL_enable.get v)).wr p.val
        PAGE_CTRL_sleep_req (PAGE_CTRL_sleep_req.get v)).powerFollow p.val
      let t := if v.getLsbD 31 then t.wr p.val PAGE_CTRL_lock 1 else t
      if v.getLsbD 1 then t.blockReset p.val else t
    let word := fun f x => s.fieldWrite p.val f 0 x
    (ok (word PAGE_CTRL_enable (b2n on)) → exec (.pageEnable who p on) s = .next (done (word PAGE_CTRL_enable (b2n on))))
    ∧ (ok (word PAGE_CTRL_sleep_req (b2n on)) →
        exec (.sleepReq who p on) s = .next (done (word PAGE_CTRL_sleep_req (b2n on))))
    ∧ (ok (word PAGE_CTRL_block_reset 1) → exec (.blockReset who p) s = .next (done (word PAGE_CTRL_block_reset 1)))
    ∧ (ok (word PAGE_CTRL_lock 1) → exec (.pageLock who p) s = .next (done (word PAGE_CTRL_lock 1)))

/-- R48: a sleep request for a unit whose wake is queued takes the request out of the queue and the unit sleeps; one for a
unit whose wake has begun changes nothing until the wake completes, when the unit sleeps. -/
def Obligations.SleepRequestOfAWakingUnit : Prop :=
  ∀ (p : Nat) (s : State), s.canonical = true → s.powerGoal p = 1 →
    (s.power p ≠ 2 → s.power p ≠ 4 →
      let t := s.powerFollow p
      (∀ w ∈ t.seq.queue, w.page ≠ p) ∧ t.seq.step = s.seq.step
        ∧ t.power p = 1)
    ∧ (s.power p = 2 → s.powerFollow p = s)
    ∧ (∀ w : Wake, w.page = p → p < 8192 → ((kindOf p).1 ≠ .press ∨ s.rd p MNT_P_ROLE_role ≠ 1) → (s.wakeDone w).power p = 1)

/-- R56, R58: an accepted EVT_PENDING_CLEAR clears the pending and raw bits written 1 but for those whose event recurs, and
those are raised again.

R60, R318, R319: FAULT_CLEAR by an initiator of the trusted world clears the sticky bits it names, but for those of level
sources whose condition persists, and logs an entry of kind 0x08 for the bits cleared and one of kind 0x09 for those that stay;
the collectors, the pin, the device safe state and the outputs' safe causes follow. An initiator of the open world is refused, as a locked write, where it
names a bit whose class is a trusted one, and clears the others. A source that recurs is captured again.

The model's own choices in it: log entries 9 and 10. -/
def Obligations.StickyBitClears : Prop :=
  (∀ (who : Actor) (p : Page) (bits recur : Word) (s : State),
    s.writeOk who.val p.val EVT_PENDING.off bits false (evtRule p.val) = true →
    let again := recur &&& BitVec.ofNat 32 (evtMask p.val)
    let clr := bits &&& ~~~again
    let t := s.log who.val (s.writeRec who.val p.val EVT_PENDING.off bits)
    let u := (t.setReg (fkey p.val EVT_PENDING 0) (t.reg (fkey p.val EVT_PENDING 0) &&& ~~~clr)).setReg (fkey p.val EVT_RAW 0)
      (t.reg (fkey p.val EVT_RAW 0) &&& ~~~clr)
    exec (.evtPendingClear who p bits recur) s = .next (u.raiseAll ((bitsOf again.toNat 32).map fun b => (p.val, b))))
  ∧ (∀ (who : Actor) (p : Page) (bits recur : BitVec 16) (s : State),
    (who.val = 32 ∨ s.hostHeard = true) → s.owns who.val p.val = true → (kindOf p.val).1 ≠ .none →
    let set := bits.toNat &&& s.sticky p.val
    let held := s.trustedBits p.val set
    let again := fun (t : State) => (bitsOf recur.toNat 16).foldl (fun (t : State) i => t.fault p.val i) t
    let entries := fun (u : State) (x : Nat) =>
      let old := u.sticky p.val
      let stay := u.persisting p.val x
      let entry := fun kind (y : Nat) => u.recOf who.val kind 0 (regKey p.val FLT_STICKY.off) (BitVec.ofNat 32 old) (BitVec.ofNat 32 y)
      (if x - stay ≠ 0 then [entry 8 (old - (x - stay))] else []) ++ (if stay ≠ 0 then [entry 9 stay] else [])
    let clears := fun (u : State) (x : Nat) =>
      let gone := x - u.persisting p.val x
      let t := u.log who.val (entries u x)
      (State.settle (((t.wr p.val FLT_STICKY (t.sticky p.val &&& (0xFFFF - gone))).syncFaults p.val).syncDevice)).syncSafe
    let refused := s.refuse who.val p.val FLT_STICKY.off 4 (bits.setWidth 32)
    (s.trustedActor who.val = true ∨ held = 0 → set ≠ 0 →
      s.room who.val (entries s set).length = true → exec (.faultClear who p bits recur) s = .next (again (clears s set)))
    ∧ (s.trustedActor who.val = false → held ≠ 0 → set - held ≠ 0 →
      refused.room who.val (entries refused (set - held)).length = true → exec (.faultClear who p bits recur) s = .next (again (clears refused (set - held))))
    ∧ (s.trustedActor who.val = false → held = set → set ≠ 0 →
      exec (.faultClear who p bits recur) s = .next (again refused))
    ∧ (set = 0 → exec (.faultClear who p bits recur) s = .next (again s)))

/-- R64, R325: FLT_INJECT_ARM, accepted, is logged and stored. TALLY_LATCH on a page that latches at the 100 ms tick, when the time
base shows a multiple of 100 ms at which the page has not yet latched, latches its tallies together; an effect press with no output to
follow ends its frame then. At another time it does nothing.

The model's own choices in it: log entries 3, 20 and 22. -/
def Obligations.InjectAndLatch : Prop :=
  (∀ (who : Actor) (p : Page) (source : Fin 16) (counted : Bool) (count : BitVec 16) (s : State),
    let v := BitVec.ofNat 32 (source.val + b2n counted * 16 + count.toNat * 256 + 2 ^ 31)
    s.writeOk who.val p.val FLT_INJECT.off v false (s.injectRule who.val p.val) = true →
    exec (.fltInjectArm who p source counted count) s
      = .next ((s.log who.val (s.writeRec who.val p.val FLT_INJECT.off v)).store p.val FLT_INJECT.off v))
  ∧ (∀ (p : Page) (s : State),
    let latched : State := { s.latch p.val with ticked := NatTbl.put s.ticked p.val (s.now + 1) }
    let due := s.now % 100000000 = 0 ∧ NatTbl.at_ s.ticked p.val ≠ s.now + 1
    (s.ticks p.val = true → due → (kindOf p.val).1 ≠ .press → exec (.tallyLatch p) s = .next latched)
    ∧ (∀ i, s.ticks p.val = true → due → kindOf p.val = (.press, i) → exec (.tallyLatch p) s = .next
        (if latched.rd p.val MNT_P_ROLE_role = 2 ∧ (latched.effectFrameOut i).isNone then latched.slowCheck i else latched))
    ∧ (s.ticks p.val = false ∨ ¬ due → exec (.tallyLatch p) s = .next s))

/-- R64: at a latch every TALLY register of the page takes what its running counter shows, the counter keeps only what is not
yet shown, and tally_seq advances by one modulo 256; no other page's tally or counter changes. Of a memory page the time tallies
that are running are first brought up to the present instant (R250).

The model's own choices in it: log entry 20. -/
def Obligations.TallyLatchTogether : Prop :=
  ∀ (p : Nat) (s : State), s.canonical = true → p < 4096 → 0 < (capsOf (kindOf p).1).tallies →
    (capsOf (kindOf p).1).tallies ≤ 8 →
    let a := if isMem (kindOf p).1 then s.accrue else s
    let t := s.latch p
    (∀ i < (capsOf (kindOf p).1).tallies,
      t.rd p TALLY i = (a.tallyShown p i (NatTbl.at_ a.tally (8 * p + i))).1 % 2 ^ 32
      ∧ NatTbl.at_ t.tally (8 * p + i) = (a.tallyShown p i (NatTbl.at_ a.tally (8 * p + i))).2)
    ∧ t.rd p PAGE_STATUS_tally_seq = (s.rd p PAGE_STATUS_tally_seq + 1) % 256
    ∧ (∀ k, k / 8 ≠ p → NatTbl.at_ t.tally k = NatTbl.at_ a.tally k)
    ∧ t = { a with regs := t.regs, tally := t.tally }

/-- R20, R51, R59, R60: REGISTER_WRITE reaches the page that the initiator's window shows at the address, a page of the legacy
window by that window's own path (R387). Where the write passes
the checks of R20, a register of the header with no rule of its own, and a block register of the pages that hold only such
registers (layers, protected layers, host ports, vault background, the Custodian's), is logged and takes the value that the
write produces, in escrow where it is an escrowed one; EVT_ENABLE the same, where no reserved bit is set. A write that changes
nothing, and one of a read-only register, leaves the machine as it is; one out of range is refused; one for which the ledger has no
room is counted in the span of refused writes; and an address that the window shows no page at, and a page of another owner, is
charged to the account.

The model's own choices in it: log entries 9, 10 and 103. -/
def Obligations.RegisterWriteCommand : Prop :=
  ∀ (who : Actor) (addr : BitVec 24) (value : Word) (s : State) (p : Nat),
    let off := addr.toNat % 4096 / 4 * 4
    let own := off ∈ [PAGE_CTRL.off, EVT_PENDING.off, FLT_STICKY.off, FLT_CLASS0.off, FLT_CLASS1.off, FLT_INJECT.off]
    let plain := ¬ own ∧ (off < 0x80 ∨ (kindOf p).1 ∈ [.lay, .pl, .hst 0, .hst 1, .vltBg, .cus 0, .cus 1, .cus 2, .cus 4])
    let rule := fun (v : Word) => match s.escrowRule who.val p off with
      | .ok => if off = EVT_ENABLE.off then evtRule p v else .ok
      | r => r
    let verdict := (s.judge who.val p off value 15 false rule).1
    let done := exec (.registerWrite who addr value 15) s
    (s.busPage who.val addr.toNat = some p → (kindOf p).1 ≠ .leg → ∀ be : BitVec 4,
      exec (.registerWrite who addr value be) s = .next (s.pageWrite who.val p off value be))
    ∧ (s.busPage who.val addr.toNat = some p → (kindOf p).1 = .leg → ∀ be : BitVec 4,
      exec (.registerWrite who addr value be) s
        = .next (s.legWrite who.val ((p - legPage 0 0) / 16) ((p - legPage 0 0) % 16 * 4096 + off) value be))
    ∧ (s.busPage who.val addr.toNat = some p → (kindOf p).1 ≠ .leg → plain →
      (verdict = .carried → done = .next ((s.log who.val (s.writeRec who.val p off value)).store p off value))
      ∧ (verdict = .same → done = .next s)
      ∧ (verdict = .range → done = .next (s.refuse who.val p off 3 value))
      ∧ (verdict = .ignored → done = .next s)
      ∧ (verdict = .foreign → done = .next (if who.val < 32 then s.charge who.val else s))
      ∧ (verdict = .full → done = .next (State.settle (s.refuseFull who.val))))
    ∧ (s.busPage who.val addr.toNat = none → s.hostHeard = true → ∀ be : BitVec 4,
      exec (.registerWrite who addr value be) s = .next (s.charge who.val))

/-- R314, R324: FAULT_SCAN, while the device is awake, no injection is armed on the collector, and the last scan ended within a
half-period, counts the scan and notes its time. Where it finds sticky bits whose captures have not reached the collector, each is
captured late, with the actions of its class, and SCAN_MISMATCH is raised. SCAN_LATE raises SCAN_LATE once 100 µs have passed
without a scan.

R323, R324: at a half-period boundary, a whole multiple of half_period after the instant they are counted from, of a device
that is awake and not in COMPAT, FLT_OUT's level turns over while the scans and the heartbeat are good, no pin fault is present
and the wave is alive; when one of the three fails the wave stops low; once they hold again it restarts high, 16 half-periods
after the latest instant at which one of them failed. Between the boundaries, and in COMPAT, the pin stays. A new half-period
notes what lapsed under the old one and what ceases to hold under the new, and makes a boundary at once, from which the next are
counted.

R324: a heartbeat with the next sequence, in time, is taken; one out of sequence raises HB_SEQ and is not.

The model's own choices in it: log entries 3, 22 and 79. -/
def Obligations.FaultScansAndWave : Prop :=
  (∀ s : State, s.boot.awake = true →
    let ends := fun (u : State) =>
      let t := (u.wr (fltPage 0) FLT_SCAN_scans ((u.rd (fltPage 0) FLT_SCAN_scans + 1) % 65536)).wr (fltPage 0) FLT_SCAN_last
        (min 0xFFFF ((u.now - u.flt.scanAt) / 10))
      ({ t with flt := { t.flt with scanAt := u.now, scanEnd := some u.now } } : State)
    (s.rd flt2 FLT_INJECT_arm = 0 → s.missed = [] → (∀ t, s.flt.scanEnd = some t → s.now ≤ t + s.halfNs) →
      exec .faultScan s = .next (ends s))
    ∧ (s.rd flt2 FLT_INJECT_arm = 0 → s.missed ≠ [] → exec .faultScan s = .next (ends
      ((s.missed.foldl (fun (t : State) e => State.settle (t.collect e.1 e.2)) s).fault flt2 0).noteScanLapse))
    ∧ (s.flt.scanAt + 100000 ≤ s.now → exec .scanLate s = .next (s.fault flt2 1))
    ∧ (s.now < s.flt.scanAt + 100000 → exec .scanLate s = .next s))
  ∧ (∀ s : State, s.boot.awake = true →
    let due := (s.now - s.flt.wave) % s.halfNs = 0 ∧ s.flt.flipped ≠ s.now + 1
    let a : State := { s with flt := { s.flt with flipped := s.now + 1 } }
    let t := (a.wr flt2 FLT_OUT_STATUS_scan_late (b2n (!s.scanGood))).wr flt2 FLT_OUT_STATUS_hb_late (b2n (!s.beatGood))
    let good := t.rd flt2 FLT_OUT_STATUS_pin_fault = 0 ∧ t.scanGood = true ∧ t.beatGood = true
    (s.rd flt2 FLT_OUT_STATUS_compat ≠ 1 → due → t.rd flt2 FLT_OUT_STATUS_alive = 1 → good →
      exec .fltOutToggle s = .next (t.wr flt2 FLT_OUT_STATUS_level (1 - t.rd flt2 FLT_OUT_STATUS_level)))
    ∧ (s.rd flt2 FLT_OUT_STATUS_compat ≠ 1 → due → t.rd flt2 FLT_OUT_STATUS_alive = 1 → ¬ good →
      exec .fltOutToggle s = .next ((t.count flt2 1).hwChange (fkey flt2 FLT_OUT_STATUS 0)
        (FLT_OUT_STATUS_level.put (FLT_OUT_STATUS_alive.put (t.reg (fkey flt2 FLT_OUT_STATUS 0)) 0) 0)))
    ∧ (s.rd flt2 FLT_OUT_STATUS_compat ≠ 1 → due → t.rd flt2 FLT_OUT_STATUS_alive ≠ 1 → good →
      t.flt.ceased + 16 * t.halfNs ≤ t.now →
      exec .fltOutToggle s = .next (t.hwChange (fkey flt2 FLT_OUT_STATUS 0)
        (FLT_OUT_STATUS_level.put (FLT_OUT_STATUS_alive.put (t.reg (fkey flt2 FLT_OUT_STATUS 0)) 1) 1)))
    ∧ (s.rd flt2 FLT_OUT_STATUS_compat = 1 → due → exec .fltOutToggle s = .next a)
    ∧ (¬ due → exec .fltOutToggle s = .next s)
    ∧ (∀ (who : Actor) (h : BitVec 10),
      let v := s.fieldWrite flt2 FLT_OUT_CTRL_half_period 0 h.toNat
      let u := s.log who.val (s.writeRec who.val flt2 FLT_OUT_CTRL.off v)
      s.writeOk who.val flt2 FLT_OUT_CTRL.off v false (fun _ => .ok) = true →
      exec (.fltOutPeriodWrite who h) s = .next
        (let w := u.store flt2 FLT_OUT_CTRL.off v
        let x : State := { w with flt := u.noteScanLapse.noteBeatLapse.flt }
        let y := if (u.scanGood && !x.scanGood) || (u.beatGood && !x.beatGood) then x.noteCeased x.now else x
        if w.halfNs = u.halfNs then w
        else ({ y with flt := { y.flt with wave := y.now, flipped := y.now + 1 } } : State).halfBoundary)))
  ∧ (∀ (who : Actor) (seq : BitVec 16) (m at_ : Nat) (s : State), (who.val ≠ 32 ∨ s.cusUp = true) →
    s.writeOk who.val flt2 FLT_HEARTBEAT.off (seq.setWidth 32) true (fun _ => .ok) = true →
    s.flt.heartbeat = some (m, at_) → FLT_HEARTBEAT_seq.get (seq.setWidth 32) = seq.toNat →
    (seq.toNat = (m + 1) % 65536 → s.now ≤ at_ + 4 * s.halfNs →
      exec (.heartbeat who seq) s = .next { s with flt := { s.flt with heartbeat := some (seq.toNat, s.now) } })
    ∧ (seq.toNat ≠ (m + 1) % 65536 → exec (.heartbeat who seq) s = .next (s.fault flt2 2)))

/-- R320 to R322: SAFE_REQ_N asserts after 1 µs low and releases after 10 ms high; while it is asserted its level source is
present. SAFE_FORCE, accepted, stores the force bit. After each, the safe state is decided anew.

The model's own choices in it: log entry 3. -/
def Obligations.SafeStateRequests : Prop :=
  ∀ s : State,
    (∀ lowNs, 1000 ≤ lowNs → exec (.safeReqAssert lowNs) s
      = .next ((({ s with flt := { s.flt with safeReq := true } } : State).safeChanged).setLevel flt2 3 true))
    ∧ (∀ lowNs, lowNs < 1000 → exec (.safeReqAssert lowNs) s = .next s)
    ∧ (∀ highNs, 10000000 ≤ highNs → exec (.safeReqRelease highNs) s
      = .next ((({ s with flt := { s.flt with safeReq := false } } : State).setLevel flt2 3 false).safeChanged))
    ∧ (∀ highNs, highNs < 10000000 → exec (.safeReqRelease highNs) s = .next s)
    ∧ (∀ (who : Actor) (on : Bool),
      let v := s.fieldWrite flt2 FLT_SAFE_CTRL_force 0 (b2n on)
      s.writeOk who.val flt2 FLT_SAFE_CTRL.off v false (fun _ => .ok) = true →
      exec (.safeForce who on) s = .next
        (((s.log who.val (s.writeRec who.val flt2 FLT_SAFE_CTRL.off v)).store flt2 FLT_SAFE_CTRL.off v).safeChanged))

/-! The clockless fabric. -/

/-- R45 to R47, R49: a wake request of a sleeping unit that has steps to take joins the queue with its class, deadline, arrival and
steps; a unit with none is ON at once, and the voltage follows. A deadline request withdraws a step of a lower class that is in
progress, with its current, and moves its unit into its class where the unit waits in a lower one. The request served next, where R46
admits it, becomes the step in progress and its unit is WAKING. A step that has lasted its time and was the last completes its unit's
wake; another leaves the remaining ones queued; a step of the vault switches its bank group on.

R47: the request served next is one of the queue's, and no request of the queue comes before it in the order of class,
deadline, arrival, unit and instance.

R49: an accepted CLR_WORST is logged and clears the worst wake; no other register changes after the entry.

The model's own choices in it: log entries 3, 15 and 16. -/
def Obligations.WakeSequencer : Prop :=
  (∀ s : State,
    (∀ (p : Page) (cls : Fin 3) (deadline : Nat), s.wakes p.val = false → (s.power p.val = 0 ∨ s.power p.val = 1) →
      let q : List Wake := s.seq.queue ++ [⟨p.val, cls.val, deadline, s.now, s.wakeSteps p.val⟩]
      (s.wakeSteps p.val ≠ [] → (cls.val ≠ 0 ∨ s.seq.step = none ∨ ∃ w u, s.seq.step = some (w, u) ∧ w.cls = 0) →
        exec (.wakeRequest p cls deadline) s = .next ({ s with seq := { s.seq with queue := q } } : State).syncSeq)
      ∧ (∀ w until_, s.wakeSteps p.val ≠ [] → s.seq.step = some (w, until_) → cls.val = 0 → w.cls ≠ 0 →
        exec (.wakeRequest p cls deadline) s = .next
          ({ s with seq := { s.seq with queue := q ++ [w], step := none, issued := s.seq.issued.dropLast } } : State).syncSeq)
      ∧ (s.wakeSteps p.val = [] → exec (.wakeRequest p cls deadline) s
        = .next ((s.setPower p.val 3).avsFollow (s.setPower p.val 3).pressOn)))
    ∧ (∀ (p : Page) (cls : Fin 3) (deadline : Nat), s.wakes p.val = true →
      let q := s.seq.queue.map (Wake.promote [p.val] deadline)
      (cls.val ≠ 0 → exec (.wakeRequest p cls deadline) s = .next s)
      ∧ (cls.val = 0 → s.seq.step = none → exec (.wakeRequest p cls deadline) s
        = .next ({ s with seq := { s.seq with queue := q } } : State).syncSeq)
      ∧ (∀ w until_, cls.val = 0 → s.seq.step = some (w, until_) → w.page ≠ p.val → w.cls ≠ 0 →
        exec (.wakeRequest p cls deadline) s = .next
          ({ s with seq := { s.seq with queue := q ++ [w], step := none, issued := s.seq.issued.dropLast } } : State).syncSeq))
    ∧ (∀ w : Wake, nextWake s.seq.queue = some w →
      (s.mayIssue w = true → exec .seqStepIssue s = .next (s.stepIssue w)
        ∧ (s.stepIssue w).seq.step = some (w, s.now + s.stepNs w.page)
        ∧ (∀ v ∈ (s.stepIssue w).seq.queue, v.page ≠ w.page)
        ∧ (s.canonical = true → w.page < 4096 → (s.stepIssue w).power w.page = 2))
      ∧ (s.mayIssue w = false → exec .seqStepIssue s = .next s))
    ∧ (s.seq.queue = [] → exec .seqStepIssue s = .next s)
    ∧ (∀ (w : Wake) (until_ : Nat), s.seq.step = some (w, until_) → until_ ≤ s.now →
      let t : State := { s with seq := { s.seq with step := none } }
      let ends := fun (t : State) => if w.left.length ≤ 1 then (t.wakeDone w).syncSeq
        else ({ t with seq := { t.seq with queue := t.seq.queue ++ [{ w with left := w.left.drop 1 }] } } : State).syncSeq
      ((kindOf w.page).1 ≠ .vlt → exec .seqStepComplete s = .next (ends t))
      ∧ (∀ g rest, (kindOf w.page).1 = .vlt → w.left = g :: rest → exec .seqStepComplete s
        = .next (ends ((t.wr (vltPage (1 + g)) VLT_BG_STATUS_on 0xFFFF).setPower (vltPage (1 + g)) 3))))
    ∧ (∀ (w : Wake) (until_ : Nat), s.seq.step = some (w, until_) → s.now < until_ → exec .seqStepComplete s = .next s)
    ∧ (s.seq.step = none → exec .seqStepComplete s = .next s))
  ∧ (∀ (q : List Wake) (w : Wake), nextWake q = some w → w ∈ q ∧ ∀ v ∈ q, v.before w = false)
  ∧ (∀ (who : Actor) (s : State),
    s.writeOk who.val (glbPage 2) GLB_SEQ_STATUS.off 0x80000000 false (fun _ => .ok) = true →
    exec (.clrWorst who) s = .next ((s.log who.val [s.recOf who.val 1 0 (regKey (glbPage 2) GLB_SEQ_STATUS.off)
      (s.reg (fkey (glbPage 2) GLB_SEQ_STATUS 0)) (s.produced (glbPage 2) GLB_SEQ_STATUS.off 0x80000000)]).wr (glbPage 2)
        GLB_SEQ_WAKE_WORST 0))

/-- R34 to R39: from boot step 3 on, each AVS_RECOMPUTE counts a millisecond in which a canary was in breach, takes a current
estimate, and follows the voltage that the presses which are ON want. AVS_FALL_STEP lowers the request, by at most two codes and once
in 1 ms, to the lowest value that has held for fall_ms, never below 0.55 V while a press is WAKING or ON. A valid read-back is stored and
starts or ends the timing of each rail's shortfall, and ends the shortfall once both rails are back; a missing one raises
AVSBUS_ERROR; a shortfall that has lasted 1 ms is set, logged as a hardware change, and its level source raised.

R40, R41: a canary margin below the guard, by either command, notes a breach and puts the branch on its long setting, logged as a
hardware change where it changes; a branch with both margins at the guard or above returns to the normal setting once they have stood
there for recover_ms: a reading counts as the margin until the next.

The model's own choices in it: log entries 3, 17, 18 and 19. -/
def Obligations.VoltageAndCanaries : Prop :=
  (∀ s : State,
    let cur := s.rd (glbPage 2) GLB_AVS_STATUS_request_code
    let held := fun (e : Nat × Nat) => e.1 + s.rd (glbPage 2) GLB_AVS_CTRL_fall_ms * 1000000 ≤ s.now
    let short := fun (o : Option Nat) => ∃ t, o = some t ∧ t + 1000000 ≤ s.now
    (3 ≤ s.rd (cusPage 0) CUS_BOOT_STATUS_stage → exec .avsRecompute s = .next
      (let n := s.avs.breachMs + (if s.avs.breached = true ∨ s.anyBreach = true then 1 else 0)
      let t : State := { s with avs := { s.avs with breachMs := n, breached := false } }
      let u := t.next.wr (glbPage 3) GLB_IEST_current (Config.currentEstimate t.fresh).toNat
      u.avsFollow u.pressOn))
    ∧ (s.rd (cusPage 0) CUS_BOOT_STATUS_stage < 3 → exec .avsRecompute s = .next s)
    ∧ (∀ e ∈ s.avs.lower, held e → (∀ e' ∈ s.avs.lower, held e' → e.2 ≤ e'.2) →
      let v := max s.avsFloor e.2
      (s.avs.fellAt + 1000000 ≤ s.now → v < cur → exec .avsFallStep s = .next
        (let u := s.avsSend (max v (cur - 2))
        { u with avs := { u.avs with fellAt := s.now } }))
      ∧ (s.now < s.avs.fellAt + 1000000 ∨ cur ≤ v → exec .avsFallStep s = .next s))
    ∧ ((∀ e ∈ s.avs.lower, ¬ held e) → exec .avsFallStep s = .next s)
    ∧ (∀ vcore vsram, exec (.avsReadback false vcore vsram) s = .next (s.fault (glbPage 2) 1))
    ∧ (∀ vcore vsram : Byte,
      let t := s.wr (glbPage 2) GLB_AVS_STATUS_readback_code vcore.toNat
      let lowC := vcore.toNat + 5 < t.rd (glbPage 2) GLB_AVS_STATUS_request_code
      let lowS := vsram.toNat + 5 < t.rd (glbPage 2) GLB_AVS_STATUS_vsram_code
      let since := fun (low : Prop) [Decidable low] (o : Option Nat) => if low then some (o.getD s.now) else none
      let u : State := { t with avs := { t.avs with shortAt := since lowC s.avs.shortAt, vsramShortAt := since lowS s.avs.vsramShortAt } }
      (¬ lowC → ¬ lowS → u.rd (glbPage 2) GLB_AVS_STATUS_shortfall = 1 → exec (.avsReadback true vcore vsram) s
        = .next ((u.hwField (glbPage 2) GLB_AVS_STATUS_shortfall 0).setLevel (glbPage 2) 0 false))
      ∧ (lowC ∨ lowS ∨ u.rd (glbPage 2) GLB_AVS_STATUS_shortfall ≠ 1 → exec (.avsReadback true vcore vsram) s = .next u))
    ∧ (short s.avs.shortAt ∨ short s.avs.vsramShortAt → s.rd (glbPage 2) GLB_AVS_STATUS_shortfall = 0 →
      exec .avsShortfall s = .next ((s.hwField (glbPage 2) GLB_AVS_STATUS_shortfall 1).setLevel (glbPage 2) 0 true))
    ∧ (¬ short s.avs.shortAt → ¬ short s.avs.vsramShortAt → exec .avsShortfall s = .next s))
  ∧ (∀ (b : Fin 32) (canary : Fin 2) (m0 m1 : BitVec 6) (s : State),
    let x := xchPage (b.val / 8)
    let flag : Fld := ⟨0x088, 4, b.val % 8, b.val % 8⟩
    let read := fun (t : State) => if s.lowBranch b.val then
      ({ t with avs := { t.avs with goodAt := NatTbl.put t.avs.goodAt b.val t.now, breached := true } } : State) else t
    let t := read ((s.setMargin (2 * b.val + canary.val) m0.toNat).syncCanary (b.val / 8))
    let u := read (((s.setMargin (2 * b.val) m0.toNat).setMargin (2 * b.val + 1) m1.toNat).syncCanary (b.val / 8))
    let guard := u.rd x MNT_X_CANARY_CTRL_guard
    let long := fun (t : State) =>
      ({ t with avs := { t.avs with goodAt := NatTbl.put t.avs.goodAt b.val t.now, breached := true } } : State).hwField x flag 1
    let hold := NatTbl.at_ u.avs.goodAt b.val + u.rd x MNT_X_CANARY_CTRL_recover_ms * 1000000
    (m0.toNat < t.rd x MNT_X_CANARY_CTRL_guard → exec (.canaryGuardBreach b canary m0) s = .next (long t))
    ∧ (t.rd x MNT_X_CANARY_CTRL_guard ≤ m0.toNat → exec (.canaryGuardBreach b canary m0) s = .next t)
    ∧ (guard ≤ m0.toNat → guard ≤ m1.toNat → hold ≤ u.now → u.rd x flag ≠ 0 → exec (.canaryRecover b m0 m1) s
        = .next (({ u with avs := { u.avs with breachMs := 0, breached := false } } : State).hwField x flag 0))
    ∧ (guard ≤ m0.toNat → guard ≤ m1.toNat → u.now < hold ∨ u.rd x flag = 0 → exec (.canaryRecover b m0 m1) s = .next u)
    ∧ (m0.toNat < guard ∨ m1.toNat < guard → exec (.canaryRecover b m0 m1) s = .next (long u)))

/-- R31, R43: a handshake that fails its check or times out never completes: the word is discarded, the exchange page's source
is raised, and the requester receives an error completion, which bounces the cheque of a mint of that exchange.

The model's own choices in it: log entries 3 and 104. -/
def Obligations.HandshakeErrors : Prop :=
  ∀ (x : Fin 4) (m : MintId) (s : State),
    let parity := s.fault (xchPage x.val) 1
    let timeout := s.fault (xchPage x.val) 0
    exec (.hsParity x .other) s = .next { parity with resp := ⟨true, []⟩ }
    ∧ exec (.hsTimeout x .other) s = .next { timeout with resp := ⟨true, []⟩ }
    ∧ (m.val / 256 = x.val → (parity.mint m.val).phase ≠ .idle → exec (.hsParity x (.mint m)) s = .next (parity.bounce m.val))
    ∧ (m.val / 256 = x.val → (timeout.mint m.val).phase ≠ .idle → exec (.hsTimeout x (.mint m)) s = .next (timeout.bounce m.val))
    ∧ (m.val / 256 ≠ x.val ∨ (parity.mint m.val).phase = .idle → exec (.hsParity x (.mint m)) s = .next parity)
    ∧ (m.val / 256 ≠ x.val ∨ (timeout.mint m.val).phase = .idle → exec (.hsTimeout x (.mint m)) s = .next timeout)

/-! The outputs. -/

/-- R169, R170, R173, R174, R185: the writes that enable, disable, pair, set VRR and set the highest rate of an output, once accepted,
are logged and take their effect on the generator.

The model's own choices in it: log entry 10. -/
def Obligations.OutputWrites : Prop :=
  ∀ (who : Actor) (o : Out) (on : Bool) (rate : Byte) (s : State),
    let word := fun f x => s.fieldWrite (timPage o.val) f 0 x
    let ok := fun (f : Fld) (v : Word) => s.writeOk who.val (timPage o.val) f.off v false (s.timRule who.val o.val f.off) = true
    let done := fun (f : Fld) (v : Word) => (s.log who.val (s.writeRec who.val (timPage o.val) f.off v)).timEffect o.val f.off v
    (ok OUT_TIM_CTRL_run (word OUT_TIM_CTRL_run 1) →
      exec (.outputEnable who o) s = .next (done OUT_TIM_CTRL_run (word OUT_TIM_CTRL_run 1)))
    ∧ (ok OUT_TIM_CTRL_run (word OUT_TIM_CTRL_run 0) →
      exec (.outputDisable who o) s = .next (done OUT_TIM_CTRL_run (word OUT_TIM_CTRL_run 0)))
    ∧ (ok OUT_TIM_CTRL_pair_lock (word OUT_TIM_CTRL_pair_lock (b2n on)) →
      exec (.pairLock who o on) s = .next (done OUT_TIM_CTRL_pair_lock (word OUT_TIM_CTRL_pair_lock (b2n on))))
    ∧ (ok OUT_TIM_CTRL_vrr_en (word OUT_TIM_CTRL_vrr_en 1) →
      exec (.vrrEnable who o) s = .next (done OUT_TIM_CTRL_vrr_en (word OUT_TIM_CTRL_vrr_en 1)))
    ∧ (ok OUT_TIM_RMAX_rate (word OUT_TIM_RMAX_rate rate.toNat) →
      exec (.rmaxWrite who o rate) s = .next (done OUT_TIM_RMAX_rate (word OUT_TIM_RMAX_rate rate.toNat)))

/-- R173, R174: GENERATOR_START starts the generator of an enabled output whose presses are all ON, and which is not running yet, at
line vactive with the timing that its registers give; a boundary line that lies before that line is passed by. Else it does nothing.
OUTPUT_STOP stops an enabled output whose disable has been requested, and does nothing otherwise. The even output of a locked pair is
the pair's generator.

The model's own choices in it: log entries 3 and 42. -/
def Obligations.GeneratorStartAndStop : Prop :=
  ∀ (o : Out) (s : State),
    let g := s.gen o.val
    ((s.out g).enabled = true → s.rd (timPage g) OUT_TIM_STATUS_running ≠ 1 → ((s.assigned g).all s.pressOn) = true →
      let t := s.timing g
      exec (.generatorStart o) s
        = .next ((s.setOut g { s.out g with passed := decide (t.vtotal < t.vact + t.lead) }).newLine g t.vact t))
    ∧ ((s.out g).enabled = false ∨ s.rd (timPage g) OUT_TIM_STATUS_running = 1 ∨ ((s.assigned g).all s.pressOn) = false →
      exec (.generatorStart o) s = .next s)
    ∧ ((s.out g).enabled = true → (s.out g).stopReq = true → exec (.outputStop o) s = .next (s.stopOutput g))
    ∧ ((s.out g).enabled = false ∨ (s.out g).stopReq = false → exec (.outputStop o) s = .next s)

/-- R171, R174, R185, R187: LINE_START of a running generator first takes a requested stop; else the safe state is entered where it
is due and the timing is latched, and at line vactive the line repeats while VRR or a stretched frame holds it, with the start of
blanking of each output's link; otherwise the next line starts, or line 0 after the last. A generator that does not run has no line
start.

R171: FRAME_BOUNDARY carries out the frame boundary that is due on a running generator; where none is due, or the generator does
not run, it does nothing.

The model's own choices in it: log entries 3, 42 and 43. -/
def Obligations.LineStartsAndBoundaries : Prop :=
  (∀ (o : Out) (s : State),
    let g := s.gen o.val
    let u := (s.safeEntry g).latchTiming g
    let v := u.1.out g
    (s.rd (timPage g) OUT_TIM_STATUS_running = 0 → exec (.lineStart o) s = .next s) ∧
    (s.rd (timPage g) OUT_TIM_STATUS_running ≠ 0 →
    ((s.out g).stopReq = true → exec (.lineStart o) s = .next (s.stopOutput g))
    ∧ ((s.out g).stopReq = false → v.line = u.2.vact → (u.1.vrrHolds g u.2 = true ∨ u.1.stretchHolds g u.2 = true) →
      let w := (u.1.setOut g { v with tim := u.2, repeats := v.repeats + 1, lineAt := u.1.now }).timStatus g v.line true true
      exec (.lineStart o) s = .next ((w.withPair g).foldl State.linkVblank w))
    ∧ ((s.out g).stopReq = false → (v.line ≠ u.2.vact ∨ (u.1.vrrHolds g u.2 = false ∧ u.1.stretchHolds g u.2 = false)) →
      exec (.lineStart o) s = .next (u.1.newLine g (if v.total u.2 ≤ v.line + 1 then 0 else v.line + 1) u.2))))
  ∧ (∀ (o : Out) (s : State),
    let g := s.gen o.val
    ((s.out g).boundaryDue = true → s.rd (timPage g) OUT_TIM_STATUS_running = 1 →
      exec (.frameBoundary o) s = .next (s.boundary g))
    ∧ ((s.out g).boundaryDue = false ∨ s.rd (timPage g) OUT_TIM_STATUS_running ≠ 1 → exec (.frameBoundary o) s = .next s))

/-- R21, R22, R70, R172: a band starts on a running generator that has reached a boundary and is not replaying a retained frame, no
earlier than one band period after the one before, while bands of the frame's active area are left: the legacy layers' writes are
taken, the cells of the band start from left to right, the band is counted and its time noted. Otherwise nothing starts.

R183: the next cell of a racing output's frame, in raster order, begins its reads once its first pixel is due at the pins within
the racing lead: its number advances, and the streams of its cheque that read the vault or a capture are aimed at where the picture
now is, with their alternates counted; streams from DRAM are as they were. Nothing is read ahead of the bands that have begun, nor on
an output that does not race.

R84, R85, R101, R105, R107: an engine of a branch serves the cheque and the stream that the order of service names, a block at a
time, into a slot of the press's line store, once the store has room for it. A block that the frame's fetches have brought already
comes from there; another is read, and one that arrives is counted for the engine, the layer and the output, kept for the frame's
other cells, and delivered; one that fails is delivered as failed. A DRAM block whose owner may not be served yet is held, as a
request of the output's port. Where the store has no room the cheque's waits end if the slots that opened were all that it waited
for. A branch with nothing to fetch does nothing.

R177, R181: the cell of a mint that has settled is published: a late one is discarded and counted, one in the safe state
is discarded, one for which the output's FIFO has no room waits, and any other takes the colour stages and enters the FIFO;
its mint is then free. A mint that has not settled publishes nothing.

The model's own choices in it: log entries 3, 25, 27, 38, 39, 41, 108, 110, 113 and 114. -/
def Obligations.CellComposition : Prop :=
  (∀ (o : Out) (s : State),
    let g := s.gen o.val
    let v := s.out g
    let race := s.races g
    let running := s.rd (timPage g) OUT_TIM_STATUS_running ≠ 0
    let replays := s.rd (timPage g) OUT_STATIC_STATUS_retained = 1
    let left := v.bands < cellRows race v.grid.2
    let inTime := v.bands = 0 ∨ v.bandAt + s.bandNs g ≤ s.now
    (running → v.bounds ≠ [] → left → inTime → ¬ replays →
      let a := s.applyLegs g false
      let u := (List.range (cellCols race v.grid.1)).foldl (fun (u : State) c => u.startCell g race (a.placedNow g) (a.assigned g) c v.bands) a
      exec (.bandStart o) s = .next ((u.setOut g { u.out g with bands := v.bands + 1, bandAt := u.now }).flushBacks g))
    ∧ (¬ running ∨ v.bounds = [] ∨ ¬ left ∨ ¬ inTime ∨ replays → exec (.bandStart o) s = .next s))
  ∧ (∀ (o : Out) (s : State),
    let g := s.gen o.val
    let v := s.out g
    let cols := max 1 (cellCols true v.grid.1)
    let row := v.raceCell / cols
    let col := v.raceCell % cols * 256
    let due := v.nsTo s.now (s.rd (timPage g) OUT_TIM_FRAME_count, row, col) ≤ v.tim.racingLead * 10
    let u := s.setOut g { v with raceCell := v.raceCell + 1 }
    let ids := u.chequesOf fun c => c.acct.isNone && c.out == g && c.frame == u.rd (timPage g) OUT_TIM_FRAME_count && c.y == row && c.x == col
    (s.races g = false ∨ v.bands ≤ row ∨ ¬ due → exec (.racingCellRead o) s = .next s)
    ∧ (s.races g = true → row < v.bands → due → ids = [] → exec (.racingCellRead o) s = .next u)
    ∧ (∀ id rest c, s.races g = true → row < v.bands → due → ids = id :: rest → u.cheque id = some c →
      let nu := c.streams.map fun st =>
        if st.src.kind = 0 then st else u.aim g st ⟨c.x, c.x + c.w, c.y, c.y + c.h⟩ (st.part c)
      exec (.racingCellRead o) s = .next (nu.foldl (fun (w : State) st => if st.src.kind = 0 then w else w.countAlt g st)
        (u.setCheque id (some { c with streams := nu })))))
  ∧ (∀ (b : Fin 32) (e : Fin 2) (s : State),
    let d := s.dropHeld (.fetch b.val e.val)
    let run := exec (.fetchBlock b e) s
    (d.nextFetch b.val = none → run = .next d)
    ∧ (∀ id c st, d.nextFetch b.val = some (id, c, st) →
      (d.fetchWaits c st = true → run = .next (d.holdUnit st.src.acct (some c.out) (.fetch b.val e.val)))
      ∧ (∀ c' x, d.fetchWaits c st = false → (d.openSlots id st.layer 4).cheque id = some c' →
        c'.streams.find? (·.layer == st.layer) = some x →
        let t := d.openSlots id st.layer 4
        let k := (x.want.headD (0, 0)).2
        let space := if x.src.kind = 0 then 0 else 1
        let r := t.readMem x.src.acct 2 space ((if x.src.kind = 0 then k else k - 2 ^ 40) * 64) 64
        let counted := ((r.1.count (branchPage b.val) e.val).count (layPage x.layer) 2).count (outPage c'.out 2) 4
        (x.slotReady = false → run = .next ((t.tryEffect id st.layer).endWaits d id c'.press))
        ∧ (∀ bs, x.slotReady = true → t.heldBlock c' x k = some bs → run = .next (t.deliverBlock id c' x k (some bs)))
        ∧ (∀ bs, x.slotReady = true → t.heldBlock c' x k = none → r.2 = .ok bs →
          run = .next ((counted.holdBlock c' x k bs).deliverBlock id c' x k (some bs)))
        ∧ (∀ y, x.slotReady = true → t.heldBlock c' x k = none → r.2 = .error y → run = .next (r.1.deliverBlock id c' x k none)))))
  ∧ (∀ (m : MintId) (s : State),
    let v := s.mint m.val
    (v.phase ≠ .settled → exec (.cellPublish m) s = .next s)
    ∧ (∀ id c, v.phase = .settled → v.cheque = some id → s.cheque id = some c →
      let late := s.isLate c.out c.frame c.racing c.y c.x
      let safe := s.rd (outPage c.out 4) OUT_KPR_STATUS_safe
      let r : Rect := ⟨c.x, c.x + c.w, c.y, c.y + c.h⟩
      let word := fun (x y k : Nat) => (Tbl.get (fun _ => (0 : Word)) v.cell (((y - c.y) * c.w + (x - c.x)) * 4 + k)).toNat % 65536
      let px := r.points.map fun p => (p.1, p.2, (List.range 3).map (word p.1 p.2), s.spanBad c (p.1 - c.x) (p.2 - c.y))
      (late = true → exec (.cellPublish m) s = .next ((s.lateCell c.out r).endCell m.val id))
      ∧ (late = false → safe = 1 → exec (.cellPublish m) s = .next (s.endCell m.val id))
      ∧ (late = false → safe ≠ 1 → s.fits c.out c.frame r = false → exec (.cellPublish m) s = .next s)
      ∧ (late = false → safe ≠ 1 → s.fits c.out c.frame r = true →
        let u := s.colourAll c.out c.frame px
        exec (.cellPublish m) s = .next ((u.1.enterFifo c.out c.frame u.2).endCell m.val id))))

/-- R182: the FIFO's error code on the word of a pixel that is read. With no error the pixel is kept and nothing changes; a
corrected error is counted in the output's tally page and the pixel is kept; an uncorrectable error raises FIFO_ECC, source 0 of
the output's pipe page, and the pixel is absent. Errors come from the fault injection of R325, `useInject`. -/
def Obligations.FifoErrors : Prop :=
  ∀ (m : Nat) (p : FifoPx) (s : State),
    let e := s.useInject (outPage m 1) 0
    (e.2 = none → s.fifoEcc m (some p) = (s, some p))
    ∧ (e.2 = some 0 → s.fifoEcc m (some p) = (e.1.count (outPage m 7) 7, some p))
    ∧ ((∃ k, e.2 = some (k + 1)) → s.fifoEcc m (some p) = (e.1.fault (outPage m 1) 0, none))

/-- R94, R168, R179, R180: within the active area a running generator takes the pixel of its slot from the FIFO, with an underrun
where there is none outside the safe state; what leaves is the keeper stage's pixel over it, which the DSC encoder and the checkers
see; the slot advances; after the frame's last pixel each output of the generator has its event. In blanking, and while no generator
runs, no pixel is due. The latency tolerance is reported as the raster and the FIFO stand, with the port's urgency and panic as they
were.

The model's own choices in it: log entries 3, 42, 54 and 113. -/
def Obligations.KeeperPixels : Prop :=
  ∀ (o : Out) (s : State),
    let g := s.gen o.val
    let v := s.out g
    let x := v.slot
    let h := s.halfOf g x
    let m := h.1
    let col := x - h.2.1
    let safe := s.rd (outPage g 4) OUT_KPR_STATUS_safe
    let a := s.fifoTake g v.line x
    let b := a.1.fifoEcc m a.2
    let u := if b.2.isNone = true ∧ safe ≠ 1 then b.1.underrunPx m else b.1
    let px := u.keep m col v.line (if safe = 1 then none else b.2)
    let sent := (u.setOut m { u.out m with sent := some px }).dscTake m col v.line px
    let fed := sent.chkFeed m (some col) v.line (be16 px.r ++ be16 px.g ++ be16 px.b)
    let coded := if col + 1 = h.2.2 then fed.dscLine m h.2.2 v.line else fed
    let moved := coded.setOut g { coded.out g with slot := x + 1 }
    let ended := if v.line + 1 = v.tim.vact ∧ x + 1 = v.tim.hact then moved.raiseAll ((moved.withPair g).map fun n => (timPage n, 3)) else moved
    (s.rd (timPage g) OUT_TIM_STATUS_running = 0 ∨ v.tim.vact ≤ v.line ∨ v.tim.hact ≤ x → exec (.keeperPixel o) s = .next s)
    ∧ (s.rd (timPage g) OUT_TIM_STATUS_running ≠ 0 → v.line < v.tim.vact → x < v.tim.hact →
      exec (.keeperPixel o) s = .next ((ended.flushBacks g).updateFill g))
    ∧ (let w := s.updateFill g
      exec (.latencyToleranceEval o) s = .next (w.report g (s.tolerance g) (w.rd (outPage g 1) OUT_LT_STATUS_urgent == 1)
        (w.rd (outPage g 1) OUT_LT_STATUS_panic == 1)))

/-- R191 to R194: an edge of a reference source is judged at the generator, but the clearing link's on the master device, which
has none, and an edge of the crystal, which is not a source of edges. An edge at the expected period counts for the source; another
starts its count anew, and loses a source that was qualified. The selected target's edge stores the phase error, and is locked after
eight in a row within 1 µs. A source without an edge for one and a half expected periods is no longer qualified, and one that was
is lost.

The model's own choices in it: log entries 3 and 44. -/
def Obligations.References : Prop :=
  ∀ (o : Out) (src : Fin 5) (s : State),
    let g := s.gen o.val
    let r := s.refSrc g src.val
    let p := timPage g
    let present := src.val ≠ 0 ∧ (src.val ≠ 2 ∨ s.rd gngPage GNG_CTRL_master ≠ 1)
    let judged := fun (t : State) =>
      if t.rd p OUT_REF_STATUS_target ≠ src.val ∨ t.rd p OUT_REF_STATUS_selected ≠ src.val ∨ t.running g = false then t
      else
        let e := t.phaseError g s.now
        let run := if e.natAbs ≤ 1000 then (t.out g).lockRun + 1 else 0
        ((t.wr p OUT_REF_ERROR_error (unsigned 24 (e / 10))).setOut g { t.out g with phase := e, lockRun := run }).setRef g src.val
          (if 8 ≤ run then 2 else 1)
    (¬ present → exec (.refEdge o src) s = .next s)
    ∧ (present → r.last = none → exec (.refEdge o src) s = .next (judged (s.setRefSrc g src.val ⟨some s.now, 0⟩)))
    ∧ (∀ at_, present → r.last = some at_ → at_ < s.now →
      let d := s.now - at_
      let near := (max d (s.refPeriod g) - min d (s.refPeriod g)) * 1000 ≤ s.refPeriod g
      (near → exec (.refEdge o src) s = .next (judged (s.setRefSrc g src.val ⟨some s.now, r.good + 1⟩)))
      ∧ (¬ near → r.good < 8 → exec (.refEdge o src) s = .next (judged (s.setRefSrc g src.val ⟨some s.now, 0⟩)))
      ∧ (¬ near → 8 ≤ r.good →
        exec (.refEdge o src) s = .next (judged ((s.setRefSrc g src.val ⟨some s.now, 0⟩).loseRef g src.val))))
    ∧ (∀ at_, src.val ≠ 0 → r.last = some at_ → 2 * at_ + 3 * s.refPeriod g < 2 * s.now →
      exec (.refTimeout o src) s = .next (if 8 ≤ r.good then (s.setRefSrc g src.val ⟨none, 0⟩).loseRef g src.val
        else s.setRefSrc g src.val ⟨none, 0⟩))
    ∧ (∀ at_, r.last = some at_ → 2 * s.now ≤ 2 * at_ + 3 * s.refPeriod g → exec (.refTimeout o src) s = .next s)
    ∧ (r.last = none → exec (.refTimeout o src) s = .next s)

/-! Commits, tables and the presses. -/

/-- R150, R155, R158, R161, R163: COMMIT and SYNDICATE_COMMIT, accepted, reserve the room of one ledger entry; while no commit of
the account is in progress the commit is taken, else it is held and counted, and HELD_COMMIT_TAKE takes it once the account
is free. When a commit's rebuilds have finished it is decided: refused with the first check that fails, its generation kept and its
entry logged, or passed, with the routines that the scene it would make names: admitted, or, of a syndicate, held for its
partners. The rebuild of its outputs ends.

R159, R164: a member of an admitted commit that has not applied by the group deadline is flagged late, in the commit's wait
and in the status register, counted and reported, and no earlier; its values come into the account's last applied scene. A syndicate
commit that passed here is admitted once every participant's admitted token is in; one that has not been admitted by the limit is
refused with reason 10, and one not yet decided here ends its rebuilds; until then it waits.

The model's own choices in it: log entries 3, 47, 109 and 110. -/
def Obligations.Commits : Prop :=
  (∀ (who : Actor) (a : Acct) (s : State),
    let p := comPage a.val
    let w := fun (syn : Bool) => (if syn then 3 else 1 : Word)
    let cmd := fun (syn : Bool) => if syn then Instr.syndicateCommit who a else Instr.commit who a
    let kept := let u := s.log who.val []
      State.settle (u.spaceLow
        ({ u with led := { u.led with reserved := NatTbl.put u.led.reserved a.val (NatTbl.at_ u.led.reserved a.val + 1) } } : State).syncLedger)
    (∀ syn, s.writeOk who.val p ACC_COMMIT.off (w syn) false (s.commitRule a.val) = true →
      (kept.rd p ACC_COMMIT_STATUS_busy ≠ 1 → exec (cmd syn) s = .next (kept.take a.val syn))
      ∧ (kept.rd p ACC_COMMIT_STATUS_busy = 1 → exec (cmd syn) s = .next
        { (kept.wr p ACC_COMMIT_STATUS_held 1).count p 4 with heldSyn := Tbl.set (fun _ => false) kept.heldSyn a.val syn }))
    ∧ (s.rd p ACC_COMMIT_STATUS_held ≠ 0 → s.rd p ACC_COMMIT_STATUS_busy ≠ 1 →
      let t : State := { s with heldSyn := Tbl.set (fun _ => false) s.heldSyn a.val false }
      exec (.heldCommitTake a) s
        = .next ((t.wr p ACC_COMMIT_STATUS_held 0).take a.val (Tbl.get (fun _ => false) s.heldSyn a.val)))
    ∧ ((s.rd p ACC_COMMIT_STATUS_held = 0 ∨ s.rd p ACC_COMMIT_STATUS_busy = 1) → exec (.heldCommitTake a) s = .next s)
    ∧ (∀ c, s.commit a.val = some c → c.admitted = false → s.rebuilt a.val c = true →
      let ends := fun (t : State) => exec (.rebuildDone a) s = .next (t.endRebuild c.members c.takenAt)
      (∀ reason page, s.firstFail a.val c = some (reason, page) → c.syn = none → ends (s.refuseCommit a.val c reason page))
      ∧ (∀ reason page y, s.firstFail a.val c = some (reason, page) → c.syn = some y →
        ends (((s.sendToken y 2).noteActed a.val y false).refuseCommit a.val c reason page))
      ∧ (s.firstFail a.val c = none → c.syn = none → ends (s.admitCommit a.val (s.withRoutines a.val c) (c.takenAt + 2000)))
      ∧ (∀ y, s.firstFail a.val c = none → c.syn = some y → s.synOver (s.withRoutines a.val c) y = false →
        ends ((s.sendToken y 1).setCommit a.val (some { s.withRoutines a.val c with admitted := true })))
      ∧ (∀ y, s.firstFail a.val c = none → c.syn = some y → s.synOver (s.withRoutines a.val c) y = true →
        ends (((s.sendToken y 2).noteActed a.val y false).refuseCommit a.val { s.withRoutines a.val c with admitted := true } 10 0)))
    ∧ (∀ (c : Commit) (reason page : Nat), ∃ u, s.refuseCommit a.val c reason page
        = ((u.markPending c.pages 0).count p 1).outcome a.val 1
      ∧ u = (((((((s.commitEntry a.val 6 reason (s.rd p ACC_COMMIT_GEN) (s.rd p ACC_COMMIT_GEN)).setCommit a.val none).wr p
        ACC_COMMIT_STATUS_busy 0).wr p ACC_COMMIT_STATUS_rebuilding 0).wr p ACC_COMMIT_STATUS_result 2).wr p
        ACC_COMMIT_STATUS_reason reason).wr p ACC_COMMIT_STATUS_pending 0).wr p ACC_COMMIT_REFUSED_AT_page page)
    ∧ (∀ c, s.commit a.val = some c → (c.admitted = true ∨ s.rebuilt a.val c = false) → exec (.rebuildDone a) s = .next s)
    ∧ (s.commit a.val = none → exec (.rebuildDone a) s = .next s))
  ∧ (∀ (a : Acct) (o : Out) (c : Commit) (s : State), s.commit a.val = some c →
    let p := comPage a.val
    let mine := fun (w : Waiting) => w.acct == a.val && w.out == o.val && w.gen == c.gen && !w.late
    (∀ d, c.deadline = some d → c.admitted = true → s.waits.any mine = true → d ≤ s.now →
      let v := (s.waits.filter mine).foldl (fun (v : State) w => v.applyVals [8] w.vals) s
      let t : State := { v with waits := v.waits.map fun w => if mine w then { w with late := true } else w }
      let u := (t.wr p ⟨0x084, 4, 16 + o.val, 16 + o.val⟩ 0).hwField p ⟨0x084, 4, 24 + o.val, 24 + o.val⟩ 1
      exec (.memberLate a o) s = .next (((u.count p 3).raise p 3).maybeFinish a.val c.gen))
    ∧ ((c.deadline = none ∨ (∃ d, c.deadline = some d ∧ s.now < d) ∨ c.admitted = false ∨ s.waits.any mine = false) →
      exec (.memberLate a o) s = .next s)
    ∧ (∀ y, c.syn = some y → c.final = false →
      (c.admitted = true → s.partnersIn y = true →
        exec (.syndicateDecide a) s = .next ((s.noteActed a.val y true).admitCommit a.val c s.now))
      ∧ (c.admitted = true → s.partnersIn y = false → s.synOver c y = true →
        exec (.syndicateDecide a) s = .next ((s.noteActed a.val y false).refuseCommit a.val c 10 0))
      ∧ (c.admitted = false → s.synOver c y = true → exec (.syndicateDecide a) s = .next
        ((((s.sendToken y 2).noteActed a.val y false).refuseCommit a.val c 10 0).endRebuild c.members c.takenAt))
      ∧ ((c.admitted = false ∨ s.partnersIn y = false) → s.synOver c y = false → exec (.syndicateDecide a) s = .next s))
    ∧ ((c.syn = none ∨ c.final = true) → exec (.syndicateDecide a) s = .next s))

/-- R119, R122, R165: TABLE_READY_SET, accepted, is logged and stored, and each table newly ready is armed with the time; LUT_LOAD,
accepted, is logged, marks the load busy and remembers its table and source; LUT_LOAD_DONE goes on reading the source, and, with
every line read, puts the values into the background bank of the table, logs the CRC of the source and shows the load done; one with
a line that failed raises the pipeline's source instead, and one with a line that has to wait keeps what has come.

The model's own choices in it: log entries 3 and 40. -/
def Obligations.ColourTables : Prop :=
  ∀ (who : Actor) (o : Out) (s : State),
    let n := o.val
    let p := colPage n
    (∀ (q : Page) (bits : Byte) (v : Word), q.val = p →
      s.judge who.val p OUT_COL_BANK.off (BitVec.ofNat 32 (bits.toNat % 8)) 1 false (fun _ => .ok) = (.carried, v) →
      let t := s.log who.val (s.writeRec who.val p OUT_COL_BANK.off v)
      let was := fun i => b2n ((t.rd p OUT_COL_BANK_ready).testBit i)
      exec (.tableReadySet who q bits) s = .next ((List.range 3).foldl (fun (t : State) i =>
        t.armTable (colTable n i) (was i) (b2n ((t.rd p OUT_COL_BANK_ready).testBit i))) (t.store p OUT_COL_BANK.off v)))
    ∧ (∀ (table : Fin 3) (vault : Bool),
      let v : Word := BitVec.ofNat 32 (table.val + 16 * b2n vault + 2 ^ 31)
      s.writeOk who.val p OUT_COL_LOAD.off v false (s.loadRule n) = true →
      let t := ((s.log who.val (s.writeRec who.val p OUT_COL_LOAD.off v)).store p OUT_COL_LOAD.off v).wr p OUT_COL_LOAD_go 0
      exec (.lutLoad who o table vault) s = .next (((t.wr p OUT_COL_BANK_load_busy 1).wr p OUT_COL_BANK_load_done 0).setLoad n
        (some ⟨table.val, b2n vault, t.lutAddr n, []⟩)))
    ∧ (∀ l, s.load n = some l →
      let len := lutBytes l.table
      let r := s.readLong ((s.ownerAcct p).getD 32) 4 l.space l.addr len (linesAfter l.addr len l.got.length)
      let bs := l.got ++ r.2.1
      let t := (lutValues l.table bs).zipIdx.foldl (fun (t : State) e =>
        t.setLut (lutKey n l.table (1 - r.1.colBank n l.table) e.2) (BitVec.ofNat 32 e.1)) r.1
      let u := ((t.setLoad n none).wr p OUT_COL_BANK_load_busy 0).setWritten (colTable n l.table) true
      (r.2.2 = .done → exec (.lutLoadDone o) s = .next
        ((u.wr p OUT_COL_BANK_load_done 1).hwEntry 0x0E (fkey p OUT_COL_LOAD 0) 0 (BitVec.ofNat 32 (crc32c bs))))
      ∧ (r.2.2 = .failed → exec (.lutLoadDone o) s = .next (u.fault p 1))
      ∧ (r.2.2 = .waits → exec (.lutLoadDone o) s = .next (r.1.setLoad n (some { l with got := bs }))))
    ∧ (s.load n = none → exec (.lutLoadDone o) s = .next s)

/-- R131, R132, R140, R144: of the mints of a press that may pull, a lower one pulls first; the mint then takes the first waiting
cheque of its press: its scalars, predicates, parameter block and program counter are set for it, its vector registers and cells
are zero, and it runs at once where the cheque's routine is the resident one, else loads it first; a mint that may not pull takes
nothing. A load that reads the routine's code and constants makes it resident and running; one that cannot bounces the cheque.

R128, R136, R146, R147: a mint that has run for 100 µs without an instruction retiring, not at a wait, is stuck: it is retired for
good in the registers, its cheque returns to the front of its press's queue the first time and is bounced the second, and its
press's source is raised. A write of MNT_B_RETIRE, accepted, retires and unretires the mints whose bits it changes. A press that is
clearing comes out of it with every register and store of its mints zero; what it counts of them stays.

The model's own choices in it: log entries 3, 37 and 104. -/
def Obligations.ChequesAndMints : Prop :=
  (∀ (m : MintId) (s : State), s.canonical = true →
    let v := s.mint m.val
    let p := pressPage (m.val / 8)
    let u := (List.range (m.val % 8)).foldl (fun (t : State) j => t.pull (8 * (m.val / 8) + j)) s
    let w := u.mint m.val
    ((∀ j < m.val % 8, s.mayPull (8 * (m.val / 8) + j) = false) → u = s)
    ∧ (∀ id rest c, u.mayPull m.val = true → u.press (m.val / 8) = id :: rest → u.cheque id = some c →
      ∃ t, exec (.chequePull m) s = .next t ∧ t.press (m.val / 8) = rest ∧ (t.mint m.val).cheque = some id
        ∧ (t.mint m.val).pc = 0 ∧ (t.mint m.val).vl = 1 ∧ (t.mint m.val).vreg = [] ∧ (t.mint m.val).cell = []
        ∧ (t.mint m.val).sreg = startScalars c ∧ (t.mint m.val).preg = startPreds
        ∧ (t.mint m.val).data = putBytes w.data 0 (u.paramBlock c) ∧ (t.mint m.val).code = w.code
        ∧ (t.mint m.val).phase = (if w.resident = some c.routine.image then .running else .loading)
        ∧ (∀ j, j ≠ m.val → t.mint j = u.mint j) ∧ (∀ j, j ≠ m.val / 8 → t.press j = u.press j) ∧ t.cheques = u.cheques)
    ∧ ((u.mayPull m.val = false ∨ u.press (m.val / 8) = []) → exec (.chequePull m) s = .next u)
    ∧ (∀ id c, v.phase = .loading → v.cheque = some id → s.cheque id = some c →
      let who := c.acct.getD 32
      let at_ := imageAt c.routine.image
      let r := s.readMem who 3 1 at_ 16
      (∀ x, r.2 = .error x → exec (.routineLoad m) s = .next ((r.1.fault p 4).bounce m.val))
      ∧ (∀ h, r.2 = .ok h →
        let n := if c.acct.isSome then c.routine.code else min 1024 (ofLeBytes (h.take 4))
        let k := if c.acct.isSome then c.routine.consts else min 3584 (ofLeBytes ((h.drop 4).take 4))
        let q := r.1.readMem who 3 1 (at_ + 16) (4 * n + k)
        (∀ x, q.2 = .error x → exec (.routineLoad m) s = .next ((q.1.fault p 4).bounce m.val))
        ∧ (∀ bs, q.2 = .ok bs → exec (.routineLoad m) s = .next ((q.1.setMint m.val { q.1.mint m.val with
            code := codeTable bs n, codeLen := n, data := putBytes (q.1.mint m.val).data 0x200 (bs.drop (4 * n)),
            resident := some c.routine.image, phase := .running, lastAt := q.1.now }).count p 5))))
    ∧ (v.phase ≠ .loading → exec (.routineLoad m) s = .next s))
  ∧ (∀ (who : Actor) (m : MintId) (s : State), s.canonical = true →
    let b := branchPage (m.val / 32)
    let effect := fun (v : Word) =>
      let t := s.log who.val (s.writeRec who.val b MNT_B_RETIRE.off v)
      let old := t.rd b MNT_B_RETIRE
      (List.range 32).foldl (fun (t : State) i =>
        if v.toNat.testBit i && !old.testBit i then t.retireMint (32 * (m.val / 32) + i)
        else if !v.toNat.testBit i && old.testBit i then t.unretireMint (32 * (m.val / 32) + i) else t) (t.store b MNT_B_RETIRE.off v)
    let rule := fun (v : Word) => if (List.range 4).any fun i => s.rd (pressPage (4 * (m.val / 32) + i)) MNT_P_ROLE_role == 1 &&
        (v.toNat ||| s.rd b MNT_B_STUCK_stuck) / 2 ^ (8 * i) % 256 == 255 then Rule.range else .ok
    let word := fun x => s.fieldWrite b (mintBit m.val) 0 x
    (s.writeOk who.val b MNT_B_RETIRE.off (word 1) false rule = true → exec (.mintRetire who m) s = .next (effect (word 1)))
    ∧ (s.writeOk who.val b MNT_B_RETIRE.off (word 0) false rule = true → exec (.mintUnretire who m) s = .next (effect (word 0)))
    ∧ (s.isStuck m.val = false → exec (.mintStuck m) s = .next s)
    ∧ (∀ id c, s.isStuck m.val = true → (s.mint m.val).cheque = some id → s.cheque id = some c →
      let p := m.val / 8
      let st := s.rd (pressPage p) MNT_P_MINT_STATE
      let k := m.val % 8
      let t := s.hwChange (fkey (pressPage p) MNT_P_MINT_STATE 0)
        (BitVec.ofNat 32 (setBit (setBit (setBit st (8 + k) true) (16 + k) true) (24 + k) false))
      let t := (t.wr b ⟨0x084, 4, m.val % 32, m.val % 32⟩ 1).wr b ⟨0x088, 4, m.val % 32, m.val % 32⟩ 0
      let t := t.setMint m.val { (t.mint m.val).leave t.now with retiring := false, slowRun := 0 }
      let fin := fun (u : State) => (((u.syncPress p).fault (pressPage p) 1).raise b 1).syncNoMint p
      (c.again = true → exec (.mintStuck m) s = .next (fin (t.bounceCheque id)))
      ∧ (∀ d, c.again = false → t.cheque id = some d → exec (.mintStuck m) s = .next
        (fin (((t.setCheque id (some { d with again := true })).setPress p (id :: t.press p)).count (pressPage p) 2)))
      ∧ ∃ u, exec (.mintStuck m) s = .next u ∧ (u.mint m.val).cheque = none ∧ (u.mint m.val).phase = .idle)
    ∧ (∀ p : Fin 128, s.rd (pressPage p.val) MNT_P_ROLE_clearing ≠ 0 →
      ∃ t, exec (.pressClearDone p) s = .next t ∧ t.rd (pressPage p.val) MNT_P_ROLE_clearing = 0
        ∧ (∀ j, j / 8 = p.val → t.mint j = { MintS.zero with timeSum := (s.mint j).timeSum, timeCount := (s.mint j).timeCount,
                                                             slowRun := (s.mint j).slowRun, retiring := (s.mint j).retiring })
        ∧ (∀ j, j / 8 ≠ p.val → t.mint j = s.mint j)
        ∧ t = { s with regs := t.regs, mints := t.mints })
    ∧ (∀ p : Fin 128, s.rd (pressPage p.val) MNT_P_ROLE_clearing = 0 → exec (.pressClearDone p) s = .next s))

/-! Links, capture and the clearing link. -/

/-- R200, R203 to R205: PORT_ENABLE, PORT_DISABLE and RETRAIN, accepted, are logged and stored, and presence follows; a port that
loses power drops its link with cause 2, one that gains power starts from discovery where a partner is present, and a retrain is
asked for. A partner that arrives is present, its cable not yet measured, and the link starts; one that leaves, by hot plug for longer than 2 ms or by the fall
of the A-PHY link, is no longer present and the link is gone; an interrupt pulse of 250 µs to 2 ms is counted and, by a link
that heeds it, its cause acted on.

R199 to R201, R204: after discovery the partner's capabilities and record are held and the cable is measured; after the
measurement the link is refused with cause 3 where the cable or the partner falls outside the limits, with cause 4 where no
rate carries the stream, waits where a replugged partner differs, and else trains at the lowest rate that does and the lanes that both
ends permit; a training that succeeds brings the link up at that rate and those lanes, and the third that fails in a row ends in
state 6 with cause 7.

The model's own choices in it: log entries 3 and 49. -/
def Obligations.OutputLinks : Prop :=
  (∀ (who : Actor) (o : Out) (s : State),
    let n := o.val
    let p := lnkPage n
    let v := s.port n
    let word := fun f x => s.fieldWrite p f 0 x
    let done := fun (v : Word) =>
      let t := s.log who.val (s.writeRec who.val p OUT_LNK_CTRL.off v)
      let u := (t.store p OUT_LNK_CTRL.off v).wr p OUT_LNK_CTRL_retrain 0
      let w := if t.portOn n && !u.portOn n then
          let x := (u.setPort n { u.port n with retrain := 0, waiting := false, again := false, phy := false }).syncPresent n
          (if x.present n = true then x else x.wr p OUT_LNK_CABLE_valid 0).setLink n 0 2
        else if !t.portOn n && u.portOn n then ((u.syncPresent n).linkStart n 1).syncLinkDown n
        else u.syncPresent n
      if v.getLsbD 31 then w.retrainWritten n else w
    let ok := fun (v : Word) => s.writeOk who.val p OUT_LNK_CTRL.off v false (s.lnkRule who.val n) = true
    (ok (word OUT_LNK_CTRL_port_en 1) → exec (.portEnable who o) s = .next (done (word OUT_LNK_CTRL_port_en 1)))
    ∧ (ok (word OUT_LNK_CTRL_port_en 0) → exec (.portDisable who o) s = .next (done (word OUT_LNK_CTRL_port_en 0)))
    ∧ (ok (word OUT_LNK_CTRL_retrain 1) → exec (.retrain who o) s = .next (done (word OUT_LNK_CTRL_retrain 1)))
    ∧ (s.present n = false → (s.aphy n = false ∨ s.portOn n = true) → exec (.partnerArrive o) s
        = .next ((((s.setPort n { v with replug := v.caps.isSome, again := false, hpd := v.hpd || !s.aphy n,
                                         phy := v.phy || s.aphy n }).syncPresent n).wr p OUT_LNK_CABLE_valid 0).linkStart n 1))
    ∧ (s.present n = true ∨ (s.aphy n = true ∧ s.portOn n = false) → exec (.partnerArrive o) s = .next s)
    ∧ (∀ lowNs, 2000000 < lowNs → v.hpd = true →
      let t := s.setPort n { v with hpd := false }
      (s.aphy n = false → exec (.hpdUnplug o lowNs) s = .next (t.linkGone n))
      ∧ (s.aphy n = true → exec (.hpdUnplug o lowNs) s = .next t))
    ∧ (∀ lowNs, lowNs ≤ 2000000 ∨ v.hpd = false → exec (.hpdUnplug o lowNs) s = .next s)
    ∧ (s.aphy n = true → s.present n = true → exec (.aPhyLinkDown o) s = .next ((s.setPort n { v with phy := false }).linkGone n))
    ∧ (s.aphy n = false ∨ s.present n = false → exec (.aPhyLinkDown o) s = .next s)
    ∧ (∀ lowNs lost changed, s.aphy n = false → s.present n = true → 250000 ≤ lowNs → lowNs ≤ 2000000 →
      let t := s.count p 1
      (t.heedsIrq n = true → exec (.hpdIrq o lowNs lost changed) s
        = .next (if changed then t.askRetrain n 2 else if lost then t.askRetrain n 1 else t))
      ∧ (t.heedsIrq n = false → exec (.hpdIrq o lowNs lost changed) s = .next t))
    ∧ (∀ lowNs lost changed, s.aphy n = true ∨ s.present n = false ∨ lowNs < 250000 ∨ 2000000 < lowNs →
      exec (.hpdIrq o lowNs lost changed) s = .next s))
  ∧ (∀ (o : Out) (s : State),
    let n := o.val
    let p := lnkPage n
    let v := s.port n
    (∀ caps record, s.linkState n = 1 → record.length = 1024 →
      let differs := v.changed || (match v.caps with | some c => v.replug && bearing c != bearing caps | none => false)
      let range := caps.vrr.getD (0, 0)
      let t := (s.setDisc n record).setPort n { v with caps := some caps, replug := false, changed := differs }
      let t := (t.wr p OUT_LNK_STATUS_adaptive_sync (b2n caps.vrr.isSome)).wr p OUT_LNK_STATUS_dsc_sink (b2n caps.dsc)
      let t := (t.wr p OUT_LNK_SINK_VRR_min_hz (min 255 range.1)).wr p OUT_LNK_SINK_VRR_max_hz (min 255 range.2)
      exec (.discoveryDone o caps record) s = .next (t.setLink n 2 0))
    ∧ (∀ caps record, s.linkState n ≠ 1 → record.length = 1024 → exec (.discoveryDone o caps record) s = .next s)
    ∧ (∀ c length, s.linkState n = 2 → v.waiting = false → v.caps = some c →
      let far := match length with | some l => decide (400 < l) | none => true
      let len := match length with | some l => max 6 l | none => 0
      let t := (s.wr p OUT_LNK_CABLE_length (if far then 0x1FF else len)).wr p OUT_LNK_CABLE_valid 1
      let cable := far || decide (t.rd p OUT_LINK_LIMITS_cable_max < len)
      let partner := decide (rateMbps c.maxRate < rateMbps (t.rd p OUT_LINK_LIMITS_min_rate))
        || (!t.aphy n && decide (c.lanes < t.rd p OUT_LINK_LIMITS_min_lanes))
      (cable = true → partner = false → exec (.cableMeasureDone o length) s = .next ((t.setLink n 5 3).fault p 1))
      ∧ (cable = false → partner = true → exec (.cableMeasureDone o length) s = .next ((t.setLink n 5 3).fault p 2))
      ∧ (cable = true → partner = true → exec (.cableMeasureDone o length) s = .next (((t.setLink n 5 3).fault p 1).fault p 2))
      ∧ (cable = false → partner = false → v.changed = true → exec (.cableMeasureDone o length) s
        = .next ((t.setPort n { v with waiting := true }).setLink n 2 6))
      ∧ (cable = false → partner = false → v.changed = false → t.linkRate n c = none →
        exec (.cableMeasureDone o length) s = .next ((t.setLink n 5 4).fault p 2))
      ∧ (∀ r, cable = false → partner = false → v.changed = false → t.linkRate n c = some r →
        exec (.cableMeasureDone o length) s
          = .next ((t.setPort n { v with attempts := 0, goal := (r, t.linkLanes n c) }).setLink n 3 0)))
    ∧ (∀ length, s.linkState n ≠ 2 ∨ v.waiting = true ∨ v.caps = none → exec (.cableMeasureDone o length) s = .next s)
    ∧ (s.linkState n = 3 →
      let t := if v.again then s.count p 0 else s
      (exec (.trainingDone o true) s = .next ((((t.setPort n { v with attempts := 0, again := false }).wr p OUT_LNK_STATUS_rate v.goal.1).setLink
        n 4 8).wr p OUT_LNK_STATUS_lanes v.goal.2))
      ∧ (v.attempts < 2 → exec (.trainingDone o false) s = .next (t.setPort n { v with attempts := v.attempts + 1 }))
      ∧ (2 ≤ v.attempts → exec (.trainingDone o false) s
        = .next (((t.setPort n { v with attempts := 0, again := false }).setLink n 6 7).fault p 3)))
    ∧ (∀ ok, s.linkState n ≠ 3 → exec (.trainingDone o ok) s = .next s))

/-- R207 to R211: CAP_ENABLE, accepted, is logged and stored and leaves no slot open. A frame start completes a frame left open, gives
each generator its edge, and takes the next free slot of the ring, or counts and reports that there is none; a frame end
completes the frame. A line of the port's channel and type is published where its checks pass, dropped where one fails, and
counted beyond the height, and a mirror copy in progress goes on at the rate of the lines; a header that was corrected is counted; a
line of another channel or type is not the port's. CAP_MIRROR_DONE carries the copy on as the DRAM serves it, and ends it where its last
line has been written; with the DRAM out of service the copy is stopped and counted. A PHY error raises its source.

The model's own choices in it: log entries 3, 52, 53, 54 and 111. -/
def Obligations.Captures : Prop :=
  ∀ (who : Actor) (c : Fin 2) (s : State),
    let p := capPage c.val
    let v := s.cap c.val
    let en := s.fieldWrite p CAP_CTRL_en 0 1
    (s.writeOk who.val p CAP_CTRL.off en false (s.capRule c.val CAP_CTRL.off) = true →
      let t := s.log who.val (s.writeRec who.val p CAP_CTRL.off en)
      let u := t.store p CAP_CTRL.off en
      exec (.capEnable who c) s = .next ((if t.rd p CAP_CTRL_en ≠ u.rd p CAP_CTRL_en then
        u.setCap c.val { (u.cap c.val).noMirror with open_ := none, next := 0, lineAt := none, lineNs := 0 } else u).capReport c.val))
    ∧ (s.rd p CAP_CTRL_en ≠ 0 →
      let t := s.capComplete c.val
      let t := t.heads.foldl (fun (u : State) g => u.refEdge g (3 + c.val) u.now) t
      (t.capSlot c.val = none → exec (.capFrameStart c) s = .next ((t.count p 1).fault p 1))
      ∧ (∀ k, t.capSlot c.val = some k → exec (.capFrameStart c) s = .next
        (let kept := Tbl.drop (fun j => j / 4320 == k) (t.cap c.val).published
        ((t.setCap c.val { t.cap c.val with open_ := some k, next := 0, published := kept }).wr p CAP_STATUS_slot k).chkFrameStart (16 + c.val)))
      ∧ exec (.capFrameEnd c) s = .next (s.capComplete c.val))
    ∧ (s.rd p CAP_CTRL_en = 0 → exec (.capFrameStart c) s = .next s ∧ exec (.capFrameEnd c) s = .next s)
    ∧ (∀ k vc dt hdr crcOk payload, v.open_ = some k → s.rd p CAP_CTRL_en ≠ 0 →
      let here := vc = s.rd p CAP_CTRL_vc ∧ dt = capType (s.rd p CAP_CTRL_dt)
      let t := if hdr = .corrected then s.count p 4 else s
      let q := t.useInject p 0
      let done := fun (u : State) => exec (.capLine c vc dt hdr crcOk payload) s = .next u
      (hdr ≠ .bad → ¬ here → done s)
      ∧ (hdr = .bad ∨ here → s.capHeight c.val ≤ v.next → done ((t.setCap c.val { v with next := v.next + 1 }).count p 3))
      ∧ (hdr = .bad → v.next < s.capHeight c.val → done (s.capDrop c.val))
      ∧ (hdr ≠ .bad → here → v.next < s.capHeight c.val → crcOk = true → q.2 = none →
        done ((q.1.capPublish c.val k payload).mirrorLine c.val))
      ∧ (hdr ≠ .bad → here → v.next < s.capHeight c.val → crcOk = false ∨ q.2.isSome = true →
        done (((q.1.capDrop c.val).fault p 0).mirrorLine c.val)))
    ∧ (∀ vc dt hdr crcOk payload, v.open_ = none ∨ s.rd p CAP_CTRL_en = 0 → exec (.capLine c vc dt hdr crcOk payload) s = .next s)
    ∧ (∀ k, v.mirror = some k →
      let t := s.dropHeld (.mirror c.val)
      (s.dramReady = true →
        exec (.capMirrorDone c) s = .next ((t.mirrorRun c.val (t.capHeight c.val + 2)).capReport c.val))
      ∧ (s.dramReady = true → (t.cap c.val).mirror = some k → (t.cap c.val).buffer = [] → t.capHeight c.val ≤ (t.cap c.val).copied →
        exec (.capMirrorDone c) s = .next ((t.setCap c.val (t.cap c.val).noMirror).capReport c.val))
      ∧ (s.dramReady = false →
        exec (.capMirrorDone c) s = .next (((s.setCap c.val v.noMirror).count p 5).capReport c.val)))
    ∧ (v.mirror = none → exec (.capMirrorDone c) s = .next s)
    ∧ exec (.phyError c) s = .next (s.fault p 2)

/-- R213 to R217: a device that takes part sends the master's sync frame as a cycle begins and its status frame in its slot, as
characters, and a token whose outcome has been sent as acted on leaves the list; a device that may not transmit sends nothing. A frame
whose characters fail a check, before or after its window, or past the latest start, is discarded; accepted within it; accepted
as an edge frame otherwise; and an excluded sender is heard only as it rejoins. Eight cycles without a sync frame raise
SYNC_LOST and eight without a frame of a device end its presence, no earlier.

The model's own choices in it: log entries 3 and 55. -/
def Obligations.ClearingLink : Prop :=
  ∀ s : State,
    (s.rd gngPage GNG_CTRL_en ≠ 0 →
      let t := s.clMissed
      let sync := t.syncNext
      let f := t.clFrame sync
      let kept := if sync then t.link.tokensOut
        else t.link.tokensOut.filter fun k => !((t.tokenNow k).outcome == 3 || (t.tokenNow k).outcome == 4)
      (t.maySend sync = true → exec .clFrameSend s = .next { t with link := { t.link with
        sent := some f, wire := clChars f, cycle := f.cycle, tokensOut := kept,
        cycleAt := if sync then some (t.now - 2000) else t.link.cycleAt, statusAt := if sync then t.link.statusAt else some t.now } })
      ∧ (t.maySend sync = false → exec .clFrameSend s = .next t)
      ∧ (∀ (d : Fin 4) (startNs endNs : Int) (start rest : List ClChar),
        let chars := start ++ rest
        let out := (s.rd gngPage GNG_STATUS_excluded).testBit d.val
        let outside := startNs < 0 ∨ 25000 < endNs ∨ 19400 < startNs
        let sof := s.now - (endNs - startNs).toNat
        let edge := decide (startNs < 2000 ∨ 15860 < startNs)
        (clParse chars = none ∨ outside → out = false → exec (.clFrameReceive d startNs endNs start rest) s = .next (s.clDiscard d.val))
        ∧ (clParse chars = none ∨ outside → out = true → exec (.clFrameReceive d startNs endNs start rest) s = .next s)
        ∧ (∀ frame, clParse chars = some frame → ¬ outside → out = true → frame.rejoin = false →
          exec (.clFrameReceive d startNs endNs start rest) s = .next s)
        ∧ (∀ frame, clParse chars = some frame → ¬ outside → (out = false ∨ frame.rejoin = true) →
          exec (.clFrameReceive d startNs endNs start rest) s = .next (s.clAccept d.val frame sof edge)))
      ∧ (∀ t, s.link.lastSync.or s.link.since = some t → t + 1000000 ≤ s.now → exec .syncLost s = .next
        ((({ s with link := { s.link with syncRun := 0 } } : State).hwField gngPage GNG_STATUS_sync 0).setLevel gngPage 0 true)))
    ∧ (s.rd gngPage GNG_CTRL_en = 0 → exec .clFrameSend s = .next s ∧ exec .syncLost s = .next s
      ∧ ∀ d startNs endNs start rest, exec (.clFrameReceive d startNs endNs start rest) s = .next s)
    ∧ (∀ t, s.link.lastSync.or s.link.since = some t → s.now < t + 1000000 → exec .syncLost s = .next s)
    ∧ (∀ d : Fin 4,
      (NatTbl.at_ s.link.accepted d.val + 1000000 ≤ s.now → exec (.clPresenceTimeout d) s
        = .next (s.hwField gngPage (gngBit GNG_STATUS_present d.val) 0))
      ∧ (s.now < NatTbl.at_ s.link.accepted d.val + 1000000 → exec (.clPresenceTimeout d) s = .next s))

/-! The DRAM and the vault. -/

/-- R221 to R225, R229 to R231: MEM_INIT, accepted, is logged and training begins; training ends ready with the capacity found, or
failed with the channels that failed and its source raised. A reading of MR4 is held and the rank's rate is 1 after four good
readings in a row, 0.5 otherwise, with the sources of high and unreadable readings. A refresh that is due is done at once, with its source raised when 8 are owed;
with fewer owed and a port in panic it is postponed; with no panic an owed one is repaid. In strict mode a due one is done. A rank that is not fitted and a DRAM that is not ready are refreshed by nothing.

R233 to R239: a rank goes down after its idle time, and the whole DRAM into self-refresh when the least tolerance exceeds the
limit, no request and no unit's work waits and no request outside the real-time classes came for 1 µs, its owed refreshes repaid; from there into
deep sleep when all ports have been unlimited, and requests absent, for the set time and the hold-off is over. Self-refresh and
deep sleep begin their exit when a request, panic or tolerance, or a commit or replay, needs the DRAM; the exit done, the DRAM is
active and serves what waits, requests and the units' held work, in class order. In strict mode a round refreshes every rank and
restarts the windows; a window begins with no access used and serves what waits of its owner. Each is without effect where one of its conditions does not hold.

The model's own choices in it: log entries 3, 57 and 58. -/
def Obligations.DramController : Prop :=
  (∀ (who : Actor) (ch : Fin 16) (rank : Fin 2) (s : State),
    let m0 := memPage 0
    let p := chPage ch.val
    let k := ch.val * 2 + rank.val
    let init := s.fieldWrite m0 MEM_CTRL_init 0 1
    (s.writeOk who.val m0 MEM_CTRL.off init false s.memCtrlRule = true →
      let t := (((s.log who.val (s.writeRec who.val m0 MEM_CTRL.off init)).store m0 MEM_CTRL.off init).wr m0 MEM_CTRL_init 0).syncStrict
      exec (.memInit who) s = .next (t.wr m0 MEM_STATUS_state 1))
    ∧ (∀ failed capacity : BitVec 16,
      (s.rd m0 MEM_STATUS_state = 1 → failed = 0 → exec (.memTrainDone failed capacity) s
        = .next ((s.wr m0 MEM_STATUS_state 2).wr m0 MEM_CAP_capacity capacity.toNat))
      ∧ (s.rd m0 MEM_STATUS_state = 1 → failed ≠ 0 → exec (.memTrainDone failed capacity) s
        = .next (((s.wr m0 MEM_STATUS_state 3).wr m0 MEM_STATUS_failed_ch failed.toNat).setLevel m0 0 true))
      ∧ (s.rd m0 MEM_STATUS_state ≠ 1 → exec (.memTrainDone failed capacity) s = .next s))
    ∧ (s.writeOk who.val m0 MEM_CTRL.off init false s.memCtrlRule = false →
      let j := s.judge who.val m0 MEM_CTRL.off init 15 false s.memCtrlRule
      exec (.memInit who) s = .next (s.turnAway who.val m0 MEM_CTRL.off j.2 j.1))
    ∧ (∀ code, (s.dramReady = false ∨ s.rankHere rank.val = false) → exec (.mr4Poll ch rank code) s = .next s)
    ∧ (∀ code, s.dramReady = true → s.rankHere rank.val = true →
      let was := NatTbl.at_ s.mem.goodMr4 k
      let r : Nat × Nat × Bool := match code with
        | .standardOrLonger c => (c.val, if was = 15 then 1 else min 4 (was + 1), false)
        | .half c => (c.val, 0, false)
        | .shorter c => (c.val, 15, false)
        | .failed c => (c.val, 0, true)
      let t := (s.wr p (mr4Field rank.val) r.1).hwField p (rateField rank.val) (if r.2.1 = 4 then 0 else 1)
      let t := { t with mem := { t.mem with goodMr4 := NatTbl.put t.mem.goodMr4 k r.2.1 } }
      let u := t.setLevel p 0 ((List.range 2).any fun i => NatTbl.at_ t.mem.goodMr4 (ch.val * 2 + i) == 15)
      exec (.mr4Poll ch rank code) s = .next (if r.2.2 then u.fault p 1 else u).syncStrict)
    ∧ (s.refreshes rank.val = true →
      (s.rd m0 MEM_CTRL_strict = 1 → exec (.refreshDue ch rank) s = .next (s.refresh ch.val rank.val))
      ∧ (s.rd m0 MEM_CTRL_strict ≠ 1 → s.rd p (creditField rank.val) = 8 →
        exec (.refreshDue ch rank) s = .next ((s.refresh ch.val rank.val).fault (memPage 18) 0))
      ∧ (s.rd m0 MEM_CTRL_strict ≠ 1 → s.rd p (creditField rank.val) ≠ 8 → s.anyPanic = false →
        exec (.refreshDue ch rank) s = .next (s.refresh ch.val rank.val))
      ∧ (s.rd m0 MEM_CTRL_strict ≠ 1 → s.rd p (creditField rank.val) ≠ 8 → s.anyPanic = true →
        exec (.refreshDue ch rank) s = .next ((s.wr p (creditField rank.val) (s.rd p (creditField rank.val) + 1)).count p 5))
      ∧ (s.anyPanic = false → s.rd p (creditField rank.val) ≠ 0 → exec (.refreshRepay ch rank) s
        = .next ((s.wr p (creditField rank.val) (s.rd p (creditField rank.val) - 1)).refresh ch.val rank.val))
      ∧ ((s.anyPanic = true ∨ s.rd p (creditField rank.val) = 0) → exec (.refreshRepay ch rank) s = .next s))
    ∧ (s.refreshes rank.val = false →
      exec (.refreshDue ch rank) s = .next s ∧ exec (.refreshRepay ch rank) s = .next s))
  ∧ (∀ (ch : Fin 16) (rank : Fin 2) (s : State),
    let m0 := memPage 0
    let k := ch.val * 2 + rank.val
    let strict := s.rd m0 MEM_CTRL_strict
    (s.refreshes rank.val = true → strict ≠ 1 → s.rd (chPage ch.val) MEM_CH_PD_IDLE_idle ≠ 0 → s.minTolerance ≠ 0 →
      (∀ e ∈ s.mem.down, e.1 ≠ k) → NatTbl.at_ s.mem.lastReq k + s.rd (chPage ch.val) MEM_CH_PD_IDLE_idle * 10 ≤ s.now →
      let rows := Tbl.drop (fun j => j / 16 == k) s.mem.openRow
      exec (.powerDownEntry ch rank) s
        = .next { s with mem := { s.mem with down := s.mem.down ++ [(k, s.now)], openRow := rows } })
    ∧ ((s.refreshes rank.val = false ∨ strict = 1 ∨ s.rd (chPage ch.val) MEM_CH_PD_IDLE_idle = 0 ∨ s.minTolerance = 0 ∨ (∃ e ∈ s.mem.down, e.1 = k)
        ∨ s.now < NatTbl.at_ s.mem.lastReq k + s.rd (chPage ch.val) MEM_CH_PD_IDLE_idle * 10) → exec (.powerDownEntry ch rank) s = .next s)
    ∧ (s.dramReady = true → s.dramPower = 0 → s.rd m0 MEM_PWR_sr_en ≠ 0 → strict ≠ 1 → s.srLimit < s.minTolerance →
      s.mem.lastNonRt + 1000 ≤ s.now → s.mem.waiting = [] → s.mem.held = [] →
      let t := (List.range 32).foldl (fun (t : State) k =>
        ((t.wakeRank k).count (chPage (k / 2)) 4 (t.rd (chPage (k / 2)) (creditField (k % 2)))).wr (chPage (k / 2)) (creditField (k % 2)) 0) s
      let u := (t.count (memPage 18) 3).wr m0 MEM_STATUS_power 1
      exec .selfRefreshEntry s = .next { u with mem := { u.mem with sleepAt := u.now, openRow := [] } })
    ∧ ((s.dramReady = false ∨ s.dramPower ≠ 0 ∨ s.rd m0 MEM_PWR_sr_en = 0 ∨ strict = 1 ∨ s.minTolerance ≤ s.srLimit
        ∨ s.now < s.mem.lastNonRt + 1000 ∨ s.mem.waiting ≠ [] ∨ s.mem.held ≠ []) → exec .selfRefreshEntry s = .next s)
    ∧ (s.dramPower = 1 → (s.mem.waiting ≠ [] ∨ s.anyPanic = true ∨ s.minTolerance ≤ s.srLimit) →
      exec .selfRefreshExit s = .next ((s.addTime (memPage 18) 1 s.mem.sleepAt).wr m0 MEM_STATUS_power 3))
    ∧ ((s.dramPower ≠ 1 ∨ (s.mem.waiting = [] ∧ s.anyPanic = false ∧ s.srLimit < s.minTolerance)) → exec .selfRefreshExit s = .next s)
    ∧ (∀ t, s.mem.unlimitedAt = some t → s.dramPower = 1 → s.rd m0 MEM_PWR_ds_en ≠ 0 →
      t + 1000 * s.rd m0 MEM_PWR_ds_idle ≤ s.now → s.mem.lastNonRt + 1000 * s.rd m0 MEM_PWR_ds_idle ≤ s.now →
      (∀ x, s.mem.lastDeepExit = some x → x + 10000000 * s.rd m0 MEM_PWR_HOLD_holdoff ≤ s.now) →
      let u := ((s.addTime (memPage 18) 1 s.mem.sleepAt).count (memPage 18) 4).hwField m0 MEM_STATUS_power 2
      exec .deepSleepEntry s = .next { u with mem := { u.mem with sleepAt := u.now } })
    ∧ ((s.dramPower ≠ 1 ∨ s.rd m0 MEM_PWR_ds_en = 0 ∨ s.mem.unlimitedAt = none ∨ (∃ t, s.mem.unlimitedAt = some t ∧ s.now < t + 1000 * s.rd m0 MEM_PWR_ds_idle)
        ∨ s.now < s.mem.lastNonRt + 1000 * s.rd m0 MEM_PWR_ds_idle
        ∨ (∃ x, s.mem.lastDeepExit = some x ∧ s.now < x + 10000000 * s.rd m0 MEM_PWR_HOLD_holdoff)) → exec .deepSleepEntry s = .next s)
    ∧ (s.dramPower = 2 → (s.mem.waiting ≠ [] ∨ s.commitNeeds = true ∨ s.replayEnds = true) →
      let u := (s.addTime (memPage 18) 2 s.mem.sleepAt).hwField m0 MEM_STATUS_power 3
      exec .deepSleepExit s = .next { u with mem := { u.mem with lastDeepExit := some u.now } })
    ∧ ((s.dramPower ≠ 2 ∨ (s.mem.waiting = [] ∧ s.commitNeeds = false ∧ s.replayEnds = false)) → exec .deepSleepExit s = .next s)
    ∧ (s.dramPower = 3 → exec .dramExitDone s = .next (s.wr m0 MEM_STATUS_power 0).serveHeld)
    ∧ (s.dramPower ≠ 3 → exec .dramExitDone s = .next s)
    ∧ (strict ≠ 0 → s.dramReady = true →
      let t := ((List.range 2).filter s.rankHere).foldl (fun (t : State) r => t.refresh ch.val r) s
      let w := NatTbl.at_ s.mem.window ch.val
      exec (.strictRound ch) s = .next { t with mem := { t.mem with window := NatTbl.put t.mem.window ch.val 0 } }
      ∧ (w < 64 → exec (.strictWindow ch) s
        = .next ({ s with mem := { s.mem with window := NatTbl.put s.mem.window ch.val (w + 1),
                                              used := NatTbl.put s.mem.used ch.val 0 } } : State).serveHeld)
      ∧ (64 ≤ w → exec (.strictWindow ch) s = .next s))
    ∧ ((strict = 0 ∨ s.dramReady = false) → exec (.strictRound ch) s = .next s ∧ exec (.strictWindow ch) s = .next s))

/-- R222, R225, R227, R237, R239, R241, R244, R295: a DRAM request that passes its checks is served at once where the DRAM is active,
not in strict mode and no request waits: a read with nothing queued and no inline ECC region completes with the bytes stored and changes
no byte of either memory, and a write outside a region, or of a whole line, completes without error, its data queued. Otherwise the request joins
the waiting ones with all its lines left, and what the channels may serve is served. A request that fails its checks completes with an
error, a read's with zeros, and raises what its failure raises; one of a host that is not heard, or that reaches past the DRAM window of
its BAR, completes so and raises nothing.

The model's own choices in it: log entries 9, 35 and 57. -/
def Obligations.DramAccesses : Prop :=
  ∀ (req : MemReq) (pa len : Nat) (data : List Byte) (s : State),
    let who := req.actor.val
    let check := fun n w => s.memCheck who req.cls.val 0 pa n w
    let rt := req.port.map (·.val)
    let t := s.noteNonRt rt
    let now := s.dramPower = 0 ∧ s.rd (memPage 0) MEM_CTRL_strict ≠ 1 ∧ s.mem.waiting = []
    let wait := fun op n => (⟨who, rt, true, req.posted, pa, op, linesOf pa n, false, [], 0, s.now⟩ : DramWait)
    let heard := fun (n : Nat) => req.cls.val ≠ 0 ∨ (s.hostHeard = true ∧ pa + n ≤ 2 ^ 36)
    (exec (.dramRead req pa 0) s = .next s ∧ exec (.dramWrite req pa []) s = .next s)
    ∧ (heard len → 0 < len → check len false = none →
      (now → exec (.dramRead req pa len) s = .next (t.serve req pa (.read len)))
      ∧ (now → s.mem.wq = [] → (∀ i < 8, s.rd (memPage 17) MEM_ECC_SIZE_size i = 0) → s.canonical = true →
        ∃ u, exec (.dramRead req pa len) s = .next u ∧ u.resp = ⟨false, s.bytesAt 0 pa len⟩
          ∧ u.dram = s.dram ∧ u.vault = s.vault)
      ∧ (¬ now → exec (.dramRead req pa len) s
        = .next ({ t with mem := { t.mem with waiting := t.mem.waiting ++ [wait (.read len) len] } } : State).serveWaiting))
    ∧ (∀ e, heard len → 0 < len → check len false = some e →
      exec (.dramRead req pa len) s = .next ((s.memFault who e).complete true (List.replicate len 0)))
    ∧ (heard data.length → data ≠ [] → check data.length true = none →
      (now → exec (.dramWrite req pa data) s = .next (t.serve req pa (.write data)))
      ∧ (¬ now → exec (.dramWrite req pa data) s
        = .next ({ t with mem := { t.mem with waiting := t.mem.waiting ++ [wait (.write data) data.length] } } : State).serveWaiting))
    ∧ (∀ e, heard data.length → data ≠ [] → check data.length true = some e →
      exec (.dramWrite req pa data) s = .next ((s.memFault who e).complete true []))
    ∧ (∀ u : State, u.eccRegion (64 * (pa / 64)) = none → data ≠ [] → pa % 64 + data.length ≤ 64 → u.serve req pa (.write data)
      = ((u.spend who).enqueue pa data).complete false [])
    ∧ (¬ heard len → 0 < len → exec (.dramRead req pa len) s = .next (s.complete true (List.replicate len 0)))
    ∧ (¬ heard data.length → data ≠ [] → exec (.dramWrite req pa data) s = .next (s.complete true []))

/-- R186, R247, R249, R264, R295: with no injection armed, a vault read that is admitted completes with the bytes stored and changes
nothing but tallies; a write that is admitted and keeps to its writer's areas stores exactly its bytes, and counts as an update of the
racing layers that show them; one outside its writer's areas, or not admitted, stores nothing and completes with an error; so does an
access of a host that is not heard or that reaches past the vault window of its BAR. The scrub counts
for each bank group the words it reads, and that it is done; not enabled, it does nothing.

The model's own choices in it: log entries 5, 9, 35, 60 and 61. -/
def Obligations.VaultAccesses : Prop :=
  ∀ (req : MemReq) (off len : Nat) (data : List Byte) (s : State), s.canonical = true →
    let who := req.actor.val
    let check := fun n w => s.memCheck who req.cls.val 1 off n w
    let heard := fun (n : Nat) => req.cls.val ≠ 0 ∨ (s.hostHeard = true ∧ off + n ≤ 2 ^ 26)
    (exec (.vaultAccess req off (.read 0)) s = .next (if heard 0 then s else s.complete true []))
    ∧ (¬ heard len → exec (.vaultAccess req off (.read len)) s = .next (s.complete true (List.replicate len 0)))
    ∧ (¬ heard data.length → exec (.vaultAccess req off (.write data)) s = .next (s.complete true []))
    ∧ ((∀ g < 16, s.rd (vltPage (1 + g)) FLT_INJECT_arm = 0) → heard len → 0 < len → check len false = none →
      ∃ t, exec (.vaultAccess req off (.read len)) s = .next t ∧ t.resp = ⟨false, s.bytesAt 1 off len⟩
        ∧ t = { s with tally := t.tally, resp := t.resp })
    ∧ (∀ e, heard len → 0 < len → check len false = some e → exec (.vaultAccess req off (.read len)) s
      = .next ((s.memFault who e).complete true (List.replicate len 0)))
    ∧ ((∀ g < 16, s.rd (vltPage (1 + g)) FLT_INJECT_arm = 0) → heard data.length → data ≠ [] → check data.length true = none → s.bookOk who off data.length = true →
      ∃ u : State, exec (.vaultAccess req off (.write data)) s = .next ((u.vaultTouched off data.length).complete false [])
        ∧ u = { s with tally := u.tally, vault := u.vault }
        ∧ (off + data.length ≤ vaultLedger ∨ vaultPool ≤ off → (∀ i < data.length, u.vaultByte (off + i) = data.getD i 0)
          ∧ ∀ a, (a < off ∨ off + data.length ≤ a) → u.vaultByte a = s.vaultByte a))
    ∧ (heard data.length → data ≠ [] → check data.length true = none → s.bookOk who off data.length = false →
      exec (.vaultAccess req off (.write data)) s = .next ((s.memFault who .firewall).complete true []))
    ∧ (∀ e, heard data.length → data ≠ [] → check data.length true = some e → exec (.vaultAccess req off (.write data)) s
      = .next ((s.memFault who e).complete true []))
    ∧ ((∀ g < 16, s.rd (vltPage (1 + g)) FLT_INJECT_arm = 0) → s.rd (vltPage 0) VLT_CTRL_scrub_en ≠ 0 →
      exec .vaultScrub s = .next (((List.range 16).foldl (fun (t : State) g => t.count (vltPage (1 + g)) 3 65536) s).count (vltPage 0) 0))
    ∧ (s.rd (vltPage 0) VLT_CTRL_scrub_en = 0 → exec .vaultScrub s = .next s)

/-! Accounts, functions, queues, copy engines and night safes. -/

/-- R19, R253 to R263, R279, R296, R297: the Custodian, running and with the manager released, takes the oldest message of a requester's
channel when it is of the command's type. An admitted request is logged, but for a RESET, whose entry is its own; it takes its
effect and its RESULT of code 0 is deposited, with the regions of a REGION_LIST. A refused one has its code deposited, and one for a
resource that is bound or held is recorded before. Each effect is the one of its type. Whichever command comes next takes a message of no known
type, which is answered with its code. A request that changes regions waits while a DRAM access waits. Another type's message, an empty channel and a Custodian that does not run leave everything as
it is.

The model's own choices in it: log entries 3, 62, 64, 65, 66, 67, 102 and 112. -/
def Obligations.CustodianRequests : Prop :=
  ∀ (who : Acct) (s : State),
    let cmds := [(Instr.create who, 1), (.grant who, 2), (.release who, 3), (.activate who, 4), (.quiesce who, 5), (.reset who, 6),
      (.destroy who, 7), (.delegate who, 8), (.regionList who, 0x20), (.regionPerm who, 0x21)]
    (∀ e ∈ cmds, ∀ (m : Msg) (rest : List Msg), s.cusUp = true → s.boot.released = true → s.safe (nsToCus who.val) = m :: rest →
      msgType m = e.2 → (changesRegions m = false ∨ s.mem.waiting = []) →
      let t := s.popSafe (nsToCus who.val)
      let code := t.requestCode who.val m
      (code = 0 →
        let u := if e.2 = 6 then t else t.log who.val [t.requestRec who.val m]
        let r := u.applyRequest who.val m
        exec e.1 s = .next (r.1.answer who.val m 0 r.2 (r.1.listRegions m)))
      ∧ (code = 3 → exec e.1 s = .next ((t.recordTaken who.val m).answer who.val m 3 0 []))
      ∧ (code ≠ 0 → code ≠ 3 → code ≠ 10 → exec e.1 s = .next (t.answer who.val m code 0 []))
      ∧ (code = 10 → exec e.1 s = .next ((State.settle (t.refuseFull who.val)).answer who.val m 10 0 [])))
    ∧ (∀ e ∈ cmds, (s.cusUp = false ∨ s.boot.released = false ∨ s.safe (nsToCus who.val) = []) → exec e.1 s = .next s)
    ∧ (∀ e ∈ cmds, ∀ (m : Msg) (rest : List Msg), s.safe (nsToCus who.val) = m :: rest → changesRegions m = true →
      s.mem.waiting ≠ [] → exec e.1 s = .next s)
    ∧ (∀ e ∈ cmds, ∀ (m : Msg) (rest : List Msg), s.safe (nsToCus who.val) = m :: rest → msgType m ≠ e.2 →
      (msgType m ∈ knownTypes → exec e.1 s = .next s)
      ∧ (msgType m ∉ knownTypes → s.cusUp = true → s.boot.released = true →
        exec e.1 s = .next ((s.popSafe (nsToCus who.val)).answer who.val m 5 0 [])))
    ∧ (∀ m : Msg,
      let a := msgTarget m
      let k := askOf who.val m
      let go := s.applyRequest who.val m
      (msgType m = 1 → go.1 = ((if (Msg.w m 2).getLsbD 8 then s.becomeLegacy a else s).genDone a).moveState a 1)
      ∧ (msgType m = 2 →
        let new := (k.pages.getD []).filter fun p => s.ownerAcct p != some a
        let t := (s.applyGrant k).grantDone a
        let u := if t.astate a = 1 ∧ k.sub = false then t.moveState a 2 else t
        go = (u, u.firstMapped k new))
      ∧ (msgType m = 3 → go.1 = (s.applyRelease k).grantDone a)
      ∧ (msgType m = 4 → go.1 = (s.moveState a 3).genDone a)
      ∧ (msgType m = 5 → go.1 = (s.moveState a 4).genDone a)
      ∧ (msgType m = 6 → go.1 = (State.settle (s.beginResetFrom (s.orgOf who.val) (clsOf who.val) a 2)).genDone a)
      ∧ (msgType m = 7 → go.1 = State.endAccount (State.settle (State.settle (s.resetActions a false),
        [.event (accPage a 0) 2, .notice a 1 (s.astate a) 0])) a)
      ∧ (msgType m = 8 →
        let d := (Msg.w m 3).getLsbD 0
        go.1 = State.settle ((s.setAcct a { s.acct a with delegated := d }).genDone a, [.notice a 4 (b2n (s.acct a).delegated) (b2n d)]))
      ∧ (msgType m = 0x20 → go.1 = s.genDone a)
      ∧ (msgType m = 0x21 → go.1 = (s.wr (cusPage 3) CUS_ACC_RGN_SIZE_perm ((Msg.w m 3).toNat / 256 % 4)
          (12 * a + (Msg.w m 3).toNat % 16)).grantDone a))

/-- R251 to R253, R256, R258, R266, R281, R284, R286: QUIESCING ends in GRANTED once the account has no copy job and no commit; RESET
ends in ACTIVE for A0, A16, and an account that was ACTIVE before an FLR or the clearing of VF Enable, and in GRANTED
otherwise; both are logged. An FLR resets the function, and of a physical function every virtual one; a port reset does so and the
link is down; a port comes up at a supported speed and width. D3hot lets the night-safe page sleep; D0 enables the function and
sends the interrupts held. The passbook doorbells raise the manager's and the tenant's events; a trusted-world account has no manager
to ring.

The model's own choices in it: log entries 3, 70, 74 and 97. -/
def Obligations.AccountsAndFunctions : Prop :=
  ∀ (who : Actor) (a : Acct) (port : Fin 2) (s : State),
    let p0 := accPage a.val 0
    let key := fkey p0 ACC_STATE 0
    let busy := s.reg (fkey (accPage a.val 1) ACC_COMMIT_STATUS 0) &&& 3
    let ends := fun (st : Nat) => .next ((State.settle (s.hwRaw key (s.reg key) (ACC_STATE_state.put (s.reg key) st))).moveState a.val st)
    (s.astate a.val = 4 → s.jobsOf a.val = false → busy = 0 → exec (.quiesceComplete a) s = ends 2)
    ∧ ((s.astate a.val ≠ 4 ∨ s.jobsOf a.val = true ∨ busy ≠ 0) → exec (.quiesceComplete a) s = .next s)
    ∧ (s.astate a.val = 5 →
      let cause := s.rd p0 ACC_STATE_reset_cause
      ((a.val = 0 ∨ a.val = 16 ∨ ((cause = 1 ∨ cause = 4) ∧ (s.acct a.val).before = 3)) → exec (.resetComplete a) s = ends 3)
      ∧ (a.val ≠ 0 → a.val ≠ 16 → ((cause ≠ 1 ∧ cause ≠ 4) ∨ (s.acct a.val).before ≠ 3) → exec (.resetComplete a) s = ends 2))
    ∧ (s.astate a.val ≠ 5 → exec (.resetComplete a) s = .next s)
    ∧ (a.val ≠ 0 → a.val ≠ 16 → s.trustedAcct a.val = false →
      exec (.flr a) s = .next ((State.settle (s.beginReset a.val 1)).functionReset a.val true))
    ∧ (a.val ≠ 0 → a.val ≠ 16 → s.trustedAcct a.val = true → exec (.flr a) s = .next ((s.dropQueues a.val).functionReset a.val true))
    ∧ (a.val = 16 * port.val → exec (.flr a) s = .next ((s.resetFunction a.val 1).clearVfs port.val))
    ∧ exec (.vfEnableClear port) s
      = .next (((vfAccts port.val).foldl (fun (t : State) v => (t.resetFunction v 4).setFunction v .absent) s).wr (hstPage port.val)
        HST_PORT_STATUS_numvfs 0)
    ∧ (let t := (s.flrOf (16 * port.val)).setFunction (16 * port.val) .absent
      exec (.portReset port) s = .next ((t.setReg (fkey (hstPage port.val) HST_PORT_STATUS 0) 0).setLevel (hstPage port.val) 0 true))
    ∧ (∀ (speed : Fin 8) (width : Fin 64),
      let h := hstPage port.val
      let ok := speed.val ∈ [3, 4, 5] ∧ width.val ∈ [1, 2, 4, 8] ∧ port.val ∉ s.boot.noClock ∧ s.boot.awake = true
      (ok → exec (.pcieLinkUp port speed width) s = .next ((((s.wr h HST_PORT_STATUS_speed speed.val).wr h HST_PORT_STATUS_width
        width.val).wr h HST_PORT_STATUS_link_up 1).setLevel h 0 false))
      ∧ (¬ ok → exec (.pcieLinkUp port speed width) s = .next s))
    ∧ ((s.acct a.val).power = .absent → ∀ cold, exec (.functionD3 a cold) s = .next s)
    ∧ ((s.acct a.val).power ≠ .absent → exec (.functionD3 a true) s = .next (s.setFunction a.val .d3cold)
      ∧ (let t := s.setFunction a.val .d3hot
        let p := accPage a.val 7
        exec (.functionD3 a false) s = .next (if t.powerGoal p = 3 then (t.wr p PAGE_CTRL_sleep_req 1).powerFollow p else t)))
    ∧ (let t := s.setFunction a.val .d0
      let c := t.acct a.val
      let h := hstPage (a.val / 16)
      let u := if a.val % 16 = 0 then t else t.wr h HST_PORT_STATUS_numvfs (max (t.rd h HST_PORT_STATUS_numvfs) (a.val % 16))
      let sent := c.msixSent + popcount c.msixPending 64
      exec (.functionD0 a) s = .next (u.setAcct a.val { c with busMaster := true, msixSent := sent, msixPending := 0 }))
    ∧ (s.writeOk who.val p0 ACC_PB_DOORBELL.off 1 true (fun _ => .ok) = true →
      let m := accPage (s.manager a.val) 0
      (s.trustedAcct a.val = false → exec (.pbDoorbell who a) s = .next ((s.wr m ⟨0x08C, 4, a.val, a.val⟩ 1).raise m 0))
      ∧ (s.trustedAcct a.val = true → exec (.pbDoorbell who a) s = .next s))
    ∧ (∀ tenant : BitVec 6, who.val = 32 → exec (.pbRing who tenant) s = .next s)
    ∧ (∀ tenant : BitVec 6, who.val ≠ 32 → s.writeOk who.val (accPage who.val 0) ACC_PB_RING.off (tenant.setWidth 32) true (fun v =>
        if s.manages who.val (ACC_PB_RING_account.get v) && !s.trustedAcct (ACC_PB_RING_account.get v) then .ok else .range) = true →
      exec (.pbRing who tenant) s = .next (s.raise (accPage (ACC_PB_RING_account.get (tenant.setWidth 32)) 0) 1))

/-- R270 to R273: the writes that enable and disable a queue, accepted, are logged and stored; a queue newly enabled has head and tail
0 and no interrupt due, one newly disabled stops at once, and any other is only stored. A doorbell, accepted, sets the tail of a host-to-device queue, the
head of any other, with no ledger entry. The interrupt timer, once its time has passed since the first entry, sends the
message and starts anew.

The model's own choices in it: log entries 3 and 71. -/
def Obligations.Queues : Prop :=
  ∀ (who : Actor) (a : Acct) (q : Fin 256) (s : State),
    let p := qPage a.val q.val
    let i := q.val % 128
    let off := ACC_Q_CTRL.off + 16 * i
    let word := fun x => s.fieldWrite p ACC_Q_CTRL_en i x
    let cmd := fun (on : Bool) => if on then Instr.queueEnable who a q else .queueDisable who a q
    let key := 256 * a.val + q.val
    (∀ on : Bool, s.writeOk who.val p off (word (b2n on)) false (s.queueRule a.val q.val off) = true →
      let v := word (b2n on)
      let t := s.log who.val (s.writeRec who.val p off v)
      let u := t.store p off v
      (t.qOn a.val q.val = false → u.qOn a.val q.val = true →
        exec (cmd on) s = .next (((u.setHead a.val q.val 0).setTail a.val q.val 0).setQueue key
          { u.queue key with since := 0, first := none, lost := false }))
      ∧ (t.qOn a.val q.val = true → u.qOn a.val q.val = false → exec (cmd on) s = .next (u.stopQueue a.val q.val))
      ∧ (t.qOn a.val q.val = u.qOn a.val q.val → exec (cmd on) s = .next u))
    ∧ (∀ index : Word,
      s.writeOk who.val (accPage a.val 3) (ACC_Q_DB.off + 8 * q.val) index true (fun v => s.doorbellRule a.val q.val v.toNat) = true →
      (hostToDevice (s.qType a.val q.val) = true → exec (.queueDoorbell who a q index) s = .next (s.setTail a.val q.val index.toNat))
      ∧ (hostToDevice (s.qType a.val q.val) = false → exec (.queueDoorbell who a q index) s = .next (s.setHead a.val q.val index.toNat)))
    ∧ (∀ t, (s.queue key).first = some t → s.qctl a.val q.val ACC_Q_INT_irq_en ≠ 0 →
      (t + s.qctl a.val q.val ACC_Q_INT_time_us * 1000 ≤ s.now → exec (.queueIntTimer a q) s
        = .next ((s.setQueue key { s.queue key with since := 0, first := none }).msix a.val (s.qctl a.val q.val ACC_Q_INT_vector)))
      ∧ (s.now < t + s.qctl a.val q.val ACC_Q_INT_time_us * 1000 → exec (.queueIntTimer a q) s = .next s))
    ∧ (((s.queue key).first = none ∨ s.qctl a.val q.val ACC_Q_INT_irq_en = 0) → exec (.queueIntTimer a q) s = .next s)

/-- R237, R239, R275 to R278, R280 to R282: a free copy engine takes the next chunk that the accounts it serves offer, when it is of the
command's kind: at most 64 KiB of its job and never past the job's end, of which a free number of blocks moves at once. What moves
never passes the end of the chunk. CHUNK_DONE moves the rest; a chunk that has reached its end ends, and its engine takes the next,
and one that must wait stays. A strict turn that has lasted its time goes to the other account, and a chunk not at its end stops where
it is. A message sent is deposited in the channel it names, behind those that wait there; a take frees the oldest slot and a clear the
count of dropped messages.

The model's own choices in it: log entries 3, 72 and 73. -/
def Obligations.CopyEnginesAndNightSafes : Prop :=
  (∀ (e : Fin 16) (s : State),
    let cmds := [(Instr.copy e, 1), (.fill e, 2), (.signal e, 3), (.nop e, 4)]
    let d := (s.dropHeld (.engine e.val)).completeAll
    let r := d.offerAccts e.val (d.engineAccts e.val)
    (∀ c ∈ cmds, (s.engine e.val).job = none → ∀ j, r.2 = some j →
      (j.op = c.2 →
        let upto := min (j.taken + 65536) j.span
        let v := r.1.engine e.val
        let last := NatTbl.put v.lastQ j.acct (j.queue + 1)
        let given := ((r.1.setJob { j with taken := upto }).setEngine e.val
          { v with job := some j, pos := j.taken, upto := upto, lastAcct := j.acct, lastQ := last }).syncEngine e.val
        exec c.1 s = .next (given.next.runChunk e.val (Config.chunkBlocks r.1.fresh).toNat))
      ∧ (j.op ≠ c.2 → exec c.1 s = .next r.1))
    ∧ (∀ c ∈ cmds, (s.engine e.val).job = none → r.2 = none → exec c.1 s = .next r.1)
    ∧ (∀ c ∈ cmds, (s.engine e.val).job ≠ none → exec c.1 s = .next s)
    ∧ (∀ (j : Job) (fuel upto pos : Nat), (j.op = 1 ∨ j.op = 2) → pos ≤ upto →
      let m := s.runJob j fuel upto pos
      pos ≤ m.2.1 ∧ m.2.1 ≤ upto ∧ m.2.2.1 = m.2.1 - pos)
    ∧ (let t := s.runChunk e.val 65537
      ((t.engine e.val).upto ≤ (t.engine e.val).pos → s.engineGo e.val = t.endChunk e.val)
      ∧ ((t.engine e.val).pos < (t.engine e.val).upto → s.engineGo e.val = t))
    ∧ (let t := s.engineGo e.val
      ((s.engine e.val).job ≠ none → (t.engine e.val).job ≠ none → exec (.chunkDone e) s = .next t)
      ∧ ((s.engine e.val).job ≠ none → (t.engine e.val).job = none →
        exec (.chunkDone e) s = .next (t.takeChunk e.val fun _ => true))
      ∧ ((s.engine e.val).job = none → exec (.chunkDone e) s = .next s))
    ∧ (∀ j, s.engineJob e.val = some j → (s.engine e.val).pos < (s.engine e.val).upto →
      let v := s.engine e.val
      s.stopChunk e.val = (((s.setJob { j with taken := v.pos }).setEngine e.val { v with job := none }).dropHeld
        (.engine e.val)).syncEngine e.val)
    ∧ (s.strict = true → (s.engine e.val).turnAt + s.rd (hstPage 2) HST_CE_TURN_us * 1000 ≤ s.now →
      let t := s.stopChunk e.val
      let v := t.engine e.val
      exec (.ceTurn e) s = .next ((t.setEngine e.val { v with upper := !v.upper, turnAt := t.now }).takeChunk e.val fun _ => true))
    ∧ ((s.strict = false ∨ s.now < (s.engine e.val).turnAt + s.rd (hstPage 2) HST_CE_TURN_us * 1000) → exec (.ceTurn e) s = .next s))
  ∧ (∀ (who : Actor) (s : State), who.val = 32 →
    (∀ dest, exec (.nsSend who dest) s = .next s) ∧ exec (.nsTake who) s = .next s ∧ exec (.nsClrDropped who) s = .next s)
  ∧ (∀ (who : Actor) (s : State), who.val ≠ 32 →
    let p := accPage who.val 7
    let m := (List.range 16).map fun i => s.reg (fkey p NS_TX_DATA i)
    let sendRule := fun (v : Word) => if NS_TX_SEND_dest.get v = 1 ∧ who.val ≠ 0 ∧ who.val ≠ 16 then Rule.range else .ok
    let takeRule := fun (v : Word) => if NS_RX_TAKE_take.get v = 1 ∧ (s.rxQueue who.val).isEmpty then Rule.range else .ok
    (s.writeOk who.val p NS_TX_SEND.off 0 true sendRule = true →
      exec (.nsSend who 0) s = .next (s.deposit who.val (nsToCus who.val) .custodian m))
    ∧ (s.writeOk who.val p NS_TX_SEND.off 1 true sendRule = true →
      exec (.nsSend who 1) s = .next (s.deposit who.val (nsMgr (who.val == 0)) (.account (16 - who.val)) m))
    ∧ (∀ ch, s.rxChannel who.val = some ch →
      (s.writeOk who.val p NS_RX_TAKE.off 1 true takeRule = true →
        exec (.nsTake who) s = .next ((s.popSafe ch).syncNs who.val))
      ∧ (s.writeOk who.val p NS_RX_TAKE.off 0x80000000 true takeRule = true → exec (.nsClrDropped who) s
        = .next (({ s with dropped := NatTbl.put s.dropped ch 0 } : State).syncNs who.val)))
    ∧ (∀ ch m, (s.safe ch).length < 16 → s.cusUp = true →
      s.deposit who.val ch .custodian m = s.pushSafe ch (stamp who.val m))
    ∧ (∀ ch m, s.canonical = true → ch < 66 → (s.safe ch).length < 16 →
      (s.pushSafe ch m).safe ch = s.safe ch ++ [(List.range 16).map fun i => m.getD i 0])
    ∧ (∀ ch m rest, s.canonical = true → s.safe ch = m :: rest → (s.popSafe ch).safe ch = rest)
    ∧ (∀ ch m, s.cusUp = false → s.deposit who.val ch .custodian m = (s.wr p NS_TX_STATUS_off_error 1).fault p 0))

/-! The Custodian, the ledger, start-up, supplies and time. -/

/-- R288 to R290, R298, R300, R311, R402, R404: a boot after PORST_N has risen takes slot 0, else slot 1, where the ROM accepts an image; if it
accepts neither it shows why and waits. It reads the OTP and completes the lifecycle, whose fuses may lose power; then stage 3
measures, and the boot halts on a bad crystal, waits at stage 3 while a junction is too hot, and else ends at stage 7. Asked again at
stage 3 it measures anew. A Custodian that halts raises its source. The manager is released once at stage 7 when training has ended.
Which code two failing slots leave is the model's choice (log entry 120). A boot input that is not well-formed is no command: it ends
in the fault that says so.

The model's own choices in it: log entries 3, 76, 92 and 120. -/
def Obligations.CustodianCommands : Prop :=
  (∀ (b : BootInput) (s : State), s.canonical = true → b.wf = true → s.boot.awake = true → s.boot.failed = false →
    s.boot.halted = false →
    let c0 := cusPage 0
    (s.boot.cusRuns = false →
      (s.imageCode b.slot0 ≠ 0 → s.imageCode b.slot1 ≠ 0 →
        let code := if s.imageCode b.slot1 = 1 then s.imageCode b.slot0 else s.imageCode b.slot1
        exec (.custodianBoot b) s = .next (s.bootFails code))
      ∧ (∀ slot m, (s.imageCode (some m) = 0 ∧ ((slot = 0 ∧ b.slot0 = some m)
          ∨ (slot = 1 ∧ s.imageCode b.slot0 ≠ 0 ∧ b.slot1 = some m))) →
        let t := (((s.wr c0 CUS_BOOT_STATUS_slot slot).wr c0 CUS_FW_VERSION_version m.version.toNat).wr c0 CUS_FW_VERSION_rollback
          s.boot.rollback)
        let t : State := { t with boot := { t.boot with cusRuns := true } }
        let r := (t.readOtp b.otpBad).bootLifecycle b.record b.cut
        let u := (r.1.setStage 3).measure b
        (r.2 = false → exec (.custodianBoot b) s = .next r.1)
        ∧ (r.2 = true → b.crystalOk = false →
          exec (.custodianBoot b) s = .next { u with boot := { u.boot with halted := true } })
        ∧ (r.2 = true → b.crystalOk = true → u.hotterThan (u.rd (glbPage 3) GLB_SENS_LIMITS_t_high) = true →
          exec (.custodianBoot b) s = .next u)
        ∧ (r.2 = true → b.crystalOk = true → u.hotterThan (u.rd (glbPage 3) GLB_SENS_LIMITS_t_high) = false →
          ∃ v, exec (.custodianBoot b) s = .next v ∧ v = u.bootOn b s.lifecycle ∧ v.stage = 7)))
    ∧ (s.boot.cusRuns = true → s.stage = 3 →
      let u := (s.readOtp b.otpBad).measure b
      let hot := u.hotterThan (u.rd (glbPage 3) GLB_SENS_LIMITS_t_high - 10 : Int)
      (hot = true → exec (.custodianBoot b) s = .next u) ∧ (hot = false → exec (.custodianBoot b) s = .next (u.bootOn b u.lifecycle)))
    ∧ (s.boot.cusRuns = true → s.stage ≠ 3 → exec (.custodianBoot b) s = .next s))
  ∧ (∀ (s : State) (i : Option Image), s.imageCode i = 0 ↔ ∃ m, i = some m ∧ m.signed = true ∧ m.keyHash = s.boot.keyHash
      ∧ s.boot.rollback ≤ m.version.toNat ∧ m.headerOk = true ∧ imageOk s.lifecycle m.kind = true)
  ∧ (∀ (b : BootInput) (s : State), b.wf = true → (s.boot.awake = false ∨ s.boot.failed = true ∨ s.boot.halted = true) →
    exec (.custodianBoot b) s = .next s)
  ∧ (∀ (b : BootInput) (s : State), b.wf = false → exec (.custodianBoot b) s = .fault .badOperand)
  ∧ (∀ s : State, s.canonical = true →
    (s.cusUp = true → exec .lockstep s = .next (({ s with boot := { s.boot with halted := true } } : State).fault (cusPage 4) 0))
    ∧ (s.cusUp = false → exec .lockstep s = .next s)
    ∧ (s.cusUp = true → s.boot.released = false → s.stage = 7 →
      (s.rd (memPage 0) MEM_STATUS_state = 2 ∨ s.rd (memPage 0) MEM_STATUS_state = 3) →
      ∃ t, exec .managerRelease s = .next t ∧ t = s.managerWork.managerDone ∧ t.stage = 8 ∧ t.boot.released = true)
    ∧ ((s.cusUp = false ∨ s.boot.released = true ∨ s.stage ≠ 7
        ∨ (s.rd (memPage 0) MEM_STATUS_state ≠ 2 ∧ s.rd (memPage 0) MEM_STATUS_state ≠ 3)) → exec .managerRelease s = .next s))

/-- R303 to R309: an entry that the started ledger appends takes the next sequence, the time, and the CRC-32C of the chain value before it
and its own first 28 bytes; it goes into the ring at its sequence, which advances, and one more entry is occupied. EXPORT_ENABLE and
EXPORT_HEAD, accepted, store their registers, only the first with an entry; EXPORT_ENTRY copies the oldest entry where the export is
enabled, one waits and A0's ring has room, and waits while the DRAM may not serve it. SEAL_WRITE seals a span whose last entry has been appended, and in plan 2 retires
its entries.

The model's own choices in it: log entries 3, 56, 77 and 78. -/
def Obligations.LedgerWriting : Prop :=
  ∀ (who : Actor) (r : Rec) (head : Word) (s : State), s.canonical = true →
    (s.led.started = true →
      let t := (s.append r).1
      let e := Tbl.get (fun _ => Entry.blank) t.led.ring (s.led.seq % 2 ^ 32 % 65536)
      t.led.seq = (s.led.seq + 1) % 2 ^ 32 ∧ t.led.occ = s.led.occ + 1 ∧ e.seq = s.led.seq % 2 ^ 32 ∧ e.time = s.now
        ∧ e.old = r.old ∧ e.new = r.new ∧ t.led.chain = e.chain
        ∧ e.chain = BitVec.ofNat 32 (crc32c (leBytes 4 s.led.chain.toNat ++ e.body))
        ∧ (∀ i, i ≠ s.led.seq % 2 ^ 32 % 65536 →
          Tbl.get (fun _ => Entry.blank) t.led.ring i = Tbl.get (fun _ => Entry.blank) s.led.ring i)
        ∧ t = { s with led := t.led, regs := t.regs, tally := t.tally })
    ∧ (let v := s.fieldWrite ldg0 LDG_EXP_CTRL_en 0 1
      s.writeOk who.val ldg0 LDG_EXP_CTRL.off v false (s.expRule LDG_EXP_CTRL.off) = true → exec (.exportEnable who) s
        = .next ((s.log who.val (s.writeRec who.val ldg0 LDG_EXP_CTRL.off v)).store ldg0 LDG_EXP_CTRL.off v))
    ∧ (s.writeOk who.val ldg0 LDG_EXP_HEAD.off head true (s.expRule LDG_EXP_HEAD.off) = true →
      exec (.exportHead who head) s = .next (s.store ldg0 LDG_EXP_HEAD.off head))
    ∧ (let full := idxDiff (s.reg (fkey ldg0 LDG_EXP_TAIL 0)).toNat (s.reg (fkey ldg0 LDG_EXP_HEAD 0)).toNat = s.expSize
      let en := s.rd ldg0 LDG_EXP_CTRL_en
      (en ≠ 0 → s.led.occ ≠ 0 → ¬ full → (s.dramReady = false ∨ s.unitMay 0 s.expBase = true) →
        let e := Tbl.get (fun _ => Entry.blank) s.led.ring s.expNext
        let g := vltGroup (vaultLedger + 32 * s.expNext)
        exec .exportEntry s = .next s.exportEntry
          ∧ (s.rd g FLT_INJECT_arm = 0 → s.exportEntry = State.exported e ((s.count g 3).postMem 0 4 0
            (s.expBase + 32 * ((s.reg (fkey ldg0 LDG_EXP_TAIL 0)).toNat % s.expSize)) (e.body ++ leBytes 4 e.chain.toNat))))
      ∧ (en ≠ 0 → s.led.occ ≠ 0 → ¬ full → s.dramReady = true → s.unitMay 0 s.expBase = false →
        exec .exportEntry s = .next (s.holdUnit 0 none .other))
      ∧ ((en = 0 ∨ s.led.occ = 0 ∨ full) → exec .exportEntry s = .next s))
    ∧ (s.cusUp = true → s.boot.ledgerKeyGone = false → s.led.started = true →
      s.spanEnd - s.led.sealFrom < idxDiff s.led.seq s.led.sealFrom →
      let t := s.sealSpan
      exec .sealWrite s = .next (if t.rd (cusPage 0) CUS_BOOT_STATUS_plan = 2 then t.retire (idxDiff (s.spanEnd + 1) s.led.sealFrom) else t))
    ∧ ((s.cusUp = false ∨ s.boot.ledgerKeyGone = true ∨ s.led.started = false
        ∨ idxDiff s.led.seq s.led.sealFrom ≤ s.spanEnd - s.led.sealFrom) → exec .sealWrite s = .next s)

/-- R45, R397: at the release of PORST_N, once, and not while a thermal shutdown holds, each strap takes the value that its 16 samples
agree on, else its fallback with its unstable bit; the cold start's wakes join the sequencer, a strap that is unstable or of a
reserved value raises the source, both host ports are without a link, and FLT_OUT's half-periods are counted from here.

R395 to R398, R404, R405: a cold reset by PORST_N, a brown-out or GLB_RESET, and the thermal shutdown by a reading of 135 °C or more, put every
register outside the backup domain at its reset value but the lifecycle's, which is read from the fuses, and count a cold
reset; the time base runs on and the ledger's sequence and chain stay. A reset with a pulse that is too short, or by a device that is in
reset, does nothing; a key other than 0xC5 is refused. A rail's and a sensor's reading are stored with their validity. The device stays in reset until every sensor
reads below 115 °C; before the boot's stage 3 a reading is not taken.

The model's own choices in it: log entries 3, 6, 15, 36, 92 and 93. -/
def Obligations.StartAndReset : Prop :=
  (∀ (x : StrapSamples) (s : State),
    let compat := strap x.compat 0
    let src := bootSrc x.bootSrc0 x.bootSrc1
    let test := strap x.test 0
    let reserved := decide (strap x.bootSrc1 0 = (1, false) ∧ !(strap x.bootSrc0 0).2)
    let p := glbPage 0
    (s.boot.awake = false → s.boot.cooked = false →
      let t : State := { s with boot := { s.boot with awake := true }, flt := { s.flt with scanAt := s.now } }
      let t := ((t.wr p GLB_STRAPS_compat compat.1).wr p GLB_STRAPS_boot_src src.1).wr p GLB_STRAPS_test test.1
      let t := (t.wr p GLB_STRAPS_unstable (b2n compat.2 + 2 * b2n src.2 + 4 * b2n test.2)).wr p GLB_STRAPS_test_ignored
        (b2n (test.1 == 1 && s.lifecycle != 0 && s.lifecycle != 3))
      let t := ((t.wr p GLB_RESET_CAUSE_cause t.boot.cause).wr (fltPage 2) FLT_OUT_STATUS_compat compat.1).readFuses
      let u := ([cusPage 0, vltPage 0, memPage 0] ++ (List.range 8).map fun n => outPage n 6).foldl (fun (t : State) q => t.wakeAsk q 2 0) t
      let v := if compat.2 || src.2 || test.2 || reserved then u.fault p 0 else u
      exec (.porstRelease x) s = .next (((v.setLevel (hstPage 0) 0 true).setLevel (hstPage 1) 0 true).restartWave))
    ∧ ((s.boot.awake = true ∨ s.boot.cooked = true) → exec (.porstRelease x) s = .next s)
    ∧ (∀ w fallback, (w = 0 → strap w fallback = (0, false)) ∧ (w = 0xFFFF → strap w fallback = (1, false))
      ∧ (w ≠ 0 → w ≠ 0xFFFF → strap w fallback = (fallback, true))))
  ∧ (∀ s : State, s.canonical = true →
    (∀ cause : Nat,
      let t := s.coldStart cause
      (∀ k, backupKey k = false → k ≠ fkey (cusPage 0) CUS_LIFECYCLE 0 → t.reg k = regReset k)
      ∧ t.rd (glbPage 0) GLB_RESET_CAUSE_count = (s.rd (glbPage 0) GLB_RESET_CAUSE_count + 1) % 65536
      ∧ t.now = s.now ∧ t.pending = s.pending ∧ t.led.seq = s.led.seq ∧ t.led.chain = s.led.chain ∧ t.boot.fuses = s.boot.fuses
      ∧ t.boot.awake = false ∧ t.mints = [] ∧ t.outs = [] ∧ t.accts = [])
    ∧ (∀ lowNs, s.boot.awake = true → 10000 ≤ lowNs → exec (.coldReset lowNs) s = .next (s.coldStart 1))
    ∧ (∀ lowNs, (s.boot.awake = false ∨ lowNs < 10000) → exec (.coldReset lowNs) s = .next s)
    ∧ (exec .brownOut s = .next (if s.boot.awake then s.coldStart 2 else s))
    ∧ (∀ (who : Actor) (key : Byte) (cold : Bool),
      let v : Word := BitVec.ofNat 32 (key.toNat * 256 + b2n cold)
      let rule := fun v => if GLB_RESET_key.get v = 0xC5 then Rule.ok else .range
      let t := s.log who.val (s.writeRec who.val (glbPage 1) GLB_RESET.off v)
      (s.writeOk who.val (glbPage 1) GLB_RESET.off v false rule = true →
        key = 0xC5 ∧ exec (.glbReset who key cold) s = .next (if cold then t.coldStart 4 else t))
      ∧ (s.writeOk who.val (glbPage 1) GLB_RESET.off v false rule = false → let j := s.judge who.val (glbPage 1) GLB_RESET.off v 15 false rule
        exec (.glbReset who key cold) s = .next (s.turnAway who.val (glbPage 1) GLB_RESET.off j.2 j.1)))
    ∧ (∀ (r : Fin 9) (mv : BitVec 13), s.boot.awake = true →
      let t := (s.railTake r.val mv.toNat).syncRails
      exec (.railSample r mv) s = .next (if r.val = 8 then t.vbatSeen mv.toNat else t))
    ∧ (∀ (r : Fin 9) (mv : BitVec 13), s.boot.awake = false → exec (.railSample r mv) s = .next s)
    ∧ (∀ (i : Fin 32) (q : Int), s.boot.cooked = false → 3 ≤ s.stage →
      let t := (s.tempTake i.val q).syncTemps
      (540 ≤ q → q ≤ 560 → exec (.tempSample i q) s = .next (t.coldStart 3))
      ∧ ((q < 540 ∨ 560 < q) → exec (.tempSample i q) s = .next t))
    ∧ (∀ (i : Fin 32) (q : Int), s.boot.cooked = false → s.stage < 3 → exec (.tempSample i q) s = .next s)
    ∧ (∀ (i : Fin 32) (q : Int), s.boot.cooked = true →
      exec (.tempSample i q) s = .next { s with boot := { s.boot with temps := Tbl.set (fun _ => 0) s.boot.temps i.val q } })
    ∧ (s.boot.cooked = true → (∀ i < 32, Tbl.get (fun _ => (0 : Int)) s.boot.temps i < 460) →
      exec .thermalRelease s = .next { s with boot := { s.boot with cooked := false } })
    ∧ ((s.boot.cooked = false ∨ ∃ i < 32, 460 ≤ Tbl.get (fun _ => (0 : Int)) s.boot.temps i) → exec .thermalRelease s = .next s))

/-- R408 to R410: the loss of VBAT while the device is awake shows VBAT_LOW; while it is off it loses the backup domain. An alarm that is
armed fires once its time has come: its latch is set with an event while the device is awake, and with on_vbat and a note for the
next boot otherwise. A clear of the latches clears on_vbat with them, and an alarm that fires in the same access is latched after it. A read of the time base gives its low word and latches the
high one; an initiator that does not own the page reads an error.

The model's own choices in it: log entries 3, 9, 94 and 98. -/
def Obligations.TimeBaseAndAlarms : Prop :=
  ∀ (who : Actor) (k : Fin 2) (s : State), s.canonical = true →
    let p := glbPage 4
    (s.boot.awake = true → exec .vbatLow s = .next ((s.wr p GLB_BKP_STATUS_vbat_ok 0).setLevel p 0 true))
    ∧ (s.boot.awake = false → ∃ t, exec .vbatLow s = .next t ∧ t.now = 0 ∧ t.led.seq = 0 ∧ t.boot.retained = false
      ∧ t.boot.tbRestarted = true ∧ t.boot.armed = [] ∧ (∀ j, backupKey j = true → t.reg j = regReset j)
      ∧ (∀ j, backupKey j = false → t.reg j = s.reg j))
    ∧ (s.boot.armed.contains k.val = true → s.alarmTime k.val ≤ s.now →
      let rest := s.boot.armed.filter (· != k.val)
      let t : State := { s with boot := { s.boot with armed := rest, alarmAt := NatTbl.put s.boot.alarmAt k.val (s.alarmTime k.val) } }
      let latch : Fld := ⟨GLB_ALARM_CTRL.off, 4, 8 + k.val, 8 + k.val⟩
      (s.boot.awake = true → exec (.alarmFire k) s = .next ((t.hwField p latch 1).raise p k.val))
      ∧ (s.boot.awake = false → ∃ u, exec (.alarmFire k) s = .next u ∧ u.rd p latch = 1
        ∧ u.rd p ⟨GLB_ALARM_CTRL.off, 4, 12 + k.val, 12 + k.val⟩ = 1 ∧ (k.val, s.alarmTime k.val) ∈ u.boot.firedOff
        ∧ u = { t with regs := u.regs, boot := { t.boot with firedOff := u.boot.firedOff } }))
    ∧ ((s.boot.armed.contains k.val = false ∨ s.now < s.alarmTime k.val) → exec (.alarmFire k) s = .next s)
    ∧ (∀ bits firing : BitVec 2,
      let v := s.fieldWrite p GLB_ALARM_CTRL_latched 0 bits.toNat
      let j := s.judge who.val p GLB_ALARM_CTRL.off v 15 false fun _ => .ok
      s.writeOk who.val p GLB_ALARM_CTRL.off v false (fun _ => .ok) = false →
        exec (.alarmClear who bits firing) s = .next ((bitsOf firing.toNat 2).foldl State.fireAlarm (s.turnAway who.val p GLB_ALARM_CTRL.off j.2 j.1)))
    ∧ (∀ bits firing : BitVec 2,
      let v := s.fieldWrite p GLB_ALARM_CTRL_latched 0 bits.toNat
      s.writeOk who.val p GLB_ALARM_CTRL.off v false (fun _ => .ok) = true →
      let t := s.log who.val (s.writeRec who.val p GLB_ALARM_CTRL.off v)
      let u := t.store p GLB_ALARM_CTRL.off v
      let w := u.wr p GLB_ALARM_CTRL_on_vbat (u.rd p GLB_ALARM_CTRL_on_vbat &&& u.rd p GLB_ALARM_CTRL_latched)
      let w := (List.range 2).foldl (fun (x : State) k =>
        if (t.rd p GLB_ALARM_CTRL_en).testBit k = (x.rd p GLB_ALARM_CTRL_en).testBit k then x else x.armAlarm k) w
      exec (.alarmClear who bits firing) s = .next ((bitsOf firing.toNat 2).foldl State.fireAlarm w))
    ∧ ((who.val = 32 ∨ s.hostHeard = true) → s.owns who.val p = true →
      let t := (s.wr p GLB_TB_LO_ns_lo (s.now % 2 ^ 32)).wr p GLB_TB_HI_ns_hi (s.now / 2 ^ 32 % 2 ^ 32)
      exec (.timeBaseRead who) s = .next { t with resp := ⟨false, leBytes 4 (s.now % 2 ^ 32)⟩ }
        ∧ t.rd p GLB_TB_HI_ns_hi * 2 ^ 32 + t.rd p GLB_TB_LO_ns_lo = s.now % 2 ^ 64)
    ∧ (who.val ≠ 32 → s.hostHeard = true → s.owns who.val p = false →
      exec (.timeBaseRead who) s = .next { s.charge who.val with resp := ⟨true, [0, 0, 0, 0]⟩ })
    ∧ (who.val ≠ 32 → s.hostHeard = false → exec (.timeBaseRead who) s = .next { s with resp := ⟨true, [0, 0, 0, 0]⟩ })

/-! Touch, haptics, audio and the 4410 personality. -/

/-- R337 to R346: TOUCH_BANK_ENABLE, accepted, is logged and stored and a bank newly enabled starts. A scan begins on a bank that is
enabled, loads no table and scans nothing, at a whole multiple of its period (log entry 121) and once there, with the settings as they
stand; each slot converts its eight channels or the
reference, all invalid where an injected overrun is used, and the sixth listens and ends the scan; a scan not begun has no slots. A hold, a recalibration and a group's rest end once
their time has come. A calibration load whose lines have all been read, or one of them not, ends with the table taken or the error; while
the DRAM cannot serve it, it goes on.

The model's own choices in it: log entries 3, 81 and 121. -/
def Obligations.TouchBanks : Prop :=
  ∀ (who : Actor) (b : Fin 4) (s : State),
    let p := tchPage b.val
    let v := s.tch b.val
    let en := s.fieldWrite p TCH_B_CTRL_en 0 1
    (s.writeOk who.val p TCH_B_CTRL.off en false (s.tchRule b.val TCH_B_CTRL.off) = true →
      let t := s.log who.val (s.writeRec who.val p TCH_B_CTRL.off en)
      let u := t.store p TCH_B_CTRL.off en
      (t.rd p TCH_B_CTRL_en = 0 → u.rd p TCH_B_CTRL_en = 1 → exec (.touchBankEnable who b) s = .next (u.startBank b.val))
      ∧ (t.rd p TCH_B_CTRL_en = u.rd p TCH_B_CTRL_en → exec (.touchBankEnable who b) s = .next u))
    ∧ (let live := tchSampled.map fun o => (o / 4, s.reg (regKey p o))
      let set := s.rd p TCH_B_SCAN_period_us
      let us := if v.period = 0 then set else v.period
      let due := s.now % (1000 * us) = 0 ∧ v.ran ≠ s.now + 1
      (s.rd p TCH_B_CTRL_en ≠ 0 → v.loading = false → v.scanAt = none → due →
        exec (.touchScan b) s = .next (s.setTch b.val { v with scanAt := some s.now, ran := s.now + 1, period := set, slot := 0, conv := [],
                                                               reports := [], live := live }))
      ∧ ((s.rd p TCH_B_CTRL_en = 0 ∨ v.loading = true ∨ v.scanAt ≠ none ∨ ¬ due) → exec (.touchScan b) s = .next s))
    ∧ (∀ counts noise, v.scanAt ≠ none →
      let t := s.setTch b.val { v with slot := v.slot + 1 }
      let bad := (t.useInject p 3).2.isSome
      let u := if bad then (t.useInject p 3).1.fault p 3 else (t.useInject p 3).1
      (v.slot = 5 → exec (.touchSlot b counts noise) s = .next ((t.listen b.val noise).scanEnd b.val))
      ∧ (v.slot = 4 → exec (.touchSlot b counts noise) s = .next ((u.convertRef b.val (counts.getD 0 0) bad).syncRange b.val))
      ∧ (v.slot < 4 → exec (.touchSlot b counts noise) s = .next (((List.range 8).foldl (fun (t : State) i =>
        if t.rd p TCH_B_CH_CFG_en (8 * v.slot + i) = 1 then t.convert b.val (8 * v.slot + i) (counts.getD i 0) bad else t) u).syncRange
          b.val)))
    ∧ (∀ counts noise, v.scanAt = none → exec (.touchSlot b counts noise) s = .next s)
    ∧ (∀ c : Fin 32,
      let x := s.chan b.val c.val
      let due := x.touchedAt + s.rd p TCH_B_CH_CFG_hold_s c.val * 1000000000
      (s.rd p TCH_B_CH_STATE_touched c.val ≠ 0 → due ≤ s.now →
        exec (.touchHoldExpiry b c) s = .next (s.setChan b.val c.val { x with holdOver := true }))
      ∧ ((s.rd p TCH_B_CH_STATE_touched c.val = 0 ∨ s.now < due) → exec (.touchHoldExpiry b c) s = .next s)
      ∧ (∀ t, x.recalUntil = some t → t ≤ s.now → exec (.touchRecalEnd b c) s
        = .next ((s.setChan b.val c.val { x with recalUntil := none }).wr p TCH_B_CH_STATE_recal 0 c.val))
      ∧ ((∀ t, x.recalUntil = some t → s.now < t) → exec (.touchRecalEnd b c) s = .next s))
    ∧ (∀ g : Fin 8,
      let x := s.grp b.val g.val
      (x.touched = true → x.movedAt + 50000000 ≤ s.now →
        exec (.groupStandstill b g) s = .next (s.setGrp b.val g.val { x with still := true }))
      ∧ (x.touched = true → s.now < x.movedAt + 50000000 → exec (.groupStandstill b g) s = .next (s.setGrp b.val g.val x))
      ∧ (x.touched = false → exec (.groupStandstill b g) s = .next s))
    ∧ (v.loading = true →
      let a := s.calAt b.val
      let r := s.readLong ((s.unitActor p).getD 32) 4 a.1 a.2 132 (linesAfter a.2 132 v.calGot.length)
      let bs := v.calGot ++ r.2.1
      let t := r.1.setTch b.val { r.1.tch b.val with loading := false, calGot := [] }
      (r.2.2 = .done → exec (.calLoadDone b) s = .next (t.calTaken b.val (some bs)))
      ∧ (r.2.2 = .failed → exec (.calLoadDone b) s = .next (t.calTaken b.val none))
      ∧ (r.2.2 = .waits → exec (.calLoadDone b) s = .next (r.1.setTch b.val { r.1.tch b.val with calGot := bs })))
    ∧ (v.loading = false → exec (.calLoadDone b) s = .next s)

/-- R352, R354: HAPTIC_ENABLE, accepted, of a channel that is off starts the coil check, or the tripped state where the trip is latched. The
check, 1 ms after it began, shows an open coil above 100 ohm and a short below 0.5 ohm, with the channel halted and the source raised, and
else decides the requests that waited; a channel that is not enabled goes off, and one over temperature or barred by an earlier check halts. A
result earlier than that, or of a channel that is not in its check, does nothing. The trip halts the channel and, the first time, latches,
counts and reports; a clear takes effect after 10 us high, and then starts the coil check, and is refused before.

The model's own choices in it: log entry 3. -/
def Obligations.HapticCoilAndTrip : Prop :=
  ∀ (who : Actor) (h : Fin 8) (s : State), s.canonical = true →
    let p := hapPage h.val
    let v := s.hap h.val
    let on := s.rd p HAP_CTRL_en == 1
    let due := v.checkAt + 1000000
    let en := s.fieldWrite p HAP_CTRL_en 0 1
    (s.writeOk who.val p HAP_CTRL.off en false (s.hapRule h.val HAP_CTRL.off 0) = true →
      let t := s.log who.val (s.writeRec who.val p HAP_CTRL.off en)
      let u := t.store p HAP_CTRL.off en
      let w := u.setHap h.val { u.hap h.val with freq := u.rd p HAP_RES_f_min * 1000, barred := false, parked := false }
      let w := w.wr p HAP_STATUS_res_hz (w.rd p HAP_RES_f_min)
      t.rd p HAP_CTRL_src = u.rd p HAP_CTRL_src → t.rd p HAP_CTRL_en = 0 → u.rd p HAP_CTRL_en = 1 → exec (.hapticEnable who h) s
        = .next (if w.rd p HAP_TRIP_latched = 1 then w.setHapState h.val 5 else w.coilCheck h.val))
    ∧ (∀ milliohm, s.hapState h.val = 1 → due ≤ s.now →
      let bad := 100000 < milliohm || milliohm < 500
      let t := s.wr p HAP_COIL_r_mohm (min milliohm 0xFFFFF)
      let t := t.setHap h.val { t.hap h.val with bridge := false, c := 0, cmd := 0, barred := v.barred || bad }
      let u := t.wr p HAP_COIL_result 1
      (100000 < milliohm →
        exec (.coilCheckDone h milliohm) s = .next (((t.wr p HAP_COIL_result 2).hapHalt h.val (if on then 5 else 0)).fault p 1))
      ∧ (milliohm < 500 →
        exec (.coilCheckDone h milliohm) s = .next (((t.wr p HAP_COIL_result 3).hapHalt h.val (if on then 5 else 0)).fault p 2))
      ∧ (500 ≤ milliohm → milliohm ≤ 100000 →
        (on = false → exec (.coilCheckDone h milliohm) s = .next (u.hapHalt h.val 0))
        ∧ (on = true → (t.level (16 * p + 4) = true ∨ v.barred = true) → exec (.coilCheckDone h milliohm) s = .next (u.hapHalt h.val 5))
        ∧ (on = true → t.level (16 * p + 4) = false → v.barred = false →
          exec (.coilCheckDone h milliohm) s = .next ((u.setHapState h.val 2).hapDecide h.val))))
    ∧ (∀ milliohm, (s.hapState h.val ≠ 1 ∨ s.now < due) → exec (.coilCheckDone h milliohm) s = .next s)
    ∧ (let t := s.wr p HAP_TRIP_pin 1
      let u := t.hapHalt h.val (if t.rd p HAP_CTRL_en = 1 then 5 else 0)
      (u.rd p HAP_TRIP_latched = 1 → exec (.hapTrip h) s = .next u)
      ∧ (u.rd p HAP_TRIP_latched ≠ 1 →
        exec (.hapTrip h) s = .next ((((u.wr p HAP_TRIP_latched 1).count p 4).setLevel p 0 true).raise p 1)))
    ∧ (∀ highNs,
      let x := s.wr p HAP_TRIP_pin 0
      let t := if highNs = 0 then s else x.setHap h.val { x.hap h.val with rose := s.now - highNs }
      let high := if highNs = 0 then s.pinHigh h.val else highNs
      let clr := t.fieldWrite p HAP_TRIP_clr 0 1
      let rule := t.hapRule h.val HAP_TRIP.off high
      (t.writeOk who.val p HAP_TRIP.off clr false rule = false → let j := t.judge who.val p HAP_TRIP.off clr 15 false rule
        exec (.hapTripClear who h highNs) s = .next (t.turnAway who.val p HAP_TRIP.off j.2 j.1))
      ∧ (t.writeOk who.val p HAP_TRIP.off clr false rule = true → 10000 ≤ high ∧ exec (.hapTripClear who h highNs) s
        = .next ((((t.log who.val (t.writeRec who.val p HAP_TRIP.off clr)).wr p HAP_TRIP_latched 0).setLevel p 0 false).coilCheck h.val)))

/-- R355 to R359: an entry of a haptic queue is taken and acted on outside the device's safe state and discarded in it; one that is not in
order, or whose ring access fails, stops the queue; while the DRAM may not serve it, it waits. A loaded effect is ready or raises its source. A
PWM period ends the gates' phase, adds to the thermal model, samples the induced voltage, plays on, hands over between the loops, and begins
with the drive command; outside the coil check, the halted and the off state it starts what is ready and decides the requests. Samples
of the accelerometer that are good are counted, and a saturated one or a missing one, none for 1 ms, ends its validity.

The model's own choices in it: log entries 3, 84 and 122. -/
def Obligations.HapticChannels : Prop :=
  ∀ (h : Fin 8) (s : State),
    let p := hapPage h.val
    let v := s.hap h.val
    (∀ (a : Acct) (q : Fin 256) (play : Bool), s.qWaiting a.val q.val = true → s.qType a.val q.val = qHaptic → s.astate a.val = 3 → s.headWaits a.val q.val = false →
      let cmd := if play then Instr.hapticPlay a q else .hapticStop a q
      let r := s.headEntry a.val q.val 4
      (∀ x, r.2 = .error x → exec cmd s = .next (r.1.queueStop a.val q.val))
      ∧ (∀ e, r.2 = .ok e → r.1.hapEntryOk a.val e = false → exec cmd s = .next (r.1.queueStop a.val q.val))
      ∧ (∀ e, r.2 = .ok e → r.1.hapEntryOk a.val e = true → field e 0 1 ≠ (if play then 1 else 2) → exec cmd s = .next r.1)
      ∧ (∀ e, r.2 = .ok e → r.1.hapEntryOk a.val e = true → field e 0 1 = (if play then 1 else 2) →
        let t := r.1.takeEntry a.val q.val
        let c := field e 2 1
        exec cmd s = .next (if t.deviceSafe then t.hapDiscard c 1
          else if play then t.hapAsk c ⟨false, field e 3 1, field e 4 2, field e 6 2, field e 8 1⟩
          else if t.hapState c = 3 then t.hapEnd c else t)))
    ∧ (∀ (a : Acct) (q : Fin 256) (play : Bool),
      let cmd := if play then Instr.hapticPlay a q else .hapticStop a q
      let here := s.qWaiting a.val q.val = true ∧ s.qType a.val q.val = qHaptic ∧ s.astate a.val = 3
      (¬ here → exec cmd s = .next s) ∧ (here → s.headWaits a.val q.val = true → exec cmd s = .next (s.holdUnit a.val none .other)))
    ∧ (∀ r, v.loading = some r →
      let t := s.setHap h.val { v with loading := none }
      let x := t.effectSegs h.val r.effect
      (x.2 = none → exec (.effectLoad h) s = .next (x.1.fault p 5))
      ∧ (∀ segs, x.2 = some segs → exec (.effectLoad h) s
        = .next (x.1.setHap h.val { x.1.hap h.val with ready := some (r, segs) })))
    ∧ (v.loading = none → exec (.effectLoad h) s = .next s)
    ∧ (∀ currentMa emf,
      let t := (((((s.gatesEnd h.val).pwmInjected h.val).hapThermal h.val currentMa).pwmSampled h.val emf).pwmPlay h.val).hapHandover h.val
      (t.hapState h.val ∈ [0, 1, 5] → exec (.pwmPeriod h currentMa emf) s = .next (t.hapDrive h.val))
      ∧ (t.hapState h.val ∉ [0, 1, 5] →
        exec (.pwmPeriod h currentMa emf) s = .next (((t.hapStart h.val).hapDecide h.val).hapDrive h.val)))
    ∧ (∀ sample : BitVec 16, s.spiOn h.val = true →
      let m := sample.toInt.natAbs
      let n := min 160 (v.accGood + 1)
      (m ≤ s.rd p HAP_ACC_range → exec (.accelSample h sample) s
        = .next (s.setHap h.val { v with accGood := n, accValid := v.accValid || n == 160, accAt := s.now, peak := max v.peak m }))
      ∧ (s.rd p HAP_ACC_range < m → exec (.accelSample h sample) s
        = .next ((s.setHap h.val { v with accGood := 0, accValid := false, accAt := s.now }).count p 5)))
    ∧ (∀ sample : BitVec 16, s.spiOn h.val = false → exec (.accelSample h sample) s = .next s)
    ∧ (v.accAt + 1000000 ≤ s.now → exec (.accelTimeout h) s
      = .next ((s.setHap h.val { v with accGood := 0, accValid := false, accAt := s.now }).count p 5))
    ∧ (s.now < v.accAt + 1000000 → exec (.accelTimeout h) s = .next s)

/-- R364 to R380: an AUDIO_SAMPLE is one more sample of the primary domain: tables that are ready are swapped, stream frames readied, the rows
sampled; a chime at its threshold becomes active; in the device's safe state all gains but the chime's fall away; gains change at their rows' zero
crossings; the columns are mixed and delivered, and the streams take their frames. ROW_ENABLE and COLUMN_ENABLE, accepted, are logged and
stored, and a bridge that becomes used starts unlocked; it locks when it is on, its frame sync is present, and 16 ms have passed since it was
unlocked. A frame sync of the X domain is measured and its port serves a period; a sync overdue by two periods is lost and the
port's bridges unlock. A gain that waits for a zero crossing is applied at its timeout, and the chime's hold ends after its time.

The model's own choices in it: log entries 3, 86 and 87. -/
def Obligations.AudioMatrix : Prop :=
  ∀ (who : Actor) (s : State),
    (∀ ins,
      let t := s.swapColumns
      let r := (t.streamsOn.foldl (fun (t : State) e => t.readyFrame e.1 e.2.1) t).rowSamples ins
      let u := ((r.1.chimeIn r.2).muteSafe).gainsAt r.2
      let u := (u.colsOn.foldl (fun (t : State) c => t.column r.2 c) u).deliverSinks
      exec (.audioSample ins) s
        = .next (((u.takeFrames t.mTicks t.streamsOn).audioReport).setAudio fun a => { a with samples := a.samples + 1 }))
    ∧ (∀ r : Fin 96,
      let p := rowPage r.val
      let off := AUD_ROW_SRC.off + 16 * (r.val % 8)
      let v := s.fieldWrite p AUD_ROW_SRC_en (r.val % 8) 1
      s.writeOk who.val p off v false (s.audRule (1 + r.val / 8) off) = true →
      let t := s.log who.val (s.writeRec who.val p off v)
      let u := t.store p off v
      let newly := (t.reg (regKey p off)).getLsbD 0 = false ∧ (u.reg (regKey p off)).getLsbD 0 = true
      let w := if newly ∧ r.val < 32 then u.unlock r.val else u
      exec (.rowEnable who r) s
        = .next (if (w.reg (regKey p off)).getLsbD 0 then w else w.wr p AUD_ROW_STATUS_valid 0 (r.val % 8)).syncFsLost)
    ∧ (∀ c : Fin 64,
      let p := eqPage c.val
      let off := AUD_COL_SINK.off + 16 * (c.val % 8)
      let v := s.fieldWrite p AUD_COL_SINK_en (c.val % 8) 1
      s.writeOk who.val p off v false (s.audRule (13 + c.val / 8) off) = true →
      let t := s.log who.val (s.writeRec who.val p off v)
      let u := t.store p off v
      let newly := (t.reg (regKey p off)).getLsbD 0 = false ∧ (u.reg (regKey p off)).getLsbD 0 = true
      exec (.columnEnable who c) s = .next (if newly ∧ 48 ≤ c.val then u.unlock (c.val - 16) else u))
    ∧ (∀ b : Fin 48,
      let on := if b.val < 32 then s.rowOn b.val else s.colOn (b.val + 16)
      let fs := match s.bridgePort b.val with | some x => s.fsPresent x | none => true
      let due := NatTbl.at_ s.audio.unlocked b.val - 1 + 16000000
      (on = true → fs = true → s.bridgeOn b.val = false → due ≤ s.now → exec (.bridgeLock b) s = .next (s.setBridge b.val 1))
      ∧ ((on = false ∨ fs = false ∨ s.bridgeOn b.val = true ∨ s.now < due) → exec (.bridgeLock b) s = .next s))
    ∧ (∀ port : Fin 8,
      let f := Tbl.get (fun _ => FsS.zero) s.audio.fs port.val
      let n := f.periods.length
      let sum := f.periods.foldl (· + ·) 0
      let q := audPage 21
      (∀ x, f.last = some x → s.tdmDomain port.val = 2 → x + 2 * (sum / max 1 n) ≤ s.now →
        let t := s.setAudio fun a => { a with fs := Tbl.set (fun _ => FsS.zero) a.fs port.val FsS.zero }
        let t := (t.wr q AUD_TDM_STATUS_fs_present 0 port.val).wr q AUD_TDM_STATUS_rate_hz 0 port.val
        exec (.fsTimeout port) s = .next (t.unlockPort port.val).syncFsLost)
      ∧ ((f.last = none ∨ s.tdmDomain port.val ≠ 2 ∨ ∃ x, f.last = some x ∧ s.now < x + 2 * (sum / max 1 n)) → exec (.fsTimeout port) s = .next s)
      ∧ (s.tdmDomain port.val ≠ 2 → exec (.tdmFs port) s = .next s)
      ∧ (s.tdmDomain port.val = 2 → f.last = none →
        let t := s.setAudio fun a => { a with fs := Tbl.set (fun _ => FsS.zero) a.fs port.val ⟨some s.now, [], false⟩ }
        exec (.tdmFs port) s = .next (((t.wr q AUD_TDM_STATUS_fs_present 1 port.val).syncFsLost).bridgedPeriod port.val))
      ∧ (∀ x, s.tdmDomain port.val = 2 → f.last = some x →
        let d := s.now - x
        let ps := (d :: f.periods).take 8
        let moved := 0 < n ∧ sum < 100 * (((n * d : Nat) : Int) - (sum : Int)).natAbs
        let t := s.setAudio fun a => { a with fs := Tbl.set (fun _ => FsS.zero) a.fs port.val ⟨some s.now, ps, false⟩ }
        let u := t.wr q AUD_TDM_STATUS_fs_present 1 port.val
        let all := ps.foldl (· + ·) 0
        let u := if all = 0 then u else u.wr q AUD_TDM_STATUS_rate_hz (1000000000 * ps.length / all) port.val
        exec (.tdmFs port) s = .next (((if moved then u.unlockPort port.val else u).syncFsLost).bridgedPeriod port.val)))
    ∧ (∀ (row : Fin 96) (col : Fin 64),
      let k := 64 * row.val + col.val
      (∀ e, s.audio.wait.find? (·.1 == k) = some e →
        let due := e.2.2 + s.rd (rowPage row.val) AUD_ROW_ZC_timeout_ms * 1000000
        (due ≤ s.now → exec (.gainZcTimeout row col) s = .next (s.applyNodes (· == k)))
        ∧ (s.now < due → exec (.gainZcTimeout row col) s = .next s))
      ∧ (s.audio.wait.find? (·.1 == k) = none → exec (.gainZcTimeout row col) s = .next s))
    ∧ (let p := audPage 23
      let due := s.audio.chimeAt.getD 0 + s.rd p AUD_CHIME_DUCK_hold * 10000000
      (s.rd p AUD_CHIME_STATUS_active ≠ 0 → due ≤ s.now →
        exec .chimeHoldExpire s = .next (s.wr p AUD_CHIME_STATUS_active 0).syncNodes)
      ∧ ((s.rd p AUD_CHIME_STATUS_active = 0 ∨ s.now < due) → exec .chimeHoldExpire s = .next s))

/-- R384 to R393: a write of a layer register through the window of an account in the personality, admitted, is logged and takes effect on the
layer's outputs; one of a register that does not exist is out of range, one of a read-only register does nothing, one of LEG_INT_ENABLE takes that
register's path, one by an initiator that does not own the window is foreign. A
read of LEG_INT_STATUS returns the bits, clears them, keeps those that arrive with it and lets err follow the error status; a read of
LEG_ERR_STATUS returns the bits, sets again those whose condition persists, and, with the COMPAT defaults, leaves a clear owed,
which the Custodian then makes. An account outside the personality has no such registers.

The model's own choices in it: log entries 3, 9, 88 and 89. -/
def Obligations.Personality : Prop :=
  ∀ (who : Actor) (a : Acct) (s : State),
    let old := s.leg a.val 0x10
    let err := s.leg a.val 0x18
    (∀ (off : BitVec 16) (value : Word) k j p o, s.owns who.val (legPage a.val (off.toNat / 4 * 4 / 4096)) = true →
      (who.val = 32 ∨ s.hostHeard = true) → (s.acct a.val).legacy = true → s.legReg a.val (off.toNat / 4 * 4) = .layer k j p o →
      let rule := fun v => match s.escrowRule who.val p o with
        | .ok => Rule.of (s.narrowLayer a.val k j o v && s.legAdmits a.val p o v)
        | r => r
      exec (.legLayerWrite who a off value) s = .next (s.legLayerSet who.val a.val k j p o value 15)
        ∧ (s.writeOk who.val p o value false rule = true → exec (.legLayerWrite who a off value) s = .next
          ((s.log who.val [s.recOf who.val 1 0 (regKey p o) (s.reg (regKey p o)) (s.produced p o value)]).legApply p o value)))
    ∧ (∀ (off : BitVec 16) (value : Word), (who.val = 32 ∨ s.hostHeard = true) →
      let w := off.toNat / 4 * 4
      let page := legPage a.val (w / 4096)
      let path := s.owns who.val page = true ∧ (s.acct a.val).legacy = true
      (¬ path → exec (.legLayerWrite who a off value) s = .next (s.turnAway who.val page (w % 4096) value .foreign))
      ∧ (path → s.legReg a.val w = .missing → exec (.legLayerWrite who a off value) s = .next (s.turnAway who.val page (w % 4096) value .range))
      ∧ (path → s.legReg a.val w = .readOnly → exec (.legLayerWrite who a off value) s = .next s)
      ∧ (path → s.legReg a.val w = .intEnable → exec (.legLayerWrite who a off value) s = .next (s.legEnable who.val a.val value 15)))
    ∧ (∀ (off : BitVec 16) (value : Word), who.val ≠ 32 → s.hostHeard = false → exec (.legLayerWrite who a off value) s = .next s)
    ∧ (∀ arriving, (s.acct a.val).legacy = true →
      let new := (arriving.toNat % 2 ^ 31) ||| (if err = 0 then 0 else 2 ^ 31)
      let t : State := { s.setLeg a.val 0x10 new with resp := ⟨false, leBytes 4 old⟩ }
      let en := s.leg a.val 0x14
      ((old &&& en = 0 ∧ new &&& en ≠ 0 ∧ s.leg a.val 4 % 2 = 0) → exec (.legIntRead a arriving) s = .next (t.msix a.val 0))
      ∧ (¬ (old &&& en = 0 ∧ new &&& en ≠ 0 ∧ s.leg a.val 4 % 2 = 0) → exec (.legIntRead a arriving) s = .next t))
    ∧ ((s.acct a.val).legacy = true →
      let again := ((s.legSources a.val).filter fun (e : Nat × Nat × Nat) => s.level (16 * e.1 + e.2.1)).foldl (fun (m : Nat) e => m ||| 2 ^ e.2.2) 0
      let owed := if s.rd (cusPage 0) CUS_BOOT_STATUS_plan = 2 then NatTbl.put s.errOwed a.val (NatTbl.at_ s.errOwed a.val ||| err) else s.errOwed
      let t := (s.setLeg a.val 0x18 again).setLeg a.val 0x10 (old % 2 ^ 31 + (if again = 0 then 0 else 2 ^ 31))
      exec (.legErrRead a) s = .next { t with resp := ⟨false, leBytes 4 err⟩, errOwed := owed })
    ∧ ((s.acct a.val).legacy = false → exec (.legErrRead a) s = .next s ∧ ∀ arriving, exec (.legIntRead a arriving) s = .next s)
    ∧ (let owed := NatTbl.at_ s.errOwed a.val
      ((owed = 0 ∨ s.cusUp = false) → exec (.legErrClear a) s = .next s)
      ∧ (owed ≠ 0 → s.cusUp = true →
        let due := (s.legSources a.val).filter fun (e : Nat × Nat × Nat) => owed.testBit e.2.2 && s.fltClass e.1 e.2.1 == 4
        let bits := fun p => ((due.filter fun (e : Nat × Nat × Nat) => e.1 == p).map (·.2.1)).foldl (fun (m : Nat) i => m ||| 2 ^ i) 0
        exec (.legErrClear a) s = .next ((due.map (·.1)).eraseDups.foldl (fun (t : State) p =>
          t.stickyWrite 32 p (BitVec.ofNat 32 (bits p)) 15 0) { s with errOwed := NatTbl.put s.errOwed a.val 0 })))
end

