-- ==== Sys2Proof/Laws/Table.lean ====
section
/-! SUPPORT. What a table's read, write and removal do: they keep the canonical form, a read after a write gives the value
written, and a write leaves every other key alone. -/

namespace Sys2Proof.Machine

variable {α : Type} [DecidableEq α] {d : Nat → α}

@[simp] theorem Tbl.get_nil (k : Nat) : Tbl.get d [] k = d k := rfl

@[simp] theorem Tbl.wf_nil : Tbl.wf d [] = true := rfl

/-- A table whose keys lie above a bound is canonical. -/
theorem Tbl.wf_of_wfFrom {lo : Option Nat} {t : List (Nat × α)} (h : Tbl.wfFrom d lo t = true) : Tbl.wf d t = true := by
  cases t with
  | nil => rfl
  | cons e t => simp only [Tbl.wf, Tbl.wfFrom, Bool.and_eq_true] at h ⊢; exact ⟨⟨trivial, h.1.2⟩, h.2⟩

theorem Tbl.wfFrom_cons {lo : Nat} {e : Nat × α} {t : List (Nat × α)} :
    Tbl.wfFrom d (some lo) (e :: t) = true ↔ lo < e.1 ∧ e.2 ≠ d e.1 ∧ Tbl.wfFrom d (some e.1) t = true := by
  obtain ⟨j, v⟩ := e
  simp [Tbl.wfFrom, and_assoc]

theorem Tbl.wf_cons {e : Nat × α} {t : List (Nat × α)} :
    Tbl.wf d (e :: t) = true ↔ e.2 ≠ d e.1 ∧ Tbl.wfFrom d (some e.1) t = true := by
  obtain ⟨j, v⟩ := e
  simp [Tbl.wf, Tbl.wfFrom]

/-- A key at or below the bound reads its default. -/
theorem Tbl.get_below {lo k : Nat} {t : List (Nat × α)} (h : Tbl.wfFrom d (some lo) t = true) (hk : k ≤ lo) :
    Tbl.get d t k = d k := by
  cases t with
  | nil => rfl
  | cons e t =>
    obtain ⟨j, v⟩ := e
    rw [Tbl.wfFrom_cons] at h
    have hj : k < j := by have := h.1; simp only at this; omega
    simp [Tbl.get, hj, Nat.ne_of_lt hj]

/-- A bound may be lowered. -/
theorem Tbl.wfFrom_mono {lo lo' : Nat} {t : List (Nat × α)} (h : Tbl.wfFrom d (some lo) t = true) (hl : lo' ≤ lo) :
    Tbl.wfFrom d (some lo') t = true := by
  cases t with
  | nil => rfl
  | cons e t => rw [Tbl.wfFrom_cons] at h ⊢; exact ⟨by omega, h.2⟩

theorem Tbl.wfFrom_set {lo k : Nat} {t : List (Nat × α)} (v : α) (h : Tbl.wfFrom d (some lo) t = true) (hk : lo < k) :
    Tbl.wfFrom d (some lo) (Tbl.set d t k v) = true := by
  induction t generalizing lo with
  | nil =>
    by_cases hv : v = d k
    · simp [Tbl.set, hv, Tbl.wfFrom]
    · simp [Tbl.set, hv, Tbl.wfFrom, hk]
  | cons e t ih =>
    obtain ⟨j, w⟩ := e
    have h' := h
    rw [Tbl.wfFrom_cons] at h
    obtain ⟨hj, hw, ht⟩ := h
    simp only at hj hw ht
    unfold Tbl.set
    split
    · split
      · exact h'
      · rename_i hkj hv
        rw [Tbl.wfFrom_cons, Tbl.wfFrom_cons]
        exact ⟨hk, hv, hkj, hw, ht⟩
    · split
      · rename_i hkj hv
        subst hv
        split
        · exact Tbl.wfFrom_mono ht (Nat.le_of_lt hj)
        · rename_i hv
          rw [Tbl.wfFrom_cons]
          exact ⟨hk, hv, ht⟩
      · rename_i h1 h2
        rw [Tbl.wfFrom_cons]
        exact ⟨hj, hw, ih ht (by simp only; omega)⟩

/-- A write keeps the canonical form. -/
theorem Tbl.wf_set {t : List (Nat × α)} (k : Nat) (v : α) (h : Tbl.wf d t = true) : Tbl.wf d (Tbl.set d t k v) = true := by
  cases t with
  | nil =>
    by_cases hv : v = d k
    · simp [Tbl.set, hv]
    · simp [Tbl.set, hv, Tbl.wf, Tbl.wfFrom]
  | cons e t =>
    obtain ⟨j, w⟩ := e
    have h' := h
    rw [Tbl.wf_cons] at h
    obtain ⟨hw, ht⟩ := h
    simp only at hw ht
    unfold Tbl.set
    split
    · split
      · exact h'
      · rename_i hkj hv
        rw [Tbl.wf_cons, Tbl.wfFrom_cons]
        exact ⟨hv, hkj, hw, ht⟩
    · split
      · rename_i hkj hv
        subst hv
        split
        · exact Tbl.wf_of_wfFrom ht
        · rename_i hv
          rw [Tbl.wf_cons]
          exact ⟨hv, ht⟩
      · rename_i h1 h2
        rw [Tbl.wf_cons]
        exact ⟨hw, Tbl.wfFrom_set v ht (by simp only; omega)⟩

theorem Tbl.wfFrom_filter {lo : Nat} {t : List (Nat × α)} (f : Nat × α → Bool) (h : Tbl.wfFrom d (some lo) t = true) :
    Tbl.wfFrom d (some lo) (t.filter f) = true := by
  induction t generalizing lo with
  | nil => rfl
  | cons e t ih =>
    rw [Tbl.wfFrom_cons] at h
    rw [List.filter_cons]
    split
    · rw [Tbl.wfFrom_cons]; exact ⟨h.1, h.2.1, ih h.2.2⟩
    · exact ih (Tbl.wfFrom_mono h.2.2 (Nat.le_of_lt h.1))

/-- Removal of entries keeps the canonical form. -/
theorem Tbl.wf_filter {t : List (Nat × α)} (f : Nat × α → Bool) (h : Tbl.wf d t = true) : Tbl.wf d (t.filter f) = true := by
  cases t with
  | nil => rfl
  | cons e t =>
    rw [Tbl.wf_cons] at h
    rw [List.filter_cons]
    split
    · rw [Tbl.wf_cons]; exact ⟨h.1, Tbl.wfFrom_filter f h.2⟩
    · exact Tbl.wf_of_wfFrom (Tbl.wfFrom_filter f h.2)

/-- Returning keys to their default keeps the canonical form. -/
theorem Tbl.wf_drop {t : List (Nat × α)} (f : Nat → Bool) (h : Tbl.wf d t = true) : Tbl.wf d (Tbl.drop f t) = true :=
  Tbl.wf_filter _ h

/-- A read after a write to the same key gives the value written. -/
theorem Tbl.get_set_same {t : List (Nat × α)} (k : Nat) (v : α) (h : Tbl.wf d t = true) : Tbl.get d (Tbl.set d t k v) k = v := by
  induction t with
  | nil =>
    by_cases hv : v = d k
    · simp [Tbl.set, hv, Tbl.get]
    · simp [Tbl.set, hv, Tbl.get]
  | cons e t ih =>
    obtain ⟨j, w⟩ := e
    rw [Tbl.wf_cons] at h
    obtain ⟨-, ht⟩ := h
    unfold Tbl.set
    split
    · rename_i hkj
      split
      · rename_i hv; simp [Tbl.get, hkj, Nat.ne_of_lt hkj, hv]
      · simp [Tbl.get]
    · split
      · rename_i hkj
        split
        · rename_i hv; rw [hv]; exact Tbl.get_below ht (by simp only; omega)
        · simp [Tbl.get]
      · rename_i h1 h2
        simp only [Tbl.get, if_neg h1, if_neg h2]
        exact ih (Tbl.wf_of_wfFrom ht)

/-- A write leaves every other key alone. -/
theorem Tbl.get_set_other {t : List (Nat × α)} {k k' : Nat} (v : α) (h : Tbl.wf d t = true) (hk : k' ≠ k) :
    Tbl.get d (Tbl.set d t k v) k' = Tbl.get d t k' := by
  induction t with
  | nil =>
    by_cases hv : v = d k
    · simp [Tbl.set, hv]
    · simp [Tbl.set, hv, Tbl.get, hk]
  | cons e t ih =>
    obtain ⟨j, w⟩ := e
    rw [Tbl.wf_cons] at h
    obtain ⟨-, ht⟩ := h
    unfold Tbl.set
    split
    · rename_i hkj
      split
      · rfl
      · rename_i hv
        by_cases h' : k' < k
        · simp [Tbl.get, hk, h', show k' < j by omega, show k' ≠ j by omega]
        · simp [Tbl.get, hk, h']
    · split
      · rename_i h1 hkj
        subst hkj
        split
        · by_cases h' : k' < k
          · simp [Tbl.get, hk, h', Tbl.get_below ht (Nat.le_of_lt h')]
          · simp [Tbl.get, hk, h']
        · simp [Tbl.get, hk]
      · rename_i h1 h2
        simp only [Tbl.get]
        rw [ih (Tbl.wf_of_wfFrom ht)]

/-- A listed value is an entry, so what holds of every entry and of the default holds of every read. -/
theorem Tbl.get_of_all {t : List (Nat × α)} {P : α → Prop} (k : Nat) (h : ∀ e ∈ t, P e.2) (hd : P (d k)) : P (Tbl.get d t k) := by
  induction t with
  | nil => exact hd
  | cons e t ih =>
    obtain ⟨j, v⟩ := e
    unfold Tbl.get
    split
    · exact h _ (List.mem_cons_self ..)
    · split
      · exact hd
      · exact ih fun e he => h e (List.mem_cons_of_mem _ he)

/-- The entries after a write: those before, and the one written. -/
theorem Tbl.mem_set {t : List (Nat × α)} {k : Nat} {v : α} {e : Nat × α} (h : e ∈ Tbl.set d t k v) : e ∈ t ∨ e = (k, v) := by
  induction t with
  | nil =>
    unfold Tbl.set at h
    split at h
    · simp at h
    · simp at h; exact .inr h
  | cons a t ih =>
    obtain ⟨j, w⟩ := a
    unfold Tbl.set at h
    split at h
    · split at h
      · exact .inl h
      · rcases List.mem_cons.1 h with h | h
        · exact .inr h
        · exact .inl h
    · split at h
      · split at h
        · exact .inl (List.mem_cons_of_mem _ h)
        · rcases List.mem_cons.1 h with h | h
          · exact .inr h
          · exact .inl (List.mem_cons_of_mem _ h)
      · rcases List.mem_cons.1 h with h | h
        · exact .inl (h ▸ List.mem_cons_self ..)
        · rcases ih h with h | h
          · exact .inl (List.mem_cons_of_mem _ h)
          · exact .inr h

end Sys2Proof.Machine
end

