-- ==== Sys2Proof/Laws/Keeps.lean ====
section
/-! SUPPORT. `Keeps q n s`: the queue is `q`, the time base is `n`, and every table is canonical. Every operation of the
model keeps all three; the files Laws/Keeps*.lean say so, one lemma for each operation, and a proof about `exec` cites them
instead of unfolding it. -/

namespace Sys2Proof.Machine

/-- The canonical form of a mint's tables. -/
structure MintOk (m : MintS) : Prop where
  sreg : Tbl.wf (fun _ => (0 : Word)) m.sreg = true
  vreg : Tbl.wf (fun _ => (0 : Word)) m.vreg = true
  preg : Tbl.wf (fun _ => (0 : Word)) m.preg = true
  code : Tbl.wf (fun _ => (0 : Word)) m.code = true
  data : Tbl.wf (fun _ => (0 : Byte)) m.data = true
  spos : Tbl.wf (fun _ => 0) m.spos = true
  cell : Tbl.wf (fun _ => unset) m.cell = true

theorem mintOk_iff {m : MintS} : m.canonical = true ↔ MintOk m := by
  simp only [MintS.canonical, Bool.and_eq_true]
  exact ⟨fun ⟨⟨⟨⟨⟨⟨a, b⟩, c⟩, d⟩, e⟩, f⟩, g⟩ => ⟨a, b, c, d, e, f, g⟩, fun h => ⟨⟨⟨⟨⟨⟨h.1, h.2⟩, h.3⟩, h.4⟩, h.5⟩, h.6⟩, h.7⟩⟩

/-- What an instruction leaves of its mint is canonical. -/
def Ran.Ok : Ran → Prop
  | .go m => MintOk m
  | .jump m _ => MintOk m
  | .bad => True
  | .wait => True

/-- The queue, the time base, and the canonical form of every table. -/
structure Keeps (q : List Instr) (n : Nat) (s : State) : Prop where
  pending : s.pending = q
  now : s.now = n
  regs : Tbl.wf regReset s.regs = true
  applied : Tbl.wf applReset s.applied = true
  dram : Tbl.wf (dramEmpty s.zeroed) s.dram = true
  vault : Tbl.wf vaultEmpty s.vault = true
  tally : Tbl.wf (fun _ => 0) s.tally = true
  levels : Tbl.wf (fun _ => false) s.levels = true
  pwt : Tbl.wf (fun _ => 0) s.pwt = true
  ring : Tbl.wf (fun _ => Entry.blank) s.led.ring = true
  accts : Tbl.wf (fun _ => AcctS.zero) s.accts = true
  queues : Tbl.wf (fun _ => QueueS.zero) s.queues = true
  subPool : Tbl.wf (fun _ => 0) s.subPool = true
  engines : Tbl.wf (fun _ => Engine.zero) s.engines = true
  safes : Tbl.wf (fun _ => (0, 0)) s.safes = true
  dropped : Tbl.wf (fun _ => 0) s.dropped = true
  commits : Tbl.wf (fun _ => none) s.commits = true
  heldSyn : Tbl.wf (fun _ => false) s.heldSyn = true
  routines : Tbl.wf (fun _ => none) s.routines = true
  outs : Tbl.wf (fun _ => OutS.zero) s.outs = true
  cheques : Tbl.wf (fun _ => none) s.cheques = true
  presses : Tbl.wf (fun _ => []) s.presses = true
  mints : Tbl.wf (fun _ => MintS.zero) s.mints = true
  caps : Tbl.wf (fun _ => CapS.zero) s.caps = true
  ports : Tbl.wf (fun _ => PortS.zero) s.ports = true
  blanked : Tbl.wf (fun _ => false) s.blanked = true
  checks : Tbl.wf (fun _ => CheckS.zero) s.checks = true
  luts : Tbl.wf (fun _ => (0 : Word)) s.luts = true
  readyAt : Tbl.wf (fun _ => 0) s.readyAt = true
  written : Tbl.wf (fun _ => false) s.written = true
  loads : Tbl.wf (fun _ => none) s.loads = true
  haps : Tbl.wf (fun _ => HapS.zero) s.haps = true
  touches : Tbl.wf (fun _ => TouchS.zero) s.touches = true
  errOwed : Tbl.wf (fun _ => 0) s.errOwed = true
  ticked : Tbl.wf (fun _ => 0) s.ticked = true
  inner : ∀ e ∈ s.mints, MintOk e.2

variable {q : List Instr} {n : Nat} {s : State}

theorem keeps_of_canonical (h : s.canonical = true) : Keeps s.pending s.now s := by
  simp only [State.canonical, Memory.wf, Bool.and_eq_true, List.all_eq_true] at h
  constructor <;> first | rfl | simp only [h.1] | exact fun e he => mintOk_iff.1 (h.2 e he)

theorem Keeps.canonical (h : Keeps q n s) : s.canonical = true := by
  simp only [State.canonical, Memory.wf, Bool.and_eq_true, List.all_eq_true]
  exact ⟨by simp only [h.regs, h.applied, h.dram, h.vault, h.tally, h.levels, h.pwt, h.ring, h.accts, h.queues, h.subPool, h.engines, h.safes, h.dropped, h.commits, h.heldSyn, h.routines, h.outs, h.cheques, h.presses, h.mints, h.caps, h.ports, h.blanked, h.checks, h.luts, h.readyAt, h.written, h.loads, h.haps, h.touches, h.errOwed, h.ticked, and_self], fun e he => mintOk_iff.2 (h.inner e he)⟩

/-- The form holds of a state with the same queue, clock and tables. -/
theorem Keeps.requeue (h : Keeps q n s) (p : List Instr) : Keeps p n { s with pending := p } :=
  { h with pending := rfl }

theorem NatTbl.wf_put {t : NatTbl} (k v : Nat) (h : Tbl.wf (fun _ => 0) t = true) :
    Tbl.wf (fun _ => 0) (NatTbl.put t k v) = true := Tbl.wf_set k v h

/-- Canonical through a fold of writes. -/
theorem wf_foldl {α β : Type} [DecidableEq α] {d : Nat → α} {f : List (Nat × α) → β → List (Nat × α)} {t : List (Nat × α)}
    (l : List β) (h : Tbl.wf d t = true) (hf : ∀ u x, Tbl.wf d u = true → Tbl.wf d (f u x) = true) :
    Tbl.wf d (l.foldl f t) = true := by
  induction l generalizing t with
  | nil => exact h
  | cons x l ih => exact ih (hf _ _ h)

/-- A property carried through a fold. -/
theorem foldl_holds {σ β : Type} {P : σ → Prop} {f : σ → β → σ} {t : σ} (l : List β) (h : P t)
    (hf : ∀ u x, P u → P (f u x)) : P (l.foldl f t) := by
  induction l generalizing t with
  | nil => exact h
  | cons x l ih => exact ih (hf _ _ h)

theorem keeps_foldl {β : Type} {f : State → β → State} {l : List β} (h : Keeps q n s)
    (hf : ∀ u x, Keeps q n u → Keeps q n (f u x)) : Keeps q n (l.foldl f s) := foldl_holds l h hf

theorem mintOk_foldl {β : Type} {f : MintS → β → MintS} {m : MintS} {l : List β} (h : MintOk m)
    (hf : ∀ u x, MintOk u → MintOk (f u x)) : MintOk (l.foldl f m) := foldl_holds l h hf

theorem keeps_foldl_fst {β γ : Type} {f : State × γ → β → State × γ} {p : State × γ} {l : List β} (h : Keeps q n p.1)
    (hf : ∀ u x, Keeps q n u.1 → Keeps q n (f u x).1) : Keeps q n (l.foldl f p).1 :=
  foldl_holds (P := fun (r : State × γ) => Keeps q n r.1) l h hf

theorem keeps_fst {γ : Type} {p : State × γ} {t : State} {x : γ} (e : p = (t, x)) (h : Keeps q n p.1) : Keeps q n t := by
  subst e; exact h

theorem keeps_MintS_zero : MintOk MintS.zero := mintOk_iff.1 (by decide)

theorem wf_putBytes {t : List (Nat × Byte)} (a : Nat) (bs : List Byte) (h : Tbl.wf (fun _ => (0 : Byte)) t = true) :
    Tbl.wf (fun _ => (0 : Byte)) (putBytes t a bs) = true := by
  induction bs generalizing t a with
  | nil => exact h
  | cons b bs ih => exact ih _ (Tbl.wf_set _ _ h)

theorem Tbl.wf_of_pairwise {α : Type} [DecidableEq α] {d : Nat → α} {t : List (Nat × α)}
    (h : t.Pairwise fun a b => a.1 < b.1) (hd : ∀ e ∈ t, e.2 ≠ d e.1) : Tbl.wf d t = true := by
  have key : ∀ (t : List (Nat × α)) (lo : Nat), t.Pairwise (fun a b => a.1 < b.1) → (∀ e ∈ t, e.2 ≠ d e.1) →
      (∀ e ∈ t, lo < e.1) → Tbl.wfFrom d (some lo) t = true := by
    intro t
    induction t with
    | nil => intros; rfl
    | cons e t ih =>
      intro lo h hd hl
      rw [List.pairwise_cons] at h
      rw [Tbl.wfFrom_cons]
      exact ⟨hl e (List.mem_cons_self ..), hd e (List.mem_cons_self ..),
        ih e.1 h.2 (fun x hx => hd x (List.mem_cons_of_mem _ hx)) h.1⟩
  cases t with
  | nil => rfl
  | cons e t =>
    rw [List.pairwise_cons] at h
    rw [Tbl.wf_cons]
    exact ⟨hd e (List.mem_cons_self ..), key t e.1 h.2 (fun x hx => hd x (List.mem_cons_of_mem _ hx)) h.1⟩

theorem Tbl.wfFrom_spec {α : Type} [DecidableEq α] {d : Nat → α} {t : List (Nat × α)} {lo : Nat} (h : Tbl.wfFrom d (some lo) t = true) :
    t.Pairwise (fun a b => a.1 < b.1) ∧ ∀ e ∈ t, e.2 ≠ d e.1 ∧ lo < e.1 := by
  induction t generalizing lo with
  | nil => exact ⟨List.Pairwise.nil, fun _ h => absurd h List.not_mem_nil⟩
  | cons e t ih =>
    rw [Tbl.wfFrom_cons] at h
    obtain ⟨hp, ha⟩ := ih h.2.2
    refine ⟨List.pairwise_cons.2 ⟨fun x hx => (ha x hx).2, hp⟩, ?_⟩
    intro x hx
    rcases List.mem_cons.1 hx with rfl | hx
    · exact ⟨h.2.1, h.1⟩
    · exact ⟨(ha x hx).1, Nat.lt_trans h.1 (ha x hx).2⟩

theorem Tbl.wf_spec {α : Type} [DecidableEq α] {d : Nat → α} {t : List (Nat × α)} (h : Tbl.wf d t = true) :
    t.Pairwise (fun a b => a.1 < b.1) ∧ ∀ e ∈ t, e.2 ≠ d e.1 := by
  cases t with
  | nil => exact ⟨List.Pairwise.nil, fun _ h => absurd h List.not_mem_nil⟩
  | cons e t =>
    rw [Tbl.wf_cons] at h
    obtain ⟨hp, ha⟩ := Tbl.wfFrom_spec h.2
    refine ⟨List.pairwise_cons.2 ⟨fun x hx => (ha x hx).2, hp⟩, ?_⟩
    intro x hx
    rcases List.mem_cons.1 hx with rfl | hx
    · exact h.1
    · exact (ha x hx).1

theorem Tbl.pairwise_of_wf {α : Type} [DecidableEq α] {d : Nat → α} {t : List (Nat × α)} (h : Tbl.wf d t = true) :
    t.Pairwise (fun a b => a.1 < b.1) := (Tbl.wf_spec h).1

theorem Tbl.ne_of_wf {α : Type} [DecidableEq α] {d : Nat → α} {t : List (Nat × α)} (h : Tbl.wf d t = true) :
    ∀ e ∈ t, e.2 ≠ d e.1 := (Tbl.wf_spec h).2

theorem keeps_reset : Keeps [] 0 State.reset := by
  constructor <;> first | rfl | exact fun _ h => absurd h (List.not_mem_nil)

theorem wf_codeTable (bs : List Byte) (k : Nat) : Tbl.wf (fun _ => (0 : Word)) (codeTable bs k) = true := by
  refine Tbl.wf_of_pairwise ?_ ?_
  · exact List.Pairwise.filter _ (List.Pairwise.map _ (fun _ _ h => h) List.pairwise_lt_range)
  · intro e he
    have := (List.mem_filter.1 he).2
    simpa using this

theorem wf_startScalars (c : Cheque) : Tbl.wf (fun _ => (0 : Word)) (startScalars c) = true := by
  refine Tbl.wf_of_pairwise ?_ ?_
  · refine List.Pairwise.map _ (R := fun a b => a.2 < b.2) (fun _ _ h => h) (List.Pairwise.filter _ ?_)
    simp [List.zipIdx]
  · intro e he
    obtain ⟨x, hx, rfl⟩ := List.mem_map.1 he
    simpa using (List.mem_filter.1 hx).2

theorem keeps_ite {c : Prop} [Decidable c] {t : State} (a : Keeps q n s) (b : Keeps q n t) : Keeps q n (if c then s else t) := by
  split <;> assumption

theorem keeps_ite_fst {γ : Type} {c : Prop} [Decidable c] {x y : State × γ} (a : Keeps q n x.1) (b : Keeps q n y.1) :
    Keeps q n (if c then x else y).1 := by
  split <;> assumption

theorem mintOk_ite {c : Prop} [Decidable c] {x y : MintS} (a : MintOk x) (b : MintOk y) : MintOk (if c then x else y) := by
  split <;> assumption

theorem ranOk_ite {c : Prop} [Decidable c] {x y : Ran} (a : Ran.Ok x) (b : Ran.Ok y) : Ran.Ok (if c then x else y) := by
  split <;> assumption

theorem ranOk_go {m : MintS} (h : MintOk m) : Ran.Ok (.go m) := h

theorem ranOk_jump {m : MintS} {k : Nat} (h : MintOk m) : Ran.Ok (.jump m k) := h

theorem keeps_mk {γ : Type} {x : γ} (h : Keeps q n s) : Keeps q n (s, x).1 := h

end Sys2Proof.Machine
end

