-- ==== Sys2Proof/Laws/Keeps1.lean ====
section
/-! SUPPORT. Every operation of Ops.lean, LedgerWriter.lean, Dram.lean, Flags.lean, WritePath.lean keeps the queue, the time base and the canonical tables. -/

set_option linter.unusedVariables false

namespace Sys2Proof.Machine

variable {q : List Instr} {n : Nat}

theorem keeps_State_setReg {s : State} {k : Nat} {v : Word} (k2 : Keeps q n s) :
    Keeps q n (State.setReg s k v) := by
  unfold State.setReg
  exact { k2 with regs := Tbl.wf_set _ _ k2.regs }

theorem keeps_State_wr {s : State} {p : Nat} {f : Fld} {v : Nat} {i : Nat} (k2 : Keeps q n s) :
    Keeps q n (State.wr s p f v i) := by
  unfold State.wr
  exact keeps_State_setReg k2

theorem keeps_State_setAppl {s : State} {n' : Nat} {k : Nat} {v : Word} (k2 : Keeps q n s) :
    Keeps q n (State.setAppl s n' k v) := by
  unfold State.setAppl
  exact { k2 with applied := Tbl.wf_set _ _ k2.applied }

theorem keeps_State_wrA {s : State} {n' : Nat} {p : Nat} {f : Fld} {v : Nat} {i : Nat} (k2 : Keeps q n s) :
    Keeps q n (State.wrA s n' p f v i) := by
  unfold State.wrA
  exact keeps_State_setAppl k2

theorem keeps_State_setAcct {s : State} {a : Nat} {v : AcctS} (k2 : Keeps q n s) :
    Keeps q n (State.setAcct s a v) := by
  unfold State.setAcct
  exact { k2 with accts := Tbl.wf_set _ _ k2.accts }

theorem keeps_State_setQueue {s : State} {k : Nat} {v : QueueS} (k2 : Keeps q n s) :
    Keeps q n (State.setQueue s k v) := by
  unfold State.setQueue
  exact { k2 with queues := Tbl.wf_set _ _ k2.queues }

theorem keeps_State_setEngine {s : State} {k : Nat} {v : Engine} (k2 : Keeps q n s) :
    Keeps q n (State.setEngine s k v) := by
  unfold State.setEngine
  exact { k2 with engines := Tbl.wf_set _ _ k2.engines }

theorem keeps_State_setOut {s : State} {k : Nat} {v : OutS} (k2 : Keeps q n s) :
    Keeps q n (State.setOut s k v) := by
  unfold State.setOut
  exact { k2 with outs := Tbl.wf_set _ _ k2.outs }

theorem keeps_State_mint {s : State} {k : Nat} (k2 : Keeps q n s) : MintOk (s.mint k) :=
  Tbl.get_of_all (P := MintOk) k k2.inner (mintOk_iff.1 (by decide))

theorem keeps_State_setMint {s : State} {k : Nat} {v : MintS} (k2 : Keeps q n s) (k3 : MintOk v) :
    Keeps q n (State.setMint s k v) := by
  unfold State.setMint
  exact { k2 with
    mints := Tbl.wf_set _ _ k2.mints
    inner := fun e he => (Tbl.mem_set he).elim (k2.inner e) fun h => h ▸ k3 }

theorem keeps_State_setCheque {s : State} {k : Nat} {v : Option Cheque} (k2 : Keeps q n s) :
    Keeps q n (State.setCheque s k v) := by
  unfold State.setCheque
  exact { k2 with cheques := Tbl.wf_set _ _ k2.cheques }

theorem keeps_State_setPress {s : State} {k : Nat} {v : List Nat} (k2 : Keeps q n s) :
    Keeps q n (State.setPress s k v) := by
  unfold State.setPress
  exact { k2 with presses := Tbl.wf_set _ _ k2.presses }

theorem keeps_State_setCommit {s : State} {k : Nat} {v : Option Commit} (k2 : Keeps q n s) :
    Keeps q n (State.setCommit s k v) := by
  unfold State.setCommit
  exact { k2 with commits := Tbl.wf_set _ _ k2.commits }

theorem keeps_State_setSafe {s : State} {k : Nat} {v : Nat × Nat} (k2 : Keeps q n s) :
    Keeps q n (State.setSafe s k v) := by
  unfold State.setSafe
  exact { k2 with safes := Tbl.wf_set _ _ k2.safes }

theorem keeps_State_setAudio {s : State} {f : AudioS → AudioS} (k2 : Keeps q n s) :
    Keeps q n (State.setAudio s f) := by
  unfold State.setAudio
  exact { k2 with }

theorem keeps_State_setStream {s : State} {k : Nat} {v : StreamS} (k2 : Keeps q n s) :
    Keeps q n (State.setStream s k v) := by
  unfold State.setStream
  exact keeps_State_setAudio k2

theorem keeps_State_setCap {s : State} {k : Nat} {v : CapS} (k2 : Keeps q n s) :
    Keeps q n (State.setCap s k v) := by
  unfold State.setCap
  exact { k2 with caps := Tbl.wf_set _ _ k2.caps }

theorem keeps_State_setPort {s : State} {k : Nat} {v : PortS} (k2 : Keeps q n s) :
    Keeps q n (State.setPort s k v) := by
  unfold State.setPort
  exact { k2 with ports := Tbl.wf_set _ _ k2.ports }

theorem keeps_State_setCheck {s : State} {k : Nat} {v : CheckS} (k2 : Keeps q n s) :
    Keeps q n (State.setCheck s k v) := by
  unfold State.setCheck
  exact { k2 with checks := Tbl.wf_set _ _ k2.checks }

theorem keeps_State_setHap {s : State} {k : Nat} {v : HapS} (k2 : Keeps q n s) :
    Keeps q n (State.setHap s k v) := by
  unfold State.setHap
  exact { k2 with haps := Tbl.wf_set _ _ k2.haps }

theorem keeps_State_setTch {s : State} {k : Nat} {v : TouchS} (k2 : Keeps q n s) :
    Keeps q n (State.setTch s k v) := by
  unfold State.setTch
  exact { k2 with touches := Tbl.wf_set _ _ k2.touches }

theorem keeps_State_count {s : State} {p : Nat} {i : Nat} {n' : Nat} (k2 : Keeps q n s) :
    Keeps q n (State.count s p i n') := by
  unfold State.count
  exact { k2 with tally := NatTbl.wf_put _ _ k2.tally }

theorem keeps_State_next {s : State} (k2 : Keeps q n s) :
    Keeps q n (State.next s) := by
  unfold State.next
  exact { k2 with }

theorem keeps_State_setOwner {s : State} {p : Nat} {c : Nat} (k2 : Keeps q n s) :
    Keeps q n (State.setOwner s p c) := by
  unfold State.setOwner
  exact keeps_State_wr k2

theorem keeps_State_overRegs {s : State} {f : Nat → Bool} {g : Nat → Word → Word} (k2 : Keeps q n s) :
    Keeps q n (State.overRegs s f g) := by
  unfold State.overRegs
  refine keeps_foldl ?_ ?_
  · exact k2
  · intro t5 i6 k7
    exact keeps_State_setReg k7

theorem keeps_State_setLeg {s : State} {a : Nat} {off : Nat} {v : Nat} (k2 : Keeps q n s) :
    Keeps q n (State.setLeg s a off v) := by
  unfold State.setLeg
  exact keeps_State_setReg k2

theorem keeps_State_setPower {s : State} {p : Nat} {v : Nat} (k2 : Keeps q n s) :
    Keeps q n (State.setPower s p v) := by
  unfold State.setPower
  exact keeps_State_wr k2

theorem keeps_State_syncDirty {s : State} {p : Nat} (k2 : Keeps q n s) :
    Keeps q n (State.syncDirty s p) := by
  unfold State.syncDirty
  exact keeps_State_wr k2

theorem keeps_State_setWq {s : State} {c : Nat} {q' : List (Nat × List Byte)} (k2 : Keeps q n s) :
    Keeps q n (State.setWq s c q') := by
  unfold State.setWq
  extract_lets -merge -useContext x5
  try clear_value x5
  exact { k2 with }

theorem keeps_State_setDram {s : State} {a : Nat} {b : Byte} (k2 : Keeps q n s) :
    Keeps q n (State.setDram s a b) := by
  unfold State.setDram
  exact { k2 with dram := Tbl.wf_set _ _ k2.dram }

theorem keeps_State_setVault {s : State} {a : Nat} {b : Byte} (k2 : Keeps q n s) :
    Keeps q n (State.setVault s a b) := by
  unfold State.setVault
  exact { k2 with vault := Tbl.wf_set _ _ k2.vault }

theorem keeps_State_storeDram {s : State} {a : Nat} {z4 : List Byte} (k2 : Keeps q n s) :
    Keeps q n (State.storeDram s a z4) := by
  induction z4 generalizing s a with
  | nil => exact k2
  | cons b t ih => exact ih (keeps_State_setDram k2)

theorem keeps_State_storeVault {s : State} {a : Nat} {z4 : List Byte} (k2 : Keeps q n s) :
    Keeps q n (State.storeVault s a z4) := by
  induction z4 generalizing s a with
  | nil => exact k2
  | cons b t ih => exact ih (keeps_State_setVault k2)

theorem keeps_State_pushSafe {s : State} {k : Nat} {m : Msg} (k2 : Keeps q n s) :
    Keeps q n (State.pushSafe s k m) := by
  unfold State.pushSafe
  extract_lets -merge -useContext x5
  try clear_value x5
  refine keeps_State_storeVault ?_
  exact keeps_State_setSafe k2

theorem keeps_State_popSafe {s : State} {k : Nat} (k2 : Keeps q n s) :
    Keeps q n (State.popSafe s k) := by
  unfold State.popSafe
  extract_lets -merge -useContext x4
  try clear_value x4
  exact keeps_State_setSafe k2

theorem keeps_State_clearSafe {s : State} {k : Nat} (k2 : Keeps q n s) :
    Keeps q n (State.clearSafe s k) := by
  unfold State.clearSafe
  exact keeps_State_setSafe k2

theorem keeps_State_storeTag {s : State} {tag : List Byte} {z4 : Option Nat} (k2 : Keeps q n s) :
    Keeps q n (State.storeTag s tag z4) := by
  unfold State.storeTag
  split
  · exact k2
  · exact keeps_State_storeDram k2

theorem keeps_State_retag {s : State} {line : Nat} {poison : Bool} (k2 : Keeps q n s) :
    Keeps q n (State.retag s line poison) := by
  unfold State.retag
  exact keeps_State_storeTag k2

theorem keeps_State_useInject {s : State} {p : Nat} {i : Nat} (k2 : Keeps q n s) :
    Keeps q n (State.useInject s p i).1 := by
  unfold State.useInject
  extract_lets -merge -useContext x5 x6
  have k7 : Keeps q n x6 := by
    unfold x6
    refine keeps_ite (keeps_State_wr k2) ?_
    refine keeps_ite ?_ (keeps_State_wr k2)
    refine keeps_State_wr ?_
    exact keeps_State_wr k2
  try clear_value x6 x5
  refine keeps_ite_fst ?_ ?_
  · refine keeps_mk ?_
    exact k2
  · refine keeps_mk ?_
    exact k7

theorem keeps_State_syncLedger {s : State} (k2 : Keeps q n s) :
    Keeps q n (State.syncLedger s) := by
  unfold State.syncLedger
  extract_lets -merge -useContext x3
  try clear_value x3
  refine keeps_State_setReg ?_
  refine keeps_State_setReg ?_
  exact keeps_State_setReg k2

theorem keeps_State_spaceLow {s : State} {t : State} (k2 : Keeps q n s) (k4 : Keeps q n t) :
    Keeps q n (State.spaceLow s t).1 := by
  unfold State.spaceLow
  refine keeps_mk ?_
  exact k4

theorem keeps_State_write1 {s : State} {r : Rec} (k2 : Keeps q n s) :
    Keeps q n (State.write1 s r) := by
  unfold State.write1
  refine keeps_ite { k2 with } ?_
  refine keeps_State_syncLedger (keeps_State_count (keeps_foldl ?_ fun _ _ k => keeps_State_setReg k))
  exact { k2 with ring := Tbl.wf_set _ _ k2.ring }

theorem keeps_State_append {s : State} {r : Rec} (k2 : Keeps q n s) :
    Keeps q n (State.append s r).1 := keeps_State_spaceLow k2 (keeps_State_write1 k2)

theorem keeps_State_appendAll {s : State} {z3 : List Rec} (k2 : Keeps q n s) :
    Keeps q n (State.appendAll s z3).1 := by
  induction z3 generalizing s with
  | nil => exact k2
  | cons r rs ih => exact ih (keeps_State_append k2)

theorem keeps_State_closeSpan {s : State} {trusted : Bool} {m : Nat} (k2 : Keeps q n s) :
    Keeps q n (State.closeSpan s trusted m).1 := by
  unfold State.closeSpan
  split
  · exact k2
  · refine keeps_ite_fst k2 ?_
    cases trusted <;> exact keeps_State_append { k2 with }

theorem keeps_State_logRaw {s : State} {trusted : Bool} {rs : List Rec} (k2 : Keeps q n s) :
    Keeps q n (State.logRaw s trusted rs).1 := by
  unfold State.logRaw
  split
  rename_i v5 v6 e7
  have k8 : Keeps q n v5 := keeps_fst e7 (by
      exact keeps_State_closeSpan k2
    )
  split
  rename_i v9 v10 e11
  have k12 : Keeps q n v9 := keeps_fst e11 (by
      exact keeps_State_appendAll k8
    )
  refine keeps_mk ?_
  exact k12

theorem keeps_State_hwRec {s : State} {r : Rec} (k2 : Keeps q n s) :
    Keeps q n (State.hwRec s r).1 := by
  unfold State.hwRec
  extract_lets -merge -useContext x4 x5 x6
  try clear_value x4
  refine keeps_ite_fst ?_ (keeps_State_append k2)
  refine keeps_ite_fst ?_ ?_
  · refine keeps_mk ?_
    exact { k2 with }
  · refine keeps_mk ?_
    refine keeps_State_syncLedger ?_
    refine keeps_State_count ?_
    exact { k2 with }

theorem keeps_State_hwRaw {s : State} {k : Nat} {old : Word} {new : Word} (k2 : Keeps q n s) :
    Keeps q n (State.hwRaw s k old new).1 := by
  unfold State.hwRaw
  exact keeps_State_hwRec k2

theorem keeps_State_reserve {s : State} {a : Nat} (k2 : Keeps q n s) :
    Keeps q n (State.reserve s a).1 := by
  unfold State.reserve
  extract_lets -merge -useContext x4
  refine keeps_State_spaceLow k2 ?_
  refine keeps_State_syncLedger ?_
  exact { k2 with }

theorem keeps_State_unreserve {s : State} {a : Nat} {n' : Nat} (k2 : Keeps q n s) :
    Keeps q n (State.unreserve s a n') := by
  unfold State.unreserve
  extract_lets -merge -useContext x5
  exact { k2 with }

theorem keeps_State_useReserved {s : State} {a : Nat} {trusted : Bool} {r : Rec} (k2 : Keeps q n s) :
    Keeps q n (State.useReserved s a trusted r).1 := by
  unfold State.useReserved
  split
  rename_i v6 v7 e8
  have k9 : Keeps q n v6 := keeps_fst e8 (by
      exact keeps_State_closeSpan k2
    )
  refine keeps_mk ?_
  refine keeps_State_write1 ?_
  exact keeps_State_unreserve k9

theorem keeps_State_refuseFull {s : State} {who : Nat} (k2 : Keeps q n s) :
    Keeps q n (State.refuseFull s who).1 := by
  unfold State.refuseFull
  extract_lets -merge -useContext x4 x5 x6 x7 x8
  have k9 : Keeps q n x7 := by
    unfold x7
    refine keeps_State_syncLedger ?_
    refine keeps_State_count ?_
    exact { k2 with }
  try clear_value x8 x7 x4
  refine keeps_ite_fst ?_ ?_
  · refine keeps_mk ?_
    refine keeps_State_syncLedger ?_
    refine keeps_State_count ?_
    exact { k2 with }
  · refine keeps_mk ?_
    exact { k9 with levels := Tbl.wf_set _ _ k9.levels }

theorem keeps_State_addTime {s : State} {p : Nat} {i : Nat} {t : Nat} (k2 : Keeps q n s) :
    Keeps q n (State.addTime s p i t) := by
  unfold State.addTime
  extract_lets -merge -useContext x6 x7
  try clear_value x7 x6
  refine keeps_State_count ?_
  exact { k2 with }

theorem keeps_State_wakeRank {s : State} {r : Nat} (k2 : Keeps q n s) :
    Keeps q n (State.wakeRank s r) := by
  unfold State.wakeRank
  extract_lets -merge -useContext x4
  try clear_value x4
  split
  · exact k2
  · refine keeps_State_addTime ?_
    exact { k2 with }

theorem keeps_State_touchRank {s : State} {pa : Nat} (k2 : Keeps q n s) :
    Keeps q n (State.touchRank s pa) := by
  unfold State.touchRank
  extract_lets -merge -useContext x4 x5 x6
  have k7 : Keeps q n x5 := by
    unfold x5
    exact keeps_State_wakeRank k2
  try clear_value x6 x5 x4
  exact { k7 with }

theorem keeps_State_chAccess {s : State} {pa : Nat} {write : Bool} (k2 : Keeps q n s) :
    Keeps q n (State.chAccess s pa write) := by
  unfold State.chAccess
  extract_lets -merge -useContext x5 x6 x7 x8 x9 x10 x11 x12
  have k13 : Keeps q n x7 := by
    unfold x7
    refine keeps_State_count ?_
    exact keeps_State_touchRank k2
  have k14 : Keeps q n x9 := by
    unfold x9
    exact keeps_ite { k13 with } k13
  have k16 : Keeps q n x10 := by
    unfold x10
    exact keeps_ite (keeps_State_count k14) k14
  try clear_value x12 x11 x10 x9 x8 x7 x6 x5
  exact { k16 with }

theorem keeps_State_refill {s : State} {o : Nat} (k2 : Keeps q n s) :
    Keeps q n (State.refill s o) := by
  unfold State.refill
  extract_lets -merge -useContext x4 x5 x6 x7 x8 x9 x10
  have k11 : Keeps q n x10 := by
    unfold x10
    exact { k2 with }
  try clear_value x10 x9 x8 x7 x6 x5 x4
  exact keeps_State_wr k11

theorem keeps_State_rebase {s : State} {o : Nat} (k2 : Keeps q n s) :
    Keeps q n (State.rebase s o) := by
  unfold State.rebase
  extract_lets -merge -useContext x4 x5
  have k6 : Keeps q n x4 := by
    unfold x4
    exact keeps_State_refill k2
  try clear_value x5 x4
  exact { k6 with }

theorem keeps_State_spend {s : State} {o : Nat} (k2 : Keeps q n s) :
    Keeps q n (State.spend s o) := by
  unfold State.spend
  extract_lets -merge -useContext x4
  have k5 : Keeps q n x4 := by
    unfold x4
    exact keeps_State_refill k2
  try clear_value x4
  exact keeps_ite k2 (keeps_State_wr k5)

theorem keeps_State_issueOut {s : State} {z3 : List (Nat × List Byte)} (k2 : Keeps q n s) :
    Keeps q n (State.issueOut s z3) := by
  induction z3 generalizing s with
  | nil => exact k2
  | cons e t ih =>
    exact ih (keeps_State_retag (keeps_State_storeDram (keeps_State_chAccess k2)))

theorem keeps_State_drainTo {s : State} {c : Nat} {keep : Nat} (k2 : Keeps q n s) :
    Keeps q n (State.drainTo s c keep) := by
  unfold State.drainTo
  extract_lets -merge -useContext x5
  try clear_value x5
  refine keeps_State_issueOut ?_
  exact keeps_State_setWq k2

theorem keeps_State_issueLine {s : State} {line : Nat} (k2 : Keeps q n s) :
    Keeps q n (State.issueLine s line) := by
  unfold State.issueLine
  extract_lets -merge -useContext x4 x5
  try clear_value x5 x4
  refine keeps_State_issueOut ?_
  exact keeps_State_setWq k2

theorem keeps_State_drainIdle {s : State} {c : Nat} (k2 : Keeps q n s) :
    Keeps q n (State.drainIdle s c) := by
  unfold State.drainIdle
  exact keeps_ite (keeps_State_drainTo k2) k2

theorem keeps_State_enqueue {s : State} {addr : Nat} {data : List Byte} (k2 : Keeps q n s) :
    Keeps q n (State.enqueue s addr data) := by
  unfold State.enqueue
  extract_lets -merge -useContext x5 x6
  have k7 : Keeps q n x6 := by
    unfold x6
    refine keeps_State_setWq ?_
    exact keeps_State_touchRank k2
  try clear_value x6 x5
  refine keeps_ite (keeps_State_issueLine k7) ?_
  refine keeps_ite ?_ (keeps_State_drainIdle k7)
  refine keeps_State_drainTo ?_
  exact keeps_State_count k7

theorem keeps_State_accrue {s : State} (k2 : Keeps q n s) :
    Keeps q n (State.accrue s) := by
  unfold State.accrue
  extract_lets -merge -useContext x3 x4 x5 x6
  have k7 : Keeps q n x3 := by
    unfold x3
    refine keeps_foldl ?_ ?_
    · exact k2
    · intro t8 i9 k10
      exact keeps_State_addTime k10
  have k11 : Keeps q n x4 := by
    unfold x4
    split
    · exact keeps_State_addTime k7
    · exact k7
  have k12 : Keeps q n x5 := by
    unfold x5
    exact keeps_ite (keeps_State_addTime k11) k11
  try clear_value x6 x5 x4 x3
  exact { k12 with }

theorem keeps_State_noteNonRt {s : State} {rt : Option Nat} (k2 : Keeps q n s) :
    Keeps q n (State.noteNonRt s rt) := by
  unfold State.noteNonRt
  extract_lets -merge -useContext x4
  try clear_value x4
  exact keeps_ite k2 { k2 with }

theorem keeps_State_put {s : State} {who : Nat} {cls : Nat} {space : Nat} {addr : Nat} {data : List Byte} {rt : Option Nat} (k2 : Keeps q n s) :
    Keeps q n (State.put s who cls space addr data rt).1 := by
  unfold State.put
  extract_lets -merge -useContext x9 x10 x11
  have k12 : Keeps q n x10 := by
    unfold x10
    exact keeps_State_noteNonRt k2
  try clear_value x11 x10 x9
  split
  · refine keeps_mk ?_
    exact k2
  · refine keeps_mk ?_
    exact keeps_State_count k2
  · refine keeps_ite_fst ?_ ?_
    · split
      · rename_i v13 v14 e15
        have k16 : Keeps q n v13 := keeps_fst e15 (by
            refine keeps_State_useInject ?_
            exact keeps_State_count k2
          )
        refine keeps_mk ?_
        exact keeps_State_count k16
      · rename_i v17 e18
        have k19 : Keeps q n v17 := keeps_fst e18 (by
            refine keeps_State_useInject ?_
            exact keeps_State_count k2
          )
        refine keeps_mk ?_
        exact keeps_State_storeVault k19
    · refine keeps_ite_fst ?_ ?_
      · refine keeps_mk ?_
        refine keeps_State_enqueue ?_
        exact keeps_State_spend k12
      · refine keeps_mk ?_
        exact { k12 with }

theorem keeps_State_msix {s : State} {a : Nat} {v : Nat} (k2 : Keeps q n s) :
    Keeps q n (State.msix s a v) := by
  unfold State.msix
  extract_lets -merge -useContext x5
  try clear_value x5
  exact keeps_ite (keeps_State_setAcct k2) (keeps_State_setAcct k2)

theorem keeps_State_setHead {s : State} {a : Nat} {q' : Nat} {v : Nat} (k2 : Keeps q n s) :
    Keeps q n (State.setHead s a q' v) := by
  unfold State.setHead
  exact keeps_State_wr k2

theorem keeps_State_setTail {s : State} {a : Nat} {q' : Nat} {v : Nat} (k2 : Keeps q n s) :
    Keeps q n (State.setTail s a q' v) := by
  unfold State.setTail
  exact keeps_State_wr k2

theorem keeps_State_qSignal {s : State} {a : Nat} {q' : Nat} (k2 : Keeps q n s) :
    Keeps q n (State.qSignal s a q') := by
  unfold State.qSignal
  extract_lets -merge -useContext x5 x6 x7
  try clear_value x7 x6 x5
  refine keeps_ite (keeps_State_setQueue k2) ?_
  refine keeps_ite ?_ (keeps_State_setQueue k2)
  refine keeps_State_msix ?_
  exact keeps_State_setQueue k2

theorem keeps_State_ringPut {s : State} {a : Nat} {q' : Nat} {cls : Nat} {bytes : List Byte} (k2 : Keeps q n s) :
    Keeps q n (State.ringPut s a q' cls bytes).1 := by
  unfold State.ringPut
  extract_lets -merge -useContext x7 x8 x9 x10 x11
  try clear_value x11 x10 x9 x8 x7
  refine keeps_ite_fst ?_ ?_
  · refine keeps_mk ?_
    exact k2
  · refine keeps_ite_fst ?_ ?_
    · refine keeps_mk ?_
      refine keeps_State_setQueue ?_
      exact keeps_State_wr k2
    · split
      · rename_i v12 v13 e14
        have k15 : Keeps q n v12 := keeps_fst e14 (by
            exact keeps_State_put k2
          )
        refine keeps_mk ?_
        exact keeps_State_wr k15
      · rename_i v16 e17
        have k18 : Keeps q n v16 := keeps_fst e17 (by
            exact keeps_State_put k2
          )
        refine keeps_mk ?_
        refine keeps_State_qSignal ?_
        refine keeps_State_count ?_
        exact keeps_State_setTail k18

theorem keeps_State_legInt {s : State} {a : Nat} {bits : Nat} (k2 : Keeps q n s) :
    Keeps q n (State.legInt s a bits) := by
  unfold State.legInt
  extract_lets -merge -useContext x5 x6 x7
  have k8 : Keeps q n x7 := by
    unfold x7
    exact keeps_State_setLeg k2
  try clear_value x7 x6 x5
  exact keeps_ite (keeps_State_msix k8) k8

theorem keeps_State_legErr {s : State} {a : Nat} {bits : Nat} (k2 : Keeps q n s) :
    Keeps q n (State.legErr s a bits) := by
  unfold State.legErr
  refine keeps_State_legInt ?_
  exact keeps_State_setLeg k2

theorem keeps_State_syncFaults {s : State} {p : Nat} (k2 : Keeps q n s) :
    Keeps q n (State.syncFaults s p) := by
  unfold State.syncFaults
  extract_lets -merge -useContext x4 x5 x6 x7 x8 x9 x10 x11 x12 x13 x14
  have k15 : Keeps q n x6 := by
    unfold x6
    exact { k2 with }
  have k17 : Keeps q n x7 := by
    unfold x7
    refine keeps_foldl ?_ ?_
    · exact k15
    · intro t18 i19 k20
      exact keeps_State_wr k20
  have k21 : Keeps q n x9 := by
    unfold x9
    exact keeps_State_wr k17
  have k22 : Keeps q n x10 := by
    unfold x10
    exact keeps_State_wr k21
  have k23 : Keeps q n x13 := by
    unfold x13
    exact keeps_ite { k22 with } k22
  have k25 : Keeps q n x14 := by
    unfold x14
    exact keeps_State_wr k23
  try clear_value x14 x13 x12 x11 x10 x9 x8 x7 x6 x5 x4
  exact keeps_ite (keeps_State_wr k25) k25

theorem keeps_State_hapOff {s : State} {h : Nat} (k2 : Keeps q n s) :
    Keeps q n (State.hapOff s h) := by
  unfold State.hapOff
  extract_lets -merge -useContext x4 x5 x6 x7
  have k8 : Keeps q n x5 := by
    unfold x5
    exact keeps_State_setHap k2
  have k9 : Keeps q n x6 := by
    unfold x6
    refine keeps_State_setReg ?_
    exact keeps_State_wr k8
  try clear_value x7 x6 x5 x4
  exact keeps_ite (keeps_State_wr k9) k9

theorem keeps_State_hapPark {s : State} {h : Nat} (k2 : Keeps q n s) :
    Keeps q n (State.hapPark s h) := by
  unfold State.hapPark
  extract_lets -merge -useContext x4 x5
  have k6 : Keeps q n x4 := by
    unfold x4
    exact keeps_State_hapOff k2
  try clear_value x5 x4
  exact keeps_State_setHap k6

theorem keeps_State_syncDevice {s : State} (k2 : Keeps q n s) :
    Keeps q n (State.syncDevice s).1 := by
  unfold State.syncDevice
  extract_lets -merge -useContext x3 x4 x5 x6 x7 x8
  have k9 : Keeps q n x5 := by
    unfold x5
    refine keeps_State_wr ?_
    exact keeps_State_wr k2
  have k10 : Keeps q n x6 := by
    unfold x6
    exact keeps_State_wr k9
  have k11 : Keeps q n x8 := by
    unfold x8
    refine keeps_ite ?_ { k10 with }
    refine keeps_foldl ?_ ?_
    · exact k10
    · intro t12 i13 k14
      exact keeps_State_hapPark k14
  try clear_value x8 x7 x6 x5 x4 x3
  refine keeps_ite_fst ?_ (keeps_State_hwRaw k11)
  refine keeps_mk ?_
  exact k9

theorem keeps_State_noteCause {s : State} {outs : List Nat} (k2 : Keeps q n s) :
    Keeps q n (State.noteCause s outs) := by
  unfold State.noteCause
  refine keeps_foldl ?_ ?_
  · exact k2
  · intro t4 i5 k6
    extract_lets -merge -useContext x7
    try clear_value x7
    exact keeps_State_setOut k6

theorem keeps_State_syncSafe {s : State} (k2 : Keeps q n s) :
    Keeps q n (State.syncSafe s) := by
  unfold State.syncSafe
  refine keeps_foldl ?_ ?_
  · exact k2
  · intro t3 i4 k5
    extract_lets -merge -useContext x6 x7
    try clear_value x7 x6
    exact keeps_ite k5 (keeps_State_setOut k5)

theorem keeps_State_syncLayer {s : State} {l : Nat} (k2 : Keeps q n s) :
    Keeps q n (State.syncLayer s l) := by
  unfold State.syncLayer
  extract_lets -merge -useContext x4 x5 x6
  try clear_value x6 x5 x4
  refine keeps_State_wr ?_
  refine keeps_State_wr ?_
  exact keeps_State_wr k2

theorem keeps_State_dropLayers {s : State} {a : Nat} (k2 : Keeps q n s) :
    Keeps q n (State.dropLayers s a) := by
  unfold State.dropLayers
  extract_lets -merge -useContext x4 x5
  have k6 : Keeps q n x5 := by
    unfold x5
    exact { k2 with }
  try clear_value x5 x4
  refine keeps_foldl ?_ ?_
  · exact k6
  · intro t8 i9 k10
    extract_lets -merge -useContext x11
    have k12 : Keeps q n x11 := by
      unfold x11
      refine keeps_foldl ?_ ?_
      · exact keeps_State_wr k10
      · intro t13 i14 k15
        exact keeps_State_wrA k15
    try clear_value x11
    refine keeps_State_syncDirty ?_
    exact keeps_State_syncLayer k12

theorem keeps_State_endFetches {s : State} {f : Cheque → Stream → Bool} (k2 : Keeps q n s) :
    Keeps q n (State.endFetches s f) := by
  unfold State.endFetches
  extract_lets -merge -useContext x4 x5 x6 x7
  try clear_value x7 x6 x5 x4
  refine keeps_foldl ?_ ?_
  · exact k2
  · intro t8 i9 k10
    split
    · exact k10
    · extract_lets -merge -useContext x11
      have k12 : Keeps q n x11 := by
        unfold x11
        exact keeps_State_setCheque k10
      try clear_value x11
      split
      · extract_lets -merge -useContext x13
        have k14 : MintOk x13 := by
          unfold x13
          exact keeps_State_mint k12
        try clear_value x13
        refine keeps_State_setMint k12 ?_
        exact { k14 with }
      · exact k12

theorem keeps_State_dropOutputEscrow {s : State} {a : Nat} (k2 : Keeps q n s) :
    Keeps q n (State.dropOutputEscrow s a) := by
  unfold State.dropOutputEscrow
  refine keeps_foldl ?_ ?_
  · exact k2
  · intro t4 i5 k6
    refine keeps_State_wr ?_
    refine keeps_foldl ?_ ?_
    · exact k6
    · intro t7 i8 k9
      refine keeps_foldl ?_ ?_
      · exact k9
      · intro t10 i11 k12
        exact keeps_State_setReg k12

theorem keeps_State_markPending {s : State} {pages : List Nat} {v : Nat} (k2 : Keeps q n s) :
    Keeps q n (State.markPending s pages v) := by
  unfold State.markPending
  refine keeps_foldl ?_ ?_
  · exact k2
  · intro t5 i6 k7
    exact keeps_State_wr k7

theorem keeps_State_syncBusy {s : State} {outs : Nat} (k2 : Keeps q n s) :
    Keeps q n (State.syncBusy s outs) := by
  unfold State.syncBusy
  refine keeps_foldl ?_ ?_
  · exact k2
  · intro t4 i5 k6
    exact keeps_State_wr k6

theorem keeps_State_dropCommits {s : State} {a : Nat} (k2 : Keeps q n s) :
    Keeps q n (State.dropCommits s a).1 := by
  unfold State.dropCommits
  extract_lets -merge -useContext x4 x5 x6 x7 x8 x9 x10 x11
  have k12 : Keeps q n x9 := by
    unfold x9
    split
    · exact keeps_ite { k2 with } k2
    · exact k2
  have k14 : Keeps q n x10 := by
    unfold x10
    exact keeps_State_setCommit k12
  have k15 : Keeps q n x11 := by
    unfold x11
    exact { k14 with heldSyn := Tbl.wf_set _ _ k14.heldSyn }
  try clear_value x11 x10 x9 x8 x7 x6 x5 x4
  refine keeps_ite_fst ?_ ?_
  · refine keeps_mk ?_
    exact k2
  · split
    extract_lets -merge -useContext x17 x18 x19 x20
    have k21 : Keeps q n x17 := by
      unfold x17
      refine keeps_State_syncBusy ?_
      exact keeps_State_markPending k15
    have k22 : Keeps q n x20 := by
      unfold x20
      exact keeps_State_setReg k21
    try clear_value x20 x19 x18 x17
    refine keeps_mk ?_
    refine keeps_foldl ?_ ?_
    · exact k22
    · intro t23 i24 k25
      refine keeps_State_write1 ?_
      exact keeps_State_unreserve k25

theorem keeps_State_markTransparent {s : State} {parent : Nat} {layer : Nat} (k2 : Keeps q n s) :
    Keeps q n (State.markTransparent s parent layer) := by
  unfold State.markTransparent
  split
  · exact k2
  · exact keeps_State_setCheque k2

theorem keeps_State_syncPress {s : State} {p : Nat} (k2 : Keeps q n s) :
    Keeps q n (State.syncPress s p) := by
  unfold State.syncPress
  extract_lets -merge -useContext x4
  try clear_value x4
  refine keeps_State_wr ?_
  refine keeps_State_wr ?_
  exact keeps_State_wr k2

theorem keeps_MintS_leave {m : MintS} {now : Nat} (k2 : MintOk m) :
    MintOk (MintS.leave m now) := by
  unfold MintS.leave
  exact { k2 with spos := Tbl.wf_nil, cell := Tbl.wf_nil }

theorem keeps_State_hwFieldRaw {s : State} {p : Nat} {f : Fld} {v : Nat} (k2 : Keeps q n s) :
    Keeps q n (State.hwFieldRaw s p f v).1 := by
  unfold State.hwFieldRaw
  extract_lets -merge -useContext x6 x7
  try clear_value x7 x6
  refine keeps_ite_fst ?_ ?_
  · refine keeps_mk ?_
    exact k2
  · split
    rename_i v8 v9 e10
    have k11 : Keeps q n v8 := keeps_fst e10 (by
        exact keeps_State_hwRaw k2
      )
    refine keeps_mk ?_
    exact keeps_State_setReg k11

theorem keeps_State_retireRaw {s : State} {m : Nat} (k2 : Keeps q n s) :
    Keeps q n (State.retireRaw s m).1 := by
  unfold State.retireRaw
  extract_lets -merge -useContext x4 x5
  have k6 : Keeps q n x5 := by
    unfold x5
    exact keeps_State_wr k2
  try clear_value x5 x4
  split
  rename_i v7 v8 e9
  have k10 : Keeps q n v7 := keeps_fst e9 (by
      exact keeps_State_hwFieldRaw k6
    )
  extract_lets -merge -useContext x11
  have k12 : MintOk x11 := by
    unfold x11
    exact keeps_State_mint k10
  try clear_value x11
  refine keeps_mk ?_
  refine keeps_State_setMint ?_ ?_
  · exact keeps_State_wr k10
  · exact { k12 with }

theorem keeps_State_leaveRaw {s : State} {m : Nat} (k2 : Keeps q n s) :
    Keeps q n (State.leaveRaw s m).1 := by
  unfold State.leaveRaw
  extract_lets -merge -useContext x4
  have k5 : Keeps q n x4 := by
    unfold x4
    refine keeps_State_setMint k2 ?_
    refine keeps_MintS_leave ?_
    exact keeps_State_mint k2
  try clear_value x4
  refine keeps_ite_fst (keeps_State_retireRaw k5) ?_
  refine keeps_mk ?_
  exact k5

theorem keeps_State_abandonRaw {s : State} {id : Nat} (k2 : Keeps q n s) :
    Keeps q n (State.abandonRaw s id).1 := by
  unfold State.abandonRaw
  split
  · refine keeps_mk ?_
    exact k2
  · extract_lets -merge -useContext x4
    have k5 : Keeps q n x4 := by
      unfold x4
      exact keeps_State_setPress k2
    try clear_value x4
    split
    rename_i v6 v7 e8
    have k9 : Keeps q n v6 := keeps_fst e8 (by
        split
        · exact keeps_State_leaveRaw k5
        · refine keeps_mk ?_
          exact k5
      )
    extract_lets -merge -useContext x10 x11
    have k12 : Keeps q n x10 := by
      unfold x10
      split
      · exact keeps_State_markTransparent k9
      · exact k9
    have k13 : Keeps q n x11 := by
      unfold x11
      split
      · extract_lets -merge -useContext x14
        try clear_value x14
        exact keeps_State_setAcct k12
      · exact k12
    try clear_value x11 x10
    refine keeps_mk ?_
    refine keeps_State_syncPress ?_
    refine keeps_State_count ?_
    exact keeps_State_setCheque k13

theorem keeps_State_abandonAll {s : State} {z3 : List Nat} (k2 : Keeps q n s) :
    Keeps q n (State.abandonAll s z3).1 := by
  induction z3 generalizing s with
  | nil => exact k2
  | cons i t ih => exact keeps_mk (ih (keeps_State_abandonRaw k2))

theorem keeps_State_dropQueues {s : State} {a : Nat} (k2 : Keeps q n s) :
    Keeps q n (State.dropQueues s a) := by
  unfold State.dropQueues
  extract_lets -merge -useContext x4 x5 x6 x7
  have k8 : Keeps q n x4 := by
    unfold x4
    exact keeps_State_overRegs k2
  have k9 : Keeps q n x5 := by
    unfold x5
    exact keeps_State_overRegs k8
  try clear_value x7 x6 x5 x4
  exact { k9 with queues := by dsimp only; exact Tbl.wf_drop _ k9.queues }

theorem keeps_State_dropJobs {s : State} {a : Nat} (k2 : Keeps q n s) :
    Keeps q n (State.dropJobs s a) := by
  unfold State.dropJobs
  extract_lets -merge -useContext x4
  have k5 : Keeps q n x4 := by
    unfold x4
    refine keeps_foldl ?_ ?_
    · exact k2
    · intro t6 i7 k8
      extract_lets -merge -useContext x9
      try clear_value x9
      split
      · refine keeps_ite ?_ k8
        refine keeps_State_wr ?_
        exact keeps_State_setEngine k8
      · exact k8
  try clear_value x4
  exact { k5 with }

theorem keeps_State_syncNs {s : State} {a : Nat} (k2 : Keeps q n s) :
    Keeps q n (State.syncNs s a) := by
  unfold State.syncNs
  extract_lets -merge -useContext x4 x5 x6 x7
  have k8 : Keeps q n x7 := by
    unfold x7
    refine keeps_State_wr ?_
    exact keeps_State_wr k2
  try clear_value x7 x6 x5 x4
  refine keeps_foldl ?_ ?_
  · exact k8
  · intro t9 i10 k11
    exact keeps_State_setReg k11

theorem keeps_State_dropMessages {s : State} {a : Nat} (k2 : Keeps q n s) :
    Keeps q n (State.dropMessages s a) := by
  unfold State.dropMessages
  extract_lets -merge -useContext x4 x5
  have k6 : Keeps q n x4 := by
    unfold x4
    refine keeps_foldl ?_ ?_
    · exact k2
    · intro t7 i8 k9
      exact keeps_State_clearSafe k9
  have k10 : Keeps q n x5 := by
    unfold x5
    exact keeps_State_syncNs k6
  try clear_value x5 x4
  refine keeps_ite ?_ k10
  refine keeps_State_syncNs ?_
  exact keeps_State_syncNs k10

theorem keeps_State_blankOwned {s : State} {a : Nat} (k2 : Keeps q n s) :
    Keeps q n (State.blankOwned s a) := by
  unfold State.blankOwned
  exact { k2 with blanked := wf_foldl _ k2.blanked fun _ _ h => Tbl.wf_set _ _ h }

theorem keeps_State_resetActions {s : State} {a : Nat} {flr : Bool} (k2 : Keeps q n s) :
    Keeps q n (State.resetActions s a flr).1 := by
  unfold State.resetActions
  extract_lets -merge -useContext x5 x6
  have k7 : Keeps q n x5 := by
    unfold x5
    refine keeps_State_endFetches ?_
    exact keeps_State_dropLayers k2
  have k8 : Keeps q n x6 := by
    unfold x6
    refine keeps_State_dropOutputEscrow ?_
    exact keeps_State_blankOwned k7
  try clear_value x6 x5
  split
  rename_i v9 v10 e11
  have k12 : Keeps q n v9 := keeps_fst e11 (by
      exact keeps_State_dropCommits k8
    )
  split
  rename_i v13 v14 e15
  have k16 : Keeps q n v13 := keeps_fst e15 (by
      exact keeps_State_abandonAll k12
    )
  extract_lets -merge -useContext x17 x18 x19 x20 x21
  have k22 : Keeps q n x17 := by
    unfold x17
    refine keeps_State_dropJobs ?_
    exact keeps_State_dropQueues k16
  have k23 : Keeps q n x18 := by
    unfold x18
    exact keeps_State_dropMessages k22
  have k24 : Keeps q n x19 := by
    unfold x19
    refine keeps_foldl ?_ ?_
    · exact k23
    · intro t25 i26 k27
      exact keeps_State_hapPark k27
  have k28 : Keeps q n x21 := by
    unfold x21
    exact keeps_ite (keeps_State_setAcct k24) k24
  try clear_value x21 x20 x19 x18 x17
  refine keeps_mk ?_
  exact k28

theorem keeps_State_setState {s : State} {a : Nat} {st : Nat} (k2 : Keeps q n s) :
    Keeps q n (State.setState s a st) := by
  unfold State.setState
  refine keeps_State_storeVault ?_
  exact keeps_State_wr k2

theorem keeps_State_beginResetFrom {s : State} {org : Nat} {cls : Nat} {a : Nat} {cause : Nat} (k2 : Keeps q n s) :
    Keeps q n (State.beginResetFrom s org cls a cause).1 := by
  unfold State.beginResetFrom
  extract_lets -merge -useContext x7
  try clear_value x7
  refine keeps_ite_fst ?_ ?_
  · refine keeps_mk ?_
    exact k2
  · split
    rename_i v8 v9 e10
    have k11 : Keeps q n v8 := keeps_fst e10 (by
        exact keeps_State_hwRec k2
      )
    split
    rename_i v12 v13 e14
    have k15 : Keeps q n v12 := keeps_fst e14 (by
        exact keeps_State_resetActions k11
      )
    extract_lets -merge -useContext x16 x17 x18
    have k19 : Keeps q n x17 := by
      unfold x17
      exact keeps_State_setAcct k15
    have k20 : Keeps q n x18 := by
      unfold x18
      refine keeps_State_setPower ?_
      refine keeps_State_wr ?_
      exact keeps_State_setState k19
    try clear_value x18 x17 x16
    refine keeps_mk ?_
    exact k20

theorem keeps_State_beginReset {s : State} {a : Nat} {cause : Nat} (k2 : Keeps q n s) :
    Keeps q n (State.beginReset s a cause).1 := by
  unfold State.beginReset
  exact keeps_State_beginResetFrom k2

theorem keeps_State_notice {s : State} {a : Nat} {kind : Nat} {old : Nat} {new : Nat} (k2 : Keeps q n s) :
    Keeps q n (State.notice s a kind old new) := by
  unfold State.notice
  extract_lets -merge -useContext x7 x8 x9 x10
  have k11 : Keeps q n x9 := by
    unfold x9
    exact keeps_State_setAcct k2
  have k12 : Keeps q n x10 := by
    unfold x10
    exact keeps_State_storeVault k11
  try clear_value x10 x9 x8 x7
  exact keeps_State_storeVault k12

theorem keeps_State_eventAct {s : State} {p : Nat} {b : Nat} (k2 : Keeps q n s) :
    Keeps q n (State.eventAct s p b).1 := by
  unfold State.eventAct
  extract_lets -merge -useContext x5 x6 x7 x8
  have k9 : Keeps q n x5 := by
    unfold x5
    exact keeps_State_wr k2
  have k10 : Keeps q n x6 := by
    unfold x6
    split
    · refine keeps_ite ?_ k9
      split
      · exact keeps_State_legInt k9
      · exact k9
    · exact k9
  have k11 : Keeps q n x8 := by
    unfold x8
    exact keeps_State_wr k10
  try clear_value x8 x7 x6 x5
  refine keeps_ite_fst ?_ ?_
  · refine keeps_mk ?_
    exact k10
  · split
    · refine keeps_mk ?_
      exact k11
    · refine keeps_mk ?_
      exact keeps_ite (keeps_State_msix k11) k11

theorem keeps_State_collect {s : State} {p : Nat} {i : Nat} (k2 : Keeps q n s) :
    Keeps q n (State.collect s p i).1 := by
  unfold State.collect
  extract_lets -merge -useContext x5 x6 x7 x8 x9 x10 x11 x12 x13 x14 x15 x16 x17 x18
  have k19 : Keeps q n x6 := by
    unfold x6
    exact { k2 with }
  have k21 : Keeps q n x7 := by
    unfold x7
    refine keeps_State_syncFaults ?_
    exact keeps_State_count k19
  have k22 : Keeps q n x8 := by
    unfold x8
    refine keeps_foldl ?_ ?_
    · exact k21
    · intro t23 i24 k25
      split
      · exact keeps_State_legErr k25
      · exact k25
  have k26 : Keeps q n x16 := by
    unfold x16
    exact keeps_ite { k22 with } k22
  have k28 : Keeps q n x17 := by
    unfold x17
    exact keeps_ite (keeps_State_noteCause k26) k26
  have k29 : Keeps q n x18 := by
    unfold x18
    exact keeps_ite (keeps_State_noteCause k28) k28
  try clear_value x18 x17 x16 x15 x14 x13 x12 x11 x10 x9 x8 x7 x6 x5
  split
  rename_i v30 v31 e32
  have k33 : Keeps q n v30 := keeps_fst e32 (by
      refine keeps_ite_fst (keeps_State_syncDevice k29) ?_
      refine keeps_mk ?_
      exact k29
    )
  refine keeps_mk ?_
  exact k33

theorem keeps_State_faultAct {s : State} {p : Nat} {i : Nat} (k2 : Keeps q n s) :
    Keeps q n (State.faultAct s p i).1 := by
  unfold State.faultAct
  refine keeps_ite_fst ?_ ?_
  · refine keeps_mk ?_
    exact k2
  · refine keeps_State_collect ?_
    exact keeps_State_wr k2

theorem keeps_State_act {s : State} {z3 : Sig} (k2 : Keeps q n s) :
    Keeps q n (State.act s z3).1 := by
  unfold State.act
  split
  · exact keeps_State_eventAct k2
  · exact keeps_State_faultAct k2
  · refine keeps_ite_fst ?_ (keeps_State_ringPut k2)
    refine keeps_mk ?_
    exact k2
  · exact keeps_State_beginReset k2
  · refine keeps_mk ?_
    exact keeps_State_notice k2

theorem keeps_State_deliver {m : Nat} {gs : List Sig} {s : State} (k2 : Keeps q n s) :
    Keeps q n (State.deliver m gs s) := by
  induction m generalizing gs s with
  | zero => exact k2
  | succ m ih =>
    cases gs with
    | nil => exact k2
    | cons g gs => exact ih (keeps_State_act k2)

theorem keeps_State_settle {r : State × List Sig} (k2 : Keeps q n r.1) :
    Keeps q n (State.settle r) := by
  unfold State.settle
  exact keeps_State_deliver k2

theorem keeps_State_abandon {s : State} {id : Nat} (k2 : Keeps q n s) :
    Keeps q n (State.abandon s id) := by
  unfold State.abandon
  refine keeps_State_settle ?_
  exact keeps_State_abandonRaw k2

theorem keeps_State_raise {s : State} {p : Nat} {b : Nat} (k2 : Keeps q n s) :
    Keeps q n (State.raise s p b) := by
  unfold State.raise
  exact keeps_State_deliver k2

theorem keeps_State_fault {s : State} {p : Nat} {i : Nat} (k2 : Keeps q n s) :
    Keeps q n (State.fault s p i) := by
  unfold State.fault
  exact keeps_State_deliver k2

theorem keeps_State_setLevel {s : State} {p : Nat} {i : Nat} {on : Bool} (k2 : Keeps q n s) :
    Keeps q n (State.setLevel s p i on) := by
  unfold State.setLevel
  extract_lets -merge -useContext x6
  have k7 : Keeps q n x6 := by
    unfold x6
    exact { k2 with levels := Tbl.wf_set _ _ k2.levels }
  try clear_value x6
  exact keeps_ite k2 (keeps_ite (keeps_State_fault k7) k7)

theorem keeps_State_hwChange {s : State} {k : Nat} {new : Word} (k2 : Keeps q n s) :
    Keeps q n (State.hwChange s k new) := by
  unfold State.hwChange
  extract_lets -merge -useContext x5
  try clear_value x5
  refine keeps_ite k2 ?_
  split
  rename_i v6 v7 e8
  have k9 : Keeps q n v6 := keeps_fst e8 (by
      exact keeps_State_hwRaw k2
    )
  refine keeps_State_settle ?_
  refine keeps_mk ?_
  exact keeps_State_setReg k9

theorem keeps_State_hwField {s : State} {p : Nat} {f : Fld} {v : Nat} {i : Nat} (k2 : Keeps q n s) :
    Keeps q n (State.hwField s p f v i) := by
  unfold State.hwField
  exact keeps_State_hwChange k2

theorem keeps_State_log {s : State} {who : Nat} {rs : List Rec} (k2 : Keeps q n s) :
    Keeps q n (State.log s who rs) := by
  unfold State.log
  refine keeps_State_settle ?_
  exact keeps_State_logRaw k2

theorem keeps_State_charge {s : State} {a : Nat} (k2 : Keeps q n s) :
    Keeps q n (State.charge s a) := by
  unfold State.charge
  refine keeps_State_fault ?_
  exact keeps_State_count k2

theorem keeps_State_raiseAll {s : State} {es : List (Nat × Nat)} (k2 : Keeps q n s) :
    Keeps q n (State.raiseAll s es) := by
  unfold State.raiseAll
  refine keeps_foldl ?_ ?_
  · exact k2
  · intro t4 i5 k6
    exact keeps_State_raise k6

theorem keeps_State_refuse {s : State} {who : Nat} {p : Nat} {off : Nat} {kind : Nat} {v : Word} (k2 : Keeps q n s) :
    Keeps q n (State.refuse s who p off kind v) := by
  unfold State.refuse
  extract_lets -merge -useContext x8 x9 x10 x11
  have k12 : Keeps q n x9 := by
    unfold x9
    refine keeps_ite (keeps_State_log k2) ?_
    refine keeps_State_settle ?_
    exact keeps_State_refuseFull k2
  have k13 : Keeps q n x10 := by
    unfold x10
    split
    · exact keeps_State_legErr k12
    · exact k12
  have k14 : Keeps q n x11 := by
    unfold x11
    exact keeps_ite (keeps_State_count k13) k13
  try clear_value x11 x10 x9 x8
  exact keeps_ite (keeps_State_fault k14) k13

theorem keeps_State_turnAway {s : State} {who : Nat} {p : Nat} {off : Nat} {v : Word} {z7 : Verdict} (k2 : Keeps q n s) :
    Keeps q n (State.turnAway s who p off v z7) := by
  unfold State.turnAway
  split
  · exact keeps_ite (keeps_State_charge k2) k2
  · exact k2
  · exact keeps_State_refuse k2
  · exact keeps_State_refuse k2
  · exact k2
  · refine keeps_State_settle ?_
    exact keeps_State_refuseFull k2
  · exact k2

theorem keeps_State_writeWith {s : State} {who : Nat} {p : Nat} {off : Nat} {value : Word} {be : BitVec 4} {data : Bool} {rule : Word → Rule} {recs : Word → List Rec} {eff : Word → State → State} (k2 : Keeps q n s) (k12 : ∀ a13 a14, Keeps q n a14 → Keeps q n (eff a13 a14)) :
    Keeps q n (State.writeWith s who p off value be data rule recs eff) := by
  unfold State.writeWith
  split
  · refine keeps_ite (k12 _ _ k2) ?_
    refine keeps_ite (keeps_State_turnAway k2) ?_
    refine k12 _ _ ?_
    exact keeps_State_log k2
  · exact keeps_State_turnAway k2

theorem keeps_State_store {s : State} {p : Nat} {off : Nat} {v : Word} (k2 : Keeps q n s) :
    Keeps q n (State.store s p off v) := by
  unfold State.store
  extract_lets -merge -useContext x6
  have k7 : Keeps q n x6 := by
    unfold x6
    exact keeps_State_setReg k2
  try clear_value x6
  split
  · exact keeps_ite (keeps_State_syncDirty k7) k7
  · exact k7

end Sys2Proof.Machine
end

