-- ==== Sys2Proof/Laws/Keeps2.lean ====
section
/-! SUPPORT. Every operation of Fabric.lean, Pixels.lean, Press.lean, Operands.lean, MintLanes.lean, MintCells.lean, Pages.lean keeps the queue, the time base and the canonical tables. -/

set_option linter.unusedVariables false

namespace Sys2Proof.Machine

variable {q : List Instr} {n : Nat}

theorem keeps_State_syncSeq {s : State} (k2 : Keeps q n s) :
    Keeps q n (State.syncSeq s) := by
  unfold State.syncSeq
  extract_lets -merge -useContext x3 x4 x5
  have k6 : Keeps q n x4 := by
    unfold x4
    exact keeps_State_wr k2
  have k7 : Keeps q n x5 := by
    unfold x5
    exact keeps_State_wr k6
  try clear_value x5 x4 x3
  exact keeps_State_wr k7

theorem keeps_State_syncNoMint {s : State} {p : Nat} (k2 : Keeps q n s) :
    Keeps q n (State.syncNoMint s p) := by
  unfold State.syncNoMint
  exact keeps_State_setLevel k2

theorem keeps_State_mintBack {s : State} {m : Nat} (k2 : Keeps q n s) :
    Keeps q n (State.mintBack s m) := by
  unfold State.mintBack
  extract_lets -merge -useContext x4
  try clear_value x4
  refine keeps_State_syncNoMint ?_
  refine keeps_State_wr ?_
  exact keeps_State_setMint k2 keeps_MintS_zero

theorem keeps_State_wakeDone {s : State} {w : Wake} (k2 : Keeps q n s) :
    Keeps q n (State.wakeDone s w) := by
  unfold State.wakeDone
  extract_lets -merge -useContext x4 x5 x6 x7
  have k8 : Keeps q n x6 := by
    unfold x6
    exact keeps_ite (keeps_State_wr k2) k2
  try clear_value x7 x6 x5 x4
  exact keeps_ite (keeps_ite (keeps_State_mintBack k2) k2) (keeps_State_setPower k8)

theorem keeps_State_avsSend {s : State} {code : Nat} (k2 : Keeps q n s) :
    Keeps q n (State.avsSend s code) := by
  unfold State.avsSend
  extract_lets -merge -useContext x4 x5 x6 x7 x8
  have k9 : Keeps q n x7 := by
    unfold x7
    refine keeps_State_wr ?_
    exact keeps_State_wr k2
  try clear_value x8 x7 x6 x5 x4
  exact { k9 with }

theorem keeps_State_avsFollow {s : State} {load : Nat → Bool} (k2 : Keeps q n s) :
    Keeps q n (State.avsFollow s load) := by
  unfold State.avsFollow
  extract_lets -merge -useContext x4 x5 x6 x7 x8
  have k9 : Keeps q n x7 := by
    unfold x7
    exact keeps_ite (keeps_State_avsSend k2) k2
  try clear_value x8 x7 x6 x5 x4
  exact keeps_ite k2 { k9 with }

theorem keeps_State_withdraw {s : State} (k2 : Keeps q n s) :
    Keeps q n (State.withdraw s) := by
  unfold State.withdraw
  extract_lets -merge -useContext x3
  try clear_value x3
  split
  · exact keeps_ite k2 { k2 with }
  · exact k2

theorem keeps_State_promoteWakes {s : State} {pages : List Nat} {deadline : Nat} (k2 : Keeps q n s) :
    Keeps q n (State.promoteWakes s pages deadline) := by
  unfold State.promoteWakes
  extract_lets -merge -useContext x5 x6
  have k7 : Keeps q n x6 := by
    unfold x6
    exact { k2 with }
  try clear_value x6 x5
  refine keeps_State_syncSeq ?_
  exact keeps_ite (keeps_State_withdraw k7) k7

theorem keeps_State_wakeAsk {s : State} {p : Nat} {cls : Nat} {deadline : Nat} (k2 : Keeps q n s) :
    Keeps q n (State.wakeAsk s p cls deadline) := by
  unfold State.wakeAsk
  extract_lets -merge -useContext x6 x7
  have k8 : Keeps q n x7 := by
    unfold x7
    exact { k2 with }
  try clear_value x7 x6
  refine keeps_ite (keeps_ite (keeps_State_promoteWakes k2) k2) ?_
  refine keeps_ite k2 ?_
  refine keeps_ite ?_ ?_
  · refine keeps_State_avsFollow ?_
    exact keeps_State_setPower k2
  · refine keeps_State_syncSeq ?_
    exact keeps_ite (keeps_State_withdraw k8) k8

theorem keeps_State_powerFollow {s : State} {p : Nat} (k2 : Keeps q n s) :
    Keeps q n (State.powerFollow s p) := by
  unfold State.powerFollow
  extract_lets -merge -useContext x4 x5 x6
  try clear_value x6 x5 x4
  refine keeps_ite (keeps_State_wakeAsk k2) ?_
  refine keeps_ite k2 ?_
  refine keeps_ite k2 ?_
  refine keeps_State_syncSeq ?_
  refine keeps_State_setPower ?_
  exact { k2 with }

theorem keeps_State_stepIssue {s : State} {w : Wake} (k2 : Keeps q n s) :
    Keeps q n (State.stepIssue s w) := by
  unfold State.stepIssue
  extract_lets -merge -useContext x4 x5 x6 x7
  have k8 : Keeps q n x6 := by
    unfold x6
    exact { k2 with }
  have k10 : Keeps q n x7 := by
    unfold x7
    refine keeps_State_syncSeq ?_
    exact keeps_ite (keeps_State_setPower k8) k8
  try clear_value x7 x6 x5 x4
  exact keeps_ite (keeps_State_avsFollow k10) k10

theorem keeps_execWakeRequest {p : Page} {cls : Fin 3} {deadline : Nat} {s : State} (k5 : Keeps q n s) :
    ∀ t, (execWakeRequest p cls deadline s) = .next t → Keeps q n t := by
  unfold execWakeRequest
  intro t e
  injection e with e
  subst e
  exact keeps_State_wakeAsk k5

theorem keeps_execSeqStepIssue {s : State} (k2 : Keeps q n s) :
    ∀ t, (execSeqStepIssue s) = .next t → Keeps q n t := by
  unfold execSeqStepIssue
  intro t e
  injection e with e
  subst e
  split
  · exact keeps_ite (keeps_State_stepIssue k2) k2
  · exact k2

theorem keeps_execSeqStepComplete {s : State} (k2 : Keeps q n s) :
    ∀ t, (execSeqStepComplete s) = .next t → Keeps q n t := by
  unfold execSeqStepComplete
  extract_lets -merge -useContext x5 x6
  have k7 : Keeps q n x6 := by
    unfold x6
    exact { k2 with }
  try clear_value x6 x5
  intro t e
  injection e with e
  subst e
  split
  · exact k2
  · extract_lets -merge -useContext x9 x10
    have k11 : Keeps q n x9 := by
      unfold x9
      split
      · refine keeps_State_setPower ?_
        exact keeps_State_wr k7
      · exact k7
    try clear_value x10 x9
    refine keeps_ite k2 ?_
    refine keeps_ite ?_ ?_
    · refine keeps_State_syncSeq ?_
      exact keeps_State_wakeDone k11
    · refine keeps_State_syncSeq ?_
      exact { k11 with }

theorem keeps_State_clrWorstWrite {s : State} {who : Nat} {value : Word} {be : BitVec 4} (k2 : Keeps q n s) :
    Keeps q n (State.clrWorstWrite s who value be) := by
  unfold State.clrWorstWrite
  refine keeps_State_writeWith k2 ?_
  intro y6 y7 k8
  exact keeps_ite (keeps_State_wr k8) k8

theorem keeps_execClrWorst {who : Actor} {s : State} (k3 : Keeps q n s) :
    ∀ t, (execClrWorst who s) = .next t → Keeps q n t := by
  unfold execClrWorst
  intro t e
  injection e with e
  subst e
  exact keeps_State_clrWorstWrite k3

theorem keeps_execAvsRecompute {s : State} (k2 : Keeps q n s) :
    ∀ t, (execAvsRecompute s) = .next t → Keeps q n t := by
  unfold execAvsRecompute
  extract_lets -merge -useContext x6 x7 x8
  have k9 : Keeps q n x7 := by
    unfold x7
    exact { k2 with }
  have k11 : Keeps q n x8 := by
    unfold x8
    refine keeps_State_wr ?_
    exact keeps_State_next k9
  try clear_value x8 x7 x6
  intro t e
  injection e with e
  subst e
  exact keeps_ite k2 (keeps_State_avsFollow k11)

theorem keeps_execAvsFallStep {s : State} (k2 : Keeps q n s) :
    ∀ t, (execAvsFallStep s) = .next t → Keeps q n t := by
  unfold execAvsFallStep
  extract_lets -merge -useContext x4
  try clear_value x4
  intro t e
  injection e with e
  subst e
  split
  · exact k2
  · extract_lets -merge -useContext x5 x6
    have k7 : Keeps q n x5 := by
      unfold x5
      exact keeps_State_avsSend k2
    try clear_value x6 x5
    exact keeps_ite k2 { k7 with }

theorem keeps_execAvsReadback {valid : Bool} {vcore : Byte} {vsram : Byte} {s : State} (k5 : Keeps q n s) :
    ∀ t, (execAvsReadback valid vcore vsram s) = .next t → Keeps q n t := by
  unfold execAvsReadback
  extract_lets -merge -useContext x12 x13 x14 x15 x16 x17
  have k18 : Keeps q n x12 := by
    unfold x12
    exact keeps_State_wr k5
  have k19 : Keeps q n x17 := by
    unfold x17
    exact { k18 with }
  try clear_value x17 x16 x15 x14 x13 x12
  intro t e
  injection e with e
  subst e
  refine keeps_ite (keeps_State_fault k5) ?_
  refine keeps_ite ?_ k19
  refine keeps_State_setLevel ?_
  exact keeps_State_hwField k19

theorem keeps_execAvsShortfall {s : State} (k2 : Keeps q n s) :
    ∀ t, (execAvsShortfall s) = .next t → Keeps q n t := by
  unfold execAvsShortfall
  extract_lets -merge -useContext x4
  try clear_value x4
  intro t e
  injection e with e
  subst e
  refine keeps_ite ?_ k2
  refine keeps_State_setLevel ?_
  exact keeps_State_hwField k2

theorem keeps_State_setMargin {s : State} {c : Nat} {m : Nat} (k2 : Keeps q n s) :
    Keeps q n (State.setMargin s c m) := by
  unfold State.setMargin
  extract_lets -merge -useContext x5
  try clear_value x5
  exact { k2 with }

theorem keeps_State_syncCanary {s : State} {x : Nat} (k2 : Keeps q n s) :
    Keeps q n (State.syncCanary s x) := by
  unfold State.syncCanary
  extract_lets -merge -useContext x4 x5 x6
  have k7 : Keeps q n x6 := by
    unfold x6
    refine keeps_State_wr ?_
    exact keeps_State_wr k2
  try clear_value x6 x5 x4
  exact keeps_State_setLevel k7

theorem keeps_State_noteReading {before : State} {s : State} {b : Nat} (k2 : Keeps q n before) (k4 : Keeps q n s) :
    Keeps q n (State.noteReading before s b) := by
  unfold State.noteReading
  extract_lets -merge -useContext x6
  try clear_value x6
  exact keeps_ite { k4 with } k4

theorem keeps_State_noteBreach {s : State} {b : Nat} (k2 : Keeps q n s) :
    Keeps q n (State.noteBreach s b) := by
  unfold State.noteBreach
  extract_lets -merge -useContext x4
  try clear_value x4
  refine keeps_State_hwField ?_
  exact { k2 with }

theorem keeps_execCanaryGuardBreach {b : Fin 32} {canary : Fin 2} {margin : BitVec 6} {s : State} (k5 : Keeps q n s) :
    ∀ t, (execCanaryGuardBreach b canary margin s) = .next t → Keeps q n t := by
  unfold execCanaryGuardBreach
  extract_lets -merge -useContext x8 x9
  have k10 : Keeps q n x9 := by
    unfold x9
    refine keeps_State_noteReading k5 ?_
    refine keeps_State_syncCanary ?_
    exact keeps_State_setMargin k5
  try clear_value x9 x8
  intro t e
  injection e with e
  subst e
  exact keeps_ite (keeps_State_noteBreach k10) k10

theorem keeps_execCanaryRecover {b : Fin 32} {m0 : BitVec 6} {m1 : BitVec 6} {s : State} (k5 : Keeps q n s) :
    ∀ t, (execCanaryRecover b m0 m1 s) = .next t → Keeps q n t := by
  unfold execCanaryRecover
  extract_lets -merge -useContext x10 x11 x12 x13
  have k14 : Keeps q n x11 := by
    unfold x11
    refine keeps_State_noteReading k5 ?_
    refine keeps_State_syncCanary ?_
    refine keeps_State_setMargin ?_
    exact keeps_State_setMargin k5
  try clear_value x13 x12 x11 x10
  intro t e
  injection e with e
  subst e
  refine keeps_ite (keeps_State_noteBreach k14) ?_
  refine keeps_ite k14 ?_
  refine keeps_ite k14 ?_
  refine keeps_State_hwField ?_
  exact { k14 with }

theorem keeps_State_setLut {s : State} {k : Nat} {v : Word} (k2 : Keeps q n s) :
    Keeps q n (State.setLut s k v) := by
  unfold State.setLut
  exact { k2 with luts := Tbl.wf_set _ _ k2.luts }

theorem keeps_State_markRetired {s : State} {m : Nat} (k2 : Keeps q n s) :
    Keeps q n (State.markRetired s m) := by
  unfold State.markRetired
  refine keeps_State_syncNoMint ?_
  refine keeps_State_settle ?_
  exact keeps_State_retireRaw k2

theorem keeps_State_leaveMint {s : State} {m : Nat} (k2 : Keeps q n s) :
    Keeps q n (State.leaveMint s m) := by
  unfold State.leaveMint
  refine keeps_State_syncPress ?_
  refine keeps_State_syncNoMint ?_
  refine keeps_State_settle ?_
  exact keeps_State_leaveRaw k2

theorem keeps_State_dropRecord {s : State} {id : Nat} (k2 : Keeps q n s) :
    Keeps q n (State.dropRecord s id) := by
  unfold State.dropRecord
  split
  · exact k2
  · split
    · extract_lets -merge -useContext x4
      try clear_value x4
      refine keeps_State_setAcct ?_
      exact keeps_State_setCheque k2
    · exact keeps_State_setCheque k2

theorem keeps_State_lateEffect {s : State} {parent : Nat} {layer : Nat} {out : Nat} (k2 : Keeps q n s) :
    Keeps q n (State.lateEffect s parent layer out) := by
  unfold State.lateEffect
  refine keeps_State_count ?_
  refine keeps_State_count ?_
  exact keeps_State_markTransparent k2

theorem keeps_State_bounceCheque {s : State} {id : Nat} (k2 : Keeps q n s) :
    Keeps q n (State.bounceCheque s id) := by
  unfold State.bounceCheque
  split
  · exact k2
  · extract_lets -merge -useContext x4
    have k5 : Keeps q n x4 := by
      unfold x4
      split
      · exact keeps_State_lateEffect k2
      · exact k2
    try clear_value x4
    refine keeps_State_fault ?_
    refine keeps_State_count ?_
    exact keeps_State_dropRecord k5

theorem keeps_State_bounce {s : State} {m : Nat} (k2 : Keeps q n s) :
    Keeps q n (State.bounce s m) := by
  unfold State.bounce
  split
  · exact k2
  · refine keeps_State_leaveMint ?_
    exact keeps_State_bounceCheque k2

theorem keeps_State_setSlow {s : State} {m : Nat} {on : Bool} (k2 : Keeps q n s) :
    Keeps q n (State.setSlow s m on) := by
  unfold State.setSlow
  extract_lets -merge -useContext x5 x6 x7
  have k8 : Keeps q n x7 := by
    unfold x7
    refine keeps_State_wr ?_
    exact keeps_State_hwField k2
  try clear_value x7 x6 x5
  exact keeps_ite k2 (keeps_ite (keeps_State_raise k8) k8)

theorem keeps_State_slowCheck {s : State} {p : Nat} (k2 : Keeps q n s) :
    Keeps q n (State.slowCheck s p) := by
  unfold State.slowCheck
  extract_lets -merge -useContext x4 x5 x6
  try clear_value x6 x5 x4
  refine keeps_foldl ?_ ?_
  · exact k2
  · intro t7 i8 k9
    extract_lets -merge -useContext x10 x11 x12 x13
    have k14 : MintOk x10 := by
      unfold x10
      exact keeps_State_mint k9
    have k15 : Keeps q n x11 := by
      unfold x11
      refine keeps_State_wr ?_
      exact keeps_State_wr k9
    have k16 : Keeps q n x13 := by
      unfold x13
      refine keeps_State_setMint k15 ?_
      exact { k14 with }
    try clear_value x13 x12 x11 x10
    exact keeps_ite (keeps_State_setSlow k16) (keeps_ite (keeps_State_setSlow k16) k16)

theorem keeps_State_skipStep {s : State} {m : Nat} (k2 : Keeps q n s) :
    Keeps q n (State.skipStep s m) := by
  unfold State.skipStep
  extract_lets -merge -useContext x4 x5 x6 x7 x8
  have k9 : Keeps q n x8 := by
    unfold x8
    refine keeps_State_syncSeq ?_
    refine keeps_foldl ?_ ?_
    · exact { k2 with }
    · intro t11 i12 k13
      exact keeps_State_wakeDone k13
  try clear_value x8 x7 x6 x5 x4
  exact keeps_ite k9 (keeps_State_avsFollow k9)

theorem keeps_State_retireMint {s : State} {m : Nat} (k2 : Keeps q n s) :
    Keeps q n (State.retireMint s m) := by
  unfold State.retireMint
  extract_lets -merge -useContext x4
  have k5 : MintOk x4 := by
    unfold x4
    exact keeps_State_mint k2
  try clear_value x4
  refine keeps_ite ?_ ?_
  · refine keeps_State_setMint k2 ?_
    exact { k5 with }
  · refine keeps_State_skipStep ?_
    exact keeps_State_markRetired k2

theorem keeps_State_unretireMint {s : State} {m : Nat} (k2 : Keeps q n s) :
    Keeps q n (State.unretireMint s m) := by
  unfold State.unretireMint
  extract_lets -merge -useContext x4 x5 x6 x7
  have k8 : MintOk x4 := by
    unfold x4
    exact keeps_State_mint k2
  have k9 : Keeps q n x5 := by
    unfold x5
    exact keeps_State_mintBack k2
  try clear_value x7 x6 x5 x4
  refine keeps_ite k2 ?_
  refine keeps_ite ?_ ?_
  · refine keeps_State_setMint k2 ?_
    exact { k8 with }
  · refine keeps_ite k2 ?_
    refine keeps_ite { k9 with } ?_
    refine keeps_ite ?_ (keeps_State_mintBack k2)
    refine keeps_State_syncSeq ?_
    exact { k2 with }

theorem keeps_State_branchWrite {s : State} {who : Nat} {b : Nat} {value : Word} {be : BitVec 4} (k2 : Keeps q n s) :
    Keeps q n (State.branchWrite s who b value be) := by
  unfold State.branchWrite
  extract_lets -merge -useContext x7 x8
  try clear_value x8 x7
  refine keeps_State_writeWith k2 ?_
  intro y9 y10 k11
  extract_lets -merge -useContext x12
  try clear_value x12
  refine keeps_foldl ?_ ?_
  · exact keeps_State_store k11
  · intro t13 i14 k15
    exact keeps_ite (keeps_State_retireMint k15) (keeps_ite (keeps_State_unretireMint k15) k15)

theorem keeps_execMintRetire {who : Actor} {m : MintId} {s : State} (k4 : Keeps q n s) :
    ∀ t, (execMintRetire who m s) = .next t → Keeps q n t := by
  unfold execMintRetire
  intro t e
  injection e with e
  subst e
  exact keeps_State_branchWrite k4

theorem keeps_execMintUnretire {who : Actor} {m : MintId} {s : State} (k4 : Keeps q n s) :
    ∀ t, (execMintUnretire who m s) = .next t → Keeps q n t := by
  unfold execMintUnretire
  intro t e
  injection e with e
  subst e
  exact keeps_State_branchWrite k4

theorem keeps_MintS_cleared {m : MintS} (k2 : MintOk m) :
    MintOk (MintS.cleared m) := by
  unfold MintS.cleared
  extract_lets -merge -useContext x3
  have k4 : MintOk x3 := by
    unfold x3
    exact keeps_MintS_zero
  try clear_value x3
  exact { k4 with }

theorem keeps_execPressClearDone {p : Fin 128} {s : State} (k3 : Keeps q n s) :
    ∀ t, (execPressClearDone p s) = .next t → Keeps q n t := by
  unfold execPressClearDone
  intro t e
  injection e with e
  subst e
  refine keeps_ite k3 ?_
  refine keeps_State_wr ?_
  refine keeps_foldl ?_ ?_
  · exact k3
  · intro t4 i5 k6
    refine keeps_State_setMint k6 ?_
    refine keeps_MintS_cleared ?_
    exact keeps_State_mint k6

theorem keeps_State_handshake {s : State} {x : Nat} {src : Nat} {req : HsReq} (k2 : Keeps q n s) :
    Keeps q n (State.handshake s x src req) := by
  unfold State.handshake
  extract_lets -merge -useContext x6
  have k7 : Keeps q n x6 := by
    unfold x6
    exact keeps_State_fault k2
  try clear_value x6
  split
  · exact keeps_ite (keeps_State_bounce k7) k7
  · exact { k7 with }

theorem keeps_execHsParity {x : Fin 4} {req : HsReq} {s : State} (k4 : Keeps q n s) :
    ∀ t, (execHsParity x req s) = .next t → Keeps q n t := by
  unfold execHsParity
  intro t e
  injection e with e
  subst e
  exact keeps_State_handshake k4

theorem keeps_execHsTimeout {x : Fin 4} {req : HsReq} {s : State} (k4 : Keeps q n s) :
    ∀ t, (execHsTimeout x req s) = .next t → Keeps q n t := by
  unfold execHsTimeout
  intro t e
  injection e with e
  subst e
  exact keeps_State_handshake k4

theorem keeps_State_pull {s : State} {m : Nat} (k2 : Keeps q n s) :
    Keeps q n (State.pull s m) := by
  unfold State.pull
  extract_lets -merge -useContext x4 x5
  have k6 : MintOk x5 := by
    unfold x5
    exact keeps_State_mint k2
  try clear_value x5 x4
  refine keeps_ite k2 ?_
  split
  · exact k2
  · split
    · exact keeps_State_setPress k2
    · exact keeps_State_syncPress (keeps_State_setMint (keeps_State_setPress k2)
        { sreg := wf_startScalars _, vreg := Tbl.wf_nil, preg := (by decide : Tbl.wf (fun _ => (0 : Word)) startPreds = true),
          code := k6.code, data := wf_putBytes _ _ k6.data, spos := Tbl.wf_nil, cell := Tbl.wf_nil })

theorem keeps_execChequePull {m : MintId} {s : State} (k3 : Keeps q n s) :
    ∀ t, (execChequePull m s) = .next t → Keeps q n t := by
  unfold execChequePull
  intro t e
  injection e with e
  subst e
  exact keeps_foldl k3 fun u j k => keeps_State_pull k

theorem keeps_MintS_setS {m : MintS} {n' : Nat} {w : Word} (k2 : MintOk m) :
    MintOk (MintS.setS m n' w) := by
  unfold MintS.setS
  exact { k2 with sreg := Tbl.wf_set _ _ k2.sreg }

theorem keeps_MintS_setP {m : MintS} {n' : Nat} {w : Word} (k2 : MintOk m) :
    MintOk (MintS.setP m n' w) := by
  unfold MintS.setP
  exact { k2 with preg := Tbl.wf_set _ _ k2.preg }

theorem keeps_MintS_setV {m : MintS} {n' : Nat} {k : Nat} {w : Word} (k2 : MintOk m) :
    MintOk (MintS.setV m n' k w) := by
  unfold MintS.setV
  exact { k2 with vreg := Tbl.wf_set _ _ k2.vreg }

theorem keeps_MintS_lanes {m : MintS} {i : MI} {f : Nat → Word} (k2 : MintOk m) :
    MintOk (MintS.lanes m i f) := by
  unfold MintS.lanes
  refine mintOk_foldl ?_ ?_
  · exact k2
  · intro t5 i6 k7
    exact keeps_MintS_setV k7

theorem keeps_MintS_setWord {m : MintS} {a : Nat} {w : Word} (k2 : MintOk m) :
    MintOk (MintS.setWord m a w) := by
  unfold MintS.setWord
  exact { k2 with data := wf_putBytes _ _ k2.data }

theorem keeps_MintS_retire {m : MintS} {lane : Nat} {pc : Nat} {now : Nat} (k2 : MintOk m) :
    MintOk (MintS.retire m lane pc now) := by
  unfold MintS.retire
  exact { k2 with }

theorem keeps_State_countOps {s : State} {m : Nat} {n' : Nat} (k2 : Keeps q n s) :
    Keeps q n (State.countOps s m n') := by
  unfold State.countOps
  exact { k2 with tally := NatTbl.wf_put _ _ k2.tally }

theorem keeps_State_storeRead {s : State} {m : Nat} (k2 : Keeps q n s) : Keeps q n (State.storeRead s m).1 := by
  unfold State.storeRead
  have k := keeps_State_useInject (p := pressPage (m / 8)) (i := 2) k2
  split <;> rename_i e <;> rw [e] at k
  · exact k
  · exact keeps_State_count k
  · exact keeps_State_bounce (keeps_State_fault k)

theorem keeps_State_runOp {s : State} {m op : Nat} {sem : MI → Cheque → MintS → Ran} (k2 : Keeps q n s)
    (k3 : ∀ i c v, MintOk v → Ran.Ok (sem i c v)) : Keeps q n (State.runOp s m op sem) := by
  unfold State.runOp
  split
  · exact k2
  · exact keeps_State_bounce k2
  · rename_i c i _
    have k5 : Ran.Ok (if overLimit (s.mint m) c i then Ran.bad else sem i c (s.mint m)) :=
      ranOk_ite trivial (k3 i c _ (keeps_State_mint k2))
    have k6 : Keeps q n (s.storeRead m).1 := keeps_State_storeRead k2
    extract_lets v
    refine keeps_ite k2 ?_
    generalize (if overLimit (s.mint m) c i then Ran.bad else sem i c (s.mint m)) = r at k5 ⊢
    split
    · exact k2
    · split
      rename_i t ok e
      rw [e] at k6
      refine keeps_ite k6 ?_
      split
      · split
        rename_i t' ok' e'
        have k7 : Keeps q n t' := keeps_fst e' (keeps_ite_fst (keeps_State_storeRead k6) k6)
        exact keeps_ite (keeps_State_countOps (keeps_State_setMint k7 (keeps_MintS_retire k5))) k7
      · exact keeps_ite (keeps_State_bounce k6) (keeps_State_setMint k6 (keeps_MintS_retire k5))
      · exact keeps_State_bounce k6

theorem keeps_State_laneOp {s : State} {m : Nat} {op : Nat} {f : MI → MintS → Nat → Word} (k2 : Keeps q n s) :
    Keeps q n (State.laneOp s m op f) := by
  unfold State.laneOp
  refine keeps_State_runOp k2 ?_
  intro y6 y7 y8 k9
  refine ranOk_go ?_
  exact keeps_MintS_lanes k9

theorem keeps_MintS_setSp {m : MintS} {n' : Nat} {v : Nat} (k2 : MintOk m) :
    MintOk (MintS.setSp m n' v) := by
  unfold MintS.setSp
  exact { k2 with spos := NatTbl.wf_put _ _ k2.spos }

theorem keeps_State_touchStream {s : State} {m : Nat} {op : Nat} (k2 : Keeps q n s) :
    Keeps q n (State.touchStream s m op) := by
  unfold State.touchStream
  split
  · split
    · exact keeps_ite (keeps_State_lateEffect k2) k2
    · exact k2
  · exact k2

theorem keeps_putComp {c : Cheque} {v : MintS} {pos k x : Nat} (k3 : MintOk v) : MintOk (putComp c v pos k x) := by
  unfold putComp
  split
  · exact { k3 with cell := Tbl.wf_set _ _ k3.cell }
  · exact k3

theorem keeps_putElem {c : Cheque} {v : MintS} {half : Nat} {e : Word} (k3 : MintOk v) :
    MintOk (putElem c v half e) := by
  unfold putElem
  extract_lets -merge -useContext x6 x7
  try clear_value x7 x6
  refine mintOk_ite ?_ ?_
  · refine keeps_putComp ?_
    refine keeps_putComp ?_
    refine keeps_putComp ?_
    exact keeps_putComp k3
  · refine mintOk_ite ?_ ?_
    · refine keeps_putComp ?_
      exact keeps_putComp k3
    · refine keeps_putComp ?_
      exact keeps_putComp k3

theorem keeps_execIadd {m : MintId} {s : State} (k3 : Keeps q n s) :
    ∀ t, (execIadd m s) = .next t → Keeps q n t := by
  unfold execIadd
  intro t e
  injection e with e
  subst e
  exact keeps_State_laneOp k3

theorem keeps_execIsub {m : MintId} {s : State} (k3 : Keeps q n s) :
    ∀ t, (execIsub m s) = .next t → Keeps q n t := by
  unfold execIsub
  intro t e
  injection e with e
  subst e
  exact keeps_State_laneOp k3

theorem keeps_execImul {m : MintId} {s : State} (k3 : Keeps q n s) :
    ∀ t, (execImul m s) = .next t → Keeps q n t := by
  unfold execImul
  intro t e
  injection e with e
  subst e
  exact keeps_State_laneOp k3

theorem keeps_execIand {m : MintId} {s : State} (k3 : Keeps q n s) :
    ∀ t, (execIand m s) = .next t → Keeps q n t := by
  unfold execIand
  intro t e
  injection e with e
  subst e
  exact keeps_State_laneOp k3

theorem keeps_execIor {m : MintId} {s : State} (k3 : Keeps q n s) :
    ∀ t, (execIor m s) = .next t → Keeps q n t := by
  unfold execIor
  intro t e
  injection e with e
  subst e
  exact keeps_State_laneOp k3

theorem keeps_execShl {m : MintId} {s : State} (k3 : Keeps q n s) :
    ∀ t, (execShl m s) = .next t → Keeps q n t := by
  unfold execShl
  intro t e
  injection e with e
  subst e
  exact keeps_State_laneOp k3

theorem keeps_execShr {m : MintId} {s : State} (k3 : Keeps q n s) :
    ∀ t, (execShr m s) = .next t → Keeps q n t := by
  unfold execShr
  intro t e
  injection e with e
  subst e
  exact keeps_State_laneOp k3

theorem keeps_execFadd {m : MintId} {s : State} (k3 : Keeps q n s) :
    ∀ t, (execFadd m s) = .next t → Keeps q n t := by
  unfold execFadd
  intro t e
  injection e with e
  subst e
  exact keeps_State_laneOp k3

theorem keeps_execFsub {m : MintId} {s : State} (k3 : Keeps q n s) :
    ∀ t, (execFsub m s) = .next t → Keeps q n t := by
  unfold execFsub
  intro t e
  injection e with e
  subst e
  exact keeps_State_laneOp k3

theorem keeps_execFmul {m : MintId} {s : State} (k3 : Keeps q n s) :
    ∀ t, (execFmul m s) = .next t → Keeps q n t := by
  unfold execFmul
  intro t e
  injection e with e
  subst e
  exact keeps_State_laneOp k3

theorem keeps_execFma {m : MintId} {s : State} (k3 : Keeps q n s) :
    ∀ t, (execFma m s) = .next t → Keeps q n t := by
  unfold execFma
  intro t e
  injection e with e
  subst e
  exact keeps_State_laneOp k3

theorem keeps_execFmin {m : MintId} {s : State} (k3 : Keeps q n s) :
    ∀ t, (execFmin m s) = .next t → Keeps q n t := by
  unfold execFmin
  intro t e
  injection e with e
  subst e
  exact keeps_State_laneOp k3

theorem keeps_execFmax {m : MintId} {s : State} (k3 : Keeps q n s) :
    ∀ t, (execFmax m s) = .next t → Keeps q n t := by
  unfold execFmax
  intro t e
  injection e with e
  subst e
  exact keeps_State_laneOp k3

theorem keeps_execFsat {m : MintId} {s : State} (k3 : Keeps q n s) :
    ∀ t, (execFsat m s) = .next t → Keeps q n t := by
  unfold execFsat
  intro t e
  injection e with e
  subst e
  exact keeps_State_laneOp k3

theorem keeps_execFrcp {m : MintId} {s : State} (k3 : Keeps q n s) :
    ∀ t, (execFrcp m s) = .next t → Keeps q n t := by
  unfold execFrcp
  intro t e
  injection e with e
  subst e
  exact keeps_State_laneOp k3

theorem keeps_execFbld {m : MintId} {s : State} (k3 : Keeps q n s) :
    ∀ t, (execFbld m s) = .next t → Keeps q n t := by
  unfold execFbld
  intro t e
  injection e with e
  subst e
  exact keeps_State_laneOp k3

theorem keeps_execBld {m : MintId} {s : State} (k3 : Keeps q n s) :
    ∀ t, (execBld m s) = .next t → Keeps q n t := by
  unfold execBld
  extract_lets -merge -useContext x5
  have k6 : Keeps q n x5 := by
    unfold x5
    exact keeps_State_touchStream k3
  try clear_value x5
  intro t e
  injection e with e
  subst e
  refine keeps_State_runOp k6 ?_
  intro y7 y8 y9 k10
  split
  · exact trivial
  · split
    · extract_lets -merge -useContext x11
      try clear_value x11
      refine ranOk_go ?_
      refine mintOk_foldl ?_ ?_
      · exact k10
      · intro t12 i13 k14
        split
        · exact keeps_MintS_setV k14
        · exact k14
    · exact trivial

theorem keeps_execHfma {m : MintId} {s : State} (k3 : Keeps q n s) :
    ∀ t, (execHfma m s) = .next t → Keeps q n t := by
  unfold execHfma
  intro t e
  injection e with e
  subst e
  exact keeps_State_laneOp k3

theorem keeps_execCvtif {m : MintId} {s : State} (k3 : Keeps q n s) :
    ∀ t, (execCvtif m s) = .next t → Keeps q n t := by
  unfold execCvtif
  intro t e
  injection e with e
  subst e
  exact keeps_State_laneOp k3

theorem keeps_execCvtfi {m : MintId} {s : State} (k3 : Keeps q n s) :
    ∀ t, (execCvtfi m s) = .next t → Keeps q n t := by
  unfold execCvtfi
  intro t e
  injection e with e
  subst e
  exact keeps_State_laneOp k3

theorem keeps_execCvthf {m : MintId} {s : State} (k3 : Keeps q n s) :
    ∀ t, (execCvthf m s) = .next t → Keeps q n t := by
  unfold execCvthf
  intro t e
  injection e with e
  subst e
  exact keeps_State_laneOp k3

theorem keeps_execCvtfh {m : MintId} {s : State} (k3 : Keeps q n s) :
    ∀ t, (execCvtfh m s) = .next t → Keeps q n t := by
  unfold execCvtfh
  intro t e
  injection e with e
  subst e
  exact keeps_State_laneOp k3

theorem keeps_execUnpk8 {m : MintId} {s : State} (k3 : Keeps q n s) :
    ∀ t, (execUnpk8 m s) = .next t → Keeps q n t := by
  unfold execUnpk8
  intro t e
  injection e with e
  subst e
  exact keeps_State_laneOp k3

theorem keeps_execPack8 {m : MintId} {s : State} (k3 : Keeps q n s) :
    ∀ t, (execPack8 m s) = .next t → Keeps q n t := by
  unfold execPack8
  intro t e
  injection e with e
  subst e
  exact keeps_State_laneOp k3

theorem keeps_State_cmpOp {s : State} {m : Nat} {op : Nat} {f : Word → Word → Option Ordering} (k2 : Keeps q n s) :
    Keeps q n (State.cmpOp s m op f) := by
  unfold State.cmpOp
  refine keeps_State_runOp k2 ?_
  intro y6 y7 y8 k9
  refine ranOk_go ?_
  exact keeps_MintS_setP k9

theorem keeps_execFcmp {m : MintId} {s : State} (k3 : Keeps q n s) :
    ∀ t, (execFcmp m s) = .next t → Keeps q n t := by
  unfold execFcmp
  intro t e
  injection e with e
  subst e
  exact keeps_State_cmpOp k3

theorem keeps_execIcmp {m : MintId} {s : State} (k3 : Keeps q n s) :
    ∀ t, (execIcmp m s) = .next t → Keeps q n t := by
  unfold execIcmp
  intro t e
  injection e with e
  subst e
  exact keeps_State_cmpOp k3

theorem keeps_execSel {m : MintId} {s : State} (k3 : Keeps q n s) :
    ∀ t, (execSel m s) = .next t → Keeps q n t := by
  unfold execSel
  intro t e
  injection e with e
  subst e
  exact keeps_State_laneOp k3

theorem keeps_execLut {m : MintId} {s : State} (k3 : Keeps q n s) :
    ∀ t, (execLut m s) = .next t → Keeps q n t := by
  unfold execLut
  intro t e
  injection e with e
  subst e
  refine keeps_State_runOp k3 ?_
  intro y4 y5 y6 k7
  extract_lets -merge -useContext x8
  try clear_value x8
  refine ranOk_ite ?_ trivial
  refine ranOk_go ?_
  exact keeps_MintS_lanes k7

theorem keeps_execLutf {m : MintId} {s : State} (k3 : Keeps q n s) :
    ∀ t, (execLutf m s) = .next t → Keeps q n t := by
  unfold execLutf
  intro t e
  injection e with e
  subst e
  refine keeps_State_runOp k3 ?_
  intro y4 y5 y6 k7
  extract_lets -merge -useContext x8 x9 x10
  try clear_value x10 x9 x8
  refine ranOk_ite ?_ trivial
  refine ranOk_go ?_
  exact keeps_MintS_lanes k7

theorem keeps_execMov {m : MintId} {s : State} (k3 : Keeps q n s) :
    ∀ t, (execMov m s) = .next t → Keeps q n t := by
  unfold execMov
  intro t e
  injection e with e
  subst e
  exact keeps_State_laneOp k3

theorem wf_composed {s : State} {c : Cheque} {v : MintS} {t : List (Nat × Word)} (h : s.composed c v = .val t) :
    Tbl.wf (fun _ => unset) t = true := by
  unfold State.composed Got.map at h
  split at h <;> cases h
  refine foldl_holds (P := fun t => Tbl.wf (fun _ => unset) t = true) _ rfl fun u x hu => ?_
  exact foldl_holds (P := fun t => Tbl.wf (fun _ => unset) t = true) _ hu fun u x hu => Tbl.wf_set _ _ hu

theorem wf_settled {s : State} {c : Cheque} {v : MintS} {t : List (Nat × Word)} (hv : MintOk v) (h : s.settled c v = .val t) :
    Tbl.wf (fun _ => unset) t = true := by
  unfold State.settled at h
  split at h
  · exact wf_composed h
  · cases h; exact hv.cell

theorem keeps_State_scalarOp {s : State} {m : Nat} {op : Nat} {f : MI → MintS → Word} (k2 : Keeps q n s) :
    Keeps q n (State.scalarOp s m op f) := by
  unfold State.scalarOp
  refine keeps_State_runOp k2 ?_
  intro y6 y7 y8 k9
  refine ranOk_go ?_
  exact keeps_MintS_setS k9

theorem keeps_execSadd {m : MintId} {s : State} (k3 : Keeps q n s) :
    ∀ t, (execSadd m s) = .next t → Keeps q n t := by
  unfold execSadd
  intro t e
  injection e with e
  subst e
  exact keeps_State_scalarOp k3

theorem keeps_execSmul {m : MintId} {s : State} (k3 : Keeps q n s) :
    ∀ t, (execSmul m s) = .next t → Keeps q n t := by
  unfold execSmul
  intro t e
  injection e with e
  subst e
  exact keeps_State_scalarOp k3

theorem keeps_execLane {m : MintId} {s : State} (k3 : Keeps q n s) :
    ∀ t, (execLane m s) = .next t → Keeps q n t := by
  unfold execLane
  intro t e
  injection e with e
  subst e
  exact keeps_State_scalarOp k3

theorem keeps_execGet {m : MintId} {s : State} (k3 : Keeps q n s) :
    ∀ t, (execGet m s) = .next t → Keeps q n t := by
  unfold execGet
  extract_lets -merge -useContext x5
  have k6 : Keeps q n x5 := by
    unfold x5
    exact keeps_State_touchStream k3
  try clear_value x5
  intro t e
  injection e with e
  subst e
  refine keeps_State_runOp k6 ?_
  intro y7 y8 y9 k10
  extract_lets -merge -useContext x11
  try clear_value x11
  split
  · exact trivial
  · extract_lets -merge -useContext x12
    try clear_value x12
    split
    · extract_lets -merge -useContext x13
      have k14 : MintOk x13 := by
        unfold x13
        refine mintOk_foldl ?_ ?_
        · exact k10
        · intro t15 i16 k17
          exact keeps_MintS_setV k17
      try clear_value x13
      refine ranOk_go ?_
      exact keeps_MintS_setSp k14
    · exact trivial

theorem keeps_execGetc {m : MintId} {s : State} (k3 : Keeps q n s) :
    ∀ t, (execGetc m s) = .next t → Keeps q n t := by
  unfold execGetc
  extract_lets -merge -useContext x5
  have k6 : Keeps q n x5 := by
    unfold x5
    exact keeps_State_touchStream k3
  try clear_value x5
  intro t e
  injection e with e
  subst e
  refine keeps_State_runOp k6 ?_
  intro y7 y8 y9 k10
  split
  · exact trivial
  · split
    · refine ranOk_go ?_
      refine mintOk_foldl ?_ ?_
      · exact k10
      · intro t11 i12 k13
        exact keeps_MintS_setV k13
    · exact trivial

theorem keeps_execPut {m : MintId} {s : State} (k3 : Keeps q n s) :
    ∀ t, (execPut m s) = .next t → Keeps q n t := by
  unfold execPut
  intro t e
  injection e with e
  subst e
  refine keeps_State_runOp k3 ?_
  intro y4 y5 y6 k7
  extract_lets -merge -useContext x8 x9
  have k10 : MintOk x9 := by
    unfold x9
    refine mintOk_foldl ?_ ?_
    · exact k7
    · intro t11 i12 k13
      exact keeps_putElem k13
  try clear_value x9 x8
  refine ranOk_ite trivial ?_
  refine ranOk_go ?_
  exact { k10 with }

theorem keeps_execPutc {m : MintId} {s : State} (k3 : Keeps q n s) :
    ∀ t, (execPutc m s) = .next t → Keeps q n t := by
  unfold execPutc
  intro t e
  injection e with e
  subst e
  refine keeps_State_runOp k3 ?_
  intro y4 y5 y6 k7
  refine ranOk_ite trivial ?_
  refine ranOk_go ?_
  refine mintOk_foldl ?_ ?_
  · exact k7
  · intro t8 i9 k10
    exact keeps_putComp k10

theorem keeps_execNext {m : MintId} {s : State} (k3 : Keeps q n s) :
    ∀ t, (execNext m s) = .next t → Keeps q n t := by
  unfold execNext
  intro t e
  injection e with e
  subst e
  refine keeps_State_runOp k3 ?_
  intro y4 y5 y6 k7
  extract_lets -merge -useContext x8
  try clear_value x8
  split
  · exact trivial
  · refine ranOk_go ?_
    exact keeps_MintS_setSp k7

theorem keeps_execNexto {m : MintId} {s : State} (k3 : Keeps q n s) :
    ∀ t, (execNexto m s) = .next t → Keeps q n t := by
  unfold execNexto
  intro t e
  injection e with e
  subst e
  refine keeps_State_runOp k3 ?_
  intro y4 y5 y6 k7
  refine ranOk_go ?_
  exact { k7 with }

theorem keeps_execSmovi {m : MintId} {s : State} (k3 : Keeps q n s) :
    ∀ t, (execSmovi m s) = .next t → Keeps q n t := by
  unfold execSmovi
  intro t e
  injection e with e
  subst e
  exact keeps_State_scalarOp k3

theorem keeps_execSaddi {m : MintId} {s : State} (k3 : Keeps q n s) :
    ∀ t, (execSaddi m s) = .next t → Keeps q n t := by
  unfold execSaddi
  intro t e
  injection e with e
  subst e
  exact keeps_State_scalarOp k3

theorem keeps_execMovh {m : MintId} {s : State} (k3 : Keeps q n s) :
    ∀ t, (execMovh m s) = .next t → Keeps q n t := by
  unfold execMovh
  intro t e
  injection e with e
  subst e
  refine keeps_State_runOp k3 ?_
  intro y4 y5 y6 k7
  refine ranOk_go ?_
  refine mintOk_foldl ?_ ?_
  · exact k7
  · intro t8 i9 k10
    exact keeps_MintS_setV k10

theorem keeps_execSetvl {m : MintId} {s : State} (k3 : Keeps q n s) :
    ∀ t, (execSetvl m s) = .next t → Keeps q n t := by
  unfold execSetvl
  intro t e
  injection e with e
  subst e
  refine keeps_State_runOp k3 ?_
  intro y4 y5 y6 k7
  refine ranOk_go ?_
  exact { k7 with }

theorem keeps_execLdv {m : MintId} {s : State} (k3 : Keeps q n s) :
    ∀ t, (execLdv m s) = .next t → Keeps q n t := by
  unfold execLdv
  intro t e
  injection e with e
  subst e
  refine keeps_State_runOp k3 ?_
  intro y4 y5 y6 k7
  refine ranOk_ite ?_ trivial
  refine ranOk_go ?_
  refine mintOk_foldl ?_ ?_
  · exact k7
  · intro t8 i9 k10
    exact keeps_MintS_setV k10

theorem keeps_execStv {m : MintId} {s : State} (k3 : Keeps q n s) :
    ∀ t, (execStv m s) = .next t → Keeps q n t := by
  unfold execStv
  intro t e
  injection e with e
  subst e
  refine keeps_State_runOp k3 ?_
  intro y4 y5 y6 k7
  refine ranOk_ite ?_ trivial
  refine ranOk_go ?_
  refine mintOk_foldl ?_ ?_
  · exact k7
  · intro t8 i9 k10
    exact keeps_MintS_setWord k10

theorem keeps_execLds {m : MintId} {s : State} (k3 : Keeps q n s) :
    ∀ t, (execLds m s) = .next t → Keeps q n t := by
  unfold execLds
  intro t e
  injection e with e
  subst e
  refine keeps_State_runOp k3 ?_
  intro y4 y5 y6 k7
  refine ranOk_ite ?_ trivial
  refine ranOk_go ?_
  exact keeps_MintS_setS k7

theorem keeps_execSts {m : MintId} {s : State} (k3 : Keeps q n s) :
    ∀ t, (execSts m s) = .next t → Keeps q n t := by
  unfold execSts
  intro t e
  injection e with e
  subst e
  refine keeps_State_runOp k3 ?_
  intro y4 y5 y6 k7
  refine ranOk_ite ?_ trivial
  refine ranOk_go ?_
  exact keeps_MintS_setWord k7

theorem keeps_State_controlOp {s : State} {m : Nat} {op : Nat} {taken : MI → MintS → Bool} {eff : MI → MintS → MintS} (k2 : Keeps q n s) (k7 : ∀ a8 a9, MintOk a9 → MintOk (eff a8 a9)) :
    Keeps q n (State.controlOp s m op taken eff) := by
  unfold State.controlOp
  refine keeps_State_runOp k2 ?_
  intro y10 y11 y12 k13
  refine ranOk_ite trivial ?_
  refine ranOk_ite ?_ ?_
  · refine ranOk_jump ?_
    exact k7 _ _ k13
  · refine ranOk_go ?_
    exact k7 _ _ k13

theorem keeps_execBr {m : MintId} {s : State} (k3 : Keeps q n s) :
    ∀ t, (execBr m s) = .next t → Keeps q n t := by
  unfold execBr
  intro t e
  injection e with e
  subst e
  refine keeps_State_controlOp k3 ?_
  intro y4 y5 k6
  exact k6

theorem keeps_execBrn {m : MintId} {s : State} (k3 : Keeps q n s) :
    ∀ t, (execBrn m s) = .next t → Keeps q n t := by
  unfold execBrn
  intro t e
  injection e with e
  subst e
  refine keeps_State_controlOp k3 ?_
  intro y4 y5 k6
  exact k6

theorem keeps_execLoop {m : MintId} {s : State} (k3 : Keeps q n s) :
    ∀ t, (execLoop m s) = .next t → Keeps q n t := by
  unfold execLoop
  intro t e
  injection e with e
  subst e
  refine keeps_State_controlOp k3 ?_
  intro y4 y5 k6
  exact keeps_MintS_setS k6

theorem keeps_State_publishEffect {s : State} {c : Cheque} {cell : List (Nat × Word)} (k2 : Keeps q n s) :
    Keeps q n (State.publishEffect s c cell) := by
  unfold State.publishEffect
  split
  · exact keeps_State_setCheque k2
  · exact k2

theorem keeps_State_touchSettle {s : State} {m : Nat} (k2 : Keeps q n s) :
    Keeps q n (State.touchSettle s m) := by
  unfold State.touchSettle
  split
  · refine keeps_ite k2 ?_
    refine keeps_foldl ?_ ?_
    · exact k2
    · intro t4 i5 k6
      exact keeps_ite (keeps_State_lateEffect k6) k6
  · exact k2

theorem keeps_execSettle {m : MintId} {s : State} (k3 : Keeps q n s) :
    ∀ t, (execSettle m s) = .next t → Keeps q n t := by
  unfold execSettle
  extract_lets -merge -useContext x6 x7
  have k8 : Keeps q n x6 := by
    unfold x6
    exact keeps_State_touchSettle k3
  have k9 : Keeps q n x7 := by
    unfold x7
    refine keeps_State_runOp k8 ?_
    intro y10 y11 y12 k13
    refine ranOk_ite trivial (ranOk_ite trivial ?_)
    refine ranOk_ite ?_ ?_
    · exact ranOk_go { k13 with }
    · split
      · rename_i cell e
        exact ranOk_go { k13 with cell := wf_settled k13 e }
      · exact trivial
  try clear_value x7 x6
  intro t e
  injection e with e
  subst e
  split
  · exact k9
  · refine keeps_ite ?_ k9
    exact keeps_State_leaveMint (keeps_State_count (keeps_State_dropRecord (keeps_State_publishEffect k9)))

theorem keeps_State_endWaits {s : State} {before : State} {id : Nat} {press : Nat} (k2 : Keeps q n s) (k4 : Keeps q n before) :
    Keeps q n (State.endWaits s before id press) := by
  unfold State.endWaits
  refine keeps_foldl ?_ ?_
  · exact k2
  · intro t7 i8 k9
    extract_lets -merge -useContext x10 x11
    have k12 : MintOk x11 := by
      unfold x11
      exact keeps_State_mint k9
    try clear_value x11 x10
    refine keeps_ite ?_ k9
    refine keeps_State_setMint k9 ?_
    exact { k12 with }

theorem keeps_execMintStuck {m : MintId} {s : State} (k3 : Keeps q n s) :
    ∀ t, (execMintStuck m s) = .next t → Keeps q n t := by
  unfold execMintStuck
  extract_lets -merge -useContext x11 x12 x13 x14 x15 x16 x17
  have k18 : Keeps q n x14 := by
    unfold x14
    exact keeps_State_hwChange k3
  have k19 : Keeps q n x15 := by
    unfold x15
    refine keeps_State_wr ?_
    exact keeps_State_wr k18
  have k20 : MintOk x16 := by
    unfold x16
    refine keeps_MintS_leave ?_
    exact keeps_State_mint k19
  have k21 : Keeps q n x17 := by
    unfold x17
    refine keeps_State_setMint k19 ?_
    exact { k20 with }
  try clear_value x17 x16 x15 x14 x13 x12 x11
  intro t e
  injection e with e
  subst e
  refine keeps_ite k3 ?_
  split
  · exact k3
  · extract_lets -merge -useContext x23 x24
    have k25 : Keeps q n x24 := by
      unfold x24
      refine keeps_ite (keeps_State_bounceCheque k21) ?_
      split
      · refine keeps_State_count ?_
        refine keeps_State_setPress ?_
        exact keeps_State_setCheque k21
      · exact k21
    try clear_value x24 x23
    refine keeps_State_syncNoMint ?_
    refine keeps_State_raise ?_
    refine keeps_State_fault ?_
    exact keeps_State_syncPress k25

theorem keeps_State_syncCaps {s : State} {n' : Nat} (k2 : Keeps q n s) :
    Keeps q n (State.syncCaps s n') := by
  unfold State.syncCaps
  exact keeps_State_wr k2

theorem keeps_State_pendingWrite {s : State} {who : Nat} {p : Nat} {value : Word} {be : BitVec 4} {recur : Word} (k2 : Keeps q n s) :
    Keeps q n (State.pendingWrite s who p value be recur) := by
  unfold State.pendingWrite
  extract_lets -merge -useContext x8 x9
  have k10 : Keeps q n x9 := by
    unfold x9
    refine keeps_State_writeWith k2 ?_
    intro y11 y12 k13
    extract_lets -merge -useContext x14
    try clear_value x14
    refine keeps_State_setReg ?_
    exact keeps_State_setReg k13
  try clear_value x9 x8
  exact keeps_State_raiseAll k10

theorem keeps_execEvtPendingClear {who : Actor} {p : Page} {bits : Word} {recur : Word} {s : State} (k6 : Keeps q n s) :
    ∀ t, (execEvtPendingClear who p bits recur s) = .next t → Keeps q n t := by
  unfold execEvtPendingClear
  intro t e
  injection e with e
  subst e
  exact keeps_State_pendingWrite k6

theorem keeps_State_afterClear {s : State} {p : Nat} (k2 : Keeps q n s) :
    Keeps q n (State.afterClear s p) := by
  unfold State.afterClear
  refine keeps_State_syncSafe ?_
  refine keeps_State_settle ?_
  refine keeps_State_syncDevice ?_
  exact keeps_State_syncFaults k2

theorem keeps_State_clearBits {s : State} {who : Nat} {p : Nat} {bits : Nat} (k2 : Keeps q n s) :
    Keeps q n (State.clearBits s who p bits) := by
  unfold State.clearBits
  extract_lets -merge -useContext x6 x7
  have k8 : Keeps q n x7 := by
    unfold x7
    exact keeps_State_log k2
  try clear_value x7 x6
  refine keeps_State_afterClear ?_
  exact keeps_State_wr k8

theorem keeps_State_stickyWrite {s : State} {who : Nat} {p : Nat} {value : Word} {be : BitVec 4} {recur : Nat} (k2 : Keeps q n s) :
    Keeps q n (State.stickyWrite s who p value be recur) := by
  unfold State.stickyWrite
  extract_lets -merge -useContext x8 x9 x10 x11 x12
  have k13 : Keeps q n x11 := by
    unfold x11
    exact keeps_ite (keeps_State_refuse k2) k2
  have k14 : Keeps q n x12 := by
    unfold x12
    refine keeps_ite k2 ?_
    refine keeps_ite (keeps_State_turnAway k2) ?_
    refine keeps_ite (keeps_State_refuse k2) ?_
    refine keeps_ite k13 ?_
    refine keeps_ite ?_ (keeps_State_clearBits k13)
    refine keeps_State_settle ?_
    exact keeps_State_refuseFull k13
  try clear_value x12 x11 x10 x9 x8
  refine keeps_foldl ?_ ?_
  · exact k14
  · intro t15 i16 k17
    exact keeps_State_fault k17

theorem keeps_execFaultClear {who : Actor} {p : Page} {bits : BitVec 16} {recur : BitVec 16} {s : State} (k6 : Keeps q n s) :
    ∀ t, (execFaultClear who p bits recur s) = .next t → Keeps q n t := by
  unfold execFaultClear
  intro t e
  injection e with e
  subst e
  exact keeps_State_stickyWrite k6

theorem keeps_State_injectWrite {s : State} {who : Nat} {p : Nat} {value : Word} {be : BitVec 4} (k2 : Keeps q n s) :
    Keeps q n (State.injectWrite s who p value be) := by
  unfold State.injectWrite
  refine keeps_State_writeWith k2 ?_
  intro y7 y8 k9
  exact keeps_State_store k9

theorem keeps_execFltInjectArm {who : Actor} {p : Page} {source : Fin 16} {counted : Bool} {count : BitVec 16} {s : State} (k7 : Keeps q n s) :
    ∀ t, (execFltInjectArm who p source counted count s) = .next t → Keeps q n t := by
  unfold execFltInjectArm
  intro t e
  injection e with e
  subst e
  exact keeps_State_injectWrite k7

theorem keeps_State_latch {s : State} {p : Nat} (k2 : Keeps q n s) :
    Keeps q n (State.latch s p) := by
  unfold State.latch
  extract_lets -merge -useContext x4 x5
  have k6 : Keeps q n x4 := by
    unfold x4
    exact keeps_ite (keeps_State_accrue k2) k2
  have k7 : Keeps q n x5 := by
    unfold x5
    refine keeps_foldl ?_ ?_
    · exact k6
    · intro t8 i9 k10
      split
      extract_lets -merge -useContext x11
      have k12 : Keeps q n x11 := by
        unfold x11
        exact keeps_State_wr k10
      try clear_value x11
      exact { k12 with tally := NatTbl.wf_put _ _ k10.tally }
  try clear_value x5 x4
  exact keeps_ite k7 (keeps_State_wr k7)

theorem keeps_execTallyLatch {p : Page} {s : State} (k3 : Keeps q n s) :
    ∀ t, (execTallyLatch p s) = .next t → Keeps q n t := by
  unfold execTallyLatch
  extract_lets -merge -useContext x6 x7
  have k8 : Keeps q n x6 := by
    unfold x6
    exact keeps_State_latch k3
  have k9 : Keeps q n x7 := by
    unfold x7
    exact { k8 with ticked := NatTbl.wf_put _ _ k3.ticked }
  try clear_value x7 x6
  intro t e
  injection e with e
  subst e
  refine keeps_ite k3 ?_
  split
  · exact keeps_ite (keeps_State_slowCheck k9) k9
  · exact k9

end Sys2Proof.Machine
end

