-- ==== Sys2Proof/Laws/Keeps3.lean ====
section
/-! SUPPORT. Every operation of Commit.lean, Checks.lean, Links.lean, Timing.lean, Vault.lean keeps the queue, the time base and the canonical tables. -/

set_option linter.unusedVariables false

namespace Sys2Proof.Machine

variable {q : List Instr} {n : Nat}

theorem keeps_State_touch {s : State} {n' : Nat} (k2 : Keeps q n s) :
    Keeps q n (State.touch s n') := by
  unfold State.touch
  extract_lets -merge -useContext x4 x5 x6 x7
  have k8 : Keeps q n x6 := by
    unfold x6
    exact keeps_State_setOut k2
  have k9 : Keeps q n x7 := by
    unfold x7
    exact keeps_State_setOut k8
  try clear_value x7 x6 x5 x4
  refine keeps_ite k2 ?_
  refine keeps_ite k8 ?_
  refine keeps_foldl ?_ ?_
  · exact k9
  · intro t10 i11 k12
    exact keeps_ite (keeps_State_wakeAsk k12) k12

theorem keeps_State_endRebuild {s : State} {outs : Nat} {since : Nat} (k2 : Keeps q n s) :
    Keeps q n (State.endRebuild s outs since) := by
  unfold State.endRebuild
  refine keeps_State_syncBusy ?_
  refine keeps_foldl ?_ ?_
  · exact k2
  · intro t5 i6 k7
    extract_lets -merge -useContext x8 x9
    have k10 : Keeps q n x8 := by
      unfold x8
      exact keeps_State_wr k7
    try clear_value x9 x8
    exact keeps_State_setOut k10

theorem keeps_State_outcome {s : State} {a : Nat} {b : Nat} (k2 : Keeps q n s) :
    Keeps q n (State.outcome s a b) := by
  unfold State.outcome
  refine keeps_State_settle ?_
  refine keeps_mk ?_
  exact keeps_State_raise k2

theorem keeps_State_commitEntry {s : State} {a : Nat} {kind : Nat} {detail : Nat} {old : Nat} {new : Nat} (k2 : Keeps q n s) :
    Keeps q n (State.commitEntry s a kind detail old new) := by
  unfold State.commitEntry
  refine keeps_State_settle ?_
  exact keeps_State_useReserved k2

theorem keeps_State_refuseCommit {s : State} {a : Nat} {c : Commit} {reason : Nat} {page : Nat} (k2 : Keeps q n s) :
    Keeps q n (State.refuseCommit s a c reason page) := by
  unfold State.refuseCommit
  extract_lets -merge -useContext x7 x8 x9 x10
  have k11 : Keeps q n x9 := by
    unfold x9
    refine keeps_State_setCommit ?_
    exact keeps_State_commitEntry k2
  have k12 : Keeps q n x10 := by
    unfold x10
    refine keeps_State_wr ?_
    refine keeps_State_wr ?_
    refine keeps_State_wr ?_
    refine keeps_State_wr ?_
    exact keeps_State_wr k11
  try clear_value x10 x9 x8 x7
  refine keeps_State_outcome ?_
  refine keeps_State_count ?_
  refine keeps_State_markPending ?_
  exact keeps_State_wr k12

theorem keeps_State_finishCommit {s : State} {a : Nat} {c : Commit} (k2 : Keeps q n s) :
    Keeps q n (State.finishCommit s a c) := by
  unfold State.finishCommit
  refine keeps_State_outcome ?_
  refine keeps_State_markPending ?_
  refine keeps_State_wr ?_
  exact keeps_State_setCommit k2

theorem keeps_State_afterApply {s : State} {pages : List Nat} (k2 : Keeps q n s) :
    Keeps q n (State.afterApply s pages) := by
  unfold State.afterApply
  refine keeps_State_syncSafe ?_
  refine keeps_foldl ?_ ?_
  · exact k2
  · intro t4 i5 k6
    extract_lets -merge -useContext x7
    have k8 : Keeps q n x7 := by
      unfold x7
      exact keeps_State_syncDirty k6
    try clear_value x7
    split
    · exact keeps_State_syncLayer k8
    · exact keeps_State_wr k8
    · exact keeps_State_syncCaps k8
    · exact k8

theorem keeps_State_applyVals {s : State} {scenes : List Nat} {vals : List (Nat × Word)} (k2 : Keeps q n s) :
    Keeps q n (State.applyVals s scenes vals) := by
  unfold State.applyVals
  refine keeps_foldl ?_ ?_
  · exact k2
  · intro t5 i6 k7
    refine keeps_foldl ?_ ?_
    · exact k7
    · intro t8 i9 k10
      exact keeps_State_setAppl k10

theorem keeps_State_setRoutines {s : State} {n' : Nat} {routs : List (Nat × Routine)} (k2 : Keeps q n s) :
    Keeps q n (State.setRoutines s n' routs) := by
  unfold State.setRoutines
  refine keeps_foldl ?_ ?_
  · exact k2
  · intro t5 i6 k7
    exact { k7 with routines := Tbl.wf_set _ _ k7.routines }

theorem keeps_State_recordCommit {s : State} {a : Nat} {old : Nat} {gen : Nat} (k2 : Keeps q n s) :
    Keeps q n (State.recordCommit s a old gen) := by
  unfold State.recordCommit
  extract_lets -merge -useContext x6 x7 x8
  have k9 : Keeps q n x6 := by
    unfold x6
    exact keeps_State_commitEntry k2
  have k10 : Keeps q n x8 := by
    unfold x8
    exact { k9 with }
  try clear_value x8 x7 x6
  split
  · exact keeps_ite (keeps_State_setCommit k10) k10
  · exact k10

theorem keeps_State_applyAtOnce {s : State} {a : Nat} {c : Commit} {stay : List Nat} (k2 : Keeps q n s) :
    Keeps q n (State.applyAtOnce s a c stay) := by
  unfold State.applyAtOnce
  extract_lets -merge -useContext x6 x7 x8
  have k9 : Keeps q n x6 := by
    unfold x6
    refine keeps_foldl ?_ ?_
    · exact k2
    · intro t10 i11 k12
      split
      exact keeps_State_applyVals k12
  have k13 : Keeps q n x8 := by
    unfold x8
    refine keeps_foldl ?_ ?_
    · exact k9
    · intro t14 i15 k16
      extract_lets -merge -useContext x17
      have k18 : Keeps q n x17 := by
        unfold x17
        exact keeps_State_setRoutines k16
      try clear_value x17
      exact keeps_ite (keeps_State_wr k18) k18
  try clear_value x8 x7 x6
  exact keeps_State_afterApply k13

theorem keeps_State_admitCommit {s : State} {a : Nat} {c : Commit} {notBefore : Nat} (k2 : Keeps q n s) :
    Keeps q n (State.admitCommit s a c notBefore) := by
  unfold State.admitCommit
  extract_lets -merge -useContext x6 x7 x8 x9 x10 x11 x12 x13 x14
  have k15 : Keeps q n x10 := by
    unfold x10
    refine keeps_State_setCommit ?_
    refine keeps_State_count ?_
    refine keeps_State_wr ?_
    refine keeps_State_wr ?_
    refine keeps_State_wr ?_
    exact keeps_State_wr k2
  have k16 : Keeps q n x12 := by
    unfold x12
    exact { k15 with }
  have k18 : Keeps q n x13 := by
    unfold x13
    exact keeps_ite (keeps_State_recordCommit k16) k16
  have k19 : Keeps q n x14 := by
    unfold x14
    exact keeps_State_applyAtOnce k18
  try clear_value x14 x13 x12 x11 x10 x9 x8 x7 x6
  refine keeps_ite ?_ k19
  split
  · exact keeps_State_finishCommit k19
  · exact k19

theorem keeps_State_sendToken {s : State} {y : SynTarget} {outcome : Nat} (k2 : Keeps q n s) :
    Keeps q n (State.sendToken s y outcome) := by
  unfold State.sendToken
  extract_lets -merge -useContext x5 x6
  try clear_value x6 x5
  exact { k2 with }

theorem keeps_State_synMismatch {s : State} {a : Nat} (k2 : Keeps q n s) :
    Keeps q n (State.synMismatch s a) := by
  unfold State.synMismatch
  refine keeps_State_fault ?_
  exact keeps_State_raise k2

theorem keeps_State_noteActed {s : State} {a : Nat} {y : SynTarget} {applied : Bool} (k2 : Keeps q n s) :
    Keeps q n (State.noteActed s a y applied) := by
  unfold State.noteActed
  extract_lets -merge -useContext x6 x7
  have k8 : Keeps q n x7 := by
    unfold x7
    exact { k2 with }
  try clear_value x7 x6
  exact keeps_ite (keeps_State_synMismatch k8) k8

theorem keeps_State_refuseSyn {s : State} {a : Nat} {c : Commit} {y : SynTarget} (k2 : Keeps q n s) :
    Keeps q n (State.refuseSyn s a c y) := by
  unfold State.refuseSyn
  extract_lets -merge -useContext x6
  have k7 : Keeps q n x6 := by
    unfold x6
    refine keeps_State_refuseCommit ?_
    exact keeps_State_noteActed k2
  try clear_value x6
  exact keeps_ite k7 (keeps_State_endRebuild k7)

theorem keeps_State_passCommit {s : State} {a : Nat} {c : Commit} (k2 : Keeps q n s) :
    Keeps q n (State.passCommit s a c) := by
  unfold State.passCommit
  split
  · refine keeps_ite ?_ ?_
    · refine keeps_State_refuseSyn ?_
      exact keeps_State_sendToken k2
    · refine keeps_State_setCommit ?_
      exact keeps_State_sendToken k2
  · exact keeps_State_admitCommit k2

theorem keeps_State_decided {s : State} {a : Nat} {c : Commit} {z5 : Option (Nat × Nat)} (k2 : Keeps q n s) :
    Keeps q n (State.decided s a c z5) := by
  unfold State.decided
  extract_lets -merge -useContext x6
  have k7 : Keeps q n x6 := by
    unfold x6
    split
    · refine keeps_State_noteActed ?_
      exact keeps_State_sendToken k2
    · exact k2
  try clear_value x6
  split
  · exact keeps_State_refuseCommit k7
  · exact keeps_State_passCommit k2

theorem keeps_State_decideCommit {s : State} {a : Nat} {c : Commit} (k2 : Keeps q n s) :
    Keeps q n (State.decideCommit s a c) := by
  unfold State.decideCommit
  refine keeps_State_endRebuild ?_
  exact keeps_State_decided k2

theorem keeps_State_take {s : State} {a : Nat} {syn : Bool} (k2 : Keeps q n s) :
    Keeps q n (State.take s a syn) := by
  unfold State.take
  extract_lets -merge -useContext x5 x6 x7 x8 x9 x10 x11 x12 x13 x14 x15
  have k16 : Keeps q n x12 := by
    unfold x12
    refine keeps_State_setCommit ?_
    exact { k2 with }
  have k18 : Keeps q n x13 := by
    unfold x13
    refine keeps_State_wr ?_
    refine keeps_State_wr ?_
    exact keeps_State_wr k16
  have k19 : Keeps q n x14 := by
    unfold x14
    refine keeps_State_syncBusy ?_
    exact keeps_State_markPending k18
  have k20 : Keeps q n x15 := by
    unfold x15
    refine keeps_foldl ?_ ?_
    · exact k19
    · intro t21 i22 k23
      exact keeps_State_touch k23
  try clear_value x15 x14 x13 x12 x11 x10 x9 x8 x7 x6 x5
  exact keeps_ite (keeps_State_decideCommit k20) k20

theorem keeps_State_commitWrite {s : State} {who : Nat} {a : Nat} {value : Word} {be : BitVec 4} (k2 : Keeps q n s) :
    Keeps q n (State.commitWrite s who a value be) := by
  unfold State.commitWrite
  extract_lets -merge -useContext x7
  try clear_value x7
  refine keeps_State_writeWith k2 ?_
  intro y8 y9 k10
  extract_lets -merge -useContext x11 x12 x13
  have k14 : Keeps q n x12 := by
    unfold x12
    refine keeps_State_settle ?_
    exact keeps_State_reserve k10
  have k15 : Keeps q n x13 := by
    unfold x13
    refine keeps_State_count ?_
    exact keeps_State_wr k14
  try clear_value x13 x12 x11
  exact keeps_ite k10 (keeps_ite { k15 with heldSyn := Tbl.wf_set _ _ k14.heldSyn } (keeps_State_take k14))

theorem keeps_execCommit {who : Actor} {a : Acct} {s : State} (k4 : Keeps q n s) :
    ∀ t, (execCommit who a s) = .next t → Keeps q n t := by
  unfold execCommit
  intro t e
  injection e with e
  subst e
  exact keeps_State_commitWrite k4

theorem keeps_execSyndicateCommit {who : Actor} {a : Acct} {s : State} (k4 : Keeps q n s) :
    ∀ t, (execSyndicateCommit who a s) = .next t → Keeps q n t := by
  unfold execSyndicateCommit
  intro t e
  injection e with e
  subst e
  exact keeps_State_commitWrite k4

theorem keeps_execHeldCommitTake {a : Acct} {s : State} (k3 : Keeps q n s) :
    ∀ t, (execHeldCommitTake a s) = .next t → Keeps q n t := by
  unfold execHeldCommitTake
  extract_lets -merge -useContext x6 x7
  try clear_value x7 x6
  intro t e
  injection e with e
  subst e
  refine keeps_ite k3 ?_
  refine keeps_State_take ?_
  refine keeps_State_wr ?_
  exact { k3 with heldSyn := Tbl.wf_set _ _ k3.heldSyn }

theorem keeps_execRebuildDone {a : Acct} {s : State} (k3 : Keeps q n s) :
    ∀ t, (execRebuildDone a s) = .next t → Keeps q n t := by
  unfold execRebuildDone
  intro t e
  injection e with e
  subst e
  split
  · exact keeps_ite (keeps_State_decideCommit k3) k3
  · exact k3

theorem keeps_State_maybeFinish {s : State} {a : Nat} {gen : Nat} (k2 : Keeps q n s) :
    Keeps q n (State.maybeFinish s a gen) := by
  unfold State.maybeFinish
  split
  · exact keeps_ite (keeps_State_finishCommit k2) k2
  · exact k2

theorem keeps_State_applyWait {s : State} {w : Waiting} {hw : Bool} (k2 : Keeps q n s) :
    Keeps q n (State.applyWait s w hw) := by
  unfold State.applyWait
  extract_lets -merge -useContext x5 x6 x7 x8 x9 x10 x11 x12
  have k13 : Keeps q n x6 := by
    unfold x6
    exact keeps_ite k2 (keeps_State_recordCommit k2)
  have k14 : Keeps q n x8 := by
    unfold x8
    refine keeps_State_setRoutines ?_
    exact keeps_State_applyVals k13
  have k15 : Keeps q n x9 := by
    unfold x9
    refine keeps_foldl ?_ ?_
    · exact k14
    · intro t16 i17 k18
      exact keeps_State_wr k18
  have k19 : Keeps q n x10 := by
    unfold x10
    exact { k15 with blanked := Tbl.wf_set _ _ k15.blanked }
  have k21 : Keeps q n x12 := by
    unfold x12
    exact keeps_ite (keeps_State_hwField k19) (keeps_State_wr k19)
  try clear_value x12 x11 x10 x9 x8 x7 x6 x5
  refine keeps_State_maybeFinish ?_
  exact keeps_State_afterApply k21

theorem keeps_State_meetBoundary {s : State} {n' : Nat} {a : Nat} (k2 : Keeps q n s) :
    Keeps q n (State.meetBoundary s n' a) := by
  unfold State.meetBoundary
  split
  · exact k2
  · extract_lets -merge -useContext x5 x6
    have k7 : Keeps q n x6 := by
      unfold x6
      exact keeps_ite k2 (keeps_State_setCommit k2)
    try clear_value x6 x5
    refine keeps_ite k2 ?_
    refine keeps_ite ?_ k7
    refine keeps_State_raise ?_
    exact keeps_State_count k7

theorem keeps_State_applyCommits {s : State} {n' : Nat} (k2 : Keeps q n s) :
    Keeps q n (State.applyCommits s n') := by
  unfold State.applyCommits
  extract_lets -merge -useContext x4 x5 x6
  have k7 : Keeps q n x4 := by
    unfold x4
    refine keeps_foldl ?_ ?_
    · exact k2
    · intro t8 i9 k10
      exact keeps_State_meetBoundary k10
  have k11 : Keeps q n x6 := by
    unfold x6
    refine keeps_foldl ?_ ?_
    · exact k7
    · intro t12 i13 k14
      split
      · exact keeps_State_applyWait k14
      · exact k14
  try clear_value x6 x5 x4
  refine keeps_ite k11 ?_
  refine keeps_foldl ?_ ?_
  · exact keeps_State_touch k11
  · intro t15 i16 k17
    exact keeps_State_raise k17

theorem keeps_execMemberLate {a : Acct} {o : Out} {s : State} (k4 : Keeps q n s) :
    ∀ t, (execMemberLate a o s) = .next t → Keeps q n t := by
  unfold execMemberLate
  extract_lets -merge -useContext x6
  try clear_value x6
  intro t e
  injection e with e
  subst e
  split
  · exact k4
  · extract_lets -merge -useContext x7 x8 x9 x10
    have k11 : Keeps q n x8 := by
      unfold x8
      refine keeps_foldl ?_ ?_
      · exact k4
      · intro t12 i13 k14
        exact keeps_State_applyVals k14
    have k15 : Keeps q n x9 := by
      unfold x9
      exact { k11 with }
    have k17 : Keeps q n x10 := by
      unfold x10
      refine keeps_State_hwField ?_
      exact keeps_State_wr k15
    try clear_value x10 x9 x8 x7
    split
    · exact k4
    · refine keeps_ite k4 ?_
      refine keeps_State_maybeFinish ?_
      refine keeps_State_raise ?_
      exact keeps_State_count k17

theorem keeps_State_applyLegs {s : State} {n' : Nat} {all : Bool} (k2 : Keeps q n s) :
    Keeps q n (State.applyLegs s n' all) := by
  unfold State.applyLegs
  extract_lets -merge -useContext x5 x6
  try clear_value x6 x5
  refine keeps_ite k2 ?_
  refine keeps_State_afterApply ?_
  refine keeps_State_applyVals ?_
  exact { k2 with }

theorem keeps_State_departCommits {s : State} {n' : Nat} (k2 : Keeps q n s) :
    Keeps q n (State.departCommits s n') := by
  unfold State.departCommits
  extract_lets -merge -useContext x4 x5
  have k6 : Keeps q n x5 := by
    unfold x5
    refine keeps_State_applyLegs ?_
    refine keeps_foldl ?_ ?_
    · exact k2
    · intro t7 i8 k9
      split
      · exact keeps_State_applyWait k9
      · exact k9
  try clear_value x5 x4
  refine keeps_foldl ?_ ?_
  · exact k6
  · intro t10 i11 k12
    extract_lets -merge -useContext x13
    try clear_value x13
    split
    · extract_lets -merge -useContext x14
      have k15 : Keeps q n x14 := by
        unfold x14
        exact keeps_State_setCommit k12
      try clear_value x14
      exact keeps_ite (keeps_ite (keeps_State_hwField k15) k15) k12
    · exact k12

theorem keeps_State_synDecide {s : State} {a : Nat} (k2 : Keeps q n s) :
    Keeps q n (State.synDecide s a) := by
  unfold State.synDecide
  split
  · exact k2
  · split
    · exact k2
    · refine keeps_ite k2 ?_
      refine keeps_ite ?_ ?_
      · refine keeps_State_admitCommit ?_
        exact keeps_State_noteActed k2
      · refine keeps_ite ?_ k2
        refine keeps_State_refuseSyn ?_
        exact keeps_ite k2 (keeps_State_sendToken k2)

theorem keeps_execSyndicateDecide {a : Acct} {s : State} (k3 : Keeps q n s) :
    ∀ t, (execSyndicateDecide a s) = .next t → Keeps q n t := by
  unfold execSyndicateDecide
  intro t e
  injection e with e
  subst e
  exact keeps_State_synDecide k3

theorem keeps_State_synBoundaries {s : State} {n' : Nat} (k2 : Keeps q n s) :
    Keeps q n (State.synBoundaries s n') := by
  unfold State.synBoundaries
  refine keeps_foldl ?_ ?_
  · exact k2
  · intro t4 i5 k6
    split
    · exact keeps_ite (keeps_State_synDecide k6) k6
    · exact k6

theorem keeps_State_chkEnd {s : State} {n' : Nat} (k2 : Keeps q n s) :
    Keeps q n (State.chkEnd s n') := by
  unfold State.chkEnd
  extract_lets -merge -useContext x4 x5
  try clear_value x5 x4
  refine keeps_ite k2 ?_
  split
  extract_lets -merge -useContext x6 x7
  have k8 : Keeps q n x6 := by
    unfold x6
    refine keeps_State_wr ?_
    exact keeps_State_wr k2
  have k9 : Keeps q n x7 := by
    unfold x7
    refine keeps_State_wr ?_
    exact keeps_State_count k8
  try clear_value x7 x6
  exact keeps_State_setCheck k9

theorem keeps_State_chkStart {s : State} {n' : Nat} (k2 : Keeps q n s) :
    Keeps q n (State.chkStart s n') := by
  unfold State.chkStart
  extract_lets -merge -useContext x4 x5 x6 x7
  try clear_value x7 x6 x5 x4
  refine keeps_State_wr ?_
  exact keeps_State_setCheck k2

theorem keeps_State_chkSample {s : State} {pt : Nat} {n' : Nat} (k2 : Keeps q n s) :
    Keeps q n (State.chkSample s pt n') := by
  unfold State.chkSample
  extract_lets -merge -useContext x5
  try clear_value x5
  refine keeps_ite (keeps_ite (keeps_State_chkStart k2) k2) ?_
  refine keeps_ite ?_ k2
  refine keeps_ite (keeps_State_chkStart k2) ?_
  refine keeps_State_wr ?_
  exact keeps_State_setCheck k2

theorem keeps_State_chkFrameStart {s : State} {pt : Nat} (k2 : Keeps q n s) :
    Keeps q n (State.chkFrameStart s pt) := by
  unfold State.chkFrameStart
  refine keeps_foldl ?_ ?_
  · exact k2
  · intro t4 i5 k6
    exact keeps_State_chkSample k6

theorem keeps_State_chkFrameEnd {s : State} {pt : Nat} (k2 : Keeps q n s) :
    Keeps q n (State.chkFrameEnd s pt) := by
  unfold State.chkFrameEnd
  refine keeps_foldl ?_ ?_
  · exact k2
  · intro t4 i5 k6
    exact keeps_ite (keeps_State_chkEnd k6) k6

theorem keeps_State_chkCompare {s : State} {n' : Nat} {i : Nat} (k2 : Keeps q n s) :
    Keeps q n (State.chkCompare s n' i) := by
  unfold State.chkCompare
  extract_lets -merge -useContext x5
  try clear_value x5
  split
  rename_i v6 v7 e8
  have k9 : Keeps q n v6 := keeps_fst e8 (by
      exact keeps_State_useInject k2
    )
  extract_lets -merge -useContext x10 x11 x12 x13
  have k14 : Keeps q n x10 := by
    unfold x10
    exact keeps_ite (keeps_State_fault k9) k9
  try clear_value x13 x12 x11 x10
  refine keeps_ite k14 ?_
  split
  rename_i v15 v16 e17
  have k18 : Keeps q n v15 := keeps_fst e17 (by
      exact keeps_State_useInject k14
    )
  extract_lets -merge -useContext x19 x20 x21 x22 x23
  have k24 : Keeps q n x22 := by
    unfold x22
    refine keeps_State_count ?_
    refine keeps_State_setCheck ?_
    exact keeps_State_wr k18
  have k25 : Keeps q n x23 := by
    unfold x23
    refine keeps_State_wr ?_
    refine keeps_State_wr ?_
    exact keeps_State_wr k24
  try clear_value x23 x22 x21 x20 x19
  split
  · refine keeps_State_wr ?_
    refine keeps_State_wr ?_
    exact keeps_State_wr k24
  · refine keeps_State_raise ?_
    refine keeps_State_fault ?_
    exact keeps_State_count k25

theorem keeps_State_chkWindow {s : State} {n' : Nat} {i : Nat} {x : Option Nat} {y : Nat} {bs : List Nat} (k2 : Keeps q n s) :
    Keeps q n (State.chkWindow s n' i x y bs) := by
  unfold State.chkWindow
  extract_lets -merge -useContext x8 x9 x10 x11 x12
  have k13 : Keeps q n x12 := by
    unfold x12
    refine keeps_State_setCheck ?_
    exact keeps_State_wr k2
  try clear_value x12 x11 x10 x9 x8
  exact keeps_ite (keeps_State_chkCompare k13) k13

theorem keeps_State_chkFeed {s : State} {pt : Nat} {x : Option Nat} {y : Nat} {bs : List Nat} (k2 : Keeps q n s) :
    Keeps q n (State.chkFeed s pt x y bs) := by
  unfold State.chkFeed
  refine keeps_foldl ?_ ?_
  · exact k2
  · intro t7 i8 k9
    refine keeps_ite ?_ k9
    refine keeps_foldl ?_ ?_
    · exact k9
    · intro t10 i11 k12
      exact keeps_State_chkWindow k12

theorem keeps_State_chkSpoil {s : State} {pt : Nat} {y : Nat} (k2 : Keeps q n s) :
    Keeps q n (State.chkSpoil s pt y) := by
  unfold State.chkSpoil
  refine keeps_foldl ?_ ?_
  · exact k2
  · intro t5 i6 k7
    extract_lets -merge -useContext x8
    try clear_value x8
    exact keeps_ite (keeps_State_setCheck k7) k7

theorem keeps_State_syncLinkDown {s : State} {n' : Nat} (k2 : Keeps q n s) :
    Keeps q n (State.syncLinkDown s n') := by
  unfold State.syncLinkDown
  exact keeps_State_setLevel k2

theorem keeps_State_syncPresent {s : State} {n' : Nat} (k2 : Keeps q n s) :
    Keeps q n (State.syncPresent s n') := by
  unfold State.syncPresent
  exact keeps_State_wr k2

theorem keeps_State_setLink {s : State} {n' : Nat} {st : Nat} {cause : Nat} (k2 : Keeps q n s) :
    Keeps q n (State.setLink s n' st cause) := by
  unfold State.setLink
  extract_lets -merge -useContext x6 x7 x8 x9
  have k10 : Keeps q n x7 := by
    unfold x7
    exact keeps_State_hwField k2
  have k11 : Keeps q n x8 := by
    unfold x8
    exact keeps_ite k10 (keeps_State_wr k10)
  have k12 : Keeps q n x9 := by
    unfold x9
    exact keeps_State_syncLinkDown k11
  try clear_value x9 x8 x7 x6
  refine keeps_ite k12 ?_
  refine keeps_State_raise ?_
  exact keeps_ite k12 (keeps_State_wr k12)

theorem keeps_State_linkStart {s : State} {n' : Nat} {cause : Nat} (k2 : Keeps q n s) :
    Keeps q n (State.linkStart s n' cause) := by
  unfold State.linkStart
  extract_lets -merge -useContext x5
  try clear_value x5
  refine keeps_ite ?_ k2
  refine keeps_State_setLink ?_
  exact keeps_State_setPort k2

theorem keeps_State_linkTrain {s : State} {n' : Nat} {cause : Nat} (k2 : Keeps q n s) :
    Keeps q n (State.linkTrain s n' cause) := by
  unfold State.linkTrain
  extract_lets -merge -useContext x5
  try clear_value x5
  split
  · exact k2
  · split
    · refine keeps_State_fault ?_
      exact keeps_State_setLink k2
    · refine keeps_State_setLink ?_
      exact keeps_State_setPort k2

theorem keeps_State_retrainNow {s : State} {n' : Nat} {kind : Nat} (k2 : Keeps q n s) :
    Keeps q n (State.retrainNow s n' kind) := by
  unfold State.retrainNow
  extract_lets -merge -useContext x5 x6 x7
  have k8 : Keeps q n x6 := by
    unfold x6
    exact keeps_State_setPort k2
  have k9 : ∀ a13, Keeps q n a13 → Keeps q n (x7 a13) := by
    unfold x7
    intro y10 k11
    extract_lets -merge -useContext x12
    try clear_value x12
    exact keeps_State_setPort k11
  try clear_value x7 x6 x5
  refine keeps_ite ?_ ?_
  · refine keeps_State_linkStart ?_
    exact k9 _ k8
  · refine keeps_ite ?_ k8
    refine keeps_State_linkTrain ?_
    exact k9 _ k8

theorem keeps_State_askRetrain {s : State} {n' : Nat} {kind : Nat} (k2 : Keeps q n s) :
    Keeps q n (State.askRetrain s n' kind) := by
  unfold State.askRetrain
  extract_lets -merge -useContext x5
  try clear_value x5
  exact keeps_ite k2 (keeps_ite (keeps_State_setPort k2) (keeps_State_retrainNow k2))

theorem keeps_State_retrainWritten {s : State} {n' : Nat} (k2 : Keeps q n s) :
    Keeps q n (State.retrainWritten s n') := by
  unfold State.retrainWritten
  extract_lets -merge -useContext x4
  try clear_value x4
  refine keeps_ite k2 ?_
  refine keeps_State_askRetrain ?_
  exact keeps_State_setPort k2

theorem keeps_State_linkVblank {s : State} {n' : Nat} (k2 : Keeps q n s) :
    Keeps q n (State.linkVblank s n') := by
  unfold State.linkVblank
  exact keeps_ite k2 (keeps_State_retrainNow k2)

theorem keeps_State_linkGone {s : State} {n' : Nat} (k2 : Keeps q n s) :
    Keeps q n (State.linkGone s n') := by
  unfold State.linkGone
  extract_lets -merge -useContext x4 x5
  have k6 : Keeps q n x5 := by
    unfold x5
    refine keeps_State_syncPresent ?_
    exact keeps_State_setPort k2
  try clear_value x5 x4
  refine keeps_State_setLink ?_
  exact keeps_State_wr k6

theorem keeps_State_linkRetry {s : State} {n' : Nat} {causes : List Nat} (k2 : Keeps q n s) :
    Keeps q n (State.linkRetry s n' causes) := by
  unfold State.linkRetry
  exact keeps_ite (keeps_State_linkStart k2) k2

theorem keeps_State_lnkWrite {s : State} {who : Nat} {n' : Nat} {value : Word} {be : BitVec 4} (k2 : Keeps q n s) :
    Keeps q n (State.lnkWrite s who n' value be) := by
  unfold State.lnkWrite
  extract_lets -merge -useContext x7
  try clear_value x7
  refine keeps_State_writeWith k2 ?_
  intro y8 y9 k10
  extract_lets -merge -useContext x11 x12 x13 x14 x15
  have k16 : Keeps q n x12 := by
    unfold x12
    refine keeps_State_wr ?_
    exact keeps_State_store k10
  have k17 : Keeps q n x14 := by
    unfold x14
    refine keeps_State_syncPresent ?_
    exact keeps_State_setPort k16
  have k18 : Keeps q n x15 := by
    unfold x15
    refine keeps_ite ?_ ?_
    · refine keeps_State_setLink ?_
      exact keeps_ite k17 (keeps_State_wr k17)
    · refine keeps_ite ?_ (keeps_State_syncPresent k16)
      refine keeps_State_syncLinkDown ?_
      refine keeps_State_linkStart ?_
      exact keeps_State_syncPresent k16
  try clear_value x15 x14 x13 x12 x11
  exact keeps_ite (keeps_State_retrainWritten k18) k18

theorem keeps_State_limitsWrite {s : State} {who : Nat} {n' : Nat} {value : Word} {be : BitVec 4} (k2 : Keeps q n s) :
    Keeps q n (State.limitsWrite s who n' value be) := by
  unfold State.limitsWrite
  extract_lets -merge -useContext x7
  try clear_value x7
  refine keeps_State_writeWith k2 ?_
  intro y8 y9 k10
  refine keeps_State_linkRetry ?_
  exact keeps_State_store k10

theorem keeps_State_fmtWrite {s : State} {who : Nat} {n' : Nat} {value : Word} {be : BitVec 4} (k2 : Keeps q n s) :
    Keeps q n (State.fmtWrite s who n' value be) := by
  unfold State.fmtWrite
  extract_lets -merge -useContext x7
  try clear_value x7
  refine keeps_State_writeWith k2 ?_
  intro y8 y9 k10
  refine keeps_State_linkRetry ?_
  exact keeps_State_store k10

theorem keeps_execPortEnable {who : Actor} {o : Out} {s : State} (k4 : Keeps q n s) :
    ∀ t, (execPortEnable who o s) = .next t → Keeps q n t := by
  unfold execPortEnable
  intro t e
  injection e with e
  subst e
  exact keeps_State_lnkWrite k4

theorem keeps_execPortDisable {who : Actor} {o : Out} {s : State} (k4 : Keeps q n s) :
    ∀ t, (execPortDisable who o s) = .next t → Keeps q n t := by
  unfold execPortDisable
  intro t e
  injection e with e
  subst e
  exact keeps_State_lnkWrite k4

theorem keeps_execRetrain {who : Actor} {o : Out} {s : State} (k4 : Keeps q n s) :
    ∀ t, (execRetrain who o s) = .next t → Keeps q n t := by
  unfold execRetrain
  intro t e
  injection e with e
  subst e
  exact keeps_State_lnkWrite k4

theorem keeps_execPartnerArrive {o : Out} {s : State} (k3 : Keeps q n s) :
    ∀ t, (execPartnerArrive o s) = .next t → Keeps q n t := by
  unfold execPartnerArrive
  extract_lets -merge -useContext x7 x8 x9
  have k10 : Keeps q n x9 := by
    unfold x9
    exact keeps_State_setPort k3
  try clear_value x9 x8 x7
  intro t e
  injection e with e
  subst e
  refine keeps_ite k3 ?_
  refine keeps_State_linkStart ?_
  refine keeps_State_wr ?_
  exact keeps_State_syncPresent k10

theorem keeps_execHpdUnplug {o : Out} {lowNs : Nat} {s : State} (k4 : Keeps q n s) :
    ∀ t, (execHpdUnplug o lowNs s) = .next t → Keeps q n t := by
  unfold execHpdUnplug
  extract_lets -merge -useContext x8 x9 x10
  have k11 : Keeps q n x10 := by
    unfold x10
    exact keeps_State_setPort k4
  try clear_value x10 x9 x8
  intro t e
  injection e with e
  subst e
  exact keeps_ite k4 (keeps_ite k11 (keeps_State_linkGone k11))

theorem keeps_execAPhyLinkDown {o : Out} {s : State} (k3 : Keeps q n s) :
    ∀ t, (execAPhyLinkDown o s) = .next t → Keeps q n t := by
  unfold execAPhyLinkDown
  extract_lets -merge -useContext x6 x7
  try clear_value x7 x6
  intro t e
  injection e with e
  subst e
  refine keeps_ite k3 ?_
  refine keeps_State_linkGone ?_
  exact keeps_State_setPort k3

theorem keeps_execHpdIrq {o : Out} {lowNs : Nat} {lockLost : Bool} {capsChanged : Bool} {s : State} (k6 : Keeps q n s) :
    ∀ t, (execHpdIrq o lowNs lockLost capsChanged s) = .next t → Keeps q n t := by
  unfold execHpdIrq
  extract_lets -merge -useContext x9 x10
  have k11 : Keeps q n x10 := by
    unfold x10
    exact keeps_State_count k6
  try clear_value x10 x9
  intro t e
  injection e with e
  subst e
  exact keeps_ite k6 (keeps_ite k11 (keeps_ite (keeps_State_askRetrain k11) (keeps_ite (keeps_State_askRetrain k11) k11)))

theorem keeps_State_setDisc {s : State} {n' : Nat} {record : List Byte} (k2 : Keeps q n s) :
    Keeps q n (State.setDisc s n' record) := by
  unfold State.setDisc
  refine keeps_foldl ?_ ?_
  · exact k2
  · intro t5 i6 k7
    exact keeps_State_setReg k7

theorem keeps_execDiscoveryDone {o : Out} {caps : SinkCaps} {record : List Byte} {s : State} (k5 : Keeps q n s) :
    ∀ t, (execDiscoveryDone o caps record s) = .next t → Keeps q n t := by
  unfold execDiscoveryDone
  intro t e
  extract_lets x1 x2 x3 x4 x5 x6 x7 at e
  split at e
  · cases e
  · injection e with e
    subst e
    split
    · exact k5
    · exact keeps_State_setLink (keeps_State_wr (keeps_State_wr (keeps_State_wr (keeps_State_wr
        (keeps_State_setPort (keeps_State_setDisc k5))))))

theorem keeps_execCableMeasureDone {o : Out} {length : Option Nat} {s : State} (k4 : Keeps q n s) :
    ∀ t, (execCableMeasureDone o length s) = .next t → Keeps q n t := by
  unfold execCableMeasureDone
  extract_lets -merge -useContext x14 x15 x16 x17 x18 x19 x20 x21 x22
  have k23 : Keeps q n x18 := by
    unfold x18
    refine keeps_State_wr ?_
    exact keeps_State_wr k4
  have k24 : Keeps q n x20 := by
    unfold x20
    exact keeps_State_setLink k23
  have k25 : Keeps q n x21 := by
    unfold x21
    exact keeps_ite (keeps_State_fault k24) k24
  try clear_value x22 x21 x20 x19 x18 x17 x16 x15 x14
  intro t e
  injection e with e
  subst e
  refine keeps_ite k4 ?_
  split
  · exact k4
  · extract_lets -merge -useContext x26
    try clear_value x26
    refine keeps_ite (keeps_ite (keeps_State_fault k25) k25) ?_
    refine keeps_ite ?_ (keeps_State_linkTrain k23)
    refine keeps_State_setLink ?_
    exact keeps_State_setPort k23

theorem keeps_execTrainingDone {o : Out} {ok : Bool} {s : State} (k4 : Keeps q n s) :
    ∀ t, (execTrainingDone o ok s) = .next t → Keeps q n t := by
  unfold execTrainingDone
  extract_lets -merge -useContext x10 x11 x12 x13 x14
  have k15 : Keeps q n x13 := by
    unfold x13
    exact keeps_ite (keeps_State_count k4) k4
  have k16 : Keeps q n x14 := by
    unfold x14
    exact keeps_State_setPort k15
  try clear_value x14 x13 x12 x11 x10
  intro t e
  injection e with e
  subst e
  refine keeps_ite k4 ?_
  refine keeps_ite ?_ ?_
  · refine keeps_State_wr ?_
    refine keeps_State_setLink ?_
    exact keeps_State_wr k16
  · refine keeps_ite ?_ (keeps_State_setPort k15)
    refine keeps_State_fault ?_
    refine keeps_State_setLink ?_
    exact keeps_State_setPort k15

theorem keeps_State_syncRefLost {s : State} {n' : Nat} (k2 : Keeps q n s) :
    Keeps q n (State.syncRefLost s n') := by
  unfold State.syncRefLost
  exact keeps_State_setLevel k2

theorem keeps_State_setRef {s : State} {n' : Nat} {sel : Nat} {st : Nat} (k2 : Keeps q n s) :
    Keeps q n (State.setRef s n' sel st) := by
  unfold State.setRef
  extract_lets -merge -useContext x6 x7 x8
  have k9 : Keeps q n x8 := by
    unfold x8
    refine keeps_ite k2 ?_
    refine keeps_State_raise ?_
    exact keeps_State_hwChange k2
  try clear_value x8 x7 x6
  exact keeps_State_syncRefLost k9

theorem keeps_State_refWritten {s : State} {n' : Nat} {ctrl : Bool} (k2 : Keeps q n s) :
    Keeps q n (State.refWritten s n' ctrl) := by
  unfold State.refWritten
  extract_lets -merge -useContext x5 x6 x7
  have k8 : Keeps q n x7 := by
    unfold x7
    exact keeps_State_setOut k2
  try clear_value x7 x6 x5
  exact keeps_ite (keeps_State_setRef k8) (keeps_ite (keeps_State_setRef k8) (keeps_State_syncRefLost k8))

theorem keeps_State_moveSpace {s : State} {give : Nat} {take : Nat} (k2 : Keeps q n s) :
    Keeps q n (State.moveSpace s give take) := by
  unfold State.moveSpace
  exact keeps_State_wr k2

theorem keeps_State_freeRetained {s : State} {n' : Nat} (k2 : Keeps q n s) :
    Keeps q n (State.freeRetained s n') := by
  unfold State.freeRetained
  extract_lets -merge -useContext x4
  try clear_value x4
  split
  · exact k2
  · extract_lets -merge -useContext x5
    have k6 : Keeps q n x5 := by
      unfold x5
      refine keeps_State_moveSpace ?_
      exact keeps_State_setOut k2
    try clear_value x5
    refine keeps_State_wr ?_
    exact keeps_State_wr k6

theorem keeps_State_dropRetained {s : State} {n' : Nat} (k2 : Keeps q n s) :
    Keeps q n (State.dropRetained s n') := by
  unfold State.dropRetained
  extract_lets -merge -useContext x4 x5
  have k6 : Keeps q n x5 := by
    unfold x5
    exact keeps_State_freeRetained k2
  try clear_value x5 x4
  refine keeps_ite k2 ?_
  refine keeps_State_settle ?_
  exact keeps_State_hwRaw k6

theorem keeps_State_syncPorts {s : State} (k2 : Keeps q n s) :
    Keeps q n (State.syncPorts s) := by
  unfold State.syncPorts
  extract_lets -merge -useContext x3 x4 x5 x6 x7 x8 x9 x10 x11
  have k12 : Keeps q n x6 := by
    unfold x6
    refine keeps_State_wr ?_
    exact keeps_State_wr k2
  have k13 : Keeps q n x10 := by
    unfold x10
    split
    · refine keeps_State_addTime ?_
      exact { k12 with }
    · exact { k12 with }
    · exact k12
  try clear_value x11 x10 x9 x8 x7 x6 x5 x4 x3
  exact { k13 with }

theorem keeps_State_setPort11 {s : State} {n' : Nat} {tol : Nat} {urgent : Bool} {panic : Bool} (k2 : Keeps q n s) :
    Keeps q n (State.setPort11 s n' tol urgent panic) := by
  unfold State.setPort11
  refine keeps_State_syncPorts ?_
  refine keeps_State_wr ?_
  refine keeps_State_wr ?_
  exact keeps_State_wr k2

theorem keeps_State_setRole {s : State} {p : Nat} {role : Nat} {out : Nat} {acct : Nat} (k2 : Keeps q n s) :
    Keeps q n (State.setRole s p role out acct) := by
  unfold State.setRole
  refine keeps_State_wr ?_
  refine keeps_State_wr ?_
  exact keeps_State_wr k2

theorem keeps_State_enableOutput {s : State} {n' : Nat} (k2 : Keeps q n s) :
    Keeps q n (State.enableOutput s n') := by
  unfold State.enableOutput
  extract_lets -merge -useContext x4 x5 x6 x7 x8 x9
  have k10 : Keeps q n x6 := by
    unfold x6
    exact keeps_State_setOut k2
  have k11 : Keeps q n x8 := by
    unfold x8
    refine keeps_foldl ?_ ?_
    · exact k10
    · intro t12 i13 k14
      refine keeps_State_syncNoMint ?_
      refine keeps_State_wakeAsk ?_
      exact keeps_State_setRole k14
  have k15 : Keeps q n x9 := by
    unfold x9
    exact keeps_State_wr k11
  try clear_value x9 x8 x7 x6 x5 x4
  refine keeps_foldl ?_ ?_
  · exact k15
  · intro t16 i17 k18
    exact keeps_State_linkRetry k18

theorem keeps_State_releasePress {s : State} {p : Nat} (k2 : Keeps q n s) :
    Keeps q n (State.releasePress s p) := by
  unfold State.releasePress
  extract_lets -merge -useContext x4 x5 x6 x7
  have k8 : Keeps q n x4 := by
    unfold x4
    refine keeps_State_setPress ?_
    refine keeps_State_wr ?_
    exact keeps_State_setRole k2
  have k9 : Keeps q n x7 := by
    unfold x7
    refine keeps_ite k8 ?_
    refine keeps_State_syncSeq ?_
    refine keeps_State_setPower ?_
    exact { k8 with }
  try clear_value x7 x6 x5 x4
  refine keeps_State_syncNoMint ?_
  exact keeps_State_syncPress k9

theorem keeps_State_setReady {s : State} {t : Nat} {v : Nat} (k2 : Keeps q n s) :
    Keeps q n (State.setReady s t v) := by
  unfold State.setReady
  exact { k2 with readyAt := NatTbl.wf_put _ _ k2.readyAt }

theorem keeps_State_setWritten {s : State} {t : Nat} {b : Bool} (k2 : Keeps q n s) :
    Keeps q n (State.setWritten s t b) := by
  unfold State.setWritten
  exact { k2 with written := Tbl.wf_set _ _ k2.written }

theorem keeps_State_swapScl {s : State} {c : Nat} {vert : Bool} (k2 : Keeps q n s) :
    Keeps q n (State.swapScl s c vert) := by
  unfold State.swapScl
  extract_lets -merge -useContext x5 x6 x7
  try clear_value x7 x6 x5
  split
  extract_lets -merge -useContext x8
  have k9 : Keeps q n x8 := by
    unfold x8
    refine keeps_foldl ?_ ?_
    · exact k2
    · intro t10 i11 k12
      extract_lets -merge -useContext x13 x14
      try clear_value x14 x13
      refine keeps_State_setLut ?_
      exact keeps_State_setReg k12
  try clear_value x8
  refine keeps_State_setWritten ?_
  refine keeps_State_setReady ?_
  refine keeps_State_wr ?_
  exact keeps_State_wr k9

theorem keeps_State_swapIdle {s : State} {c : Nat} (k2 : Keeps q n s) :
    Keeps q n (State.swapIdle s c) := by
  unfold State.swapIdle
  refine keeps_ite k2 ?_
  refine keeps_foldl ?_ ?_
  · exact k2
  · intro t4 i5 k6
    exact keeps_ite (keeps_State_swapScl k6) k6

theorem keeps_State_freeScaler {s : State} {c : Nat} (k2 : Keeps q n s) :
    Keeps q n (State.freeScaler s c) := by
  unfold State.freeScaler
  refine keeps_State_swapIdle ?_
  exact keeps_State_setReg k2

theorem keeps_State_dropScalers {s : State} {n' : Nat} (k2 : Keeps q n s) :
    Keeps q n (State.dropScalers s n') := by
  unfold State.dropScalers
  refine keeps_foldl ?_ ?_
  · exact k2
  · intro t4 i5 k6
    exact keeps_ite (keeps_State_freeScaler k6) k6

theorem keeps_State_setSafe1 {s : State} {n' : Nat} {v : Nat} (k2 : Keeps q n s) :
    Keeps q n (State.setSafe1 s n' v) := by
  unfold State.setSafe1
  extract_lets -merge -useContext x5
  have k6 : Keeps q n x5 := by
    unfold x5
    exact keeps_State_hwField k2
  try clear_value x5
  refine keeps_State_wr ?_
  exact keeps_State_wr k6

theorem keeps_State_stopOutput {s : State} {n' : Nat} (k2 : Keeps q n s) :
    Keeps q n (State.stopOutput s n') := by
  unfold State.stopOutput
  extract_lets -merge -useContext x4 x5 x6 x7 x8 x9 x10 x11 x12 x13
  have k14 : Keeps q n x4 := by
    unfold x4
    exact keeps_State_departCommits k2
  have k15 : Keeps q n x5 := by
    unfold x5
    refine keeps_foldl ?_ ?_
    · exact k14
    · intro t16 i17 k18
      exact keeps_State_abandon k18
  have k19 : Keeps q n x6 := by
    unfold x6
    refine keeps_foldl ?_ ?_
    · exact k15
    · intro t20 i21 k22
      exact keeps_State_releasePress k22
  have k23 : Keeps q n x7 := by
    unfold x7
    refine keeps_State_dropScalers ?_
    exact keeps_State_freeRetained k19
  have k24 : Keeps q n x9 := by
    unfold x9
    refine keeps_foldl ?_ ?_
    · exact k23
    · intro t25 i26 k27
      exact keeps_State_setOut k27
  have k28 : Keeps q n x10 := by
    unfold x10
    refine keeps_State_wr ?_
    exact keeps_State_setReg k24
  have k29 : Keeps q n x11 := by
    unfold x11
    refine keeps_foldl ?_ ?_
    · exact k28
    · intro t30 i31 k32
      extract_lets -merge -useContext x33 x34
      have k35 : Keeps q n x33 := by
        unfold x33
        refine keeps_State_setReg ?_
        refine keeps_State_wr ?_
        exact keeps_State_setReg k32
      have k36 : Keeps q n x34 := by
        unfold x34
        refine keeps_State_wr ?_
        exact keeps_State_wr k35
      try clear_value x34 x33
      refine keeps_State_setPort11 ?_
      refine keeps_State_syncLinkDown ?_
      exact keeps_ite (keeps_State_setSafe1 k36) k36
  have k37 : Keeps q n x12 := by
    unfold x12
    refine keeps_foldl ?_ ?_
    · exact k29
    · intro t38 i39 k40
      exact keeps_State_syncLayer k40
  have k41 : Keeps q n x13 := by
    unfold x13
    refine keeps_foldl ?_ ?_
    · exact k37
    · intro t42 i43 k44
      extract_lets -merge -useContext x45
      try clear_value x45
      exact keeps_State_setCap k44
  try clear_value x13 x12 x11 x10 x9 x8 x7 x6 x5 x4
  refine keeps_foldl ?_ ?_
  · exact keeps_State_setRef k41
  · intro t46 i47 k48
    exact keeps_State_linkVblank k48

theorem keeps_State_timEffect {s : State} {n' : Nat} {off : Nat} {v : Word} (k2 : Keeps q n s) :
    Keeps q n (State.timEffect s n' off v) := by
  unfold State.timEffect
  extract_lets -merge -useContext x6 x7 x8 x9 x10 x11 x12 x13 x14 x15 x16 x17
  have k18 : Keeps q n x9 := by
    unfold x9
    exact keeps_State_store k2
  have k19 : Keeps q n x14 := by
    unfold x14
    exact keeps_ite (keeps_ite (keeps_State_setOut k18) (keeps_State_enableOutput k18)) (keeps_ite (keeps_ite (keeps_State_setOut k18) (keeps_State_stopOutput k18)) k18)
  have k20 : Keeps q n x15 := by
    unfold x15
    refine keeps_ite ?_ k19
    refine keeps_foldl ?_ ?_
    · exact k19
    · intro t21 i22 k23
      exact keeps_State_syncLinkDown k23
  have k24 : Keeps q n x16 := by
    unfold x16
    exact keeps_ite (keeps_State_syncSafe k20) k20
  have k25 : Keeps q n x17 := by
    unfold x17
    exact keeps_ite (keeps_State_refWritten k24) (keeps_ite (keeps_State_refWritten k24) k24)
  try clear_value x17 x16 x15 x14 x13 x12 x11 x10 x9 x8 x7 x6
  exact keeps_ite k25 (keeps_State_touch k25)

theorem keeps_State_timWrite {s : State} {who : Nat} {n' : Nat} {off : Nat} {value : Word} {be : BitVec 4} (k2 : Keeps q n s) :
    Keeps q n (State.timWrite s who n' off value be) := by
  unfold State.timWrite
  extract_lets -merge -useContext x8
  try clear_value x8
  refine keeps_State_writeWith k2 ?_
  intro y9 y10 k11
  exact keeps_State_timEffect k11

theorem keeps_State_timField {s : State} {who : Nat} {n' : Nat} {f : Fld} {v : Nat} (k2 : Keeps q n s) :
    Keeps q n (State.timField s who n' f v) := by
  unfold State.timField
  exact keeps_State_timWrite k2

theorem keeps_execOutputEnable {who : Actor} {o : Out} {s : State} (k4 : Keeps q n s) :
    ∀ t, (execOutputEnable who o s) = .next t → Keeps q n t := by
  unfold execOutputEnable
  intro t e
  injection e with e
  subst e
  exact keeps_State_timField k4

theorem keeps_execOutputDisable {who : Actor} {o : Out} {s : State} (k4 : Keeps q n s) :
    ∀ t, (execOutputDisable who o s) = .next t → Keeps q n t := by
  unfold execOutputDisable
  intro t e
  injection e with e
  subst e
  exact keeps_State_timField k4

theorem keeps_execPairLock {who : Actor} {o : Out} {on : Bool} {s : State} (k5 : Keeps q n s) :
    ∀ t, (execPairLock who o on s) = .next t → Keeps q n t := by
  unfold execPairLock
  intro t e
  injection e with e
  subst e
  exact keeps_State_timField k5

theorem keeps_execVrrEnable {who : Actor} {o : Out} {s : State} (k4 : Keeps q n s) :
    ∀ t, (execVrrEnable who o s) = .next t → Keeps q n t := by
  unfold execVrrEnable
  intro t e
  injection e with e
  subst e
  exact keeps_State_timField k4

theorem keeps_execRmaxWrite {who : Actor} {o : Out} {rate : Byte} {s : State} (k5 : Keeps q n s) :
    ∀ t, (execRmaxWrite who o rate s) = .next t → Keeps q n t := by
  unfold execRmaxWrite
  intro t e
  injection e with e
  subst e
  exact keeps_State_timField k5

theorem keeps_execOutputStop {o : Out} {s : State} (k3 : Keeps q n s) :
    ∀ t, (execOutputStop o s) = .next t → Keeps q n t := by
  unfold execOutputStop
  extract_lets -merge -useContext x5
  try clear_value x5
  intro t e
  injection e with e
  subst e
  exact keeps_ite (keeps_State_stopOutput k3) k3

theorem keeps_State_useAny {s : State} {p : Nat} {z4 : List Nat} (k2 : Keeps q n s) :
    Keeps q n (State.useAny s p z4).1 := by
  induction z4 with
  | nil => exact k2
  | cons i t ih =>
    unfold State.useAny
    have k := keeps_State_useInject (p := p) (i := i) k2
    split
    · rename_i e; rw [e] at k; exact k
    · exact ih

theorem keeps_State_vltParity {s : State} {off : Nat} (k2 : Keeps q n s) :
    Keeps q n (State.vltParity s off).1 := by
  unfold State.vltParity
  extract_lets -merge -useContext x4
  try clear_value x4
  split
  · rename_i v5 v6 e7
    have k8 : Keeps q n v5 := keeps_fst e7 (by
        refine keeps_State_useInject ?_
        exact keeps_State_count k2
      )
    refine keeps_mk ?_
    refine keeps_State_fault ?_
    exact keeps_State_count k8
  · rename_i v9 e10
    have k11 : Keeps q n v9 := keeps_fst e10 (by
        refine keeps_State_useInject ?_
        exact keeps_State_count k2
      )
    refine keeps_mk ?_
    exact k11

theorem keeps_State_vltWords {s : State} {off : Nat} (k2 : Keeps q n s) :
    Keeps q n (State.vltWords s off).1 := by
  unfold State.vltWords
  extract_lets p
  have k := keeps_State_useInject (p := p) (i := 0) k2
  split <;> rename_i e <;> rw [e] at k
  · exact keeps_State_count k
  · exact keeps_State_fault (keeps_State_count k)
  · exact k

theorem keeps_State_vltLine {s : State} {off : Nat} (k2 : Keeps q n s) :
    Keeps q n (State.vltLine s off).1 := by
  unfold State.vltLine
  split
  · rename_i v4 e5
    have k6 : Keeps q n v4 := keeps_fst e5 (by
        exact keeps_State_vltParity k2
      )
    refine keeps_mk ?_
    exact k6
  · rename_i v7 e8
    have k9 : Keeps q n v7 := keeps_fst e8 (by
        exact keeps_State_vltParity k2
      )
    exact keeps_State_vltWords k9

theorem keeps_State_vltLines {s : State} {z3 : List Nat} (k2 : Keeps q n s) :
    Keeps q n (State.vltLines s z3).1 := by
  induction z3 generalizing s with
  | nil => exact k2
  | cons l t ih => exact ih (keeps_State_vltLine k2)

theorem keeps_State_vaultTouched {s : State} {addr : Nat} {len : Nat} (k2 : Keeps q n s) :
    Keeps q n (State.vaultTouched s addr len) := by
  unfold State.vaultTouched
  refine keeps_foldl ?_ ?_
  · exact k2
  · intro t5 i6 k7
    exact keeps_State_touch k7

theorem keeps_State_vltStore {s : State} {addr : Nat} {data : List Byte} {z5 : List Nat} (k2 : Keeps q n s) :
    Keeps q n (State.vltStore s addr data z5).1 := by
  induction z5 generalizing s with
  | nil => exact k2
  | cons l t ih =>
    unfold State.vltStore
    split
    split
    rename_i v b e2
    have kv : Keeps q n v := keeps_fst e2 (keeps_State_vltParity k2)
    split
    rename_i w ue e3
    have kw : Keeps q n w := keeps_fst e3 (keeps_ite_fst kv (keeps_State_vltWords kv))
    split
    exact ih (keeps_ite kw (keeps_State_storeVault kw))

theorem keeps_State_eccDo {s : State} {line : Nat} {z4 : EccAct} (k2 : Keeps q n s) :
    Keeps q n (State.eccDo s line z4).1 := by
  unfold State.eccDo
  extract_lets -merge -useContext x5
  have k6 : Keeps q n x5 := by
    unfold x5
    exact keeps_State_count k2
  try clear_value x5
  split
  · refine keeps_mk ?_
    exact k2
  · refine keeps_ite_fst ?_ ?_
    · refine keeps_mk ?_
      refine keeps_State_count ?_
      refine keeps_State_retag ?_
      split
      · exact keeps_State_storeDram k6
      · exact k6
    · refine keeps_mk ?_
      exact k6
  · refine keeps_mk ?_
    refine keeps_State_fault ?_
    exact keeps_State_count k2
  · refine keeps_mk ?_
    refine keeps_State_fault ?_
    exact keeps_State_count k2

theorem keeps_State_eccLine {s : State} {line : Nat} (k2 : Keeps q n s) :
    Keeps q n (State.eccLine s line).1 := by
  unfold State.eccLine
  refine keeps_ite_fst ?_ ?_
  · refine keeps_mk ?_
    exact k2
  · split
    rename_i v4 v5 e6
    have k7 : Keeps q n v4 := keeps_fst e6 (by
        exact keeps_State_useAny k2
      )
    exact keeps_State_eccDo k7

theorem keeps_State_readLine {s : State} {o : Nat} {addr : Nat} {len : Nat} {line : Nat} (k2 : Keeps q n s) :
    Keeps q n (State.readLine s o addr len line).1 := by
  unfold State.readLine
  extract_lets -merge -useContext x7 x8
  try clear_value x8 x7
  split
  refine keeps_ite_fst ?_ ?_
  · refine keeps_mk ?_
    refine keeps_State_count ?_
    exact keeps_State_touchRank k2
  · refine keeps_State_eccLine ?_
    refine keeps_State_spend ?_
    refine keeps_State_chAccess ?_
    exact keeps_State_issueLine k2

theorem keeps_State_readLines {s : State} {o : Nat} {addr : Nat} {len : Nat} {z6 : List Nat} (k2 : Keeps q n s) :
    Keeps q n (State.readLines s o addr len z6).1 := by
  induction z6 generalizing s with
  | nil => exact k2
  | cons l t ih => exact ih (keeps_State_readLine k2)

theorem keeps_State_writeLine {s : State} {o : Nat} {addr : Nat} {data : List Byte} {line : Nat} (k2 : Keeps q n s) :
    Keeps q n (State.writeLine s o addr data line).1 := by
  unfold State.writeLine
  split
  extract_lets -merge -useContext x7
  try clear_value x7
  refine keeps_ite_fst ?_ ?_
  · refine keeps_mk ?_
    refine keeps_State_enqueue ?_
    exact keeps_State_spend k2
  · split
    rename_i v8 v9 e10
    have k11 : Keeps q n v8 := keeps_fst e10 (by
        exact keeps_State_readLine k2
      )
    split
    · refine keeps_mk ?_
      refine keeps_State_enqueue ?_
      exact keeps_State_spend k11
    · refine keeps_mk ?_
      refine keeps_State_fault ?_
      refine keeps_State_count ?_
      exact keeps_State_retag k11

theorem keeps_State_writeLines {s : State} {o : Nat} {addr : Nat} {data : List Byte} {z6 : List Nat} (k2 : Keeps q n s) :
    Keeps q n (State.writeLines s o addr data z6).1 := by
  induction z6 generalizing s with
  | nil => exact k2
  | cons l t ih => exact ih (keeps_State_writeLine k2)

theorem keeps_State_beginExit {s : State} (k2 : Keeps q n s) :
    Keeps q n (State.beginExit s) := by
  unfold State.beginExit
  extract_lets -merge -useContext x3 x4
  have k5 : Keeps q n x3 := by
    unfold x3
    refine keeps_State_hwField ?_
    exact keeps_State_addTime k2
  try clear_value x4 x3
  refine keeps_ite ?_ (keeps_ite { k5 with } k2)
  refine keeps_State_wr ?_
  exact keeps_State_addTime k2

theorem keeps_State_holdUnit {s : State} {who : Nat} {rt : Option Nat} {work : HeldWork} (k2 : Keeps q n s) :
    Keeps q n (State.holdUnit s who rt work) := by
  unfold State.holdUnit
  extract_lets -merge -useContext x6 x7 x8
  have k9 : Keeps q n x6 := by
    unfold x6
    exact keeps_State_beginExit k2
  have k10 : Keeps q n x7 := by
    unfold x7
    exact keeps_State_noteNonRt k9
  try clear_value x8 x7 x6
  exact keeps_ite k9 { k10 with }

theorem keeps_State_dropHeld {s : State} {work : HeldWork} (k2 : Keeps q n s) :
    Keeps q n (State.dropHeld s work) := by
  unfold State.dropHeld
  extract_lets -merge -useContext x4
  try clear_value x4
  exact { k2 with }

theorem keeps_State_memFault {s : State} {who : Nat} {z4 : MemErr} (k2 : Keeps q n s) :
    Keeps q n (State.memFault s who z4) := by
  unfold State.memFault
  extract_lets -merge -useContext x5
  have k6 : Keeps q n x5 := by
    unfold x5
    exact keeps_State_fault k2
  try clear_value x5
  split
  · exact keeps_ite (keeps_State_charge k2) k2
  · exact keeps_ite (keeps_State_charge k2) k2
  · exact keeps_ite (keeps_State_charge k6) k6
  · exact k2
  · exact k2
  · exact k2

theorem keeps_State_readMem {s : State} {who : Nat} {cls : Nat} {space : Nat} {addr : Nat} {len : Nat} {rt : Option Nat} (k2 : Keeps q n s) :
    Keeps q n (State.readMem s who cls space addr len rt).1 := by
  unfold State.readMem
  split
  · refine keeps_mk ?_
    exact keeps_State_memFault k2
  · refine keeps_ite_fst ?_ ?_
    · split
      rename_i v9 v10 e11
      have k12 : Keeps q n v9 := keeps_fst e11 (by
          refine keeps_State_readLines ?_
          exact keeps_State_noteNonRt k2
        )
      refine keeps_mk ?_
      exact k12
    · split
      rename_i v13 v14 e15
      have k16 : Keeps q n v13 := keeps_fst e15 (by
          exact keeps_State_vltLines k2
        )
      refine keeps_mk ?_
      exact k16

theorem keeps_State_writeMem {s : State} {who : Nat} {cls : Nat} {space : Nat} {addr : Nat} {data : List Byte} {rt : Option Nat} (k2 : Keeps q n s) :
    Keeps q n (State.writeMem s who cls space addr data rt).1 := by
  unfold State.writeMem
  split
  · refine keeps_mk ?_
    exact keeps_State_memFault k2
  · refine keeps_ite_fst ?_ ?_
    · refine keeps_State_writeLines ?_
      exact keeps_State_noteNonRt k2
    · split
      rename_i v9 v10 e11
      have k12 : Keeps q n v9 := keeps_fst e11 (by
          exact keeps_State_vltStore k2
        )
      refine keeps_mk ?_
      exact keeps_State_vaultTouched k12

theorem keeps_State_postMem {s : State} {who : Nat} {cls : Nat} {space : Nat} {addr : Nat} {data : List Byte} {rt : Option Nat} (k2 : Keeps q n s) :
    Keeps q n (State.postMem s who cls space addr data rt).1 := by
  unfold State.postMem
  split
  rename_i v9 v10 e11
  have k12 : Keeps q n v9 := keeps_fst e11 (by
      exact keeps_State_writeMem k2
    )
  refine keeps_mk ?_
  exact keeps_ite (keeps_State_charge k12) k12

end Sys2Proof.Machine
end

