-- ==== Sys2Proof/Laws/Keeps4.lean ====
section
/-! SUPPORT. Every operation of Memory.lean, Colour.lean, Raster.lean, Compose.lean keeps the queue, the time base and the canonical tables. -/

set_option linter.unusedVariables false

namespace Sys2Proof.Machine

variable {q : List Instr} {n : Nat}

theorem keeps_State_syncStrict {s : State} (k2 : Keeps q n s) :
    Keeps q n (State.syncStrict s) := by
  unfold State.syncStrict
  extract_lets -merge -useContext x3 x4 x5
  have k6 : Keeps q n x5 := by
    unfold x5
    exact keeps_State_wr k2
  try clear_value x5 x4 x3
  exact keeps_ite k2 (keeps_State_wr k6)

theorem keeps_State_memCtrlWrite {s : State} {who : Nat} {value : Word} {be : BitVec 4} (k2 : Keeps q n s) :
    Keeps q n (State.memCtrlWrite s who value be) := by
  unfold State.memCtrlWrite
  extract_lets -merge -useContext x6
  try clear_value x6
  refine keeps_State_writeWith k2 ?_
  intro y7 y8 k9
  extract_lets -merge -useContext x10
  have k11 : Keeps q n x10 := by
    unfold x10
    refine keeps_State_syncStrict ?_
    refine keeps_State_wr ?_
    exact keeps_State_store k9
  try clear_value x10
  exact keeps_ite (keeps_State_wr k11) k11

theorem keeps_execMemInit {who : Actor} {s : State} (k3 : Keeps q n s) :
    ∀ t, (execMemInit who s) = .next t → Keeps q n t := by
  unfold execMemInit
  intro t e
  injection e with e
  subst e
  exact keeps_State_memCtrlWrite k3

theorem keeps_execMemTrainDone {failed : BitVec 16} {capacity : BitVec 16} {s : State} (k4 : Keeps q n s) :
    ∀ t, (execMemTrainDone failed capacity s) = .next t → Keeps q n t := by
  unfold execMemTrainDone
  extract_lets -merge -useContext x6
  try clear_value x6
  intro t e
  injection e with e
  subst e
  refine keeps_ite k4 ?_
  refine keeps_ite ?_ ?_
  · refine keeps_State_setLevel ?_
    refine keeps_State_wr ?_
    exact keeps_State_wr k4
  · refine keeps_State_wr ?_
    exact keeps_State_wr k4

theorem keeps_execMr4Poll {ch : Fin 16} {rank : Fin 2} {code : Mr4} {s : State} (k5 : Keeps q n s) :
    ∀ t, (execMr4Poll ch rank code s) = .next t → Keeps q n t := by
  unfold execMr4Poll
  extract_lets -merge -useContext x9 x10 x11
  try clear_value x11 x10 x9
  intro t e
  injection e with e
  subst e
  refine keeps_ite k5 ?_
  split
  extract_lets -merge -useContext x12 x13 x14 x15
  have k16 : Keeps q n x12 := by
    unfold x12
    refine keeps_State_hwField ?_
    exact keeps_State_wr k5
  have k17 : Keeps q n x14 := by
    unfold x14
    exact { k16 with }
  have k19 : Keeps q n x15 := by
    unfold x15
    exact keeps_State_setLevel k17
  try clear_value x15 x14 x13 x12
  refine keeps_State_syncStrict ?_
  exact keeps_ite (keeps_State_fault k19) k19

theorem keeps_State_refresh {s : State} {ch : Nat} {rank : Nat} (k2 : Keeps q n s) :
    Keeps q n (State.refresh s ch rank) := by
  unfold State.refresh
  extract_lets -merge -useContext x5 x6
  have k7 : Keeps q n x6 := by
    unfold x6
    exact { k2 with }
  try clear_value x6 x5
  refine keeps_State_count ?_
  exact keeps_State_wakeRank k7

theorem keeps_execRefreshDue {ch : Fin 16} {rank : Fin 2} {s : State} (k4 : Keeps q n s) :
    ∀ t, (execRefreshDue ch rank s) = .next t → Keeps q n t := by
  unfold execRefreshDue
  extract_lets -merge -useContext x6
  try clear_value x6
  intro t e
  injection e with e
  subst e
  refine keeps_ite k4 ?_
  refine keeps_ite (keeps_State_refresh k4) ?_
  refine keeps_ite ?_ ?_
  · refine keeps_State_fault ?_
    exact keeps_State_refresh k4
  · refine keeps_ite (keeps_State_refresh k4) ?_
    refine keeps_State_count ?_
    exact keeps_State_wr k4

theorem keeps_execRefreshRepay {ch : Fin 16} {rank : Fin 2} {s : State} (k4 : Keeps q n s) :
    ∀ t, (execRefreshRepay ch rank s) = .next t → Keeps q n t := by
  unfold execRefreshRepay
  extract_lets -merge -useContext x6
  try clear_value x6
  intro t e
  injection e with e
  subst e
  refine keeps_ite k4 ?_
  refine keeps_State_refresh ?_
  exact keeps_State_wr k4

theorem keeps_State_complete {s : State} {error : Bool} {data : List Byte} (k2 : Keeps q n s) :
    Keeps q n (State.complete s error data) := by
  unfold State.complete
  exact { k2 with }

theorem keeps_State_finishWait {s : State} {w : DramWait} (k2 : Keeps q n s) :
    Keeps q n (State.finishWait s w) := by
  unfold State.finishWait
  split
  · exact keeps_ite (keeps_State_complete k2) (keeps_State_complete k2)
  · exact keeps_ite (keeps_ite (keeps_ite (keeps_State_charge k2) k2) (keeps_State_complete k2)) (keeps_ite (keeps_State_complete k2) k2)

theorem keeps_State_serveLine {s : State} {i : Nat} {line : Nat} {passed : List Nat} (k2 : Keeps q n s) :
    Keeps q n (State.serveLine s i line passed) := by
  unfold State.serveLine
  extract_lets -merge -useContext x6
  try clear_value x6
  split
  · exact k2
  · extract_lets -merge -useContext x7 x8 x9 x10
    have k11 : Keeps q n x8.1 := by
      unfold x8
      split
      · exact keeps_State_readLine k2
      · exact keeps_State_writeLine k2
    have k12 : Keeps q n x9 := by
      unfold x9
      exact k11
    try clear_value x10 x9 x8 x7
    split
    extract_lets -merge -useContext x13 x14 x15
    have k16 : Keeps q n x15 := by
      unfold x15
      exact { k12 with }
    try clear_value x15 x14 x13
    exact keeps_ite (keeps_State_finishWait k16) k16

theorem keeps_State_serveN {z1 : Nat} {z2 : State} (k3 : Keeps q n z2) :
    Keeps q n (State.serveN z1 z2) := by
  induction z1 generalizing z2 with
  | zero => exact k3
  | succ m ih =>
    unfold State.serveN
    split
    · exact k3
    · exact ih (keeps_State_serveLine k3)

theorem keeps_State_serveWaiting {s : State} (k2 : Keeps q n s) :
    Keeps q n (State.serveWaiting s) := by
  unfold State.serveWaiting
  extract_lets -merge -useContext x3
  have k4 : Keeps q n x3 := by
    unfold x3
    exact keeps_State_serveN k2
  try clear_value x3
  refine keeps_foldl ?_ ?_
  · exact k4
  · intro t5 i6 k7
    exact keeps_State_drainIdle k7

theorem keeps_State_serve {s : State} {req : MemReq} {pa : Nat} {z5 : MemOp} (k2 : Keeps q n s) :
    Keeps q n (State.serve s req pa z5) := by
  unfold State.serve
  split
  · split
    rename_i v6 v7 e8
    have k9 : Keeps q n v6 := keeps_fst e8 (by
        exact keeps_State_readLines k2
      )
    exact keeps_ite (keeps_State_complete k9) (keeps_State_complete k9)
  · split
    rename_i v10 v11 e12
    have k13 : Keeps q n v10 := keeps_fst e12 (by
        exact keeps_State_writeLines k2
      )
    split
    · exact keeps_State_complete k13
    · exact keeps_ite (keeps_ite (keeps_State_charge k13) k13) (keeps_State_complete k13)

theorem keeps_State_dramRequest {s : State} {req : MemReq} {pa : Nat} {op : MemOp} (k2 : Keeps q n s) :
    Keeps q n (State.dramRequest s req pa op) := by
  unfold State.dramRequest
  extract_lets -merge -useContext x6 x7 x8 x9 x10
  have k11 : Keeps q n x8 := by
    unfold x8
    exact keeps_State_noteNonRt k2
  try clear_value x10 x9 x8 x7 x6
  refine keeps_ite (keeps_State_complete k2) ?_
  split
  · refine keeps_State_complete ?_
    exact keeps_State_memFault k2
  · refine keeps_ite (keeps_State_serve k11) ?_
    refine keeps_State_serveWaiting ?_
    exact { k11 with }

theorem keeps_execDramRead {req : MemReq} {pa : Nat} {len : Nat} {s : State} (k5 : Keeps q n s) :
    ∀ t, (execDramRead req pa len s) = .next t → Keeps q n t := by
  unfold execDramRead
  intro t e
  injection e with e
  subst e
  exact keeps_ite k5 (keeps_State_dramRequest k5)

theorem keeps_execDramWrite {req : MemReq} {pa : Nat} {data : List Byte} {s : State} (k5 : Keeps q n s) :
    ∀ t, (execDramWrite req pa data s) = .next t → Keeps q n t := by
  unfold execDramWrite
  intro t e
  injection e with e
  subst e
  exact keeps_ite k5 (keeps_State_dramRequest k5)

theorem keeps_execPowerDownEntry {ch : Fin 16} {rank : Fin 2} {s : State} (k4 : Keeps q n s) :
    ∀ t, (execPowerDownEntry ch rank s) = .next t → Keeps q n t := by
  unfold execPowerDownEntry
  extract_lets -merge -useContext x8 x9 x10
  try clear_value x10 x9 x8
  intro t e
  injection e with e
  subst e
  exact keeps_ite k4 { k4 with }

theorem keeps_execSelfRefreshEntry {s : State} (k2 : Keeps q n s) :
    ∀ t, (execSelfRefreshEntry s) = .next t → Keeps q n t := by
  unfold execSelfRefreshEntry
  extract_lets -merge -useContext x6 x7 x8
  have k9 : Keeps q n x6 := by
    unfold x6
    refine keeps_foldl ?_ ?_
    · exact k2
    · intro t10 i11 k12
      extract_lets -merge -useContext x13 x14
      try clear_value x14 x13
      refine keeps_State_wr ?_
      refine keeps_State_count ?_
      exact keeps_State_wakeRank k12
  have k15 : Keeps q n x7 := by
    unfold x7
    refine keeps_State_wr ?_
    exact keeps_State_count k9
  try clear_value x8 x7 x6
  intro t e
  injection e with e
  subst e
  exact keeps_ite k2 { k15 with }

theorem keeps_execSelfRefreshExit {s : State} (k2 : Keeps q n s) :
    ∀ t, (execSelfRefreshExit s) = .next t → Keeps q n t := by
  unfold execSelfRefreshExit
  intro t e
  injection e with e
  subst e
  exact keeps_ite (keeps_State_beginExit k2) k2

theorem keeps_execDeepSleepEntry {s : State} (k2 : Keeps q n s) :
    ∀ t, (execDeepSleepEntry s) = .next t → Keeps q n t := by
  unfold execDeepSleepEntry
  extract_lets -merge -useContext x6 x7 x8
  have k9 : Keeps q n x7 := by
    unfold x7
    refine keeps_State_hwField ?_
    refine keeps_State_count ?_
    exact keeps_State_addTime k2
  try clear_value x8 x7 x6
  intro t e
  injection e with e
  subst e
  split
  · exact k2
  · exact keeps_ite k2 { k9 with }

theorem keeps_execDeepSleepExit {s : State} (k2 : Keeps q n s) :
    ∀ t, (execDeepSleepExit s) = .next t → Keeps q n t := by
  unfold execDeepSleepExit
  intro t e
  injection e with e
  subst e
  exact keeps_ite (keeps_State_beginExit k2) k2

theorem keeps_execStrictRound {ch : Fin 16} {s : State} (k3 : Keeps q n s) :
    ∀ t, (execStrictRound ch s) = .next t → Keeps q n t := by
  unfold execStrictRound
  extract_lets -merge -useContext x6 x7
  have k8 : Keeps q n x6 := by
    unfold x6
    refine keeps_foldl ?_ ?_
    · exact k3
    · intro t9 i10 k11
      exact keeps_State_refresh k11
  try clear_value x7 x6
  intro t e
  injection e with e
  subst e
  exact keeps_ite k3 { k8 with }

theorem keeps_execVaultAccess {req : MemReq} {off : Nat} {op : MemOp} {s : State} (k5 : Keeps q n s) :
    ∀ t, (execVaultAccess req off op s) = .next t → Keeps q n t := by
  unfold execVaultAccess
  extract_lets -merge -useContext x7
  try clear_value x7
  intro t e
  injection e with e
  subst e
  refine keeps_ite (keeps_State_complete k5) ?_
  split
  · refine keeps_ite k5 ?_
    split
    · rename_i v8 v9 e10
      have k11 : Keeps q n v8 := keeps_fst e10 (by
          exact keeps_State_readMem k5
        )
      exact keeps_State_complete k11
    · rename_i v12 v13 e14
      have k15 : Keeps q n v12 := keeps_fst e14 (by
          exact keeps_State_readMem k5
        )
      exact keeps_State_complete k15
  · refine keeps_ite k5 ?_
    refine keeps_ite ?_ ?_
    · refine keeps_State_complete ?_
      exact keeps_State_memFault k5
    · split
      · rename_i v16 e17
        have k18 : Keeps q n v16 := keeps_fst e17 (by
            exact keeps_State_writeMem k5
          )
        exact keeps_State_complete k18
      · rename_i v19 v20 e21
        have k22 : Keeps q n v19 := keeps_fst e21 (by
            exact keeps_State_writeMem k5
          )
        exact keeps_ite k22 (keeps_State_complete k22)

theorem keeps_execVaultScrub {s : State} (k2 : Keeps q n s) :
    ∀ t, (execVaultScrub s) = .next t → Keeps q n t := by
  unfold execVaultScrub
  intro t e
  injection e with e
  subst e
  refine keeps_ite k2 ?_
  refine keeps_State_count ?_
  refine keeps_foldl ?_ ?_
  · exact k2
  · intro t3 i4 k5
    extract_lets -merge -useContext x6 x7
    try clear_value x7 x6
    refine keeps_State_count ?_
    refine keeps_foldl ?_ ?_
    · exact k5
    · intro t8 i9 k10
      exact keeps_State_vltLine k10

theorem keeps_State_swapCol {s : State} {n' : Nat} {t : Nat} (k2 : Keeps q n s) :
    Keeps q n (State.swapCol s n' t) := by
  unfold State.swapCol
  extract_lets -merge -useContext x5 x6
  have k7 : Keeps q n x6 := by
    unfold x6
    refine keeps_State_wr ?_
    exact keeps_State_wr k2
  try clear_value x6 x5
  refine keeps_State_count ?_
  refine keeps_State_setWritten ?_
  exact keeps_State_setReady k7

theorem keeps_State_meetTable {s : State} {tab : Nat} {owner : Option Nat} {acts : List Nat} {swap : State → State} {late : State → State} (k2 : Keeps q n s) (k7 : ∀ a8, Keeps q n a8 → Keeps q n (swap a8)) (k10 : ∀ a11, Keeps q n a11 → Keeps q n (late a11)) :
    Keeps q n (State.meetTable s tab owner acts swap late) := by
  unfold State.meetTable
  exact keeps_ite (k7 _ k2) (keeps_ite (k10 _ k2) k2)

theorem keeps_State_lateEq {s : State} {acts : List Nat} (k2 : Keeps q n s) :
    Keeps q n (State.lateEq s acts) := by
  unfold State.lateEq
  refine keeps_foldl ?_ ?_
  · exact k2
  · intro t4 i5 k6
    extract_lets -merge -useContext x7
    try clear_value x7
    refine keeps_ite ?_ k6
    refine keeps_State_count ?_
    exact keeps_State_wr k6

theorem keeps_State_swapTables {s : State} {n' : Nat} {acts : List Nat} (k2 : Keeps q n s) :
    Keeps q n (State.swapTables s n' acts) := by
  unfold State.swapTables
  extract_lets -merge -useContext x5 x6
  have k7 : Keeps q n x5 := by
    unfold x5
    exact keeps_State_lateEq k2
  have k8 : Keeps q n x6 := by
    unfold x6
    refine keeps_foldl ?_ ?_
    · exact k7
    · intro t9 i10 k11
      refine keeps_foldl ?_ ?_
      · exact k11
      · intro t12 i13 k14
        refine keeps_State_meetTable k14 ?_ ?_
        · intro y15 k16
          exact keeps_State_swapCol k16
        · intro y17 k18
          refine keeps_State_count ?_
          exact keeps_State_wr k18
  try clear_value x6 x5
  refine keeps_foldl ?_ ?_
  · exact k8
  · intro t19 i20 k21
    refine keeps_ite k21 ?_
    refine keeps_foldl ?_ ?_
    · exact k21
    · intro t22 i23 k24
      refine keeps_State_meetTable k24 ?_ ?_
      · intro y25 k26
        exact keeps_State_swapScl k26
      · intro y27 k28
        exact keeps_State_wr k28

theorem keeps_State_armTable {s : State} {tab : Nat} {was : Nat} {now : Nat} (k2 : Keeps q n s) :
    Keeps q n (State.armTable s tab was now) := by
  unfold State.armTable
  exact keeps_ite (keeps_State_setReady k2) k2

theorem keeps_State_colBankWrite {s : State} {who : Nat} {n' : Nat} {value : Word} {be : BitVec 4} (k2 : Keeps q n s) :
    Keeps q n (State.colBankWrite s who n' value be) := by
  unfold State.colBankWrite
  extract_lets -merge -useContext x7
  try clear_value x7
  refine keeps_State_writeWith k2 ?_
  intro y8 y9 k10
  extract_lets -merge -useContext x11 x12
  have k13 : Keeps q n x12 := by
    unfold x12
    exact keeps_State_store k10
  try clear_value x12 x11
  refine keeps_foldl ?_ ?_
  · exact k13
  · intro t14 i15 k16
    exact keeps_State_armTable k16

theorem keeps_State_sclBankWrite {s : State} {who : Nat} {c : Nat} {value : Word} {be : BitVec 4} (k2 : Keeps q n s) :
    Keeps q n (State.sclBankWrite s who c value be) := by
  unfold State.sclBankWrite
  extract_lets -merge -useContext x7
  try clear_value x7
  refine keeps_State_writeWith k2 ?_
  intro y8 y9 k10
  extract_lets -merge -useContext x11
  have k12 : Keeps q n x11 := by
    unfold x11
    exact keeps_State_store k10
  try clear_value x11
  split
  refine keeps_State_swapIdle ?_
  refine keeps_State_armTable ?_
  exact keeps_State_armTable k12

theorem keeps_State_coefWrite {s : State} {who : Nat} {c : Nat} {off : Nat} {value : Word} {be : BitVec 4} (k2 : Keeps q n s) :
    Keeps q n (State.coefWrite s who c off value be) := by
  unfold State.coefWrite
  extract_lets -merge -useContext x8 x9
  try clear_value x9 x8
  refine keeps_State_writeWith k2 ?_
  intro y10 y11 k12
  refine keeps_State_setWritten ?_
  exact keeps_State_store k12

theorem keeps_State_setLoad {s : State} {n' : Nat} {v : Option LutLoad} (k2 : Keeps q n s) :
    Keeps q n (State.setLoad s n' v) := by
  unfold State.setLoad
  exact { k2 with loads := Tbl.wf_set _ _ k2.loads }

theorem keeps_State_loadWrite {s : State} {who : Nat} {n' : Nat} {value : Word} {be : BitVec 4} (k2 : Keeps q n s) :
    Keeps q n (State.loadWrite s who n' value be) := by
  unfold State.loadWrite
  extract_lets -merge -useContext x7
  try clear_value x7
  refine keeps_State_writeWith k2 ?_
  intro y8 y9 k10
  extract_lets -merge -useContext x11
  have k12 : Keeps q n x11 := by
    unfold x11
    refine keeps_State_wr ?_
    exact keeps_State_store k10
  try clear_value x11
  refine keeps_ite k12 ?_
  refine keeps_State_setLoad ?_
  refine keeps_State_wr ?_
  exact keeps_State_wr k12

theorem keeps_execLutLoad {who : Actor} {o : Out} {table : Fin 3} {vault : Bool} {s : State} (k6 : Keeps q n s) :
    ∀ t, (execLutLoad who o table vault s) = .next t → Keeps q n t := by
  unfold execLutLoad
  intro t e
  injection e with e
  subst e
  exact keeps_State_loadWrite k6

theorem keeps_State_readLong {s : State} {who cls space addr len : Nat} {z8 : List Nat} (k2 : Keeps q n s) :
    Keeps q n (State.readLong s who cls space addr len z8).1 := by
  induction z8 generalizing s with
  | nil => exact k2
  | cons l t ih =>
    unfold State.readLong
    split
    refine keeps_ite_fst (keeps_State_holdUnit k2) ?_
    split
    · rename_i v x e
      exact keeps_mk (keeps_fst e (keeps_State_readMem k2))
    · rename_i v x e
      exact ih (keeps_fst e (keeps_State_readMem k2))

theorem keeps_State_hwEntry {s : State} {kind : Nat} {k : Nat} {old : Word} {new : Word} (k2 : Keeps q n s) :
    Keeps q n (State.hwEntry s kind k old new) := by
  unfold State.hwEntry
  refine keeps_State_settle ?_
  exact keeps_State_hwRec k2

theorem keeps_execLutLoadDone {o : Out} {s : State} (k3 : Keeps q n s) :
    ∀ t, (execLutLoadDone o s) = .next t → Keeps q n t := by
  unfold execLutLoadDone
  extract_lets -merge -useContext x6 x7
  try clear_value x7 x6
  intro t e
  injection e with e
  subst e
  split
  · exact k3
  · extract_lets -merge -useContext x8
    try clear_value x8
    split
    rename_i v9 v10 v11 e12
    have k13 : Keeps q n v9 := keeps_fst e12 (by
        exact keeps_State_readLong k3
      )
    extract_lets -merge -useContext x14 x15 x16 x17
    have k18 : Keeps q n x16 := by
      unfold x16
      refine keeps_foldl ?_ ?_
      · exact k13
      · intro t19 i20 k21
        exact keeps_State_setLut k21
    have k22 : Keeps q n x17 := by
      unfold x17
      refine keeps_State_setWritten ?_
      refine keeps_State_wr ?_
      exact keeps_State_setLoad k18
    try clear_value x17 x16 x15 x14
    refine keeps_ite (keeps_State_setLoad k13) ?_
    refine keeps_ite ?_ (keeps_State_fault k22)
    refine keeps_State_hwEntry ?_
    exact keeps_State_wr k22

theorem keeps_State_colourPx {s : State} {n' : Nat} {x : Nat} {y : Nat} {frame : Nat} {v : List Nat} (k2 : Keeps q n s) :
    Keeps q n (State.colourPx s n' x y frame v).1 := by
  unfold State.colourPx
  refine keeps_ite_fst ?_ ?_
  · refine keeps_mk ?_
    exact k2
  · split
    · rename_i v8 e9
      have k10 : Keeps q n v8 := keeps_fst e9 (by
          exact keeps_State_useInject k2
        )
      refine keeps_mk ?_
      exact k10
    · rename_i v11 v12 e13
      have k14 : Keeps q n v11 := keeps_fst e13 (by
          exact keeps_State_useInject k2
        )
      extract_lets -merge -useContext x15 x16
      try clear_value x16 x15
      refine keeps_mk ?_
      refine keeps_State_fault ?_
      exact keeps_State_next k14

theorem keeps_State_fifoPut {s : State} {g : Nat} {es : List (Nat × FifoPx)} (k2 : Keeps q n s) :
    Keeps q n (State.fifoPut s g es) := by
  unfold State.fifoPut
  extract_lets -merge -useContext x5
  try clear_value x5
  exact keeps_State_setOut k2

theorem keeps_State_urgentWakes {s : State} {g : Nat} (k2 : Keeps q n s) :
    Keeps q n (State.urgentWakes s g) := by
  unfold State.urgentWakes
  exact keeps_State_promoteWakes k2

theorem keeps_State_report {s : State} {g : Nat} {tol : Nat} {urgent : Bool} {panic : Bool} (k2 : Keeps q n s) :
    Keeps q n (State.report s g tol urgent panic) := by
  unfold State.report
  refine keeps_foldl ?_ ?_
  · exact k2
  · intro t7 i8 k9
    extract_lets -merge -useContext x10
    try clear_value x10
    refine keeps_State_setPort11 ?_
    refine keeps_State_wr ?_
    refine keeps_State_wr ?_
    exact keeps_State_wr k9

theorem keeps_State_countPair {s : State} {g : Nat} {i : Nat} {n' : Nat} (k2 : Keeps q n s) :
    Keeps q n (State.countPair s g i n') := by
  unfold State.countPair
  refine keeps_foldl ?_ ?_
  · exact k2
  · intro t6 i7 k8
    exact keeps_State_count k8

theorem keeps_State_updateFill {s : State} {g : Nat} (k2 : Keeps q n s) :
    Keeps q n (State.updateFill s g) := by
  unfold State.updateFill
  extract_lets -merge -useContext x4 x5 x6 x7 x8 x9 x10 x11 x12 x13 x14 x15
  have k16 : Keeps q n x11 := by
    unfold x11
    refine keeps_foldl ?_ ?_
    · exact k2
    · intro t17 i18 k19
      extract_lets -merge -useContext x20 x21
      have k22 : Keeps q n x21 := by
        unfold x21
        exact keeps_State_wr k19
      try clear_value x21 x20
      exact { k22 with tally := NatTbl.wf_put _ _ k19.tally }
  have k24 : Keeps q n x12 := by
    unfold x12
    exact keeps_ite (keeps_State_countPair k16) k16
  have k25 : Keeps q n x15 := by
    unfold x15
    refine keeps_ite ?_ ?_
    · refine keeps_State_urgentWakes ?_
      exact keeps_State_setOut k24
    · refine keeps_ite ?_ k24
      refine keeps_State_setOut ?_
      split
      · exact keeps_State_countPair k24
      · exact k24
  try clear_value x15 x14 x13 x12 x11 x10 x9 x8 x7 x6 x5 x4
  exact keeps_ite k2 (keeps_ite k25 (keeps_State_report k25))

theorem keeps_State_plLines {s : State} {addr len : Nat} {z5 : List Nat} (k2 : Keeps q n s) :
    Keeps q n (State.plLines s addr len z5).1 := by
  induction z5 generalizing s with
  | nil => exact k2
  | cons l t ih => exact ih (keeps_State_vltLine k2)

theorem keeps_State_plRead {s : State} {n' : Nat} {sc : Nat} {y : Nat} (k2 : Keeps q n s) :
    Keeps q n (State.plRead s n' sc y).1 := by
  unfold State.plRead
  split
  · refine keeps_mk ?_
    exact k2
  · split
    rename_i v6 v7 e8
    have k9 : Keeps q n v6 := keeps_fst e8 (by
        exact keeps_State_plLines k2
      )
    extract_lets -merge -useContext x10
    have k11 : Keeps q n x10 := by
      unfold x10
      refine keeps_ite k9 ?_
      refine keeps_State_fault ?_
      exact keeps_State_count k9
    try clear_value x10
    refine keeps_mk ?_
    exact k11

theorem keeps_State_plGet {s : State} {m : Nat} {sc : Nat} {y : Nat} {vact : Nat} (k2 : Keeps q n s) :
    Keeps q n (State.plGet s m sc y vact).1 := by
  unfold State.plGet
  refine keeps_ite_fst (keeps_State_plRead k2) ?_
  refine keeps_mk ?_
  exact k2

theorem keeps_State_plAhead {s : State} {g : Nat} {line : Nat} {next : Nat} (k2 : Keeps q n s) :
    Keeps q n (State.plAhead s g line next) := by
  unfold State.plAhead
  refine keeps_foldl ?_ ?_
  · exact k2
  · intro t6 i7 k8
    extract_lets -merge -useContext x9
    try clear_value x9
    split
    rename_i v10 v11 e12
    have k13 : Keeps q n v10 := keeps_fst e12 (by
        refine keeps_ite_fst ?_ (keeps_State_plGet k8)
        refine keeps_mk ?_
        exact k8
      )
    split
    rename_i v14 v15 e16
    have k17 : Keeps q n v14 := keeps_fst e16 (by
        refine keeps_ite_fst ?_ (keeps_State_plGet k13)
        refine keeps_mk ?_
        exact k13
      )
    extract_lets -merge -useContext x18
    try clear_value x18
    exact keeps_State_setOut k17

theorem keeps_State_safeEntry {s : State} {g : Nat} (k2 : Keeps q n s) :
    Keeps q n (State.safeEntry s g) := by
  unfold State.safeEntry
  extract_lets -merge -useContext x4 x5 x6 x7
  have k8 : Keeps q n x7 := by
    unfold x7
    exact keeps_State_setOut k2
  try clear_value x7 x6 x5 x4
  refine keeps_ite k2 ?_
  refine keeps_ite (keeps_State_setOut k2) ?_
  refine keeps_ite ?_ k8
  refine keeps_foldl ?_ ?_
  · exact k8
  · intro t9 i10 k11
    exact keeps_State_setSafe1 k11

theorem keeps_State_latchTiming {s : State} {g : Nat} (k2 : Keeps q n s) :
    Keeps q n (State.latchTiming s g).1 := by
  unfold State.latchTiming
  split
  · rename_i v4 v5 e6
    have k7 : Keeps q n v4 := keeps_fst e6 (by
        exact keeps_State_useInject k2
      )
    refine keeps_mk ?_
    exact keeps_State_fault k7
  · rename_i v8 e9
    have k10 : Keeps q n v8 := keeps_fst e9 (by
        exact keeps_State_useInject k2
      )
    refine keeps_mk ?_
    exact k10

theorem keeps_State_timStatus {s : State} {g : Nat} {line : Nat} {vblank : Bool} {held : Bool} (k2 : Keeps q n s) :
    Keeps q n (State.timStatus s g line vblank held) := by
  unfold State.timStatus
  refine keeps_foldl ?_ ?_
  · exact k2
  · intro t7 i8 k9
    extract_lets -merge -useContext x10
    try clear_value x10
    refine keeps_State_wr ?_
    refine keeps_State_wr ?_
    refine keeps_State_wr ?_
    exact keeps_State_wr k9

theorem keeps_State_plTake {s : State} {g : Nat} (k2 : Keeps q n s) :
    Keeps q n (State.plTake s g) := by
  unfold State.plTake
  refine keeps_foldl ?_ ?_
  · exact k2
  · intro t4 i5 k6
    extract_lets -merge -useContext x7 x8 x9
    have k10 : Keeps q n x7 := by
      unfold x7
      refine keeps_foldl ?_ ?_
      · exact k6
      · intro t11 i12 k13
        exact keeps_State_setAppl k13
    have k14 : Keeps q n x9 := by
      unfold x9
      refine keeps_State_wr ?_
      exact keeps_State_wr k10
    try clear_value x9 x8 x7
    exact keeps_ite (keeps_State_count k14) k14

theorem keeps_State_frameStart {s : State} {g : Nat} (k2 : Keeps q n s) :
    Keeps q n (State.frameStart s g) := by
  unfold State.frameStart
  extract_lets -merge -useContext x4 x5 x6 x7 x8 x9
  have k10 : Keeps q n x5 := by
    unfold x5
    exact keeps_State_setOut k2
  have k11 : Keeps q n x6 := by
    unfold x6
    exact keeps_ite (keeps_State_plTake k10) k10
  have k12 : Keeps q n x7 := by
    unfold x7
    refine keeps_foldl ?_ ?_
    · exact k11
    · intro t13 i14 k15
      extract_lets -merge -useContext x16 x17
      have k18 : Keeps q n x17 := by
        unfold x17
        exact keeps_State_setOut k15
      try clear_value x17 x16
      refine keeps_State_chkFrameStart ?_
      exact keeps_State_chkFrameStart k18
  have k19 : Keeps q n x8 := by
    unfold x8
    exact keeps_State_wr k12
  try clear_value x9 x8 x7 x6 x5 x4
  exact keeps_ite { k19 with } k12

theorem keeps_State_plRetake {s : State} {g : Nat} (k2 : Keeps q n s) :
    Keeps q n (State.plRetake s g) := by
  unfold State.plRetake
  extract_lets -merge -useContext x4
  have k5 : Keeps q n x4 := by
    unfold x4
    exact keeps_State_plTake k2
  try clear_value x4
  refine keeps_foldl ?_ ?_
  · exact k5
  · intro t6 i7 k8
    extract_lets -merge -useContext x9
    try clear_value x9
    split
    rename_i v10 v11 e12
    have k13 : Keeps q n v10 := keeps_fst e12 (by
        exact keeps_State_plGet k8
      )
    split
    rename_i v14 v15 e16
    have k17 : Keeps q n v14 := keeps_fst e16 (by
        exact keeps_State_plGet k13
      )
    extract_lets -merge -useContext x18
    try clear_value x18
    exact keeps_State_setOut k17

theorem keeps_State_lineEvents {s : State} {m : Nat} {line : Nat} {t : Timing} (k2 : Keeps q n s) :
    Keeps q n (State.lineEvents s m line t) := by
  unfold State.lineEvents
  extract_lets -merge -useContext x6 x7 x8 x9 x10
  have k11 : Keeps q n x8 := by
    unfold x8
    exact keeps_ite (keeps_State_raise k2) k2
  have k12 : Keeps q n x9 := by
    unfold x9
    exact keeps_ite (keeps_State_raise k11) k11
  have k13 : Keeps q n x10 := by
    unfold x10
    exact keeps_ite (keeps_State_raise k12) k12
  try clear_value x10 x9 x8 x7 x6
  refine keeps_ite ?_ k13
  refine keeps_State_chkFrameEnd ?_
  refine keeps_State_chkFrameEnd ?_
  exact keeps_State_linkVblank k13

theorem keeps_State_newLine {s : State} {g : Nat} {line : Nat} {t : Timing} (k2 : Keeps q n s) :
    Keeps q n (State.newLine s g line t) := by
  unfold State.newLine
  extract_lets -merge -useContext x6 x7 x8 x9 x10 x11 x12 x13
  have k14 : Keeps q n x7 := by
    unfold x7
    exact keeps_State_setOut k2
  have k15 : Keeps q n x8 := by
    unfold x8
    exact keeps_ite (keeps_State_frameStart k14) k14
  have k16 : Keeps q n x10 := by
    unfold x10
    exact keeps_ite (keeps_State_setOut k15) k15
  have k17 : Keeps q n x11 := by
    unfold x11
    exact keeps_State_timStatus k16
  have k18 : Keeps q n x13 := by
    unfold x13
    exact keeps_State_plAhead k17
  try clear_value x13 x12 x11 x10 x9 x8 x7 x6
  refine keeps_foldl ?_ ?_
  · exact k18
  · intro t19 i20 k21
    exact keeps_State_lineEvents k21

theorem keeps_execLineStart {o : Out} {s : State} (k3 : Keeps q n s) :
    ∀ t, (execLineStart o s) = .next t → Keeps q n t := by
  unfold execLineStart
  extract_lets -merge -useContext x6 x7
  have k8 : Keeps q n x7 := by
    unfold x7
    exact keeps_State_safeEntry k3
  try clear_value x7 x6
  intro t e
  injection e with e
  subst e
  refine keeps_ite k3 ?_
  refine keeps_ite (keeps_State_stopOutput k3) ?_
  split
  rename_i v9 v10 e11
  have k12 : Keeps q n v9 := keeps_fst e11 (by
      exact keeps_State_latchTiming k8
    )
  extract_lets -merge -useContext x13 x14
  have k15 : Keeps q n x14 := by
    unfold x14
    refine keeps_State_timStatus ?_
    exact keeps_State_setOut k12
  try clear_value x14 x13
  refine keeps_ite ?_ (keeps_State_newLine k12)
  refine keeps_foldl ?_ ?_
  · exact k15
  · intro t16 i17 k18
    exact keeps_State_linkVblank k18

theorem keeps_execGeneratorStart {o : Out} {s : State} (k3 : Keeps q n s) :
    ∀ t, (execGeneratorStart o s) = .next t → Keeps q n t := by
  unfold execGeneratorStart
  extract_lets -merge -useContext x8 x9 x10 x11
  have k12 : Keeps q n x11 := by
    unfold x11
    exact keeps_State_setOut k3
  try clear_value x11 x10 x9 x8
  intro t e
  injection e with e
  subst e
  exact keeps_ite k3 (keeps_State_newLine k12)

theorem keeps_State_keepReplay {s : State} {g : Nat} {n' : Nat} (k2 : Keeps q n s) :
    Keeps q n (State.keepReplay s g n') := by
  unfold State.keepReplay
  extract_lets -merge -useContext x5 x6 x7 x8
  try clear_value x8 x7 x6 x5
  split
  · exact k2
  · exact keeps_ite k2 (keeps_State_fifoPut k2)

theorem keeps_State_dropRetention {s : State} {g : Nat} (k2 : Keeps q n s) :
    Keeps q n (State.dropRetention s g) := by
  unfold State.dropRetention
  extract_lets -merge -useContext x4 x5
  have k6 : Keeps q n x5 := by
    unfold x5
    refine keeps_State_dropRetained ?_
    exact keeps_State_keepReplay k2
  try clear_value x5 x4
  refine keeps_ite ?_ k6
  refine keeps_foldl ?_ ?_
  · exact k6
  · intro t7 i8 k9
    exact keeps_ite (keeps_State_wakeAsk k9) k9

theorem keeps_State_turnRetained {s : State} {g : Nat} (k2 : Keeps q n s) :
    Keeps q n (State.turnRetained s g) := by
  unfold State.turnRetained
  extract_lets -merge -useContext x4 x5 x6 x7
  try clear_value x7 x6 x5 x4
  split
  · exact k2
  · extract_lets -merge -useContext x8 x9
    have k10 : Keeps q n x8 := by
      unfold x8
      refine keeps_State_wr ?_
      exact keeps_State_setOut k2
    have k11 : Keeps q n x9 := by
      unfold x9
      exact keeps_State_countPair k10
    try clear_value x9 x8
    refine keeps_ite (keeps_State_countPair k2) ?_
    refine keeps_ite ?_ ?_
    · refine keeps_foldl ?_ ?_
      · exact k11
      · intro t12 i13 k14
        exact keeps_ite (keeps_State_setPower k14) k14
    · refine keeps_State_wr ?_
      refine keeps_State_moveSpace ?_
      exact keeps_State_setOut k2

theorem keeps_State_turnStatic {s : State} {g : Nat} (k2 : Keeps q n s) :
    Keeps q n (State.turnStatic s g) := by
  unfold State.turnStatic
  extract_lets -merge -useContext x4 x5 x6 x7 x8 x9 x10 x11 x12
  have k13 : Keeps q n x6 := by
    unfold x6
    refine keeps_State_freeRetained ?_
    exact keeps_State_keepReplay k2
  have k14 : Keeps q n x8 := by
    unfold x8
    exact keeps_State_setOut k13
  have k15 : Keeps q n x11 := by
    unfold x11
    refine keeps_State_raise ?_
    exact keeps_State_hwChange k2
  try clear_value x12 x11 x10 x9 x8 x7 x6 x5 x4
  refine keeps_ite ?_ (keeps_ite (keeps_ite (keeps_State_setOut k15) k15) k2)
  refine keeps_ite ?_ ?_
  · refine keeps_State_raise ?_
    exact keeps_State_hwChange k14
  · refine keeps_State_turnRetained ?_
    exact keeps_State_wr k2

theorem keeps_State_setRefSrc {s : State} {n' : Nat} {c : Nat} {r : RefSrc} (k2 : Keeps q n s) :
    Keeps q n (State.setRefSrc s n' c r) := by
  unfold State.setRefSrc
  extract_lets -merge -useContext x6
  try clear_value x6
  refine keeps_State_wr ?_
  exact keeps_State_setOut k2

theorem keeps_State_loseRef {s : State} {g : Nat} {c : Nat} (k2 : Keeps q n s) :
    Keeps q n (State.loseRef s g c) := by
  unfold State.loseRef
  extract_lets -merge -useContext x5 x6 x7
  have k8 : Keeps q n x6 := by
    unfold x6
    exact keeps_State_wr k2
  try clear_value x7 x6 x5
  refine keeps_ite ?_ k2
  refine keeps_State_setRef ?_
  exact keeps_State_setOut k8

theorem keeps_State_refEdge {s : State} {g : Nat} {c : Nat} {at_ : Nat} (k2 : Keeps q n s) :
    Keeps q n (State.refEdge s g c at_) := by
  unfold State.refEdge
  extract_lets -merge -useContext x6 x7 x8
  try clear_value x8 x7 x6
  refine keeps_ite k2 ?_
  split
  extract_lets -merge -useContext x9 x10 x11 x12 x13 x14
  have k15 : Keeps q n x9 := by
    unfold x9
    exact keeps_State_setRefSrc k2
  have k16 : Keeps q n x10 := by
    unfold x10
    exact keeps_ite (keeps_State_loseRef k15) k15
  have k17 : Keeps q n x14 := by
    unfold x14
    refine keeps_State_setOut ?_
    exact keeps_State_wr k16
  try clear_value x14 x13 x12 x11 x10 x9
  exact keeps_ite k16 (keeps_State_setRef k17)

theorem keeps_execRefEdge {o : Out} {src : Fin 5} {s : State} (k4 : Keeps q n s) :
    ∀ t, (execRefEdge o src s) = .next t → Keeps q n t := by
  unfold execRefEdge
  intro t e
  injection e with e
  subst e
  exact keeps_ite k4 (keeps_State_refEdge k4)

theorem keeps_execRefTimeout {o : Out} {src : Fin 5} {s : State} (k4 : Keeps q n s) :
    ∀ t, (execRefTimeout o src s) = .next t → Keeps q n t := by
  unfold execRefTimeout
  extract_lets -merge -useContext x8 x9 x10
  have k11 : Keeps q n x10 := by
    unfold x10
    exact keeps_State_setRefSrc k4
  try clear_value x10 x9 x8
  intro t e
  injection e with e
  subst e
  split
  · exact k4
  · exact keeps_ite k4 (keeps_ite (keeps_State_loseRef k11) k11)

theorem keeps_State_turnRef {s : State} {g : Nat} (k2 : Keeps q n s) :
    Keeps q n (State.turnRef s g) := by
  unfold State.turnRef
  extract_lets -merge -useContext x4 x5 x6 x7 x8 x9 x10 x11 x12 x13 x14 x15 x16 x17 x18 x19 x20 x21 x22
  have k23 : Keeps q n x10 := by
    unfold x10
    exact keeps_State_wr k2
  have k24 : Keeps q n x13 := by
    unfold x13
    exact keeps_State_setOut k23
  have k25 : Keeps q n x15 := by
    unfold x15
    refine keeps_ite ?_ k24
    refine keeps_State_wr ?_
    exact keeps_State_setRef k24
  have k26 : Keeps q n x21 := by
    unfold x21
    exact keeps_State_setOut k23
  have k27 : Keeps q n x22 := by
    unfold x22
    exact keeps_State_wr k26
  try clear_value x22 x21 x20 x19 x18 x17 x16 x15 x14 x13 x12 x11 x10 x9 x8 x7 x6 x5 x4
  exact keeps_ite (keeps_State_setOut k25) (keeps_ite k27 (keeps_State_setRef k27))

theorem keeps_State_latchFrame {s : State} {g : Nat} (k2 : Keeps q n s) :
    Keeps q n (State.latchFrame s g) := by
  unfold State.latchFrame
  extract_lets -merge -useContext x4 x5 x6 x7 x8 x9 x10
  have k11 : Keeps q n x5 := by
    unfold x5
    split
    · exact keeps_State_countPair k2
    · exact k2
  have k12 : Keeps q n x7 := by
    unfold x7
    split
    · refine keeps_State_setOut ?_
      exact keeps_State_countPair k11
    · exact k11
  have k13 : Keeps q n x9 := by
    unfold x9
    refine keeps_foldl ?_ ?_
    · exact k12
    · intro t14 i15 k16
      exact keeps_State_latch k16
  try clear_value x10 x9 x8 x7 x6 x5 x4
  refine keeps_foldl ?_ ?_
  · exact k13
  · intro t17 i18 k19
    exact keeps_State_slowCheck k19

theorem keeps_State_takeSlots {s : State} {g : Nat} (k2 : Keeps q n s) :
    Keeps q n (State.takeSlots s g) := by
  unfold State.takeSlots
  refine keeps_foldl ?_ ?_
  · exact k2
  · intro t4 i5 k6
    extract_lets -merge -useContext x7
    try clear_value x7
    refine keeps_State_setAppl ?_
    exact keeps_State_setAppl k6

theorem keeps_State_assignScalers {s : State} {g : Nat} (k2 : Keeps q n s) :
    Keeps q n (State.assignScalers s g) := by
  unfold State.assignScalers
  extract_lets -merge -useContext x4 x5 x6
  have k7 : Keeps q n x6 := by
    unfold x6
    refine keeps_foldl ?_ ?_
    · exact k2
    · intro t8 i9 k10
      extract_lets -merge -useContext x11
      try clear_value x11
      exact keeps_ite (keeps_State_freeScaler k10) k10
  try clear_value x6 x5 x4
  refine keeps_foldl ?_ ?_
  · exact k7
  · intro t12 i13 k14
    split
    · refine keeps_State_wr ?_
      refine keeps_State_wr ?_
      exact keeps_State_wr k14
    · exact k14

theorem keeps_State_takeCaptures {s : State} {g : Nat} (k2 : Keeps q n s) :
    Keeps q n (State.takeCaptures s g) := by
  unfold State.takeCaptures
  refine keeps_foldl ?_ ?_
  · exact k2
  · intro t4 i5 k6
    extract_lets -merge -useContext x7 x8 x9 x10
    try clear_value x10 x9 x8 x7
    exact keeps_State_setCap k6

theorem keeps_State_endReplaced {s : State} {g : Nat} (k2 : Keeps q n s) :
    Keeps q n (State.endReplaced s g) := by
  unfold State.endReplaced
  exact keeps_State_endFetches k2

theorem keeps_State_boundary {s : State} {g : Nat} (k2 : Keeps q n s) :
    Keeps q n (State.boundary s g) := by
  unfold State.boundary
  extract_lets -merge -useContext x4 x5 x6 x7 x8 x9 x10 x11 x12 x13 x14 x15 x16 x17 x18 x19 x20 x21 x22
  have k23 : Keeps q n x5 := by
    unfold x5
    exact keeps_State_latchFrame k2
  have k24 : Keeps q n x6 := by
    unfold x6
    refine keeps_foldl ?_ ?_
    · exact k23
    · intro t25 i26 k27
      exact keeps_State_wr k27
  have k28 : Keeps q n x8 := by
    unfold x8
    exact keeps_State_setOut k24
  have k29 : Keeps q n x9 := by
    unfold x9
    exact keeps_ite (keeps_State_wr k28) k28
  have k30 : Keeps q n x10 := by
    unfold x10
    exact keeps_State_takeSlots k29
  have k31 : Keeps q n x11 := by
    unfold x11
    exact keeps_State_synBoundaries k30
  have k32 : Keeps q n x13 := by
    unfold x13
    exact keeps_State_applyCommits k31
  have k33 : Keeps q n x14 := by
    unfold x14
    exact keeps_State_endReplaced k32
  have k34 : Keeps q n x15 := by
    unfold x15
    exact keeps_ite (keeps_State_plRetake k33) k33
  have k35 : Keeps q n x16 := by
    unfold x16
    exact keeps_State_swapTables k34
  have k36 : Keeps q n x18 := by
    unfold x18
    refine keeps_foldl ?_ ?_
    · exact k35
    · intro t37 i38 k39
      refine keeps_State_syncCaps ?_
      exact keeps_State_wr k39
  have k40 : Keeps q n x19 := by
    unfold x19
    refine keeps_State_syncSafe ?_
    refine keeps_foldl ?_ ?_
    · exact k36
    · intro t41 i42 k43
      exact keeps_State_syncLayer k43
  have k44 : Keeps q n x20 := by
    unfold x20
    refine keeps_State_turnRef ?_
    refine keeps_State_turnStatic ?_
    exact keeps_State_assignScalers k40
  have k45 : Keeps q n x22 := by
    unfold x22
    refine keeps_ite ?_ k44
    refine keeps_foldl ?_ ?_
    · exact keeps_State_setOut k44
    · intro t46 i47 k48
      exact keeps_State_setSafe1 k48
  try clear_value x22 x21 x20 x19 x18 x17 x16 x15 x14 x13 x12 x11 x10 x9 x8 x7 x6 x5 x4
  exact keeps_State_takeCaptures k45

theorem keeps_execFrameBoundary {o : Out} {s : State} (k3 : Keeps q n s) :
    ∀ t, (execFrameBoundary o s) = .next t → Keeps q n t := by
  unfold execFrameBoundary
  extract_lets -merge -useContext x5
  try clear_value x5
  intro t e
  injection e with e
  subst e
  exact keeps_ite (keeps_State_boundary k3) k3

theorem keeps_execRoutineLoad {m : MintId} {s : State} (k3 : Keeps q n s) :
    ∀ t, (execRoutineLoad m s) = .next t → Keeps q n t := by
  unfold execRoutineLoad
  extract_lets -merge -useContext x6 x7
  try clear_value x7 x6
  intro t e
  injection e with e
  subst e
  refine keeps_ite k3 ?_
  split
  · exact k3
  · split
    · exact k3
    · extract_lets -merge -useContext x8 x9
      try clear_value x9 x8
      split
      · rename_i v10 v11 e12
        have k13 : Keeps q n v10 := keeps_fst e12 (by
            exact keeps_State_readMem k3
          )
        refine keeps_State_bounce ?_
        exact keeps_State_fault k13
      · rename_i v14 v15 e16
        have k17 : Keeps q n v14 := keeps_fst e16 (by
            exact keeps_State_readMem k3
          )
        extract_lets -merge -useContext x18 x19
        try clear_value x19 x18
        split
        · rename_i v20 v21 e22
          have k23 : Keeps q n v20 := keeps_fst e22 (by
              exact keeps_State_readMem k17
            )
          refine keeps_State_bounce ?_
          exact keeps_State_fault k23
        · rename_i v24 v25 e26
          have k27 : Keeps q n v24 := keeps_fst e26 (by
              exact keeps_State_readMem k17
            )
          extract_lets -merge -useContext x28
          have k29 : MintOk x28 := by
            unfold x28
            exact keeps_State_mint k27
          try clear_value x28
          refine keeps_State_count ?_
          refine keeps_State_setMint k27 ?_
          exact { k29 with code := wf_codeTable _ _, data := wf_putBytes _ _ k29.data }

theorem keeps_State_countLines {s : State} {g : Nat} {page : Nat} {tally : Nat} {base : Nat} {lines : List Nat} (k2 : Keeps q n s) :
    Keeps q n (State.countLines s g page tally base lines) := by
  unfold State.countLines
  extract_lets -merge -useContext x8 x9
  try clear_value x9 x8
  refine keeps_State_setOut ?_
  exact keeps_State_count k2

theorem keeps_State_countAlt {s : State} {g : Nat} {st : Stream} (k2 : Keeps q n s) :
    Keeps q n (State.countAlt s g st) := by
  unfold State.countAlt
  exact keeps_ite k2 (keeps_State_countLines k2)

theorem keeps_State_countScaled {s : State} {g : Nat} {st : Stream} {part : Rect} (k2 : Keeps q n s) :
    Keeps q n (State.countScaled s g st part) := by
  unfold State.countScaled
  split
  · exact keeps_State_countLines k2
  · exact k2

theorem keeps_State_newCheque {s : State} {c : Cheque} (k2 : Keeps q n s) :
    Keeps q n (State.newCheque s c).1 := by
  unfold State.newCheque
  refine keeps_mk ?_
  refine keeps_State_setCheque ?_
  exact { k2 with }

theorem keeps_State_coefParity {s : State} {w : Nat} {st : Stream} (k2 : Keeps q n s) :
    Keeps q n (State.coefParity s w st).1 := by
  unfold State.coefParity
  extract_lets -merge -useContext x5
  try clear_value x5
  split
  · refine keeps_mk ?_
    exact k2
  · split
    · rename_i v6 e7
      have k8 : Keeps q n v6 := keeps_fst e7 (by
          exact keeps_State_useInject k2
        )
      refine keeps_mk ?_
      exact k8
    · rename_i v9 v10 e11
      have k12 : Keeps q n v9 := keeps_fst e11 (by
          exact keeps_State_useInject k2
        )
      refine keeps_mk ?_
      refine keeps_State_fault ?_
      exact keeps_State_next k12

theorem keeps_State_streams {s : State} {g press : Nat} {race : Bool} {cell : Rect} {z7 : List Placed} (k2 : Keeps q n s) :
    Keeps q n (State.streams s g press race cell z7).1 := by
  induction z7 generalizing s with
  | nil => exact k2
  | cons p t ih =>
    unfold State.streams
    extract_lets part later st s2
    have h2 : Keeps q n s2 := keeps_State_countScaled (keeps_State_countAlt k2)
    split
    rename_i v x e
    exact ih (keeps_fst e (keeps_State_coefParity h2))

theorem keeps_State_issueEffect {s : State} {id : Nat} {c : Cheque} {st : Stream} (k2 : Keeps q n s) :
    Keeps q n (State.issueEffect s id c st) := by
  unfold State.issueEffect
  extract_lets -merge -useContext x6 x7 x8
  try clear_value x8 x7 x6
  split
  · refine keeps_ite (keeps_State_lateEffect k2) ?_
    split
    rename_i v9 v10 e11
    have k12 : Keeps q n v9 := keeps_fst e11 (by
        exact keeps_State_newCheque k2
      )
    extract_lets -merge -useContext x13 x14
    have k15 : Keeps q n x13 := by
      unfold x13
      exact keeps_State_setAcct k12
    have k16 : Keeps q n x14 := by
      unfold x14
      exact keeps_State_setCheque k15
    try clear_value x14 x13
    refine keeps_State_syncPress ?_
    exact keeps_State_setPress k16
  · exact keeps_State_lateEffect k2

theorem keeps_State_tryEffect {s : State} {id : Nat} {layer : Nat} (k2 : Keeps q n s) :
    Keeps q n (State.tryEffect s id layer) := by
  unfold State.tryEffect
  split
  · exact k2
  · split
    · exact k2
    · exact keeps_ite (keeps_State_issueEffect k2) k2

theorem keeps_State_lateCell {s : State} {g : Nat} {cell : Rect} (k2 : Keeps q n s) :
    Keeps q n (State.lateCell s g cell) := by
  unfold State.lateCell
  refine keeps_ite k2 ?_
  refine keeps_foldl ?_ ?_
  · exact k2
  · intro t5 i6 k7
    exact keeps_State_count k7

theorem keeps_State_startCell {s : State} {g : Nat} {race : Bool} {ps : List Placed} {presses : List Nat} {col : Nat} {row : Nat} (k2 : Keeps q n s) :
    Keeps q n (State.startCell s g race ps presses col row) := by
  unfold State.startCell
  extract_lets -merge -useContext x9 x10 x11 x12 x13 x14 x15 x16 x17
  have k18 : Keeps q n x14 := by
    unfold x14
    refine keeps_foldl ?_ ?_
    · exact k2
    · intro t19 i20 k21
      exact keeps_State_count k21
  have k22 : Keeps q n x15 := by
    unfold x15
    refine keeps_State_count ?_
    refine keeps_foldl ?_ ?_
    · exact k18
    · intro t23 i24 k25
      exact keeps_State_count k25
  try clear_value x17 x16 x15 x14 x13 x12 x11 x10 x9
  split
  · rename_i v26 v27 e28
    have k29 : Keeps q n v26 := keeps_fst e28 (by
        exact keeps_State_useInject k22
      )
    refine keeps_State_lateCell ?_
    exact keeps_State_fault k29
  · rename_i v30 e31
    have k32 : Keeps q n v30 := keeps_fst e31 (by
        exact keeps_State_useInject k22
      )
    extract_lets -merge -useContext x33 x34
    have k35 : Keeps q n x33 := by
      unfold x33
      exact keeps_State_count k32
    try clear_value x34 x33
    refine keeps_ite (keeps_State_setOut k35) ?_
    split
    rename_i v36 v37 e38
    have k39 : Keeps q n v36 := keeps_fst e38 (by
        exact keeps_State_streams k32
      )
    split
    rename_i v40 v41 e42
    have k43 : Keeps q n v40 := keeps_fst e42 (by
        exact keeps_State_newCheque k39
      )
    extract_lets -merge -useContext x44
    have k45 : Keeps q n x44 := by
      unfold x44
      refine keeps_State_count ?_
      refine keeps_State_syncPress ?_
      exact keeps_State_setPress k43
    try clear_value x44
    refine keeps_foldl ?_ ?_
    · exact k45
    · intro t46 i47 k48
      exact keeps_State_tryEffect k48

theorem keeps_State_retain {s : State} {g : Nat} {es : List (Nat × FifoPx)} (k2 : Keeps q n s) :
    Keeps q n (State.retain s g es) := by
  unfold State.retain
  extract_lets -merge -useContext x5 x6 x7 x8
  have k9 : Keeps q n x7 := by
    unfold x7
    exact keeps_State_next k2
  try clear_value x8 x7 x6 x5
  split
  · exact k2
  · extract_lets -merge -useContext x10 x11
    try clear_value x11 x10
    refine keeps_ite k2 ?_
    refine keeps_ite (keeps_State_dropRetained k9) ?_
    refine keeps_State_wr ?_
    refine keeps_State_moveSpace ?_
    exact keeps_State_setOut k9

theorem keeps_State_enterFifo {s : State} {g : Nat} {frame : Nat} {es : List (Nat × Nat × FifoPx)} (k2 : Keeps q n s) :
    Keeps q n (State.enterFifo s g frame es) := by
  unfold State.enterFifo
  extract_lets -merge -useContext x6 x7 x8
  have k9 : Keeps q n x8 := by
    unfold x8
    refine keeps_State_updateFill ?_
    exact keeps_State_fifoPut k2
  try clear_value x8 x7 x6
  exact keeps_State_retain k9

theorem keeps_State_colourAll {s : State} {g frame : Nat} {z5 : List (Nat × Nat × List Nat × Bool)} (k2 : Keeps q n s) :
    Keeps q n (State.colourAll s g frame z5).1 := by
  induction z5 generalizing s with
  | nil => exact k2
  | cons p t ih => exact ih (keeps_State_colourPx k2)

theorem keeps_State_fillBacks {s : State} {g : Nat} {z4 : List Back} (k2 : Keeps q n s) :
    Keeps q n (State.fillBacks s g z4) := by
  induction z4 generalizing s with
  | nil => exact k2
  | cons b t ih =>
    exact ih (keeps_ite (keeps_State_lateCell k2) (keeps_ite k2 (keeps_ite (keeps_State_setOut k2)
      (keeps_State_enterFifo (keeps_State_colourAll k2)))))

theorem keeps_State_flushBacks {s : State} {g : Nat} (k2 : Keeps q n s) :
    Keeps q n (State.flushBacks s g) := by
  unfold State.flushBacks
  extract_lets -merge -useContext x4
  try clear_value x4
  refine keeps_State_fillBacks ?_
  exact keeps_State_setOut k2

theorem keeps_execBandStart {o : Out} {s : State} (k3 : Keeps q n s) :
    ∀ t, (execBandStart o s) = .next t → Keeps q n t := by
  unfold execBandStart
  extract_lets -merge -useContext x12 x13 x14 x15 x16 x17 x18 x19
  have k20 : Keeps q n x15 := by
    unfold x15
    exact keeps_State_applyLegs k3
  have k21 : Keeps q n x18 := by
    unfold x18
    refine keeps_foldl ?_ ?_
    · exact k20
    · intro t22 i23 k24
      exact keeps_State_startCell k24
  try clear_value x19 x18 x17 x16 x15 x14 x13 x12
  intro t e
  injection e with e
  subst e
  refine keeps_ite k3 ?_
  refine keeps_State_flushBacks ?_
  exact keeps_State_setOut k21

theorem keeps_execRacingCellRead {o : Out} {s : State} (k3 : Keeps q n s) :
    ∀ t, (execRacingCellRead o s) = .next t → Keeps q n t := by
  unfold execRacingCellRead
  extract_lets -merge -useContext x9 x10 x11 x12 x13
  have k14 : Keeps q n x12 := by
    unfold x12
    exact keeps_State_setOut k3
  try clear_value x13 x12 x11 x10 x9
  intro t e
  injection e with e
  subst e
  refine keeps_ite k3 ?_
  split
  · exact k14
  · split
    · exact k14
    · extract_lets -merge -useContext x15
      try clear_value x15
      refine keeps_foldl ?_ ?_
      · exact keeps_State_setCheque k14
      · intro t16 i17 k18
        exact keeps_ite k18 (keeps_State_countAlt k18)

theorem keeps_State_takeBlock {s : State} {id : Nat} {layer : Nat} {b : Nat} {data : Option (List Byte)} (k2 : Keeps q n s) :
    Keeps q n (State.takeBlock s id layer b data) := by
  unfold State.takeBlock
  split
  · exact k2
  · refine keeps_State_endWaits ?_ k2
    exact keeps_State_setCheque k2

theorem keeps_State_deliverBlock {s : State} {id : Nat} {c : Cheque} {st : Stream} {b : Nat} {data : Option (List Byte)} (k2 : Keeps q n s) :
    Keeps q n (State.deliverBlock s id c st b data) := by
  unfold State.deliverBlock
  extract_lets -merge -useContext x8 x9 x10 x11 x12 x13 x14 x15 x16
  have k17 : Keeps q n x10 := by
    unfold x10
    exact keeps_State_takeBlock k2
  have k18 : Keeps q n x11 := by
    unfold x11
    split
    · exact keeps_State_takeBlock k17
    · exact k17
  have k19 : Keeps q n x14 := by
    unfold x14
    exact keeps_ite (keeps_State_count k18) k18
  have k20 : Keeps q n x15 := by
    unfold x15
    exact keeps_ite (keeps_State_fault k19) k19
  have k21 : Keeps q n x16 := by
    unfold x16
    exact keeps_ite (keeps_State_fault k20) k20
  try clear_value x16 x15 x14 x13 x12 x11 x10 x9 x8
  exact keeps_State_tryEffect k21

theorem keeps_State_openSlot {s : State} {id : Nat} {layer : Nat} (k2 : Keeps q n s) :
    Keeps q n (State.openSlot s id layer) := by
  unfold State.openSlot
  extract_lets -merge -useContext x5
  have k6 : ∀ a10 a11, Keeps q n a10 → Keeps q n (x5 a10 a11) := by
    unfold x5
    intro y7 y9 k8
    split
    · exact keeps_State_setCheque k8
    · exact k8
  try clear_value x5
  split
  · exact k2
  · split
    · exact k2
    · split
      · refine k6 _ _ ?_
        exact k6 _ _ k2
      · exact k6 _ _ k2

theorem keeps_State_openSlots {s : State} {id : Nat} {layer : Nat} {z5 : Nat} (k2 : Keeps q n s) :
    Keeps q n (State.openSlots s id layer z5) := by
  induction z5 generalizing s with
  | zero => exact k2
  | succ m ih =>
    unfold State.openSlots
    split
    · exact k2
    · split
      · exact k2
      · exact keeps_ite k2 (ih (keeps_State_openSlot k2))

theorem keeps_State_holdBlock {s : State} {c : Cheque} {st : Stream} {k : Nat} {bs : List Byte} (k2 : Keeps q n s) :
    Keeps q n (State.holdBlock s c st k bs) := by
  unfold State.holdBlock
  extract_lets -merge -useContext x7
  try clear_value x7
  exact keeps_ite k2 (keeps_State_setOut k2)

theorem keeps_State_fetchInto {s : State} {b : Nat} {e : Nat} {id : Nat} {c : Cheque} {st : Stream} {k : Nat} (k2 : Keeps q n s) :
    Keeps q n (State.fetchInto s b e id c st k) := by
  unfold State.fetchInto
  extract_lets -merge -useContext x9
  try clear_value x9
  split
  · exact keeps_State_deliverBlock k2
  · split
    · rename_i v10 v11 e12
      have k13 : Keeps q n v10 := keeps_fst e12 (by
          exact keeps_State_readMem k2
        )
      extract_lets -merge -useContext x14
      have k15 : Keeps q n x14 := by
        unfold x14
        refine keeps_State_count ?_
        refine keeps_State_count ?_
        exact keeps_State_count k13
      try clear_value x14
      refine keeps_State_deliverBlock ?_
      exact keeps_State_holdBlock k15
    · rename_i v16 v17 e18
      have k19 : Keeps q n v16 := keeps_fst e18 (by
          exact keeps_State_readMem k2
        )
      exact keeps_State_deliverBlock k19

theorem keeps_State_fetchBlock {s : State} {b : Nat} {e : Nat} (k2 : Keeps q n s) :
    Keeps q n (State.fetchBlock s b e) := by
  unfold State.fetchBlock
  extract_lets -merge -useContext x5
  have k6 : Keeps q n x5 := by
    unfold x5
    exact keeps_State_dropHeld k2
  try clear_value x5
  split
  · exact k6
  · extract_lets -merge -useContext x7
    have k8 : Keeps q n x7 := by
      unfold x7
      exact keeps_State_openSlots k6
    try clear_value x7
    refine keeps_ite (keeps_State_holdUnit k6) ?_
    split
    · exact k8
    · split
      · exact k8
      · refine keeps_ite (keeps_State_fetchInto k8) ?_
        refine keeps_State_endWaits ?_ k6
        exact keeps_State_tryEffect k8

theorem keeps_execFetchBlock {b : Fin 32} {e : Fin 2} {s : State} (k4 : Keeps q n s) :
    ∀ t, (execFetchBlock b e s) = .next t → Keeps q n t := by
  unfold execFetchBlock
  intro t e
  injection e with e
  subst e
  exact keeps_State_fetchBlock k4

theorem keeps_State_endCell {s : State} {m : Nat} {id : Nat} (k2 : Keeps q n s) :
    Keeps q n (State.endCell s m id) := by
  unfold State.endCell
  refine keeps_State_leaveMint ?_
  refine keeps_State_count ?_
  exact keeps_State_dropRecord k2

theorem keeps_execCellPublish {m : MintId} {s : State} (k3 : Keeps q n s) :
    ∀ t, (execCellPublish m s) = .next t → Keeps q n t := by
  unfold execCellPublish
  extract_lets -merge -useContext x5
  have k6 : MintOk x5 := by
    unfold x5
    exact keeps_State_mint k3
  try clear_value x5
  intro t e
  injection e with e
  subst e
  split
  · split
    · exact k3
    · extract_lets -merge -useContext x7 x8 x9
      try clear_value x9 x8 x7
      refine keeps_ite ?_ ?_
      · refine keeps_State_endCell ?_
        exact keeps_State_lateCell k3
      · refine keeps_ite (keeps_State_endCell k3) ?_
        refine keeps_ite k3 ?_
        split
        rename_i v10 v11 e12
        have k13 : Keeps q n v10 := keeps_fst e12 (by
            exact keeps_State_colourAll k3
          )
        refine keeps_State_endCell ?_
        exact keeps_State_enterFifo k13
  · exact k3

end Sys2Proof.Machine
end

