-- ==== Sys2Proof/Laws/Keeps5.lean ====
section
/-! SUPPORT. Every operation of Keeper.lean, Capture.lean, Clearing.lean, NightSafe.lean, PageCtrl.lean, Grants.lean, Accounts.lean, Functions.lean keeps the queue, the time base and the canonical tables. -/

set_option linter.unusedVariables false

namespace Sys2Proof.Machine

variable {q : List Instr} {n : Nat}

theorem keeps_State_fifoTake {s : State} {g : Nat} {y : Nat} {x : Nat} (k2 : Keeps q n s) :
    Keeps q n (State.fifoTake s g y x).1 := by
  unfold State.fifoTake
  extract_lets -merge -useContext x6 x7 x8
  try clear_value x8 x7 x6
  split
  · refine keeps_mk ?_
    exact k2
  · refine keeps_mk ?_
    exact keeps_State_setOut k2

theorem keeps_State_fifoEcc {s : State} {m : Nat} {p : Option FifoPx} (k2 : Keeps q n s) :
    Keeps q n (State.fifoEcc s m p).1 := by
  unfold State.fifoEcc
  split
  · exact k2
  · have k := keeps_State_useInject (p := outPage m 1) (i := 0) k2
    split <;> rename_i e <;> rw [e] at k
    · exact k
    · exact keeps_State_count k
    · exact keeps_State_fault k

theorem keeps_State_underrunPx {s : State} {m : Nat} (k2 : Keeps q n s) :
    Keeps q n (State.underrunPx s m) := by
  unfold State.underrunPx
  extract_lets -merge -useContext x4 x5
  have k6 : Keeps q n x4 := by
    unfold x4
    exact keeps_State_count k2
  try clear_value x5 x4
  refine keeps_ite k6 ?_
  refine keeps_State_fault ?_
  refine keeps_State_raise ?_
  exact keeps_State_setOut k6

theorem keeps_State_dscTake {s : State} {m : Nat} {x : Nat} {y : Nat} {px : Px} (k2 : Keeps q n s) :
    Keeps q n (State.dscTake s m x y px) := by
  unfold State.dscTake
  extract_lets -merge -useContext x7 x8
  try clear_value x8 x7
  exact keeps_ite k2 (keeps_State_setOut k2)

theorem keeps_State_dscChunk {s : State} {m : Nat} {w : Nat} {sw : Nat} {j : Nat} (k2 : Keeps q n s) :
    Keeps q n (State.dscChunk s m w sw j).1 := by
  unfold State.dscChunk
  extract_lets -merge -useContext x7 x8 x9 x10 x11
  have k12 : Keeps q n x8 := by
    unfold x8
    split
    · rename_i v13 e14
      have k15 : Keeps q n v13 := keeps_fst e14 (by
          exact keeps_State_useInject k2
        )
      exact k15
    · rename_i v16 v17 e18
      have k19 : Keeps q n v16 := keeps_fst e18 (by
          exact keeps_State_useInject k2
        )
      extract_lets -merge -useContext x20
      try clear_value x20
      refine keeps_State_fault ?_
      exact keeps_State_setOut k19
  try clear_value x11 x10 x9 x8 x7
  refine keeps_mk ?_
  exact keeps_State_next k12

theorem keeps_State_dscChunks {s : State} {m w sw j : Nat} {z5 : Nat} (k2 : Keeps q n s) :
    Keeps q n (State.dscChunks s m w sw z5 j).1 := by
  induction z5 generalizing s j with
  | zero => exact k2
  | succ k ih => exact ih (keeps_State_dscChunk (w := w) (sw := sw) k2)

theorem keeps_State_dscLine {s : State} {m : Nat} {w : Nat} {y : Nat} (k2 : Keeps q n s) :
    Keeps q n (State.dscLine s m w y) := by
  unfold State.dscLine
  extract_lets -merge -useContext x6 x7
  try clear_value x7 x6
  refine keeps_ite k2 ?_
  split
  rename_i v8 v9 e10
  have k11 : Keeps q n v8 := keeps_fst e10 (by
      exact keeps_State_dscChunks k2
    )
  exact keeps_State_chkFeed k11

theorem keeps_execKeeperPixel {o : Out} {s : State} (k3 : Keeps q n s) :
    ∀ t, (execKeeperPixel o s) = .next t → Keeps q n t := by
  unfold execKeeperPixel
  extract_lets -merge -useContext x9 x10 x11 x12 x13
  try clear_value x13 x12 x11 x10 x9
  intro t e
  injection e with e
  subst e
  refine keeps_ite k3 ?_
  split
  split
  rename_i v14 v15 e16
  have k17 : Keeps q n v14 := keeps_fst e16 (by
      exact keeps_State_fifoTake k3
    )
  split
  rename_i v18 v19 e20
  have k21 : Keeps q n v18 := keeps_fst e20 (by
      exact keeps_State_fifoEcc k17
    )
  extract_lets -merge -useContext x22 x23 x24 x25 x26 x27 x28 x29 x30
  have k31 : Keeps q n x22 := by
    unfold x22
    exact keeps_ite (keeps_State_underrunPx k21) k21
  have k32 : Keeps q n x25 := by
    unfold x25
    refine keeps_State_dscTake ?_
    exact keeps_State_setOut k31
  have k33 : Keeps q n x26 := by
    unfold x26
    exact keeps_State_chkFeed k32
  have k34 : Keeps q n x27 := by
    unfold x27
    exact keeps_ite (keeps_State_dscLine k33) k33
  have k35 : Keeps q n x29 := by
    unfold x29
    exact keeps_State_setOut k34
  have k36 : Keeps q n x30 := by
    unfold x30
    exact keeps_ite (keeps_State_raiseAll k35) k35
  try clear_value x30 x29 x28 x27 x26 x25 x24 x23 x22
  refine keeps_State_updateFill ?_
  exact keeps_State_flushBacks k36

theorem keeps_execLatencyToleranceEval {o : Out} {s : State} (k3 : Keeps q n s) :
    ∀ t, (execLatencyToleranceEval o s) = .next t → Keeps q n t := by
  unfold execLatencyToleranceEval
  extract_lets -merge -useContext x6 x7
  try clear_value x7 x6
  intro t e
  injection e with e
  subst e
  refine keeps_State_report ?_
  exact keeps_State_updateFill k3

theorem keeps_State_capReport {s : State} {c : Nat} (k2 : Keeps q n s) :
    Keeps q n (State.capReport s c) := by
  unfold State.capReport
  extract_lets -merge -useContext x4 x5
  try clear_value x5 x4
  exact keeps_ite (keeps_State_setPort11 k2) (keeps_State_setPort11 k2)

theorem keeps_State_capWrite {s : State} {who : Nat} {c : Nat} {off : Nat} {value : Word} {be : BitVec 4} (k2 : Keeps q n s) :
    Keeps q n (State.capWrite s who c off value be) := by
  unfold State.capWrite
  extract_lets -merge -useContext x8
  try clear_value x8
  refine keeps_State_writeWith k2 ?_
  intro y9 y10 k11
  extract_lets -merge -useContext x12 x13 x14 x15
  have k16 : Keeps q n x13 := by
    unfold x13
    exact keeps_State_store k11
  have k17 : Keeps q n x15 := by
    unfold x15
    exact keeps_ite (keeps_State_setCap k16) k16
  try clear_value x15 x14 x13 x12
  exact keeps_ite (keeps_State_capReport k17) k17

theorem keeps_execCapEnable {who : Actor} {c : Fin 2} {s : State} (k4 : Keeps q n s) :
    ∀ t, (execCapEnable who c s) = .next t → Keeps q n t := by
  unfold execCapEnable
  intro t e
  injection e with e
  subst e
  exact keeps_State_capWrite k4

theorem keeps_State_capComplete {s : State} {c : Nat} (k2 : Keeps q n s) :
    Keeps q n (State.capComplete s c) := by
  unfold State.capComplete
  extract_lets -merge -useContext x4 x5 x6 x7 x8 x9
  have k10 : Keeps q n x6 := by
    unfold x6
    refine keeps_State_wr ?_
    exact keeps_State_count k2
  have k11 : Keeps q n x8 := by
    unfold x8
    exact keeps_ite (keeps_State_count k10) k10
  try clear_value x9 x8 x7 x6 x5 x4
  split
  · exact k2
  · extract_lets -merge -useContext x12
    have k13 : Keeps q n x12 := by
      unfold x12
      exact keeps_State_setCap k11
    try clear_value x12
    refine keeps_State_chkFrameEnd ?_
    exact keeps_State_capReport k13

theorem keeps_execCapFrameStart {c : Fin 2} {s : State} (k3 : Keeps q n s) :
    ∀ t, (execCapFrameStart c s) = .next t → Keeps q n t := by
  unfold execCapFrameStart
  extract_lets -merge -useContext x8 x9 x10 x11
  have k12 : Keeps q n x9 := by
    unfold x9
    exact keeps_State_capComplete k3
  have k13 : Keeps q n x10 := by
    unfold x10
    refine keeps_foldl ?_ ?_
    · exact k12
    · intro t14 i15 k16
      exact keeps_State_refEdge k16
  try clear_value x11 x10 x9 x8
  intro t e
  injection e with e
  subst e
  refine keeps_ite k3 ?_
  split
  · refine keeps_State_fault ?_
    exact keeps_State_count k13
  · extract_lets -merge -useContext x17
    have k18 : Keeps q n x17 := by
      unfold x17
      exact keeps_State_setCap k13
    try clear_value x17
    refine keeps_State_chkFrameStart ?_
    exact keeps_State_wr k18

theorem keeps_State_capDrop {s : State} {c : Nat} (k2 : Keeps q n s) :
    Keeps q n (State.capDrop s c) := by
  unfold State.capDrop
  extract_lets -merge -useContext x4
  try clear_value x4
  refine keeps_State_chkSpoil ?_
  refine keeps_State_count ?_
  exact keeps_State_setCap k2

theorem keeps_State_capPublish {s : State} {c : Nat} {slot : Nat} {payload : List Byte} (k2 : Keeps q n s) :
    Keeps q n (State.capPublish s c slot payload) := by
  unfold State.capPublish
  extract_lets -merge -useContext x6 x7 x8 x9 x10
  have k11 : Keeps q n x10 := by
    unfold x10
    refine keeps_State_setCap ?_
    exact keeps_State_next k2
  try clear_value x10 x9 x8 x7 x6
  split
  extract_lets -merge -useContext x12 x13
  have k14 : Keeps q n x13 := by
    unfold x13
    exact keeps_ite (keeps_State_count k11) k11
  try clear_value x13 x12
  split
  · rename_i v15 v16 e17
    have k18 : Keeps q n v15 := keeps_fst e17 (by
        exact keeps_State_writeMem k14
      )
    exact keeps_State_chkSpoil k18
  · rename_i v19 e20
    have k21 : Keeps q n v19 := keeps_fst e20 (by
        exact keeps_State_writeMem k14
      )
    extract_lets -merge -useContext x22 x23 x24
    have k25 : Keeps q n x23 := by
      unfold x23
      exact keeps_State_setCap k21
    have k26 : Keeps q n x24 := by
      unfold x24
      refine keeps_foldl ?_ ?_
      · exact keeps_State_wr k25
      · intro t27 i28 k29
        exact keeps_State_touch k29
    try clear_value x24 x23 x22
    refine keeps_foldl ?_ ?_
    · exact k26
    · intro t30 i31 k32
      exact keeps_State_chkFeed k32

theorem keeps_State_mirrorStop {s : State} {c : Nat} (k2 : Keeps q n s) :
    Keeps q n (State.mirrorStop s c) := by
  unfold State.mirrorStop
  refine keeps_State_count ?_
  exact keeps_State_setCap k2

theorem keeps_State_mirrorTake {s : State} {c : Nat} (k2 : Keeps q n s) :
    Keeps q n (State.mirrorTake s c) := by
  unfold State.mirrorTake
  extract_lets -merge -useContext x4 x5
  try clear_value x5 x4
  split
  · exact k2
  · refine keeps_ite k2 ?_
    refine keeps_ite (keeps_State_mirrorStop k2) ?_
    split
    rename_i v6 v7 e8
    have k9 : Keeps q n v6 := keeps_fst e8 (by
        refine keeps_ite_fst ?_ ?_
        · refine keeps_mk ?_
          exact k2
        · split
          · rename_i v10 v11 e12
            have k13 : Keeps q n v10 := keeps_fst e12 (by
                exact keeps_State_readMem k2
              )
            refine keeps_mk ?_
            exact k13
          · rename_i v14 v15 e16
            have k17 : Keeps q n v14 := keeps_fst e16 (by
                exact keeps_State_readMem k2
              )
            refine keeps_mk ?_
            exact k17
      )
    extract_lets -merge -useContext x18
    try clear_value x18
    exact keeps_State_setCap k9

theorem keeps_State_mirrorDrain {s : State} {c : Nat} {z3 : Nat} (k2 : Keeps q n s) :
    Keeps q n (State.mirrorDrain s c z3) := by
  induction z3 generalizing s with
  | zero => exact k2
  | succ m ih =>
    unfold State.mirrorDrain
    exact keeps_ite k2 (keeps_ite (keeps_State_holdUnit k2) (ih (keeps_State_setCap (keeps_State_postMem k2))))

theorem keeps_State_mirrorRun {s : State} {c : Nat} {z3 : Nat} (k2 : Keeps q n s) :
    Keeps q n (State.mirrorRun s c z3) := by
  induction z3 generalizing s with
  | zero => exact k2
  | succ m ih =>
    unfold State.mirrorRun
    extract_lets u
    have ku : Keeps q n u := keeps_State_mirrorDrain k2
    exact keeps_ite ku (keeps_ite (keeps_State_setCap ku) (ih (keeps_State_mirrorTake ku)))

theorem keeps_State_mirrorGo {s : State} {c : Nat} (k2 : Keeps q n s) :
    Keeps q n (State.mirrorGo s c) := by
  unfold State.mirrorGo
  extract_lets -merge -useContext x4
  have k5 : Keeps q n x4 := by
    unfold x4
    exact keeps_State_dropHeld k2
  try clear_value x4
  refine keeps_State_capReport ?_
  exact keeps_State_mirrorRun k5

theorem keeps_State_mirrorLine {s : State} {c : Nat} (k2 : Keeps q n s) :
    Keeps q n (State.mirrorLine s c) := by
  unfold State.mirrorLine
  extract_lets -merge -useContext x4 x5 x6
  have k7 : Keeps q n x5 := by
    unfold x5
    exact keeps_State_setCap k2
  have k8 : Keeps q n x6 := by
    unfold x6
    exact keeps_State_mirrorTake k7
  try clear_value x6 x5 x4
  refine keeps_ite k7 ?_
  refine keeps_State_capReport ?_
  exact keeps_State_mirrorDrain k8

theorem keeps_execCapLine {c : Fin 2} {vc : Nat} {dt : Nat} {hdr : HdrCheck} {crcOk : Bool} {payload : List Byte} {s : State} (k8 : Keeps q n s) :
    ∀ t, (execCapLine c vc dt hdr crcOk payload s) = .next t → Keeps q n t := by
  unfold execCapLine
  extract_lets -merge -useContext x12 x13 x14
  have k15 : Keeps q n x14 := by
    unfold x14
    exact keeps_ite (keeps_State_count k8) k8
  try clear_value x14 x13 x12
  intro t e
  injection e with e
  subst e
  split
  · exact k8
  · refine keeps_ite k8 ?_
    refine keeps_ite k8 ?_
    refine keeps_ite ?_ ?_
    · refine keeps_State_count ?_
      exact keeps_State_setCap k15
    · refine keeps_ite (keeps_State_capDrop k15) ?_
      split
      rename_i v16 v17 e18
      have k19 : Keeps q n v16 := keeps_fst e18 (by
          exact keeps_State_useInject k15
        )
      extract_lets -merge -useContext x20
      have k21 : Keeps q n x20 := by
        unfold x20
        refine keeps_ite ?_ (keeps_State_capPublish k19)
        refine keeps_State_fault ?_
        exact keeps_State_capDrop k19
      try clear_value x20
      exact keeps_State_mirrorLine k21

theorem keeps_execCapFrameEnd {c : Fin 2} {s : State} (k3 : Keeps q n s) :
    ∀ t, (execCapFrameEnd c s) = .next t → Keeps q n t := by
  unfold execCapFrameEnd
  intro t e
  injection e with e
  subst e
  exact keeps_ite k3 (keeps_State_capComplete k3)

theorem keeps_execCapMirrorDone {c : Fin 2} {s : State} (k3 : Keeps q n s) :
    ∀ t, (execCapMirrorDone c s) = .next t → Keeps q n t := by
  unfold execCapMirrorDone
  intro t e
  injection e with e
  subst e
  refine keeps_ite k3 ?_
  refine keeps_ite ?_ (keeps_State_mirrorGo k3)
  refine keeps_State_capReport ?_
  exact keeps_State_mirrorStop k3

theorem keeps_execPhyError {c : Fin 2} {s : State} (k3 : Keeps q n s) :
    ∀ t, (execPhyError c s) = .next t → Keeps q n t := by
  unfold execPhyError
  intro t e
  injection e with e
  subst e
  exact keeps_State_fault k3

theorem keeps_State_clMissed {s : State} (k2 : Keeps q n s) :
    Keeps q n (State.clMissed s) := by
  unfold State.clMissed
  extract_lets -merge -useContext x3
  try clear_value x3
  refine keeps_ite k2 ?_
  refine keeps_State_hwField ?_
  exact { k2 with }

theorem keeps_execClFrameSend {s : State} (k2 : Keeps q n s) :
    ∀ t, (execClFrameSend s) = .next t → Keeps q n t := by
  unfold execClFrameSend
  extract_lets -merge -useContext x8 x9 x10 x11 x12
  have k13 : Keeps q n x8 := by
    unfold x8
    exact keeps_State_clMissed k2
  try clear_value x12 x11 x10 x9 x8
  intro t e
  injection e with e
  subst e
  exact keeps_ite k2 (keeps_ite k13 { k13 with })

theorem keeps_State_clExclude {s : State} {d : Nat} (k2 : Keeps q n s) :
    Keeps q n (State.clExclude s d) := by
  unfold State.clExclude
  extract_lets -merge -useContext x4 x5 x6
  have k7 : Keeps q n x4 := by
    unfold x4
    refine keeps_State_count ?_
    exact keeps_State_hwField k2
  have k8 : Keeps q n x5 := by
    unfold x5
    exact keeps_State_hwField k7
  try clear_value x6 x5 x4
  refine keeps_ite ?_ k8
  refine keeps_State_fault ?_
  refine keeps_State_hwField ?_
  exact { k8 with }

theorem keeps_State_clDiscard {s : State} {d : Nat} (k2 : Keeps q n s) :
    Keeps q n (State.clDiscard s d) := by
  unfold State.clDiscard
  extract_lets -merge -useContext x4 x5 x6 x7 x8 x9
  have k10 : Keeps q n x5 := by
    unfold x5
    exact keeps_State_count k2
  have k11 : Keeps q n x7 := by
    unfold x7
    exact { k10 with }
  have k13 : Keeps q n x9 := by
    unfold x9
    refine keeps_ite ?_ k11
    refine keeps_State_count ?_
    exact { k11 with }
  try clear_value x9 x8 x7 x6 x5 x4
  exact keeps_ite (keeps_State_clExclude k13) k13

theorem keeps_State_clSync {s : State} {f : ClFrame} {sof : Nat} (k2 : Keeps q n s) :
    Keeps q n (State.clSync s f sof) := by
  unfold State.clSync
  extract_lets -merge -useContext x5 x6 x7 x8 x9 x10 x11 x12 x13 x14
  have k15 : Keeps q n x10 := by
    unfold x10
    exact { k2 with }
  have k17 : Keeps q n x11 := by
    unfold x11
    refine keeps_State_setLevel ?_
    exact keeps_State_hwField k15
  have k18 : Keeps q n x12 := by
    unfold x12
    exact keeps_State_wr k17
  have k19 : Keeps q n x14 := by
    unfold x14
    exact { k18 with }
  try clear_value x14 x13 x12 x11 x10 x9 x8 x7 x6 x5
  refine keeps_ite k17 ?_
  refine keeps_ite ?_ k19
  refine keeps_foldl ?_ ?_
  · exact k19
  · intro t21 i22 k23
    exact keeps_State_refEdge k23

theorem keeps_State_clToken {s : State} {d : Nat} {t : Token} (k2 : Keeps q n s) :
    Keeps q n (State.clToken s d t) := by
  unfold State.clToken
  extract_lets -merge -useContext x5 x6
  have k7 : Keeps q n x6 := by
    unfold x6
    exact { k2 with }
  try clear_value x6 x5
  refine keeps_ite k2 ?_
  refine keeps_ite ?_ ?_
  · refine keeps_foldl ?_ ?_
    · exact k7
    · intro t9 i10 k11
      split
      · split
        · refine keeps_ite ?_ k11
          refine keeps_ite (keeps_State_refuseSyn k11) ?_
          refine keeps_State_refuseSyn ?_
          exact keeps_State_sendToken k11
        · exact k11
      · exact k11
  · refine keeps_ite ?_ k7
    refine keeps_foldl ?_ ?_
    · exact k7
    · intro t12 i13 k14
      exact keeps_State_synMismatch k14

theorem keeps_State_clAccept {s : State} {d : Nat} {f : ClFrame} {sof : Nat} {edge : Bool} (k2 : Keeps q n s) :
    Keeps q n (State.clAccept s d f sof edge) := by
  unfold State.clAccept
  extract_lets -merge -useContext x7 x8 x9 x10 x11 x12 x13 x14 x15 x16
  have k17 : Keeps q n x8 := by
    unfold x8
    exact keeps_State_count k2
  have k18 : Keeps q n x9 := by
    unfold x9
    exact keeps_ite (keeps_State_count k17) k17
  have k19 : Keeps q n x11 := by
    unfold x11
    exact { k18 with }
  have k21 : Keeps q n x12 := by
    unfold x12
    exact keeps_State_hwField k19
  have k22 : Keeps q n x13 := by
    unfold x13
    exact keeps_State_hwField k21
  have k23 : Keeps q n x14 := by
    unfold x14
    exact keeps_ite (keeps_State_hwField k22) k22
  have k24 : Keeps q n x15 := by
    unfold x15
    refine keeps_ite (keeps_ite (keeps_State_fault k23) (keeps_State_clSync k23)) ?_
    refine keeps_ite k23 ?_
    refine keeps_foldl ?_ ?_
    · exact k23
    · intro t25 i26 k27
      exact keeps_State_clToken k27
  try clear_value x16 x15 x14 x13 x12 x11 x10 x9 x8 x7
  refine keeps_ite ?_ k24
  refine keeps_State_count ?_
  exact { k24 with }

theorem keeps_execClFrameReceive {sender : Fin 4} {startNs : ℤ} {endNs : ℤ} {sof : List ClChar} {rest : List ClChar} {s : State} (k7 : Keeps q n s) :
    ∀ t, (execClFrameReceive sender startNs endNs sof rest s) = .next t → Keeps q n t := by
  unfold execClFrameReceive
  extract_lets -merge -useContext x11 x12 x13
  try clear_value x13 x12 x11
  intro t e
  injection e with e
  subst e
  refine keeps_ite k7 ?_
  split
  · exact keeps_ite k7 (keeps_State_clAccept k7)
  · exact keeps_ite k7 (keeps_State_clAccept k7)
  · exact keeps_ite k7 (keeps_State_clDiscard k7)

theorem keeps_execSyncLost {s : State} (k2 : Keeps q n s) :
    ∀ t, (execSyncLost s) = .next t → Keeps q n t := by
  unfold execSyncLost
  extract_lets -merge -useContext x5 x6
  try clear_value x6 x5
  intro t e
  injection e with e
  subst e
  refine keeps_ite k2 ?_
  refine keeps_State_setLevel ?_
  refine keeps_State_hwField ?_
  exact { k2 with }

theorem keeps_execClPresenceTimeout {d : Fin 4} {s : State} (k3 : Keeps q n s) :
    ∀ t, (execClPresenceTimeout d s) = .next t → Keeps q n t := by
  unfold execClPresenceTimeout
  intro t e
  injection e with e
  subst e
  exact keeps_ite k3 (keeps_State_hwField k3)

theorem keeps_State_linkFollow {s : State} (k2 : Keeps q n s) :
    Keeps q n (State.linkFollow s) := by
  unfold State.linkFollow
  extract_lets -merge -useContext x3
  try clear_value x3
  refine keeps_ite { k2 with } ?_
  refine keeps_State_setLevel ?_
  refine keeps_State_hwChange ?_
  exact { k2 with }

theorem keeps_State_syncReceiver {s : State} {z3 : Receiver} (k2 : Keeps q n s) :
    Keeps q n (State.syncReceiver s z3) := by
  unfold State.syncReceiver
  split
  · exact k2
  · exact keeps_State_syncNs k2

theorem keeps_State_nsWake {s : State} {a : Nat} (k2 : Keeps q n s) :
    Keeps q n (State.nsWake s a) := by
  unfold State.nsWake
  extract_lets -merge -useContext x4 x5 x6
  have k7 : Keeps q n x5 := by
    unfold x5
    refine keeps_State_wakeAsk ?_
    exact keeps_State_wr k2
  try clear_value x6 x5 x4
  exact keeps_ite k2 (keeps_ite (keeps_State_setAcct k7) k7)

theorem keeps_State_deposit {s : State} {sender : Nat} {ch : Nat} {to_ : Receiver} {m : Msg} (k2 : Keeps q n s) :
    Keeps q n (State.deposit s sender ch to_ m) := by
  unfold State.deposit
  extract_lets -merge -useContext x7 x8 x9
  have k10 : Keeps q n x7 := by
    unfold x7
    exact { k2 with dropped := NatTbl.wf_put _ _ k2.dropped }
  have k12 : Keeps q n x8 := by
    unfold x8
    split
    · exact keeps_State_count k10
    · exact k10
  have k13 : Keeps q n x9 := by
    unfold x9
    refine keeps_State_syncReceiver ?_
    exact keeps_State_pushSafe k2
  try clear_value x9 x8 x7
  refine keeps_ite ?_ ?_
  · refine keeps_ite ?_ { k2 with }
    refine keeps_State_fault ?_
    exact keeps_State_wr k2
  · refine keeps_ite (keeps_State_syncReceiver k12) ?_
    split
    · exact k13
    · refine keeps_State_raise ?_
      refine keeps_State_nsWake ?_
      exact keeps_State_count k13

theorem keeps_State_tell {s : State} {a : Nat} {m : Msg} (k2 : Keeps q n s) :
    Keeps q n (State.tell s a m) := by
  unfold State.tell
  exact keeps_State_deposit k2

theorem keeps_State_nsSendWrite {s : State} {who : Nat} {a : Nat} {value : Word} {be : BitVec 4} (k2 : Keeps q n s) :
    Keeps q n (State.nsSendWrite s who a value be) := by
  unfold State.nsSendWrite
  extract_lets -merge -useContext x7
  try clear_value x7
  refine keeps_State_writeWith k2 ?_
  intro y8 y9 k10
  extract_lets -merge -useContext x11
  try clear_value x11
  exact keeps_ite (keeps_State_deposit k10) (keeps_State_deposit k10)

theorem keeps_State_nsTakeWrite {s : State} {who : Nat} {a : Nat} {value : Word} {be : BitVec 4} (k2 : Keeps q n s) :
    Keeps q n (State.nsTakeWrite s who a value be) := by
  unfold State.nsTakeWrite
  refine keeps_State_writeWith k2 ?_
  intro y7 y8 k9
  split
  · exact k9
  · extract_lets -merge -useContext x10 x11
    have k12 : Keeps q n x10 := by
      unfold x10
      exact keeps_ite (keeps_State_popSafe k9) k9
    have k13 : Keeps q n x11 := by
      unfold x11
      exact keeps_ite { k12 with dropped := NatTbl.wf_put _ _ k12.dropped } k12
    try clear_value x11 x10
    exact keeps_State_syncNs k13

theorem keeps_State_nsSelWrite {s : State} {who : Nat} {a : Nat} {value : Word} {be : BitVec 4} (k2 : Keeps q n s) :
    Keeps q n (State.nsSelWrite s who a value be) := by
  unfold State.nsSelWrite
  refine keeps_State_writeWith k2 ?_
  intro y7 y8 k9
  refine keeps_State_syncNs ?_
  exact keeps_State_store k9

theorem keeps_execNsSend {who : Actor} {dest : Fin 2} {s : State} (k4 : Keeps q n s) :
    ∀ t, (execNsSend who dest s) = .next t → Keeps q n t := by
  unfold execNsSend
  intro t e
  injection e with e
  subst e
  exact keeps_ite k4 (keeps_State_nsSendWrite k4)

theorem keeps_execNsTake {who : Actor} {s : State} (k3 : Keeps q n s) :
    ∀ t, (execNsTake who s) = .next t → Keeps q n t := by
  unfold execNsTake
  intro t e
  injection e with e
  subst e
  exact keeps_ite k3 (keeps_State_nsTakeWrite k3)

theorem keeps_execNsClrDropped {who : Actor} {s : State} (k3 : Keeps q n s) :
    ∀ t, (execNsClrDropped who s) = .next t → Keeps q n t := by
  unfold execNsClrDropped
  intro t e
  injection e with e
  subst e
  exact keeps_ite k3 (keeps_State_nsTakeWrite k3)

theorem keeps_State_beforeReset {s : State} {p : Nat} (k2 : Keeps q n s) :
    Keeps q n (State.beforeReset s p) := by
  unfold State.beforeReset
  extract_lets -merge -useContext x4 x5 x6 x7 x8 x9
  have k10 : Keeps q n x4 := by
    unfold x4
    refine keeps_foldl ?_ ?_
    · exact k2
    · intro t11 i12 k13
      refine keeps_State_setWritten ?_
      exact keeps_State_setReady k13
  try clear_value x9 x8 x7 x6 x5 x4
  split
  · exact keeps_ite (keeps_State_stopOutput k10) k10
  · exact keeps_State_setLoad k10
  · exact keeps_ite k10 (keeps_State_linkGone k10)
  · exact keeps_State_setCheck k10
  · exact keeps_State_setCap k10
  · exact keeps_State_setTch k10
  · refine keeps_State_setHap ?_
    exact keeps_State_hapOff k10
  · refine keeps_foldl ?_ ?_
    · exact k10
    · intro t14 i15 k16
      exact keeps_ite (keeps_State_unretireMint k16) k16
  · exact { k10 with }
  · exact keeps_State_setAudio k10
  · exact { k10 with }
  · refine keeps_State_dropJobs ?_
    exact { k10 with queues := by dsimp only; exact Tbl.wf_drop _ k10.queues }
  · split
    · exact { k10 with dropped := NatTbl.wf_put _ _ k10.dropped }
    · exact k10
  · exact { k10 with queues := by dsimp only; exact Tbl.wf_drop _ k10.queues }
  · exact { k10 with queues := by dsimp only; exact Tbl.wf_drop _ k10.queues }
  · exact k10

theorem keeps_State_afterReset {s : State} {old : State} {p : Nat} (k2 : Keeps q n s) (k4 : Keeps q n old) :
    Keeps q n (State.afterReset s old p) := by
  unfold State.afterReset
  split
  · exact keeps_State_setLevel k2
  · refine keeps_foldl ?_ ?_
    · exact k2
    · intro t6 i7 k8
      exact keeps_State_wr k8
  · exact keeps_State_syncNs k2
  · exact keeps_State_syncLayer k2
  · refine keeps_foldl ?_ ?_
    · exact k2
    · intro t9 i10 k11
      exact keeps_State_syncLinkDown k11
  · exact keeps_State_updateFill k2
  · refine keeps_State_syncLinkDown ?_
    exact keeps_State_syncPresent k2
  · exact keeps_State_capReport k2
  · refine keeps_State_setLevel ?_
    exact keeps_State_wr k2
  · exact keeps_State_linkFollow k2
  · exact k2

theorem keeps_State_blockReset {s : State} {p : Nat} (k2 : Keeps q n s) :
    Keeps q n (State.blockReset s p) := by
  unfold State.blockReset
  extract_lets -merge -useContext x4 x5 x6 x7 x8 x9 x10
  have k11 : Keeps q n x5 := by
    unfold x5
    exact k2
  have k12 : Keeps q n x6 := by
    unfold x6
    refine keeps_State_overRegs ?_
    exact keeps_State_beforeReset k2
  have k13 : Keeps q n x7 := by
    unfold x7
    exact { k12 with applied := by dsimp only; exact Tbl.wf_drop _ k12.applied }
  have k15 : Keeps q n x8 := by
    unfold x8
    refine keeps_State_wr ?_
    exact keeps_State_wr k13
  have k16 : Keeps q n x9 := by
    unfold x9
    exact { k15 with tally := by dsimp only; exact Tbl.wf_drop _ k15.tally }
  have k18 : Keeps q n x10 := by
    unfold x10
    refine keeps_State_syncDirty ?_
    exact keeps_State_afterReset k16 k11
  try clear_value x10 x9 x8 x7 x6 x5 x4
  refine keeps_ite ?_ k18
  refine keeps_State_powerFollow ?_
  exact keeps_State_setPower k18

theorem keeps_State_pageCtrlWrite {s : State} {who : Nat} {p : Nat} {value : Word} {be : BitVec 4} (k2 : Keeps q n s) :
    Keeps q n (State.pageCtrlWrite s who p value be) := by
  unfold State.pageCtrlWrite
  refine keeps_State_writeWith k2 ?_
  intro y7 y8 k9
  extract_lets -merge -useContext x10 x11
  have k12 : Keeps q n x10 := by
    unfold x10
    refine keeps_State_powerFollow ?_
    refine keeps_State_wr ?_
    exact keeps_State_wr k9
  have k13 : Keeps q n x11 := by
    unfold x11
    exact keeps_ite (keeps_State_wr k12) k12
  try clear_value x11 x10
  exact keeps_ite (keeps_State_blockReset k13) k13

theorem keeps_execPageEnable {who : Actor} {p : Page} {on : Bool} {s : State} (k5 : Keeps q n s) :
    ∀ t, (execPageEnable who p on s) = .next t → Keeps q n t := by
  unfold execPageEnable
  intro t e
  injection e with e
  subst e
  exact keeps_State_pageCtrlWrite k5

theorem keeps_execSleepReq {who : Actor} {p : Page} {on : Bool} {s : State} (k5 : Keeps q n s) :
    ∀ t, (execSleepReq who p on s) = .next t → Keeps q n t := by
  unfold execSleepReq
  intro t e
  injection e with e
  subst e
  exact keeps_State_pageCtrlWrite k5

theorem keeps_execBlockReset {who : Actor} {p : Page} {s : State} (k4 : Keeps q n s) :
    ∀ t, (execBlockReset who p s) = .next t → Keeps q n t := by
  unfold execBlockReset
  intro t e
  injection e with e
  subst e
  exact keeps_State_pageCtrlWrite k4

theorem keeps_execPageLock {who : Actor} {p : Page} {s : State} (k4 : Keeps q n s) :
    ∀ t, (execPageLock who p s) = .next t → Keeps q n t := by
  unfold execPageLock
  intro t e
  injection e with e
  subst e
  exact keeps_State_pageCtrlWrite k4

theorem keeps_State_mapPages {s : State} {a : Nat} {ps : List Nat} (k2 : Keeps q n s) :
    Keeps q n (State.mapPages s a ps).1 := by
  unfold State.mapPages
  refine keeps_foldl_fst ?_ ?_
  · refine keeps_mk ?_
    exact k2
  · intro t5 i6 k7
    extract_lets -merge -useContext x8
    have k9 : Keeps q n x8 := by
      unfold x8
      exact k7
    try clear_value x8
    split
    · exact k7
    · extract_lets -merge -useContext x10
      try clear_value x10
      split
      · refine keeps_mk ?_
        exact k7
      · refine keeps_mk ?_
        exact { k9 with pwt := wf_foldl _ k7.pwt fun _ _ h => NatTbl.wf_put _ _ h }

theorem keeps_State_syncSlots {s : State} {a : Nat} (k2 : Keeps q n s) :
    Keeps q n (State.syncSlots s a).1 := by
  unfold State.syncSlots
  extract_lets -merge -useContext x4 x5 x6
  have k7 : Keeps q n x5 := by
    unfold x5
    exact { k2 with pwt := Tbl.wf_filter _ k2.pwt }
  try clear_value x6 x5 x4
  refine keeps_ite_fst ?_ (keeps_State_mapPages k7)
  refine keeps_mk ?_
  exact k2

theorem keeps_State_syncBook {s : State} {a : Nat} (k2 : Keeps q n s) :
    Keeps q n (State.syncBook s a) := by
  unfold State.syncBook
  extract_lets -merge -useContext x4 x5 x6 x7
  have k8 : Keeps q n x4 := by
    unfold x4
    exact keeps_State_storeVault k2
  have k9 : Keeps q n x5 := by
    unfold x5
    exact keeps_State_storeVault k8
  have k10 : Keeps q n x6 := by
    unfold x6
    exact keeps_State_storeVault k9
  have k11 : Keeps q n x7 := by
    unfold x7
    exact keeps_State_storeVault k10
  try clear_value x7 x6 x5 x4
  exact keeps_State_storeVault k11

theorem keeps_State_setRegion {s : State} {a : Nat} {r : Nat} {b : Nat} {n' : Nat} {perm : Nat} (k2 : Keeps q n s) :
    Keeps q n (State.setRegion s a r b n' perm) := by
  unfold State.setRegion
  refine keeps_State_wr ?_
  refine keeps_State_wr ?_
  exact keeps_State_wr k2

theorem keeps_State_dropRegion {s : State} {space : Nat} {a : Nat} {r : Nat} (k2 : Keeps q n s) :
    Keeps q n (State.dropRegion s space a r) := by
  unfold State.dropRegion
  extract_lets -merge -useContext x6 x7
  try clear_value x7 x6
  refine keeps_foldl ?_ ?_
  · exact k2
  · intro t8 i9 k10
    split
    exact keeps_State_setRegion k10

theorem keeps_State_putSlot {s : State} {n' : Nat} {i : Nat} {acct : Nat} {v : Option Slot} (k2 : Keeps q n s) :
    Keeps q n (State.putSlot s n' i acct v) := by
  unfold State.putSlot
  extract_lets -merge -useContext x7 x8
  have k9 : ∀ a14 a15 a16, Keeps q n a14 → Keeps q n (x8 a14 a15 a16) := by
    unfold x8
    intro y10 y12 y13 k11
    exact keeps_State_setReg k11
  try clear_value x8 x7
  split
  · refine k9 _ _ _ ?_
    refine k9 _ _ _ ?_
    refine k9 _ _ _ ?_
    exact k9 _ _ _ k2
  · refine k9 _ _ _ ?_
    refine k9 _ _ _ ?_
    refine k9 _ _ _ ?_
    exact k9 _ _ _ k2

theorem keeps_State_setSlot {s : State} {n' : Nat} {a : Nat} {v : Option Slot} (k2 : Keeps q n s) :
    Keeps q n (State.setSlot s n' a v) := by
  unfold State.setSlot
  split
  · exact k2
  · extract_lets -merge -useContext x6
    have k7 : Keeps q n x6 := by
      unfold x6
      exact keeps_State_putSlot k2
    try clear_value x6
    exact keeps_ite k7 (keeps_State_takeSlots k7)

theorem keeps_State_syncBranches {s : State} (k2 : Keeps q n s) :
    Keeps q n (State.syncBranches s) := by
  unfold State.syncBranches
  refine keeps_foldl ?_ ?_
  · exact k2
  · intro t3 i4 k5
    extract_lets -merge -useContext x6 x7
    try clear_value x7 x6
    exact keeps_ite (keeps_State_setOwner k5) (keeps_ite (keeps_State_setOwner k5) k5)

theorem keeps_State_dropCodes {s : State} {p : Nat} {k : Nat} (k2 : Keeps q n s) :
    Keeps q n (State.dropCodes s p k) := by
  unfold State.dropCodes
  exact keeps_ite (keeps_State_overRegs k2) (keeps_ite (keeps_State_overRegs k2) k2)

theorem keeps_State_legacyHold {s : State} {a : Nat} {p : Nat} (k2 : Keeps q n s) :
    Keeps q n (State.legacyHold s a p) := by
  unfold State.legacyHold
  refine keeps_ite k2 ?_
  split
  · exact keeps_State_wr k2
  · refine keeps_foldl ?_ ?_
    · exact keeps_State_wr k2
    · intro t5 i6 k7
      exact keeps_State_wrA k7
  · exact k2

theorem keeps_State_becomeLegacy {s : State} {a : Nat} (k2 : Keeps q n s) :
    Keeps q n (State.becomeLegacy s a) := by
  unfold State.becomeLegacy
  extract_lets -merge -useContext x4 x5 x6 x7 x8
  have k9 : Keeps q n x5 := by
    unfold x5
    exact keeps_State_setAcct k2
  have k10 : Keeps q n x6 := by
    unfold x6
    exact { k9 with pwt := Tbl.wf_filter _ k9.pwt }
  have k12 : Keeps q n x7 := by
    unfold x7
    refine keeps_foldl ?_ ?_
    · exact keeps_State_wr k10
    · intro t13 i14 k15
      exact keeps_State_setOwner k15
  try clear_value x8 x7 x6 x5 x4
  refine keeps_foldl ?_ ?_
  · refine keeps_foldl ?_ ?_
    · exact keeps_State_setLeg k12
    · intro t16 i17 k18
      exact keeps_State_legacyHold k18
  · intro t19 i20 k21
    exact keeps_State_legacyHold k21

theorem keeps_State_movePage {s : State} {p : Nat} {code : Nat} {acct : Option Nat} (k2 : Keeps q n s) :
    Keeps q n (State.movePage s p code acct) := by
  unfold State.movePage
  extract_lets -merge -useContext x6
  have k7 : Keeps q n x6 := by
    unfold x6
    exact keeps_State_setOwner k2
  try clear_value x6
  split
  · refine keeps_State_powerFollow ?_
    exact keeps_State_setRole k7
  · exact keeps_ite (keeps_State_releasePress k7) k7
  · exact keeps_State_dropCodes k7
  · exact keeps_State_legacyHold k7
  · exact k7

theorem keeps_State_syncVaultSpace {s : State} (k2 : Keeps q n s) :
    Keeps q n (State.syncVaultSpace s) := by
  unfold State.syncVaultSpace
  extract_lets -merge -useContext x3 x4
  have k5 : Keeps q n x4 := by
    unfold x4
    exact keeps_State_wr k2
  try clear_value x4 x3
  refine keeps_foldl ?_ ?_
  · exact k5
  · intro t6 i7 k8
    exact keeps_ite (keeps_State_dropRetention k8) k8

theorem keeps_State_applyGrant {s : State} {k : Ask} (k2 : Keeps q n s) :
    Keeps q n (State.applyGrant s k) := by
  unfold State.applyGrant
  extract_lets -merge -useContext x4 x5 x6 x7 x8 x9 x10 x11 x12 x13 x14
  have k15 : Keeps q n x6 := by
    unfold x6
    refine keeps_foldl ?_ ?_
    · exact k2
    · intro t16 i17 k18
      extract_lets -merge -useContext x19
      have k20 : Keeps q n x19 := by
        unfold x19
        exact keeps_ite { k18 with subPool := NatTbl.wf_put _ _ k18.subPool } k18
      try clear_value x19
      exact keeps_ite (keeps_State_movePage k20) (keeps_State_movePage k20)
  have k22 : ∀ a27 a28, Keeps q n a27 → Keeps q n (x7 a27 a28) := by
    unfold x7
    intro y23 y25 k24
    exact { k24 with subPool := NatTbl.wf_put _ _ k24.subPool }
  have k29 : Keeps q n x9 := by
    unfold x9
    exact keeps_ite (k22 _ _ k2) k2
  have k30 : Keeps q n x10 := by
    unfold x10
    exact keeps_ite (k22 _ _ k2) k2
  have k31 : Keeps q n x12 := by
    unfold x12
    split
    · exact keeps_State_setRegion k2
    · exact k2
  have k32 : Keeps q n x13 := by
    unfold x13
    refine keeps_State_rebase ?_
    exact k22 _ _ k2
  have k33 : Keeps q n x14 := by
    unfold x14
    exact k22 _ _ k2
  try clear_value x14 x13 x12 x11 x10 x9 x8 x7 x6 x5 x4
  refine keeps_ite (keeps_State_syncBranches k15) ?_
  refine keeps_ite (keeps_ite { k2 with subPool := NatTbl.wf_put _ _ k2.subPool } (keeps_ite { k2 with subPool := NatTbl.wf_put _ _ k2.subPool } (keeps_ite { k2 with } { k2 with }))) ?_
  refine keeps_ite (keeps_State_setAcct k29) ?_
  refine keeps_ite (keeps_State_setAcct k30) ?_
  refine keeps_ite (keeps_ite (keeps_State_syncVaultSpace k31) k31) ?_
  refine keeps_ite ?_ (keeps_ite (keeps_State_setAcct k33) (keeps_State_setSlot k2))
  refine keeps_State_wr ?_
  exact keeps_State_wr k32

theorem keeps_State_applyRelease {s : State} {k : Ask} (k2 : Keeps q n s) :
    Keeps q n (State.applyRelease s k) := by
  unfold State.applyRelease
  extract_lets -merge -useContext x4 x5 x6 x7 x8 x9 x10 x11 x12
  have k13 : ∀ a18 a19, Keeps q n a18 → Keeps q n (x5 a18 a19) := by
    unfold x5
    intro y14 y16 k15
    exact { k15 with subPool := NatTbl.wf_put _ _ k15.subPool }
  have k20 : Keeps q n x6 := by
    unfold x6
    refine keeps_foldl ?_ ?_
    · exact k2
    · intro t21 i22 k23
      refine keeps_ite ?_ (keeps_State_movePage k23)
      refine keeps_State_movePage ?_
      exact { k23 with subPool := NatTbl.wf_put _ _ k23.subPool }
  have k25 : Keeps q n x8 := by
    unfold x8
    exact keeps_ite (k13 _ _ k2) k2
  have k26 : Keeps q n x9 := by
    unfold x9
    exact keeps_ite (k13 _ _ k2) k2
  have k27 : Keeps q n x11 := by
    unfold x11
    split
    · exact keeps_State_dropRegion k2
    · exact k2
  have k28 : Keeps q n x12 := by
    unfold x12
    refine keeps_State_rebase ?_
    exact k13 _ _ k2
  try clear_value x12 x11 x10 x9 x8 x7 x6 x5 x4
  refine keeps_ite (keeps_State_syncBranches k20) ?_
  refine keeps_ite (keeps_ite { k2 with } (keeps_ite { k2 with } { k2 with subPool := NatTbl.wf_put _ _ k2.subPool })) ?_
  refine keeps_ite (keeps_State_setAcct k25) ?_
  refine keeps_ite (keeps_State_setAcct k26) ?_
  refine keeps_ite (keeps_ite (keeps_State_syncVaultSpace k27) k27) ?_
  refine keeps_ite ?_ ?_
  · refine keeps_State_wr ?_
    exact keeps_State_wr k28
  · refine keeps_ite ?_ (keeps_State_setSlot k2)
    refine keeps_State_setAcct ?_
    exact k13 _ _ k2

theorem keeps_State_moveState {s : State} {a : Nat} {st : Nat} (k2 : Keeps q n s) :
    Keeps q n (State.moveState s a st) := by
  unfold State.moveState
  extract_lets -merge -useContext x5
  try clear_value x5
  refine keeps_State_settle ?_
  refine keeps_mk ?_
  refine keeps_State_powerFollow ?_
  exact keeps_State_setState k2

theorem keeps_State_genDone {s : State} {a : Nat} (k2 : Keeps q n s) :
    Keeps q n (State.genDone s a) := by
  unfold State.genDone
  extract_lets -merge -useContext x4
  try clear_value x4
  refine keeps_State_syncBook ?_
  refine keeps_State_syncSlots ?_
  exact keeps_State_wr k2

theorem keeps_State_grantDone {s : State} {a : Nat} (k2 : Keeps q n s) :
    Keeps q n (State.grantDone s a) := by
  unfold State.grantDone
  extract_lets -merge -useContext x4
  try clear_value x4
  refine keeps_State_settle ?_
  refine keeps_mk ?_
  exact keeps_State_genDone k2

theorem keeps_State_wipe {s : State} {p : Nat} (k2 : Keeps q n s) :
    Keeps q n (State.wipe s p) := by
  unfold State.wipe
  extract_lets -merge -useContext x4 x5 x6 x7 x8
  have k9 : Keeps q n x6 := by
    unfold x6
    exact keeps_State_overRegs k2
  have k10 : Keeps q n x7 := by
    unfold x7
    exact { k9 with tally := by dsimp only; exact Tbl.wf_drop _ k9.tally }
  have k12 : Keeps q n x8 := by
    unfold x8
    exact { k10 with applied := Tbl.wf_filter _ k10.applied }
  try clear_value x8 x7 x6 x5 x4
  exact keeps_State_wr k12

theorem keeps_State_wipeStatic {s : State} {p : Nat} (k2 : Keeps q n s) :
    Keeps q n (State.wipeStatic s p) := by
  unfold State.wipeStatic
  extract_lets -merge -useContext x4 x5 x6 x7
  have k8 : Keeps q n x5 := by
    unfold x5
    exact keeps_ite k2 (keeps_State_blockReset k2)
  have k9 : Keeps q n x7 := by
    unfold x7
    exact keeps_State_overRegs k8
  try clear_value x7 x6 x5 x4
  refine keeps_State_powerFollow ?_
  refine keeps_State_wr ?_
  exact keeps_State_wr k9

theorem keeps_State_destroyAll {s : State} {a : Nat} (k2 : Keeps q n s) :
    Keeps q n (State.destroyAll s a) := by
  unfold State.destroyAll
  extract_lets -merge -useContext x4 x5 x6 x7 x8 x9 x10 x11 x12 x13 x14 x15 x16 x17 x18 x19 x20 x21 x22 x23 x24
  have k25 : Keeps q n x6 := by
    unfold x6
    refine keeps_foldl ?_ ?_
    · exact k2
    · intro t26 i27 k28
      extract_lets -merge -useContext x29
      have k30 : Keeps q n x29 := by
        unfold x29
        refine keeps_State_wipe ?_
        exact keeps_State_movePage k28
      try clear_value x29
      exact keeps_ite k30 (keeps_State_powerFollow k30)
  have k31 : Keeps q n x7 := by
    unfold x7
    exact keeps_State_syncBranches k25
  have k32 : Keeps q n x9 := by
    unfold x9
    refine keeps_foldl ?_ ?_
    · exact k31
    · intro t33 i34 k35
      exact keeps_State_wipeStatic k35
  have k36 : Keeps q n x11 := by
    unfold x11
    refine keeps_foldl ?_ ?_
    · exact k32
    · intro t37 i38 k39
      exact keeps_State_wipe k39
  have k40 : Keeps q n x12 := by
    unfold x12
    exact keeps_State_setReg k36
  have k41 : Keeps q n x13 := by
    unfold x13
    refine keeps_foldl ?_ ?_
    · exact k40
    · intro t42 i43 k44
      exact keeps_State_setRegion k44
  have k45 : Keeps q n x14 := by
    unfold x14
    refine keeps_State_wr ?_
    refine keeps_State_wr ?_
    exact keeps_State_rebase k41
  have k46 : Keeps q n x15 := by
    unfold x15
    refine keeps_foldl ?_ ?_
    · exact k45
    · intro t47 i48 k49
      exact keeps_ite (keeps_State_setSlot k49) k49
  have k50 : Keeps q n x16 := by
    unfold x16
    exact { k46 with subPool := wf_foldl _ k46.subPool fun _ _ h => NatTbl.wf_put _ _ h }
  have k52 : Keeps q n x18 := by
    unfold x18
    exact keeps_State_setAcct k50
  have k53 : Keeps q n x19 := by
    unfold x19
    exact { k52 with queues := by dsimp only; exact Tbl.wf_drop _ k52.queues, dropped := by dsimp only; exact Tbl.wf_drop _ k52.dropped }
  have k55 : Keeps q n x20 := by
    unfold x20
    exact keeps_State_overRegs k53
  have k56 : Keeps q n x21 := by
    unfold x21
    exact { k55 with pwt := Tbl.wf_filter _ k55.pwt }
  have k58 : Keeps q n x22 := by
    unfold x22
    exact keeps_State_storeVault k56
  have k59 : Keeps q n x23 := by
    unfold x23
    exact keeps_State_syncVaultSpace k58
  have k60 : Keeps q n x24 := by
    unfold x24
    refine keeps_State_syncSafe ?_
    refine keeps_State_settle ?_
    refine keeps_State_syncDevice ?_
    exact keeps_State_syncFaults k59
  try clear_value x24 x23 x22 x21 x20 x19 x18 x17 x16 x15 x14 x13 x12 x11 x10 x9 x8 x7 x6 x5 x4
  refine keeps_State_syncBook ?_
  exact keeps_State_syncSlots k60

theorem keeps_State_endAccount {s : State} {a : Nat} (k2 : Keeps q n s) :
    Keeps q n (State.endAccount s a) := by
  unfold State.endAccount
  refine keeps_State_setPower ?_
  exact keeps_State_destroyAll k2

theorem keeps_State_applyRequest {s : State} {who : Nat} {m : Msg} (k2 : Keeps q n s) :
    Keeps q n (State.applyRequest s who m).1 := by
  unfold State.applyRequest
  extract_lets -merge -useContext x5 x6 x7 x8 x9 x10 x11 x12 x13 x14 x15 x16 x17 x18 x19 x20
  have k21 : Keeps q n x9 := by
    unfold x9
    refine keeps_State_genDone ?_
    exact keeps_ite (keeps_State_becomeLegacy k2) k2
  have k22 : Keeps q n x11 := by
    unfold x11
    refine keeps_State_settle ?_
    exact keeps_State_resetActions k2
  have k23 : Keeps q n x12 := by
    unfold x12
    refine keeps_State_settle ?_
    refine keeps_mk ?_
    exact k22
  have k24 : Keeps q n x16 := by
    unfold x16
    refine keeps_State_genDone ?_
    exact keeps_State_setAcct k2
  have k25 : Keeps q n x18 := by
    unfold x18
    refine keeps_State_grantDone ?_
    exact keeps_State_applyGrant k2
  have k26 : Keeps q n x19 := by
    unfold x19
    exact keeps_ite (keeps_State_moveState k25) k25
  try clear_value x20 x19 x18 x17 x16 x15 x14 x13 x12 x11 x10 x9 x8 x7 x6 x5
  refine keeps_ite_fst ?_ ?_
  · refine keeps_mk ?_
    exact keeps_State_moveState k21
  · refine keeps_ite_fst ?_ ?_
    · refine keeps_mk ?_
      refine keeps_State_genDone ?_
      exact keeps_State_moveState k2
    · refine keeps_ite_fst ?_ ?_
      · refine keeps_mk ?_
        refine keeps_State_genDone ?_
        exact keeps_State_moveState k2
      · refine keeps_ite_fst ?_ ?_
        · refine keeps_mk ?_
          refine keeps_State_genDone ?_
          refine keeps_State_settle ?_
          exact keeps_State_beginResetFrom k2
        · refine keeps_ite_fst ?_ ?_
          · refine keeps_mk ?_
            exact keeps_State_endAccount k23
          · refine keeps_ite_fst ?_ ?_
            · refine keeps_mk ?_
              refine keeps_State_settle ?_
              refine keeps_mk ?_
              exact k24
            · refine keeps_ite_fst ?_ ?_
              · refine keeps_mk ?_
                exact k26
              · refine keeps_ite_fst ?_ ?_
                · refine keeps_mk ?_
                  refine keeps_State_grantDone ?_
                  exact keeps_State_applyRelease k2
                · refine keeps_ite_fst ?_ ?_
                  · refine keeps_mk ?_
                    exact keeps_State_genDone k2
                  · refine keeps_mk ?_
                    refine keeps_State_grantDone ?_
                    exact keeps_State_wr k2

theorem keeps_State_answer {s : State} {who : Nat} {m : Msg} {code : Nat} {w4 : Nat} {more : List Word} (k2 : Keeps q n s) :
    Keeps q n (State.answer s who m code w4 more) := by
  unfold State.answer
  extract_lets -merge -useContext x8 x9 x10
  try clear_value x10 x9 x8
  refine keeps_State_tell ?_
  exact keeps_State_next k2

theorem keeps_State_recordTaken {s : State} {who : Nat} {m : Msg} (k2 : Keeps q n s) :
    Keeps q n (State.recordTaken s who m) := by
  unfold State.recordTaken
  extract_lets -merge -useContext x5
  try clear_value x5
  refine keeps_ite (keeps_State_log k2) ?_
  refine keeps_State_settle ?_
  exact keeps_State_refuseFull k2

theorem keeps_State_decide1 {s : State} {who : Nat} {m : Msg} (k2 : Keeps q n s) :
    Keeps q n (State.decide1 s who m) := by
  unfold State.decide1
  extract_lets -merge -useContext x5 x6
  have k7 : Keeps q n x6 := by
    unfold x6
    exact keeps_ite k2 (keeps_State_log k2)
  try clear_value x6 x5
  refine keeps_ite ?_ ?_
  · refine keeps_State_answer ?_
    refine keeps_State_settle ?_
    exact keeps_State_refuseFull k2
  · refine keeps_ite ?_ ?_
    · refine keeps_State_answer ?_
      exact keeps_ite (keeps_State_recordTaken k2) k2
    · split
      rename_i v8 v9 e10
      have k11 : Keeps q n v8 := keeps_fst e10 (by
          exact keeps_State_applyRequest k7
        )
      exact keeps_State_answer k11

theorem keeps_State_serveRequest {s : State} {who : Nat} {type : Nat} (k2 : Keeps q n s) :
    Keeps q n (State.serveRequest s who type) := by
  unfold State.serveRequest
  refine keeps_ite k2 ?_
  split
  · exact k2
  · refine keeps_ite k2 ?_
    refine keeps_ite ?_ k2
    refine keeps_State_decide1 ?_
    exact keeps_State_popSafe k2

theorem keeps_execCreate {who : Acct} {s : State} (k3 : Keeps q n s) :
    ∀ t, (execCreate who s) = .next t → Keeps q n t := by
  unfold execCreate
  intro t e
  injection e with e
  subst e
  exact keeps_State_serveRequest k3

theorem keeps_execGrant {who : Acct} {s : State} (k3 : Keeps q n s) :
    ∀ t, (execGrant who s) = .next t → Keeps q n t := by
  unfold execGrant
  intro t e
  injection e with e
  subst e
  exact keeps_State_serveRequest k3

theorem keeps_execRelease {who : Acct} {s : State} (k3 : Keeps q n s) :
    ∀ t, (execRelease who s) = .next t → Keeps q n t := by
  unfold execRelease
  intro t e
  injection e with e
  subst e
  exact keeps_State_serveRequest k3

theorem keeps_execActivate {who : Acct} {s : State} (k3 : Keeps q n s) :
    ∀ t, (execActivate who s) = .next t → Keeps q n t := by
  unfold execActivate
  intro t e
  injection e with e
  subst e
  exact keeps_State_serveRequest k3

theorem keeps_execQuiesce {who : Acct} {s : State} (k3 : Keeps q n s) :
    ∀ t, (execQuiesce who s) = .next t → Keeps q n t := by
  unfold execQuiesce
  intro t e
  injection e with e
  subst e
  exact keeps_State_serveRequest k3

theorem keeps_execReset {who : Acct} {s : State} (k3 : Keeps q n s) :
    ∀ t, (execReset who s) = .next t → Keeps q n t := by
  unfold execReset
  intro t e
  injection e with e
  subst e
  exact keeps_State_serveRequest k3

theorem keeps_execDestroy {who : Acct} {s : State} (k3 : Keeps q n s) :
    ∀ t, (execDestroy who s) = .next t → Keeps q n t := by
  unfold execDestroy
  intro t e
  injection e with e
  subst e
  exact keeps_State_serveRequest k3

theorem keeps_execDelegate {who : Acct} {s : State} (k3 : Keeps q n s) :
    ∀ t, (execDelegate who s) = .next t → Keeps q n t := by
  unfold execDelegate
  intro t e
  injection e with e
  subst e
  exact keeps_State_serveRequest k3

theorem keeps_execRegionList {who : Acct} {s : State} (k3 : Keeps q n s) :
    ∀ t, (execRegionList who s) = .next t → Keeps q n t := by
  unfold execRegionList
  intro t e
  injection e with e
  subst e
  exact keeps_State_serveRequest k3

theorem keeps_execRegionPerm {who : Acct} {s : State} (k3 : Keeps q n s) :
    ∀ t, (execRegionPerm who s) = .next t → Keeps q n t := by
  unfold execRegionPerm
  intro t e
  injection e with e
  subst e
  exact keeps_State_serveRequest k3

theorem keeps_execQuiesceComplete {a : Acct} {s : State} (k3 : Keeps q n s) :
    ∀ t, (execQuiesceComplete a s) = .next t → Keeps q n t := by
  unfold execQuiesceComplete
  extract_lets -merge -useContext x6 x7
  try clear_value x7 x6
  intro t e
  injection e with e
  subst e
  refine keeps_ite k3 ?_
  split
  rename_i v8 v9 e10
  have k11 : Keeps q n v8 := keeps_fst e10 (by
      exact keeps_State_hwRaw k3
    )
  refine keeps_State_moveState ?_
  refine keeps_State_settle ?_
  refine keeps_mk ?_
  exact k11

theorem keeps_execResetComplete {a : Acct} {s : State} (k3 : Keeps q n s) :
    ∀ t, (execResetComplete a s) = .next t → Keeps q n t := by
  unfold execResetComplete
  extract_lets -merge -useContext x8 x9 x10 x11
  try clear_value x11 x10 x9 x8
  intro t e
  injection e with e
  subst e
  refine keeps_ite k3 ?_
  split
  rename_i v12 v13 e14
  have k15 : Keeps q n v12 := keeps_fst e14 (by
      exact keeps_State_hwRaw k3
    )
  refine keeps_State_moveState ?_
  refine keeps_State_settle ?_
  refine keeps_mk ?_
  exact k15

theorem keeps_State_functionReset {s : State} {a : Nat} {flr : Bool} (k2 : Keeps q n s) :
    Keeps q n (State.functionReset s a flr) := by
  unfold State.functionReset
  extract_lets -merge -useContext x5
  try clear_value x5
  exact keeps_State_setAcct k2

theorem keeps_State_setFunction {s : State} {a : Nat} {pw : Power} (k2 : Keeps q n s) :
    Keeps q n (State.setFunction s a pw) := by
  unfold State.setFunction
  extract_lets -merge -useContext x5
  try clear_value x5
  refine keeps_State_wr ?_
  refine keeps_State_wr ?_
  exact keeps_State_setAcct k2

theorem keeps_State_resetFunction {s : State} {a : Nat} {cause : Nat} (k2 : Keeps q n s) :
    Keeps q n (State.resetFunction s a cause) := by
  unfold State.resetFunction
  extract_lets -merge -useContext x5
  have k6 : Keeps q n x5 := by
    unfold x5
    refine keeps_ite (keeps_State_dropQueues k2) ?_
    refine keeps_State_settle ?_
    exact keeps_State_beginReset k2
  try clear_value x5
  exact keeps_State_functionReset k6

theorem keeps_State_clearVfs {s : State} {port : Nat} (k2 : Keeps q n s) :
    Keeps q n (State.clearVfs s port) := by
  unfold State.clearVfs
  refine keeps_State_wr ?_
  refine keeps_foldl ?_ ?_
  · exact k2
  · intro t4 i5 k6
    refine keeps_State_setFunction ?_
    exact keeps_State_resetFunction k6

theorem keeps_State_flrOf {s : State} {a : Nat} (k2 : Keeps q n s) :
    Keeps q n (State.flrOf s a) := by
  unfold State.flrOf
  extract_lets -merge -useContext x4
  have k5 : Keeps q n x4 := by
    unfold x4
    exact keeps_State_resetFunction k2
  try clear_value x4
  exact keeps_ite (keeps_State_clearVfs k5) (keeps_ite (keeps_State_clearVfs k5) k5)

theorem keeps_execFlr {a : Acct} {s : State} (k3 : Keeps q n s) :
    ∀ t, (execFlr a s) = .next t → Keeps q n t := by
  unfold execFlr
  intro t e
  injection e with e
  subst e
  exact keeps_State_flrOf k3

theorem keeps_execVfEnableClear {port : Fin 2} {s : State} (k3 : Keeps q n s) :
    ∀ t, (execVfEnableClear port s) = .next t → Keeps q n t := by
  unfold execVfEnableClear
  intro t e
  injection e with e
  subst e
  exact keeps_State_clearVfs k3

theorem keeps_execPortReset {port : Fin 2} {s : State} (k3 : Keeps q n s) :
    ∀ t, (execPortReset port s) = .next t → Keeps q n t := by
  unfold execPortReset
  extract_lets -merge -useContext x6 x7
  have k8 : Keeps q n x7 := by
    unfold x7
    refine keeps_State_setFunction ?_
    exact keeps_State_flrOf k3
  try clear_value x7 x6
  intro t e
  injection e with e
  subst e
  refine keeps_State_setLevel ?_
  exact keeps_State_setReg k8

theorem keeps_execPcieLinkUp {port : Fin 2} {speed : Fin 8} {width : Fin 64} {s : State} (k5 : Keeps q n s) :
    ∀ t, (execPcieLinkUp port speed width s) = .next t → Keeps q n t := by
  unfold execPcieLinkUp
  extract_lets -merge -useContext x8 x9
  have k10 : Keeps q n x9 := by
    unfold x9
    refine keeps_State_wr ?_
    exact keeps_State_wr k5
  try clear_value x9 x8
  intro t e
  injection e with e
  subst e
  refine keeps_ite k5 ?_
  refine keeps_State_setLevel ?_
  exact keeps_State_wr k10

theorem keeps_execFunctionD3 {a : Acct} {cold : Bool} {s : State} (k4 : Keeps q n s) :
    ∀ t, (execFunctionD3 a cold s) = .next t → Keeps q n t := by
  unfold execFunctionD3
  extract_lets -merge -useContext x7 x8
  have k9 : Keeps q n x8 := by
    unfold x8
    exact keeps_State_setFunction k4
  try clear_value x8 x7
  intro t e
  injection e with e
  subst e
  refine keeps_ite k4 ?_
  refine keeps_ite (keeps_State_setFunction k4) ?_
  refine keeps_ite ?_ k9
  refine keeps_State_powerFollow ?_
  exact keeps_State_wr k9

theorem keeps_execFunctionD0 {a : Acct} {s : State} (k3 : Keeps q n s) :
    ∀ t, (execFunctionD0 a s) = .next t → Keeps q n t := by
  unfold execFunctionD0
  extract_lets -merge -useContext x8 x9 x10 x11
  have k12 : Keeps q n x8 := by
    unfold x8
    exact keeps_State_setFunction k3
  have k13 : Keeps q n x11 := by
    unfold x11
    exact keeps_ite k12 (keeps_State_wr k12)
  try clear_value x11 x10 x9 x8
  intro t e
  injection e with e
  subst e
  exact keeps_State_setAcct k13

theorem keeps_State_pbDoorbellWrite {s : State} {who : Nat} {a : Nat} {value : Word} {be : BitVec 4} (k2 : Keeps q n s) :
    Keeps q n (State.pbDoorbellWrite s who a value be) := by
  unfold State.pbDoorbellWrite
  refine keeps_State_writeWith k2 ?_
  intro y7 y8 k9
  extract_lets -merge -useContext x10
  try clear_value x10
  refine keeps_ite k9 ?_
  refine keeps_State_raise ?_
  exact keeps_State_wr k9

theorem keeps_execPbDoorbell {who : Actor} {a : Acct} {s : State} (k4 : Keeps q n s) :
    ∀ t, (execPbDoorbell who a s) = .next t → Keeps q n t := by
  unfold execPbDoorbell
  intro t e
  injection e with e
  subst e
  exact keeps_State_pbDoorbellWrite k4

theorem keeps_State_pbRingWrite {s : State} {who : Nat} {a : Nat} {value : Word} {be : BitVec 4} (k2 : Keeps q n s) :
    Keeps q n (State.pbRingWrite s who a value be) := by
  unfold State.pbRingWrite
  refine keeps_State_writeWith k2 ?_
  intro y7 y8 k9
  exact keeps_State_raise k9

theorem keeps_execPbRing {who : Actor} {tenant : BitVec 6} {s : State} (k4 : Keeps q n s) :
    ∀ t, (execPbRing who tenant s) = .next t → Keeps q n t := by
  unfold execPbRing
  intro t e
  injection e with e
  subst e
  exact keeps_ite k4 (keeps_State_pbRingWrite k4)

end Sys2Proof.Machine
end

