-- ==== Sys2Proof/Laws/Keeps6.lean ====
section
/-! SUPPORT. Every operation of Queues.lean, CopyEngine.lean, Service.lean, Haptics.lean, Touch.lean keeps the queue, the time base and the canonical tables. -/

set_option linter.unusedVariables false

namespace Sys2Proof.Machine

variable {q : List Instr} {n : Nat}

theorem keeps_State_stopQueue {s : State} {a : Nat} {q' : Nat} (k2 : Keeps q n s) :
    Keeps q n (State.stopQueue s a q') := by
  unfold State.stopQueue
  extract_lets -merge -useContext x5 x6 x7 x8 x9 x10
  have k11 : Keeps q n x5 := by
    unfold x5
    exact keeps_State_wr k2
  have k12 : Keeps q n x7 := by
    unfold x7
    exact keeps_State_setQueue k11
  have k13 : Keeps q n x10 := by
    unfold x10
    exact keeps_State_setStream k12
  try clear_value x10 x9 x8 x7 x6 x5
  exact keeps_ite (keeps_State_setTail k13) k13

theorem keeps_State_queueWrite {s : State} {who : Nat} {a : Nat} {q' : Nat} {off : Nat} {value : Word} {be : BitVec 4} (k2 : Keeps q n s) :
    Keeps q n (State.queueWrite s who a q' off value be) := by
  unfold State.queueWrite
  extract_lets -merge -useContext x9
  try clear_value x9
  refine keeps_State_writeWith k2 ?_
  intro y10 y11 k12
  extract_lets -merge -useContext x13 x14 x15
  have k16 : Keeps q n x14 := by
    unfold x14
    exact keeps_State_store k12
  try clear_value x15 x14 x13
  refine keeps_ite ?_ (keeps_ite (keeps_State_stopQueue k16) k16)
  refine keeps_State_setQueue ?_
  refine keeps_State_setTail ?_
  exact keeps_State_setHead k16

theorem keeps_execQueueEnable {who : Actor} {a : Acct} {q' : Fin 256} {s : State} (k5 : Keeps q n s) :
    ∀ t, (execQueueEnable who a q' s) = .next t → Keeps q n t := by
  unfold execQueueEnable
  intro t e
  injection e with e
  subst e
  exact keeps_State_queueWrite k5

theorem keeps_execQueueDisable {who : Actor} {a : Acct} {q' : Fin 256} {s : State} (k5 : Keeps q n s) :
    ∀ t, (execQueueDisable who a q' s) = .next t → Keeps q n t := by
  unfold execQueueDisable
  intro t e
  injection e with e
  subst e
  exact keeps_State_queueWrite k5

theorem keeps_State_doorbellWrite {s : State} {who : Nat} {a : Nat} {q' : Nat} {value : Word} {be : BitVec 4} (k2 : Keeps q n s) :
    Keeps q n (State.doorbellWrite s who a q' value be) := by
  unfold State.doorbellWrite
  refine keeps_State_writeWith k2 ?_
  intro y8 y9 k10
  exact keeps_ite (keeps_State_setTail k10) (keeps_State_setHead k10)

theorem keeps_execQueueDoorbell {who : Actor} {a : Acct} {q' : Fin 256} {index : Word} {s : State} (k6 : Keeps q n s) :
    ∀ t, (execQueueDoorbell who a q' index s) = .next t → Keeps q n t := by
  unfold execQueueDoorbell
  intro t e
  injection e with e
  subst e
  exact keeps_State_doorbellWrite k6

theorem keeps_execQueueIntTimer {a : Acct} {q' : Fin 256} {s : State} (k4 : Keeps q n s) :
    ∀ t, (execQueueIntTimer a q' s) = .next t → Keeps q n t := by
  unfold execQueueIntTimer
  extract_lets -merge -useContext x7 x8
  try clear_value x8 x7
  intro t e
  injection e with e
  subst e
  split
  · exact k4
  · refine keeps_ite k4 ?_
    refine keeps_State_msix ?_
    exact keeps_State_setQueue k4

theorem keeps_State_queueError {s : State} {a : Nat} (k2 : Keeps q n s) :
    Keeps q n (State.queueError s a) := by
  unfold State.queueError
  refine keeps_State_fault ?_
  exact keeps_State_raise k2

theorem keeps_State_queueStop {s : State} {a : Nat} {q' : Nat} (k2 : Keeps q n s) :
    Keeps q n (State.queueStop s a q') := by
  unfold State.queueStop
  refine keeps_State_queueError ?_
  exact keeps_State_stopQueue k2

theorem keeps_State_ringWrite {s : State} {a : Nat} {q' : Nat} {bytes : List Byte} (k2 : Keeps q n s) :
    Keeps q n (State.ringWrite s a q' bytes) := by
  unfold State.ringWrite
  refine keeps_State_settle ?_
  exact keeps_State_ringPut k2

theorem keeps_State_headEntry {s : State} {a : Nat} {q' : Nat} {cls : Nat} (k2 : Keeps q n s) :
    Keeps q n (State.headEntry s a q' cls).1 := by
  unfold State.headEntry
  exact keeps_State_readMem k2

theorem keeps_State_takeEntry {s : State} {a : Nat} {q' : Nat} (k2 : Keeps q n s) :
    Keeps q n (State.takeEntry s a q') := by
  unfold State.takeEntry
  refine keeps_State_count ?_
  exact keeps_State_setHead k2

theorem keeps_State_setJob {s : State} {j : Job} (k2 : Keeps q n s) :
    Keeps q n (State.setJob s j) := by
  unfold State.setJob
  exact { k2 with }

theorem keeps_State_jobRead {s : State} {a : Nat} {space : Nat} {addr : Nat} {n' : Nat} (k2 : Keeps q n s) :
    Keeps q n (State.jobRead s a space addr n').1 := by
  unfold State.jobRead
  refine keeps_ite_fst ?_ ?_
  · refine keeps_ite_fst ?_ ?_
    · refine keeps_mk ?_
      exact keeps_State_next k2
    · refine keeps_mk ?_
      exact keeps_State_next k2
  · split
    rename_i v7 v8 e9
    have k10 : Keeps q n v7 := keeps_fst e9 (by
        exact keeps_State_readMem k2
      )
    refine keeps_mk ?_
    exact k10

theorem keeps_State_jobWrite {s : State} {a : Nat} {space : Nat} {addr : Nat} {data : List Byte} (k2 : Keeps q n s) :
    Keeps q n (State.jobWrite s a space addr data).1 := by
  unfold State.jobWrite
  refine keeps_ite_fst ?_ ?_
  · refine keeps_ite_fst ?_ ?_
    · refine keeps_mk ?_
      exact keeps_State_next k2
    · refine keeps_mk ?_
      exact keeps_State_next k2
  · split
    rename_i v7 v8 e9
    have k10 : Keeps q n v7 := keeps_fst e9 (by
        exact keeps_State_writeMem k2
      )
    refine keeps_mk ?_
    exact k10

theorem keeps_State_move {s : State} {j : Job} {z4 z5 z6 : Nat} (k2 : Keeps q n s) :
    Keeps q n (State.move s j z4 z5 z6).1 := by
  induction z4 generalizing s z5 z6 with
  | zero => exact k2
  | succ m ih =>
    unfold State.move
    refine keeps_ite_fst k2 ?_
    split
    rename_i src dst k e0
    split
    rename_i v r e1
    have kv : Keeps q n v := keeps_fst e1 (keeps_ite_fst (keeps_State_jobRead k2) k2)
    split
    · exact kv
    · split
      rename_i u w e2
      have ku : Keeps q n u := keeps_fst e2 (keeps_State_jobWrite kv)
      split
      · exact ku
      · exact ih ku

theorem keeps_State_runJob {s : State} {j : Job} {fuel : Nat} {upto : Nat} {pos : Nat} (k2 : Keeps q n s) :
    Keeps q n (State.runJob s j fuel upto pos).1 := by
  unfold State.runJob
  refine keeps_ite_fst ?_ ?_
  · split
    rename_i v7 v8 v9 e10
    have k11 : Keeps q n v7 := keeps_fst e10 (by
        exact keeps_State_move k2
      )
    refine keeps_mk ?_
    exact k11
  · refine keeps_ite_fst ?_ ?_
    · refine keeps_mk ?_
      exact k2
    · refine keeps_ite_fst ?_ ?_
      · split
        rename_i v12 v13 e14
        have k15 : Keeps q n v12 := keeps_fst e14 (by
            exact keeps_State_jobWrite k2
          )
        refine keeps_ite_fst ?_ ?_
        · refine keeps_mk ?_
          exact k15
        · refine keeps_mk ?_
          exact k15
      · refine keeps_mk ?_
        exact k2

theorem keeps_State_runChunk {s : State} {e : Nat} {fuel : Nat} (k2 : Keeps q n s) :
    Keeps q n (State.runChunk s e fuel) := by
  unfold State.runChunk
  extract_lets -merge -useContext x5 x6
  have k7 : Keeps q n x6 := by
    unfold x6
    exact keeps_State_dropHeld k2
  try clear_value x6 x5
  split
  · exact k2
  · split
    rename_i v8 v9 v10 v11 e12
    have k13 : Keeps q n v8 := keeps_fst e12 (by
        refine keeps_ite_fst ?_ (keeps_State_runJob k7)
        refine keeps_mk ?_
        exact k7
      )
    extract_lets -merge -useContext x14 x15 x16
    have k17 : Keeps q n x16 := by
      unfold x16
      refine keeps_State_setEngine ?_
      exact keeps_State_setJob k13
    try clear_value x16 x15 x14
    exact keeps_ite (keeps_State_holdUnit k17) k17

theorem keeps_State_finishJob {s : State} {j : Job} {status : Nat} (k2 : Keeps q n s) :
    Keeps q n (State.finishJob s j status) := by
  unfold State.finishJob
  extract_lets -merge -useContext x5 x6 x7 x8 x9 x10
  have k11 : Keeps q n x7 := by
    unfold x7
    exact { k2 with }
  have k13 : Keeps q n x8 := by
    unfold x8
    exact keeps_State_setQueue k11
  have k14 : Keeps q n x9 := by
    unfold x9
    refine keeps_ite ?_ k13
    refine keeps_State_settle ?_
    exact keeps_State_ringPut k13
  have k15 : Keeps q n x10 := by
    unfold x10
    refine keeps_State_count ?_
    exact keeps_State_count k14
  try clear_value x10 x9 x8 x7 x6 x5
  exact keeps_ite (keeps_State_fault k15) k15

theorem keeps_State_completeJobs {s : State} {a q' z5 : Nat} (k2 : Keeps q n s) :
    Keeps q n (State.completeJobs s a q' z5) := by
  induction z5 generalizing s with
  | zero => exact k2
  | succ m ih =>
    unfold State.completeJobs
    split
    · exact k2
    · split
      · exact k2
      · exact keeps_ite k2 (ih (keeps_State_finishJob k2))

theorem keeps_State_completeAll {s : State} (k2 : Keeps q n s) :
    Keeps q n (State.completeAll s) := by
  unfold State.completeAll
  refine keeps_foldl ?_ ?_
  · exact k2
  · intro t3 i4 k5
    exact keeps_State_completeJobs k5

theorem keeps_State_takeJob {s : State} {a : Nat} {q' : Nat} (k2 : Keeps q n s) :
    Keeps q n (State.takeJob s a q') := by
  unfold State.takeJob
  extract_lets -merge -useContext x5 x6
  try clear_value x6 x5
  split
  rename_i v7 v8 e9
  have k10 : Keeps q n v7 := keeps_fst e9 (by
      exact keeps_State_headEntry k2
    )
  extract_lets -merge -useContext x11 x12 x13 x14 x15 x16
  have k17 : Keeps q n x11 := by
    unfold x11
    exact keeps_State_takeEntry k10
  have k18 : Keeps q n x13 := by
    unfold x13
    exact keeps_State_setQueue k17
  have k19 : Keeps q n x15 := by
    unfold x15
    exact keeps_State_next k18
  try clear_value x16 x15 x14 x13 x12 x11
  split
  · extract_lets -merge -useContext x20
    try clear_value x20
    refine keeps_ite { k19 with } ?_
    refine keeps_State_queueError ?_
    exact { k19 with }
  · refine keeps_State_queueError ?_
    exact { k19 with }

theorem keeps_State_offer {s : State} {e a q' z5 : Nat} (k2 : Keeps q n s) : Keeps q n (State.offer s e a q' z5).1 := by
  induction z5 generalizing s with
  | zero => exact k2
  | succ m ih =>
    unfold State.offer
    split
    · exact k2
    · exact keeps_ite_fst k2 (keeps_ite_fst (keeps_State_holdUnit k2) (ih (keeps_State_completeJobs (keeps_State_takeJob k2))))

theorem keeps_State_offerQueues {s : State} {e a : Nat} {z4 : List Nat} (k2 : Keeps q n s) :
    Keeps q n (State.offerQueues s e a z4).1 := by
  induction z4 generalizing s with
  | nil => exact k2
  | cons x t ih =>
    unfold State.offerQueues
    split <;> rename_i he
    · exact keeps_fst he (keeps_State_offer k2)
    · exact ih (keeps_fst he (keeps_State_offer k2))

theorem keeps_State_offerAccts {s : State} {e : Nat} {z4 : List Nat} (k2 : Keeps q n s) :
    Keeps q n (State.offerAccts s e z4).1 := by
  induction z4 generalizing s with
  | nil => exact k2
  | cons x t ih =>
    unfold State.offerAccts
    extract_lets qs
    split <;> rename_i he
    · exact keeps_fst he (keeps_State_offerQueues k2)
    · exact ih (keeps_fst he (keeps_State_offerQueues k2))

theorem keeps_State_syncEngine {s : State} {e : Nat} (k2 : Keeps q n s) :
    Keeps q n (State.syncEngine s e) := by
  unfold State.syncEngine
  extract_lets -merge -useContext x4
  try clear_value x4
  split
  · exact keeps_State_wr k2
  · refine keeps_State_wr ?_
    refine keeps_State_wr ?_
    exact keeps_State_wr k2

theorem keeps_State_giveChunk {s : State} {e : Nat} {j : Job} (k2 : Keeps q n s) :
    Keeps q n (State.giveChunk s e j) := by
  unfold State.giveChunk
  extract_lets -merge -useContext x5 x6
  try clear_value x6 x5
  refine keeps_State_syncEngine ?_
  refine keeps_State_setEngine ?_
  exact keeps_State_setJob k2

theorem keeps_State_takeChunk {s : State} {e : Nat} {f : Job → Bool} (k2 : Keeps q n s) :
    Keeps q n (State.takeChunk s e f) := by
  unfold State.takeChunk
  extract_lets -merge -useContext x5
  have k6 : Keeps q n x5 := by
    unfold x5
    refine keeps_State_completeAll ?_
    exact keeps_State_dropHeld k2
  try clear_value x5
  refine keeps_ite k2 ?_
  split
  · rename_i v7 e8
    have k9 : Keeps q n v7 := keeps_fst e8 (by
        exact keeps_State_offerAccts k6
      )
    exact k9
  · rename_i v10 v11 e12
    have k13 : Keeps q n v10 := keeps_fst e12 (by
        exact keeps_State_offerAccts k6
      )
    refine keeps_ite k13 ?_
    refine keeps_State_runChunk ?_
    refine keeps_State_next ?_
    exact keeps_State_giveChunk k13

theorem keeps_execCopy {e : Fin 16} {s : State} (k3 : Keeps q n s) :
    ∀ t, (execCopy e s) = .next t → Keeps q n t := by
  unfold execCopy
  intro t e
  injection e with e
  subst e
  exact keeps_State_takeChunk k3

theorem keeps_execFill {e : Fin 16} {s : State} (k3 : Keeps q n s) :
    ∀ t, (execFill e s) = .next t → Keeps q n t := by
  unfold execFill
  intro t e
  injection e with e
  subst e
  exact keeps_State_takeChunk k3

theorem keeps_execSignal {e : Fin 16} {s : State} (k3 : Keeps q n s) :
    ∀ t, (execSignal e s) = .next t → Keeps q n t := by
  unfold execSignal
  intro t e
  injection e with e
  subst e
  exact keeps_State_takeChunk k3

theorem keeps_execNop {e : Fin 16} {s : State} (k3 : Keeps q n s) :
    ∀ t, (execNop e s) = .next t → Keeps q n t := by
  unfold execNop
  intro t e
  injection e with e
  subst e
  exact keeps_State_takeChunk k3

theorem keeps_State_endChunk {s : State} {e : Nat} (k2 : Keeps q n s) :
    Keeps q n (State.endChunk s e) := by
  unfold State.endChunk
  extract_lets -merge -useContext x4 x5 x6 x7
  have k8 : Keeps q n x6 := by
    unfold x6
    refine keeps_State_count ?_
    refine keeps_State_syncEngine ?_
    exact keeps_State_setEngine k2
  have k9 : Keeps q n x7 := by
    unfold x7
    split
    · rename_i v10 v11 e12
      have k13 : Keeps q n v10 := keeps_fst e12 (by
          exact keeps_State_useInject k8
        )
      exact keeps_State_fault k13
    · rename_i v14 e15
      have k16 : Keeps q n v14 := keeps_fst e15 (by
          exact keeps_State_useInject k8
        )
      exact k16
  try clear_value x7 x6 x5 x4
  split
  · exact k2
  · extract_lets -merge -useContext x17
    have k18 : Keeps q n x17 := by
      unfold x17
      split
      · exact k9
      · exact keeps_ite (keeps_State_setJob k9) k9
    try clear_value x17
    exact keeps_State_completeJobs k18

theorem keeps_State_engineGo {s : State} {e : Nat} (k2 : Keeps q n s) :
    Keeps q n (State.engineGo s e) := by
  unfold State.engineGo
  extract_lets -merge -useContext x4
  have k5 : Keeps q n x4 := by
    unfold x4
    exact keeps_State_runChunk k2
  try clear_value x4
  exact keeps_ite (keeps_State_endChunk k5) k5

theorem keeps_execChunkDone {e : Fin 16} {s : State} (k3 : Keeps q n s) :
    ∀ t, (execChunkDone e s) = .next t → Keeps q n t := by
  unfold execChunkDone
  extract_lets -merge -useContext x5
  have k6 : Keeps q n x5 := by
    unfold x5
    exact keeps_State_engineGo k3
  try clear_value x5
  intro t e
  injection e with e
  subst e
  exact keeps_ite k3 (keeps_ite k6 (keeps_State_takeChunk k6))

theorem keeps_State_stopChunk {s : State} {e : Nat} (k2 : Keeps q n s) :
    Keeps q n (State.stopChunk s e) := by
  unfold State.stopChunk
  extract_lets -merge -useContext x4
  try clear_value x4
  split
  · exact k2
  · refine keeps_ite (keeps_State_endChunk k2) ?_
    refine keeps_State_syncEngine ?_
    refine keeps_State_dropHeld ?_
    refine keeps_State_setEngine ?_
    exact keeps_State_setJob k2

theorem keeps_execCeTurn {e : Fin 16} {s : State} (k3 : Keeps q n s) :
    ∀ t, (execCeTurn e s) = .next t → Keeps q n t := by
  unfold execCeTurn
  extract_lets -merge -useContext x7 x8 x9
  have k10 : Keeps q n x8 := by
    unfold x8
    exact keeps_State_stopChunk k3
  try clear_value x9 x8 x7
  intro t e
  injection e with e
  subst e
  refine keeps_ite k3 ?_
  refine keeps_State_takeChunk ?_
  exact keeps_State_setEngine k10

theorem keeps_State_goOn {s : State} {h : DramHeld} (k2 : Keeps q n s) :
    Keeps q n (State.goOn s h) := by
  unfold State.goOn
  split
  · exact keeps_State_fetchBlock k2
  · exact keeps_State_mirrorGo k2
  · exact keeps_ite (keeps_State_engineGo k2) (keeps_State_takeChunk k2)
  · exact k2

theorem keeps_State_serveBefore {s : State} {k t : Nat} {z4 : Nat} (k2 : Keeps q n s) :
    Keeps q n (State.serveBefore s k t z4) := by
  induction z4 generalizing s with
  | zero => exact k2
  | succ m ih =>
    unfold State.serveBefore
    split
    · exact k2
    · exact keeps_ite (ih (keeps_State_serveLine k2)) k2

theorem keeps_State_goOnAll {s : State} {z2 : List DramHeld} (k2 : Keeps q n s) :
    Keeps q n (State.goOnAll s z2) := by
  induction z2 generalizing s with
  | nil => exact k2
  | cons h t ih => exact ih (keeps_State_goOn (keeps_State_serveBefore k2))

theorem keeps_State_serveHeld {s : State} (k2 : Keeps q n s) :
    Keeps q n (State.serveHeld s) := by
  unfold State.serveHeld
  extract_lets -merge -useContext x3 x4 x5
  have k6 : Keeps q n x5 := by
    unfold x5
    exact { k2 with }
  try clear_value x5 x4 x3
  refine keeps_State_serveWaiting ?_
  exact keeps_State_goOnAll k6

theorem keeps_execDramExitDone {s : State} (k2 : Keeps q n s) :
    ∀ t, (execDramExitDone s) = .next t → Keeps q n t := by
  unfold execDramExitDone
  intro t e
  injection e with e
  subst e
  refine keeps_ite ?_ k2
  refine keeps_State_serveHeld ?_
  exact keeps_State_wr k2

theorem keeps_execStrictWindow {ch : Fin 16} {s : State} (k3 : Keeps q n s) :
    ∀ t, (execStrictWindow ch s) = .next t → Keeps q n t := by
  unfold execStrictWindow
  extract_lets -merge -useContext x5
  try clear_value x5
  intro t e
  injection e with e
  subst e
  refine keeps_ite k3 ?_
  refine keeps_State_serveHeld ?_
  exact { k3 with }

theorem keeps_State_setHapState {s : State} {h : Nat} {v : Nat} (k2 : Keeps q n s) :
    Keeps q n (State.setHapState s h v) := by
  unfold State.setHapState
  exact keeps_State_wr k2

theorem keeps_State_hapDiscard {s : State} {h : Nat} {n' : Nat} (k2 : Keeps q n s) :
    Keeps q n (State.hapDiscard s h n') := by
  unfold State.hapDiscard
  exact keeps_State_count k2

theorem keeps_State_hapHalt {s : State} {h : Nat} {st : Nat} (k2 : Keeps q n s) :
    Keeps q n (State.hapHalt s h st) := by
  unfold State.hapHalt
  extract_lets -merge -useContext x5
  try clear_value x5
  refine keeps_State_hapDiscard ?_
  refine keeps_State_setHapState ?_
  exact keeps_State_hapOff k2

theorem keeps_State_coilCheck {s : State} {h : Nat} (k2 : Keeps q n s) :
    Keeps q n (State.coilCheck s h) := by
  unfold State.coilCheck
  extract_lets -merge -useContext x4 x5 x6
  have k7 : Keeps q n x4 := by
    unfold x4
    refine keeps_State_setHapState ?_
    exact keeps_State_hapOff k2
  try clear_value x6 x5 x4
  exact keeps_State_setHap k7

theorem keeps_State_clampFreq {s : State} {h : Nat} (k2 : Keeps q n s) :
    Keeps q n (State.clampFreq s h) := by
  unfold State.clampFreq
  extract_lets -merge -useContext x4 x5 x6
  try clear_value x6 x5 x4
  refine keeps_State_wr ?_
  exact keeps_State_setHap k2

theorem keeps_State_srcChanged {s : State} {h : Nat} (k2 : Keeps q n s) :
    Keeps q n (State.srcChanged s h) := by
  unfold State.srcChanged
  extract_lets -merge -useContext x4 x5 x6 x7
  try clear_value x7 x6 x5 x4
  refine keeps_State_hapDiscard ?_
  exact keeps_State_setHap k2

theorem keeps_State_hapWrite {s : State} {who : Nat} {h : Nat} {off : Nat} {value : Word} {be : BitVec 4} {highNs : Nat} (k2 : Keeps q n s) :
    Keeps q n (State.hapWrite s who h off value be highNs) := by
  unfold State.hapWrite
  extract_lets -merge -useContext x9
  try clear_value x9
  refine keeps_State_writeWith k2 ?_
  intro y10 y11 k12
  extract_lets -merge -useContext x13 x14 x15 x16 x17 x18 x19 x20
  have k21 : Keeps q n x15 := by
    unfold x15
    exact keeps_State_store k12
  have k22 : Keeps q n x17 := by
    unfold x17
    exact keeps_ite k21 (keeps_State_srcChanged k21)
  have k23 : Keeps q n x19 := by
    unfold x19
    exact keeps_State_setHap k22
  have k24 : Keeps q n x20 := by
    unfold x20
    exact keeps_State_wr k23
  try clear_value x20 x19 x18 x17 x16 x15 x14 x13
  refine keeps_ite ?_ (keeps_ite (keeps_ite (keeps_State_clampFreq k22) k22) (keeps_ite (keeps_State_hapHalt k22) (keeps_ite (keeps_State_setHapState k24) (keeps_State_coilCheck k24))))
  refine keeps_ite k12 ?_
  refine keeps_State_coilCheck ?_
  refine keeps_State_setLevel ?_
  exact keeps_State_wr k12

theorem keeps_execHapticEnable {who : Actor} {h : Fin 8} {s : State} (k4 : Keeps q n s) :
    ∀ t, (execHapticEnable who h s) = .next t → Keeps q n t := by
  unfold execHapticEnable
  intro t e
  injection e with e
  subst e
  exact keeps_State_hapWrite k4

theorem keeps_execHapTripClear {who : Actor} {h : Fin 8} {highNs : Nat} {s : State} (k5 : Keeps q n s) :
    ∀ t, (execHapTripClear who h highNs s) = .next t → Keeps q n t := by
  unfold execHapTripClear
  extract_lets -merge -useContext x9 x10 x11
  have k12 : Keeps q n x11 := by
    unfold x11
    refine keeps_ite k5 ?_
    refine keeps_State_setHap ?_
    exact keeps_State_wr k5
  try clear_value x11 x10 x9
  intro t e
  injection e with e
  subst e
  exact keeps_State_hapWrite k12

theorem keeps_execHapTrip {h : Fin 8} {s : State} (k3 : Keeps q n s) :
    ∀ t, (execHapTrip h s) = .next t → Keeps q n t := by
  unfold execHapTrip
  extract_lets -merge -useContext x7 x8 x9
  have k10 : Keeps q n x8 := by
    unfold x8
    exact keeps_State_wr k3
  have k11 : Keeps q n x9 := by
    unfold x9
    exact keeps_State_hapHalt k10
  try clear_value x9 x8 x7
  intro t e
  injection e with e
  subst e
  refine keeps_ite k11 ?_
  refine keeps_State_raise ?_
  refine keeps_State_setLevel ?_
  refine keeps_State_count ?_
  exact keeps_State_wr k11

theorem keeps_State_hapAsk {s : State} {h : Nat} {r : HapReq} (k2 : Keeps q n s) :
    Keeps q n (State.hapAsk s h r) := by
  unfold State.hapAsk
  extract_lets -merge -useContext x5 x6 x7 x8
  have k9 : Keeps q n x7 := by
    unfold x7
    exact keeps_ite k2 (keeps_State_setHap k2)
  try clear_value x8 x7 x6 x5
  exact keeps_ite (keeps_State_hapDiscard k9) (keeps_State_setHap k9)

theorem keeps_State_hapDecide {s : State} {h : Nat} (k2 : Keeps q n s) :
    Keeps q n (State.hapDecide s h) := by
  unfold State.hapDecide
  extract_lets -merge -useContext x4 x5 x6 x7 x8 x9
  have k10 : Keeps q n x6 := by
    unfold x6
    exact keeps_State_setHap k2
  try clear_value x9 x8 x7 x6 x5 x4
  split
  · exact k2
  · extract_lets -merge -useContext x11
    try clear_value x11
    refine keeps_ite ?_ (keeps_State_hapDiscard k10)
    refine keeps_State_hapDiscard ?_
    exact keeps_State_setHap k10

theorem keeps_State_hapRead {s : State} {h : Nat} {addr : Nat} {words : Nat} (k2 : Keeps q n s) :
    Keeps q n (State.hapRead s h addr words).1 := by
  unfold State.hapRead
  split
  · refine keeps_mk ?_
    exact k2
  · refine keeps_ite_fst ?_ ?_
    · refine keeps_mk ?_
      exact k2
    · split
      · rename_i v6 v7 e8
        have k9 : Keeps q n v6 := keeps_fst e8 (by
            exact keeps_State_readMem k2
          )
        refine keeps_mk ?_
        exact k9
      · rename_i v10 v11 e12
        have k13 : Keeps q n v10 := keeps_fst e12 (by
            exact keeps_State_readMem k2
          )
        refine keeps_mk ?_
        exact k13

theorem keeps_State_effectSegs {s : State} {h : Nat} {e : Nat} (k2 : Keeps q n s) :
    Keeps q n (State.effectSegs s h e).1 := by
  unfold State.effectSegs
  extract_lets -merge -useContext x5
  try clear_value x5
  refine keeps_ite_fst ?_ ?_
  · refine keeps_mk ?_
    exact k2
  · split
    · rename_i v6 e7
      have k8 : Keeps q n v6 := keeps_fst e7 (by
          exact keeps_State_hapRead k2
        )
      refine keeps_mk ?_
      exact k8
    · rename_i v9 v10 e11
      have k12 : Keeps q n v9 := keeps_fst e11 (by
          exact keeps_State_hapRead k2
        )
      extract_lets -merge -useContext x13
      try clear_value x13
      split
      · rename_i v14 e15
        have k16 : Keeps q n v14 := keeps_fst e15 (by
            exact keeps_State_hapRead k12
          )
        refine keeps_mk ?_
        exact k16
      · rename_i v17 v18 e19
        have k20 : Keeps q n v17 := keeps_fst e19 (by
            exact keeps_State_hapRead k12
          )
        extract_lets -merge -useContext x21
        try clear_value x21
        refine keeps_ite_fst ?_ ?_
        · refine keeps_mk ?_
          exact k20
        · split
          · rename_i v22 e23
            have k24 : Keeps q n v22 := keeps_fst e23 (by
                exact keeps_State_hapRead k20
              )
            refine keeps_mk ?_
            exact k24
          · rename_i v25 v26 e27
            have k28 : Keeps q n v25 := keeps_fst e27 (by
                exact keeps_State_hapRead k20
              )
            refine keeps_ite_fst ?_ ?_
            · refine keeps_mk ?_
              exact k28
            · refine keeps_mk ?_
              exact k28

theorem keeps_execEffectLoad {h : Fin 8} {s : State} (k3 : Keeps q n s) :
    ∀ t, (execEffectLoad h s) = .next t → Keeps q n t := by
  unfold execEffectLoad
  extract_lets -merge -useContext x6 x7
  have k8 : Keeps q n x7 := by
    unfold x7
    exact keeps_State_setHap k3
  try clear_value x7 x6
  intro t e
  injection e with e
  subst e
  split
  · exact k3
  · split
    · rename_i v9 e10
      have k11 : Keeps q n v9 := keeps_fst e10 (by
          exact keeps_State_effectSegs k8
        )
      exact keeps_State_fault k11
    · rename_i v12 v13 e14
      have k15 : Keeps q n v12 := keeps_fst e14 (by
          exact keeps_State_effectSegs k8
        )
      extract_lets -merge -useContext x16
      try clear_value x16
      exact keeps_State_setHap k15

theorem keeps_State_syncPlay {s : State} {h : Nat} (k2 : Keeps q n s) :
    Keeps q n (State.syncPlay s h) := by
  unfold State.syncPlay
  extract_lets -merge -useContext x4 x5
  try clear_value x5 x4
  split
  · exact keeps_State_setReg k2
  · refine keeps_State_wr ?_
    refine keeps_State_wr ?_
    refine keeps_State_wr ?_
    exact keeps_State_wr k2

theorem keeps_State_syncRamp {s : State} {h : Nat} (k2 : Keeps q n s) :
    Keeps q n (State.syncRamp s h) := by
  unfold State.syncRamp
  exact keeps_State_wr k2

theorem keeps_State_hapStart {s : State} {h : Nat} (k2 : Keeps q n s) :
    Keeps q n (State.hapStart s h) := by
  unfold State.hapStart
  extract_lets -merge -useContext x4 x5 x6 x7 x8
  try clear_value x8 x7 x6 x5 x4
  split
  · exact k2
  · extract_lets -merge -useContext x9 x10 x11 x12 x13
    have k14 : Keeps q n x11 := by
      unfold x11
      refine keeps_State_count ?_
      refine keeps_State_setHapState ?_
      refine keeps_State_setHap ?_
      exact keeps_State_clampFreq k2
    have k15 : Keeps q n x13 := by
      unfold x13
      exact keeps_State_setHap k14
    try clear_value x13 x12 x11 x10 x9
    refine keeps_State_syncRamp ?_
    exact keeps_State_syncPlay k15

theorem keeps_State_hapDone {s : State} {h : Nat} (k2 : Keeps q n s) :
    Keeps q n (State.hapDone s h) := by
  unfold State.hapDone
  extract_lets -merge -useContext x4 x5
  have k6 : Keeps q n x5 := by
    unfold x5
    refine keeps_State_setHapState ?_
    exact keeps_State_setHap k2
  try clear_value x5 x4
  refine keeps_State_raise ?_
  refine keeps_State_syncRamp ?_
  exact keeps_State_syncPlay k6

theorem keeps_State_hapEnd {s : State} {h : Nat} (k2 : Keeps q n s) :
    Keeps q n (State.hapEnd s h) := by
  unfold State.hapEnd
  extract_lets -merge -useContext x4 x5 x6 x7 x8
  have k9 : Keeps q n x6 := by
    unfold x6
    refine keeps_State_setHapState ?_
    exact keeps_State_setHap k2
  have k10 : Keeps q n x7 := by
    unfold x7
    exact keeps_State_syncRamp k9
  try clear_value x8 x7 x6 x5 x4
  exact keeps_ite (keeps_State_hapDone k10) (keeps_ite k10 (keeps_State_setHap k10))

theorem keeps_State_hapCut {s : State} {h : Nat} {st : Nat} (k2 : Keeps q n s) :
    Keeps q n (State.hapCut s h st) := by
  unfold State.hapCut
  extract_lets -merge -useContext x5 x6 x7
  have k8 : Keeps q n x6 := by
    unfold x6
    refine keeps_State_setHapState ?_
    exact keeps_State_hapOff k2
  try clear_value x7 x6 x5
  exact keeps_ite (keeps_State_hapDiscard k8) (keeps_State_setHap k8)

theorem keeps_State_hapEntry {s : State} {a : Nat} {q' : Nat} {op : Nat} {eff : List Byte → State → State} (k2 : Keeps q n s) (k7 : ∀ a8 a9, Keeps q n a9 → Keeps q n (eff a8 a9)) :
    Keeps q n (State.hapEntry s a q' op eff) := by
  unfold State.hapEntry
  refine keeps_ite k2 ?_
  refine keeps_ite (keeps_State_holdUnit k2) ?_
  split
  · rename_i v10 v11 e12
    have k13 : Keeps q n v10 := keeps_fst e12 (by
        exact keeps_State_headEntry k2
      )
    exact keeps_State_queueStop k13
  · rename_i v14 v15 e16
    have k17 : Keeps q n v14 := keeps_fst e16 (by
        exact keeps_State_headEntry k2
      )
    extract_lets -merge -useContext x18
    have k19 : Keeps q n x18 := by
      unfold x18
      exact keeps_State_takeEntry k17
    try clear_value x18
    exact keeps_ite (keeps_State_queueStop k17) (keeps_ite k17 (keeps_ite (keeps_State_hapDiscard k19) (k7 _ _ k19)))

theorem keeps_execHapticPlay {a : Acct} {q' : Fin 256} {s : State} (k4 : Keeps q n s) :
    ∀ t, (execHapticPlay a q' s) = .next t → Keeps q n t := by
  unfold execHapticPlay
  intro t e
  injection e with e
  subst e
  refine keeps_State_hapEntry k4 ?_
  intro y5 y6 k7
  exact keeps_State_hapAsk k7

theorem keeps_execHapticStop {a : Acct} {q' : Fin 256} {s : State} (k4 : Keeps q n s) :
    ∀ t, (execHapticStop a q' s) = .next t → Keeps q n t := by
  unfold execHapticStop
  intro t e
  injection e with e
  subst e
  refine keeps_State_hapEntry k4 ?_
  intro y5 y6 k7
  exact keeps_ite (keeps_State_hapEnd k7) k7

theorem keeps_execCoilCheckDone {h : Fin 8} {milliohm : Nat} {s : State} (k4 : Keeps q n s) :
    ∀ t, (execCoilCheckDone h milliohm s) = .next t → Keeps q n t := by
  unfold execCoilCheckDone
  extract_lets -merge -useContext x11 x12 x13 x14 x15 x16
  have k17 : Keeps q n x14 := by
    unfold x14
    exact keeps_State_wr k4
  have k18 : Keeps q n x16 := by
    unfold x16
    exact keeps_State_setHap k17
  try clear_value x16 x15 x14 x13 x12 x11
  intro t e
  injection e with e
  subst e
  refine keeps_ite k4 ?_
  refine keeps_ite ?_ ?_
  · refine keeps_State_fault ?_
    refine keeps_State_hapHalt ?_
    exact keeps_State_wr k18
  · refine keeps_ite ?_ ?_
    · refine keeps_State_fault ?_
      refine keeps_State_hapHalt ?_
      exact keeps_State_wr k18
    · refine keeps_ite ?_ ?_
      · refine keeps_State_hapHalt ?_
        exact keeps_State_wr k18
      · refine keeps_ite ?_ ?_
        · refine keeps_State_hapHalt ?_
          exact keeps_State_wr k18
        · refine keeps_State_hapDecide ?_
          refine keeps_State_setHapState ?_
          exact keeps_State_wr k18

theorem keeps_State_gatesEnd {s : State} {h : Nat} (k2 : Keeps q n s) :
    Keeps q n (State.gatesEnd s h) := by
  unfold State.gatesEnd
  extract_lets -merge -useContext x4 x5 x6
  try clear_value x6 x5 x4
  exact keeps_State_setHap k2

theorem keeps_State_hapThermal {s : State} {h : Nat} {currentMa : Nat} (k2 : Keeps q n s) :
    Keeps q n (State.hapThermal s h currentMa) := by
  unfold State.hapThermal
  extract_lets -merge -useContext x5 x6 x7 x8 x9 x10 x11 x12 x13
  have k14 : Keeps q n x9 := by
    unfold x9
    refine keeps_State_wr ?_
    exact keeps_State_setHap k2
  have k15 : Keeps q n x12 := by
    unfold x12
    refine keeps_ite (keeps_State_hapCut k14) ?_
    refine keeps_ite ?_ k14
    refine keeps_State_hapDiscard ?_
    exact keeps_State_setHap k14
  have k16 : Keeps q n x13 := by
    unfold x13
    exact keeps_State_setLevel k14
  try clear_value x13 x12 x11 x10 x9 x8 x7 x6 x5
  exact keeps_ite (keeps_State_setLevel k15) (keeps_ite (keeps_ite (keeps_State_setHapState k16) k16) k14)

theorem keeps_State_hapTrack {s : State} {h : Nat} (k2 : Keeps q n s) :
    Keeps q n (State.hapTrack s h) := by
  unfold State.hapTrack
  extract_lets -merge -useContext x4 x5 x6 x7 x8
  try clear_value x8 x7 x6 x5 x4
  refine keeps_ite k2 ?_
  refine keeps_State_wr ?_
  refine keeps_State_setHap ?_
  exact keeps_State_next k2

theorem keeps_State_hapStall {s : State} {h : Nat} (k2 : Keeps q n s) :
    Keeps q n (State.hapStall s h) := by
  unfold State.hapStall
  extract_lets -merge -useContext x4 x5 x6
  try clear_value x6 x5 x4
  split
  · exact k2
  · refine keeps_ite (keeps_State_setHap k2) ?_
    refine keeps_ite ?_ (keeps_State_setHap k2)
    refine keeps_ite ?_ (keeps_State_setHap k2)
    refine keeps_State_fault ?_
    exact keeps_State_hapCut k2

theorem keeps_State_hapHalf {s : State} {h : Nat} (k2 : Keeps q n s) :
    Keeps q n (State.hapHalf s h) := by
  unfold State.hapHalf
  extract_lets -merge -useContext x4 x5 x6 x7 x8 x9
  try clear_value x9 x8 x7 x6 x5 x4
  exact keeps_ite (keeps_State_setHap k2) (keeps_State_setHap k2)

theorem keeps_State_hapCycle {s : State} {h : Nat} (k2 : Keeps q n s) :
    Keeps q n (State.hapCycle s h) := by
  unfold State.hapCycle
  extract_lets -merge -useContext x4 x5 x6 x7 x8
  have k9 : Keeps q n x5 := by
    unfold x5
    exact keeps_State_setHap k2
  have k10 : Keeps q n x6 := by
    unfold x6
    exact keeps_State_hapTrack k9
  have k11 : Keeps q n x7 := by
    unfold x7
    exact keeps_ite (keeps_State_hapStall k10) k10
  try clear_value x8 x7 x6 x5 x4
  exact keeps_State_setHap k11

theorem keeps_State_hapBrake {s : State} {h : Nat} (k2 : Keeps q n s) :
    Keeps q n (State.hapBrake s h) := by
  unfold State.hapBrake
  extract_lets -merge -useContext x4
  try clear_value x4
  exact keeps_ite (keeps_State_hapDone k2) (keeps_State_setHap k2)

theorem keeps_State_hapPhase {s : State} {h : Nat} (k2 : Keeps q n s) :
    Keeps q n (State.hapPhase s h) := by
  unfold State.hapPhase
  extract_lets -merge -useContext x4 x5 x6 x7 x8 x9
  have k10 : Keeps q n x7 := by
    unfold x7
    exact keeps_State_setHap k2
  have k11 : Keeps q n x8 := by
    unfold x8
    exact keeps_ite (keeps_State_hapHalf k10) k10
  have k12 : Keeps q n x9 := by
    unfold x9
    exact keeps_ite (keeps_State_hapCycle k11) k11
  try clear_value x9 x8 x7 x6 x5 x4
  exact keeps_ite (keeps_State_hapBrake k12) k12

theorem keeps_State_hapSegment {s : State} {h : Nat} (k2 : Keeps q n s) :
    Keeps q n (State.hapSegment s h) := by
  unfold State.hapSegment
  extract_lets -merge -useContext x4 x5 x6
  have k7 : ∀ a9, Keeps q n (x5 a9) := by
    unfold x5
    intro y8
    refine keeps_State_syncPlay ?_
    exact keeps_State_setHap k2
  try clear_value x6 x5 x4
  refine keeps_ite (keeps_State_setHap k2) ?_
  refine keeps_ite (k7 _) ?_
  refine keeps_ite (k7 _) ?_
  refine keeps_State_hapEnd ?_
  exact keeps_State_setHap k2

theorem keeps_State_hapHandover {s : State} {h : Nat} (k2 : Keeps q n s) :
    Keeps q n (State.hapHandover s h) := by
  unfold State.hapHandover
  extract_lets -merge -useContext x4 x5 x6 x7 x8 x9 x10
  have k11 : Keeps q n x7 := by
    unfold x7
    refine keeps_State_raise ?_
    refine keeps_State_count ?_
    exact keeps_State_hwField k2
  try clear_value x10 x9 x8 x7 x6 x5 x4
  refine keeps_ite k2 ?_
  refine keeps_ite k11 ?_
  refine keeps_State_syncRamp ?_
  exact keeps_State_setHap k11

theorem keeps_State_hapDrive {s : State} {h : Nat} (k2 : Keeps q n s) :
    Keeps q n (State.hapDrive s h) := by
  unfold State.hapDrive
  extract_lets -merge -useContext x4 x5 x6 x7
  try clear_value x7 x6 x5 x4
  refine keeps_ite k2 ?_
  refine keeps_State_syncRamp ?_
  exact keeps_State_setHap k2

theorem keeps_State_pwmInjected {s : State} {h : Nat} (k2 : Keeps q n s) : Keeps q n (State.pwmInjected s h) := by
  unfold State.pwmInjected
  have kr : Keeps q n (s.useInject (hapPage h) 6).1 := keeps_State_useInject k2
  exact keeps_ite (keeps_State_fault (keeps_State_hapCut kr)) kr

theorem keeps_State_pwmSampled {s : State} {h : Nat} {emf : Option ℤ} (k2 : Keeps q n s) :
    Keeps q n (State.pwmSampled s h emf) := by
  unfold State.pwmSampled
  extract_lets -merge -useContext x5 x6 x7
  have k8 : Keeps q n x7 := by
    unfold x7
    exact keeps_State_setHap k2
  try clear_value x7 x6 x5
  refine keeps_ite ?_ (keeps_ite (keeps_State_hapDone k8) k8)
  split
  · exact keeps_State_setHap k2
  · extract_lets -merge -useContext x9
    try clear_value x9
    exact keeps_State_setHap k2

theorem keeps_State_pwmPlay {s : State} {h : Nat} (k2 : Keeps q n s) :
    Keeps q n (State.pwmPlay s h) := by
  unfold State.pwmPlay
  extract_lets -merge -useContext x4
  have k5 : Keeps q n x4 := by
    unfold x4
    exact keeps_ite (keeps_State_hapPhase k2) k2
  try clear_value x4
  exact keeps_ite (keeps_State_hapSegment k5) k5

theorem keeps_State_pwmPeriod {s : State} {h : Nat} {currentMa : Nat} {emf : Option Int} (k2 : Keeps q n s) :
    Keeps q n (State.pwmPeriod s h currentMa emf) := by
  have k := keeps_State_hapHandover (h := h) (keeps_State_pwmPlay (h := h) (keeps_State_pwmSampled (h := h) (emf := emf)
    (keeps_State_hapThermal (h := h) (currentMa := currentMa) (keeps_State_pwmInjected (h := h) (keeps_State_gatesEnd (h := h) k2)))))
  exact keeps_State_hapDrive (keeps_ite k (keeps_State_hapDecide (keeps_State_hapStart k)))

theorem keeps_execPwmPeriod {h : Fin 8} {currentMa : Nat} {emf : Option ℤ} {s : State} (k5 : Keeps q n s) :
    ∀ t, (execPwmPeriod h currentMa emf s) = .next t → Keeps q n t := by
  unfold execPwmPeriod
  intro t e
  injection e with e
  subst e
  exact keeps_State_pwmPeriod k5

theorem keeps_State_accLost {s : State} {h : Nat} (k2 : Keeps q n s) :
    Keeps q n (State.accLost s h) := by
  unfold State.accLost
  extract_lets -merge -useContext x4
  try clear_value x4
  refine keeps_State_count ?_
  exact keeps_State_setHap k2

theorem keeps_execAccelSample {h : Fin 8} {sample : BitVec 16} {s : State} (k4 : Keeps q n s) :
    ∀ t, (execAccelSample h sample s) = .next t → Keeps q n t := by
  unfold execAccelSample
  extract_lets -merge -useContext x8 x9 x10
  try clear_value x10 x9 x8
  intro t e
  injection e with e
  subst e
  exact keeps_ite k4 (keeps_ite (keeps_State_accLost k4) (keeps_State_setHap k4))

theorem keeps_execAccelTimeout {h : Fin 8} {s : State} (k3 : Keeps q n s) :
    ∀ t, (execAccelTimeout h s) = .next t → Keeps q n t := by
  unfold execAccelTimeout
  intro t e
  injection e with e
  subst e
  exact keeps_ite k3 (keeps_State_accLost k3)

theorem keeps_State_hapFollow {s : State} {col : Nat} {sample : ℤ} (k2 : Keeps q n s) :
    Keeps q n (State.hapFollow s col sample) := by
  unfold State.hapFollow
  refine keeps_foldl ?_ ?_
  · exact k2
  · intro t5 i6 k7
    extract_lets -merge -useContext x8 x9
    try clear_value x9 x8
    exact keeps_ite (keeps_State_setHap k7) k7

theorem keeps_State_setChan {s : State} {b : Nat} {c : Nat} {v : ChanS} (k2 : Keeps q n s) :
    Keeps q n (State.setChan s b c v) := by
  unfold State.setChan
  extract_lets -merge -useContext x6
  try clear_value x6
  exact keeps_State_setTch k2

theorem keeps_State_setGrp {s : State} {b : Nat} {g : Nat} {v : GroupS} (k2 : Keeps q n s) :
    Keeps q n (State.setGrp s b g v) := by
  unfold State.setGrp
  extract_lets -merge -useContext x6
  try clear_value x6
  exact keeps_State_setTch k2

theorem keeps_execTouchScan {b : Fin 4} {s : State} (k3 : Keeps q n s) :
    ∀ t, (execTouchScan b s) = .next t → Keeps q n t := by
  unfold execTouchScan
  extract_lets -merge -useContext x6 x7
  try clear_value x7 x6
  intro t e
  injection e with e
  subst e
  exact keeps_ite k3 (keeps_State_setTch k3)

theorem keeps_State_syncRange {s : State} {b : Nat} (k2 : Keeps q n s) :
    Keeps q n (State.syncRange s b) := by
  unfold State.syncRange
  exact keeps_State_setLevel k2

theorem keeps_State_countInvalid {s : State} {b : Nat} {out : Bool} {valid : Bool} (k2 : Keeps q n s) :
    Keeps q n (State.countInvalid s b out valid) := by
  unfold State.countInvalid
  extract_lets -merge -useContext x6
  have k7 : Keeps q n x6 := by
    unfold x6
    exact keeps_ite k2 (keeps_State_count k2)
  try clear_value x6
  exact keeps_ite (keeps_State_count k7) k7

theorem keeps_State_addReport {s : State} {b : Nat} {bytes : List Byte} {trig : Option (Bool × Bool × Nat)} (k2 : Keeps q n s) :
    Keeps q n (State.addReport s b bytes trig) := by
  unfold State.addReport
  extract_lets -merge -useContext x6
  try clear_value x6
  exact keeps_State_setTch k2

theorem keeps_State_chanReport {s : State} {b : Nat} {c : Nat} {flags : Nat} {release : Bool} (k2 : Keeps q n s) :
    Keeps q n (State.chanReport s b c flags release) := by
  unfold State.chanReport
  extract_lets -merge -useContext x7 x8
  try clear_value x8 x7
  exact keeps_ite k2 (keeps_State_addReport k2)

theorem keeps_State_syncChan {s : State} {b : Nat} {c : Nat} {n' : Nat} {d : ℤ} (k2 : Keeps q n s) :
    Keeps q n (State.syncChan s b c n' d) := by
  unfold State.syncChan
  extract_lets -merge -useContext x7 x8
  try clear_value x8 x7
  refine keeps_State_wr ?_
  refine keeps_State_wr ?_
  refine keeps_State_wr ?_
  exact keeps_State_wr k2

theorem keeps_State_valid {s : State} {b : Nat} {c : Nat} {n' : Nat} (k2 : Keeps q n s) :
    Keeps q n (State.valid s b c n') := by
  unfold State.valid
  extract_lets -merge -useContext x6 x7 x8 x9 x10 x11 x12 x13
  try clear_value x13 x12 x11 x10 x9 x8 x7 x6
  split
  extract_lets -merge -useContext x14 x15 x16 x17 x18 x19 x20 x21 x22 x23
  have k24 : Keeps q n x20 := by
    unfold x20
    refine keeps_State_syncChan ?_
    exact keeps_State_setChan k2
  have k25 : Keeps q n x21 := by
    unfold x21
    exact keeps_State_wr k24
  have k26 : Keeps q n x22 := by
    unfold x22
    exact keeps_State_wr k25
  have k27 : Keeps q n x23 := by
    unfold x23
    exact keeps_ite k26 (keeps_State_wr k26)
  try clear_value x23 x22 x21 x20 x19 x18 x17 x16 x15 x14
  refine keeps_ite (keeps_State_chanReport k27) ?_
  refine keeps_ite (keeps_State_chanReport k27) ?_
  refine keeps_ite ?_ k27
  refine keeps_State_raise ?_
  refine keeps_State_count ?_
  exact keeps_State_chanReport k27

theorem keeps_State_startChan {s : State} {b : Nat} {c : Nat} {n' : Nat} {usable : Bool} (k2 : Keeps q n s) :
    Keeps q n (State.startChan s b c n' usable) := by
  unfold State.startChan
  extract_lets -merge -useContext x7 x8 x9 x10 x11 x12 x13 x14
  have k15 : Keeps q n x13 := by
    unfold x13
    exact keeps_State_setChan k2
  have k16 : Keeps q n x14 := by
    unfold x14
    refine keeps_State_wr ?_
    refine keeps_State_wr ?_
    exact keeps_State_syncChan k15
  try clear_value x14 x13 x12 x11 x10 x9 x8 x7
  refine keeps_ite (keeps_State_chanReport k16) ?_
  refine keeps_State_valid ?_
  exact keeps_State_setChan k2

theorem keeps_State_convert {s : State} {b : Nat} {c : Nat} {n' : Nat} {parity : Bool} (k2 : Keeps q n s) :
    Keeps q n (State.convert s b c n' parity) := by
  unfold State.convert
  extract_lets -merge -useContext x7 x8 x9 x10 x11 x12 x13 x14
  have k15 : Keeps q n x10 := by
    unfold x10
    exact keeps_State_setChan k2
  have k16 : Keeps q n x12 := by
    unfold x12
    exact keeps_State_setTch k15
  have k17 : Keeps q n x13 := by
    unfold x13
    exact keeps_State_countInvalid k16
  try clear_value x14 x13 x12 x11 x10 x9 x8 x7
  refine keeps_ite k17 ?_
  refine keeps_ite (keeps_State_valid k17) ?_
  refine keeps_ite (keeps_State_startChan k17) ?_
  split
  · exact keeps_ite k17 (keeps_State_setChan k17)
  · exact keeps_State_startChan k17

theorem keeps_State_rescale {s : State} {b : Nat} {ref : Nat} (k2 : Keeps q n s) :
    Keeps q n (State.rescale s b ref) := by
  unfold State.rescale
  split
  · exact k2
  · extract_lets -merge -useContext x5 x6
    have k7 : Keeps q n x5 := by
      unfold x5
      refine keeps_foldl ?_ ?_
      · exact k2
      · intro t8 i9 k10
        extract_lets -merge -useContext x11 x12
        try clear_value x12 x11
        refine keeps_ite ?_ k10
        refine keeps_State_wr ?_
        exact keeps_State_setChan k10
    try clear_value x6 x5
    exact keeps_State_setTch k7

theorem keeps_State_reference {s : State} {b : Nat} {ref : Nat} (k2 : Keeps q n s) :
    Keeps q n (State.reference s b ref) := by
  unfold State.reference
  extract_lets -merge -useContext x5 x6 x7 x8 x9 x10 x11 x12 x13 x14
  have k15 : Keeps q n x6 := by
    unfold x6
    refine keeps_State_wr ?_
    exact keeps_State_wr k2
  have k16 : Keeps q n x7 := by
    unfold x7
    exact keeps_State_rescale k15
  have k17 : Keeps q n x13 := by
    unfold x13
    exact keeps_State_setTch k16
  have k18 : Keeps q n x14 := by
    unfold x14
    exact keeps_ite (keeps_State_setLevel k17) (keeps_ite (keeps_State_setLevel k17) k17)
  try clear_value x14 x13 x12 x11 x10 x9 x8 x7 x6 x5
  refine keeps_ite k18 ?_
  refine keeps_foldl ?_ ?_
  · exact k18
  · intro t19 i20 k21
    split
    · exact k21
    · exact keeps_State_startChan k21

theorem keeps_State_convertRef {s : State} {b : Nat} {n' : Nat} {parity : Bool} (k2 : Keeps q n s) :
    Keeps q n (State.convertRef s b n' parity) := by
  unfold State.convertRef
  extract_lets -merge -useContext x6 x7 x8 x9
  have k10 : Keeps q n x9 := by
    unfold x9
    refine keeps_State_countInvalid ?_
    exact keeps_State_setTch k2
  try clear_value x9 x8 x7 x6
  exact keeps_ite (keeps_State_reference k10) k10

theorem keeps_State_noise {s : State} {b : Nat} {f : Nat} {m : Nat} (k2 : Keeps q n s) :
    Keeps q n (State.noise s b f m) := by
  unfold State.noise
  extract_lets -merge -useContext x6
  try clear_value x6
  exact keeps_State_wr k2

theorem keeps_State_listen {s : State} {b : Nat} {noise : Nat × Nat} (k2 : Keeps q n s) :
    Keeps q n (State.listen s b noise) := by
  unfold State.listen
  extract_lets -merge -useContext x5 x6 x7
  have k8 : Keeps q n x6 := by
    unfold x6
    exact keeps_State_noise k2
  try clear_value x7 x6 x5
  split
  · exact k8
  · refine keeps_State_setTch ?_
    exact keeps_State_noise k8

theorem keeps_State_hop {s : State} {b : Nat} {f : Nat} (k2 : Keeps q n s) :
    Keeps q n (State.hop s b f) := by
  unfold State.hop
  extract_lets -merge -useContext x5 x6 x7 x8 x9 x10
  have k11 : Keeps q n x7 := by
    unfold x7
    refine keeps_State_raise ?_
    refine keeps_State_count ?_
    exact keeps_State_hwField k2
  have k12 : Keeps q n x9 := by
    unfold x9
    exact keeps_State_setTch k11
  have k13 : Keeps q n x10 := by
    unfold x10
    refine keeps_foldl ?_ ?_
    · exact k12
    · intro t14 i15 k16
      extract_lets -merge -useContext x17
      try clear_value x17
      exact keeps_ite (keeps_State_setChan k16) k16
  try clear_value x10 x9 x8 x7 x6 x5
  exact keeps_State_addReport k13

theorem keeps_State_groupReport {s : State} {b : Nat} {g : Nat} {ev : Nat} {flags : Nat} {pos : Nat} {speed : ℤ} (k2 : Keeps q n s) :
    Keeps q n (State.groupReport s b g ev flags pos speed) := by
  unfold State.groupReport
  extract_lets -merge -useContext x9 x10 x11
  have k12 : Keeps q n x11 := by
    unfold x11
    exact keeps_State_wr k2
  try clear_value x11 x10 x9
  exact keeps_State_addReport k12

theorem keeps_State_groupScan {s : State} {b : Nat} {g : Nat} (k2 : Keeps q n s) :
    Keeps q n (State.groupScan s b g) := by
  unfold State.groupScan
  extract_lets -merge -useContext x5 x6 x7 x8 x9 x10 x11
  try clear_value x11 x10 x9 x8 x7 x6 x5
  refine keeps_ite k2 ?_
  refine keeps_ite ?_ ?_
  · refine keeps_ite k2 ?_
    refine keeps_State_groupReport ?_
    exact keeps_State_setGrp k2
  · split
    rename_i v12 v13 e14
    have k15 : Keeps q n v12 := keeps_fst e14 (by
        split
        · refine keeps_mk ?_
          exact k2
        · refine keeps_ite_fst ?_ ?_
          · refine keeps_mk ?_
            exact keeps_State_next k2
          · refine keeps_mk ?_
            exact k2
      )
    extract_lets -merge -useContext x16 x17 x18 x19 x20
    have k21 : Keeps q n x16 := by
      unfold x16
      exact keeps_State_wr k15
    try clear_value x20 x19 x18 x17 x16
    refine keeps_ite ?_ ?_
    · refine keeps_State_groupReport ?_
      exact keeps_State_setGrp k21
    · refine keeps_ite (keeps_State_setGrp k21) ?_
      split
      refine keeps_State_groupReport ?_
      exact keeps_State_setGrp k21

theorem keeps_State_rawReport {s : State} {b : Nat} {h : Nat} (k2 : Keeps q n s) :
    Keeps q n (State.rawReport s b h) := by
  unfold State.rawReport
  extract_lets -merge -useContext x5 x6 x7
  try clear_value x7 x6 x5
  exact keeps_State_addReport k2

theorem keeps_State_trigger {s : State} {b : Nat} {release : Bool} {group : Bool} {idx : Nat} (k2 : Keeps q n s) :
    Keeps q n (State.trigger s b release group idx) := by
  unfold State.trigger
  refine keeps_foldl ?_ ?_
  · exact k2
  · intro t7 i8 k9
    extract_lets -merge -useContext x10 x11
    try clear_value x11 x10
    refine keeps_ite k9 ?_
    refine keeps_foldl ?_ ?_
    · exact k9
    · intro t12 i13 k14
      exact keeps_ite (keeps_State_hapAsk k14) k14

theorem keeps_State_emit {s : State} {b : Nat} {r : Report} (k2 : Keeps q n s) :
    Keeps q n (State.emit s b r) := by
  unfold State.emit
  extract_lets -merge -useContext x5 x6 x7
  have k8 : Keeps q n x7 := by
    unfold x7
    split
    · exact keeps_ite (keeps_State_ringWrite k2) (keeps_State_count k2)
    · exact keeps_State_count k2
  try clear_value x7 x6 x5
  split
  · extract_lets -merge -useContext x9
    have k10 : Keeps q n x9 := by
      unfold x9
      split
      · exact keeps_ite (keeps_State_legInt k8) k8
      · exact k8
    try clear_value x9
    exact keeps_State_trigger k10
  · exact k8

theorem keeps_State_scanEnd {s : State} {b : Nat} (k2 : Keeps q n s) :
    Keeps q n (State.scanEnd s b) := by
  unfold State.scanEnd
  extract_lets -merge -useContext x4 x5 x6 x7 x8 x9 x10 x11 x12 x13 x14
  have k15 : Keeps q n x6 := by
    unfold x6
    refine keeps_State_wr ?_
    exact keeps_State_count k2
  have k16 : Keeps q n x7 := by
    unfold x7
    refine keeps_foldl ?_ ?_
    · exact k15
    · intro t17 i18 k19
      exact keeps_State_groupScan k19
  have k20 : Keeps q n x8 := by
    unfold x8
    refine keeps_ite ?_ k16
    refine keeps_State_rawReport ?_
    exact keeps_State_rawReport k16
  have k21 : Keeps q n x10 := by
    unfold x10
    exact keeps_State_setTch k20
  have k22 : Keeps q n x11 := by
    unfold x11
    split
    · exact keeps_State_hop k21
    · exact k21
  have k23 : Keeps q n x13 := by
    unfold x13
    refine keeps_foldl ?_ ?_
    · exact k22
    · intro t24 i25 k26
      exact keeps_State_emit k26
  try clear_value x14 x13 x12 x11 x10 x9 x8 x7 x6 x5 x4
  exact keeps_State_setTch k23

theorem keeps_execTouchSlot {b : Fin 4} {counts : List Nat} {noise : Nat × Nat} {s : State} (k5 : Keeps q n s) :
    ∀ t, (execTouchSlot b counts noise s) = .next t → Keeps q n t := by
  unfold execTouchSlot
  extract_lets -merge -useContext x9 x10 x11
  have k12 : Keeps q n x11 := by
    unfold x11
    exact keeps_State_setTch k5
  try clear_value x11 x10 x9
  intro t e
  injection e with e
  subst e
  refine keeps_ite k5 ?_
  refine keeps_ite ?_ ?_
  · refine keeps_State_scanEnd ?_
    exact keeps_State_listen k12
  · split
    rename_i v13 v14 e15
    have k16 : Keeps q n v13 := keeps_fst e15 (by
        exact keeps_State_useInject k12
      )
    extract_lets -merge -useContext x17 x18
    have k19 : Keeps q n x17 := by
      unfold x17
      exact keeps_ite (keeps_State_fault k16) k16
    have k20 : Keeps q n x18 := by
      unfold x18
      refine keeps_ite (keeps_State_convertRef k19) ?_
      refine keeps_foldl ?_ ?_
      · exact k19
      · intro t21 i22 k23
        extract_lets -merge -useContext x24
        try clear_value x24
        exact keeps_ite (keeps_State_convert k23) k23
    try clear_value x18 x17
    exact keeps_State_syncRange k20

theorem keeps_execTouchHoldExpiry {b : Fin 4} {c : Fin 32} {s : State} (k4 : Keeps q n s) :
    ∀ t, (execTouchHoldExpiry b c s) = .next t → Keeps q n t := by
  unfold execTouchHoldExpiry
  extract_lets -merge -useContext x7 x8
  try clear_value x8 x7
  intro t e
  injection e with e
  subst e
  exact keeps_ite k4 (keeps_State_setChan k4)

theorem keeps_execTouchRecalEnd {b : Fin 4} {c : Fin 32} {s : State} (k4 : Keeps q n s) :
    ∀ t, (execTouchRecalEnd b c s) = .next t → Keeps q n t := by
  unfold execTouchRecalEnd
  extract_lets -merge -useContext x6
  try clear_value x6
  intro t e
  injection e with e
  subst e
  split
  · exact k4
  · refine keeps_ite k4 ?_
    refine keeps_State_wr ?_
    exact keeps_State_setChan k4

theorem keeps_execGroupStandstill {b : Fin 4} {g : Fin 8} {s : State} (k4 : Keeps q n s) :
    ∀ t, (execGroupStandstill b g s) = .next t → Keeps q n t := by
  unfold execGroupStandstill
  extract_lets -merge -useContext x6
  try clear_value x6
  intro t e
  injection e with e
  subst e
  exact keeps_ite (keeps_State_setGrp k4) k4

theorem keeps_State_freshChan {s : State} {b : Nat} {c : Nat} (k2 : Keeps q n s) :
    Keeps q n (State.freshChan s b c) := by
  unfold State.freshChan
  extract_lets -merge -useContext x5 x6
  try clear_value x6 x5
  refine keeps_State_syncRange ?_
  refine keeps_State_setReg ?_
  refine keeps_State_setReg ?_
  exact keeps_State_setChan k2

theorem keeps_State_startBank {s : State} {b : Nat} (k2 : Keeps q n s) :
    Keeps q n (State.startBank s b) := by
  unfold State.startBank
  extract_lets -merge -useContext x4 x5 x6 x7 x8
  have k9 : Keeps q n x7 := by
    unfold x7
    exact keeps_State_setTch k2
  have k10 : Keeps q n x8 := by
    unfold x8
    refine keeps_State_wr ?_
    exact keeps_State_wr k9
  try clear_value x8 x7 x6 x5 x4
  refine keeps_foldl ?_ ?_
  · exact k10
  · intro t11 i12 k13
    exact keeps_State_freshChan k13

theorem keeps_State_tchWrite {s : State} {who : Nat} {b : Nat} {off : Nat} {value : Word} {be : BitVec 4} (k2 : Keeps q n s) :
    Keeps q n (State.tchWrite s who b off value be) := by
  unfold State.tchWrite
  extract_lets -merge -useContext x8 x9 x10 x11
  try clear_value x11 x10 x9 x8
  refine keeps_State_writeWith k2 ?_
  intro y12 y13 k14
  extract_lets -merge -useContext x15 x16 x17 x18 x19
  have k20 : Keeps q n x18 := by
    unfold x18
    exact keeps_State_store k14
  try clear_value x19 x18 x17 x16 x15
  refine keeps_ite ?_ (keeps_ite (keeps_State_freshChan k20) (keeps_ite (keeps_State_setGrp k20) k20))
  refine keeps_ite k20 ?_
  refine keeps_ite (keeps_State_startBank k20) ?_
  refine keeps_State_setTch ?_
  exact keeps_State_wr k20

theorem keeps_execTouchBankEnable {who : Actor} {b : Fin 4} {s : State} (k4 : Keeps q n s) :
    ∀ t, (execTouchBankEnable who b s) = .next t → Keeps q n t := by
  unfold execTouchBankEnable
  intro t e
  injection e with e
  subst e
  exact keeps_State_tchWrite k4

theorem keeps_State_calTaken {s : State} {b : Nat} {z4 : Option (List Byte)} (k2 : Keeps q n s) :
    Keeps q n (State.calTaken s b z4) := by
  unfold State.calTaken
  extract_lets -merge -useContext x5
  try clear_value x5
  split
  · exact keeps_State_fault k2
  · extract_lets -merge -useContext x6 x7
    have k8 : Keeps q n x7 := by
      unfold x7
      exact keeps_State_setTch k2
    try clear_value x7 x6
    exact keeps_ite (keeps_State_wr k8) k8

theorem keeps_execCalLoadDone {b : Fin 4} {s : State} (k3 : Keeps q n s) :
    ∀ t, (execCalLoadDone b s) = .next t → Keeps q n t := by
  unfold execCalLoadDone
  extract_lets -merge -useContext x6 x7
  try clear_value x7 x6
  intro t e
  injection e with e
  subst e
  refine keeps_ite k3 ?_
  split
  rename_i v8 v9 v10 e11
  have k12 : Keeps q n v8 := keeps_fst e11 (by
      exact keeps_State_readLong k3
    )
  extract_lets -merge -useContext x13 x14 x15
  try clear_value x15 x14 x13
  refine keeps_ite (keeps_State_setTch k12) ?_
  refine keeps_State_calTaken ?_
  exact keeps_State_setTch k12

end Sys2Proof.Machine
end

