-- ==== Sys2Proof/Laws/Keeps7.lean ====
section
/-! SUPPORT. Every operation of Audio.lean, Faults.lean, Export.lean, Startup.lean, BusWrite.lean, Legacy.lean, Bus.lean keeps the queue, the time base and the canonical tables. -/

set_option linter.unusedVariables false

namespace Sys2Proof.Machine

variable {q : List Instr} {n : Nat}

theorem keeps_State_setBridge {s : State} {b : Nat} {v : Nat} (k2 : Keeps q n s) :
    Keeps q n (State.setBridge s b v) := by
  unfold State.setBridge
  refine keeps_ite ?_ ?_
  · refine keeps_State_hwField ?_
    exact keeps_State_wr k2
  · refine keeps_State_hwField ?_
    exact keeps_State_wr k2

theorem keeps_State_unlock {s : State} {b : Nat} (k2 : Keeps q n s) :
    Keeps q n (State.unlock s b) := by
  unfold State.unlock
  refine keeps_State_setBridge ?_
  refine keeps_State_count ?_
  exact keeps_State_setAudio k2

theorem keeps_State_unlockPort {s : State} {p : Nat} (k2 : Keeps q n s) :
    Keeps q n (State.unlockPort s p) := by
  unfold State.unlockPort
  refine keeps_foldl ?_ ?_
  · exact k2
  · intro t4 i5 k6
    exact keeps_ite (keeps_State_unlock k6) k6

theorem keeps_State_syncFsLost {s : State} (k2 : Keeps q n s) :
    Keeps q n (State.syncFsLost s) := by
  unfold State.syncFsLost
  refine keeps_foldl ?_ ?_
  · exact k2
  · intro t3 i4 k5
    exact keeps_State_setLevel k5

theorem keeps_execBridgeLock {b : Fin 48} {s : State} (k3 : Keeps q n s) :
    ∀ t, (execBridgeLock b s) = .next t → Keeps q n t := by
  unfold execBridgeLock
  extract_lets -merge -useContext x6 x7
  try clear_value x7 x6
  intro t e
  injection e with e
  subst e
  exact keeps_ite k3 (keeps_State_setBridge k3)

theorem keeps_execFsTimeout {port : Fin 8} {s : State} (k3 : Keeps q n s) :
    ∀ t, (execFsTimeout port s) = .next t → Keeps q n t := by
  unfold execFsTimeout
  extract_lets -merge -useContext x8 x9 x10 x11
  have k12 : Keeps q n x10 := by
    unfold x10
    exact keeps_State_setAudio k3
  have k13 : Keeps q n x11 := by
    unfold x11
    refine keeps_State_wr ?_
    exact keeps_State_wr k12
  try clear_value x11 x10 x9 x8
  intro t e
  injection e with e
  subst e
  split
  · exact k3
  · refine keeps_ite k3 ?_
    refine keeps_State_syncFsLost ?_
    exact keeps_State_unlockPort k13

theorem keeps_State_tdmPeriod {s : State} {port : Nat} {slots : List Nat} (k2 : Keeps q n s) :
    Keeps q n (State.tdmPeriod s port slots) := by
  unfold State.tdmPeriod
  extract_lets -merge -useContext x5
  try clear_value x5
  refine keeps_foldl ?_ ?_
  · exact k2
  · intro t6 i7 k8
    extract_lets -merge -useContext x9 x10 x11 x12 x13
    have k14 : Keeps q n x9 := by
      unfold x9
      exact keeps_ite (keeps_State_chkSample k8) k8
    have k15 : Keeps q n x11 := by
      unfold x11
      refine keeps_foldl ?_ ?_
      · exact k14
      · intro t16 i17 k18
        refine keeps_foldl ?_ ?_
        · exact k18
        · intro t19 i20 k21
          exact keeps_State_chkWindow k21
    have k22 : Keeps q n x13 := by
      unfold x13
      exact keeps_State_setCheck k15
    try clear_value x13 x12 x11 x10 x9
    exact keeps_ite k8 (keeps_ite k14 (keeps_ite (keeps_State_chkEnd k22) k22))

theorem keeps_State_bridgedPeriod {s : State} {port : Nat} (k2 : Keeps q n s) :
    Keeps q n (State.bridgedPeriod s port) := by
  unfold State.bridgedPeriod
  extract_lets -merge -useContext x4 x5 x6
  try clear_value x6 x5 x4
  refine keeps_State_tdmPeriod ?_
  exact { k2 with }

theorem keeps_execTdmFs {port : Fin 8} {s : State} (k3 : Keeps q n s) :
    ∀ t, (execTdmFs port s) = .next t → Keeps q n t := by
  unfold execTdmFs
  extract_lets -merge -useContext x8 x9 x10 x11
  try clear_value x11 x10 x9 x8
  intro t e
  injection e with e
  subst e
  refine keeps_ite k3 ?_
  split
  extract_lets -merge -useContext x12 x13 x14 x15 x16
  have k17 : Keeps q n x12 := by
    unfold x12
    exact keeps_State_setAudio k3
  have k18 : Keeps q n x14 := by
    unfold x14
    exact keeps_State_wr k17
  have k19 : Keeps q n x15 := by
    unfold x15
    exact keeps_ite k18 (keeps_State_wr k18)
  have k20 : Keeps q n x16 := by
    unfold x16
    exact keeps_ite (keeps_State_unlockPort k19) k19
  try clear_value x16 x15 x14 x13 x12
  refine keeps_State_bridgedPeriod ?_
  exact keeps_State_syncFsLost k20

theorem keeps_State_syncNode {s : State} {k : Nat} (k2 : Keeps q n s) :
    Keeps q n (State.syncNode s k) := by
  unfold State.syncNode
  extract_lets -merge -useContext x4 x5 x6 x7
  try clear_value x7 x6 x5 x4
  exact keeps_ite (keeps_State_setAudio k2) (keeps_State_setAudio k2)

theorem keeps_State_syncNodes {s : State} (k2 : Keeps q n s) :
    Keeps q n (State.syncNodes s) := by
  unfold State.syncNodes
  extract_lets -merge -useContext x3 x4 x5 x6 x7
  have k8 : Keeps q n x6 := by
    unfold x6
    exact keeps_ite (keeps_State_count k2) k2
  have k9 : Keeps q n x7 := by
    unfold x7
    exact keeps_State_hwField k8
  try clear_value x7 x6 x5 x4 x3
  refine keeps_foldl ?_ ?_
  · exact k9
  · intro t10 i11 k12
    exact keeps_State_syncNode k12

theorem keeps_State_applyNodes {s : State} {f : Nat → Bool} (k2 : Keeps q n s) :
    Keeps q n (State.applyNodes s f) := by
  unfold State.applyNodes
  exact keeps_State_setAudio k2

theorem keeps_execGainZcTimeout {row : Fin 96} {col : Fin 64} {s : State} (k4 : Keeps q n s) :
    ∀ t, (execGainZcTimeout row col s) = .next t → Keeps q n t := by
  unfold execGainZcTimeout
  extract_lets -merge -useContext x6
  try clear_value x6
  intro t e
  injection e with e
  subst e
  split
  · exact k4
  · exact keeps_ite k4 (keeps_State_applyNodes k4)

theorem keeps_execChimeHoldExpire {s : State} (k2 : Keeps q n s) :
    ∀ t, (execChimeHoldExpire s) = .next t → Keeps q n t := by
  unfold execChimeHoldExpire
  extract_lets -merge -useContext x4
  try clear_value x4
  intro t e
  injection e with e
  subst e
  refine keeps_ite k2 ?_
  refine keeps_State_syncNodes ?_
  exact keeps_State_wr k2

theorem keeps_State_startEntry {s : State} {a : Nat} {q' : Nat} {b : List Byte} (k2 : Keeps q n s) :
    Keeps q n (State.startEntry s a q' b) := by
  unfold State.startEntry
  extract_lets -merge -useContext x6 x7
  try clear_value x7 x6
  exact keeps_ite (keeps_State_setStream k2) (keeps_State_queueStop k2)

theorem keeps_State_readyFrame {s : State} {a : Nat} {q' : Nat} (k2 : Keeps q n s) :
    Keeps q n (State.readyFrame s a q') := by
  unfold State.readyFrame
  extract_lets -merge -useContext x5
  try clear_value x5
  refine keeps_ite k2 ?_
  refine keeps_ite (keeps_State_startEntry k2) ?_
  refine keeps_ite (keeps_State_holdUnit k2) ?_
  split
  · rename_i v6 v7 e8
    have k9 : Keeps q n v6 := keeps_fst e8 (by
        exact keeps_State_headEntry k2
      )
    exact keeps_State_queueStop k9
  · rename_i v10 v11 e12
    have k13 : Keeps q n v10 := keeps_fst e12 (by
        exact keeps_State_headEntry k2
      )
    exact keeps_State_startEntry k13

theorem keeps_State_readAhead {s : State} {a qq room : Nat} {z5 : Nat} (k2 : Keeps q n s) :
    Keeps q n (State.readAhead s a qq room z5) := by
  induction z5 generalizing s with
  | zero => exact k2
  | succ m ih =>
    unfold State.readAhead
    refine keeps_ite k2 ?_
    split
    · rename_i e
      exact keeps_State_queueStop (keeps_fst e (keeps_State_readMem k2))
    · rename_i e
      exact ih (keeps_State_setStream (keeps_fst e (keeps_State_readMem k2)))

theorem keeps_State_takeFrame {s : State} {a : Nat} {q' : Nat} (k2 : Keeps q n s) :
    Keeps q n (State.takeFrame s a q') := by
  unfold State.takeFrame
  extract_lets -merge -useContext x5 x6
  try clear_value x6 x5
  refine keeps_ite k2 ?_
  refine keeps_ite (keeps_State_setStream k2) ?_
  refine keeps_State_takeEntry ?_
  exact keeps_State_setStream k2

theorem keeps_State_frameSample {s : State} {a : Nat} {q' : Nat} {ch : Nat} (k2 : Keeps q n s) :
    Keeps q n (State.frameSample s a q' ch).1 := by
  unfold State.frameSample
  extract_lets -merge -useContext x6
  try clear_value x6
  refine keeps_ite_fst ?_ ?_
  · refine keeps_mk ?_
    exact k2
  · refine keeps_ite_fst ?_ ?_
    · refine keeps_mk ?_
      exact keeps_State_next k2
    · refine keeps_mk ?_
      exact k2

theorem keeps_State_rowSample {s : State} {ins : List AudioIn} {r : Nat} (k2 : Keeps q n s) :
    Keeps q n (State.rowSample s ins r).1 := by
  unfold State.rowSample
  extract_lets -merge -useContext x5 x6 x7 x8 x9 x10 x11
  try clear_value x11 x10 x9 x8 x7 x6 x5
  split
  rename_i v12 v13 e14
  have k15 : Keeps q n v12 := keeps_fst e14 (by
      refine keeps_ite_fst (keeps_State_frameSample k2) ?_
      refine keeps_ite_fst ?_ ?_
      · refine keeps_mk ?_
        exact k2
      · refine keeps_mk ?_
        exact k2
    )
  extract_lets -merge -useContext x16 x17
  have k18 : Keeps q n x16 := by
    unfold x16
    exact keeps_ite (keeps_State_count k15) k15
  try clear_value x17 x16
  split
  rename_i v19 v20 e21
  have k22 : Keeps q n v19 := keeps_fst e21 (by
      refine keeps_ite_fst ?_ ?_
      · refine keeps_mk ?_
        exact k18
      · refine keeps_mk ?_
        exact keeps_State_next k18
    )
  extract_lets -merge -useContext x23
  have k24 : Keeps q n x23 := by
    unfold x23
    exact keeps_ite (keeps_State_count k22) k22
  try clear_value x23
  refine keeps_mk ?_
  exact keeps_State_wr k24

theorem keeps_State_chimeSample {s : State} {ins : List AudioIn} (k2 : Keeps q n s) :
    Keeps q n (State.chimeSample s ins).1 := by
  unfold State.chimeSample
  extract_lets -merge -useContext x4 x5
  try clear_value x5 x4
  refine keeps_ite_fst ?_ ?_
  · refine keeps_mk ?_
    exact k2
  · refine keeps_ite_fst ?_ ?_
    · refine keeps_mk ?_
      exact k2
    · split
      · rename_i v6 v7 e8
        have k9 : Keeps q n v6 := keeps_fst e8 (by
            exact keeps_State_frameSample k2
          )
        refine keeps_mk ?_
        exact k9
      · rename_i v10 e11
        have k12 : Keeps q n v10 := keeps_fst e11 (by
            exact keeps_State_frameSample k2
          )
        refine keeps_mk ?_
        exact k12

theorem keeps_State_rowSamples {s : State} {ins : List AudioIn} (k2 : Keeps q n s) :
    Keeps q n (State.rowSamples s ins).1 := by
  unfold State.rowSamples
  extract_lets -merge -useContext x4
  have k5 : Keeps q n x4.1 := by
    unfold x4
    refine keeps_foldl_fst ?_ ?_
    · refine keeps_mk ?_
      exact k2
    · intro t6 i7 k8
      split
      rename_i v9 v10 v11 e12
      have k13 : Keeps q n v9 := keeps_fst e12 (by
          exact keeps_State_rowSample k8
        )
      refine keeps_mk ?_
      exact k13
  try clear_value x4
  split
  rename_i v14 v15 v16 e17
  have k18 : Keeps q n v14 := keeps_fst e17 (by
      exact keeps_State_chimeSample k5
    )
  refine keeps_mk ?_
  exact k18

theorem keeps_State_swapEq {s : State} {c : Nat} (k2 : Keeps q n s) :
    Keeps q n (State.swapEq s c) := by
  unfold State.swapEq
  extract_lets -merge -useContext x4 x5 x6 x7 x8
  have k9 : Keeps q n x5 := by
    unfold x5
    refine keeps_foldl ?_ ?_
    · exact k2
    · intro t10 i11 k12
      extract_lets -merge -useContext x13 x14 x15
      have k16 : Keeps q n x15 := by
        unfold x15
        exact keeps_State_setLut k12
      try clear_value x15 x14 x13
      exact keeps_ite (keeps_State_wr k16) (keeps_State_wr k16)
  have k17 : Keeps q n x7 := by
    unfold x7
    refine keeps_State_count ?_
    refine keeps_State_wr ?_
    refine keeps_State_wr ?_
    exact keeps_State_wr k9
  have k18 : Keeps q n x8 := by
    unfold x8
    refine keeps_State_setWritten ?_
    exact keeps_State_setReady k17
  try clear_value x8 x7 x6 x5 x4
  exact keeps_State_setAudio k18

theorem keeps_State_equalise {s : State} {c : Nat} {x : ℤ} (k2 : Keeps q n s) :
    Keeps q n (State.equalise s c x).1 := by
  unfold State.equalise
  extract_lets -merge -useContext x5 x6 x7
  try clear_value x7 x6 x5
  split
  refine keeps_ite_fst ?_ ?_
  · refine keeps_mk ?_
    exact keeps_State_setAudio k2
  · split
    extract_lets -merge -useContext x8 x9
    have k10 : Keeps q n x8 := by
      unfold x8
      exact keeps_State_setAudio k2
    have k11 : Keeps q n x9 := by
      unfold x9
      exact keeps_ite (keeps_State_wr k10) k10
    try clear_value x9 x8
    refine keeps_mk ?_
    exact k11

theorem keeps_State_swapColumns {s : State} (k2 : Keeps q n s) :
    Keeps q n (State.swapColumns s) := by
  unfold State.swapColumns
  refine keeps_ite k2 ?_
  refine keeps_foldl ?_ ?_
  · exact k2
  · intro t3 i4 k5
    exact keeps_ite (keeps_State_swapEq k5) k5

theorem keeps_State_spoilColumn {s : State} {c : Nat} (k2 : Keeps q n s) :
    Keeps q n (State.spoilColumn s c) := by
  unfold State.spoilColumn
  exact keeps_State_setAudio k2

theorem keeps_State_gather {s : State} {a : Nat} {q' : Nat} {fmt : Nat} {frame : List ℤ} {bad : Bool} (k2 : Keeps q n s) :
    Keeps q n (State.gather s a q' fmt frame bad) := by
  unfold State.gather
  extract_lets -merge -useContext x8 x9 x10 x11 x12 x13 x14 x15 x16 x17 x18 x19
  have k20 : Keeps q n x17 := by
    unfold x17
    exact keeps_State_setStream k2
  have k21 : Keeps q n x18 := by
    unfold x18
    exact keeps_State_wr k20
  try clear_value x19 x18 x17 x16 x15 x14 x13 x12 x11 x10 x9 x8
  exact keeps_ite k2 (keeps_ite k20 (keeps_ite (keeps_State_setQueue k21) (keeps_State_ringWrite k20)))

theorem keeps_State_column {s : State} {rows : List (Nat × ℤ × Bool)} {c : Nat} (k2 : Keeps q n s) :
    Keeps q n (State.column s rows c) := by
  unfold State.column
  extract_lets -merge -useContext x5 x6
  try clear_value x6 x5
  split
  rename_i v7 v8 e9
  have k10 : Keeps q n v7 := keeps_fst e9 (by
      exact keeps_State_useInject k2
    )
  extract_lets -merge -useContext x11
  have k12 : Keeps q n x11 := by
    unfold x11
    refine keeps_ite ?_ k10
    refine keeps_State_spoilColumn ?_
    exact keeps_State_fault k10
  try clear_value x11
  split
  rename_i v13 v14 e15
  have k16 : Keeps q n v13 := keeps_fst e15 (by
      exact keeps_State_useInject k12
    )
  extract_lets -merge -useContext x17 x18 x19 x20
  have k21 : Keeps q n x17 := by
    unfold x17
    refine keeps_ite ?_ k16
    refine keeps_State_spoilColumn ?_
    exact keeps_State_fault k16
  try clear_value x20 x19 x18 x17
  split
  rename_i v22 v23 e24
  have k25 : Keeps q n v22 := keeps_fst e24 (by
      exact keeps_State_equalise k21
    )
  extract_lets -merge -useContext x26 x27 x28 x29 x30 x31
  have k32 : Keeps q n x28 := by
    unfold x28
    refine keeps_State_hapFollow ?_
    exact keeps_State_wr k25
  try clear_value x31 x30 x29 x28 x27 x26
  split
  extract_lets -merge -useContext x33 x34
  have k35 : Keeps q n x33 := by
    unfold x33
    exact keeps_ite (keeps_State_count k32) k32
  have k36 : Keeps q n x34 := by
    unfold x34
    exact keeps_ite (keeps_State_count k35) k35
  try clear_value x34 x33
  exact keeps_State_setAudio k36

theorem keeps_State_deliverSinks {s : State} (k2 : Keeps q n s) :
    Keeps q n (State.deliverSinks s) := by
  unfold State.deliverSinks
  extract_lets -merge -useContext x3
  have k4 : Keeps q n x3 := by
    unfold x3
    refine keeps_foldl ?_ ?_
    · exact k2
    · intro t5 i6 k7
      refine keeps_ite (keeps_State_tdmPeriod k7) ?_
      refine keeps_ite ?_ k7
      refine keeps_foldl ?_ ?_
      · exact k7
      · intro t8 i9 k10
        exact keeps_State_bridgedPeriod k10
  try clear_value x3
  refine keeps_foldl ?_ ?_
  · exact k4
  · intro t11 i12 k13
    split
    extract_lets -merge -useContext x14 x15 x16
    try clear_value x16 x15 x14
    exact keeps_State_gather k13

theorem keeps_State_fillBuffer {s : State} (k2 : Keeps q n s) :
    Keeps q n (State.fillBuffer s) := by
  unfold State.fillBuffer
  refine keeps_foldl ?_ ?_
  · exact k2
  · intro t3 i4 k5
    exact keeps_State_readAhead k5

theorem keeps_State_audioReport {s : State} (k2 : Keeps q n s) :
    Keeps q n (State.audioReport s) := by
  unfold State.audioReport
  extract_lets -merge -useContext x3 x4 x5 x6 x7
  try clear_value x7 x6 x5 x4 x3
  exact keeps_ite (keeps_State_setPort11 k2) (keeps_State_setPort11 k2)

theorem keeps_State_chimeIn {s : State} {rows : List (Nat × ℤ × Bool)} (k2 : Keeps q n s) :
    Keeps q n (State.chimeIn s rows) := by
  unfold State.chimeIn
  extract_lets -merge -useContext x4 x5
  try clear_value x5 x4
  refine keeps_ite ?_ k2
  refine keeps_State_wr ?_
  exact keeps_State_setAudio k2

theorem keeps_State_muteSafe {s : State} (k2 : Keeps q n s) :
    Keeps q n (State.muteSafe s) := by
  unfold State.muteSafe
  extract_lets -merge -useContext x3
  try clear_value x3
  exact keeps_ite (keeps_State_setAudio k2) k2

theorem keeps_State_gainsAt {s : State} {rows : List (Nat × ℤ × Bool)} (k2 : Keeps q n s) :
    Keeps q n (State.gainsAt s rows) := by
  unfold State.gainsAt
  extract_lets -merge -useContext x4 x5
  have k6 : Keeps q n x4 := by
    unfold x4
    exact keeps_State_syncNodes k2
  have k7 : Keeps q n x5 := by
    unfold x5
    exact keeps_State_applyNodes k6
  try clear_value x5 x4
  exact keeps_State_setAudio k7

theorem keeps_State_takeFrames {s : State} {ticks : Nat} {streams : List (Nat × Nat × Nat)} (k2 : Keeps q n s) :
    Keeps q n (State.takeFrames s ticks streams) := by
  unfold State.takeFrames
  refine keeps_foldl ?_ ?_
  · exact k2
  · intro t5 i6 k7
    refine keeps_ite (keeps_State_takeFrame k7) ?_
    refine keeps_foldl ?_ ?_
    · exact k7
    · intro t8 i9 k10
      refine keeps_ite (keeps_State_takeFrame k10) ?_
      refine keeps_State_takeFrame ?_
      exact keeps_State_readyFrame k10

theorem keeps_State_audioSample {s : State} {ins : List AudioIn} (k2 : Keeps q n s) :
    Keeps q n (State.audioSample s ins) := by
  unfold State.audioSample
  extract_lets -merge -useContext x4 x5 x6 x7
  have k8 : Keeps q n x4 := by
    unfold x4
    exact keeps_State_swapColumns k2
  have k9 : Keeps q n x5.1 := by
    unfold x5
    refine keeps_State_rowSamples ?_
    refine keeps_foldl ?_ ?_
    · exact k8
    · intro t10 i11 k12
      exact keeps_State_readyFrame k12
  have k13 : Keeps q n x6 := by
    unfold x6
    refine keeps_State_gainsAt ?_
    refine keeps_State_muteSafe ?_
    exact keeps_State_chimeIn k9
  have k14 : Keeps q n x7 := by
    unfold x7
    refine keeps_State_deliverSinks ?_
    refine keeps_foldl ?_ ?_
    · exact k13
    · intro t15 i16 k17
      exact keeps_State_column k17
  try clear_value x7 x6 x5 x4
  refine keeps_State_setAudio ?_
  refine keeps_State_audioReport ?_
  refine keeps_State_fillBuffer ?_
  exact keeps_State_takeFrames k14

theorem keeps_execAudioSample {ins : List AudioIn} {s : State} (k3 : Keeps q n s) :
    ∀ t, (execAudioSample ins s) = .next t → Keeps q n t := by
  unfold execAudioSample
  intro t e
  injection e with e
  subst e
  exact keeps_State_audioSample k3

theorem keeps_State_audWrite {s : State} {who : Nat} {k : Nat} {off : Nat} {value : Word} {be : BitVec 4} (k2 : Keeps q n s) :
    Keeps q n (State.audWrite s who k off value be) := by
  unfold State.audWrite
  extract_lets -merge -useContext x8 x9 x10
  try clear_value x10 x9 x8
  refine keeps_State_writeWith k2 ?_
  intro y11 y12 k13
  extract_lets -merge -useContext x14 x15 x16 x17
  have k18 : Keeps q n x15 := by
    unfold x15
    exact keeps_State_store k13
  have k19 : Keeps q n x17 := by
    unfold x17
    exact keeps_ite (keeps_State_unlock k18) k18
  try clear_value x17 x16 x15 x14
  refine keeps_ite ?_ ?_
  · refine keeps_ite k18 ?_
    refine keeps_foldl ?_ ?_
    · exact k18
    · intro t20 i21 k22
      exact keeps_State_unlock k22
  · refine keeps_ite ?_ ?_
    · refine keeps_ite (keeps_State_syncNodes k18) ?_
      refine keeps_ite ?_ k18
      refine keeps_State_syncFsLost ?_
      exact keeps_ite k19 (keeps_State_wr k19)
    · refine keeps_ite ?_ (keeps_ite (keeps_State_syncNodes k18) k18)
      refine keeps_ite ?_ (keeps_ite (keeps_State_setWritten k18) (keeps_ite (keeps_State_setWritten k18) (keeps_ite (keeps_State_unlock k18) k18)))
      refine keeps_foldl ?_ ?_
      · exact k18
      · intro t23 i24 k25
        exact keeps_State_armTable k25

theorem keeps_execRowEnable {who : Actor} {r : Fin 96} {s : State} (k4 : Keeps q n s) :
    ∀ t, (execRowEnable who r s) = .next t → Keeps q n t := by
  unfold execRowEnable
  intro t e
  injection e with e
  subst e
  exact keeps_State_audWrite k4

theorem keeps_execColumnEnable {who : Actor} {c : Fin 64} {s : State} (k4 : Keeps q n s) :
    ∀ t, (execColumnEnable who c s) = .next t → Keeps q n t := by
  unfold execColumnEnable
  intro t e
  injection e with e
  subst e
  exact keeps_State_audWrite k4

theorem keeps_execTableReadySet {who : Actor} {p : Page} {bits : Byte} {s : State} (k5 : Keeps q n s) :
    ∀ t, (execTableReadySet who p bits s) = .next t → Keeps q n t := by
  unfold execTableReadySet
  intro t e
  injection e with e
  subst e
  split
  · exact keeps_State_colBankWrite k5
  · exact keeps_State_sclBankWrite k5
  · exact keeps_ite (keeps_State_audWrite k5) k5
  · exact k5

theorem keeps_State_noteCeased {s : State} {t : Nat} (k2 : Keeps q n s) :
    Keeps q n (State.noteCeased s t) := by
  unfold State.noteCeased
  extract_lets -merge -useContext x4
  try clear_value x4
  exact { k2 with }

theorem keeps_State_lateCaptures {s : State} (k2 : Keeps q n s) :
    Keeps q n (State.lateCaptures s) := by
  unfold State.lateCaptures
  refine keeps_ite k2 ?_
  refine keeps_State_fault ?_
  refine keeps_foldl ?_ ?_
  · exact k2
  · intro t3 i4 k5
    refine keeps_State_settle ?_
    exact keeps_State_collect k5

theorem keeps_State_noteScanLapse {s : State} (k2 : Keeps q n s) :
    Keeps q n (State.noteScanLapse s) := by
  unfold State.noteScanLapse
  split
  · exact keeps_ite (keeps_State_noteCeased k2) k2
  · exact k2

theorem keeps_State_noteBeatLapse {s : State} (k2 : Keeps q n s) :
    Keeps q n (State.noteBeatLapse s) := by
  unfold State.noteBeatLapse
  split
  · exact keeps_ite (keeps_State_noteCeased k2) k2
  · exact k2

theorem keeps_execFaultScan {s : State} (k2 : Keeps q n s) :
    ∀ t, (execFaultScan s) = .next t → Keeps q n t := by
  unfold execFaultScan
  intro t e
  injection e with e
  subst e
  refine keeps_ite k2 ?_
  split
  rename_i v3 v4 e5
  have k6 : Keeps q n v3 := keeps_fst e5 (by
      exact keeps_State_useInject k2
    )
  extract_lets -merge -useContext x7 x8 x9 x10 x11
  have k12 : Keeps q n x8 := by
    unfold x8
    refine keeps_ite ?_ k6
    refine keeps_State_fault ?_
    exact { k6 with }
  have k14 : Keeps q n x9 := by
    unfold x9
    refine keeps_State_noteScanLapse ?_
    exact keeps_State_lateCaptures k12
  have k15 : Keeps q n x10 := by
    unfold x10
    refine keeps_State_wr ?_
    exact keeps_State_wr k14
  try clear_value x11 x10 x9 x8 x7
  exact { k15 with }

theorem keeps_execScanLate {s : State} (k2 : Keeps q n s) :
    ∀ t, (execScanLate s) = .next t → Keeps q n t := by
  unfold execScanLate
  intro t e
  injection e with e
  subst e
  exact keeps_ite k2 (keeps_State_fault k2)

theorem keeps_State_safeChanged {s : State} (k2 : Keeps q n s) :
    Keeps q n (State.safeChanged s) := by
  unfold State.safeChanged
  refine keeps_State_syncSafe ?_
  refine keeps_State_settle ?_
  exact keeps_State_syncDevice k2

theorem keeps_execSafeReqAssert {lowNs : Nat} {s : State} (k3 : Keeps q n s) :
    ∀ t, (execSafeReqAssert lowNs s) = .next t → Keeps q n t := by
  unfold execSafeReqAssert
  extract_lets -merge -useContext x5
  try clear_value x5
  intro t e
  injection e with e
  subst e
  refine keeps_ite k3 ?_
  refine keeps_State_setLevel ?_
  refine keeps_State_safeChanged ?_
  exact { k3 with }

theorem keeps_execSafeReqRelease {highNs : Nat} {s : State} (k3 : Keeps q n s) :
    ∀ t, (execSafeReqRelease highNs s) = .next t → Keeps q n t := by
  unfold execSafeReqRelease
  extract_lets -merge -useContext x5
  try clear_value x5
  intro t e
  injection e with e
  subst e
  refine keeps_ite k3 ?_
  refine keeps_State_safeChanged ?_
  refine keeps_State_setLevel ?_
  exact { k3 with }

theorem keeps_State_halfBoundary {s : State} (k2 : Keeps q n s) :
    Keeps q n (State.halfBoundary s) := by
  unfold State.halfBoundary
  extract_lets -merge -useContext x3 x4 x5 x6
  have k7 : Keeps q n x3 := by
    unfold x3
    refine keeps_State_wr ?_
    exact keeps_State_wr k2
  try clear_value x6 x5 x4 x3
  refine keeps_ite k2 ?_
  refine keeps_ite ?_ (keeps_ite (keeps_State_hwChange k7) k7)
  refine keeps_ite (keeps_State_wr k7) ?_
  refine keeps_State_hwChange ?_
  exact keeps_State_count k7

theorem keeps_State_atBoundary {s : State} (k2 : Keeps q n s) :
    Keeps q n (State.atBoundary s) := by
  unfold State.atBoundary
  extract_lets -merge -useContext x3
  try clear_value x3
  refine keeps_State_halfBoundary ?_
  exact { k2 with }

theorem keeps_State_restartWave {s : State} (k2 : Keeps q n s) :
    Keeps q n (State.restartWave s) := by
  unfold State.restartWave
  extract_lets -merge -useContext x3
  try clear_value x3
  refine keeps_State_atBoundary ?_
  exact { k2 with }

theorem keeps_execFltOutToggle {s : State} (k2 : Keeps q n s) :
    ∀ t, (execFltOutToggle s) = .next t → Keeps q n t := by
  unfold execFltOutToggle
  intro t e
  injection e with e
  subst e
  exact keeps_ite (keeps_State_atBoundary k2) k2

theorem keeps_State_heartbeatWrite {s : State} {who : Nat} {value : Word} {be : BitVec 4} (k2 : Keeps q n s) :
    Keeps q n (State.heartbeatWrite s who value be) := by
  unfold State.heartbeatWrite
  refine keeps_ite k2 ?_
  refine keeps_State_writeWith k2 ?_
  intro y6 y7 k8
  extract_lets -merge -useContext x9 x10 x11 x12
  have k13 : Keeps q n x11 := by
    unfold x11
    exact keeps_State_noteBeatLapse k8
  try clear_value x12 x11 x10 x9
  split
  · exact { k8 with }
  · exact keeps_ite (keeps_State_fault k8) { k13 with }

theorem keeps_execHeartbeat {who : Actor} {seq : BitVec 16} {s : State} (k4 : Keeps q n s) :
    ∀ t, (execHeartbeat who seq s) = .next t → Keeps q n t := by
  unfold execHeartbeat
  intro t e
  injection e with e
  subst e
  exact keeps_State_heartbeatWrite k4

theorem keeps_State_halfChanged {s : State} {t : State} (k2 : Keeps q n s) (k4 : Keeps q n t) :
    Keeps q n (State.halfChanged s t) := by
  unfold State.halfChanged
  extract_lets -merge -useContext x5 x6
  have k7 : Keeps q n x5 := by
    unfold x5
    exact { k4 with }
  have k9 : Keeps q n x6 := by
    unfold x6
    exact keeps_ite (keeps_State_noteCeased k7) k7
  try clear_value x6 x5
  exact keeps_State_restartWave k9

theorem keeps_State_fltWrite {s : State} {who : Nat} {k : Nat} {off : Nat} {value : Word} {be : BitVec 4} (k2 : Keeps q n s) :
    Keeps q n (State.fltWrite s who k off value be) := by
  unfold State.fltWrite
  extract_lets -merge -useContext x8 x9 x10
  try clear_value x10 x9 x8
  refine keeps_State_writeWith k2 ?_
  intro y11 y12 k13
  extract_lets -merge -useContext x14 x15 x16 x17
  have k18 : Keeps q n x14 := by
    unfold x14
    exact k13
  have k19 : Keeps q n x15 := by
    unfold x15
    exact keeps_State_store k13
  have k20 : Keeps q n x17 := by
    unfold x17
    exact { k19 with }
  try clear_value x17 x16 x15 x14
  refine keeps_ite ?_ (keeps_ite (keeps_ite k19 (keeps_State_halfChanged k18 k19)) (keeps_ite (keeps_State_safeChanged k19) k19))
  refine keeps_State_syncSafe ?_
  refine keeps_State_settle ?_
  refine keeps_State_syncDevice ?_
  exact keeps_State_syncFaults k20

theorem keeps_execSafeForce {who : Actor} {on : Bool} {s : State} (k4 : Keeps q n s) :
    ∀ t, (execSafeForce who on s) = .next t → Keeps q n t := by
  unfold execSafeForce
  intro t e
  injection e with e
  subst e
  exact keeps_State_fltWrite k4

theorem keeps_execFltOutPeriodWrite {who : Actor} {halfPeriod : BitVec 10} {s : State} (k4 : Keeps q n s) :
    ∀ t, (execFltOutPeriodWrite who halfPeriod s) = .next t → Keeps q n t := by
  unfold execFltOutPeriodWrite
  intro t e
  injection e with e
  subst e
  exact keeps_State_fltWrite k4

theorem keeps_State_noteClass {s : State} {who : Nat} {p : Nat} {off : Nat} (k2 : Keeps q n s) :
    Keeps q n (State.noteClass s who p off) := by
  unfold State.noteClass
  extract_lets -merge -useContext x6
  try clear_value x6
  exact keeps_ite { k2 with } k2

theorem keeps_State_classWrite {s : State} {who : Nat} {p : Nat} {off : Nat} {value : Word} {be : BitVec 4} (k2 : Keeps q n s) :
    Keeps q n (State.classWrite s who p off value be) := by
  unfold State.classWrite
  refine keeps_State_writeWith k2 ?_
  intro y8 y9 k10
  refine keeps_State_syncSafe ?_
  refine keeps_State_settle ?_
  refine keeps_State_syncDevice ?_
  refine keeps_State_syncFaults ?_
  refine keeps_State_noteClass ?_
  exact keeps_State_store k10

theorem keeps_State_flushHeld {z1 : List Held} {z2 : State} (k3 : Keeps q n z2) :
    Keeps q n (State.flushHeld z1 z2).1 := by
  induction z1 generalizing z2 with
  | nil => exact k3
  | cons h hs ih =>
    unfold State.flushHeld
    refine keeps_ite_fst k3 ?_
    extract_lets l u
    have ku : Keeps q n u := { k3 with }
    clear_value u
    exact ih (keeps_State_append ku)

theorem keeps_State_entryGone {s : State} {e : Entry} (k2 : Keeps q n s) :
    Keeps q n (State.entryGone s e) := by
  unfold State.entryGone
  extract_lets -merge -useContext x4 x5
  try clear_value x4
  exact keeps_ite { k2 with } k2

theorem keeps_State_spaceBack {s : State} (k2 : Keeps q n s) :
    Keeps q n (State.spaceBack s) := by
  unfold State.spaceBack
  extract_lets -merge -useContext x3 x4
  have k5 : Keeps q n x3 := by
    unfold x3
    refine keeps_State_settle ?_
    exact keeps_State_flushHeld k2
  have k6 : Keeps q n x4 := by
    unfold x4
    exact keeps_State_syncLedger k5
  try clear_value x4 x3
  exact keeps_ite (keeps_State_setLevel k6) k6

theorem keeps_State_ldgWrite {s : State} {who : Nat} {off : Nat} {value : Word} {be : BitVec 4} (k2 : Keeps q n s) :
    Keeps q n (State.ldgWrite s who off value be) := by
  unfold State.ldgWrite
  refine keeps_State_writeWith k2 ?_
  intro y7 y8 k9
  exact keeps_State_store k9

theorem keeps_execExportEnable {who : Actor} {s : State} (k3 : Keeps q n s) :
    ∀ t, (execExportEnable who s) = .next t → Keeps q n t := by
  unfold execExportEnable
  intro t e
  injection e with e
  subst e
  exact keeps_State_ldgWrite k3

theorem keeps_execExportHead {who : Actor} {head : Word} {s : State} (k4 : Keeps q n s) :
    ∀ t, (execExportHead who head s) = .next t → Keeps q n t := by
  unfold execExportHead
  intro t e
  injection e with e
  subst e
  exact keeps_State_ldgWrite k4

theorem keeps_State_exported {e : Entry} {r : State × Option MemErr} (k3 : Keeps q n r.1) :
    Keeps q n (State.exported e r) := by
  obtain ⟨u, x⟩ := r
  cases x with
  | some _ => exact keeps_State_fault (keeps_State_wr k3)
  | none =>
    have k4 : Keeps q n ({ u with led := { u.led with occ := u.led.occ - 1 } } : State) := { k3 with }
    exact keeps_State_spaceBack (keeps_State_entryGone (keeps_State_count (keeps_State_setReg k4)))

theorem keeps_State_exportEntry {s : State} (k2 : Keeps q n s) :
    Keeps q n (State.exportEntry s) := by
  unfold State.exportEntry
  extract_lets -merge -useContext x3 x4 x5 x6 x7 x8
  have k9 : Keeps q n x5.1 := by
    unfold x5
    exact keeps_State_vltLine k2
  have k10 : Keeps q n x6 := by
    unfold x6
    exact keeps_ite (keeps_State_fault k9) k9
  try clear_value x8 x7 x6 x5 x4 x3
  refine keeps_State_exported ?_
  exact keeps_State_postMem k10

theorem keeps_execExportEntry {s : State} (k2 : Keeps q n s) :
    ∀ t, (execExportEntry s) = .next t → Keeps q n t := by
  unfold execExportEntry
  intro t e
  injection e with e
  subst e
  exact keeps_ite k2 (keeps_ite (keeps_State_holdUnit k2) (keeps_State_exportEntry k2))

theorem keeps_State_retire {s : State} {n' : Nat} (k2 : Keeps q n s) :
    Keeps q n (State.retire s n') := by
  unfold State.retire
  extract_lets -merge -useContext x4 x5 x6 x7 x8 x9 x10
  have k11 : Keeps q n x6 := by
    unfold x6
    refine keeps_foldl ?_ ?_
    · exact k2
    · intro t12 i13 k14
      exact keeps_State_entryGone k14
  have k15 : Keeps q n x8 := by
    unfold x8
    exact { k11 with }
  have k17 : Keeps q n x10 := by
    unfold x10
    refine keeps_foldl ?_ ?_
    · exact k15
    · intro t18 i19 k20
      exact keeps_State_count k20
  try clear_value x10 x9 x8 x6 x5 x4
  refine keeps_State_spaceBack ?_
  exact keeps_State_setReg k17

theorem keeps_State_sealSpan {s : State} (k2 : Keeps q n s) : Keeps q n (State.sealSpan s) := by
  have led : ∀ {u : State} (k : Nat), Keeps q n u → Keeps q n { u with led := { u.led with sealFrom := k } } := fun _ h => { h with }
  unfold State.sealSpan
  exact keeps_State_raise (led _ (keeps_State_setReg (keeps_foldl (keeps_State_next k2) fun _ _ k => keeps_State_setReg k)))

theorem keeps_execSealWrite {s : State} (k2 : Keeps q n s) :
    ∀ t, (execSealWrite s) = .next t → Keeps q n t := by
  unfold execSealWrite
  intro t e
  injection e with e
  subst e
  refine keeps_ite k2 ?_
  refine keeps_ite ?_ (keeps_State_sealSpan k2)
  refine keeps_State_retire ?_
  exact keeps_State_sealSpan k2

theorem keeps_execLockstep {s : State} (k2 : Keeps q n s) :
    ∀ t, (execLockstep s) = .next t → Keeps q n t := by
  unfold execLockstep
  extract_lets -merge -useContext x4
  try clear_value x4
  intro t e
  injection e with e
  subst e
  refine keeps_ite k2 ?_
  refine keeps_State_fault ?_
  exact { k2 with }

theorem keeps_State_readFuses {s : State} (k2 : Keeps q n s) :
    Keeps q n (State.readFuses s) := by
  unfold State.readFuses
  refine keeps_State_wr ?_
  exact keeps_State_wr k2

theorem keeps_State_coldStart {s : State} {cause : Nat} (k2 : Keeps q n s) :
    Keeps q n (State.coldStart s cause) := by
  unfold State.coldStart
  have kz := keeps_reset
  generalize State.reset = z at kz
  exact keeps_State_readFuses (keeps_State_wr
    { kz with pending := k2.pending, now := k2.now, regs := Tbl.wf_filter _ k2.regs })

theorem keeps_execColdReset {lowNs : Nat} {s : State} (k3 : Keeps q n s) :
    ∀ t, (execColdReset lowNs s) = .next t → Keeps q n t := by
  unfold execColdReset
  intro t e
  injection e with e
  subst e
  exact keeps_ite (keeps_State_coldStart k3) k3

theorem keeps_execBrownOut {s : State} (k2 : Keeps q n s) :
    ∀ t, (execBrownOut s) = .next t → Keeps q n t := by
  unfold execBrownOut
  intro t e
  injection e with e
  subst e
  exact keeps_ite (keeps_State_coldStart k2) k2

theorem keeps_State_glbResetWrite {s : State} {who : Nat} {value : Word} {be : BitVec 4} (k2 : Keeps q n s) :
    Keeps q n (State.glbResetWrite s who value be) := by
  unfold State.glbResetWrite
  extract_lets -merge -useContext x6
  try clear_value x6
  refine keeps_State_writeWith k2 ?_
  intro y7 y8 k9
  exact keeps_ite (keeps_State_coldStart k9) k9

theorem keeps_execGlbReset {who : Actor} {key : Byte} {cold : Bool} {s : State} (k5 : Keeps q n s) :
    ∀ t, (execGlbReset who key cold s) = .next t → Keeps q n t := by
  unfold execGlbReset
  intro t e
  injection e with e
  subst e
  exact keeps_State_glbResetWrite k5

theorem keeps_execPorstRelease {straps : StrapSamples} {s : State} (k3 : Keeps q n s) :
    ∀ t, (execPorstRelease straps s) = .next t → Keeps q n t := by
  unfold execPorstRelease
  extract_lets -merge -useContext x10 x11 x12 x13 x14 x15
  have k16 : Keeps q n x14 := by
    unfold x14
    exact { k3 with }
  try clear_value x15 x14 x13 x12 x11 x10
  intro t e
  injection e with e
  subst e
  refine keeps_ite k3 ?_
  split
  split
  split
  extract_lets -merge -useContext x18 x19 x20 x21 x22
  have k23 : Keeps q n x18 := by
    unfold x18
    refine keeps_State_wr ?_
    refine keeps_State_wr ?_
    exact keeps_State_wr k16
  have k24 : Keeps q n x19 := by
    unfold x19
    refine keeps_State_wr ?_
    exact keeps_State_wr k23
  have k25 : Keeps q n x20 := by
    unfold x20
    refine keeps_State_readFuses ?_
    refine keeps_State_wr ?_
    exact keeps_State_wr k24
  have k26 : Keeps q n x21 := by
    unfold x21
    refine keeps_foldl ?_ ?_
    · exact k25
    · intro t27 i28 k29
      exact keeps_State_wakeAsk k29
  have k30 : Keeps q n x22 := by
    unfold x22
    exact keeps_ite (keeps_State_fault k26) k26
  try clear_value x22 x21 x20 x19 x18
  refine keeps_State_restartWave ?_
  refine keeps_State_setLevel ?_
  exact keeps_State_setLevel k30

theorem keeps_State_railTake {s : State} {r : Nat} {mv : Nat} (k2 : Keeps q n s) :
    Keeps q n (State.railTake s r mv) := by
  unfold State.railTake
  split
  extract_lets -merge -useContext x5 x6 x7
  have k8 : Keeps q n x6 := by
    unfold x6
    refine keeps_State_wr ?_
    exact keeps_State_wr k2
  try clear_value x7 x6 x5
  exact { k8 with }

theorem keeps_State_syncRails {s : State} (k2 : Keeps q n s) :
    Keeps q n (State.syncRails s) := by
  unfold State.syncRails
  exact keeps_State_setLevel k2

theorem keeps_State_vbatSeen {s : State} {mv : Nat} (k2 : Keeps q n s) :
    Keeps q n (State.vbatSeen s mv) := by
  unfold State.vbatSeen
  refine keeps_ite ?_ (keeps_State_wr k2)
  refine keeps_State_setLevel ?_
  exact keeps_State_wr k2

theorem keeps_execRailSample {r : Fin 9} {mv : BitVec 13} {s : State} (k4 : Keeps q n s) :
    ∀ t, (execRailSample r mv s) = .next t → Keeps q n t := by
  unfold execRailSample
  extract_lets -merge -useContext x6
  have k7 : Keeps q n x6 := by
    unfold x6
    refine keeps_State_syncRails ?_
    exact keeps_State_railTake k4
  try clear_value x6
  intro t e
  injection e with e
  subst e
  exact keeps_ite k4 (keeps_ite (keeps_State_vbatSeen k7) k7)

theorem keeps_execVbatLow {s : State} (k2 : Keeps q n s) :
    ∀ t, (execVbatLow s) = .next t → Keeps q t.now t := by
  unfold execVbatLow
  intro t e
  injection e with e
  subst e
  have k9 : Keeps q n (s.overRegs (fun k => backupKey k) fun k _ => regReset k) := keeps_State_overRegs k2
  generalize s.overRegs (fun k => backupKey k) (fun k _ => regReset k) = u at k9
  have k1 : Keeps q n ((s.wr (glbPage 4) GLB_BKP_STATUS_vbat_ok 0).setLevel (glbPage 4) 0 true) := keeps_State_setLevel (keeps_State_wr k2)
  split
  · exact { k1 with now := rfl }
  · exact { k9 with now := rfl }

theorem keeps_State_tempTake {s : State} {i : Nat} {quarterC : ℤ} (k2 : Keeps q n s) :
    Keeps q n (State.tempTake s i quarterC) := by
  unfold State.tempTake
  extract_lets -merge -useContext x5 x6 x7 x8 x9 x10
  have k11 : Keeps q n x9 := by
    unfold x9
    exact { k2 with }
  have k13 : Keeps q n x10 := by
    unfold x10
    refine keeps_State_wr ?_
    exact keeps_State_wr k11
  try clear_value x10 x9 x8 x7 x6 x5
  exact keeps_ite (keeps_State_fault k13) k13

theorem keeps_State_syncTemps {s : State} (k2 : Keeps q n s) :
    Keeps q n (State.syncTemps s) := by
  unfold State.syncTemps
  extract_lets -merge -useContext x3
  try clear_value x3
  split
  · exact keeps_State_setLevel k2
  · refine keeps_State_setLevel ?_
    refine keeps_State_wr ?_
    exact keeps_State_wr k2

theorem keeps_execTempSample {i : Fin 32} {quarterC : ℤ} {s : State} (k4 : Keeps q n s) :
    ∀ t, (execTempSample i quarterC s) = .next t → Keeps q n t := by
  unfold execTempSample
  extract_lets -merge -useContext x7 x8
  have k9 : Keeps q n x8 := by
    unfold x8
    refine keeps_State_syncTemps ?_
    exact keeps_State_tempTake k4
  try clear_value x8 x7
  intro t e
  injection e with e
  subst e
  exact keeps_ite { k4 with } (keeps_ite k4 (keeps_ite (keeps_State_coldStart k9) k9))

theorem keeps_execThermalRelease {s : State} (k2 : Keeps q n s) :
    ∀ t, (execThermalRelease s) = .next t → Keeps q n t := by
  unfold execThermalRelease
  extract_lets -merge -useContext x4
  try clear_value x4
  intro t e
  injection e with e
  subst e
  exact keeps_ite { k2 with } k2

theorem keeps_State_armAlarm {s : State} {k : Nat} (k2 : Keeps q n s) :
    Keeps q n (State.armAlarm s k) := by
  unfold State.armAlarm
  extract_lets -merge -useContext x4 x5
  try clear_value x5 x4
  exact { k2 with }

theorem keeps_State_fireAlarm {s : State} {k : Nat} (k2 : Keeps q n s) :
    Keeps q n (State.fireAlarm s k) := by
  unfold State.fireAlarm
  extract_lets -merge -useContext x4 x5 x6 x7 x8 x9
  have k10 : Keeps q n x7 := by
    unfold x7
    exact { k2 with }
  have k12 : Keeps q n x8 := by
    unfold x8
    refine keeps_State_wr ?_
    exact keeps_State_wr k10
  try clear_value x9 x8 x7 x6 x5 x4
  refine keeps_ite k2 ?_
  refine keeps_ite ?_ { k12 with }
  refine keeps_State_raise ?_
  exact keeps_State_hwField k10

theorem keeps_execAlarmFire {k : Fin 2} {s : State} (k3 : Keeps q n s) :
    ∀ t, (execAlarmFire k s) = .next t → Keeps q n t := by
  unfold execAlarmFire
  intro t e
  injection e with e
  subst e
  exact keeps_State_fireAlarm k3

theorem keeps_State_alarmWrite {s : State} {who : Nat} {off : Nat} {value : Word} {be : BitVec 4} {firing : Nat} (k2 : Keeps q n s) :
    Keeps q n (State.alarmWrite s who off value be firing) := by
  unfold State.alarmWrite
  extract_lets -merge -useContext x8 x9
  have k10 : Keeps q n x9 := by
    unfold x9
    refine keeps_State_writeWith k2 ?_
    intro y11 y12 k13
    extract_lets -merge -useContext x14 x15 x16 x17
    have k18 : Keeps q n x15 := by
      unfold x15
      exact keeps_State_store k13
    have k19 : Keeps q n x17 := by
      unfold x17
      exact keeps_State_wr k18
    try clear_value x17 x16 x15 x14
    refine keeps_ite ?_ (keeps_State_armAlarm k18)
    refine keeps_foldl ?_ ?_
    · exact k19
    · intro t20 i21 k22
      exact keeps_ite k22 (keeps_State_armAlarm k22)
  try clear_value x9 x8
  refine keeps_foldl ?_ ?_
  · exact k10
  · intro t23 i24 k25
    exact keeps_State_fireAlarm k25

theorem keeps_execAlarmClear {who : Actor} {bits : BitVec 2} {firing : BitVec 2} {s : State} (k5 : Keeps q n s) :
    ∀ t, (execAlarmClear who bits firing s) = .next t → Keeps q n t := by
  unfold execAlarmClear
  intro t e
  injection e with e
  subst e
  exact keeps_State_alarmWrite k5

theorem keeps_execTimeBaseRead {who : Actor} {s : State} (k3 : Keeps q n s) :
    ∀ t, (execTimeBaseRead who s) = .next t → Keeps q n t := by
  unfold execTimeBaseRead
  extract_lets -merge -useContext x7 x8 x9
  have k10 : Keeps q n x8 := by
    unfold x8
    exact keeps_ite (keeps_State_charge k3) k3
  have k11 : Keeps q n x9 := by
    unfold x9
    refine keeps_State_wr ?_
    exact keeps_State_wr k3
  try clear_value x9 x8 x7
  intro t e
  injection e with e
  subst e
  exact keeps_ite { k3 with } (keeps_ite { k10 with } { k11 with })

theorem keeps_State_plainWrite {s : State} {who : Nat} {p : Nat} {off : Nat} {value : Word} {be : BitVec 4} {rule : Word → Rule} {after : State → State} (k2 : Keeps q n s) (k10 : ∀ a11, Keeps q n a11 → Keeps q n (after a11)) :
    Keeps q n (State.plainWrite s who p off value be rule after) := by
  unfold State.plainWrite
  refine keeps_State_writeWith k2 ?_
  intro y12 y13 k14
  refine k10 _ ?_
  exact keeps_State_store k14

theorem keeps_State_withValue {s : State} {p : Nat} {off : Nat} {v : Word} (k2 : Keeps q n s) :
    Keeps q n (State.withValue s p off v) := by
  unfold State.withValue
  exact keeps_State_setReg k2

theorem keeps_State_blockWrite {s : State} {who : Nat} {p : Nat} {off : Nat} {value : Word} {be : BitVec 4} (k2 : Keeps q n s) :
    Keeps q n (State.blockWrite s who p off value be) := by
  unfold State.blockWrite
  extract_lets -merge -useContext x8 x9
  have k17 : Keeps q n x9 := by
    unfold x9
    refine keeps_State_plainWrite k2 ?_
    intro y18 k19
    dsimp only [id]
    exact k19
  clear_value x9
  split
  · exact keeps_ite (keeps_State_glbResetWrite k2) k17
  · refine keeps_ite (keeps_State_clrWorstWrite k2) ?_
    refine keeps_ite ?_ k17
    refine keeps_State_plainWrite k2 ?_
    intro y20 k21
    dsimp only [id]
    exact k21
  · refine keeps_State_plainWrite k2 ?_
    intro y20 k21
    exact keeps_State_syncTemps k21
  · exact keeps_ite (keeps_State_alarmWrite k2) k17
  · exact keeps_ite (keeps_State_heartbeatWrite k2) (keeps_ite (keeps_State_fltWrite k2) k17)
  · exact keeps_State_ldgWrite k2
  · refine keeps_State_plainWrite k2 ?_
    intro y22 k23
    exact keeps_ite (keeps_State_syncSafe k23) k23
  · refine keeps_ite ?_ ?_
    · refine keeps_ite (keeps_State_pbDoorbellWrite k2) ?_
      refine keeps_ite (keeps_State_pbRingWrite k2) ?_
      refine keeps_ite ?_ (keeps_ite ?_ k17)
      · refine keeps_State_plainWrite k2 ?_
        intro y24 k25
        dsimp only [id]
        exact k25
      · refine keeps_State_plainWrite k2 ?_
        intro y24 k25
        dsimp only [id]
        exact k25
    · refine keeps_ite (keeps_ite (keeps_State_commitWrite k2) k17) ?_
      refine keeps_ite (keeps_ite (keeps_State_doorbellWrite k2) k17) ?_
      refine keeps_ite (keeps_ite (keeps_State_queueWrite k2) k17) ?_
      refine keeps_ite ?_ k17
      refine keeps_ite (keeps_State_nsSendWrite k2) ?_
      refine keeps_ite (keeps_State_nsSelWrite k2) ?_
      refine keeps_ite (keeps_State_nsTakeWrite k2) ?_
      refine keeps_ite ?_ k17
      refine keeps_State_writeWith k2 ?_
      intro y26 y27 k28
      exact keeps_State_store k28
  · exact keeps_ite (keeps_State_branchWrite k2) k17
  · refine keeps_ite (keeps_State_timWrite k2) ?_
    refine keeps_ite ?_ ?_
    · refine keeps_State_plainWrite k2 ?_
      intro y29 k30
      exact keeps_State_updateFill k30
    · refine keeps_ite ?_ (keeps_ite (keeps_State_loadWrite k2) (keeps_ite (keeps_State_colBankWrite k2) (keeps_ite (keeps_State_fmtWrite k2) (keeps_ite (keeps_State_lnkWrite k2) (keeps_ite (keeps_State_limitsWrite k2) k17)))))
      refine keeps_State_plainWrite k2 ?_
      intro y31 k32
      dsimp only [id]
      exact k32
  · refine keeps_ite (keeps_State_sclBankWrite k2) ?_
    refine keeps_ite ?_ k17
    refine keeps_State_plainWrite k2 ?_
    intro y33 k34
    dsimp only [id]
    exact k34
  · exact keeps_ite (keeps_State_coefWrite k2) k17
  · refine keeps_ite ?_ ?_
    · refine keeps_ite (keeps_State_memCtrlWrite k2) ?_
      refine keeps_ite ?_ k17
      refine keeps_State_plainWrite k2 ?_
      intro y35 k36
      dsimp only [id]
      exact k36
    · refine keeps_ite ?_ k17
      refine keeps_State_plainWrite k2 ?_
      intro y37 k38
      dsimp only [id]
      exact k38
  · refine keeps_ite ?_ k17
    refine keeps_State_plainWrite k2 ?_
    intro y39 k40
    dsimp only [id]
    exact k40
  · exact keeps_State_capWrite k2
  · exact keeps_State_audWrite k2
  · exact keeps_State_tchWrite k2
  · exact keeps_State_hapWrite k2
  · refine keeps_State_plainWrite k2 ?_
    intro y41 k42
    exact keeps_State_linkFollow k42
  · exact k17

theorem keeps_State_pageWrite {s : State} {who : Nat} {p : Nat} {off : Nat} {value : Word} {be : BitVec 4} (k2 : Keeps q n s) :
    Keeps q n (State.pageWrite s who p off value be) := by
  unfold State.pageWrite
  refine keeps_ite (keeps_State_pageCtrlWrite k2) ?_
  refine keeps_ite ?_ ?_
  · refine keeps_State_plainWrite k2 ?_
    intro y8 k9
    dsimp only [id]
    exact k9
  · refine keeps_ite (keeps_State_pendingWrite k2) ?_
    refine keeps_ite (keeps_State_stickyWrite k2) ?_
    refine keeps_ite (keeps_State_classWrite k2) ?_
    refine keeps_ite (keeps_State_injectWrite k2) ?_
    refine keeps_ite ?_ (keeps_State_blockWrite k2)
    refine keeps_State_plainWrite k2 ?_
    intro y10 k11
    dsimp only [id]
    exact k11

theorem keeps_State_legRefused {s : State} {a : Nat} {z4 : Verdict} (k2 : Keeps q n s) :
    Keeps q n (State.legRefused s a z4) := by
  unfold State.legRefused
  split
  · exact keeps_State_legErr k2
  · exact keeps_State_legErr k2
  · exact keeps_State_legErr k2
  · exact k2

theorem keeps_State_viaWindow {s : State} {who : Nat} {a : Nat} {p : Nat} {off : Nat} {value : Word} {be : BitVec 4} {rule : Word → Rule} {go : State → State} (k2 : Keeps q n s) (k11 : ∀ a12, Keeps q n a12 → Keeps q n (go a12)) :
    Keeps q n (State.viaWindow s who a p off value be rule go) := by
  unfold State.viaWindow
  split
  · refine keeps_State_legRefused ?_
    exact keeps_State_turnAway k2
  · refine keeps_State_legRefused ?_
    exact keeps_State_turnAway k2
  · refine keeps_State_legRefused ?_
    exact keeps_State_turnAway k2
  · exact k11 _ k2

theorem keeps_State_legApply {s : State} {p : Nat} {off : Nat} {v : Word} (k2 : Keeps q n s) :
    Keeps q n (State.legApply s p off v) := by
  unfold State.legApply
  extract_lets -merge -useContext x6 x7 x8 x9 x10 x11 x12 x13
  have k14 : Keeps q n x9 := by
    unfold x9
    exact keeps_State_store k2
  have k15 : Keeps q n x12 := by
    unfold x12
    exact keeps_State_applyVals k14
  have k16 : Keeps q n x13 := by
    unfold x13
    refine keeps_foldl ?_ ?_
    · exact k15
    · intro t17 i18 k19
      refine keeps_State_touch ?_
      exact { k19 with }
  try clear_value x13 x12 x11 x10 x9 x8 x7 x6
  exact keeps_State_afterApply k16

theorem keeps_State_legLayerSet {s : State} {who : Nat} {a : Nat} {k : Nat} {j : Nat} {p : Nat} {off : Nat} {value : Word} {be : BitVec 4} (k2 : Keeps q n s) :
    Keeps q n (State.legLayerSet s who a k j p off value be) := by
  unfold State.legLayerSet
  extract_lets -merge -useContext x11
  try clear_value x11
  refine keeps_State_viaWindow k2 ?_
  intro y12 k13
  refine keeps_State_writeWith k13 ?_
  intro y14 y15 k16
  exact keeps_State_legApply k16

theorem keeps_State_legAtOnce {s : State} {who : Nat} {a : Nat} {p : Nat} {off : Nat} {value : Word} {be : BitVec 4} {rule : Word → Rule} (k2 : Keeps q n s) :
    Keeps q n (State.legAtOnce s who a p off value be rule) := by
  unfold State.legAtOnce
  extract_lets -merge -useContext x10
  try clear_value x10
  refine keeps_State_viaWindow k2 ?_
  intro y11 k12
  refine keeps_State_writeWith k12 ?_
  intro y13 y14 k15
  extract_lets -merge -useContext x16
  have k17 : Keeps q n x16 := by
    unfold x16
    refine keeps_State_applyVals ?_
    exact keeps_State_store k15
  try clear_value x16
  refine keeps_State_afterApply ?_
  exact keeps_State_touch k17

theorem keeps_State_legGains {s : State} {who : Nat} {a : Nat} {r : Nat} {c : Nat} {value : Word} {be : BitVec 4} {missed : State → State} (k2 : Keeps q n s) (k10 : ∀ a11, Keeps q n a11 → Keeps q n (missed a11)) :
    Keeps q n (State.legGains s who a r c value be missed) := by
  unfold State.legGains
  extract_lets -merge -useContext x12 x13 x14 x15 x16
  try clear_value x16 x15 x14 x13 x12
  refine keeps_ite (k10 _ k2) ?_
  refine keeps_foldl ?_ ?_
  · exact k2
  · intro t17 i18 k19
    split
    · exact k19
    · extract_lets -merge -useContext x20 x21 x22 x23
      try clear_value x23 x22 x21 x20
      refine keeps_State_viaWindow k19 ?_
      intro y24 k25
      exact keeps_State_audWrite k25

theorem keeps_State_legEnable {s : State} {who : Nat} {a : Nat} {value : Word} {be : BitVec 4} (k2 : Keeps q n s) :
    Keeps q n (State.legEnable s who a value be) := by
  unfold State.legEnable
  extract_lets -merge -useContext x7 x8 x9 x10
  have k11 : Keeps q n x10 := by
    unfold x10
    refine keeps_State_setLeg ?_
    exact keeps_State_log k2
  try clear_value x10 x9 x8 x7
  refine keeps_ite k2 ?_
  refine keeps_ite ?_ (keeps_ite (keeps_State_msix k11) k11)
  refine keeps_State_legRefused ?_
  refine keeps_State_settle ?_
  exact keeps_State_refuseFull k2

theorem keeps_State_legWrite {s : State} {who : Nat} {a : Nat} {off : Nat} {value : Word} {be : BitVec 4} (k2 : Keeps q n s) :
    Keeps q n (State.legWrite s who a off value be) := by
  unfold State.legWrite
  extract_lets -merge -useContext x8 x9
  have k10 : ∀ a13, Keeps q n a13 → Keeps q n (x9 a13) := by
    unfold x9
    intro y11 k12
    exact keeps_State_turnAway k12
  try clear_value x9 x8
  refine keeps_ite k2 ?_
  refine keeps_ite (keeps_State_turnAway k2) ?_
  split
  · exact k10 _ k2
  · exact k2
  · exact keeps_State_legEnable k2
  · refine keeps_State_viaWindow k2 ?_
    intro y14 k15
    exact keeps_State_pageWrite k15
  · exact keeps_State_legAtOnce k2
  · split
    · refine keeps_State_legRefused ?_
      exact keeps_State_turnAway k2
    · exact keeps_State_legAtOnce k2
  · exact keeps_State_legLayerSet k2
  · refine keeps_State_legGains k2 ?_
    intro y16 k17
    exact k10 _ k17

theorem keeps_execLegLayerWrite {who : Actor} {a : Acct} {off : BitVec 16} {value : Word} {s : State} (k6 : Keeps q n s) :
    ∀ t, (execLegLayerWrite who a off value s) = .next t → Keeps q n t := by
  unfold execLegLayerWrite
  intro t e
  injection e with e
  subst e
  exact keeps_State_legWrite k6

theorem keeps_execLegIntRead {a : Acct} {arriving : Word} {s : State} (k4 : Keeps q n s) :
    ∀ t, (execLegIntRead a arriving s) = .next t → Keeps q n t := by
  unfold execLegIntRead
  extract_lets -merge -useContext x11 x12 x13 x14 x15 x16
  have k17 : Keeps q n x15 := by
    unfold x15
    exact keeps_State_setLeg k4
  have k18 : Keeps q n x16 := by
    unfold x16
    exact { k17 with }
  try clear_value x16 x15 x14 x13 x12 x11
  intro t e
  injection e with e
  subst e
  exact keeps_ite k4 (keeps_ite (keeps_State_msix k18) k18)

theorem keeps_execLegErrRead {a : Acct} {s : State} (k3 : Keeps q n s) :
    ∀ t, (execLegErrRead a s) = .next t → Keeps q n t := by
  unfold execLegErrRead
  extract_lets -merge -useContext x9 x10 x11 x12 x13
  have k14 : Keeps q n x13 := by
    unfold x13
    refine keeps_State_setLeg ?_
    exact keeps_State_setLeg k3
  have k15 : Tbl.wf (fun _ => 0) x12 = true := by
    unfold x12
    split
    · exact NatTbl.wf_put _ _ k3.errOwed
    · exact k3.errOwed
  try clear_value x13 x12 x11 x10 x9
  intro t e
  injection e with e
  subst e
  exact keeps_ite k3 { k14 with errOwed := k15 }

theorem keeps_execLegErrClear {a : Acct} {s : State} (k3 : Keeps q n s) :
    ∀ t, (execLegErrClear a s) = .next t → Keeps q n t := by
  unfold execLegErrClear
  extract_lets -merge -useContext x8 x9 x10 x11
  try clear_value x11 x10 x9 x8
  intro t e
  injection e with e
  subst e
  refine keeps_ite k3 ?_
  refine keeps_foldl ?_ ?_
  · exact { k3 with errOwed := NatTbl.wf_put _ _ k3.errOwed }
  · intro t13 i14 k15
    exact keeps_State_stickyWrite k15

theorem keeps_State_busWrite {s : State} {who : Nat} {addr : Nat} {value : Word} {be : BitVec 4} (k2 : Keeps q n s) :
    Keeps q n (State.busWrite s who addr value be) := by
  unfold State.busWrite
  extract_lets -merge -useContext x7
  try clear_value x7
  split
  · exact keeps_ite (keeps_State_charge k2) k2
  · split
    · exact keeps_State_legWrite k2
    · exact keeps_State_pageWrite k2

theorem keeps_execRegisterWrite {who : Actor} {addr : BitVec 24} {value : Word} {be : BitVec 4} {s : State} (k6 : Keeps q n s) :
    ∀ t, (execRegisterWrite who addr value be s) = .next t → Keeps q n t := by
  unfold execRegisterWrite
  intro t e
  injection e with e
  subst e
  exact keeps_State_busWrite k6

end Sys2Proof.Machine
end

