-- ==== Sys2Proof/Laws/Keeps8.lean ====
section
/-! SUPPORT. Every operation of Boot.lean keeps the queue, the time base and the canonical tables. -/

set_option linter.unusedVariables false

namespace Sys2Proof.Machine

variable {q : List Instr} {n : Nat}

theorem keeps_State_setStage {s : State} {n' : Nat} (k2 : Keeps q n s) :
    Keeps q n (State.setStage s n') := by
  unfold State.setStage
  exact keeps_State_wr k2

theorem keeps_State_lifeEntry {s : State} {st : Nat} (k2 : Keeps q n s) :
    Keeps q n (State.lifeEntry s st) := by
  unfold State.lifeEntry
  extract_lets -merge -useContext x4
  try clear_value x4
  exact { k2 with }

/-- A piece of theorem keeps_State_bootLifecycle: the blowing of a group of fuses. -/
theorem keeps_Blowing_group {b : Blowing} {st : Nat} {i : Bool} (k : Keeps q n b.dev) : Keeps q n (b.group st i).dev := by
  unfold Blowing.group
  split
  · exact k
  · exact { k with }
theorem keeps_Blowing_enter {b : Blowing} {st : Nat} (k : Keeps q n b.dev) : Keeps q n (b.enter st).dev := by
  unfold Blowing.enter
  split
  · exact k
  · exact keeps_Blowing_group (b := { b with dev := b.dev.lifeEntry st }) (keeps_State_lifeEntry k)
theorem keeps_Blowing_bootLifecycle {b : Blowing} {r : Option LifeRecord} (k : Keeps q n b.dev) :
    Keeps q n (b.bootLifecycle r).dev := by
  unfold Blowing.bootLifecycle
  extract_lets st0 c
  have kc : Keeps q n c.dev := by
    unfold c
    split
    · exact k
    · refine keeps_State_fault (keeps_State_wr (keeps_Blowing_enter ?_))
      exact keeps_State_log k
  clear_value c
  split
  · exact kc
  · split
    · refine keeps_Blowing_enter (keeps_Blowing_group ?_)
      exact keeps_State_log kc
    · exact keeps_State_log kc
theorem keeps_State_bootLifecycle {s : State} {record : Option LifeRecord} {cut : Option Nat} (k2 : Keeps q n s) :
    Keeps q n (State.bootLifecycle s record cut).1 := by
  unfold State.bootLifecycle
  have k := keeps_Blowing_bootLifecycle (b := ⟨s, cut, false⟩) (r := record) k2
  exact keeps_ite_fst (keeps_mk (keeps_State_coldStart k)) (keeps_mk (keeps_State_readFuses k))

theorem keeps_State_measure {s : State} {b : BootInput} (k2 : Keeps q n s) :
    Keeps q n (State.measure s b) := by
  unfold State.measure
  extract_lets -merge -useContext x4 x5 x6 x7 x8 x9
  have k10 : Keeps q n x4 := by
    unfold x4
    refine keeps_foldl ?_ ?_
    · exact k2
    · intro t11 i12 k13
      extract_lets -merge -useContext x14 x15
      have k16 : Keeps q n x14 := by
        unfold x14
        exact keeps_State_railTake k13
      try clear_value x15 x14
      exact keeps_ite k16 { k16 with }
  have k18 : Keeps q n x5 := by
    unfold x5
    refine keeps_foldl ?_ ?_
    · exact keeps_State_syncRails k10
    · intro t19 i20 k21
      exact keeps_State_tempTake k21
  have k22 : Keeps q n x6 := by
    unfold x6
    exact keeps_ite (keeps_State_fault k18) k18
  have k23 : Keeps q n x7 := by
    unfold x7
    refine keeps_State_vbatSeen ?_
    exact keeps_State_syncTemps k22
  have k24 : Keeps q n x8 := by
    unfold x8
    refine keeps_State_wr ?_
    exact keeps_State_wr k23
  try clear_value x9 x8 x7 x6 x5 x4
  exact { k24 with }

theorem keeps_State_bindPages {s : State} {ps : List Nat} {h : Option Actor} (k2 : Keeps q n s) :
    Keeps q n (State.bindPages s ps h) := by
  unfold State.bindPages
  extract_lets -merge -useContext x5
  try clear_value x5
  refine keeps_foldl ?_ ?_
  · exact k2
  · intro t6 i7 k8
    exact keeps_State_setOwner k8

theorem keeps_State_bindConflict {s : State} {n' : Nat} (k2 : Keeps q n s) :
    Keeps q n (State.bindConflict s n') := by
  unfold State.bindConflict
  refine keeps_State_fault ?_
  exact keeps_State_log k2

theorem keeps_State_claimPin {s : State} {inst : Nat} {h : Option Actor} {o : BitVec 16} {n' : Nat} (k2 : Keeps q n s) :
    Keeps q n (State.claimPin s inst h o n') := by
  unfold State.claimPin
  extract_lets -merge -useContext x7 x8 x9 x10 x11 x12 x13
  have k14 : Keeps q n x10 := by
    unfold x10
    exact keeps_State_log k2
  have k15 : Keeps q n x11 := by
    unfold x11
    refine keeps_State_wr ?_
    refine keeps_State_wr ?_
    refine keeps_State_wr ?_
    exact keeps_State_wr k14
  have k16 : Keeps q n x12 := by
    unfold x12
    exact keeps_State_wr k15
  try clear_value x13 x12 x11 x10 x9 x8 x7
  split
  · exact k2
  · refine keeps_ite ?_ (keeps_ite (keeps_State_setReg k15) (keeps_ite { k16 with } k15))
    refine keeps_State_fault ?_
    refine keeps_State_wr ?_
    exact keeps_State_bindConflict k2

theorem keeps_State_worldRegion {s : State} {vault : Bool} {base : Nat} {size : Nat} {trusted : Bool} (k2 : Keeps q n s) :
    ∀ t, (State.worldRegion s vault base size trusted) = some t → Keeps q n t := by
  intro t e
  unfold State.worldRegion at e
  split at e
  extract_lets x at e
  split at e
  · cases e
  · split at e
    · cases e
    · injection e with e
      subst e
      exact keeps_State_wr (keeps_State_wr (keeps_State_wr k2))

theorem keeps_State_bindOnce {s : State} {done : List Nat} {ps : List Nat} {h : Option Actor} {ok : Bool} {n' : Nat} (k2 : Keeps q n s) :
    Keeps q n (State.bindOnce s done ps h ok n').1 := by
  unfold State.bindOnce
  extract_lets -merge -useContext x8
  try clear_value x8
  refine keeps_ite_fst ?_ ?_
  · refine keeps_mk ?_
    exact keeps_State_bindConflict k2
  · refine keeps_mk ?_
    refine keeps_State_bindPages ?_
    exact keeps_State_log k2

theorem keeps_State_bindEntry {s : State} {done : List Nat} {n' : Nat} {z5 : PlanEntry} (k2 : Keeps q n s) :
    Keeps q n (State.bindEntry s done n' z5).1 := by
  unfold State.bindEntry
  extract_lets -merge -useContext x6
  try clear_value x6
  split
  · exact keeps_State_bindOnce k2
  · extract_lets -merge -useContext x7 x8
    have k9 : Keeps q n x8 := by
      unfold x8
      refine keeps_State_bindPages ?_
      exact keeps_State_log k2
    try clear_value x8 x7
    refine keeps_ite_fst ?_ ?_
    · refine keeps_mk ?_
      exact keeps_State_bindConflict k2
    · refine keeps_ite_fst ?_ ?_
      · refine keeps_mk ?_
        exact keeps_State_log k2
      · refine keeps_mk ?_
        refine keeps_State_wr ?_
        refine keeps_State_wr ?_
        exact keeps_State_wr k9
  · exact keeps_State_bindOnce k2
  · exact keeps_State_bindOnce k2
  · exact keeps_State_bindOnce k2
  · refine keeps_ite_fst ?_ (keeps_State_bindOnce k2)
    refine keeps_mk ?_
    exact keeps_State_log k2
  · exact keeps_State_bindOnce k2
  · exact keeps_State_bindOnce k2
  · refine keeps_mk ?_
    exact keeps_State_claimPin k2
  · extract_lets -merge -useContext x10 x11
    try clear_value x11 x10
    refine keeps_mk ?_
    exact keeps_State_classWrite k2
  · refine keeps_mk ?_
    exact keeps_State_fltWrite k2
  · refine keeps_mk ?_
    exact keeps_State_pageWrite k2
  · refine keeps_mk ?_
    exact keeps_State_wr k2
  · refine keeps_mk ?_
    exact k2
  · refine keeps_mk ?_
    exact k2
  · refine keeps_mk ?_
    exact k2

theorem keeps_State_raiseAcct {s : State} {a : Nat} (k2 : Keeps q n s) :
    Keeps q n (State.raiseAcct s a) := by
  unfold State.raiseAcct
  refine keeps_State_moveState ?_
  refine keeps_State_log ?_
  exact keeps_State_log k2

theorem keeps_State_applyPlan {s : State} {pl : Plan} (k2 : Keeps q n s) :
    Keeps q n (State.applyPlan s pl) := by
  unfold State.applyPlan
  extract_lets -merge -useContext x4 x5 x6
  have k7 : Keeps q n x4 := by
    unfold x4
    exact keeps_State_wr k2
  have k8 : Keeps q n x5 := by
    unfold x5
    refine keeps_State_wr ?_
    exact keeps_State_wr k7
  have k9 : Keeps q n x6 := by
    unfold x6
    refine keeps_foldl ?_ ?_
    · exact k8
    · intro t10 i11 k12
      exact keeps_State_setOwner k12
  try clear_value x6 x5 x4
  split
  rename_i v13 v14 e15
  have k16 : Keeps q n v13 := keeps_fst e15 (by
      refine keeps_foldl_fst ?_ ?_
      · refine keeps_mk ?_
        exact k9
      · intro t17 i18 k19
        exact keeps_State_bindEntry k19
    )
  extract_lets -merge -useContext x20 x21 x22 x23
  have k24 : Keeps q n x20 := by
    unfold x20
    exact keeps_ite (keeps_State_memCtrlWrite k16) k16
  have k25 : Keeps q n x21 := by
    unfold x21
    refine keeps_State_syncFaults ?_
    exact keeps_State_wr k24
  have k26 : Keeps q n x22 := by
    unfold x22
    refine keeps_foldl ?_ ?_
    · exact k25
    · intro t27 i28 k29
      exact keeps_State_raiseAcct k29
  have k30 : Keeps q n x23 := by
    unfold x23
    refine keeps_foldl ?_ ?_
    · exact k26
    · intro t31 i32 k33
      exact keeps_State_syncSlots k33
  try clear_value x23 x22 x21 x20
  exact keeps_State_syncVaultSpace k30

theorem keeps_State_planGrant {s : State} {a : Nat} {kind : Nat} {words : List Word} {n' : Nat} (k2 : Keeps q n s) :
    Keeps q n (State.planGrant s a kind words n') := by
  unfold State.planGrant
  extract_lets -merge -useContext x7
  try clear_value x7
  refine keeps_ite (keeps_State_bindConflict k2) ?_
  refine keeps_State_grantDone ?_
  refine keeps_State_applyGrant ?_
  exact keeps_State_log k2

theorem keeps_State_applyWorlds {s : State} {pl : Plan} (k2 : Keeps q n s) :
    Keeps q n (State.applyWorlds s pl) := by
  have region : ∀ {u : State} {v : Bool} {b k : Nat} {t : Bool} {o : State}, Keeps q n u → Keeps q n o →
      Keeps q n ((u.worldRegion v b k t).getD o) := by
    intro u v b k t o ku ko
    cases e : u.worldRegion v b k t with
    | none => exact ko
    | some w => exact keeps_State_worldRegion ku w e
  unfold State.applyWorlds
  extract_lets x4 x5 x6 x7
  have k8 : Keeps q n x5 := keeps_foldl k2 fun u e ku => region ku ku
  have k12 : Keeps q n x6 := by
    refine keeps_foldl k8 fun u e ku => ?_
    split
    · split
      · exact keeps_State_worldRegion ku _ ‹_›
      · exact keeps_State_bindConflict ku
    · exact ku
  have k16 : Keeps q n x7 := by
    refine keeps_foldl k12 fun u e ku => ?_
    split
    · exact keeps_ite { ku with } (keeps_State_planGrant ku)
    · exact ku
  exact keeps_State_wr (keeps_State_wr k16)

theorem keeps_State_bootCommit {s : State} {a : Nat} (k2 : Keeps q n s) :
    Keeps q n (State.bootCommit s a) := by
  unfold State.bootCommit
  extract_lets -merge -useContext x4 x5
  try clear_value x5 x4
  refine keeps_State_wr ?_
  exact keeps_State_log k2

theorem keeps_State_earlyOutput {s : State} {o : Nat} {regs : List (Nat × Word)} {pl : List (Nat × Word)} {fallback : Word} {image : List Byte} (k2 : Keeps q n s) :
    Keeps q n (State.earlyOutput s o regs pl fallback image) := by
  unfold State.earlyOutput
  extract_lets -merge -useContext x8 x9 x10 x11 x12 x13 x14 x15 x16 x17 x18
  have k19 : Keeps q n x9 := by
    unfold x9
    exact keeps_State_storeVault k2
  have k20 : Keeps q n x10 := by
    unfold x10
    refine keeps_foldl ?_ ?_
    · exact k19
    · intro t21 i22 k23
      exact keeps_State_pageWrite k23
  have k24 : Keeps q n x11 := by
    unfold x11
    exact keeps_State_pageWrite k20
  have k25 : Keeps q n x16 := by
    unfold x16
    refine keeps_ite ?_ k24
    refine keeps_State_afterApply ?_
    refine keeps_State_applyVals ?_
    refine keeps_foldl ?_ ?_
    · exact k24
    · intro t26 i27 k28
      exact keeps_State_bootCommit k28
  have k29 : Keeps q n x17 := by
    unfold x17
    refine keeps_foldl ?_ ?_
    · exact k25
    · intro t30 i31 k32
      exact keeps_State_pageWrite k32
  have k33 : Keeps q n x18 := by
    unfold x18
    exact keeps_State_lnkWrite k29
  try clear_value x18 x17 x16 x15 x14 x13 x12 x11 x10 x9 x8
  exact keeps_State_timField k33

theorem keeps_State_startLedger {s : State} {former : Nat} (k2 : Keeps q n s) :
    Keeps q n (State.startLedger s former) := by
  unfold State.startLedger
  extract_lets -merge -useContext x4 x5 x6 x7 x8 x9
  have k10 : Keeps q n x9 := by
    unfold x9
    exact { k2 with }
  try clear_value x9 x8 x6 x5 x4
  refine keeps_State_settle ?_
  exact keeps_State_appendAll k10

theorem keeps_State_readOtp {s : State} {bad : Bool} (k2 : Keeps q n s) :
    Keeps q n (State.readOtp s bad) := by
  unfold State.readOtp
  split
  rename_i v4 v5 e6
  have k7 : Keeps q n v4 := keeps_fst e6 (by
      exact keeps_State_useInject k2
    )
  exact keeps_ite (keeps_State_fault k7) k7

theorem keeps_State_bootFails {s : State} {result : Nat} (k2 : Keeps q n s) :
    Keeps q n (State.bootFails s result) := by
  unfold State.bootFails
  extract_lets -merge -useContext x4 x5 x6
  have k7 : Keeps q n x4 := by
    unfold x4
    exact keeps_State_wr k2
  have k8 : Keeps q n x5 := by
    unfold x5
    refine keeps_State_setOwner ?_
    exact keeps_State_setOwner k7
  try clear_value x6 x5 x4
  exact { k8 with }

theorem keeps_State_bootOn {s : State} {b : BootInput} {former : Nat} (k2 : Keeps q n s) :
    Keeps q n (State.bootOn s b former) := by
  unfold State.bootOn
  extract_lets -merge -useContext x5 x6
  try clear_value x6 x5
  split
  extract_lets -merge -useContext x7 x8 x9 x10 x11 x12
  have k13 : Keeps q n x7 := by
    unfold x7
    refine keeps_State_setStage ?_
    refine keeps_State_wr ?_
    exact keeps_State_applyPlan k2
  have k14 : Keeps q n x8 := by
    unfold x8
    refine keeps_State_setStage ?_
    exact keeps_State_applyWorlds k13
  have k15 : Keeps q n x9 := by
    unfold x9
    exact keeps_State_wr k14
  have k16 : Keeps q n x10 := by
    unfold x10
    refine keeps_foldl ?_ ?_
    · exact k15
    · intro t17 i18 k19
      split
      · exact keeps_State_earlyOutput k19
      · exact k19
  have k20 : Keeps q n x11 := by
    unfold x11
    refine keeps_ite k16 ?_
    refine keeps_foldl ?_ ?_
    · exact k16
    · intro t21 i22 k23
      exact keeps_State_setReg k23
  have k24 : Keeps q n x12 := by
    unfold x12
    exact keeps_State_pageCtrlWrite k20
  try clear_value x12 x11 x10 x9 x8 x7
  refine keeps_State_setStage ?_
  refine keeps_State_startLedger ?_
  exact keeps_State_setStage k24

theorem keeps_execCustodianBoot {b : BootInput} {s : State} (k3 : Keeps q n s) :
    ∀ t, (execCustodianBoot b s) = .next t → Keeps q n t := by
  unfold execCustodianBoot
  intro t e
  split at e
  · cases e
  · injection e with e
    subst e
    refine keeps_ite k3 ?_
    refine keeps_ite ?_ ?_
    · refine keeps_ite k3 ?_
      have kb : Keeps q n ((s.readOtp b.otpBad).measure b) := keeps_State_measure (keeps_State_readOtp k3)
      exact keeps_ite kb (keeps_State_bootOn kb)
    · split
      · exact keeps_State_bootFails k3
      · extract_lets x1 x2 xb x3
        have k1 : Keeps q n x2 := keeps_State_wr (keeps_State_wr (keeps_State_wr k3))
        have k2 : Keeps q n x3 := { k1 with }
        clear_value x3 x2
        have kl := keeps_State_bootLifecycle (record := b.record) (cut := b.cut) (keeps_State_readOtp (bad := b.otpBad) k2)
        split <;> rename_i e <;> rw [e] at kl
        · exact kl
        · extract_lets x4
          have k4 : Keeps q n x4 := keeps_State_measure (keeps_State_setStage kl)
          clear_value x4
          exact keeps_ite { k4 with } (keeps_ite k4 (keeps_State_bootOn k4))

theorem keeps_State_zeroEcc {s : State} (k2 : Keeps q n s) :
    Keeps q n (State.zeroEcc s) := by
  unfold State.zeroEcc
  extract_lets -merge -useContext x3 x4
  refine { k2 with dram := ?_ }
  refine Tbl.wf_of_pairwise (List.Pairwise.filter _ (Tbl.pairwise_of_wf k2.dram)) ?_
  intro e he
  obtain ⟨he, hi⟩ := List.mem_filter.1 he
  have hs := Tbl.ne_of_wf k2.dram e he
  have hn : (x3.find? fun r => decide (r.1 ≤ e.1 ∧ e.1 < r.1 + r.2)) = none := by
    rw [List.find?_eq_none]
    intro r hr hd
    have hx : x4 e.1 = true := List.any_eq_true.2 ⟨r, hr, hd⟩
    simp [hx] at hi
  unfold dramEmpty
  rw [List.find?_append, hn, Option.none_or]
  exact hs

theorem keeps_State_compatGrant {s : State} {kind : Nat} {ws : List Nat} (k2 : Keeps q n s) :
    Keeps q n (State.compatGrant s kind ws) := by
  unfold State.compatGrant
  refine keeps_State_grantDone ?_
  refine keeps_State_applyGrant ?_
  exact keeps_State_log k2

theorem keeps_State_compatAccount {s : State} (k2 : Keeps q n s) :
    Keeps q n (State.compatAccount s) := by
  unfold State.compatAccount
  extract_lets -merge -useContext x3 x4 x5 x6 x7
  have k8 : Keeps q n x3 := by
    unfold x3
    refine keeps_State_moveState ?_
    refine keeps_State_genDone ?_
    refine keeps_State_becomeLegacy ?_
    exact keeps_State_log k2
  have k9 : Keeps q n x4 := by
    unfold x4
    refine keeps_State_compatGrant ?_
    refine keeps_State_compatGrant ?_
    refine keeps_State_compatGrant ?_
    exact keeps_State_compatGrant k8
  have k10 : Keeps q n x5 := by
    unfold x5
    refine keeps_State_compatGrant ?_
    exact keeps_State_compatGrant k9
  have k11 : Keeps q n x6 := by
    unfold x6
    exact keeps_State_compatGrant k10
  have k12 : Keeps q n x7 := by
    unfold x7
    refine keeps_foldl ?_ ?_
    · exact k11
    · intro t13 i14 k15
      extract_lets -merge -useContext x16
      try clear_value x16
      exact keeps_State_compatGrant k15
  try clear_value x7 x6 x5 x4 x3
  refine keeps_State_genDone ?_
  refine keeps_State_moveState ?_
  refine keeps_State_log ?_
  exact keeps_State_moveState k12

theorem keeps_State_managerWork {s : State} (k2 : Keeps q n s) :
    Keeps q n (State.managerWork s) := by
  unfold State.managerWork
  extract_lets -merge -useContext x3 x4 x5 x6 x7
  have k8 : Keeps q n x3 := by
    unfold x3
    exact keeps_ite (keeps_State_zeroEcc k2) k2
  have k9 : Keeps q n x4 := by
    unfold x4
    refine keeps_foldl ?_ ?_
    · exact k8
    · intro t10 i11 k12
      exact keeps_State_pageCtrlWrite k12
  have k13 : Keeps q n x5 := by
    unfold x5
    refine keeps_foldl ?_ ?_
    · exact k9
    · intro t14 i15 k16
      exact keeps_State_planGrant k16
  have k17 : Keeps q n x6 := by
    unfold x6
    refine keeps_foldl ?_ ?_
    · exact k13
    · intro t18 i19 k20
      exact keeps_State_raiseAcct k20
  have k21 : Keeps q n x7 := by
    unfold x7
    exact keeps_ite (keeps_State_compatAccount k17) k17
  try clear_value x7 x6 x5 x4 x3
  refine keeps_foldl ?_ ?_
  · exact k21
  · intro t22 i23 k24
    exact keeps_State_syncBook k24

theorem keeps_State_managerDone {s : State} (k2 : Keeps q n s) :
    Keeps q n (State.managerDone s) := by
  unfold State.managerDone
  extract_lets -merge -useContext x3 x4
  have k5 : Keeps q n x3 := by
    unfold x3
    exact keeps_State_setStage k2
  try clear_value x4 x3
  exact { k5 with }

theorem keeps_execManagerRelease {s : State} (k2 : Keeps q n s) :
    ∀ t, (execManagerRelease s) = .next t → Keeps q n t := by
  unfold execManagerRelease
  intro t e
  injection e with e
  subst e
  refine keeps_ite k2 ?_
  refine keeps_State_managerDone ?_
  exact keeps_State_managerWork k2

end Sys2Proof.Machine
end

