-- ==== Sys2Proof/Laws/State.lean ====
section
/-! SUPPORT. What each update of the state leaves of every field it does not write, and what a read after it gives. -/

namespace Sys2Proof.Machine

variable {s : State}

@[simp] theorem State.setReg_now (k : Nat) (v : Word) : (s.setReg k v).now = s.now := rfl
@[simp] theorem State.setReg_applied (k : Nat) (v : Word) : (s.setReg k v).applied = s.applied := rfl
@[simp] theorem State.setReg_tally (k : Nat) (v : Word) : (s.setReg k v).tally = s.tally := rfl
@[simp] theorem State.setReg_levels (k : Nat) (v : Word) : (s.setReg k v).levels = s.levels := rfl
@[simp] theorem State.setReg_pwt (k : Nat) (v : Word) : (s.setReg k v).pwt = s.pwt := rfl
@[simp] theorem State.setReg_fresh (k : Nat) (v : Word) : (s.setReg k v).fresh = s.fresh := rfl
@[simp] theorem State.setReg_dram (k : Nat) (v : Word) : (s.setReg k v).dram = s.dram := rfl
@[simp] theorem State.setReg_zeroed (k : Nat) (v : Word) : (s.setReg k v).zeroed = s.zeroed := rfl
@[simp] theorem State.setReg_vault (k : Nat) (v : Word) : (s.setReg k v).vault = s.vault := rfl
@[simp] theorem State.setReg_led (k : Nat) (v : Word) : (s.setReg k v).led = s.led := rfl
@[simp] theorem State.setReg_accts (k : Nat) (v : Word) : (s.setReg k v).accts = s.accts := rfl
@[simp] theorem State.setReg_queues (k : Nat) (v : Word) : (s.setReg k v).queues = s.queues := rfl
@[simp] theorem State.setReg_subPool (k : Nat) (v : Word) : (s.setReg k v).subPool = s.subPool := rfl
@[simp] theorem State.setReg_engines (k : Nat) (v : Word) : (s.setReg k v).engines = s.engines := rfl
@[simp] theorem State.setReg_jobs (k : Nat) (v : Word) : (s.setReg k v).jobs = s.jobs := rfl
@[simp] theorem State.setReg_safes (k : Nat) (v : Word) : (s.setReg k v).safes = s.safes := rfl
@[simp] theorem State.setReg_dropped (k : Nat) (v : Word) : (s.setReg k v).dropped = s.dropped := rfl
@[simp] theorem State.setReg_commits (k : Nat) (v : Word) : (s.setReg k v).commits = s.commits := rfl
@[simp] theorem State.setReg_heldSyn (k : Nat) (v : Word) : (s.setReg k v).heldSyn = s.heldSyn := rfl
@[simp] theorem State.setReg_waits (k : Nat) (v : Word) : (s.setReg k v).waits = s.waits := rfl
@[simp] theorem State.setReg_orders (k : Nat) (v : Word) : (s.setReg k v).orders = s.orders := rfl
@[simp] theorem State.setReg_routines (k : Nat) (v : Word) : (s.setReg k v).routines = s.routines := rfl
@[simp] theorem State.setReg_outs (k : Nat) (v : Word) : (s.setReg k v).outs = s.outs := rfl
@[simp] theorem State.setReg_cheques (k : Nat) (v : Word) : (s.setReg k v).cheques = s.cheques := rfl
@[simp] theorem State.setReg_presses (k : Nat) (v : Word) : (s.setReg k v).presses = s.presses := rfl
@[simp] theorem State.setReg_mints (k : Nat) (v : Word) : (s.setReg k v).mints = s.mints := rfl
@[simp] theorem State.setReg_nextCheque (k : Nat) (v : Word) : (s.setReg k v).nextCheque = s.nextCheque := rfl
@[simp] theorem State.setReg_seq (k : Nat) (v : Word) : (s.setReg k v).seq = s.seq := rfl
@[simp] theorem State.setReg_avs (k : Nat) (v : Word) : (s.setReg k v).avs = s.avs := rfl
@[simp] theorem State.setReg_mem (k : Nat) (v : Word) : (s.setReg k v).mem = s.mem := rfl
@[simp] theorem State.setReg_caps (k : Nat) (v : Word) : (s.setReg k v).caps = s.caps := rfl
@[simp] theorem State.setReg_link (k : Nat) (v : Word) : (s.setReg k v).link = s.link := rfl
@[simp] theorem State.setReg_ports (k : Nat) (v : Word) : (s.setReg k v).ports = s.ports := rfl
@[simp] theorem State.setReg_flt (k : Nat) (v : Word) : (s.setReg k v).flt = s.flt := rfl
@[simp] theorem State.setReg_blanked (k : Nat) (v : Word) : (s.setReg k v).blanked = s.blanked := rfl
@[simp] theorem State.setReg_checks (k : Nat) (v : Word) : (s.setReg k v).checks = s.checks := rfl
@[simp] theorem State.setReg_luts (k : Nat) (v : Word) : (s.setReg k v).luts = s.luts := rfl
@[simp] theorem State.setReg_readyAt (k : Nat) (v : Word) : (s.setReg k v).readyAt = s.readyAt := rfl
@[simp] theorem State.setReg_written (k : Nat) (v : Word) : (s.setReg k v).written = s.written := rfl
@[simp] theorem State.setReg_loads (k : Nat) (v : Word) : (s.setReg k v).loads = s.loads := rfl
@[simp] theorem State.setReg_haps (k : Nat) (v : Word) : (s.setReg k v).haps = s.haps := rfl
@[simp] theorem State.setReg_touches (k : Nat) (v : Word) : (s.setReg k v).touches = s.touches := rfl
@[simp] theorem State.setReg_audio (k : Nat) (v : Word) : (s.setReg k v).audio = s.audio := rfl
@[simp] theorem State.setReg_boot (k : Nat) (v : Word) : (s.setReg k v).boot = s.boot := rfl
@[simp] theorem State.setReg_subRegions (k : Nat) (v : Word) : (s.setReg k v).subRegions = s.subRegions := rfl
@[simp] theorem State.setReg_subSlots (k : Nat) (v : Word) : (s.setReg k v).subSlots = s.subSlots := rfl
@[simp] theorem State.setReg_ticked (k : Nat) (v : Word) : (s.setReg k v).ticked = s.ticked := rfl
@[simp] theorem State.setReg_legs (k : Nat) (v : Word) : (s.setReg k v).legs = s.legs := rfl
@[simp] theorem State.setReg_errOwed (k : Nat) (v : Word) : (s.setReg k v).errOwed = s.errOwed := rfl
@[simp] theorem State.setReg_resp (k : Nat) (v : Word) : (s.setReg k v).resp = s.resp := rfl
@[simp] theorem State.setReg_pending (k : Nat) (v : Word) : (s.setReg k v).pending = s.pending := rfl

@[simp] theorem State.wr_now (p : Nat) (f : Fld) (v i : Nat) : (s.wr p f v i).now = s.now := rfl
@[simp] theorem State.wr_applied (p : Nat) (f : Fld) (v i : Nat) : (s.wr p f v i).applied = s.applied := rfl
@[simp] theorem State.wr_tally (p : Nat) (f : Fld) (v i : Nat) : (s.wr p f v i).tally = s.tally := rfl
@[simp] theorem State.wr_levels (p : Nat) (f : Fld) (v i : Nat) : (s.wr p f v i).levels = s.levels := rfl
@[simp] theorem State.wr_pwt (p : Nat) (f : Fld) (v i : Nat) : (s.wr p f v i).pwt = s.pwt := rfl
@[simp] theorem State.wr_fresh (p : Nat) (f : Fld) (v i : Nat) : (s.wr p f v i).fresh = s.fresh := rfl
@[simp] theorem State.wr_dram (p : Nat) (f : Fld) (v i : Nat) : (s.wr p f v i).dram = s.dram := rfl
@[simp] theorem State.wr_zeroed (p : Nat) (f : Fld) (v i : Nat) : (s.wr p f v i).zeroed = s.zeroed := rfl
@[simp] theorem State.wr_vault (p : Nat) (f : Fld) (v i : Nat) : (s.wr p f v i).vault = s.vault := rfl
@[simp] theorem State.wr_led (p : Nat) (f : Fld) (v i : Nat) : (s.wr p f v i).led = s.led := rfl
@[simp] theorem State.wr_accts (p : Nat) (f : Fld) (v i : Nat) : (s.wr p f v i).accts = s.accts := rfl
@[simp] theorem State.wr_queues (p : Nat) (f : Fld) (v i : Nat) : (s.wr p f v i).queues = s.queues := rfl
@[simp] theorem State.wr_subPool (p : Nat) (f : Fld) (v i : Nat) : (s.wr p f v i).subPool = s.subPool := rfl
@[simp] theorem State.wr_engines (p : Nat) (f : Fld) (v i : Nat) : (s.wr p f v i).engines = s.engines := rfl
@[simp] theorem State.wr_jobs (p : Nat) (f : Fld) (v i : Nat) : (s.wr p f v i).jobs = s.jobs := rfl
@[simp] theorem State.wr_safes (p : Nat) (f : Fld) (v i : Nat) : (s.wr p f v i).safes = s.safes := rfl
@[simp] theorem State.wr_dropped (p : Nat) (f : Fld) (v i : Nat) : (s.wr p f v i).dropped = s.dropped := rfl
@[simp] theorem State.wr_commits (p : Nat) (f : Fld) (v i : Nat) : (s.wr p f v i).commits = s.commits := rfl
@[simp] theorem State.wr_heldSyn (p : Nat) (f : Fld) (v i : Nat) : (s.wr p f v i).heldSyn = s.heldSyn := rfl
@[simp] theorem State.wr_waits (p : Nat) (f : Fld) (v i : Nat) : (s.wr p f v i).waits = s.waits := rfl
@[simp] theorem State.wr_orders (p : Nat) (f : Fld) (v i : Nat) : (s.wr p f v i).orders = s.orders := rfl
@[simp] theorem State.wr_routines (p : Nat) (f : Fld) (v i : Nat) : (s.wr p f v i).routines = s.routines := rfl
@[simp] theorem State.wr_outs (p : Nat) (f : Fld) (v i : Nat) : (s.wr p f v i).outs = s.outs := rfl
@[simp] theorem State.wr_cheques (p : Nat) (f : Fld) (v i : Nat) : (s.wr p f v i).cheques = s.cheques := rfl
@[simp] theorem State.wr_presses (p : Nat) (f : Fld) (v i : Nat) : (s.wr p f v i).presses = s.presses := rfl
@[simp] theorem State.wr_mints (p : Nat) (f : Fld) (v i : Nat) : (s.wr p f v i).mints = s.mints := rfl
@[simp] theorem State.wr_nextCheque (p : Nat) (f : Fld) (v i : Nat) : (s.wr p f v i).nextCheque = s.nextCheque := rfl
@[simp] theorem State.wr_seq (p : Nat) (f : Fld) (v i : Nat) : (s.wr p f v i).seq = s.seq := rfl
@[simp] theorem State.wr_avs (p : Nat) (f : Fld) (v i : Nat) : (s.wr p f v i).avs = s.avs := rfl
@[simp] theorem State.wr_mem (p : Nat) (f : Fld) (v i : Nat) : (s.wr p f v i).mem = s.mem := rfl
@[simp] theorem State.wr_caps (p : Nat) (f : Fld) (v i : Nat) : (s.wr p f v i).caps = s.caps := rfl
@[simp] theorem State.wr_link (p : Nat) (f : Fld) (v i : Nat) : (s.wr p f v i).link = s.link := rfl
@[simp] theorem State.wr_ports (p : Nat) (f : Fld) (v i : Nat) : (s.wr p f v i).ports = s.ports := rfl
@[simp] theorem State.wr_flt (p : Nat) (f : Fld) (v i : Nat) : (s.wr p f v i).flt = s.flt := rfl
@[simp] theorem State.wr_blanked (p : Nat) (f : Fld) (v i : Nat) : (s.wr p f v i).blanked = s.blanked := rfl
@[simp] theorem State.wr_checks (p : Nat) (f : Fld) (v i : Nat) : (s.wr p f v i).checks = s.checks := rfl
@[simp] theorem State.wr_luts (p : Nat) (f : Fld) (v i : Nat) : (s.wr p f v i).luts = s.luts := rfl
@[simp] theorem State.wr_readyAt (p : Nat) (f : Fld) (v i : Nat) : (s.wr p f v i).readyAt = s.readyAt := rfl
@[simp] theorem State.wr_written (p : Nat) (f : Fld) (v i : Nat) : (s.wr p f v i).written = s.written := rfl
@[simp] theorem State.wr_loads (p : Nat) (f : Fld) (v i : Nat) : (s.wr p f v i).loads = s.loads := rfl
@[simp] theorem State.wr_haps (p : Nat) (f : Fld) (v i : Nat) : (s.wr p f v i).haps = s.haps := rfl
@[simp] theorem State.wr_touches (p : Nat) (f : Fld) (v i : Nat) : (s.wr p f v i).touches = s.touches := rfl
@[simp] theorem State.wr_audio (p : Nat) (f : Fld) (v i : Nat) : (s.wr p f v i).audio = s.audio := rfl
@[simp] theorem State.wr_boot (p : Nat) (f : Fld) (v i : Nat) : (s.wr p f v i).boot = s.boot := rfl
@[simp] theorem State.wr_subRegions (p : Nat) (f : Fld) (v i : Nat) : (s.wr p f v i).subRegions = s.subRegions := rfl
@[simp] theorem State.wr_subSlots (p : Nat) (f : Fld) (v i : Nat) : (s.wr p f v i).subSlots = s.subSlots := rfl
@[simp] theorem State.wr_ticked (p : Nat) (f : Fld) (v i : Nat) : (s.wr p f v i).ticked = s.ticked := rfl
@[simp] theorem State.wr_legs (p : Nat) (f : Fld) (v i : Nat) : (s.wr p f v i).legs = s.legs := rfl
@[simp] theorem State.wr_errOwed (p : Nat) (f : Fld) (v i : Nat) : (s.wr p f v i).errOwed = s.errOwed := rfl
@[simp] theorem State.wr_resp (p : Nat) (f : Fld) (v i : Nat) : (s.wr p f v i).resp = s.resp := rfl
@[simp] theorem State.wr_pending (p : Nat) (f : Fld) (v i : Nat) : (s.wr p f v i).pending = s.pending := rfl

@[simp] theorem State.setAppl_now (n k : Nat) (v : Word) : (s.setAppl n k v).now = s.now := rfl
@[simp] theorem State.setAppl_regs (n k : Nat) (v : Word) : (s.setAppl n k v).regs = s.regs := rfl
@[simp] theorem State.setAppl_tally (n k : Nat) (v : Word) : (s.setAppl n k v).tally = s.tally := rfl
@[simp] theorem State.setAppl_levels (n k : Nat) (v : Word) : (s.setAppl n k v).levels = s.levels := rfl
@[simp] theorem State.setAppl_pwt (n k : Nat) (v : Word) : (s.setAppl n k v).pwt = s.pwt := rfl
@[simp] theorem State.setAppl_fresh (n k : Nat) (v : Word) : (s.setAppl n k v).fresh = s.fresh := rfl
@[simp] theorem State.setAppl_dram (n k : Nat) (v : Word) : (s.setAppl n k v).dram = s.dram := rfl
@[simp] theorem State.setAppl_zeroed (n k : Nat) (v : Word) : (s.setAppl n k v).zeroed = s.zeroed := rfl
@[simp] theorem State.setAppl_vault (n k : Nat) (v : Word) : (s.setAppl n k v).vault = s.vault := rfl
@[simp] theorem State.setAppl_led (n k : Nat) (v : Word) : (s.setAppl n k v).led = s.led := rfl
@[simp] theorem State.setAppl_accts (n k : Nat) (v : Word) : (s.setAppl n k v).accts = s.accts := rfl
@[simp] theorem State.setAppl_queues (n k : Nat) (v : Word) : (s.setAppl n k v).queues = s.queues := rfl
@[simp] theorem State.setAppl_subPool (n k : Nat) (v : Word) : (s.setAppl n k v).subPool = s.subPool := rfl
@[simp] theorem State.setAppl_engines (n k : Nat) (v : Word) : (s.setAppl n k v).engines = s.engines := rfl
@[simp] theorem State.setAppl_jobs (n k : Nat) (v : Word) : (s.setAppl n k v).jobs = s.jobs := rfl
@[simp] theorem State.setAppl_safes (n k : Nat) (v : Word) : (s.setAppl n k v).safes = s.safes := rfl
@[simp] theorem State.setAppl_dropped (n k : Nat) (v : Word) : (s.setAppl n k v).dropped = s.dropped := rfl
@[simp] theorem State.setAppl_commits (n k : Nat) (v : Word) : (s.setAppl n k v).commits = s.commits := rfl
@[simp] theorem State.setAppl_heldSyn (n k : Nat) (v : Word) : (s.setAppl n k v).heldSyn = s.heldSyn := rfl
@[simp] theorem State.setAppl_waits (n k : Nat) (v : Word) : (s.setAppl n k v).waits = s.waits := rfl
@[simp] theorem State.setAppl_orders (n k : Nat) (v : Word) : (s.setAppl n k v).orders = s.orders := rfl
@[simp] theorem State.setAppl_routines (n k : Nat) (v : Word) : (s.setAppl n k v).routines = s.routines := rfl
@[simp] theorem State.setAppl_outs (n k : Nat) (v : Word) : (s.setAppl n k v).outs = s.outs := rfl
@[simp] theorem State.setAppl_cheques (n k : Nat) (v : Word) : (s.setAppl n k v).cheques = s.cheques := rfl
@[simp] theorem State.setAppl_presses (n k : Nat) (v : Word) : (s.setAppl n k v).presses = s.presses := rfl
@[simp] theorem State.setAppl_mints (n k : Nat) (v : Word) : (s.setAppl n k v).mints = s.mints := rfl
@[simp] theorem State.setAppl_nextCheque (n k : Nat) (v : Word) : (s.setAppl n k v).nextCheque = s.nextCheque := rfl
@[simp] theorem State.setAppl_seq (n k : Nat) (v : Word) : (s.setAppl n k v).seq = s.seq := rfl
@[simp] theorem State.setAppl_avs (n k : Nat) (v : Word) : (s.setAppl n k v).avs = s.avs := rfl
@[simp] theorem State.setAppl_mem (n k : Nat) (v : Word) : (s.setAppl n k v).mem = s.mem := rfl
@[simp] theorem State.setAppl_caps (n k : Nat) (v : Word) : (s.setAppl n k v).caps = s.caps := rfl
@[simp] theorem State.setAppl_link (n k : Nat) (v : Word) : (s.setAppl n k v).link = s.link := rfl
@[simp] theorem State.setAppl_ports (n k : Nat) (v : Word) : (s.setAppl n k v).ports = s.ports := rfl
@[simp] theorem State.setAppl_flt (n k : Nat) (v : Word) : (s.setAppl n k v).flt = s.flt := rfl
@[simp] theorem State.setAppl_blanked (n k : Nat) (v : Word) : (s.setAppl n k v).blanked = s.blanked := rfl
@[simp] theorem State.setAppl_checks (n k : Nat) (v : Word) : (s.setAppl n k v).checks = s.checks := rfl
@[simp] theorem State.setAppl_luts (n k : Nat) (v : Word) : (s.setAppl n k v).luts = s.luts := rfl
@[simp] theorem State.setAppl_readyAt (n k : Nat) (v : Word) : (s.setAppl n k v).readyAt = s.readyAt := rfl
@[simp] theorem State.setAppl_written (n k : Nat) (v : Word) : (s.setAppl n k v).written = s.written := rfl
@[simp] theorem State.setAppl_loads (n k : Nat) (v : Word) : (s.setAppl n k v).loads = s.loads := rfl
@[simp] theorem State.setAppl_haps (n k : Nat) (v : Word) : (s.setAppl n k v).haps = s.haps := rfl
@[simp] theorem State.setAppl_touches (n k : Nat) (v : Word) : (s.setAppl n k v).touches = s.touches := rfl
@[simp] theorem State.setAppl_audio (n k : Nat) (v : Word) : (s.setAppl n k v).audio = s.audio := rfl
@[simp] theorem State.setAppl_boot (n k : Nat) (v : Word) : (s.setAppl n k v).boot = s.boot := rfl
@[simp] theorem State.setAppl_subRegions (n k : Nat) (v : Word) : (s.setAppl n k v).subRegions = s.subRegions := rfl
@[simp] theorem State.setAppl_subSlots (n k : Nat) (v : Word) : (s.setAppl n k v).subSlots = s.subSlots := rfl
@[simp] theorem State.setAppl_ticked (n k : Nat) (v : Word) : (s.setAppl n k v).ticked = s.ticked := rfl
@[simp] theorem State.setAppl_legs (n k : Nat) (v : Word) : (s.setAppl n k v).legs = s.legs := rfl
@[simp] theorem State.setAppl_errOwed (n k : Nat) (v : Word) : (s.setAppl n k v).errOwed = s.errOwed := rfl
@[simp] theorem State.setAppl_resp (n k : Nat) (v : Word) : (s.setAppl n k v).resp = s.resp := rfl
@[simp] theorem State.setAppl_pending (n k : Nat) (v : Word) : (s.setAppl n k v).pending = s.pending := rfl

@[simp] theorem State.wrA_now (n p : Nat) (f : Fld) (v i : Nat) : (s.wrA n p f v i).now = s.now := rfl
@[simp] theorem State.wrA_regs (n p : Nat) (f : Fld) (v i : Nat) : (s.wrA n p f v i).regs = s.regs := rfl
@[simp] theorem State.wrA_tally (n p : Nat) (f : Fld) (v i : Nat) : (s.wrA n p f v i).tally = s.tally := rfl
@[simp] theorem State.wrA_levels (n p : Nat) (f : Fld) (v i : Nat) : (s.wrA n p f v i).levels = s.levels := rfl
@[simp] theorem State.wrA_pwt (n p : Nat) (f : Fld) (v i : Nat) : (s.wrA n p f v i).pwt = s.pwt := rfl
@[simp] theorem State.wrA_fresh (n p : Nat) (f : Fld) (v i : Nat) : (s.wrA n p f v i).fresh = s.fresh := rfl
@[simp] theorem State.wrA_dram (n p : Nat) (f : Fld) (v i : Nat) : (s.wrA n p f v i).dram = s.dram := rfl
@[simp] theorem State.wrA_zeroed (n p : Nat) (f : Fld) (v i : Nat) : (s.wrA n p f v i).zeroed = s.zeroed := rfl
@[simp] theorem State.wrA_vault (n p : Nat) (f : Fld) (v i : Nat) : (s.wrA n p f v i).vault = s.vault := rfl
@[simp] theorem State.wrA_led (n p : Nat) (f : Fld) (v i : Nat) : (s.wrA n p f v i).led = s.led := rfl
@[simp] theorem State.wrA_accts (n p : Nat) (f : Fld) (v i : Nat) : (s.wrA n p f v i).accts = s.accts := rfl
@[simp] theorem State.wrA_queues (n p : Nat) (f : Fld) (v i : Nat) : (s.wrA n p f v i).queues = s.queues := rfl
@[simp] theorem State.wrA_subPool (n p : Nat) (f : Fld) (v i : Nat) : (s.wrA n p f v i).subPool = s.subPool := rfl
@[simp] theorem State.wrA_engines (n p : Nat) (f : Fld) (v i : Nat) : (s.wrA n p f v i).engines = s.engines := rfl
@[simp] theorem State.wrA_jobs (n p : Nat) (f : Fld) (v i : Nat) : (s.wrA n p f v i).jobs = s.jobs := rfl
@[simp] theorem State.wrA_safes (n p : Nat) (f : Fld) (v i : Nat) : (s.wrA n p f v i).safes = s.safes := rfl
@[simp] theorem State.wrA_dropped (n p : Nat) (f : Fld) (v i : Nat) : (s.wrA n p f v i).dropped = s.dropped := rfl
@[simp] theorem State.wrA_commits (n p : Nat) (f : Fld) (v i : Nat) : (s.wrA n p f v i).commits = s.commits := rfl
@[simp] theorem State.wrA_heldSyn (n p : Nat) (f : Fld) (v i : Nat) : (s.wrA n p f v i).heldSyn = s.heldSyn := rfl
@[simp] theorem State.wrA_waits (n p : Nat) (f : Fld) (v i : Nat) : (s.wrA n p f v i).waits = s.waits := rfl
@[simp] theorem State.wrA_orders (n p : Nat) (f : Fld) (v i : Nat) : (s.wrA n p f v i).orders = s.orders := rfl
@[simp] theorem State.wrA_routines (n p : Nat) (f : Fld) (v i : Nat) : (s.wrA n p f v i).routines = s.routines := rfl
@[simp] theorem State.wrA_outs (n p : Nat) (f : Fld) (v i : Nat) : (s.wrA n p f v i).outs = s.outs := rfl
@[simp] theorem State.wrA_cheques (n p : Nat) (f : Fld) (v i : Nat) : (s.wrA n p f v i).cheques = s.cheques := rfl
@[simp] theorem State.wrA_presses (n p : Nat) (f : Fld) (v i : Nat) : (s.wrA n p f v i).presses = s.presses := rfl
@[simp] theorem State.wrA_mints (n p : Nat) (f : Fld) (v i : Nat) : (s.wrA n p f v i).mints = s.mints := rfl
@[simp] theorem State.wrA_nextCheque (n p : Nat) (f : Fld) (v i : Nat) : (s.wrA n p f v i).nextCheque = s.nextCheque := rfl
@[simp] theorem State.wrA_seq (n p : Nat) (f : Fld) (v i : Nat) : (s.wrA n p f v i).seq = s.seq := rfl
@[simp] theorem State.wrA_avs (n p : Nat) (f : Fld) (v i : Nat) : (s.wrA n p f v i).avs = s.avs := rfl
@[simp] theorem State.wrA_mem (n p : Nat) (f : Fld) (v i : Nat) : (s.wrA n p f v i).mem = s.mem := rfl
@[simp] theorem State.wrA_caps (n p : Nat) (f : Fld) (v i : Nat) : (s.wrA n p f v i).caps = s.caps := rfl
@[simp] theorem State.wrA_link (n p : Nat) (f : Fld) (v i : Nat) : (s.wrA n p f v i).link = s.link := rfl
@[simp] theorem State.wrA_ports (n p : Nat) (f : Fld) (v i : Nat) : (s.wrA n p f v i).ports = s.ports := rfl
@[simp] theorem State.wrA_flt (n p : Nat) (f : Fld) (v i : Nat) : (s.wrA n p f v i).flt = s.flt := rfl
@[simp] theorem State.wrA_blanked (n p : Nat) (f : Fld) (v i : Nat) : (s.wrA n p f v i).blanked = s.blanked := rfl
@[simp] theorem State.wrA_checks (n p : Nat) (f : Fld) (v i : Nat) : (s.wrA n p f v i).checks = s.checks := rfl
@[simp] theorem State.wrA_luts (n p : Nat) (f : Fld) (v i : Nat) : (s.wrA n p f v i).luts = s.luts := rfl
@[simp] theorem State.wrA_readyAt (n p : Nat) (f : Fld) (v i : Nat) : (s.wrA n p f v i).readyAt = s.readyAt := rfl
@[simp] theorem State.wrA_written (n p : Nat) (f : Fld) (v i : Nat) : (s.wrA n p f v i).written = s.written := rfl
@[simp] theorem State.wrA_loads (n p : Nat) (f : Fld) (v i : Nat) : (s.wrA n p f v i).loads = s.loads := rfl
@[simp] theorem State.wrA_haps (n p : Nat) (f : Fld) (v i : Nat) : (s.wrA n p f v i).haps = s.haps := rfl
@[simp] theorem State.wrA_touches (n p : Nat) (f : Fld) (v i : Nat) : (s.wrA n p f v i).touches = s.touches := rfl
@[simp] theorem State.wrA_audio (n p : Nat) (f : Fld) (v i : Nat) : (s.wrA n p f v i).audio = s.audio := rfl
@[simp] theorem State.wrA_boot (n p : Nat) (f : Fld) (v i : Nat) : (s.wrA n p f v i).boot = s.boot := rfl
@[simp] theorem State.wrA_subRegions (n p : Nat) (f : Fld) (v i : Nat) : (s.wrA n p f v i).subRegions = s.subRegions := rfl
@[simp] theorem State.wrA_subSlots (n p : Nat) (f : Fld) (v i : Nat) : (s.wrA n p f v i).subSlots = s.subSlots := rfl
@[simp] theorem State.wrA_ticked (n p : Nat) (f : Fld) (v i : Nat) : (s.wrA n p f v i).ticked = s.ticked := rfl
@[simp] theorem State.wrA_legs (n p : Nat) (f : Fld) (v i : Nat) : (s.wrA n p f v i).legs = s.legs := rfl
@[simp] theorem State.wrA_errOwed (n p : Nat) (f : Fld) (v i : Nat) : (s.wrA n p f v i).errOwed = s.errOwed := rfl
@[simp] theorem State.wrA_resp (n p : Nat) (f : Fld) (v i : Nat) : (s.wrA n p f v i).resp = s.resp := rfl
@[simp] theorem State.wrA_pending (n p : Nat) (f : Fld) (v i : Nat) : (s.wrA n p f v i).pending = s.pending := rfl

@[simp] theorem State.setAcct_now (a : Nat) (v : AcctS) : (s.setAcct a v).now = s.now := rfl
@[simp] theorem State.setAcct_regs (a : Nat) (v : AcctS) : (s.setAcct a v).regs = s.regs := rfl
@[simp] theorem State.setAcct_applied (a : Nat) (v : AcctS) : (s.setAcct a v).applied = s.applied := rfl
@[simp] theorem State.setAcct_tally (a : Nat) (v : AcctS) : (s.setAcct a v).tally = s.tally := rfl
@[simp] theorem State.setAcct_levels (a : Nat) (v : AcctS) : (s.setAcct a v).levels = s.levels := rfl
@[simp] theorem State.setAcct_pwt (a : Nat) (v : AcctS) : (s.setAcct a v).pwt = s.pwt := rfl
@[simp] theorem State.setAcct_fresh (a : Nat) (v : AcctS) : (s.setAcct a v).fresh = s.fresh := rfl
@[simp] theorem State.setAcct_dram (a : Nat) (v : AcctS) : (s.setAcct a v).dram = s.dram := rfl
@[simp] theorem State.setAcct_zeroed (a : Nat) (v : AcctS) : (s.setAcct a v).zeroed = s.zeroed := rfl
@[simp] theorem State.setAcct_vault (a : Nat) (v : AcctS) : (s.setAcct a v).vault = s.vault := rfl
@[simp] theorem State.setAcct_led (a : Nat) (v : AcctS) : (s.setAcct a v).led = s.led := rfl
@[simp] theorem State.setAcct_queues (a : Nat) (v : AcctS) : (s.setAcct a v).queues = s.queues := rfl
@[simp] theorem State.setAcct_subPool (a : Nat) (v : AcctS) : (s.setAcct a v).subPool = s.subPool := rfl
@[simp] theorem State.setAcct_engines (a : Nat) (v : AcctS) : (s.setAcct a v).engines = s.engines := rfl
@[simp] theorem State.setAcct_jobs (a : Nat) (v : AcctS) : (s.setAcct a v).jobs = s.jobs := rfl
@[simp] theorem State.setAcct_safes (a : Nat) (v : AcctS) : (s.setAcct a v).safes = s.safes := rfl
@[simp] theorem State.setAcct_dropped (a : Nat) (v : AcctS) : (s.setAcct a v).dropped = s.dropped := rfl
@[simp] theorem State.setAcct_commits (a : Nat) (v : AcctS) : (s.setAcct a v).commits = s.commits := rfl
@[simp] theorem State.setAcct_heldSyn (a : Nat) (v : AcctS) : (s.setAcct a v).heldSyn = s.heldSyn := rfl
@[simp] theorem State.setAcct_waits (a : Nat) (v : AcctS) : (s.setAcct a v).waits = s.waits := rfl
@[simp] theorem State.setAcct_orders (a : Nat) (v : AcctS) : (s.setAcct a v).orders = s.orders := rfl
@[simp] theorem State.setAcct_routines (a : Nat) (v : AcctS) : (s.setAcct a v).routines = s.routines := rfl
@[simp] theorem State.setAcct_outs (a : Nat) (v : AcctS) : (s.setAcct a v).outs = s.outs := rfl
@[simp] theorem State.setAcct_cheques (a : Nat) (v : AcctS) : (s.setAcct a v).cheques = s.cheques := rfl
@[simp] theorem State.setAcct_presses (a : Nat) (v : AcctS) : (s.setAcct a v).presses = s.presses := rfl
@[simp] theorem State.setAcct_mints (a : Nat) (v : AcctS) : (s.setAcct a v).mints = s.mints := rfl
@[simp] theorem State.setAcct_nextCheque (a : Nat) (v : AcctS) : (s.setAcct a v).nextCheque = s.nextCheque := rfl
@[simp] theorem State.setAcct_seq (a : Nat) (v : AcctS) : (s.setAcct a v).seq = s.seq := rfl
@[simp] theorem State.setAcct_avs (a : Nat) (v : AcctS) : (s.setAcct a v).avs = s.avs := rfl
@[simp] theorem State.setAcct_mem (a : Nat) (v : AcctS) : (s.setAcct a v).mem = s.mem := rfl
@[simp] theorem State.setAcct_caps (a : Nat) (v : AcctS) : (s.setAcct a v).caps = s.caps := rfl
@[simp] theorem State.setAcct_link (a : Nat) (v : AcctS) : (s.setAcct a v).link = s.link := rfl
@[simp] theorem State.setAcct_ports (a : Nat) (v : AcctS) : (s.setAcct a v).ports = s.ports := rfl
@[simp] theorem State.setAcct_flt (a : Nat) (v : AcctS) : (s.setAcct a v).flt = s.flt := rfl
@[simp] theorem State.setAcct_blanked (a : Nat) (v : AcctS) : (s.setAcct a v).blanked = s.blanked := rfl
@[simp] theorem State.setAcct_checks (a : Nat) (v : AcctS) : (s.setAcct a v).checks = s.checks := rfl
@[simp] theorem State.setAcct_luts (a : Nat) (v : AcctS) : (s.setAcct a v).luts = s.luts := rfl
@[simp] theorem State.setAcct_readyAt (a : Nat) (v : AcctS) : (s.setAcct a v).readyAt = s.readyAt := rfl
@[simp] theorem State.setAcct_written (a : Nat) (v : AcctS) : (s.setAcct a v).written = s.written := rfl
@[simp] theorem State.setAcct_loads (a : Nat) (v : AcctS) : (s.setAcct a v).loads = s.loads := rfl
@[simp] theorem State.setAcct_haps (a : Nat) (v : AcctS) : (s.setAcct a v).haps = s.haps := rfl
@[simp] theorem State.setAcct_touches (a : Nat) (v : AcctS) : (s.setAcct a v).touches = s.touches := rfl
@[simp] theorem State.setAcct_audio (a : Nat) (v : AcctS) : (s.setAcct a v).audio = s.audio := rfl
@[simp] theorem State.setAcct_boot (a : Nat) (v : AcctS) : (s.setAcct a v).boot = s.boot := rfl
@[simp] theorem State.setAcct_subRegions (a : Nat) (v : AcctS) : (s.setAcct a v).subRegions = s.subRegions := rfl
@[simp] theorem State.setAcct_subSlots (a : Nat) (v : AcctS) : (s.setAcct a v).subSlots = s.subSlots := rfl
@[simp] theorem State.setAcct_ticked (a : Nat) (v : AcctS) : (s.setAcct a v).ticked = s.ticked := rfl
@[simp] theorem State.setAcct_legs (a : Nat) (v : AcctS) : (s.setAcct a v).legs = s.legs := rfl
@[simp] theorem State.setAcct_errOwed (a : Nat) (v : AcctS) : (s.setAcct a v).errOwed = s.errOwed := rfl
@[simp] theorem State.setAcct_resp (a : Nat) (v : AcctS) : (s.setAcct a v).resp = s.resp := rfl
@[simp] theorem State.setAcct_pending (a : Nat) (v : AcctS) : (s.setAcct a v).pending = s.pending := rfl

@[simp] theorem State.setQueue_now (k : Nat) (v : QueueS) : (s.setQueue k v).now = s.now := rfl
@[simp] theorem State.setQueue_regs (k : Nat) (v : QueueS) : (s.setQueue k v).regs = s.regs := rfl
@[simp] theorem State.setQueue_applied (k : Nat) (v : QueueS) : (s.setQueue k v).applied = s.applied := rfl
@[simp] theorem State.setQueue_tally (k : Nat) (v : QueueS) : (s.setQueue k v).tally = s.tally := rfl
@[simp] theorem State.setQueue_levels (k : Nat) (v : QueueS) : (s.setQueue k v).levels = s.levels := rfl
@[simp] theorem State.setQueue_pwt (k : Nat) (v : QueueS) : (s.setQueue k v).pwt = s.pwt := rfl
@[simp] theorem State.setQueue_fresh (k : Nat) (v : QueueS) : (s.setQueue k v).fresh = s.fresh := rfl
@[simp] theorem State.setQueue_dram (k : Nat) (v : QueueS) : (s.setQueue k v).dram = s.dram := rfl
@[simp] theorem State.setQueue_zeroed (k : Nat) (v : QueueS) : (s.setQueue k v).zeroed = s.zeroed := rfl
@[simp] theorem State.setQueue_vault (k : Nat) (v : QueueS) : (s.setQueue k v).vault = s.vault := rfl
@[simp] theorem State.setQueue_led (k : Nat) (v : QueueS) : (s.setQueue k v).led = s.led := rfl
@[simp] theorem State.setQueue_accts (k : Nat) (v : QueueS) : (s.setQueue k v).accts = s.accts := rfl
@[simp] theorem State.setQueue_subPool (k : Nat) (v : QueueS) : (s.setQueue k v).subPool = s.subPool := rfl
@[simp] theorem State.setQueue_engines (k : Nat) (v : QueueS) : (s.setQueue k v).engines = s.engines := rfl
@[simp] theorem State.setQueue_jobs (k : Nat) (v : QueueS) : (s.setQueue k v).jobs = s.jobs := rfl
@[simp] theorem State.setQueue_safes (k : Nat) (v : QueueS) : (s.setQueue k v).safes = s.safes := rfl
@[simp] theorem State.setQueue_dropped (k : Nat) (v : QueueS) : (s.setQueue k v).dropped = s.dropped := rfl
@[simp] theorem State.setQueue_commits (k : Nat) (v : QueueS) : (s.setQueue k v).commits = s.commits := rfl
@[simp] theorem State.setQueue_heldSyn (k : Nat) (v : QueueS) : (s.setQueue k v).heldSyn = s.heldSyn := rfl
@[simp] theorem State.setQueue_waits (k : Nat) (v : QueueS) : (s.setQueue k v).waits = s.waits := rfl
@[simp] theorem State.setQueue_orders (k : Nat) (v : QueueS) : (s.setQueue k v).orders = s.orders := rfl
@[simp] theorem State.setQueue_routines (k : Nat) (v : QueueS) : (s.setQueue k v).routines = s.routines := rfl
@[simp] theorem State.setQueue_outs (k : Nat) (v : QueueS) : (s.setQueue k v).outs = s.outs := rfl
@[simp] theorem State.setQueue_cheques (k : Nat) (v : QueueS) : (s.setQueue k v).cheques = s.cheques := rfl
@[simp] theorem State.setQueue_presses (k : Nat) (v : QueueS) : (s.setQueue k v).presses = s.presses := rfl
@[simp] theorem State.setQueue_mints (k : Nat) (v : QueueS) : (s.setQueue k v).mints = s.mints := rfl
@[simp] theorem State.setQueue_nextCheque (k : Nat) (v : QueueS) : (s.setQueue k v).nextCheque = s.nextCheque := rfl
@[simp] theorem State.setQueue_seq (k : Nat) (v : QueueS) : (s.setQueue k v).seq = s.seq := rfl
@[simp] theorem State.setQueue_avs (k : Nat) (v : QueueS) : (s.setQueue k v).avs = s.avs := rfl
@[simp] theorem State.setQueue_mem (k : Nat) (v : QueueS) : (s.setQueue k v).mem = s.mem := rfl
@[simp] theorem State.setQueue_caps (k : Nat) (v : QueueS) : (s.setQueue k v).caps = s.caps := rfl
@[simp] theorem State.setQueue_link (k : Nat) (v : QueueS) : (s.setQueue k v).link = s.link := rfl
@[simp] theorem State.setQueue_ports (k : Nat) (v : QueueS) : (s.setQueue k v).ports = s.ports := rfl
@[simp] theorem State.setQueue_flt (k : Nat) (v : QueueS) : (s.setQueue k v).flt = s.flt := rfl
@[simp] theorem State.setQueue_blanked (k : Nat) (v : QueueS) : (s.setQueue k v).blanked = s.blanked := rfl
@[simp] theorem State.setQueue_checks (k : Nat) (v : QueueS) : (s.setQueue k v).checks = s.checks := rfl
@[simp] theorem State.setQueue_luts (k : Nat) (v : QueueS) : (s.setQueue k v).luts = s.luts := rfl
@[simp] theorem State.setQueue_readyAt (k : Nat) (v : QueueS) : (s.setQueue k v).readyAt = s.readyAt := rfl
@[simp] theorem State.setQueue_written (k : Nat) (v : QueueS) : (s.setQueue k v).written = s.written := rfl
@[simp] theorem State.setQueue_loads (k : Nat) (v : QueueS) : (s.setQueue k v).loads = s.loads := rfl
@[simp] theorem State.setQueue_haps (k : Nat) (v : QueueS) : (s.setQueue k v).haps = s.haps := rfl
@[simp] theorem State.setQueue_touches (k : Nat) (v : QueueS) : (s.setQueue k v).touches = s.touches := rfl
@[simp] theorem State.setQueue_audio (k : Nat) (v : QueueS) : (s.setQueue k v).audio = s.audio := rfl
@[simp] theorem State.setQueue_boot (k : Nat) (v : QueueS) : (s.setQueue k v).boot = s.boot := rfl
@[simp] theorem State.setQueue_subRegions (k : Nat) (v : QueueS) : (s.setQueue k v).subRegions = s.subRegions := rfl
@[simp] theorem State.setQueue_subSlots (k : Nat) (v : QueueS) : (s.setQueue k v).subSlots = s.subSlots := rfl
@[simp] theorem State.setQueue_ticked (k : Nat) (v : QueueS) : (s.setQueue k v).ticked = s.ticked := rfl
@[simp] theorem State.setQueue_legs (k : Nat) (v : QueueS) : (s.setQueue k v).legs = s.legs := rfl
@[simp] theorem State.setQueue_errOwed (k : Nat) (v : QueueS) : (s.setQueue k v).errOwed = s.errOwed := rfl
@[simp] theorem State.setQueue_resp (k : Nat) (v : QueueS) : (s.setQueue k v).resp = s.resp := rfl
@[simp] theorem State.setQueue_pending (k : Nat) (v : QueueS) : (s.setQueue k v).pending = s.pending := rfl

@[simp] theorem State.setEngine_now (k : Nat) (v : Engine) : (s.setEngine k v).now = s.now := rfl
@[simp] theorem State.setEngine_regs (k : Nat) (v : Engine) : (s.setEngine k v).regs = s.regs := rfl
@[simp] theorem State.setEngine_applied (k : Nat) (v : Engine) : (s.setEngine k v).applied = s.applied := rfl
@[simp] theorem State.setEngine_tally (k : Nat) (v : Engine) : (s.setEngine k v).tally = s.tally := rfl
@[simp] theorem State.setEngine_levels (k : Nat) (v : Engine) : (s.setEngine k v).levels = s.levels := rfl
@[simp] theorem State.setEngine_pwt (k : Nat) (v : Engine) : (s.setEngine k v).pwt = s.pwt := rfl
@[simp] theorem State.setEngine_fresh (k : Nat) (v : Engine) : (s.setEngine k v).fresh = s.fresh := rfl
@[simp] theorem State.setEngine_dram (k : Nat) (v : Engine) : (s.setEngine k v).dram = s.dram := rfl
@[simp] theorem State.setEngine_zeroed (k : Nat) (v : Engine) : (s.setEngine k v).zeroed = s.zeroed := rfl
@[simp] theorem State.setEngine_vault (k : Nat) (v : Engine) : (s.setEngine k v).vault = s.vault := rfl
@[simp] theorem State.setEngine_led (k : Nat) (v : Engine) : (s.setEngine k v).led = s.led := rfl
@[simp] theorem State.setEngine_accts (k : Nat) (v : Engine) : (s.setEngine k v).accts = s.accts := rfl
@[simp] theorem State.setEngine_queues (k : Nat) (v : Engine) : (s.setEngine k v).queues = s.queues := rfl
@[simp] theorem State.setEngine_subPool (k : Nat) (v : Engine) : (s.setEngine k v).subPool = s.subPool := rfl
@[simp] theorem State.setEngine_jobs (k : Nat) (v : Engine) : (s.setEngine k v).jobs = s.jobs := rfl
@[simp] theorem State.setEngine_safes (k : Nat) (v : Engine) : (s.setEngine k v).safes = s.safes := rfl
@[simp] theorem State.setEngine_dropped (k : Nat) (v : Engine) : (s.setEngine k v).dropped = s.dropped := rfl
@[simp] theorem State.setEngine_commits (k : Nat) (v : Engine) : (s.setEngine k v).commits = s.commits := rfl
@[simp] theorem State.setEngine_heldSyn (k : Nat) (v : Engine) : (s.setEngine k v).heldSyn = s.heldSyn := rfl
@[simp] theorem State.setEngine_waits (k : Nat) (v : Engine) : (s.setEngine k v).waits = s.waits := rfl
@[simp] theorem State.setEngine_orders (k : Nat) (v : Engine) : (s.setEngine k v).orders = s.orders := rfl
@[simp] theorem State.setEngine_routines (k : Nat) (v : Engine) : (s.setEngine k v).routines = s.routines := rfl
@[simp] theorem State.setEngine_outs (k : Nat) (v : Engine) : (s.setEngine k v).outs = s.outs := rfl
@[simp] theorem State.setEngine_cheques (k : Nat) (v : Engine) : (s.setEngine k v).cheques = s.cheques := rfl
@[simp] theorem State.setEngine_presses (k : Nat) (v : Engine) : (s.setEngine k v).presses = s.presses := rfl
@[simp] theorem State.setEngine_mints (k : Nat) (v : Engine) : (s.setEngine k v).mints = s.mints := rfl
@[simp] theorem State.setEngine_nextCheque (k : Nat) (v : Engine) : (s.setEngine k v).nextCheque = s.nextCheque := rfl
@[simp] theorem State.setEngine_seq (k : Nat) (v : Engine) : (s.setEngine k v).seq = s.seq := rfl
@[simp] theorem State.setEngine_avs (k : Nat) (v : Engine) : (s.setEngine k v).avs = s.avs := rfl
@[simp] theorem State.setEngine_mem (k : Nat) (v : Engine) : (s.setEngine k v).mem = s.mem := rfl
@[simp] theorem State.setEngine_caps (k : Nat) (v : Engine) : (s.setEngine k v).caps = s.caps := rfl
@[simp] theorem State.setEngine_link (k : Nat) (v : Engine) : (s.setEngine k v).link = s.link := rfl
@[simp] theorem State.setEngine_ports (k : Nat) (v : Engine) : (s.setEngine k v).ports = s.ports := rfl
@[simp] theorem State.setEngine_flt (k : Nat) (v : Engine) : (s.setEngine k v).flt = s.flt := rfl
@[simp] theorem State.setEngine_blanked (k : Nat) (v : Engine) : (s.setEngine k v).blanked = s.blanked := rfl
@[simp] theorem State.setEngine_checks (k : Nat) (v : Engine) : (s.setEngine k v).checks = s.checks := rfl
@[simp] theorem State.setEngine_luts (k : Nat) (v : Engine) : (s.setEngine k v).luts = s.luts := rfl
@[simp] theorem State.setEngine_readyAt (k : Nat) (v : Engine) : (s.setEngine k v).readyAt = s.readyAt := rfl
@[simp] theorem State.setEngine_written (k : Nat) (v : Engine) : (s.setEngine k v).written = s.written := rfl
@[simp] theorem State.setEngine_loads (k : Nat) (v : Engine) : (s.setEngine k v).loads = s.loads := rfl
@[simp] theorem State.setEngine_haps (k : Nat) (v : Engine) : (s.setEngine k v).haps = s.haps := rfl
@[simp] theorem State.setEngine_touches (k : Nat) (v : Engine) : (s.setEngine k v).touches = s.touches := rfl
@[simp] theorem State.setEngine_audio (k : Nat) (v : Engine) : (s.setEngine k v).audio = s.audio := rfl
@[simp] theorem State.setEngine_boot (k : Nat) (v : Engine) : (s.setEngine k v).boot = s.boot := rfl
@[simp] theorem State.setEngine_subRegions (k : Nat) (v : Engine) : (s.setEngine k v).subRegions = s.subRegions := rfl
@[simp] theorem State.setEngine_subSlots (k : Nat) (v : Engine) : (s.setEngine k v).subSlots = s.subSlots := rfl
@[simp] theorem State.setEngine_ticked (k : Nat) (v : Engine) : (s.setEngine k v).ticked = s.ticked := rfl
@[simp] theorem State.setEngine_legs (k : Nat) (v : Engine) : (s.setEngine k v).legs = s.legs := rfl
@[simp] theorem State.setEngine_errOwed (k : Nat) (v : Engine) : (s.setEngine k v).errOwed = s.errOwed := rfl
@[simp] theorem State.setEngine_resp (k : Nat) (v : Engine) : (s.setEngine k v).resp = s.resp := rfl
@[simp] theorem State.setEngine_pending (k : Nat) (v : Engine) : (s.setEngine k v).pending = s.pending := rfl

@[simp] theorem State.setOut_now (k : Nat) (v : OutS) : (s.setOut k v).now = s.now := rfl
@[simp] theorem State.setOut_regs (k : Nat) (v : OutS) : (s.setOut k v).regs = s.regs := rfl
@[simp] theorem State.setOut_applied (k : Nat) (v : OutS) : (s.setOut k v).applied = s.applied := rfl
@[simp] theorem State.setOut_tally (k : Nat) (v : OutS) : (s.setOut k v).tally = s.tally := rfl
@[simp] theorem State.setOut_levels (k : Nat) (v : OutS) : (s.setOut k v).levels = s.levels := rfl
@[simp] theorem State.setOut_pwt (k : Nat) (v : OutS) : (s.setOut k v).pwt = s.pwt := rfl
@[simp] theorem State.setOut_fresh (k : Nat) (v : OutS) : (s.setOut k v).fresh = s.fresh := rfl
@[simp] theorem State.setOut_dram (k : Nat) (v : OutS) : (s.setOut k v).dram = s.dram := rfl
@[simp] theorem State.setOut_zeroed (k : Nat) (v : OutS) : (s.setOut k v).zeroed = s.zeroed := rfl
@[simp] theorem State.setOut_vault (k : Nat) (v : OutS) : (s.setOut k v).vault = s.vault := rfl
@[simp] theorem State.setOut_led (k : Nat) (v : OutS) : (s.setOut k v).led = s.led := rfl
@[simp] theorem State.setOut_accts (k : Nat) (v : OutS) : (s.setOut k v).accts = s.accts := rfl
@[simp] theorem State.setOut_queues (k : Nat) (v : OutS) : (s.setOut k v).queues = s.queues := rfl
@[simp] theorem State.setOut_subPool (k : Nat) (v : OutS) : (s.setOut k v).subPool = s.subPool := rfl
@[simp] theorem State.setOut_engines (k : Nat) (v : OutS) : (s.setOut k v).engines = s.engines := rfl
@[simp] theorem State.setOut_jobs (k : Nat) (v : OutS) : (s.setOut k v).jobs = s.jobs := rfl
@[simp] theorem State.setOut_safes (k : Nat) (v : OutS) : (s.setOut k v).safes = s.safes := rfl
@[simp] theorem State.setOut_dropped (k : Nat) (v : OutS) : (s.setOut k v).dropped = s.dropped := rfl
@[simp] theorem State.setOut_commits (k : Nat) (v : OutS) : (s.setOut k v).commits = s.commits := rfl
@[simp] theorem State.setOut_heldSyn (k : Nat) (v : OutS) : (s.setOut k v).heldSyn = s.heldSyn := rfl
@[simp] theorem State.setOut_waits (k : Nat) (v : OutS) : (s.setOut k v).waits = s.waits := rfl
@[simp] theorem State.setOut_orders (k : Nat) (v : OutS) : (s.setOut k v).orders = s.orders := rfl
@[simp] theorem State.setOut_routines (k : Nat) (v : OutS) : (s.setOut k v).routines = s.routines := rfl
@[simp] theorem State.setOut_cheques (k : Nat) (v : OutS) : (s.setOut k v).cheques = s.cheques := rfl
@[simp] theorem State.setOut_presses (k : Nat) (v : OutS) : (s.setOut k v).presses = s.presses := rfl
@[simp] theorem State.setOut_mints (k : Nat) (v : OutS) : (s.setOut k v).mints = s.mints := rfl
@[simp] theorem State.setOut_nextCheque (k : Nat) (v : OutS) : (s.setOut k v).nextCheque = s.nextCheque := rfl
@[simp] theorem State.setOut_seq (k : Nat) (v : OutS) : (s.setOut k v).seq = s.seq := rfl
@[simp] theorem State.setOut_avs (k : Nat) (v : OutS) : (s.setOut k v).avs = s.avs := rfl
@[simp] theorem State.setOut_mem (k : Nat) (v : OutS) : (s.setOut k v).mem = s.mem := rfl
@[simp] theorem State.setOut_caps (k : Nat) (v : OutS) : (s.setOut k v).caps = s.caps := rfl
@[simp] theorem State.setOut_link (k : Nat) (v : OutS) : (s.setOut k v).link = s.link := rfl
@[simp] theorem State.setOut_ports (k : Nat) (v : OutS) : (s.setOut k v).ports = s.ports := rfl
@[simp] theorem State.setOut_flt (k : Nat) (v : OutS) : (s.setOut k v).flt = s.flt := rfl
@[simp] theorem State.setOut_blanked (k : Nat) (v : OutS) : (s.setOut k v).blanked = s.blanked := rfl
@[simp] theorem State.setOut_checks (k : Nat) (v : OutS) : (s.setOut k v).checks = s.checks := rfl
@[simp] theorem State.setOut_luts (k : Nat) (v : OutS) : (s.setOut k v).luts = s.luts := rfl
@[simp] theorem State.setOut_readyAt (k : Nat) (v : OutS) : (s.setOut k v).readyAt = s.readyAt := rfl
@[simp] theorem State.setOut_written (k : Nat) (v : OutS) : (s.setOut k v).written = s.written := rfl
@[simp] theorem State.setOut_loads (k : Nat) (v : OutS) : (s.setOut k v).loads = s.loads := rfl
@[simp] theorem State.setOut_haps (k : Nat) (v : OutS) : (s.setOut k v).haps = s.haps := rfl
@[simp] theorem State.setOut_touches (k : Nat) (v : OutS) : (s.setOut k v).touches = s.touches := rfl
@[simp] theorem State.setOut_audio (k : Nat) (v : OutS) : (s.setOut k v).audio = s.audio := rfl
@[simp] theorem State.setOut_boot (k : Nat) (v : OutS) : (s.setOut k v).boot = s.boot := rfl
@[simp] theorem State.setOut_subRegions (k : Nat) (v : OutS) : (s.setOut k v).subRegions = s.subRegions := rfl
@[simp] theorem State.setOut_subSlots (k : Nat) (v : OutS) : (s.setOut k v).subSlots = s.subSlots := rfl
@[simp] theorem State.setOut_ticked (k : Nat) (v : OutS) : (s.setOut k v).ticked = s.ticked := rfl
@[simp] theorem State.setOut_legs (k : Nat) (v : OutS) : (s.setOut k v).legs = s.legs := rfl
@[simp] theorem State.setOut_errOwed (k : Nat) (v : OutS) : (s.setOut k v).errOwed = s.errOwed := rfl
@[simp] theorem State.setOut_resp (k : Nat) (v : OutS) : (s.setOut k v).resp = s.resp := rfl
@[simp] theorem State.setOut_pending (k : Nat) (v : OutS) : (s.setOut k v).pending = s.pending := rfl

@[simp] theorem State.setMint_now (k : Nat) (v : MintS) : (s.setMint k v).now = s.now := rfl
@[simp] theorem State.setMint_regs (k : Nat) (v : MintS) : (s.setMint k v).regs = s.regs := rfl
@[simp] theorem State.setMint_applied (k : Nat) (v : MintS) : (s.setMint k v).applied = s.applied := rfl
@[simp] theorem State.setMint_tally (k : Nat) (v : MintS) : (s.setMint k v).tally = s.tally := rfl
@[simp] theorem State.setMint_levels (k : Nat) (v : MintS) : (s.setMint k v).levels = s.levels := rfl
@[simp] theorem State.setMint_pwt (k : Nat) (v : MintS) : (s.setMint k v).pwt = s.pwt := rfl
@[simp] theorem State.setMint_fresh (k : Nat) (v : MintS) : (s.setMint k v).fresh = s.fresh := rfl
@[simp] theorem State.setMint_dram (k : Nat) (v : MintS) : (s.setMint k v).dram = s.dram := rfl
@[simp] theorem State.setMint_zeroed (k : Nat) (v : MintS) : (s.setMint k v).zeroed = s.zeroed := rfl
@[simp] theorem State.setMint_vault (k : Nat) (v : MintS) : (s.setMint k v).vault = s.vault := rfl
@[simp] theorem State.setMint_led (k : Nat) (v : MintS) : (s.setMint k v).led = s.led := rfl
@[simp] theorem State.setMint_accts (k : Nat) (v : MintS) : (s.setMint k v).accts = s.accts := rfl
@[simp] theorem State.setMint_queues (k : Nat) (v : MintS) : (s.setMint k v).queues = s.queues := rfl
@[simp] theorem State.setMint_subPool (k : Nat) (v : MintS) : (s.setMint k v).subPool = s.subPool := rfl
@[simp] theorem State.setMint_engines (k : Nat) (v : MintS) : (s.setMint k v).engines = s.engines := rfl
@[simp] theorem State.setMint_jobs (k : Nat) (v : MintS) : (s.setMint k v).jobs = s.jobs := rfl
@[simp] theorem State.setMint_safes (k : Nat) (v : MintS) : (s.setMint k v).safes = s.safes := rfl
@[simp] theorem State.setMint_dropped (k : Nat) (v : MintS) : (s.setMint k v).dropped = s.dropped := rfl
@[simp] theorem State.setMint_commits (k : Nat) (v : MintS) : (s.setMint k v).commits = s.commits := rfl
@[simp] theorem State.setMint_heldSyn (k : Nat) (v : MintS) : (s.setMint k v).heldSyn = s.heldSyn := rfl
@[simp] theorem State.setMint_waits (k : Nat) (v : MintS) : (s.setMint k v).waits = s.waits := rfl
@[simp] theorem State.setMint_orders (k : Nat) (v : MintS) : (s.setMint k v).orders = s.orders := rfl
@[simp] theorem State.setMint_routines (k : Nat) (v : MintS) : (s.setMint k v).routines = s.routines := rfl
@[simp] theorem State.setMint_outs (k : Nat) (v : MintS) : (s.setMint k v).outs = s.outs := rfl
@[simp] theorem State.setMint_cheques (k : Nat) (v : MintS) : (s.setMint k v).cheques = s.cheques := rfl
@[simp] theorem State.setMint_presses (k : Nat) (v : MintS) : (s.setMint k v).presses = s.presses := rfl
@[simp] theorem State.setMint_nextCheque (k : Nat) (v : MintS) : (s.setMint k v).nextCheque = s.nextCheque := rfl
@[simp] theorem State.setMint_seq (k : Nat) (v : MintS) : (s.setMint k v).seq = s.seq := rfl
@[simp] theorem State.setMint_avs (k : Nat) (v : MintS) : (s.setMint k v).avs = s.avs := rfl
@[simp] theorem State.setMint_mem (k : Nat) (v : MintS) : (s.setMint k v).mem = s.mem := rfl
@[simp] theorem State.setMint_caps (k : Nat) (v : MintS) : (s.setMint k v).caps = s.caps := rfl
@[simp] theorem State.setMint_link (k : Nat) (v : MintS) : (s.setMint k v).link = s.link := rfl
@[simp] theorem State.setMint_ports (k : Nat) (v : MintS) : (s.setMint k v).ports = s.ports := rfl
@[simp] theorem State.setMint_flt (k : Nat) (v : MintS) : (s.setMint k v).flt = s.flt := rfl
@[simp] theorem State.setMint_blanked (k : Nat) (v : MintS) : (s.setMint k v).blanked = s.blanked := rfl
@[simp] theorem State.setMint_checks (k : Nat) (v : MintS) : (s.setMint k v).checks = s.checks := rfl
@[simp] theorem State.setMint_luts (k : Nat) (v : MintS) : (s.setMint k v).luts = s.luts := rfl
@[simp] theorem State.setMint_readyAt (k : Nat) (v : MintS) : (s.setMint k v).readyAt = s.readyAt := rfl
@[simp] theorem State.setMint_written (k : Nat) (v : MintS) : (s.setMint k v).written = s.written := rfl
@[simp] theorem State.setMint_loads (k : Nat) (v : MintS) : (s.setMint k v).loads = s.loads := rfl
@[simp] theorem State.setMint_haps (k : Nat) (v : MintS) : (s.setMint k v).haps = s.haps := rfl
@[simp] theorem State.setMint_touches (k : Nat) (v : MintS) : (s.setMint k v).touches = s.touches := rfl
@[simp] theorem State.setMint_audio (k : Nat) (v : MintS) : (s.setMint k v).audio = s.audio := rfl
@[simp] theorem State.setMint_boot (k : Nat) (v : MintS) : (s.setMint k v).boot = s.boot := rfl
@[simp] theorem State.setMint_subRegions (k : Nat) (v : MintS) : (s.setMint k v).subRegions = s.subRegions := rfl
@[simp] theorem State.setMint_subSlots (k : Nat) (v : MintS) : (s.setMint k v).subSlots = s.subSlots := rfl
@[simp] theorem State.setMint_ticked (k : Nat) (v : MintS) : (s.setMint k v).ticked = s.ticked := rfl
@[simp] theorem State.setMint_legs (k : Nat) (v : MintS) : (s.setMint k v).legs = s.legs := rfl
@[simp] theorem State.setMint_errOwed (k : Nat) (v : MintS) : (s.setMint k v).errOwed = s.errOwed := rfl
@[simp] theorem State.setMint_resp (k : Nat) (v : MintS) : (s.setMint k v).resp = s.resp := rfl
@[simp] theorem State.setMint_pending (k : Nat) (v : MintS) : (s.setMint k v).pending = s.pending := rfl

@[simp] theorem State.setCheque_now (k : Nat) (v : Option Cheque) : (s.setCheque k v).now = s.now := rfl
@[simp] theorem State.setCheque_regs (k : Nat) (v : Option Cheque) : (s.setCheque k v).regs = s.regs := rfl
@[simp] theorem State.setCheque_applied (k : Nat) (v : Option Cheque) : (s.setCheque k v).applied = s.applied := rfl
@[simp] theorem State.setCheque_tally (k : Nat) (v : Option Cheque) : (s.setCheque k v).tally = s.tally := rfl
@[simp] theorem State.setCheque_levels (k : Nat) (v : Option Cheque) : (s.setCheque k v).levels = s.levels := rfl
@[simp] theorem State.setCheque_pwt (k : Nat) (v : Option Cheque) : (s.setCheque k v).pwt = s.pwt := rfl
@[simp] theorem State.setCheque_fresh (k : Nat) (v : Option Cheque) : (s.setCheque k v).fresh = s.fresh := rfl
@[simp] theorem State.setCheque_dram (k : Nat) (v : Option Cheque) : (s.setCheque k v).dram = s.dram := rfl
@[simp] theorem State.setCheque_zeroed (k : Nat) (v : Option Cheque) : (s.setCheque k v).zeroed = s.zeroed := rfl
@[simp] theorem State.setCheque_vault (k : Nat) (v : Option Cheque) : (s.setCheque k v).vault = s.vault := rfl
@[simp] theorem State.setCheque_led (k : Nat) (v : Option Cheque) : (s.setCheque k v).led = s.led := rfl
@[simp] theorem State.setCheque_accts (k : Nat) (v : Option Cheque) : (s.setCheque k v).accts = s.accts := rfl
@[simp] theorem State.setCheque_queues (k : Nat) (v : Option Cheque) : (s.setCheque k v).queues = s.queues := rfl
@[simp] theorem State.setCheque_subPool (k : Nat) (v : Option Cheque) : (s.setCheque k v).subPool = s.subPool := rfl
@[simp] theorem State.setCheque_engines (k : Nat) (v : Option Cheque) : (s.setCheque k v).engines = s.engines := rfl
@[simp] theorem State.setCheque_jobs (k : Nat) (v : Option Cheque) : (s.setCheque k v).jobs = s.jobs := rfl
@[simp] theorem State.setCheque_safes (k : Nat) (v : Option Cheque) : (s.setCheque k v).safes = s.safes := rfl
@[simp] theorem State.setCheque_dropped (k : Nat) (v : Option Cheque) : (s.setCheque k v).dropped = s.dropped := rfl
@[simp] theorem State.setCheque_commits (k : Nat) (v : Option Cheque) : (s.setCheque k v).commits = s.commits := rfl
@[simp] theorem State.setCheque_heldSyn (k : Nat) (v : Option Cheque) : (s.setCheque k v).heldSyn = s.heldSyn := rfl
@[simp] theorem State.setCheque_waits (k : Nat) (v : Option Cheque) : (s.setCheque k v).waits = s.waits := rfl
@[simp] theorem State.setCheque_orders (k : Nat) (v : Option Cheque) : (s.setCheque k v).orders = s.orders := rfl
@[simp] theorem State.setCheque_routines (k : Nat) (v : Option Cheque) : (s.setCheque k v).routines = s.routines := rfl
@[simp] theorem State.setCheque_outs (k : Nat) (v : Option Cheque) : (s.setCheque k v).outs = s.outs := rfl
@[simp] theorem State.setCheque_presses (k : Nat) (v : Option Cheque) : (s.setCheque k v).presses = s.presses := rfl
@[simp] theorem State.setCheque_mints (k : Nat) (v : Option Cheque) : (s.setCheque k v).mints = s.mints := rfl
@[simp] theorem State.setCheque_nextCheque (k : Nat) (v : Option Cheque) : (s.setCheque k v).nextCheque = s.nextCheque := rfl
@[simp] theorem State.setCheque_seq (k : Nat) (v : Option Cheque) : (s.setCheque k v).seq = s.seq := rfl
@[simp] theorem State.setCheque_avs (k : Nat) (v : Option Cheque) : (s.setCheque k v).avs = s.avs := rfl
@[simp] theorem State.setCheque_mem (k : Nat) (v : Option Cheque) : (s.setCheque k v).mem = s.mem := rfl
@[simp] theorem State.setCheque_caps (k : Nat) (v : Option Cheque) : (s.setCheque k v).caps = s.caps := rfl
@[simp] theorem State.setCheque_link (k : Nat) (v : Option Cheque) : (s.setCheque k v).link = s.link := rfl
@[simp] theorem State.setCheque_ports (k : Nat) (v : Option Cheque) : (s.setCheque k v).ports = s.ports := rfl
@[simp] theorem State.setCheque_flt (k : Nat) (v : Option Cheque) : (s.setCheque k v).flt = s.flt := rfl
@[simp] theorem State.setCheque_blanked (k : Nat) (v : Option Cheque) : (s.setCheque k v).blanked = s.blanked := rfl
@[simp] theorem State.setCheque_checks (k : Nat) (v : Option Cheque) : (s.setCheque k v).checks = s.checks := rfl
@[simp] theorem State.setCheque_luts (k : Nat) (v : Option Cheque) : (s.setCheque k v).luts = s.luts := rfl
@[simp] theorem State.setCheque_readyAt (k : Nat) (v : Option Cheque) : (s.setCheque k v).readyAt = s.readyAt := rfl
@[simp] theorem State.setCheque_written (k : Nat) (v : Option Cheque) : (s.setCheque k v).written = s.written := rfl
@[simp] theorem State.setCheque_loads (k : Nat) (v : Option Cheque) : (s.setCheque k v).loads = s.loads := rfl
@[simp] theorem State.setCheque_haps (k : Nat) (v : Option Cheque) : (s.setCheque k v).haps = s.haps := rfl
@[simp] theorem State.setCheque_touches (k : Nat) (v : Option Cheque) : (s.setCheque k v).touches = s.touches := rfl
@[simp] theorem State.setCheque_audio (k : Nat) (v : Option Cheque) : (s.setCheque k v).audio = s.audio := rfl
@[simp] theorem State.setCheque_boot (k : Nat) (v : Option Cheque) : (s.setCheque k v).boot = s.boot := rfl
@[simp] theorem State.setCheque_subRegions (k : Nat) (v : Option Cheque) : (s.setCheque k v).subRegions = s.subRegions := rfl
@[simp] theorem State.setCheque_subSlots (k : Nat) (v : Option Cheque) : (s.setCheque k v).subSlots = s.subSlots := rfl
@[simp] theorem State.setCheque_ticked (k : Nat) (v : Option Cheque) : (s.setCheque k v).ticked = s.ticked := rfl
@[simp] theorem State.setCheque_legs (k : Nat) (v : Option Cheque) : (s.setCheque k v).legs = s.legs := rfl
@[simp] theorem State.setCheque_errOwed (k : Nat) (v : Option Cheque) : (s.setCheque k v).errOwed = s.errOwed := rfl
@[simp] theorem State.setCheque_resp (k : Nat) (v : Option Cheque) : (s.setCheque k v).resp = s.resp := rfl
@[simp] theorem State.setCheque_pending (k : Nat) (v : Option Cheque) : (s.setCheque k v).pending = s.pending := rfl

@[simp] theorem State.setPress_now (k : Nat) (v : List Nat) : (s.setPress k v).now = s.now := rfl
@[simp] theorem State.setPress_regs (k : Nat) (v : List Nat) : (s.setPress k v).regs = s.regs := rfl
@[simp] theorem State.setPress_applied (k : Nat) (v : List Nat) : (s.setPress k v).applied = s.applied := rfl
@[simp] theorem State.setPress_tally (k : Nat) (v : List Nat) : (s.setPress k v).tally = s.tally := rfl
@[simp] theorem State.setPress_levels (k : Nat) (v : List Nat) : (s.setPress k v).levels = s.levels := rfl
@[simp] theorem State.setPress_pwt (k : Nat) (v : List Nat) : (s.setPress k v).pwt = s.pwt := rfl
@[simp] theorem State.setPress_fresh (k : Nat) (v : List Nat) : (s.setPress k v).fresh = s.fresh := rfl
@[simp] theorem State.setPress_dram (k : Nat) (v : List Nat) : (s.setPress k v).dram = s.dram := rfl
@[simp] theorem State.setPress_zeroed (k : Nat) (v : List Nat) : (s.setPress k v).zeroed = s.zeroed := rfl
@[simp] theorem State.setPress_vault (k : Nat) (v : List Nat) : (s.setPress k v).vault = s.vault := rfl
@[simp] theorem State.setPress_led (k : Nat) (v : List Nat) : (s.setPress k v).led = s.led := rfl
@[simp] theorem State.setPress_accts (k : Nat) (v : List Nat) : (s.setPress k v).accts = s.accts := rfl
@[simp] theorem State.setPress_queues (k : Nat) (v : List Nat) : (s.setPress k v).queues = s.queues := rfl
@[simp] theorem State.setPress_subPool (k : Nat) (v : List Nat) : (s.setPress k v).subPool = s.subPool := rfl
@[simp] theorem State.setPress_engines (k : Nat) (v : List Nat) : (s.setPress k v).engines = s.engines := rfl
@[simp] theorem State.setPress_jobs (k : Nat) (v : List Nat) : (s.setPress k v).jobs = s.jobs := rfl
@[simp] theorem State.setPress_safes (k : Nat) (v : List Nat) : (s.setPress k v).safes = s.safes := rfl
@[simp] theorem State.setPress_dropped (k : Nat) (v : List Nat) : (s.setPress k v).dropped = s.dropped := rfl
@[simp] theorem State.setPress_commits (k : Nat) (v : List Nat) : (s.setPress k v).commits = s.commits := rfl
@[simp] theorem State.setPress_heldSyn (k : Nat) (v : List Nat) : (s.setPress k v).heldSyn = s.heldSyn := rfl
@[simp] theorem State.setPress_waits (k : Nat) (v : List Nat) : (s.setPress k v).waits = s.waits := rfl
@[simp] theorem State.setPress_orders (k : Nat) (v : List Nat) : (s.setPress k v).orders = s.orders := rfl
@[simp] theorem State.setPress_routines (k : Nat) (v : List Nat) : (s.setPress k v).routines = s.routines := rfl
@[simp] theorem State.setPress_outs (k : Nat) (v : List Nat) : (s.setPress k v).outs = s.outs := rfl
@[simp] theorem State.setPress_cheques (k : Nat) (v : List Nat) : (s.setPress k v).cheques = s.cheques := rfl
@[simp] theorem State.setPress_mints (k : Nat) (v : List Nat) : (s.setPress k v).mints = s.mints := rfl
@[simp] theorem State.setPress_nextCheque (k : Nat) (v : List Nat) : (s.setPress k v).nextCheque = s.nextCheque := rfl
@[simp] theorem State.setPress_seq (k : Nat) (v : List Nat) : (s.setPress k v).seq = s.seq := rfl
@[simp] theorem State.setPress_avs (k : Nat) (v : List Nat) : (s.setPress k v).avs = s.avs := rfl
@[simp] theorem State.setPress_mem (k : Nat) (v : List Nat) : (s.setPress k v).mem = s.mem := rfl
@[simp] theorem State.setPress_caps (k : Nat) (v : List Nat) : (s.setPress k v).caps = s.caps := rfl
@[simp] theorem State.setPress_link (k : Nat) (v : List Nat) : (s.setPress k v).link = s.link := rfl
@[simp] theorem State.setPress_ports (k : Nat) (v : List Nat) : (s.setPress k v).ports = s.ports := rfl
@[simp] theorem State.setPress_flt (k : Nat) (v : List Nat) : (s.setPress k v).flt = s.flt := rfl
@[simp] theorem State.setPress_blanked (k : Nat) (v : List Nat) : (s.setPress k v).blanked = s.blanked := rfl
@[simp] theorem State.setPress_checks (k : Nat) (v : List Nat) : (s.setPress k v).checks = s.checks := rfl
@[simp] theorem State.setPress_luts (k : Nat) (v : List Nat) : (s.setPress k v).luts = s.luts := rfl
@[simp] theorem State.setPress_readyAt (k : Nat) (v : List Nat) : (s.setPress k v).readyAt = s.readyAt := rfl
@[simp] theorem State.setPress_written (k : Nat) (v : List Nat) : (s.setPress k v).written = s.written := rfl
@[simp] theorem State.setPress_loads (k : Nat) (v : List Nat) : (s.setPress k v).loads = s.loads := rfl
@[simp] theorem State.setPress_haps (k : Nat) (v : List Nat) : (s.setPress k v).haps = s.haps := rfl
@[simp] theorem State.setPress_touches (k : Nat) (v : List Nat) : (s.setPress k v).touches = s.touches := rfl
@[simp] theorem State.setPress_audio (k : Nat) (v : List Nat) : (s.setPress k v).audio = s.audio := rfl
@[simp] theorem State.setPress_boot (k : Nat) (v : List Nat) : (s.setPress k v).boot = s.boot := rfl
@[simp] theorem State.setPress_subRegions (k : Nat) (v : List Nat) : (s.setPress k v).subRegions = s.subRegions := rfl
@[simp] theorem State.setPress_subSlots (k : Nat) (v : List Nat) : (s.setPress k v).subSlots = s.subSlots := rfl
@[simp] theorem State.setPress_ticked (k : Nat) (v : List Nat) : (s.setPress k v).ticked = s.ticked := rfl
@[simp] theorem State.setPress_legs (k : Nat) (v : List Nat) : (s.setPress k v).legs = s.legs := rfl
@[simp] theorem State.setPress_errOwed (k : Nat) (v : List Nat) : (s.setPress k v).errOwed = s.errOwed := rfl
@[simp] theorem State.setPress_resp (k : Nat) (v : List Nat) : (s.setPress k v).resp = s.resp := rfl
@[simp] theorem State.setPress_pending (k : Nat) (v : List Nat) : (s.setPress k v).pending = s.pending := rfl

@[simp] theorem State.setCommit_now (k : Nat) (v : Option Commit) : (s.setCommit k v).now = s.now := rfl
@[simp] theorem State.setCommit_regs (k : Nat) (v : Option Commit) : (s.setCommit k v).regs = s.regs := rfl
@[simp] theorem State.setCommit_applied (k : Nat) (v : Option Commit) : (s.setCommit k v).applied = s.applied := rfl
@[simp] theorem State.setCommit_tally (k : Nat) (v : Option Commit) : (s.setCommit k v).tally = s.tally := rfl
@[simp] theorem State.setCommit_levels (k : Nat) (v : Option Commit) : (s.setCommit k v).levels = s.levels := rfl
@[simp] theorem State.setCommit_pwt (k : Nat) (v : Option Commit) : (s.setCommit k v).pwt = s.pwt := rfl
@[simp] theorem State.setCommit_fresh (k : Nat) (v : Option Commit) : (s.setCommit k v).fresh = s.fresh := rfl
@[simp] theorem State.setCommit_dram (k : Nat) (v : Option Commit) : (s.setCommit k v).dram = s.dram := rfl
@[simp] theorem State.setCommit_zeroed (k : Nat) (v : Option Commit) : (s.setCommit k v).zeroed = s.zeroed := rfl
@[simp] theorem State.setCommit_vault (k : Nat) (v : Option Commit) : (s.setCommit k v).vault = s.vault := rfl
@[simp] theorem State.setCommit_led (k : Nat) (v : Option Commit) : (s.setCommit k v).led = s.led := rfl
@[simp] theorem State.setCommit_accts (k : Nat) (v : Option Commit) : (s.setCommit k v).accts = s.accts := rfl
@[simp] theorem State.setCommit_queues (k : Nat) (v : Option Commit) : (s.setCommit k v).queues = s.queues := rfl
@[simp] theorem State.setCommit_subPool (k : Nat) (v : Option Commit) : (s.setCommit k v).subPool = s.subPool := rfl
@[simp] theorem State.setCommit_engines (k : Nat) (v : Option Commit) : (s.setCommit k v).engines = s.engines := rfl
@[simp] theorem State.setCommit_jobs (k : Nat) (v : Option Commit) : (s.setCommit k v).jobs = s.jobs := rfl
@[simp] theorem State.setCommit_safes (k : Nat) (v : Option Commit) : (s.setCommit k v).safes = s.safes := rfl
@[simp] theorem State.setCommit_dropped (k : Nat) (v : Option Commit) : (s.setCommit k v).dropped = s.dropped := rfl
@[simp] theorem State.setCommit_heldSyn (k : Nat) (v : Option Commit) : (s.setCommit k v).heldSyn = s.heldSyn := rfl
@[simp] theorem State.setCommit_waits (k : Nat) (v : Option Commit) : (s.setCommit k v).waits = s.waits := rfl
@[simp] theorem State.setCommit_orders (k : Nat) (v : Option Commit) : (s.setCommit k v).orders = s.orders := rfl
@[simp] theorem State.setCommit_routines (k : Nat) (v : Option Commit) : (s.setCommit k v).routines = s.routines := rfl
@[simp] theorem State.setCommit_outs (k : Nat) (v : Option Commit) : (s.setCommit k v).outs = s.outs := rfl
@[simp] theorem State.setCommit_cheques (k : Nat) (v : Option Commit) : (s.setCommit k v).cheques = s.cheques := rfl
@[simp] theorem State.setCommit_presses (k : Nat) (v : Option Commit) : (s.setCommit k v).presses = s.presses := rfl
@[simp] theorem State.setCommit_mints (k : Nat) (v : Option Commit) : (s.setCommit k v).mints = s.mints := rfl
@[simp] theorem State.setCommit_nextCheque (k : Nat) (v : Option Commit) : (s.setCommit k v).nextCheque = s.nextCheque := rfl
@[simp] theorem State.setCommit_seq (k : Nat) (v : Option Commit) : (s.setCommit k v).seq = s.seq := rfl
@[simp] theorem State.setCommit_avs (k : Nat) (v : Option Commit) : (s.setCommit k v).avs = s.avs := rfl
@[simp] theorem State.setCommit_mem (k : Nat) (v : Option Commit) : (s.setCommit k v).mem = s.mem := rfl
@[simp] theorem State.setCommit_caps (k : Nat) (v : Option Commit) : (s.setCommit k v).caps = s.caps := rfl
@[simp] theorem State.setCommit_link (k : Nat) (v : Option Commit) : (s.setCommit k v).link = s.link := rfl
@[simp] theorem State.setCommit_ports (k : Nat) (v : Option Commit) : (s.setCommit k v).ports = s.ports := rfl
@[simp] theorem State.setCommit_flt (k : Nat) (v : Option Commit) : (s.setCommit k v).flt = s.flt := rfl
@[simp] theorem State.setCommit_blanked (k : Nat) (v : Option Commit) : (s.setCommit k v).blanked = s.blanked := rfl
@[simp] theorem State.setCommit_checks (k : Nat) (v : Option Commit) : (s.setCommit k v).checks = s.checks := rfl
@[simp] theorem State.setCommit_luts (k : Nat) (v : Option Commit) : (s.setCommit k v).luts = s.luts := rfl
@[simp] theorem State.setCommit_readyAt (k : Nat) (v : Option Commit) : (s.setCommit k v).readyAt = s.readyAt := rfl
@[simp] theorem State.setCommit_written (k : Nat) (v : Option Commit) : (s.setCommit k v).written = s.written := rfl
@[simp] theorem State.setCommit_loads (k : Nat) (v : Option Commit) : (s.setCommit k v).loads = s.loads := rfl
@[simp] theorem State.setCommit_haps (k : Nat) (v : Option Commit) : (s.setCommit k v).haps = s.haps := rfl
@[simp] theorem State.setCommit_touches (k : Nat) (v : Option Commit) : (s.setCommit k v).touches = s.touches := rfl
@[simp] theorem State.setCommit_audio (k : Nat) (v : Option Commit) : (s.setCommit k v).audio = s.audio := rfl
@[simp] theorem State.setCommit_boot (k : Nat) (v : Option Commit) : (s.setCommit k v).boot = s.boot := rfl
@[simp] theorem State.setCommit_subRegions (k : Nat) (v : Option Commit) : (s.setCommit k v).subRegions = s.subRegions := rfl
@[simp] theorem State.setCommit_subSlots (k : Nat) (v : Option Commit) : (s.setCommit k v).subSlots = s.subSlots := rfl
@[simp] theorem State.setCommit_ticked (k : Nat) (v : Option Commit) : (s.setCommit k v).ticked = s.ticked := rfl
@[simp] theorem State.setCommit_legs (k : Nat) (v : Option Commit) : (s.setCommit k v).legs = s.legs := rfl
@[simp] theorem State.setCommit_errOwed (k : Nat) (v : Option Commit) : (s.setCommit k v).errOwed = s.errOwed := rfl
@[simp] theorem State.setCommit_resp (k : Nat) (v : Option Commit) : (s.setCommit k v).resp = s.resp := rfl
@[simp] theorem State.setCommit_pending (k : Nat) (v : Option Commit) : (s.setCommit k v).pending = s.pending := rfl

@[simp] theorem State.setSafe_now (k : Nat) (v : Nat × Nat) : (s.setSafe k v).now = s.now := rfl
@[simp] theorem State.setSafe_regs (k : Nat) (v : Nat × Nat) : (s.setSafe k v).regs = s.regs := rfl
@[simp] theorem State.setSafe_applied (k : Nat) (v : Nat × Nat) : (s.setSafe k v).applied = s.applied := rfl
@[simp] theorem State.setSafe_tally (k : Nat) (v : Nat × Nat) : (s.setSafe k v).tally = s.tally := rfl
@[simp] theorem State.setSafe_levels (k : Nat) (v : Nat × Nat) : (s.setSafe k v).levels = s.levels := rfl
@[simp] theorem State.setSafe_pwt (k : Nat) (v : Nat × Nat) : (s.setSafe k v).pwt = s.pwt := rfl
@[simp] theorem State.setSafe_fresh (k : Nat) (v : Nat × Nat) : (s.setSafe k v).fresh = s.fresh := rfl
@[simp] theorem State.setSafe_dram (k : Nat) (v : Nat × Nat) : (s.setSafe k v).dram = s.dram := rfl
@[simp] theorem State.setSafe_zeroed (k : Nat) (v : Nat × Nat) : (s.setSafe k v).zeroed = s.zeroed := rfl
@[simp] theorem State.setSafe_vault (k : Nat) (v : Nat × Nat) : (s.setSafe k v).vault = s.vault := rfl
@[simp] theorem State.setSafe_led (k : Nat) (v : Nat × Nat) : (s.setSafe k v).led = s.led := rfl
@[simp] theorem State.setSafe_accts (k : Nat) (v : Nat × Nat) : (s.setSafe k v).accts = s.accts := rfl
@[simp] theorem State.setSafe_queues (k : Nat) (v : Nat × Nat) : (s.setSafe k v).queues = s.queues := rfl
@[simp] theorem State.setSafe_subPool (k : Nat) (v : Nat × Nat) : (s.setSafe k v).subPool = s.subPool := rfl
@[simp] theorem State.setSafe_engines (k : Nat) (v : Nat × Nat) : (s.setSafe k v).engines = s.engines := rfl
@[simp] theorem State.setSafe_jobs (k : Nat) (v : Nat × Nat) : (s.setSafe k v).jobs = s.jobs := rfl
@[simp] theorem State.setSafe_dropped (k : Nat) (v : Nat × Nat) : (s.setSafe k v).dropped = s.dropped := rfl
@[simp] theorem State.setSafe_commits (k : Nat) (v : Nat × Nat) : (s.setSafe k v).commits = s.commits := rfl
@[simp] theorem State.setSafe_heldSyn (k : Nat) (v : Nat × Nat) : (s.setSafe k v).heldSyn = s.heldSyn := rfl
@[simp] theorem State.setSafe_waits (k : Nat) (v : Nat × Nat) : (s.setSafe k v).waits = s.waits := rfl
@[simp] theorem State.setSafe_orders (k : Nat) (v : Nat × Nat) : (s.setSafe k v).orders = s.orders := rfl
@[simp] theorem State.setSafe_routines (k : Nat) (v : Nat × Nat) : (s.setSafe k v).routines = s.routines := rfl
@[simp] theorem State.setSafe_outs (k : Nat) (v : Nat × Nat) : (s.setSafe k v).outs = s.outs := rfl
@[simp] theorem State.setSafe_cheques (k : Nat) (v : Nat × Nat) : (s.setSafe k v).cheques = s.cheques := rfl
@[simp] theorem State.setSafe_presses (k : Nat) (v : Nat × Nat) : (s.setSafe k v).presses = s.presses := rfl
@[simp] theorem State.setSafe_mints (k : Nat) (v : Nat × Nat) : (s.setSafe k v).mints = s.mints := rfl
@[simp] theorem State.setSafe_nextCheque (k : Nat) (v : Nat × Nat) : (s.setSafe k v).nextCheque = s.nextCheque := rfl
@[simp] theorem State.setSafe_seq (k : Nat) (v : Nat × Nat) : (s.setSafe k v).seq = s.seq := rfl
@[simp] theorem State.setSafe_avs (k : Nat) (v : Nat × Nat) : (s.setSafe k v).avs = s.avs := rfl
@[simp] theorem State.setSafe_mem (k : Nat) (v : Nat × Nat) : (s.setSafe k v).mem = s.mem := rfl
@[simp] theorem State.setSafe_caps (k : Nat) (v : Nat × Nat) : (s.setSafe k v).caps = s.caps := rfl
@[simp] theorem State.setSafe_link (k : Nat) (v : Nat × Nat) : (s.setSafe k v).link = s.link := rfl
@[simp] theorem State.setSafe_ports (k : Nat) (v : Nat × Nat) : (s.setSafe k v).ports = s.ports := rfl
@[simp] theorem State.setSafe_flt (k : Nat) (v : Nat × Nat) : (s.setSafe k v).flt = s.flt := rfl
@[simp] theorem State.setSafe_blanked (k : Nat) (v : Nat × Nat) : (s.setSafe k v).blanked = s.blanked := rfl
@[simp] theorem State.setSafe_checks (k : Nat) (v : Nat × Nat) : (s.setSafe k v).checks = s.checks := rfl
@[simp] theorem State.setSafe_luts (k : Nat) (v : Nat × Nat) : (s.setSafe k v).luts = s.luts := rfl
@[simp] theorem State.setSafe_readyAt (k : Nat) (v : Nat × Nat) : (s.setSafe k v).readyAt = s.readyAt := rfl
@[simp] theorem State.setSafe_written (k : Nat) (v : Nat × Nat) : (s.setSafe k v).written = s.written := rfl
@[simp] theorem State.setSafe_loads (k : Nat) (v : Nat × Nat) : (s.setSafe k v).loads = s.loads := rfl
@[simp] theorem State.setSafe_haps (k : Nat) (v : Nat × Nat) : (s.setSafe k v).haps = s.haps := rfl
@[simp] theorem State.setSafe_touches (k : Nat) (v : Nat × Nat) : (s.setSafe k v).touches = s.touches := rfl
@[simp] theorem State.setSafe_audio (k : Nat) (v : Nat × Nat) : (s.setSafe k v).audio = s.audio := rfl
@[simp] theorem State.setSafe_boot (k : Nat) (v : Nat × Nat) : (s.setSafe k v).boot = s.boot := rfl
@[simp] theorem State.setSafe_subRegions (k : Nat) (v : Nat × Nat) : (s.setSafe k v).subRegions = s.subRegions := rfl
@[simp] theorem State.setSafe_subSlots (k : Nat) (v : Nat × Nat) : (s.setSafe k v).subSlots = s.subSlots := rfl
@[simp] theorem State.setSafe_ticked (k : Nat) (v : Nat × Nat) : (s.setSafe k v).ticked = s.ticked := rfl
@[simp] theorem State.setSafe_legs (k : Nat) (v : Nat × Nat) : (s.setSafe k v).legs = s.legs := rfl
@[simp] theorem State.setSafe_errOwed (k : Nat) (v : Nat × Nat) : (s.setSafe k v).errOwed = s.errOwed := rfl
@[simp] theorem State.setSafe_resp (k : Nat) (v : Nat × Nat) : (s.setSafe k v).resp = s.resp := rfl
@[simp] theorem State.setSafe_pending (k : Nat) (v : Nat × Nat) : (s.setSafe k v).pending = s.pending := rfl

@[simp] theorem State.setCap_now (k : Nat) (v : CapS) : (s.setCap k v).now = s.now := rfl
@[simp] theorem State.setCap_regs (k : Nat) (v : CapS) : (s.setCap k v).regs = s.regs := rfl
@[simp] theorem State.setCap_applied (k : Nat) (v : CapS) : (s.setCap k v).applied = s.applied := rfl
@[simp] theorem State.setCap_tally (k : Nat) (v : CapS) : (s.setCap k v).tally = s.tally := rfl
@[simp] theorem State.setCap_levels (k : Nat) (v : CapS) : (s.setCap k v).levels = s.levels := rfl
@[simp] theorem State.setCap_pwt (k : Nat) (v : CapS) : (s.setCap k v).pwt = s.pwt := rfl
@[simp] theorem State.setCap_fresh (k : Nat) (v : CapS) : (s.setCap k v).fresh = s.fresh := rfl
@[simp] theorem State.setCap_dram (k : Nat) (v : CapS) : (s.setCap k v).dram = s.dram := rfl
@[simp] theorem State.setCap_zeroed (k : Nat) (v : CapS) : (s.setCap k v).zeroed = s.zeroed := rfl
@[simp] theorem State.setCap_vault (k : Nat) (v : CapS) : (s.setCap k v).vault = s.vault := rfl
@[simp] theorem State.setCap_led (k : Nat) (v : CapS) : (s.setCap k v).led = s.led := rfl
@[simp] theorem State.setCap_accts (k : Nat) (v : CapS) : (s.setCap k v).accts = s.accts := rfl
@[simp] theorem State.setCap_queues (k : Nat) (v : CapS) : (s.setCap k v).queues = s.queues := rfl
@[simp] theorem State.setCap_subPool (k : Nat) (v : CapS) : (s.setCap k v).subPool = s.subPool := rfl
@[simp] theorem State.setCap_engines (k : Nat) (v : CapS) : (s.setCap k v).engines = s.engines := rfl
@[simp] theorem State.setCap_jobs (k : Nat) (v : CapS) : (s.setCap k v).jobs = s.jobs := rfl
@[simp] theorem State.setCap_safes (k : Nat) (v : CapS) : (s.setCap k v).safes = s.safes := rfl
@[simp] theorem State.setCap_dropped (k : Nat) (v : CapS) : (s.setCap k v).dropped = s.dropped := rfl
@[simp] theorem State.setCap_commits (k : Nat) (v : CapS) : (s.setCap k v).commits = s.commits := rfl
@[simp] theorem State.setCap_heldSyn (k : Nat) (v : CapS) : (s.setCap k v).heldSyn = s.heldSyn := rfl
@[simp] theorem State.setCap_waits (k : Nat) (v : CapS) : (s.setCap k v).waits = s.waits := rfl
@[simp] theorem State.setCap_orders (k : Nat) (v : CapS) : (s.setCap k v).orders = s.orders := rfl
@[simp] theorem State.setCap_routines (k : Nat) (v : CapS) : (s.setCap k v).routines = s.routines := rfl
@[simp] theorem State.setCap_outs (k : Nat) (v : CapS) : (s.setCap k v).outs = s.outs := rfl
@[simp] theorem State.setCap_cheques (k : Nat) (v : CapS) : (s.setCap k v).cheques = s.cheques := rfl
@[simp] theorem State.setCap_presses (k : Nat) (v : CapS) : (s.setCap k v).presses = s.presses := rfl
@[simp] theorem State.setCap_mints (k : Nat) (v : CapS) : (s.setCap k v).mints = s.mints := rfl
@[simp] theorem State.setCap_nextCheque (k : Nat) (v : CapS) : (s.setCap k v).nextCheque = s.nextCheque := rfl
@[simp] theorem State.setCap_seq (k : Nat) (v : CapS) : (s.setCap k v).seq = s.seq := rfl
@[simp] theorem State.setCap_avs (k : Nat) (v : CapS) : (s.setCap k v).avs = s.avs := rfl
@[simp] theorem State.setCap_mem (k : Nat) (v : CapS) : (s.setCap k v).mem = s.mem := rfl
@[simp] theorem State.setCap_link (k : Nat) (v : CapS) : (s.setCap k v).link = s.link := rfl
@[simp] theorem State.setCap_ports (k : Nat) (v : CapS) : (s.setCap k v).ports = s.ports := rfl
@[simp] theorem State.setCap_flt (k : Nat) (v : CapS) : (s.setCap k v).flt = s.flt := rfl
@[simp] theorem State.setCap_blanked (k : Nat) (v : CapS) : (s.setCap k v).blanked = s.blanked := rfl
@[simp] theorem State.setCap_checks (k : Nat) (v : CapS) : (s.setCap k v).checks = s.checks := rfl
@[simp] theorem State.setCap_luts (k : Nat) (v : CapS) : (s.setCap k v).luts = s.luts := rfl
@[simp] theorem State.setCap_readyAt (k : Nat) (v : CapS) : (s.setCap k v).readyAt = s.readyAt := rfl
@[simp] theorem State.setCap_written (k : Nat) (v : CapS) : (s.setCap k v).written = s.written := rfl
@[simp] theorem State.setCap_loads (k : Nat) (v : CapS) : (s.setCap k v).loads = s.loads := rfl
@[simp] theorem State.setCap_haps (k : Nat) (v : CapS) : (s.setCap k v).haps = s.haps := rfl
@[simp] theorem State.setCap_touches (k : Nat) (v : CapS) : (s.setCap k v).touches = s.touches := rfl
@[simp] theorem State.setCap_audio (k : Nat) (v : CapS) : (s.setCap k v).audio = s.audio := rfl
@[simp] theorem State.setCap_boot (k : Nat) (v : CapS) : (s.setCap k v).boot = s.boot := rfl
@[simp] theorem State.setCap_subRegions (k : Nat) (v : CapS) : (s.setCap k v).subRegions = s.subRegions := rfl
@[simp] theorem State.setCap_subSlots (k : Nat) (v : CapS) : (s.setCap k v).subSlots = s.subSlots := rfl
@[simp] theorem State.setCap_ticked (k : Nat) (v : CapS) : (s.setCap k v).ticked = s.ticked := rfl
@[simp] theorem State.setCap_legs (k : Nat) (v : CapS) : (s.setCap k v).legs = s.legs := rfl
@[simp] theorem State.setCap_errOwed (k : Nat) (v : CapS) : (s.setCap k v).errOwed = s.errOwed := rfl
@[simp] theorem State.setCap_resp (k : Nat) (v : CapS) : (s.setCap k v).resp = s.resp := rfl
@[simp] theorem State.setCap_pending (k : Nat) (v : CapS) : (s.setCap k v).pending = s.pending := rfl

@[simp] theorem State.setPort_now (k : Nat) (v : PortS) : (s.setPort k v).now = s.now := rfl
@[simp] theorem State.setPort_regs (k : Nat) (v : PortS) : (s.setPort k v).regs = s.regs := rfl
@[simp] theorem State.setPort_applied (k : Nat) (v : PortS) : (s.setPort k v).applied = s.applied := rfl
@[simp] theorem State.setPort_tally (k : Nat) (v : PortS) : (s.setPort k v).tally = s.tally := rfl
@[simp] theorem State.setPort_levels (k : Nat) (v : PortS) : (s.setPort k v).levels = s.levels := rfl
@[simp] theorem State.setPort_pwt (k : Nat) (v : PortS) : (s.setPort k v).pwt = s.pwt := rfl
@[simp] theorem State.setPort_fresh (k : Nat) (v : PortS) : (s.setPort k v).fresh = s.fresh := rfl
@[simp] theorem State.setPort_dram (k : Nat) (v : PortS) : (s.setPort k v).dram = s.dram := rfl
@[simp] theorem State.setPort_zeroed (k : Nat) (v : PortS) : (s.setPort k v).zeroed = s.zeroed := rfl
@[simp] theorem State.setPort_vault (k : Nat) (v : PortS) : (s.setPort k v).vault = s.vault := rfl
@[simp] theorem State.setPort_led (k : Nat) (v : PortS) : (s.setPort k v).led = s.led := rfl
@[simp] theorem State.setPort_accts (k : Nat) (v : PortS) : (s.setPort k v).accts = s.accts := rfl
@[simp] theorem State.setPort_queues (k : Nat) (v : PortS) : (s.setPort k v).queues = s.queues := rfl
@[simp] theorem State.setPort_subPool (k : Nat) (v : PortS) : (s.setPort k v).subPool = s.subPool := rfl
@[simp] theorem State.setPort_engines (k : Nat) (v : PortS) : (s.setPort k v).engines = s.engines := rfl
@[simp] theorem State.setPort_jobs (k : Nat) (v : PortS) : (s.setPort k v).jobs = s.jobs := rfl
@[simp] theorem State.setPort_safes (k : Nat) (v : PortS) : (s.setPort k v).safes = s.safes := rfl
@[simp] theorem State.setPort_dropped (k : Nat) (v : PortS) : (s.setPort k v).dropped = s.dropped := rfl
@[simp] theorem State.setPort_commits (k : Nat) (v : PortS) : (s.setPort k v).commits = s.commits := rfl
@[simp] theorem State.setPort_heldSyn (k : Nat) (v : PortS) : (s.setPort k v).heldSyn = s.heldSyn := rfl
@[simp] theorem State.setPort_waits (k : Nat) (v : PortS) : (s.setPort k v).waits = s.waits := rfl
@[simp] theorem State.setPort_orders (k : Nat) (v : PortS) : (s.setPort k v).orders = s.orders := rfl
@[simp] theorem State.setPort_routines (k : Nat) (v : PortS) : (s.setPort k v).routines = s.routines := rfl
@[simp] theorem State.setPort_outs (k : Nat) (v : PortS) : (s.setPort k v).outs = s.outs := rfl
@[simp] theorem State.setPort_cheques (k : Nat) (v : PortS) : (s.setPort k v).cheques = s.cheques := rfl
@[simp] theorem State.setPort_presses (k : Nat) (v : PortS) : (s.setPort k v).presses = s.presses := rfl
@[simp] theorem State.setPort_mints (k : Nat) (v : PortS) : (s.setPort k v).mints = s.mints := rfl
@[simp] theorem State.setPort_nextCheque (k : Nat) (v : PortS) : (s.setPort k v).nextCheque = s.nextCheque := rfl
@[simp] theorem State.setPort_seq (k : Nat) (v : PortS) : (s.setPort k v).seq = s.seq := rfl
@[simp] theorem State.setPort_avs (k : Nat) (v : PortS) : (s.setPort k v).avs = s.avs := rfl
@[simp] theorem State.setPort_mem (k : Nat) (v : PortS) : (s.setPort k v).mem = s.mem := rfl
@[simp] theorem State.setPort_caps (k : Nat) (v : PortS) : (s.setPort k v).caps = s.caps := rfl
@[simp] theorem State.setPort_link (k : Nat) (v : PortS) : (s.setPort k v).link = s.link := rfl
@[simp] theorem State.setPort_flt (k : Nat) (v : PortS) : (s.setPort k v).flt = s.flt := rfl
@[simp] theorem State.setPort_blanked (k : Nat) (v : PortS) : (s.setPort k v).blanked = s.blanked := rfl
@[simp] theorem State.setPort_checks (k : Nat) (v : PortS) : (s.setPort k v).checks = s.checks := rfl
@[simp] theorem State.setPort_luts (k : Nat) (v : PortS) : (s.setPort k v).luts = s.luts := rfl
@[simp] theorem State.setPort_readyAt (k : Nat) (v : PortS) : (s.setPort k v).readyAt = s.readyAt := rfl
@[simp] theorem State.setPort_written (k : Nat) (v : PortS) : (s.setPort k v).written = s.written := rfl
@[simp] theorem State.setPort_loads (k : Nat) (v : PortS) : (s.setPort k v).loads = s.loads := rfl
@[simp] theorem State.setPort_haps (k : Nat) (v : PortS) : (s.setPort k v).haps = s.haps := rfl
@[simp] theorem State.setPort_touches (k : Nat) (v : PortS) : (s.setPort k v).touches = s.touches := rfl
@[simp] theorem State.setPort_audio (k : Nat) (v : PortS) : (s.setPort k v).audio = s.audio := rfl
@[simp] theorem State.setPort_boot (k : Nat) (v : PortS) : (s.setPort k v).boot = s.boot := rfl
@[simp] theorem State.setPort_subRegions (k : Nat) (v : PortS) : (s.setPort k v).subRegions = s.subRegions := rfl
@[simp] theorem State.setPort_subSlots (k : Nat) (v : PortS) : (s.setPort k v).subSlots = s.subSlots := rfl
@[simp] theorem State.setPort_ticked (k : Nat) (v : PortS) : (s.setPort k v).ticked = s.ticked := rfl
@[simp] theorem State.setPort_legs (k : Nat) (v : PortS) : (s.setPort k v).legs = s.legs := rfl
@[simp] theorem State.setPort_errOwed (k : Nat) (v : PortS) : (s.setPort k v).errOwed = s.errOwed := rfl
@[simp] theorem State.setPort_resp (k : Nat) (v : PortS) : (s.setPort k v).resp = s.resp := rfl
@[simp] theorem State.setPort_pending (k : Nat) (v : PortS) : (s.setPort k v).pending = s.pending := rfl

@[simp] theorem State.setCheck_now (k : Nat) (v : CheckS) : (s.setCheck k v).now = s.now := rfl
@[simp] theorem State.setCheck_regs (k : Nat) (v : CheckS) : (s.setCheck k v).regs = s.regs := rfl
@[simp] theorem State.setCheck_applied (k : Nat) (v : CheckS) : (s.setCheck k v).applied = s.applied := rfl
@[simp] theorem State.setCheck_tally (k : Nat) (v : CheckS) : (s.setCheck k v).tally = s.tally := rfl
@[simp] theorem State.setCheck_levels (k : Nat) (v : CheckS) : (s.setCheck k v).levels = s.levels := rfl
@[simp] theorem State.setCheck_pwt (k : Nat) (v : CheckS) : (s.setCheck k v).pwt = s.pwt := rfl
@[simp] theorem State.setCheck_fresh (k : Nat) (v : CheckS) : (s.setCheck k v).fresh = s.fresh := rfl
@[simp] theorem State.setCheck_dram (k : Nat) (v : CheckS) : (s.setCheck k v).dram = s.dram := rfl
@[simp] theorem State.setCheck_zeroed (k : Nat) (v : CheckS) : (s.setCheck k v).zeroed = s.zeroed := rfl
@[simp] theorem State.setCheck_vault (k : Nat) (v : CheckS) : (s.setCheck k v).vault = s.vault := rfl
@[simp] theorem State.setCheck_led (k : Nat) (v : CheckS) : (s.setCheck k v).led = s.led := rfl
@[simp] theorem State.setCheck_accts (k : Nat) (v : CheckS) : (s.setCheck k v).accts = s.accts := rfl
@[simp] theorem State.setCheck_queues (k : Nat) (v : CheckS) : (s.setCheck k v).queues = s.queues := rfl
@[simp] theorem State.setCheck_subPool (k : Nat) (v : CheckS) : (s.setCheck k v).subPool = s.subPool := rfl
@[simp] theorem State.setCheck_engines (k : Nat) (v : CheckS) : (s.setCheck k v).engines = s.engines := rfl
@[simp] theorem State.setCheck_jobs (k : Nat) (v : CheckS) : (s.setCheck k v).jobs = s.jobs := rfl
@[simp] theorem State.setCheck_safes (k : Nat) (v : CheckS) : (s.setCheck k v).safes = s.safes := rfl
@[simp] theorem State.setCheck_dropped (k : Nat) (v : CheckS) : (s.setCheck k v).dropped = s.dropped := rfl
@[simp] theorem State.setCheck_commits (k : Nat) (v : CheckS) : (s.setCheck k v).commits = s.commits := rfl
@[simp] theorem State.setCheck_heldSyn (k : Nat) (v : CheckS) : (s.setCheck k v).heldSyn = s.heldSyn := rfl
@[simp] theorem State.setCheck_waits (k : Nat) (v : CheckS) : (s.setCheck k v).waits = s.waits := rfl
@[simp] theorem State.setCheck_orders (k : Nat) (v : CheckS) : (s.setCheck k v).orders = s.orders := rfl
@[simp] theorem State.setCheck_routines (k : Nat) (v : CheckS) : (s.setCheck k v).routines = s.routines := rfl
@[simp] theorem State.setCheck_outs (k : Nat) (v : CheckS) : (s.setCheck k v).outs = s.outs := rfl
@[simp] theorem State.setCheck_cheques (k : Nat) (v : CheckS) : (s.setCheck k v).cheques = s.cheques := rfl
@[simp] theorem State.setCheck_presses (k : Nat) (v : CheckS) : (s.setCheck k v).presses = s.presses := rfl
@[simp] theorem State.setCheck_mints (k : Nat) (v : CheckS) : (s.setCheck k v).mints = s.mints := rfl
@[simp] theorem State.setCheck_nextCheque (k : Nat) (v : CheckS) : (s.setCheck k v).nextCheque = s.nextCheque := rfl
@[simp] theorem State.setCheck_seq (k : Nat) (v : CheckS) : (s.setCheck k v).seq = s.seq := rfl
@[simp] theorem State.setCheck_avs (k : Nat) (v : CheckS) : (s.setCheck k v).avs = s.avs := rfl
@[simp] theorem State.setCheck_mem (k : Nat) (v : CheckS) : (s.setCheck k v).mem = s.mem := rfl
@[simp] theorem State.setCheck_caps (k : Nat) (v : CheckS) : (s.setCheck k v).caps = s.caps := rfl
@[simp] theorem State.setCheck_link (k : Nat) (v : CheckS) : (s.setCheck k v).link = s.link := rfl
@[simp] theorem State.setCheck_ports (k : Nat) (v : CheckS) : (s.setCheck k v).ports = s.ports := rfl
@[simp] theorem State.setCheck_flt (k : Nat) (v : CheckS) : (s.setCheck k v).flt = s.flt := rfl
@[simp] theorem State.setCheck_blanked (k : Nat) (v : CheckS) : (s.setCheck k v).blanked = s.blanked := rfl
@[simp] theorem State.setCheck_luts (k : Nat) (v : CheckS) : (s.setCheck k v).luts = s.luts := rfl
@[simp] theorem State.setCheck_readyAt (k : Nat) (v : CheckS) : (s.setCheck k v).readyAt = s.readyAt := rfl
@[simp] theorem State.setCheck_written (k : Nat) (v : CheckS) : (s.setCheck k v).written = s.written := rfl
@[simp] theorem State.setCheck_loads (k : Nat) (v : CheckS) : (s.setCheck k v).loads = s.loads := rfl
@[simp] theorem State.setCheck_haps (k : Nat) (v : CheckS) : (s.setCheck k v).haps = s.haps := rfl
@[simp] theorem State.setCheck_touches (k : Nat) (v : CheckS) : (s.setCheck k v).touches = s.touches := rfl
@[simp] theorem State.setCheck_audio (k : Nat) (v : CheckS) : (s.setCheck k v).audio = s.audio := rfl
@[simp] theorem State.setCheck_boot (k : Nat) (v : CheckS) : (s.setCheck k v).boot = s.boot := rfl
@[simp] theorem State.setCheck_subRegions (k : Nat) (v : CheckS) : (s.setCheck k v).subRegions = s.subRegions := rfl
@[simp] theorem State.setCheck_subSlots (k : Nat) (v : CheckS) : (s.setCheck k v).subSlots = s.subSlots := rfl
@[simp] theorem State.setCheck_ticked (k : Nat) (v : CheckS) : (s.setCheck k v).ticked = s.ticked := rfl
@[simp] theorem State.setCheck_legs (k : Nat) (v : CheckS) : (s.setCheck k v).legs = s.legs := rfl
@[simp] theorem State.setCheck_errOwed (k : Nat) (v : CheckS) : (s.setCheck k v).errOwed = s.errOwed := rfl
@[simp] theorem State.setCheck_resp (k : Nat) (v : CheckS) : (s.setCheck k v).resp = s.resp := rfl
@[simp] theorem State.setCheck_pending (k : Nat) (v : CheckS) : (s.setCheck k v).pending = s.pending := rfl

@[simp] theorem State.setHap_now (k : Nat) (v : HapS) : (s.setHap k v).now = s.now := rfl
@[simp] theorem State.setHap_regs (k : Nat) (v : HapS) : (s.setHap k v).regs = s.regs := rfl
@[simp] theorem State.setHap_applied (k : Nat) (v : HapS) : (s.setHap k v).applied = s.applied := rfl
@[simp] theorem State.setHap_tally (k : Nat) (v : HapS) : (s.setHap k v).tally = s.tally := rfl
@[simp] theorem State.setHap_levels (k : Nat) (v : HapS) : (s.setHap k v).levels = s.levels := rfl
@[simp] theorem State.setHap_pwt (k : Nat) (v : HapS) : (s.setHap k v).pwt = s.pwt := rfl
@[simp] theorem State.setHap_fresh (k : Nat) (v : HapS) : (s.setHap k v).fresh = s.fresh := rfl
@[simp] theorem State.setHap_dram (k : Nat) (v : HapS) : (s.setHap k v).dram = s.dram := rfl
@[simp] theorem State.setHap_zeroed (k : Nat) (v : HapS) : (s.setHap k v).zeroed = s.zeroed := rfl
@[simp] theorem State.setHap_vault (k : Nat) (v : HapS) : (s.setHap k v).vault = s.vault := rfl
@[simp] theorem State.setHap_led (k : Nat) (v : HapS) : (s.setHap k v).led = s.led := rfl
@[simp] theorem State.setHap_accts (k : Nat) (v : HapS) : (s.setHap k v).accts = s.accts := rfl
@[simp] theorem State.setHap_queues (k : Nat) (v : HapS) : (s.setHap k v).queues = s.queues := rfl
@[simp] theorem State.setHap_subPool (k : Nat) (v : HapS) : (s.setHap k v).subPool = s.subPool := rfl
@[simp] theorem State.setHap_engines (k : Nat) (v : HapS) : (s.setHap k v).engines = s.engines := rfl
@[simp] theorem State.setHap_jobs (k : Nat) (v : HapS) : (s.setHap k v).jobs = s.jobs := rfl
@[simp] theorem State.setHap_safes (k : Nat) (v : HapS) : (s.setHap k v).safes = s.safes := rfl
@[simp] theorem State.setHap_dropped (k : Nat) (v : HapS) : (s.setHap k v).dropped = s.dropped := rfl
@[simp] theorem State.setHap_commits (k : Nat) (v : HapS) : (s.setHap k v).commits = s.commits := rfl
@[simp] theorem State.setHap_heldSyn (k : Nat) (v : HapS) : (s.setHap k v).heldSyn = s.heldSyn := rfl
@[simp] theorem State.setHap_waits (k : Nat) (v : HapS) : (s.setHap k v).waits = s.waits := rfl
@[simp] theorem State.setHap_orders (k : Nat) (v : HapS) : (s.setHap k v).orders = s.orders := rfl
@[simp] theorem State.setHap_routines (k : Nat) (v : HapS) : (s.setHap k v).routines = s.routines := rfl
@[simp] theorem State.setHap_outs (k : Nat) (v : HapS) : (s.setHap k v).outs = s.outs := rfl
@[simp] theorem State.setHap_cheques (k : Nat) (v : HapS) : (s.setHap k v).cheques = s.cheques := rfl
@[simp] theorem State.setHap_presses (k : Nat) (v : HapS) : (s.setHap k v).presses = s.presses := rfl
@[simp] theorem State.setHap_mints (k : Nat) (v : HapS) : (s.setHap k v).mints = s.mints := rfl
@[simp] theorem State.setHap_nextCheque (k : Nat) (v : HapS) : (s.setHap k v).nextCheque = s.nextCheque := rfl
@[simp] theorem State.setHap_seq (k : Nat) (v : HapS) : (s.setHap k v).seq = s.seq := rfl
@[simp] theorem State.setHap_avs (k : Nat) (v : HapS) : (s.setHap k v).avs = s.avs := rfl
@[simp] theorem State.setHap_mem (k : Nat) (v : HapS) : (s.setHap k v).mem = s.mem := rfl
@[simp] theorem State.setHap_caps (k : Nat) (v : HapS) : (s.setHap k v).caps = s.caps := rfl
@[simp] theorem State.setHap_link (k : Nat) (v : HapS) : (s.setHap k v).link = s.link := rfl
@[simp] theorem State.setHap_ports (k : Nat) (v : HapS) : (s.setHap k v).ports = s.ports := rfl
@[simp] theorem State.setHap_flt (k : Nat) (v : HapS) : (s.setHap k v).flt = s.flt := rfl
@[simp] theorem State.setHap_blanked (k : Nat) (v : HapS) : (s.setHap k v).blanked = s.blanked := rfl
@[simp] theorem State.setHap_checks (k : Nat) (v : HapS) : (s.setHap k v).checks = s.checks := rfl
@[simp] theorem State.setHap_luts (k : Nat) (v : HapS) : (s.setHap k v).luts = s.luts := rfl
@[simp] theorem State.setHap_readyAt (k : Nat) (v : HapS) : (s.setHap k v).readyAt = s.readyAt := rfl
@[simp] theorem State.setHap_written (k : Nat) (v : HapS) : (s.setHap k v).written = s.written := rfl
@[simp] theorem State.setHap_loads (k : Nat) (v : HapS) : (s.setHap k v).loads = s.loads := rfl
@[simp] theorem State.setHap_touches (k : Nat) (v : HapS) : (s.setHap k v).touches = s.touches := rfl
@[simp] theorem State.setHap_audio (k : Nat) (v : HapS) : (s.setHap k v).audio = s.audio := rfl
@[simp] theorem State.setHap_boot (k : Nat) (v : HapS) : (s.setHap k v).boot = s.boot := rfl
@[simp] theorem State.setHap_subRegions (k : Nat) (v : HapS) : (s.setHap k v).subRegions = s.subRegions := rfl
@[simp] theorem State.setHap_subSlots (k : Nat) (v : HapS) : (s.setHap k v).subSlots = s.subSlots := rfl
@[simp] theorem State.setHap_ticked (k : Nat) (v : HapS) : (s.setHap k v).ticked = s.ticked := rfl
@[simp] theorem State.setHap_legs (k : Nat) (v : HapS) : (s.setHap k v).legs = s.legs := rfl
@[simp] theorem State.setHap_errOwed (k : Nat) (v : HapS) : (s.setHap k v).errOwed = s.errOwed := rfl
@[simp] theorem State.setHap_resp (k : Nat) (v : HapS) : (s.setHap k v).resp = s.resp := rfl
@[simp] theorem State.setHap_pending (k : Nat) (v : HapS) : (s.setHap k v).pending = s.pending := rfl

@[simp] theorem State.setTch_now (k : Nat) (v : TouchS) : (s.setTch k v).now = s.now := rfl
@[simp] theorem State.setTch_regs (k : Nat) (v : TouchS) : (s.setTch k v).regs = s.regs := rfl
@[simp] theorem State.setTch_applied (k : Nat) (v : TouchS) : (s.setTch k v).applied = s.applied := rfl
@[simp] theorem State.setTch_tally (k : Nat) (v : TouchS) : (s.setTch k v).tally = s.tally := rfl
@[simp] theorem State.setTch_levels (k : Nat) (v : TouchS) : (s.setTch k v).levels = s.levels := rfl
@[simp] theorem State.setTch_pwt (k : Nat) (v : TouchS) : (s.setTch k v).pwt = s.pwt := rfl
@[simp] theorem State.setTch_fresh (k : Nat) (v : TouchS) : (s.setTch k v).fresh = s.fresh := rfl
@[simp] theorem State.setTch_dram (k : Nat) (v : TouchS) : (s.setTch k v).dram = s.dram := rfl
@[simp] theorem State.setTch_zeroed (k : Nat) (v : TouchS) : (s.setTch k v).zeroed = s.zeroed := rfl
@[simp] theorem State.setTch_vault (k : Nat) (v : TouchS) : (s.setTch k v).vault = s.vault := rfl
@[simp] theorem State.setTch_led (k : Nat) (v : TouchS) : (s.setTch k v).led = s.led := rfl
@[simp] theorem State.setTch_accts (k : Nat) (v : TouchS) : (s.setTch k v).accts = s.accts := rfl
@[simp] theorem State.setTch_queues (k : Nat) (v : TouchS) : (s.setTch k v).queues = s.queues := rfl
@[simp] theorem State.setTch_subPool (k : Nat) (v : TouchS) : (s.setTch k v).subPool = s.subPool := rfl
@[simp] theorem State.setTch_engines (k : Nat) (v : TouchS) : (s.setTch k v).engines = s.engines := rfl
@[simp] theorem State.setTch_jobs (k : Nat) (v : TouchS) : (s.setTch k v).jobs = s.jobs := rfl
@[simp] theorem State.setTch_safes (k : Nat) (v : TouchS) : (s.setTch k v).safes = s.safes := rfl
@[simp] theorem State.setTch_dropped (k : Nat) (v : TouchS) : (s.setTch k v).dropped = s.dropped := rfl
@[simp] theorem State.setTch_commits (k : Nat) (v : TouchS) : (s.setTch k v).commits = s.commits := rfl
@[simp] theorem State.setTch_heldSyn (k : Nat) (v : TouchS) : (s.setTch k v).heldSyn = s.heldSyn := rfl
@[simp] theorem State.setTch_waits (k : Nat) (v : TouchS) : (s.setTch k v).waits = s.waits := rfl
@[simp] theorem State.setTch_orders (k : Nat) (v : TouchS) : (s.setTch k v).orders = s.orders := rfl
@[simp] theorem State.setTch_routines (k : Nat) (v : TouchS) : (s.setTch k v).routines = s.routines := rfl
@[simp] theorem State.setTch_outs (k : Nat) (v : TouchS) : (s.setTch k v).outs = s.outs := rfl
@[simp] theorem State.setTch_cheques (k : Nat) (v : TouchS) : (s.setTch k v).cheques = s.cheques := rfl
@[simp] theorem State.setTch_presses (k : Nat) (v : TouchS) : (s.setTch k v).presses = s.presses := rfl
@[simp] theorem State.setTch_mints (k : Nat) (v : TouchS) : (s.setTch k v).mints = s.mints := rfl
@[simp] theorem State.setTch_nextCheque (k : Nat) (v : TouchS) : (s.setTch k v).nextCheque = s.nextCheque := rfl
@[simp] theorem State.setTch_seq (k : Nat) (v : TouchS) : (s.setTch k v).seq = s.seq := rfl
@[simp] theorem State.setTch_avs (k : Nat) (v : TouchS) : (s.setTch k v).avs = s.avs := rfl
@[simp] theorem State.setTch_mem (k : Nat) (v : TouchS) : (s.setTch k v).mem = s.mem := rfl
@[simp] theorem State.setTch_caps (k : Nat) (v : TouchS) : (s.setTch k v).caps = s.caps := rfl
@[simp] theorem State.setTch_link (k : Nat) (v : TouchS) : (s.setTch k v).link = s.link := rfl
@[simp] theorem State.setTch_ports (k : Nat) (v : TouchS) : (s.setTch k v).ports = s.ports := rfl
@[simp] theorem State.setTch_flt (k : Nat) (v : TouchS) : (s.setTch k v).flt = s.flt := rfl
@[simp] theorem State.setTch_blanked (k : Nat) (v : TouchS) : (s.setTch k v).blanked = s.blanked := rfl
@[simp] theorem State.setTch_checks (k : Nat) (v : TouchS) : (s.setTch k v).checks = s.checks := rfl
@[simp] theorem State.setTch_luts (k : Nat) (v : TouchS) : (s.setTch k v).luts = s.luts := rfl
@[simp] theorem State.setTch_readyAt (k : Nat) (v : TouchS) : (s.setTch k v).readyAt = s.readyAt := rfl
@[simp] theorem State.setTch_written (k : Nat) (v : TouchS) : (s.setTch k v).written = s.written := rfl
@[simp] theorem State.setTch_loads (k : Nat) (v : TouchS) : (s.setTch k v).loads = s.loads := rfl
@[simp] theorem State.setTch_haps (k : Nat) (v : TouchS) : (s.setTch k v).haps = s.haps := rfl
@[simp] theorem State.setTch_audio (k : Nat) (v : TouchS) : (s.setTch k v).audio = s.audio := rfl
@[simp] theorem State.setTch_boot (k : Nat) (v : TouchS) : (s.setTch k v).boot = s.boot := rfl
@[simp] theorem State.setTch_subRegions (k : Nat) (v : TouchS) : (s.setTch k v).subRegions = s.subRegions := rfl
@[simp] theorem State.setTch_subSlots (k : Nat) (v : TouchS) : (s.setTch k v).subSlots = s.subSlots := rfl
@[simp] theorem State.setTch_ticked (k : Nat) (v : TouchS) : (s.setTch k v).ticked = s.ticked := rfl
@[simp] theorem State.setTch_legs (k : Nat) (v : TouchS) : (s.setTch k v).legs = s.legs := rfl
@[simp] theorem State.setTch_errOwed (k : Nat) (v : TouchS) : (s.setTch k v).errOwed = s.errOwed := rfl
@[simp] theorem State.setTch_resp (k : Nat) (v : TouchS) : (s.setTch k v).resp = s.resp := rfl
@[simp] theorem State.setTch_pending (k : Nat) (v : TouchS) : (s.setTch k v).pending = s.pending := rfl

@[simp] theorem State.count_now (p i n : Nat) : (s.count p i n).now = s.now := rfl
@[simp] theorem State.count_regs (p i n : Nat) : (s.count p i n).regs = s.regs := rfl
@[simp] theorem State.count_applied (p i n : Nat) : (s.count p i n).applied = s.applied := rfl
@[simp] theorem State.count_levels (p i n : Nat) : (s.count p i n).levels = s.levels := rfl
@[simp] theorem State.count_pwt (p i n : Nat) : (s.count p i n).pwt = s.pwt := rfl
@[simp] theorem State.count_fresh (p i n : Nat) : (s.count p i n).fresh = s.fresh := rfl
@[simp] theorem State.count_dram (p i n : Nat) : (s.count p i n).dram = s.dram := rfl
@[simp] theorem State.count_zeroed (p i n : Nat) : (s.count p i n).zeroed = s.zeroed := rfl
@[simp] theorem State.count_vault (p i n : Nat) : (s.count p i n).vault = s.vault := rfl
@[simp] theorem State.count_led (p i n : Nat) : (s.count p i n).led = s.led := rfl
@[simp] theorem State.count_accts (p i n : Nat) : (s.count p i n).accts = s.accts := rfl
@[simp] theorem State.count_queues (p i n : Nat) : (s.count p i n).queues = s.queues := rfl
@[simp] theorem State.count_subPool (p i n : Nat) : (s.count p i n).subPool = s.subPool := rfl
@[simp] theorem State.count_engines (p i n : Nat) : (s.count p i n).engines = s.engines := rfl
@[simp] theorem State.count_jobs (p i n : Nat) : (s.count p i n).jobs = s.jobs := rfl
@[simp] theorem State.count_safes (p i n : Nat) : (s.count p i n).safes = s.safes := rfl
@[simp] theorem State.count_dropped (p i n : Nat) : (s.count p i n).dropped = s.dropped := rfl
@[simp] theorem State.count_commits (p i n : Nat) : (s.count p i n).commits = s.commits := rfl
@[simp] theorem State.count_heldSyn (p i n : Nat) : (s.count p i n).heldSyn = s.heldSyn := rfl
@[simp] theorem State.count_waits (p i n : Nat) : (s.count p i n).waits = s.waits := rfl
@[simp] theorem State.count_orders (p i n : Nat) : (s.count p i n).orders = s.orders := rfl
@[simp] theorem State.count_routines (p i n : Nat) : (s.count p i n).routines = s.routines := rfl
@[simp] theorem State.count_outs (p i n : Nat) : (s.count p i n).outs = s.outs := rfl
@[simp] theorem State.count_cheques (p i n : Nat) : (s.count p i n).cheques = s.cheques := rfl
@[simp] theorem State.count_presses (p i n : Nat) : (s.count p i n).presses = s.presses := rfl
@[simp] theorem State.count_mints (p i n : Nat) : (s.count p i n).mints = s.mints := rfl
@[simp] theorem State.count_nextCheque (p i n : Nat) : (s.count p i n).nextCheque = s.nextCheque := rfl
@[simp] theorem State.count_seq (p i n : Nat) : (s.count p i n).seq = s.seq := rfl
@[simp] theorem State.count_avs (p i n : Nat) : (s.count p i n).avs = s.avs := rfl
@[simp] theorem State.count_mem (p i n : Nat) : (s.count p i n).mem = s.mem := rfl
@[simp] theorem State.count_caps (p i n : Nat) : (s.count p i n).caps = s.caps := rfl
@[simp] theorem State.count_link (p i n : Nat) : (s.count p i n).link = s.link := rfl
@[simp] theorem State.count_ports (p i n : Nat) : (s.count p i n).ports = s.ports := rfl
@[simp] theorem State.count_flt (p i n : Nat) : (s.count p i n).flt = s.flt := rfl
@[simp] theorem State.count_blanked (p i n : Nat) : (s.count p i n).blanked = s.blanked := rfl
@[simp] theorem State.count_checks (p i n : Nat) : (s.count p i n).checks = s.checks := rfl
@[simp] theorem State.count_luts (p i n : Nat) : (s.count p i n).luts = s.luts := rfl
@[simp] theorem State.count_readyAt (p i n : Nat) : (s.count p i n).readyAt = s.readyAt := rfl
@[simp] theorem State.count_written (p i n : Nat) : (s.count p i n).written = s.written := rfl
@[simp] theorem State.count_loads (p i n : Nat) : (s.count p i n).loads = s.loads := rfl
@[simp] theorem State.count_haps (p i n : Nat) : (s.count p i n).haps = s.haps := rfl
@[simp] theorem State.count_touches (p i n : Nat) : (s.count p i n).touches = s.touches := rfl
@[simp] theorem State.count_audio (p i n : Nat) : (s.count p i n).audio = s.audio := rfl
@[simp] theorem State.count_boot (p i n : Nat) : (s.count p i n).boot = s.boot := rfl
@[simp] theorem State.count_subRegions (p i n : Nat) : (s.count p i n).subRegions = s.subRegions := rfl
@[simp] theorem State.count_subSlots (p i n : Nat) : (s.count p i n).subSlots = s.subSlots := rfl
@[simp] theorem State.count_ticked (p i n : Nat) : (s.count p i n).ticked = s.ticked := rfl
@[simp] theorem State.count_legs (p i n : Nat) : (s.count p i n).legs = s.legs := rfl
@[simp] theorem State.count_errOwed (p i n : Nat) : (s.count p i n).errOwed = s.errOwed := rfl
@[simp] theorem State.count_resp (p i n : Nat) : (s.count p i n).resp = s.resp := rfl
@[simp] theorem State.count_pending (p i n : Nat) : (s.count p i n).pending = s.pending := rfl

@[simp] theorem State.countOps_now (m n : Nat) : (s.countOps m n).now = s.now := rfl
@[simp] theorem State.countOps_regs (m n : Nat) : (s.countOps m n).regs = s.regs := rfl
@[simp] theorem State.countOps_applied (m n : Nat) : (s.countOps m n).applied = s.applied := rfl
@[simp] theorem State.countOps_levels (m n : Nat) : (s.countOps m n).levels = s.levels := rfl
@[simp] theorem State.countOps_pwt (m n : Nat) : (s.countOps m n).pwt = s.pwt := rfl
@[simp] theorem State.countOps_fresh (m n : Nat) : (s.countOps m n).fresh = s.fresh := rfl
@[simp] theorem State.countOps_dram (m n : Nat) : (s.countOps m n).dram = s.dram := rfl
@[simp] theorem State.countOps_zeroed (m n : Nat) : (s.countOps m n).zeroed = s.zeroed := rfl
@[simp] theorem State.countOps_vault (m n : Nat) : (s.countOps m n).vault = s.vault := rfl
@[simp] theorem State.countOps_led (m n : Nat) : (s.countOps m n).led = s.led := rfl
@[simp] theorem State.countOps_accts (m n : Nat) : (s.countOps m n).accts = s.accts := rfl
@[simp] theorem State.countOps_queues (m n : Nat) : (s.countOps m n).queues = s.queues := rfl
@[simp] theorem State.countOps_subPool (m n : Nat) : (s.countOps m n).subPool = s.subPool := rfl
@[simp] theorem State.countOps_engines (m n : Nat) : (s.countOps m n).engines = s.engines := rfl
@[simp] theorem State.countOps_jobs (m n : Nat) : (s.countOps m n).jobs = s.jobs := rfl
@[simp] theorem State.countOps_safes (m n : Nat) : (s.countOps m n).safes = s.safes := rfl
@[simp] theorem State.countOps_dropped (m n : Nat) : (s.countOps m n).dropped = s.dropped := rfl
@[simp] theorem State.countOps_commits (m n : Nat) : (s.countOps m n).commits = s.commits := rfl
@[simp] theorem State.countOps_heldSyn (m n : Nat) : (s.countOps m n).heldSyn = s.heldSyn := rfl
@[simp] theorem State.countOps_waits (m n : Nat) : (s.countOps m n).waits = s.waits := rfl
@[simp] theorem State.countOps_orders (m n : Nat) : (s.countOps m n).orders = s.orders := rfl
@[simp] theorem State.countOps_routines (m n : Nat) : (s.countOps m n).routines = s.routines := rfl
@[simp] theorem State.countOps_outs (m n : Nat) : (s.countOps m n).outs = s.outs := rfl
@[simp] theorem State.countOps_cheques (m n : Nat) : (s.countOps m n).cheques = s.cheques := rfl
@[simp] theorem State.countOps_presses (m n : Nat) : (s.countOps m n).presses = s.presses := rfl
@[simp] theorem State.countOps_mints (m n : Nat) : (s.countOps m n).mints = s.mints := rfl
@[simp] theorem State.countOps_nextCheque (m n : Nat) : (s.countOps m n).nextCheque = s.nextCheque := rfl
@[simp] theorem State.countOps_seq (m n : Nat) : (s.countOps m n).seq = s.seq := rfl
@[simp] theorem State.countOps_avs (m n : Nat) : (s.countOps m n).avs = s.avs := rfl
@[simp] theorem State.countOps_mem (m n : Nat) : (s.countOps m n).mem = s.mem := rfl
@[simp] theorem State.countOps_caps (m n : Nat) : (s.countOps m n).caps = s.caps := rfl
@[simp] theorem State.countOps_link (m n : Nat) : (s.countOps m n).link = s.link := rfl
@[simp] theorem State.countOps_ports (m n : Nat) : (s.countOps m n).ports = s.ports := rfl
@[simp] theorem State.countOps_flt (m n : Nat) : (s.countOps m n).flt = s.flt := rfl
@[simp] theorem State.countOps_blanked (m n : Nat) : (s.countOps m n).blanked = s.blanked := rfl
@[simp] theorem State.countOps_checks (m n : Nat) : (s.countOps m n).checks = s.checks := rfl
@[simp] theorem State.countOps_luts (m n : Nat) : (s.countOps m n).luts = s.luts := rfl
@[simp] theorem State.countOps_readyAt (m n : Nat) : (s.countOps m n).readyAt = s.readyAt := rfl
@[simp] theorem State.countOps_written (m n : Nat) : (s.countOps m n).written = s.written := rfl
@[simp] theorem State.countOps_loads (m n : Nat) : (s.countOps m n).loads = s.loads := rfl
@[simp] theorem State.countOps_haps (m n : Nat) : (s.countOps m n).haps = s.haps := rfl
@[simp] theorem State.countOps_touches (m n : Nat) : (s.countOps m n).touches = s.touches := rfl
@[simp] theorem State.countOps_audio (m n : Nat) : (s.countOps m n).audio = s.audio := rfl
@[simp] theorem State.countOps_boot (m n : Nat) : (s.countOps m n).boot = s.boot := rfl
@[simp] theorem State.countOps_subRegions (m n : Nat) : (s.countOps m n).subRegions = s.subRegions := rfl
@[simp] theorem State.countOps_subSlots (m n : Nat) : (s.countOps m n).subSlots = s.subSlots := rfl
@[simp] theorem State.countOps_ticked (m n : Nat) : (s.countOps m n).ticked = s.ticked := rfl
@[simp] theorem State.countOps_legs (m n : Nat) : (s.countOps m n).legs = s.legs := rfl
@[simp] theorem State.countOps_errOwed (m n : Nat) : (s.countOps m n).errOwed = s.errOwed := rfl
@[simp] theorem State.countOps_resp (m n : Nat) : (s.countOps m n).resp = s.resp := rfl
@[simp] theorem State.countOps_pending (m n : Nat) : (s.countOps m n).pending = s.pending := rfl

@[simp] theorem State.next_now : (s.next).now = s.now := rfl
@[simp] theorem State.next_regs : (s.next).regs = s.regs := rfl
@[simp] theorem State.next_applied : (s.next).applied = s.applied := rfl
@[simp] theorem State.next_tally : (s.next).tally = s.tally := rfl
@[simp] theorem State.next_levels : (s.next).levels = s.levels := rfl
@[simp] theorem State.next_pwt : (s.next).pwt = s.pwt := rfl
@[simp] theorem State.next_dram : (s.next).dram = s.dram := rfl
@[simp] theorem State.next_zeroed : (s.next).zeroed = s.zeroed := rfl
@[simp] theorem State.next_vault : (s.next).vault = s.vault := rfl
@[simp] theorem State.next_led : (s.next).led = s.led := rfl
@[simp] theorem State.next_accts : (s.next).accts = s.accts := rfl
@[simp] theorem State.next_queues : (s.next).queues = s.queues := rfl
@[simp] theorem State.next_subPool : (s.next).subPool = s.subPool := rfl
@[simp] theorem State.next_engines : (s.next).engines = s.engines := rfl
@[simp] theorem State.next_jobs : (s.next).jobs = s.jobs := rfl
@[simp] theorem State.next_safes : (s.next).safes = s.safes := rfl
@[simp] theorem State.next_dropped : (s.next).dropped = s.dropped := rfl
@[simp] theorem State.next_commits : (s.next).commits = s.commits := rfl
@[simp] theorem State.next_heldSyn : (s.next).heldSyn = s.heldSyn := rfl
@[simp] theorem State.next_waits : (s.next).waits = s.waits := rfl
@[simp] theorem State.next_orders : (s.next).orders = s.orders := rfl
@[simp] theorem State.next_routines : (s.next).routines = s.routines := rfl
@[simp] theorem State.next_outs : (s.next).outs = s.outs := rfl
@[simp] theorem State.next_cheques : (s.next).cheques = s.cheques := rfl
@[simp] theorem State.next_presses : (s.next).presses = s.presses := rfl
@[simp] theorem State.next_mints : (s.next).mints = s.mints := rfl
@[simp] theorem State.next_nextCheque : (s.next).nextCheque = s.nextCheque := rfl
@[simp] theorem State.next_seq : (s.next).seq = s.seq := rfl
@[simp] theorem State.next_avs : (s.next).avs = s.avs := rfl
@[simp] theorem State.next_mem : (s.next).mem = s.mem := rfl
@[simp] theorem State.next_caps : (s.next).caps = s.caps := rfl
@[simp] theorem State.next_link : (s.next).link = s.link := rfl
@[simp] theorem State.next_ports : (s.next).ports = s.ports := rfl
@[simp] theorem State.next_flt : (s.next).flt = s.flt := rfl
@[simp] theorem State.next_blanked : (s.next).blanked = s.blanked := rfl
@[simp] theorem State.next_checks : (s.next).checks = s.checks := rfl
@[simp] theorem State.next_luts : (s.next).luts = s.luts := rfl
@[simp] theorem State.next_readyAt : (s.next).readyAt = s.readyAt := rfl
@[simp] theorem State.next_written : (s.next).written = s.written := rfl
@[simp] theorem State.next_loads : (s.next).loads = s.loads := rfl
@[simp] theorem State.next_haps : (s.next).haps = s.haps := rfl
@[simp] theorem State.next_touches : (s.next).touches = s.touches := rfl
@[simp] theorem State.next_audio : (s.next).audio = s.audio := rfl
@[simp] theorem State.next_boot : (s.next).boot = s.boot := rfl
@[simp] theorem State.next_subRegions : (s.next).subRegions = s.subRegions := rfl
@[simp] theorem State.next_subSlots : (s.next).subSlots = s.subSlots := rfl
@[simp] theorem State.next_ticked : (s.next).ticked = s.ticked := rfl
@[simp] theorem State.next_legs : (s.next).legs = s.legs := rfl
@[simp] theorem State.next_errOwed : (s.next).errOwed = s.errOwed := rfl
@[simp] theorem State.next_resp : (s.next).resp = s.resp := rfl
@[simp] theorem State.next_pending : (s.next).pending = s.pending := rfl

@[simp] theorem State.setWq_now (c : Nat) (q : List (Nat × List Byte)) : (s.setWq c q).now = s.now := rfl
@[simp] theorem State.setWq_regs (c : Nat) (q : List (Nat × List Byte)) : (s.setWq c q).regs = s.regs := rfl
@[simp] theorem State.setWq_applied (c : Nat) (q : List (Nat × List Byte)) : (s.setWq c q).applied = s.applied := rfl
@[simp] theorem State.setWq_tally (c : Nat) (q : List (Nat × List Byte)) : (s.setWq c q).tally = s.tally := rfl
@[simp] theorem State.setWq_levels (c : Nat) (q : List (Nat × List Byte)) : (s.setWq c q).levels = s.levels := rfl
@[simp] theorem State.setWq_pwt (c : Nat) (q : List (Nat × List Byte)) : (s.setWq c q).pwt = s.pwt := rfl
@[simp] theorem State.setWq_fresh (c : Nat) (q : List (Nat × List Byte)) : (s.setWq c q).fresh = s.fresh := rfl
@[simp] theorem State.setWq_dram (c : Nat) (q : List (Nat × List Byte)) : (s.setWq c q).dram = s.dram := rfl
@[simp] theorem State.setWq_zeroed (c : Nat) (q : List (Nat × List Byte)) : (s.setWq c q).zeroed = s.zeroed := rfl
@[simp] theorem State.setWq_vault (c : Nat) (q : List (Nat × List Byte)) : (s.setWq c q).vault = s.vault := rfl
@[simp] theorem State.setWq_led (c : Nat) (q : List (Nat × List Byte)) : (s.setWq c q).led = s.led := rfl
@[simp] theorem State.setWq_accts (c : Nat) (q : List (Nat × List Byte)) : (s.setWq c q).accts = s.accts := rfl
@[simp] theorem State.setWq_queues (c : Nat) (q : List (Nat × List Byte)) : (s.setWq c q).queues = s.queues := rfl
@[simp] theorem State.setWq_subPool (c : Nat) (q : List (Nat × List Byte)) : (s.setWq c q).subPool = s.subPool := rfl
@[simp] theorem State.setWq_engines (c : Nat) (q : List (Nat × List Byte)) : (s.setWq c q).engines = s.engines := rfl
@[simp] theorem State.setWq_jobs (c : Nat) (q : List (Nat × List Byte)) : (s.setWq c q).jobs = s.jobs := rfl
@[simp] theorem State.setWq_safes (c : Nat) (q : List (Nat × List Byte)) : (s.setWq c q).safes = s.safes := rfl
@[simp] theorem State.setWq_dropped (c : Nat) (q : List (Nat × List Byte)) : (s.setWq c q).dropped = s.dropped := rfl
@[simp] theorem State.setWq_commits (c : Nat) (q : List (Nat × List Byte)) : (s.setWq c q).commits = s.commits := rfl
@[simp] theorem State.setWq_heldSyn (c : Nat) (q : List (Nat × List Byte)) : (s.setWq c q).heldSyn = s.heldSyn := rfl
@[simp] theorem State.setWq_waits (c : Nat) (q : List (Nat × List Byte)) : (s.setWq c q).waits = s.waits := rfl
@[simp] theorem State.setWq_orders (c : Nat) (q : List (Nat × List Byte)) : (s.setWq c q).orders = s.orders := rfl
@[simp] theorem State.setWq_routines (c : Nat) (q : List (Nat × List Byte)) : (s.setWq c q).routines = s.routines := rfl
@[simp] theorem State.setWq_outs (c : Nat) (q : List (Nat × List Byte)) : (s.setWq c q).outs = s.outs := rfl
@[simp] theorem State.setWq_cheques (c : Nat) (q : List (Nat × List Byte)) : (s.setWq c q).cheques = s.cheques := rfl
@[simp] theorem State.setWq_presses (c : Nat) (q : List (Nat × List Byte)) : (s.setWq c q).presses = s.presses := rfl
@[simp] theorem State.setWq_mints (c : Nat) (q : List (Nat × List Byte)) : (s.setWq c q).mints = s.mints := rfl
@[simp] theorem State.setWq_nextCheque (c : Nat) (q : List (Nat × List Byte)) : (s.setWq c q).nextCheque = s.nextCheque := rfl
@[simp] theorem State.setWq_seq (c : Nat) (q : List (Nat × List Byte)) : (s.setWq c q).seq = s.seq := rfl
@[simp] theorem State.setWq_avs (c : Nat) (q : List (Nat × List Byte)) : (s.setWq c q).avs = s.avs := rfl
@[simp] theorem State.setWq_caps (c : Nat) (q : List (Nat × List Byte)) : (s.setWq c q).caps = s.caps := rfl
@[simp] theorem State.setWq_link (c : Nat) (q : List (Nat × List Byte)) : (s.setWq c q).link = s.link := rfl
@[simp] theorem State.setWq_ports (c : Nat) (q : List (Nat × List Byte)) : (s.setWq c q).ports = s.ports := rfl
@[simp] theorem State.setWq_flt (c : Nat) (q : List (Nat × List Byte)) : (s.setWq c q).flt = s.flt := rfl
@[simp] theorem State.setWq_blanked (c : Nat) (q : List (Nat × List Byte)) : (s.setWq c q).blanked = s.blanked := rfl
@[simp] theorem State.setWq_checks (c : Nat) (q : List (Nat × List Byte)) : (s.setWq c q).checks = s.checks := rfl
@[simp] theorem State.setWq_luts (c : Nat) (q : List (Nat × List Byte)) : (s.setWq c q).luts = s.luts := rfl
@[simp] theorem State.setWq_readyAt (c : Nat) (q : List (Nat × List Byte)) : (s.setWq c q).readyAt = s.readyAt := rfl
@[simp] theorem State.setWq_written (c : Nat) (q : List (Nat × List Byte)) : (s.setWq c q).written = s.written := rfl
@[simp] theorem State.setWq_loads (c : Nat) (q : List (Nat × List Byte)) : (s.setWq c q).loads = s.loads := rfl
@[simp] theorem State.setWq_haps (c : Nat) (q : List (Nat × List Byte)) : (s.setWq c q).haps = s.haps := rfl
@[simp] theorem State.setWq_touches (c : Nat) (q : List (Nat × List Byte)) : (s.setWq c q).touches = s.touches := rfl
@[simp] theorem State.setWq_audio (c : Nat) (q : List (Nat × List Byte)) : (s.setWq c q).audio = s.audio := rfl
@[simp] theorem State.setWq_boot (c : Nat) (q : List (Nat × List Byte)) : (s.setWq c q).boot = s.boot := rfl
@[simp] theorem State.setWq_subRegions (c : Nat) (q : List (Nat × List Byte)) : (s.setWq c q).subRegions = s.subRegions := rfl
@[simp] theorem State.setWq_subSlots (c : Nat) (q : List (Nat × List Byte)) : (s.setWq c q).subSlots = s.subSlots := rfl
@[simp] theorem State.setWq_ticked (c : Nat) (q : List (Nat × List Byte)) : (s.setWq c q).ticked = s.ticked := rfl
@[simp] theorem State.setWq_legs (c : Nat) (q : List (Nat × List Byte)) : (s.setWq c q).legs = s.legs := rfl
@[simp] theorem State.setWq_errOwed (c : Nat) (q : List (Nat × List Byte)) : (s.setWq c q).errOwed = s.errOwed := rfl
@[simp] theorem State.setWq_resp (c : Nat) (q : List (Nat × List Byte)) : (s.setWq c q).resp = s.resp := rfl
@[simp] theorem State.setWq_pending (c : Nat) (q : List (Nat × List Byte)) : (s.setWq c q).pending = s.pending := rfl

@[simp] theorem State.setDram_now (a : Nat) (b : Byte) : (s.setDram a b).now = s.now := rfl
@[simp] theorem State.setDram_regs (a : Nat) (b : Byte) : (s.setDram a b).regs = s.regs := rfl
@[simp] theorem State.setDram_applied (a : Nat) (b : Byte) : (s.setDram a b).applied = s.applied := rfl
@[simp] theorem State.setDram_tally (a : Nat) (b : Byte) : (s.setDram a b).tally = s.tally := rfl
@[simp] theorem State.setDram_levels (a : Nat) (b : Byte) : (s.setDram a b).levels = s.levels := rfl
@[simp] theorem State.setDram_pwt (a : Nat) (b : Byte) : (s.setDram a b).pwt = s.pwt := rfl
@[simp] theorem State.setDram_fresh (a : Nat) (b : Byte) : (s.setDram a b).fresh = s.fresh := rfl
@[simp] theorem State.setDram_zeroed (a : Nat) (b : Byte) : (s.setDram a b).zeroed = s.zeroed := rfl
@[simp] theorem State.setDram_vault (a : Nat) (b : Byte) : (s.setDram a b).vault = s.vault := rfl
@[simp] theorem State.setDram_led (a : Nat) (b : Byte) : (s.setDram a b).led = s.led := rfl
@[simp] theorem State.setDram_accts (a : Nat) (b : Byte) : (s.setDram a b).accts = s.accts := rfl
@[simp] theorem State.setDram_queues (a : Nat) (b : Byte) : (s.setDram a b).queues = s.queues := rfl
@[simp] theorem State.setDram_subPool (a : Nat) (b : Byte) : (s.setDram a b).subPool = s.subPool := rfl
@[simp] theorem State.setDram_engines (a : Nat) (b : Byte) : (s.setDram a b).engines = s.engines := rfl
@[simp] theorem State.setDram_jobs (a : Nat) (b : Byte) : (s.setDram a b).jobs = s.jobs := rfl
@[simp] theorem State.setDram_safes (a : Nat) (b : Byte) : (s.setDram a b).safes = s.safes := rfl
@[simp] theorem State.setDram_dropped (a : Nat) (b : Byte) : (s.setDram a b).dropped = s.dropped := rfl
@[simp] theorem State.setDram_commits (a : Nat) (b : Byte) : (s.setDram a b).commits = s.commits := rfl
@[simp] theorem State.setDram_heldSyn (a : Nat) (b : Byte) : (s.setDram a b).heldSyn = s.heldSyn := rfl
@[simp] theorem State.setDram_waits (a : Nat) (b : Byte) : (s.setDram a b).waits = s.waits := rfl
@[simp] theorem State.setDram_orders (a : Nat) (b : Byte) : (s.setDram a b).orders = s.orders := rfl
@[simp] theorem State.setDram_routines (a : Nat) (b : Byte) : (s.setDram a b).routines = s.routines := rfl
@[simp] theorem State.setDram_outs (a : Nat) (b : Byte) : (s.setDram a b).outs = s.outs := rfl
@[simp] theorem State.setDram_cheques (a : Nat) (b : Byte) : (s.setDram a b).cheques = s.cheques := rfl
@[simp] theorem State.setDram_presses (a : Nat) (b : Byte) : (s.setDram a b).presses = s.presses := rfl
@[simp] theorem State.setDram_mints (a : Nat) (b : Byte) : (s.setDram a b).mints = s.mints := rfl
@[simp] theorem State.setDram_nextCheque (a : Nat) (b : Byte) : (s.setDram a b).nextCheque = s.nextCheque := rfl
@[simp] theorem State.setDram_seq (a : Nat) (b : Byte) : (s.setDram a b).seq = s.seq := rfl
@[simp] theorem State.setDram_avs (a : Nat) (b : Byte) : (s.setDram a b).avs = s.avs := rfl
@[simp] theorem State.setDram_mem (a : Nat) (b : Byte) : (s.setDram a b).mem = s.mem := rfl
@[simp] theorem State.setDram_caps (a : Nat) (b : Byte) : (s.setDram a b).caps = s.caps := rfl
@[simp] theorem State.setDram_link (a : Nat) (b : Byte) : (s.setDram a b).link = s.link := rfl
@[simp] theorem State.setDram_ports (a : Nat) (b : Byte) : (s.setDram a b).ports = s.ports := rfl
@[simp] theorem State.setDram_flt (a : Nat) (b : Byte) : (s.setDram a b).flt = s.flt := rfl
@[simp] theorem State.setDram_blanked (a : Nat) (b : Byte) : (s.setDram a b).blanked = s.blanked := rfl
@[simp] theorem State.setDram_checks (a : Nat) (b : Byte) : (s.setDram a b).checks = s.checks := rfl
@[simp] theorem State.setDram_luts (a : Nat) (b : Byte) : (s.setDram a b).luts = s.luts := rfl
@[simp] theorem State.setDram_readyAt (a : Nat) (b : Byte) : (s.setDram a b).readyAt = s.readyAt := rfl
@[simp] theorem State.setDram_written (a : Nat) (b : Byte) : (s.setDram a b).written = s.written := rfl
@[simp] theorem State.setDram_loads (a : Nat) (b : Byte) : (s.setDram a b).loads = s.loads := rfl
@[simp] theorem State.setDram_haps (a : Nat) (b : Byte) : (s.setDram a b).haps = s.haps := rfl
@[simp] theorem State.setDram_touches (a : Nat) (b : Byte) : (s.setDram a b).touches = s.touches := rfl
@[simp] theorem State.setDram_audio (a : Nat) (b : Byte) : (s.setDram a b).audio = s.audio := rfl
@[simp] theorem State.setDram_boot (a : Nat) (b : Byte) : (s.setDram a b).boot = s.boot := rfl
@[simp] theorem State.setDram_subRegions (a : Nat) (b : Byte) : (s.setDram a b).subRegions = s.subRegions := rfl
@[simp] theorem State.setDram_subSlots (a : Nat) (b : Byte) : (s.setDram a b).subSlots = s.subSlots := rfl
@[simp] theorem State.setDram_ticked (a : Nat) (b : Byte) : (s.setDram a b).ticked = s.ticked := rfl
@[simp] theorem State.setDram_legs (a : Nat) (b : Byte) : (s.setDram a b).legs = s.legs := rfl
@[simp] theorem State.setDram_errOwed (a : Nat) (b : Byte) : (s.setDram a b).errOwed = s.errOwed := rfl
@[simp] theorem State.setDram_resp (a : Nat) (b : Byte) : (s.setDram a b).resp = s.resp := rfl
@[simp] theorem State.setDram_pending (a : Nat) (b : Byte) : (s.setDram a b).pending = s.pending := rfl

@[simp] theorem State.setVault_now (a : Nat) (b : Byte) : (s.setVault a b).now = s.now := rfl
@[simp] theorem State.setVault_regs (a : Nat) (b : Byte) : (s.setVault a b).regs = s.regs := rfl
@[simp] theorem State.setVault_applied (a : Nat) (b : Byte) : (s.setVault a b).applied = s.applied := rfl
@[simp] theorem State.setVault_tally (a : Nat) (b : Byte) : (s.setVault a b).tally = s.tally := rfl
@[simp] theorem State.setVault_levels (a : Nat) (b : Byte) : (s.setVault a b).levels = s.levels := rfl
@[simp] theorem State.setVault_pwt (a : Nat) (b : Byte) : (s.setVault a b).pwt = s.pwt := rfl
@[simp] theorem State.setVault_fresh (a : Nat) (b : Byte) : (s.setVault a b).fresh = s.fresh := rfl
@[simp] theorem State.setVault_dram (a : Nat) (b : Byte) : (s.setVault a b).dram = s.dram := rfl
@[simp] theorem State.setVault_zeroed (a : Nat) (b : Byte) : (s.setVault a b).zeroed = s.zeroed := rfl
@[simp] theorem State.setVault_led (a : Nat) (b : Byte) : (s.setVault a b).led = s.led := rfl
@[simp] theorem State.setVault_accts (a : Nat) (b : Byte) : (s.setVault a b).accts = s.accts := rfl
@[simp] theorem State.setVault_queues (a : Nat) (b : Byte) : (s.setVault a b).queues = s.queues := rfl
@[simp] theorem State.setVault_subPool (a : Nat) (b : Byte) : (s.setVault a b).subPool = s.subPool := rfl
@[simp] theorem State.setVault_engines (a : Nat) (b : Byte) : (s.setVault a b).engines = s.engines := rfl
@[simp] theorem State.setVault_jobs (a : Nat) (b : Byte) : (s.setVault a b).jobs = s.jobs := rfl
@[simp] theorem State.setVault_safes (a : Nat) (b : Byte) : (s.setVault a b).safes = s.safes := rfl
@[simp] theorem State.setVault_dropped (a : Nat) (b : Byte) : (s.setVault a b).dropped = s.dropped := rfl
@[simp] theorem State.setVault_commits (a : Nat) (b : Byte) : (s.setVault a b).commits = s.commits := rfl
@[simp] theorem State.setVault_heldSyn (a : Nat) (b : Byte) : (s.setVault a b).heldSyn = s.heldSyn := rfl
@[simp] theorem State.setVault_waits (a : Nat) (b : Byte) : (s.setVault a b).waits = s.waits := rfl
@[simp] theorem State.setVault_orders (a : Nat) (b : Byte) : (s.setVault a b).orders = s.orders := rfl
@[simp] theorem State.setVault_routines (a : Nat) (b : Byte) : (s.setVault a b).routines = s.routines := rfl
@[simp] theorem State.setVault_outs (a : Nat) (b : Byte) : (s.setVault a b).outs = s.outs := rfl
@[simp] theorem State.setVault_cheques (a : Nat) (b : Byte) : (s.setVault a b).cheques = s.cheques := rfl
@[simp] theorem State.setVault_presses (a : Nat) (b : Byte) : (s.setVault a b).presses = s.presses := rfl
@[simp] theorem State.setVault_mints (a : Nat) (b : Byte) : (s.setVault a b).mints = s.mints := rfl
@[simp] theorem State.setVault_nextCheque (a : Nat) (b : Byte) : (s.setVault a b).nextCheque = s.nextCheque := rfl
@[simp] theorem State.setVault_seq (a : Nat) (b : Byte) : (s.setVault a b).seq = s.seq := rfl
@[simp] theorem State.setVault_avs (a : Nat) (b : Byte) : (s.setVault a b).avs = s.avs := rfl
@[simp] theorem State.setVault_mem (a : Nat) (b : Byte) : (s.setVault a b).mem = s.mem := rfl
@[simp] theorem State.setVault_caps (a : Nat) (b : Byte) : (s.setVault a b).caps = s.caps := rfl
@[simp] theorem State.setVault_link (a : Nat) (b : Byte) : (s.setVault a b).link = s.link := rfl
@[simp] theorem State.setVault_ports (a : Nat) (b : Byte) : (s.setVault a b).ports = s.ports := rfl
@[simp] theorem State.setVault_flt (a : Nat) (b : Byte) : (s.setVault a b).flt = s.flt := rfl
@[simp] theorem State.setVault_blanked (a : Nat) (b : Byte) : (s.setVault a b).blanked = s.blanked := rfl
@[simp] theorem State.setVault_checks (a : Nat) (b : Byte) : (s.setVault a b).checks = s.checks := rfl
@[simp] theorem State.setVault_luts (a : Nat) (b : Byte) : (s.setVault a b).luts = s.luts := rfl
@[simp] theorem State.setVault_readyAt (a : Nat) (b : Byte) : (s.setVault a b).readyAt = s.readyAt := rfl
@[simp] theorem State.setVault_written (a : Nat) (b : Byte) : (s.setVault a b).written = s.written := rfl
@[simp] theorem State.setVault_loads (a : Nat) (b : Byte) : (s.setVault a b).loads = s.loads := rfl
@[simp] theorem State.setVault_haps (a : Nat) (b : Byte) : (s.setVault a b).haps = s.haps := rfl
@[simp] theorem State.setVault_touches (a : Nat) (b : Byte) : (s.setVault a b).touches = s.touches := rfl
@[simp] theorem State.setVault_audio (a : Nat) (b : Byte) : (s.setVault a b).audio = s.audio := rfl
@[simp] theorem State.setVault_boot (a : Nat) (b : Byte) : (s.setVault a b).boot = s.boot := rfl
@[simp] theorem State.setVault_subRegions (a : Nat) (b : Byte) : (s.setVault a b).subRegions = s.subRegions := rfl
@[simp] theorem State.setVault_subSlots (a : Nat) (b : Byte) : (s.setVault a b).subSlots = s.subSlots := rfl
@[simp] theorem State.setVault_ticked (a : Nat) (b : Byte) : (s.setVault a b).ticked = s.ticked := rfl
@[simp] theorem State.setVault_legs (a : Nat) (b : Byte) : (s.setVault a b).legs = s.legs := rfl
@[simp] theorem State.setVault_errOwed (a : Nat) (b : Byte) : (s.setVault a b).errOwed = s.errOwed := rfl
@[simp] theorem State.setVault_resp (a : Nat) (b : Byte) : (s.setVault a b).resp = s.resp := rfl
@[simp] theorem State.setVault_pending (a : Nat) (b : Byte) : (s.setVault a b).pending = s.pending := rfl

@[simp] theorem State.setLut_now (k : Nat) (v : Word) : (s.setLut k v).now = s.now := rfl
@[simp] theorem State.setLut_regs (k : Nat) (v : Word) : (s.setLut k v).regs = s.regs := rfl
@[simp] theorem State.setLut_applied (k : Nat) (v : Word) : (s.setLut k v).applied = s.applied := rfl
@[simp] theorem State.setLut_tally (k : Nat) (v : Word) : (s.setLut k v).tally = s.tally := rfl
@[simp] theorem State.setLut_levels (k : Nat) (v : Word) : (s.setLut k v).levels = s.levels := rfl
@[simp] theorem State.setLut_pwt (k : Nat) (v : Word) : (s.setLut k v).pwt = s.pwt := rfl
@[simp] theorem State.setLut_fresh (k : Nat) (v : Word) : (s.setLut k v).fresh = s.fresh := rfl
@[simp] theorem State.setLut_dram (k : Nat) (v : Word) : (s.setLut k v).dram = s.dram := rfl
@[simp] theorem State.setLut_zeroed (k : Nat) (v : Word) : (s.setLut k v).zeroed = s.zeroed := rfl
@[simp] theorem State.setLut_vault (k : Nat) (v : Word) : (s.setLut k v).vault = s.vault := rfl
@[simp] theorem State.setLut_led (k : Nat) (v : Word) : (s.setLut k v).led = s.led := rfl
@[simp] theorem State.setLut_accts (k : Nat) (v : Word) : (s.setLut k v).accts = s.accts := rfl
@[simp] theorem State.setLut_queues (k : Nat) (v : Word) : (s.setLut k v).queues = s.queues := rfl
@[simp] theorem State.setLut_subPool (k : Nat) (v : Word) : (s.setLut k v).subPool = s.subPool := rfl
@[simp] theorem State.setLut_engines (k : Nat) (v : Word) : (s.setLut k v).engines = s.engines := rfl
@[simp] theorem State.setLut_jobs (k : Nat) (v : Word) : (s.setLut k v).jobs = s.jobs := rfl
@[simp] theorem State.setLut_safes (k : Nat) (v : Word) : (s.setLut k v).safes = s.safes := rfl
@[simp] theorem State.setLut_dropped (k : Nat) (v : Word) : (s.setLut k v).dropped = s.dropped := rfl
@[simp] theorem State.setLut_commits (k : Nat) (v : Word) : (s.setLut k v).commits = s.commits := rfl
@[simp] theorem State.setLut_heldSyn (k : Nat) (v : Word) : (s.setLut k v).heldSyn = s.heldSyn := rfl
@[simp] theorem State.setLut_waits (k : Nat) (v : Word) : (s.setLut k v).waits = s.waits := rfl
@[simp] theorem State.setLut_orders (k : Nat) (v : Word) : (s.setLut k v).orders = s.orders := rfl
@[simp] theorem State.setLut_routines (k : Nat) (v : Word) : (s.setLut k v).routines = s.routines := rfl
@[simp] theorem State.setLut_outs (k : Nat) (v : Word) : (s.setLut k v).outs = s.outs := rfl
@[simp] theorem State.setLut_cheques (k : Nat) (v : Word) : (s.setLut k v).cheques = s.cheques := rfl
@[simp] theorem State.setLut_presses (k : Nat) (v : Word) : (s.setLut k v).presses = s.presses := rfl
@[simp] theorem State.setLut_mints (k : Nat) (v : Word) : (s.setLut k v).mints = s.mints := rfl
@[simp] theorem State.setLut_nextCheque (k : Nat) (v : Word) : (s.setLut k v).nextCheque = s.nextCheque := rfl
@[simp] theorem State.setLut_seq (k : Nat) (v : Word) : (s.setLut k v).seq = s.seq := rfl
@[simp] theorem State.setLut_avs (k : Nat) (v : Word) : (s.setLut k v).avs = s.avs := rfl
@[simp] theorem State.setLut_mem (k : Nat) (v : Word) : (s.setLut k v).mem = s.mem := rfl
@[simp] theorem State.setLut_caps (k : Nat) (v : Word) : (s.setLut k v).caps = s.caps := rfl
@[simp] theorem State.setLut_link (k : Nat) (v : Word) : (s.setLut k v).link = s.link := rfl
@[simp] theorem State.setLut_ports (k : Nat) (v : Word) : (s.setLut k v).ports = s.ports := rfl
@[simp] theorem State.setLut_flt (k : Nat) (v : Word) : (s.setLut k v).flt = s.flt := rfl
@[simp] theorem State.setLut_blanked (k : Nat) (v : Word) : (s.setLut k v).blanked = s.blanked := rfl
@[simp] theorem State.setLut_checks (k : Nat) (v : Word) : (s.setLut k v).checks = s.checks := rfl
@[simp] theorem State.setLut_readyAt (k : Nat) (v : Word) : (s.setLut k v).readyAt = s.readyAt := rfl
@[simp] theorem State.setLut_written (k : Nat) (v : Word) : (s.setLut k v).written = s.written := rfl
@[simp] theorem State.setLut_loads (k : Nat) (v : Word) : (s.setLut k v).loads = s.loads := rfl
@[simp] theorem State.setLut_haps (k : Nat) (v : Word) : (s.setLut k v).haps = s.haps := rfl
@[simp] theorem State.setLut_touches (k : Nat) (v : Word) : (s.setLut k v).touches = s.touches := rfl
@[simp] theorem State.setLut_audio (k : Nat) (v : Word) : (s.setLut k v).audio = s.audio := rfl
@[simp] theorem State.setLut_boot (k : Nat) (v : Word) : (s.setLut k v).boot = s.boot := rfl
@[simp] theorem State.setLut_subRegions (k : Nat) (v : Word) : (s.setLut k v).subRegions = s.subRegions := rfl
@[simp] theorem State.setLut_subSlots (k : Nat) (v : Word) : (s.setLut k v).subSlots = s.subSlots := rfl
@[simp] theorem State.setLut_ticked (k : Nat) (v : Word) : (s.setLut k v).ticked = s.ticked := rfl
@[simp] theorem State.setLut_legs (k : Nat) (v : Word) : (s.setLut k v).legs = s.legs := rfl
@[simp] theorem State.setLut_errOwed (k : Nat) (v : Word) : (s.setLut k v).errOwed = s.errOwed := rfl
@[simp] theorem State.setLut_resp (k : Nat) (v : Word) : (s.setLut k v).resp = s.resp := rfl
@[simp] theorem State.setLut_pending (k : Nat) (v : Word) : (s.setLut k v).pending = s.pending := rfl

@[simp] theorem State.setReady_now (k v : Nat) : (s.setReady k v).now = s.now := rfl
@[simp] theorem State.setReady_regs (k v : Nat) : (s.setReady k v).regs = s.regs := rfl
@[simp] theorem State.setReady_applied (k v : Nat) : (s.setReady k v).applied = s.applied := rfl
@[simp] theorem State.setReady_tally (k v : Nat) : (s.setReady k v).tally = s.tally := rfl
@[simp] theorem State.setReady_levels (k v : Nat) : (s.setReady k v).levels = s.levels := rfl
@[simp] theorem State.setReady_pwt (k v : Nat) : (s.setReady k v).pwt = s.pwt := rfl
@[simp] theorem State.setReady_fresh (k v : Nat) : (s.setReady k v).fresh = s.fresh := rfl
@[simp] theorem State.setReady_dram (k v : Nat) : (s.setReady k v).dram = s.dram := rfl
@[simp] theorem State.setReady_zeroed (k v : Nat) : (s.setReady k v).zeroed = s.zeroed := rfl
@[simp] theorem State.setReady_vault (k v : Nat) : (s.setReady k v).vault = s.vault := rfl
@[simp] theorem State.setReady_led (k v : Nat) : (s.setReady k v).led = s.led := rfl
@[simp] theorem State.setReady_accts (k v : Nat) : (s.setReady k v).accts = s.accts := rfl
@[simp] theorem State.setReady_queues (k v : Nat) : (s.setReady k v).queues = s.queues := rfl
@[simp] theorem State.setReady_subPool (k v : Nat) : (s.setReady k v).subPool = s.subPool := rfl
@[simp] theorem State.setReady_engines (k v : Nat) : (s.setReady k v).engines = s.engines := rfl
@[simp] theorem State.setReady_jobs (k v : Nat) : (s.setReady k v).jobs = s.jobs := rfl
@[simp] theorem State.setReady_safes (k v : Nat) : (s.setReady k v).safes = s.safes := rfl
@[simp] theorem State.setReady_dropped (k v : Nat) : (s.setReady k v).dropped = s.dropped := rfl
@[simp] theorem State.setReady_commits (k v : Nat) : (s.setReady k v).commits = s.commits := rfl
@[simp] theorem State.setReady_heldSyn (k v : Nat) : (s.setReady k v).heldSyn = s.heldSyn := rfl
@[simp] theorem State.setReady_waits (k v : Nat) : (s.setReady k v).waits = s.waits := rfl
@[simp] theorem State.setReady_orders (k v : Nat) : (s.setReady k v).orders = s.orders := rfl
@[simp] theorem State.setReady_routines (k v : Nat) : (s.setReady k v).routines = s.routines := rfl
@[simp] theorem State.setReady_outs (k v : Nat) : (s.setReady k v).outs = s.outs := rfl
@[simp] theorem State.setReady_cheques (k v : Nat) : (s.setReady k v).cheques = s.cheques := rfl
@[simp] theorem State.setReady_presses (k v : Nat) : (s.setReady k v).presses = s.presses := rfl
@[simp] theorem State.setReady_mints (k v : Nat) : (s.setReady k v).mints = s.mints := rfl
@[simp] theorem State.setReady_nextCheque (k v : Nat) : (s.setReady k v).nextCheque = s.nextCheque := rfl
@[simp] theorem State.setReady_seq (k v : Nat) : (s.setReady k v).seq = s.seq := rfl
@[simp] theorem State.setReady_avs (k v : Nat) : (s.setReady k v).avs = s.avs := rfl
@[simp] theorem State.setReady_mem (k v : Nat) : (s.setReady k v).mem = s.mem := rfl
@[simp] theorem State.setReady_caps (k v : Nat) : (s.setReady k v).caps = s.caps := rfl
@[simp] theorem State.setReady_link (k v : Nat) : (s.setReady k v).link = s.link := rfl
@[simp] theorem State.setReady_ports (k v : Nat) : (s.setReady k v).ports = s.ports := rfl
@[simp] theorem State.setReady_flt (k v : Nat) : (s.setReady k v).flt = s.flt := rfl
@[simp] theorem State.setReady_blanked (k v : Nat) : (s.setReady k v).blanked = s.blanked := rfl
@[simp] theorem State.setReady_checks (k v : Nat) : (s.setReady k v).checks = s.checks := rfl
@[simp] theorem State.setReady_luts (k v : Nat) : (s.setReady k v).luts = s.luts := rfl
@[simp] theorem State.setReady_written (k v : Nat) : (s.setReady k v).written = s.written := rfl
@[simp] theorem State.setReady_loads (k v : Nat) : (s.setReady k v).loads = s.loads := rfl
@[simp] theorem State.setReady_haps (k v : Nat) : (s.setReady k v).haps = s.haps := rfl
@[simp] theorem State.setReady_touches (k v : Nat) : (s.setReady k v).touches = s.touches := rfl
@[simp] theorem State.setReady_audio (k v : Nat) : (s.setReady k v).audio = s.audio := rfl
@[simp] theorem State.setReady_boot (k v : Nat) : (s.setReady k v).boot = s.boot := rfl
@[simp] theorem State.setReady_subRegions (k v : Nat) : (s.setReady k v).subRegions = s.subRegions := rfl
@[simp] theorem State.setReady_subSlots (k v : Nat) : (s.setReady k v).subSlots = s.subSlots := rfl
@[simp] theorem State.setReady_ticked (k v : Nat) : (s.setReady k v).ticked = s.ticked := rfl
@[simp] theorem State.setReady_legs (k v : Nat) : (s.setReady k v).legs = s.legs := rfl
@[simp] theorem State.setReady_errOwed (k v : Nat) : (s.setReady k v).errOwed = s.errOwed := rfl
@[simp] theorem State.setReady_resp (k v : Nat) : (s.setReady k v).resp = s.resp := rfl
@[simp] theorem State.setReady_pending (k v : Nat) : (s.setReady k v).pending = s.pending := rfl

@[simp] theorem State.setWritten_now (k : Nat) (b : Bool) : (s.setWritten k b).now = s.now := rfl
@[simp] theorem State.setWritten_regs (k : Nat) (b : Bool) : (s.setWritten k b).regs = s.regs := rfl
@[simp] theorem State.setWritten_applied (k : Nat) (b : Bool) : (s.setWritten k b).applied = s.applied := rfl
@[simp] theorem State.setWritten_tally (k : Nat) (b : Bool) : (s.setWritten k b).tally = s.tally := rfl
@[simp] theorem State.setWritten_levels (k : Nat) (b : Bool) : (s.setWritten k b).levels = s.levels := rfl
@[simp] theorem State.setWritten_pwt (k : Nat) (b : Bool) : (s.setWritten k b).pwt = s.pwt := rfl
@[simp] theorem State.setWritten_fresh (k : Nat) (b : Bool) : (s.setWritten k b).fresh = s.fresh := rfl
@[simp] theorem State.setWritten_dram (k : Nat) (b : Bool) : (s.setWritten k b).dram = s.dram := rfl
@[simp] theorem State.setWritten_zeroed (k : Nat) (b : Bool) : (s.setWritten k b).zeroed = s.zeroed := rfl
@[simp] theorem State.setWritten_vault (k : Nat) (b : Bool) : (s.setWritten k b).vault = s.vault := rfl
@[simp] theorem State.setWritten_led (k : Nat) (b : Bool) : (s.setWritten k b).led = s.led := rfl
@[simp] theorem State.setWritten_accts (k : Nat) (b : Bool) : (s.setWritten k b).accts = s.accts := rfl
@[simp] theorem State.setWritten_queues (k : Nat) (b : Bool) : (s.setWritten k b).queues = s.queues := rfl
@[simp] theorem State.setWritten_subPool (k : Nat) (b : Bool) : (s.setWritten k b).subPool = s.subPool := rfl
@[simp] theorem State.setWritten_engines (k : Nat) (b : Bool) : (s.setWritten k b).engines = s.engines := rfl
@[simp] theorem State.setWritten_jobs (k : Nat) (b : Bool) : (s.setWritten k b).jobs = s.jobs := rfl
@[simp] theorem State.setWritten_safes (k : Nat) (b : Bool) : (s.setWritten k b).safes = s.safes := rfl
@[simp] theorem State.setWritten_dropped (k : Nat) (b : Bool) : (s.setWritten k b).dropped = s.dropped := rfl
@[simp] theorem State.setWritten_commits (k : Nat) (b : Bool) : (s.setWritten k b).commits = s.commits := rfl
@[simp] theorem State.setWritten_heldSyn (k : Nat) (b : Bool) : (s.setWritten k b).heldSyn = s.heldSyn := rfl
@[simp] theorem State.setWritten_waits (k : Nat) (b : Bool) : (s.setWritten k b).waits = s.waits := rfl
@[simp] theorem State.setWritten_orders (k : Nat) (b : Bool) : (s.setWritten k b).orders = s.orders := rfl
@[simp] theorem State.setWritten_routines (k : Nat) (b : Bool) : (s.setWritten k b).routines = s.routines := rfl
@[simp] theorem State.setWritten_outs (k : Nat) (b : Bool) : (s.setWritten k b).outs = s.outs := rfl
@[simp] theorem State.setWritten_cheques (k : Nat) (b : Bool) : (s.setWritten k b).cheques = s.cheques := rfl
@[simp] theorem State.setWritten_presses (k : Nat) (b : Bool) : (s.setWritten k b).presses = s.presses := rfl
@[simp] theorem State.setWritten_mints (k : Nat) (b : Bool) : (s.setWritten k b).mints = s.mints := rfl
@[simp] theorem State.setWritten_nextCheque (k : Nat) (b : Bool) : (s.setWritten k b).nextCheque = s.nextCheque := rfl
@[simp] theorem State.setWritten_seq (k : Nat) (b : Bool) : (s.setWritten k b).seq = s.seq := rfl
@[simp] theorem State.setWritten_avs (k : Nat) (b : Bool) : (s.setWritten k b).avs = s.avs := rfl
@[simp] theorem State.setWritten_mem (k : Nat) (b : Bool) : (s.setWritten k b).mem = s.mem := rfl
@[simp] theorem State.setWritten_caps (k : Nat) (b : Bool) : (s.setWritten k b).caps = s.caps := rfl
@[simp] theorem State.setWritten_link (k : Nat) (b : Bool) : (s.setWritten k b).link = s.link := rfl
@[simp] theorem State.setWritten_ports (k : Nat) (b : Bool) : (s.setWritten k b).ports = s.ports := rfl
@[simp] theorem State.setWritten_flt (k : Nat) (b : Bool) : (s.setWritten k b).flt = s.flt := rfl
@[simp] theorem State.setWritten_blanked (k : Nat) (b : Bool) : (s.setWritten k b).blanked = s.blanked := rfl
@[simp] theorem State.setWritten_checks (k : Nat) (b : Bool) : (s.setWritten k b).checks = s.checks := rfl
@[simp] theorem State.setWritten_luts (k : Nat) (b : Bool) : (s.setWritten k b).luts = s.luts := rfl
@[simp] theorem State.setWritten_readyAt (k : Nat) (b : Bool) : (s.setWritten k b).readyAt = s.readyAt := rfl
@[simp] theorem State.setWritten_loads (k : Nat) (b : Bool) : (s.setWritten k b).loads = s.loads := rfl
@[simp] theorem State.setWritten_haps (k : Nat) (b : Bool) : (s.setWritten k b).haps = s.haps := rfl
@[simp] theorem State.setWritten_touches (k : Nat) (b : Bool) : (s.setWritten k b).touches = s.touches := rfl
@[simp] theorem State.setWritten_audio (k : Nat) (b : Bool) : (s.setWritten k b).audio = s.audio := rfl
@[simp] theorem State.setWritten_boot (k : Nat) (b : Bool) : (s.setWritten k b).boot = s.boot := rfl
@[simp] theorem State.setWritten_subRegions (k : Nat) (b : Bool) : (s.setWritten k b).subRegions = s.subRegions := rfl
@[simp] theorem State.setWritten_subSlots (k : Nat) (b : Bool) : (s.setWritten k b).subSlots = s.subSlots := rfl
@[simp] theorem State.setWritten_ticked (k : Nat) (b : Bool) : (s.setWritten k b).ticked = s.ticked := rfl
@[simp] theorem State.setWritten_legs (k : Nat) (b : Bool) : (s.setWritten k b).legs = s.legs := rfl
@[simp] theorem State.setWritten_errOwed (k : Nat) (b : Bool) : (s.setWritten k b).errOwed = s.errOwed := rfl
@[simp] theorem State.setWritten_resp (k : Nat) (b : Bool) : (s.setWritten k b).resp = s.resp := rfl
@[simp] theorem State.setWritten_pending (k : Nat) (b : Bool) : (s.setWritten k b).pending = s.pending := rfl

@[simp] theorem State.setLoad_now (n : Nat) (v : Option LutLoad) : (s.setLoad n v).now = s.now := rfl
@[simp] theorem State.setLoad_regs (n : Nat) (v : Option LutLoad) : (s.setLoad n v).regs = s.regs := rfl
@[simp] theorem State.setLoad_applied (n : Nat) (v : Option LutLoad) : (s.setLoad n v).applied = s.applied := rfl
@[simp] theorem State.setLoad_tally (n : Nat) (v : Option LutLoad) : (s.setLoad n v).tally = s.tally := rfl
@[simp] theorem State.setLoad_levels (n : Nat) (v : Option LutLoad) : (s.setLoad n v).levels = s.levels := rfl
@[simp] theorem State.setLoad_pwt (n : Nat) (v : Option LutLoad) : (s.setLoad n v).pwt = s.pwt := rfl
@[simp] theorem State.setLoad_fresh (n : Nat) (v : Option LutLoad) : (s.setLoad n v).fresh = s.fresh := rfl
@[simp] theorem State.setLoad_dram (n : Nat) (v : Option LutLoad) : (s.setLoad n v).dram = s.dram := rfl
@[simp] theorem State.setLoad_zeroed (n : Nat) (v : Option LutLoad) : (s.setLoad n v).zeroed = s.zeroed := rfl
@[simp] theorem State.setLoad_vault (n : Nat) (v : Option LutLoad) : (s.setLoad n v).vault = s.vault := rfl
@[simp] theorem State.setLoad_led (n : Nat) (v : Option LutLoad) : (s.setLoad n v).led = s.led := rfl
@[simp] theorem State.setLoad_accts (n : Nat) (v : Option LutLoad) : (s.setLoad n v).accts = s.accts := rfl
@[simp] theorem State.setLoad_queues (n : Nat) (v : Option LutLoad) : (s.setLoad n v).queues = s.queues := rfl
@[simp] theorem State.setLoad_subPool (n : Nat) (v : Option LutLoad) : (s.setLoad n v).subPool = s.subPool := rfl
@[simp] theorem State.setLoad_engines (n : Nat) (v : Option LutLoad) : (s.setLoad n v).engines = s.engines := rfl
@[simp] theorem State.setLoad_jobs (n : Nat) (v : Option LutLoad) : (s.setLoad n v).jobs = s.jobs := rfl
@[simp] theorem State.setLoad_safes (n : Nat) (v : Option LutLoad) : (s.setLoad n v).safes = s.safes := rfl
@[simp] theorem State.setLoad_dropped (n : Nat) (v : Option LutLoad) : (s.setLoad n v).dropped = s.dropped := rfl
@[simp] theorem State.setLoad_commits (n : Nat) (v : Option LutLoad) : (s.setLoad n v).commits = s.commits := rfl
@[simp] theorem State.setLoad_heldSyn (n : Nat) (v : Option LutLoad) : (s.setLoad n v).heldSyn = s.heldSyn := rfl
@[simp] theorem State.setLoad_waits (n : Nat) (v : Option LutLoad) : (s.setLoad n v).waits = s.waits := rfl
@[simp] theorem State.setLoad_orders (n : Nat) (v : Option LutLoad) : (s.setLoad n v).orders = s.orders := rfl
@[simp] theorem State.setLoad_routines (n : Nat) (v : Option LutLoad) : (s.setLoad n v).routines = s.routines := rfl
@[simp] theorem State.setLoad_outs (n : Nat) (v : Option LutLoad) : (s.setLoad n v).outs = s.outs := rfl
@[simp] theorem State.setLoad_cheques (n : Nat) (v : Option LutLoad) : (s.setLoad n v).cheques = s.cheques := rfl
@[simp] theorem State.setLoad_presses (n : Nat) (v : Option LutLoad) : (s.setLoad n v).presses = s.presses := rfl
@[simp] theorem State.setLoad_mints (n : Nat) (v : Option LutLoad) : (s.setLoad n v).mints = s.mints := rfl
@[simp] theorem State.setLoad_nextCheque (n : Nat) (v : Option LutLoad) : (s.setLoad n v).nextCheque = s.nextCheque := rfl
@[simp] theorem State.setLoad_seq (n : Nat) (v : Option LutLoad) : (s.setLoad n v).seq = s.seq := rfl
@[simp] theorem State.setLoad_avs (n : Nat) (v : Option LutLoad) : (s.setLoad n v).avs = s.avs := rfl
@[simp] theorem State.setLoad_mem (n : Nat) (v : Option LutLoad) : (s.setLoad n v).mem = s.mem := rfl
@[simp] theorem State.setLoad_caps (n : Nat) (v : Option LutLoad) : (s.setLoad n v).caps = s.caps := rfl
@[simp] theorem State.setLoad_link (n : Nat) (v : Option LutLoad) : (s.setLoad n v).link = s.link := rfl
@[simp] theorem State.setLoad_ports (n : Nat) (v : Option LutLoad) : (s.setLoad n v).ports = s.ports := rfl
@[simp] theorem State.setLoad_flt (n : Nat) (v : Option LutLoad) : (s.setLoad n v).flt = s.flt := rfl
@[simp] theorem State.setLoad_blanked (n : Nat) (v : Option LutLoad) : (s.setLoad n v).blanked = s.blanked := rfl
@[simp] theorem State.setLoad_checks (n : Nat) (v : Option LutLoad) : (s.setLoad n v).checks = s.checks := rfl
@[simp] theorem State.setLoad_luts (n : Nat) (v : Option LutLoad) : (s.setLoad n v).luts = s.luts := rfl
@[simp] theorem State.setLoad_readyAt (n : Nat) (v : Option LutLoad) : (s.setLoad n v).readyAt = s.readyAt := rfl
@[simp] theorem State.setLoad_written (n : Nat) (v : Option LutLoad) : (s.setLoad n v).written = s.written := rfl
@[simp] theorem State.setLoad_haps (n : Nat) (v : Option LutLoad) : (s.setLoad n v).haps = s.haps := rfl
@[simp] theorem State.setLoad_touches (n : Nat) (v : Option LutLoad) : (s.setLoad n v).touches = s.touches := rfl
@[simp] theorem State.setLoad_audio (n : Nat) (v : Option LutLoad) : (s.setLoad n v).audio = s.audio := rfl
@[simp] theorem State.setLoad_boot (n : Nat) (v : Option LutLoad) : (s.setLoad n v).boot = s.boot := rfl
@[simp] theorem State.setLoad_subRegions (n : Nat) (v : Option LutLoad) : (s.setLoad n v).subRegions = s.subRegions := rfl
@[simp] theorem State.setLoad_subSlots (n : Nat) (v : Option LutLoad) : (s.setLoad n v).subSlots = s.subSlots := rfl
@[simp] theorem State.setLoad_ticked (n : Nat) (v : Option LutLoad) : (s.setLoad n v).ticked = s.ticked := rfl
@[simp] theorem State.setLoad_legs (n : Nat) (v : Option LutLoad) : (s.setLoad n v).legs = s.legs := rfl
@[simp] theorem State.setLoad_errOwed (n : Nat) (v : Option LutLoad) : (s.setLoad n v).errOwed = s.errOwed := rfl
@[simp] theorem State.setLoad_resp (n : Nat) (v : Option LutLoad) : (s.setLoad n v).resp = s.resp := rfl
@[simp] theorem State.setLoad_pending (n : Nat) (v : Option LutLoad) : (s.setLoad n v).pending = s.pending := rfl

@[simp] theorem State.setAudio_now (f : AudioS → AudioS) : (s.setAudio f).now = s.now := rfl
@[simp] theorem State.setAudio_regs (f : AudioS → AudioS) : (s.setAudio f).regs = s.regs := rfl
@[simp] theorem State.setAudio_applied (f : AudioS → AudioS) : (s.setAudio f).applied = s.applied := rfl
@[simp] theorem State.setAudio_tally (f : AudioS → AudioS) : (s.setAudio f).tally = s.tally := rfl
@[simp] theorem State.setAudio_levels (f : AudioS → AudioS) : (s.setAudio f).levels = s.levels := rfl
@[simp] theorem State.setAudio_pwt (f : AudioS → AudioS) : (s.setAudio f).pwt = s.pwt := rfl
@[simp] theorem State.setAudio_fresh (f : AudioS → AudioS) : (s.setAudio f).fresh = s.fresh := rfl
@[simp] theorem State.setAudio_dram (f : AudioS → AudioS) : (s.setAudio f).dram = s.dram := rfl
@[simp] theorem State.setAudio_zeroed (f : AudioS → AudioS) : (s.setAudio f).zeroed = s.zeroed := rfl
@[simp] theorem State.setAudio_vault (f : AudioS → AudioS) : (s.setAudio f).vault = s.vault := rfl
@[simp] theorem State.setAudio_led (f : AudioS → AudioS) : (s.setAudio f).led = s.led := rfl
@[simp] theorem State.setAudio_accts (f : AudioS → AudioS) : (s.setAudio f).accts = s.accts := rfl
@[simp] theorem State.setAudio_queues (f : AudioS → AudioS) : (s.setAudio f).queues = s.queues := rfl
@[simp] theorem State.setAudio_subPool (f : AudioS → AudioS) : (s.setAudio f).subPool = s.subPool := rfl
@[simp] theorem State.setAudio_engines (f : AudioS → AudioS) : (s.setAudio f).engines = s.engines := rfl
@[simp] theorem State.setAudio_jobs (f : AudioS → AudioS) : (s.setAudio f).jobs = s.jobs := rfl
@[simp] theorem State.setAudio_safes (f : AudioS → AudioS) : (s.setAudio f).safes = s.safes := rfl
@[simp] theorem State.setAudio_dropped (f : AudioS → AudioS) : (s.setAudio f).dropped = s.dropped := rfl
@[simp] theorem State.setAudio_commits (f : AudioS → AudioS) : (s.setAudio f).commits = s.commits := rfl
@[simp] theorem State.setAudio_heldSyn (f : AudioS → AudioS) : (s.setAudio f).heldSyn = s.heldSyn := rfl
@[simp] theorem State.setAudio_waits (f : AudioS → AudioS) : (s.setAudio f).waits = s.waits := rfl
@[simp] theorem State.setAudio_orders (f : AudioS → AudioS) : (s.setAudio f).orders = s.orders := rfl
@[simp] theorem State.setAudio_routines (f : AudioS → AudioS) : (s.setAudio f).routines = s.routines := rfl
@[simp] theorem State.setAudio_outs (f : AudioS → AudioS) : (s.setAudio f).outs = s.outs := rfl
@[simp] theorem State.setAudio_cheques (f : AudioS → AudioS) : (s.setAudio f).cheques = s.cheques := rfl
@[simp] theorem State.setAudio_presses (f : AudioS → AudioS) : (s.setAudio f).presses = s.presses := rfl
@[simp] theorem State.setAudio_mints (f : AudioS → AudioS) : (s.setAudio f).mints = s.mints := rfl
@[simp] theorem State.setAudio_nextCheque (f : AudioS → AudioS) : (s.setAudio f).nextCheque = s.nextCheque := rfl
@[simp] theorem State.setAudio_seq (f : AudioS → AudioS) : (s.setAudio f).seq = s.seq := rfl
@[simp] theorem State.setAudio_avs (f : AudioS → AudioS) : (s.setAudio f).avs = s.avs := rfl
@[simp] theorem State.setAudio_mem (f : AudioS → AudioS) : (s.setAudio f).mem = s.mem := rfl
@[simp] theorem State.setAudio_caps (f : AudioS → AudioS) : (s.setAudio f).caps = s.caps := rfl
@[simp] theorem State.setAudio_link (f : AudioS → AudioS) : (s.setAudio f).link = s.link := rfl
@[simp] theorem State.setAudio_ports (f : AudioS → AudioS) : (s.setAudio f).ports = s.ports := rfl
@[simp] theorem State.setAudio_flt (f : AudioS → AudioS) : (s.setAudio f).flt = s.flt := rfl
@[simp] theorem State.setAudio_blanked (f : AudioS → AudioS) : (s.setAudio f).blanked = s.blanked := rfl
@[simp] theorem State.setAudio_checks (f : AudioS → AudioS) : (s.setAudio f).checks = s.checks := rfl
@[simp] theorem State.setAudio_luts (f : AudioS → AudioS) : (s.setAudio f).luts = s.luts := rfl
@[simp] theorem State.setAudio_readyAt (f : AudioS → AudioS) : (s.setAudio f).readyAt = s.readyAt := rfl
@[simp] theorem State.setAudio_written (f : AudioS → AudioS) : (s.setAudio f).written = s.written := rfl
@[simp] theorem State.setAudio_loads (f : AudioS → AudioS) : (s.setAudio f).loads = s.loads := rfl
@[simp] theorem State.setAudio_haps (f : AudioS → AudioS) : (s.setAudio f).haps = s.haps := rfl
@[simp] theorem State.setAudio_touches (f : AudioS → AudioS) : (s.setAudio f).touches = s.touches := rfl
@[simp] theorem State.setAudio_boot (f : AudioS → AudioS) : (s.setAudio f).boot = s.boot := rfl
@[simp] theorem State.setAudio_subRegions (f : AudioS → AudioS) : (s.setAudio f).subRegions = s.subRegions := rfl
@[simp] theorem State.setAudio_subSlots (f : AudioS → AudioS) : (s.setAudio f).subSlots = s.subSlots := rfl
@[simp] theorem State.setAudio_ticked (f : AudioS → AudioS) : (s.setAudio f).ticked = s.ticked := rfl
@[simp] theorem State.setAudio_legs (f : AudioS → AudioS) : (s.setAudio f).legs = s.legs := rfl
@[simp] theorem State.setAudio_errOwed (f : AudioS → AudioS) : (s.setAudio f).errOwed = s.errOwed := rfl
@[simp] theorem State.setAudio_resp (f : AudioS → AudioS) : (s.setAudio f).resp = s.resp := rfl
@[simp] theorem State.setAudio_pending (f : AudioS → AudioS) : (s.setAudio f).pending = s.pending := rfl

@[simp] theorem State.idle_regs : (s.idle).regs = s.regs := rfl
@[simp] theorem State.idle_applied : (s.idle).applied = s.applied := rfl
@[simp] theorem State.idle_tally : (s.idle).tally = s.tally := rfl
@[simp] theorem State.idle_levels : (s.idle).levels = s.levels := rfl
@[simp] theorem State.idle_pwt : (s.idle).pwt = s.pwt := rfl
@[simp] theorem State.idle_fresh : (s.idle).fresh = s.fresh := rfl
@[simp] theorem State.idle_dram : (s.idle).dram = s.dram := rfl
@[simp] theorem State.idle_zeroed : (s.idle).zeroed = s.zeroed := rfl
@[simp] theorem State.idle_vault : (s.idle).vault = s.vault := rfl
@[simp] theorem State.idle_led : (s.idle).led = s.led := rfl
@[simp] theorem State.idle_accts : (s.idle).accts = s.accts := rfl
@[simp] theorem State.idle_queues : (s.idle).queues = s.queues := rfl
@[simp] theorem State.idle_subPool : (s.idle).subPool = s.subPool := rfl
@[simp] theorem State.idle_engines : (s.idle).engines = s.engines := rfl
@[simp] theorem State.idle_jobs : (s.idle).jobs = s.jobs := rfl
@[simp] theorem State.idle_safes : (s.idle).safes = s.safes := rfl
@[simp] theorem State.idle_dropped : (s.idle).dropped = s.dropped := rfl
@[simp] theorem State.idle_commits : (s.idle).commits = s.commits := rfl
@[simp] theorem State.idle_heldSyn : (s.idle).heldSyn = s.heldSyn := rfl
@[simp] theorem State.idle_waits : (s.idle).waits = s.waits := rfl
@[simp] theorem State.idle_orders : (s.idle).orders = s.orders := rfl
@[simp] theorem State.idle_routines : (s.idle).routines = s.routines := rfl
@[simp] theorem State.idle_outs : (s.idle).outs = s.outs := rfl
@[simp] theorem State.idle_cheques : (s.idle).cheques = s.cheques := rfl
@[simp] theorem State.idle_presses : (s.idle).presses = s.presses := rfl
@[simp] theorem State.idle_mints : (s.idle).mints = s.mints := rfl
@[simp] theorem State.idle_nextCheque : (s.idle).nextCheque = s.nextCheque := rfl
@[simp] theorem State.idle_seq : (s.idle).seq = s.seq := rfl
@[simp] theorem State.idle_avs : (s.idle).avs = s.avs := rfl
@[simp] theorem State.idle_mem : (s.idle).mem = s.mem := rfl
@[simp] theorem State.idle_caps : (s.idle).caps = s.caps := rfl
@[simp] theorem State.idle_link : (s.idle).link = s.link := rfl
@[simp] theorem State.idle_ports : (s.idle).ports = s.ports := rfl
@[simp] theorem State.idle_flt : (s.idle).flt = s.flt := rfl
@[simp] theorem State.idle_blanked : (s.idle).blanked = s.blanked := rfl
@[simp] theorem State.idle_checks : (s.idle).checks = s.checks := rfl
@[simp] theorem State.idle_luts : (s.idle).luts = s.luts := rfl
@[simp] theorem State.idle_readyAt : (s.idle).readyAt = s.readyAt := rfl
@[simp] theorem State.idle_written : (s.idle).written = s.written := rfl
@[simp] theorem State.idle_loads : (s.idle).loads = s.loads := rfl
@[simp] theorem State.idle_haps : (s.idle).haps = s.haps := rfl
@[simp] theorem State.idle_touches : (s.idle).touches = s.touches := rfl
@[simp] theorem State.idle_audio : (s.idle).audio = s.audio := rfl
@[simp] theorem State.idle_boot : (s.idle).boot = s.boot := rfl
@[simp] theorem State.idle_subRegions : (s.idle).subRegions = s.subRegions := rfl
@[simp] theorem State.idle_subSlots : (s.idle).subSlots = s.subSlots := rfl
@[simp] theorem State.idle_ticked : (s.idle).ticked = s.ticked := rfl
@[simp] theorem State.idle_legs : (s.idle).legs = s.legs := rfl
@[simp] theorem State.idle_errOwed : (s.idle).errOwed = s.errOwed := rfl
@[simp] theorem State.idle_resp : (s.idle).resp = s.resp := rfl
@[simp] theorem State.idle_pending : (s.idle).pending = s.pending := rfl

end Sys2Proof.Machine
end

