-- ==== Sys2Proof/Laws/Reads.lean ====
section
/-! SUPPORT. A read after a write: of registers, fields, tables, and the two memories. Each needs the table written to be
canonical, which `Keeps` carries through every operation. -/

namespace Sys2Proof.Machine

variable {s : State}

/-! Fields of a register value. -/

theorem Fld.mask_bit (f : Fld) (hl : f.lo ≤ f.hi) (hh : f.hi < 32) (i : Nat) :
    f.mask.getLsbD i = decide (f.lo ≤ i ∧ i ≤ f.hi) := by
  unfold Fld.mask
  rw [BitVec.getLsbD_shiftLeft, BitVec.getLsbD_ofNat, Nat.testBit_two_pow_sub_one]
  by_cases h : f.lo ≤ i ∧ i ≤ f.hi
  · have h1 : i < 32 := by omega
    have h2 : ¬ i < f.lo := by omega
    have h3 : i - f.lo < 32 := by omega
    have h4 : i - f.lo < f.hi + 1 - f.lo := by omega
    simp [h, h1, h2, h3, h4]
  · simp only [h, decide_false]
    by_cases h2 : i < f.lo
    · simp [h2]
    · have h4 : ¬ i - f.lo < f.hi + 1 - f.lo := by omega
      simp [h4]

/-- A bit of a field. -/
theorem Fld.get_bit (f : Fld) (w : Word) (i : Nat) :
    (f.get w).testBit i = (decide (i < f.hi + 1 - f.lo) && w.getLsbD (f.lo + i)) := by
  unfold Fld.get
  rw [Nat.testBit_mod_two_pow, BitVec.testBit_toNat, BitVec.getLsbD_ushiftRight]

/-- A bit of a register value with a field set. -/
theorem Fld.put_bit (f : Fld) (hl : f.lo ≤ f.hi) (hh : f.hi < 32) (w : Word) (v i : Nat) (hi : i < 32) :
    (f.put w v).getLsbD i = if f.lo ≤ i ∧ i ≤ f.hi then v.testBit (i - f.lo) else w.getLsbD i := by
  unfold Fld.put
  rw [BitVec.getLsbD_or, BitVec.getLsbD_and, BitVec.getLsbD_and, BitVec.getLsbD_not, BitVec.getLsbD_shiftLeft,
    Fld.mask_bit f hl hh, BitVec.getLsbD_ofNat]
  by_cases h : f.lo ≤ i ∧ i ≤ f.hi
  · have h2 : ¬ i < f.lo := by omega
    have h3 : i - f.lo < 32 := by omega
    simp only [h, hi, h2, h3, decide_true, decide_false, Bool.not_true, Bool.and_true, Bool.and_false, Bool.false_or, Bool.true_and,
      Bool.not_false, and_self, if_true]
  · simp only [h, hi, decide_true, decide_false, Bool.not_false, Bool.and_true, Bool.and_false, Bool.or_false, if_false]

/-- A field reads as it was set, modulo its width. -/
theorem Fld.get_put (f : Fld) (hl : f.lo ≤ f.hi) (hh : f.hi < 32) (w : Word) (v : Nat) :
    f.get (f.put w v) = v % 2 ^ (f.hi + 1 - f.lo) := by
  apply Nat.eq_of_testBit_eq
  intro i
  rw [Fld.get_bit, Nat.testBit_mod_two_pow]
  by_cases h : i < f.hi + 1 - f.lo
  · rw [Fld.put_bit f hl hh w v _ (by omega), if_pos (by omega), Nat.add_sub_cancel_left]
  · simp only [h, decide_false, Bool.false_and]

/-- Setting a field leaves another field that shares no bit with it. -/
theorem Fld.get_put_other (f g : Fld) (hf : f.lo ≤ f.hi) (hh : f.hi < 32) (hd : g.hi < f.lo ∨ f.hi < g.lo) (w : Word) (v : Nat) :
    g.get (f.put w v) = g.get w := by
  apply Nat.eq_of_testBit_eq
  intro i
  rw [Fld.get_bit, Fld.get_bit]
  by_cases h : i < g.hi + 1 - g.lo
  · by_cases h3 : g.lo + i < 32
    · rw [Fld.put_bit f hf hh w v _ h3, if_neg (by omega)]
    · rw [BitVec.getLsbD_of_ge _ _ (Nat.le_of_not_lt h3), BitVec.getLsbD_of_ge _ _ (Nat.le_of_not_lt h3)]
  · simp only [h, decide_false, Bool.false_and]

/-! Registers. -/

theorem State.reg_setReg_same (h : Tbl.wf regReset s.regs = true) (k : Nat) (v : Word) : (s.setReg k v).reg k = v :=
  Tbl.get_set_same k v h

theorem State.reg_setReg_other (h : Tbl.wf regReset s.regs = true) {k j : Nat} (v : Word) (hk : j ≠ k) :
    (s.setReg k v).reg j = s.reg j := Tbl.get_set_other v h hk

theorem State.rd_wr_same (h : Tbl.wf regReset s.regs = true) (p : Nat) (f : Fld) (hl : f.lo ≤ f.hi) (hh : f.hi < 32) (v i : Nat) :
    (s.wr p f v i).rd p f i = v % 2 ^ (f.hi + 1 - f.lo) := by
  unfold State.rd State.wr
  rw [State.reg_setReg_same h, Fld.get_put f hl hh]

theorem State.rd_wr_field (h : Tbl.wf regReset s.regs = true) (p : Nat) (f g : Fld) (hl : f.lo ≤ f.hi) (hh : f.hi < 32)
    (hd : g.hi < f.lo ∨ f.hi < g.lo) (v i j : Nat) (hk : fkey p g j = fkey p f i) :
    (s.wr p f v i).rd p g j = s.rd p g j := by
  unfold State.rd State.wr
  rw [hk, State.reg_setReg_same h, Fld.get_put_other f g hl hh hd]

theorem State.reg_wr_other (h : Tbl.wf regReset s.regs = true) (p : Nat) (f : Fld) (v i : Nat) {k : Nat} (hk : k ≠ fkey p f i) :
    (s.wr p f v i).reg k = s.reg k := State.reg_setReg_other h _ hk

theorem State.rd_wr_other (h : Tbl.wf regReset s.regs = true) (p q : Nat) (f g : Fld) (v i j : Nat) (hk : fkey q g j ≠ fkey p f i) :
    (s.wr p f v i).rd q g j = s.rd q g j := by
  unfold State.rd
  rw [State.reg_wr_other h p f v i hk]

/-! Tables. -/

theorem State.mint_setMint_same (h : Tbl.wf (fun _ => MintS.zero) s.mints = true) (k : Nat) (v : MintS) :
    (s.setMint k v).mint k = v := Tbl.get_set_same k v h

theorem State.mint_setMint_other (h : Tbl.wf (fun _ => MintS.zero) s.mints = true) {k j : Nat} (v : MintS) (hk : j ≠ k) :
    (s.setMint k v).mint j = s.mint j := Tbl.get_set_other v h hk

theorem State.cheque_setCheque_same (h : Tbl.wf (fun _ => none) s.cheques = true) (k : Nat) (v : Option Cheque) :
    (s.setCheque k v).cheque k = v := Tbl.get_set_same k v h

theorem State.out_setOut_same (h : Tbl.wf (fun _ => OutS.zero) s.outs = true) (k : Nat) (v : OutS) :
    (s.setOut k v).out k = v := Tbl.get_set_same k v h

theorem State.port_setPort_same (h : Tbl.wf (fun _ => PortS.zero) s.ports = true) (k : Nat) (v : PortS) :
    (s.setPort k v).port k = v := Tbl.get_set_same k v h

theorem State.hap_setHap_same (h : Tbl.wf (fun _ => HapS.zero) s.haps = true) (k : Nat) (v : HapS) :
    (s.setHap k v).hap k = v := Tbl.get_set_same k v h

theorem State.tch_setTch_same (h : Tbl.wf (fun _ => TouchS.zero) s.touches = true) (k : Nat) (v : TouchS) :
    (s.setTch k v).tch k = v := Tbl.get_set_same k v h

theorem State.cap_setCap_same (h : Tbl.wf (fun _ => CapS.zero) s.caps = true) (k : Nat) (v : CapS) :
    (s.setCap k v).cap k = v := Tbl.get_set_same k v h

theorem State.acct_setAcct_same (h : Tbl.wf (fun _ => AcctS.zero) s.accts = true) (k : Nat) (v : AcctS) :
    (s.setAcct k v).acct k = v := Tbl.get_set_same k v h

theorem State.queue_setQueue_same (h : Tbl.wf (fun _ => QueueS.zero) s.queues = true) (k : Nat) (v : QueueS) :
    (s.setQueue k v).queue k = v := Tbl.get_set_same k v h

theorem State.engine_setEngine_same (h : Tbl.wf (fun _ => Engine.zero) s.engines = true) (k : Nat) (v : Engine) :
    (s.setEngine k v).engine k = v := Tbl.get_set_same k v h

theorem State.tally_count (h : Tbl.wf (fun _ => 0) s.tally = true) (p i n : Nat) :
    NatTbl.at_ (s.count p i n).tally (8 * p + i) = min 0xFFFFFFFF (NatTbl.at_ s.tally (8 * p + i) + n) :=
  Tbl.get_set_same _ _ h

theorem State.tally_count_other (h : Tbl.wf (fun _ => 0) s.tally = true) (p i n : Nat) {k : Nat} (hk : k ≠ 8 * p + i) :
    NatTbl.at_ (s.count p i n).tally k = NatTbl.at_ s.tally k := Tbl.get_set_other _ h hk

/-! The memories. -/

theorem State.dram_setDram_same (h : Tbl.wf (dramEmpty s.zeroed) s.dram = true) (a : Nat) (b : Byte) :
    Tbl.get (dramEmpty s.zeroed) (s.setDram a b).dram a = b := Tbl.get_set_same a b h

theorem State.dram_setDram_other (h : Tbl.wf (dramEmpty s.zeroed) s.dram = true) {a c : Nat} (b : Byte) (hc : c ≠ a) :
    Tbl.get (dramEmpty s.zeroed) (s.setDram a b).dram c = Tbl.get (dramEmpty s.zeroed) s.dram c := Tbl.get_set_other b h hc

theorem State.vault_setVault_same (h : Tbl.wf vaultEmpty s.vault = true) (a : Nat) (b : Byte) :
    Tbl.get vaultEmpty (s.setVault a b).vault a = b := Tbl.get_set_same a b h

theorem State.vault_setVault_other (h : Tbl.wf vaultEmpty s.vault = true) {a c : Nat} (b : Byte) (hc : c ≠ a) :
    Tbl.get vaultEmpty (s.setVault a b).vault c = Tbl.get vaultEmpty s.vault c := Tbl.get_set_other b h hc

end Sys2Proof.Machine
end

