-- ==== Sys2Proof/Laws/Mints.lean ====
section
/-! SUPPORT. What one mint instruction does, said once for each shape: the frame of `runOp`, and the group of registers that a
lane instruction writes. -/

namespace Sys2Proof.Machine

variable {s : State}

/-- A bit after `setBit`. -/
theorem setBit_bit (n i : Nat) (b : Bool) (k : Nat) : (setBit n i b).testBit k = if k = i then b else n.testBit k := by
  have hr : n % 2 ^ i < 2 ^ i := Nat.mod_lt _ (Nat.two_pow_pos _)
  have hn : n = 2 ^ i * (n / 2 ^ i) + n % 2 ^ i := (Nat.div_add_mod n (2 ^ i)).symm
  have hbit : n.testBit i = decide (n / 2 ^ i % 2 = 1) := by
    rw [Nat.testBit_eq_decide_div_mod_eq]
  have key : ∀ q', q' / 2 = n / 2 ^ i / 2 → ∀ k, k ≠ i → (2 ^ i * q' + n % 2 ^ i).testBit k = n.testBit k := by
    intro q' hq k hk
    conv => rhs; rw [hn]
    rw [Nat.testBit_two_pow_mul_add _ hr, Nat.testBit_two_pow_mul_add _ hr]
    split
    · rfl
    · obtain ⟨d, hd⟩ : ∃ d, k - i = d + 1 := ⟨k - i - 1, by omega⟩
      rw [hd, Nat.testBit_succ, Nat.testBit_succ, hq]
  have at_ : ∀ q', (2 ^ i * q' + n % 2 ^ i).testBit i = decide (q' % 2 = 1) := by
    intro q'
    rw [Nat.testBit_two_pow_mul_add _ hr, if_neg (Nat.lt_irrefl _), Nat.sub_self, Nat.testBit_zero]
  unfold setBit
  split
  · rename_i h
    split
    · rename_i hk; rw [hk, h]
    · rfl
  · rename_i h
    rw [hbit] at h
    cases b with
    | true =>
      have up : ∀ P Q r : Nat, n = P * Q + r → n + P = P * (Q + 1) + r := by intro P Q r h; rw [h]; ring
      have e := up _ _ _ hn
      have hq : n / 2 ^ i % 2 ≠ 1 := by simpa using h
      simp only [if_true]
      rw [e]
      split
      · rename_i hk; rw [hk, at_]; exact decide_eq_true ((fun Q (h : Q % 2 ≠ 1) => (by omega : (Q + 1) % 2 = 1)) _ hq)
      · exact key _ ((fun Q (h : Q % 2 ≠ 1) => (by omega : (Q + 1) / 2 = Q / 2)) _ hq) k ‹_›
    | false =>
      have hq : n / 2 ^ i % 2 = 1 := by simpa using h
      have down : ∀ P Q r : Nat, 1 ≤ Q → n = P * Q + r → n - P = P * (Q - 1) + r := by
        intro P Q r hQ h
        obtain ⟨c, rfl⟩ : ∃ c, Q = c + 1 := ⟨Q - 1, by omega⟩
        rw [h, Nat.mul_add, Nat.mul_one, Nat.add_sub_cancel]
        omega
      have e := down _ _ _ ((fun Q (h : Q % 2 = 1) => (by omega : 1 ≤ Q)) _ hq) hn
      simp only [Bool.false_eq_true, if_false]
      rw [e]
      split
      · rename_i hk; rw [hk, at_]; exact decide_eq_false ((fun Q (h : Q % 2 = 1) => (by omega : ¬ (Q - 1) % 2 = 1)) _ hq)
      · exact key _ ((fun Q (h : Q % 2 = 1) => (by omega : (Q - 1) / 2 = Q / 2)) _ hq) k ‹_›

/-- A bit after `setBit` at each index of a list. -/
theorem setBits_bit (g : Nat → Bool) (ks : List Nat) (n k : Nat) :
    (ks.foldl (fun n k => setBit n k (g k)) n).testBit k = if k ∈ ks then g k else n.testBit k := by
  induction ks generalizing n with
  | nil => rfl
  | cons x xs ih =>
    rw [List.foldl_cons, ih, setBit_bit]
    by_cases h1 : k ∈ xs
    · rw [if_pos h1, if_pos (List.mem_cons_of_mem _ h1)]
    · rw [if_neg h1]
      by_cases h2 : k = x
      · subst h2; rw [if_pos rfl, if_pos (List.mem_cons_self ..)]
      · rw [if_neg h2, if_neg (by simp only [List.mem_cons, not_or]; exact ⟨h2, h1⟩)]

/-- What the folds that write one group leave: the elements written, and everything else as it was. -/
theorem MintS.setV_fold (d : Nat) (f : Nat → Word) (ks : List Nat) (hn : ks.Nodup) (v : MintS)
    (h : Tbl.wf (fun _ => (0 : Word)) v.vreg = true) :
    let w := ks.foldl (fun (t : MintS) k => t.setV d k (f k)) v
    w = { v with vreg := w.vreg } ∧ Tbl.wf (fun _ => (0 : Word)) w.vreg = true ∧ (∀ k ∈ ks, w.v d k = f k)
      ∧ (∀ n, (∀ k ∈ ks, n ≠ 4 * d + k) → Tbl.get (fun _ => 0) w.vreg n = Tbl.get (fun _ => 0) v.vreg n) := by
  induction ks generalizing v with
  | nil => exact ⟨rfl, h, fun _ hk => absurd hk List.not_mem_nil, fun _ _ => rfl⟩
  | cons k ks ih =>
    rw [List.nodup_cons] at hn
    have h1 : Tbl.wf (fun _ => (0 : Word)) (v.setV d k (f k)).vreg = true := Tbl.wf_set _ _ h
    obtain ⟨a, b, c, e⟩ := ih hn.2 (v.setV d k (f k)) h1
    refine ⟨a, b, ?_, ?_⟩
    · intro j hj
      rcases List.mem_cons.1 hj with rfl | hj
      · have : ∀ x ∈ ks, 4 * d + j ≠ 4 * d + x := fun x hx he => hn.1 (by obtain rfl : j = x := by omega
                                                                          exact hx)
        exact (e _ this).trans (Tbl.get_set_same _ _ h)
      · exact c j hj
    · intro n hk
      exact (e n fun x hx => hk x (List.mem_cons_of_mem _ hx)).trans (Tbl.get_set_other _ h (hk k (List.mem_cons_self ..)))

theorem MintS.active_nodup (v : MintS) (i : MI) : (v.active i).Nodup := List.nodup_range.filter _

theorem MintS.lanes_laned {v : MintS} (h : Tbl.wf (fun _ => (0 : Word)) v.vreg = true) (i : MI) (f : Nat → Word) :
    v.laned (v.lanes i f) i f := by
  obtain ⟨a, _, c, e⟩ := MintS.setV_fold i.d f (v.active i) (v.active_nodup i) v h
  exact ⟨a, c, e⟩

/-! Bytes of the data store. -/

theorem putBytes_other {t : List (Nat × Byte)} (h : Tbl.wf (fun _ => (0 : Byte)) t = true) (a : Nat) (bs : List Byte) {n : Nat}
    (hn : n < a ∨ a + bs.length ≤ n) : Tbl.get (fun _ => (0 : Byte)) (putBytes t a bs) n = Tbl.get (fun _ => (0 : Byte)) t n := by
  induction bs generalizing t a with
  | nil => rfl
  | cons b bs ih =>
    simp only [List.length_cons] at hn
    exact (ih (Tbl.wf_set _ _ h) _ (by omega)).trans (Tbl.get_set_other _ h (by omega))

theorem putBytes_at {t : List (Nat × Byte)} (h : Tbl.wf (fun _ => (0 : Byte)) t = true) (a : Nat) (bs : List Byte) {j : Nat}
    (hj : j < bs.length) : Tbl.get (fun _ => (0 : Byte)) (putBytes t a bs) (a + j) = bs.getD j 0 := by
  induction bs generalizing t a j with
  | nil => cases hj
  | cons b bs ih =>
    cases j with
    | zero => exact (putBytes_other (Tbl.wf_set _ _ h) _ _ (by omega)).trans (Tbl.get_set_same _ _ h)
    | succ j =>
      have := ih (t := Tbl.set (fun _ => (0 : Byte)) t a b) (Tbl.wf_set _ _ h) (a + 1) (j := j) (by simpa using hj)
      rw [show a + (j + 1) = a + 1 + j by omega]
      exact this

/-- The bytes of a word, least significant first. -/
theorem leBytes_at (n v j : Nat) (hj : j < n) : (leBytes n v).getD j 0 = BitVec.ofNat 8 (v / 2 ^ (8 * j)) := by
  induction n generalizing v j with
  | zero => omega
  | succ n ih =>
    cases j with
    | zero => simp [leBytes]
    | succ j =>
      have := ih (v / 256) j (by omega)
      rw [leBytes, List.getD_cons_succ, this, Nat.div_div_eq_div_mul]
      congr 2
      rw [show 8 * (j + 1) = 8 + 8 * j by ring, pow_add]; norm_num

theorem leBytes_length (n v : Nat) : (leBytes n v).length = n := by
  induction n generalizing v with
  | zero => rfl
  | succ n ih => simp [leBytes, ih]

/-- A mint of a canonical state is canonical. -/
theorem mintOk_of_canonical (h : s.canonical = true) (m : Nat) : MintOk (s.mint m) :=
  Tbl.get_of_all (P := MintOk) m (fun e he => (keeps_of_canonical h).inner e he) keeps_MintS_zero

/-- A check that meets no armed injection (R325). -/
theorem useInject_unarmed {p i : Nat} (h : s.unarmed p i) : s.useInject p i = (s, none) := if_pos h

/-- A read of a mint's stores that meets no injected error leaves the state as it is. -/
theorem storeRead_unarmed {m : Nat} (h : s.unarmed (pressPage (m / 8)) 2) : s.storeRead m = (s, true) := by
  unfold State.storeRead
  rw [useInject_unarmed h]

/-- The frame of one instruction that goes on at the next word. -/
theorem runOp_go {m op : Nat} {c : Cheque} {i : MI} {sem : MI → Cheque → MintS → Ran} {w : MintS} (hc : s.canonical = true)
    (hr : s.runs m op c i) (hs : sem i c (s.mint m) = .go w) :
    s.retired (s.runOp m op sem) m (laneOpsOf i (s.mint m).vl) ((s.mint m).pc + 1) w := by
  obtain ⟨⟨id, h1⟩, h2, h3, h4⟩ := hr
  have hq := storeRead_unarmed h4
  have k := keeps_of_canonical hc
  unfold State.runOp
  rw [h1]
  simp only [h2, ne_eq, not_true_eq_false, if_false, h3, Bool.false_eq_true, hs, hq, ite_self, Bool.not_true]
  refine ⟨⟨rfl, fun j hj => State.mint_setMint_other k.mints _ hj, fun n => ?_⟩, State.mint_setMint_same k.mints _ _⟩
  by_cases hn : n = 8 * pressPage (m / 8) + 4
  · subst hn
    rw [if_pos rfl]
    exact Tbl.get_set_same _ _ k.tally
  · rw [if_neg hn]
    exact Tbl.get_set_other _ k.tally hn

/-- The same of a taken branch. -/
theorem runOp_jump {m op t : Nat} {c : Cheque} {i : MI} {sem : MI → Cheque → MintS → Ran} {w : MintS} (hc : s.canonical = true)
    (hr : s.runs m op c i) (hs : sem i c (s.mint m) = .jump w t) (ht : t < (s.mint m).codeLen) :
    s.retired (s.runOp m op sem) m 0 t w := by
  obtain ⟨⟨id, h1⟩, h2, h3, h4⟩ := hr
  have hq := storeRead_unarmed h4
  have k := keeps_of_canonical hc
  unfold State.runOp
  rw [h1]
  simp only [h2, ne_eq, not_true_eq_false, if_false, h3, Bool.false_eq_true, hs, hq, Bool.not_true, Nat.not_le.2 ht]
  refine ⟨⟨rfl, fun j hj => State.mint_setMint_other k.mints _ hj, fun n => ?_⟩, State.mint_setMint_same k.mints _ _⟩
  split <;> rfl

/-- What stops an instruction bounces the cheque. -/
theorem runOp_bad {m op : Nat} {c : Cheque} {i : MI} {sem : MI → Cheque → MintS → Ran}
    (hr : s.runs m op c i) (hs : sem i c (s.mint m) = .bad) : s.runOp m op sem = s.bounce m := by
  obtain ⟨⟨id, h1⟩, h2, h3, h4⟩ := hr
  have hq := storeRead_unarmed h4
  unfold State.runOp
  rw [h1]
  simp only [h2, ne_eq, not_true_eq_false, if_false, h3, Bool.false_eq_true, hs, hq, ite_self, Bool.not_true]

/-- A lane instruction. -/
theorem laneOp_done {m op : Nat} {c : Cheque} {i : MI} {f : MI → MintS → Nat → Word} (hc : s.canonical = true)
    (hr : s.runs m op c i) (hl : isLane op = true) : s.laneDone (s.laneOp m op f) m i (f i (s.mint m)) := by
  have h := runOp_go (sem := fun i _ v => .go (v.lanes i fun k => f i v k)) hc hr rfl
  rw [laneOpsOf, hr.2.1, if_pos hl] at h
  exact ⟨_, h, MintS.lanes_laned (mintOk_of_canonical hc m).vreg i _⟩

/-- A scalar instruction. -/
theorem scalarOp_done {m op : Nat} {c : Cheque} {i : MI} {f : MI → MintS → Word} (hc : s.canonical = true)
    (hr : s.runs m op c i) (hl : isLane op = false) :
    s.plainDone (s.scalarOp m op f) m ((s.mint m).pc + 1) ((s.mint m).setS i.d (f i (s.mint m))) := by
  have h := runOp_go (sem := fun i _ v => .go (v.setS i.d (f i v))) hc hr rfl
  rw [laneOpsOf, hr.2.1, if_neg (by simp [hl])] at h
  exact h

end Sys2Proof.Machine
end

