-- ==== Sys2Proof/Laws/Writes.lean ====
section
/-! SUPPORT. What a register write that passes the checks of R20 does, said once. -/

namespace Sys2Proof.Machine

variable {s : State}

/-- With every byte enabled, merging gives the written word. -/
theorem RegRow.merge_full (r : RegRow) (cur value : Word) : r.merge cur value 15 = value := by
  have h : beMask 15 = BitVec.allOnes 32 := by decide
  simp only [RegRow.merge, h, BitVec.and_allOnes, BitVec.not_allOnes, BitVec.and_zero, BitVec.zero_and, BitVec.or_zero]

/-- An accepted write of a whole word is carried with the word itself. -/
theorem judge_of_writeOk {who p off : Nat} {value : Word} {data : Bool} {rule : Word → Rule}
    (h : s.writeOk who p off value data rule = true) : s.judge who p off value 15 data rule = (.carried, value) := by
  have h := eq_of_beq h
  unfold State.judge at h ⊢
  split at h
  · cases h
  split at h
  · cases h
  split at h
  · cases h
  rename_i r i hr
  simp only [RegRow.merge_full] at h ⊢
  split at h
  · cases h
  split at h
  · cases h
  split at h
  · cases h
  rw [if_neg ‹_›, if_neg ‹_›, if_neg ‹_›, if_neg ‹_›, if_neg ‹_›]
  split at h
  · rw [if_pos ‹_›]
  split at h
  · cases h
  split at h
  · cases h
  rw [if_neg ‹_›, if_neg ‹_›, if_neg ‹_›]

/-- Room for some entries is room for fewer. -/
theorem room_mono {who m n : Nat} (h : m ≤ n) (hn : s.room who n = true) : s.room who m = true := by
  unfold State.room at hn ⊢
  split
  · rfl
  · rw [if_neg ‹_›] at hn
    split
    · rw [if_pos ‹_›] at hn
      simp only [decide_eq_true_eq] at hn ⊢
      omega
    · rw [if_neg ‹_›] at hn
      simp only [Bool.and_eq_true, Bool.or_eq_true, decide_eq_true_eq] at hn ⊢
      exact ⟨hn.1, hn.2.imp_right fun x => by omega⟩

/-- The ledger has room for the entry of an accepted write. -/
theorem room_of_writeOk {who p off : Nat} {value : Word} {rule : Word → Rule} (h : s.writeOk who p off value false rule = true) :
    s.room who 1 = true := by
  have h := judge_of_writeOk h
  unfold State.judge at h
  split at h
  · cases h
  split at h
  · cases h
  split at h
  · cases h
  extract_lets at h
  split at h
  · cases h
  split at h
  · cases h
  split at h
  · cases h
  rw [if_neg Bool.false_ne_true] at h
  split at h
  · cases h
  split at h
  · cases h
  · simpa using ‹¬(!s.room who 1) = true›

/-- An accepted write for whose entries there is room leaves them and then takes its effect (R20, R303). -/
theorem writeWith_room {who p off : Nat} {value : Word} {rule : Word → Rule} {recs : Word → List Rec}
    {eff : Word → State → State} (h : s.writeOk who p off value false rule = true) (hr : s.room who (recs value).length = true) :
    s.writeWith who p off value 15 false rule recs eff = eff value (s.log who (recs value)) := by
  unfold State.writeWith
  rw [judge_of_writeOk h]
  simp [hr]

/-- An accepted write of at most one entry: its check has found that room (R20, R303). -/
theorem writeWith_writeOk {who p off : Nat} {value : Word} {rule : Word → Rule} {recs : Word → List Rec}
    {eff : Word → State → State} (h : s.writeOk who p off value false rule = true) (hl : (recs value).length ≤ 1) :
    s.writeWith who p off value 15 false rule recs eff = eff value (s.log who (recs value)) :=
  writeWith_room h (room_mono hl (room_of_writeOk h))

/-- An accepted write of a data-path register leaves no entry (R272). -/
theorem writeWith_writeOk_data {who p off : Nat} {value : Word} {rule : Word → Rule} {recs : Word → List Rec}
    {eff : Word → State → State} (h : s.writeOk who p off value true rule = true) :
    s.writeWith who p off value 15 true rule recs eff = eff value s := by
  unfold State.writeWith
  rw [judge_of_writeOk h]
  rfl

/-- A write that some check of R20 stops leaves only what that verdict leaves. -/
theorem writeWith_stopped {who p off : Nat} {value : Word} {be : BitVec 4} {data : Bool} {rule : Word → Rule}
    {recs : Word → List Rec} {eff : Word → State → State} {vd : Verdict} {v : Word}
    (h : s.judge who p off value be data rule = (vd, v)) (hv : vd ≠ .carried) :
    s.writeWith who p off value be data rule recs eff = s.turnAway who p off v vd := by
  unfold State.writeWith
  rw [h]
  cases vd <;> first | rfl | exact absurd rfl hv

end Sys2Proof.Machine
end

