-- ==== Sys2Proof/Tests/Slice0.lean ====
section
/-! SUPPORT. Tests of the model and witnesses that the statements' hypotheses can be met. A theorem `test_witness_<Name>…` shows
states and operands that meet the hypotheses of the clauses of `Obligations.<Name>`; the others check single commands against
values taken from the spec's rules. -/

namespace Sys2Proof.Tests

open Sys2Proof Sys2Proof.Machine

set_option Elab.async false

/-! Small states. -/

/-- The state after reset with fields of registers written: page, field, value. -/
def set_ (l : List (Nat × Fld × Nat)) (s : State := State.reset) : State := l.foldl (fun (t : State) e => t.wr e.1 e.2.1 e.2.2) s

/-- The next state of an outcome, if it is one. -/
def nextOf : Host.Outcome State Fault Refusal → Option State
  | .next t => some t
  | _ => none

/-- The state after a command, the given one where it stops. -/
def after (c : Instr) (s : State) : State := (nextOf (exec c s)).getD s

/-- A write of a whole word by the Custodian passes the checks. -/
def okBy32 (s : State) (p off : Nat) (v : Word) (data : Bool := false) (rule : Word → Rule := fun _ => .ok) : Bool :=
  s.writeOk 32 p off v data rule

/-! Ill-formed commands: one for each check of `Instr.wellFormed`. -/

def frame0 : ClFrame := ⟨false, 1, false, false, 0, 0, 0, 0, []⟩
def image0 : Image := ⟨.release, true, State.reset.boot.keyHash, true, 1⟩
def boot0 : BootInput :=
  ⟨some image0, none, false, none, none, none, true, (true, true), List.replicate 32 100, List.replicate 9 800, List.replicate 24 0⟩
def caps0 : SinkCaps := ⟨8, 4, none, false, false, false⟩

theorem test_wf_discovery : (Instr.discoveryDone 0 caps0 [1]).wellFormed = false := by decide
theorem test_wf_capLine : (Instr.capLine 0 16 0 .clean true []).wellFormed = false
    ∧ (Instr.capLine 0 0 64 .clean true []).wellFormed = false := by decide
theorem test_wf_clFrame : (Instr.clFrameReceive 1 10 9 [] []).wellFormed = false
    ∧ (Instr.clFrameReceive 1 (-3) 9 [] []).wellFormed = true := by decide
theorem test_wf_memory : (Instr.dramRead ⟨32, 1, none, false⟩ 0 0).wellFormed = false
    ∧ (Instr.dramWrite ⟨32, 1, none, false⟩ 0 []).wellFormed = false ∧ (Instr.vaultAccess ⟨32, 1, none, false⟩ 0 (.read 0)).wellFormed = false
    ∧ (Instr.vaultAccess ⟨32, 1, none, false⟩ 0 (.write [])).wellFormed = false := by decide
theorem test_wf_touch : (Instr.touchSlot 0 (List.replicate 9 0) (0, 0)).wellFormed = false
    ∧ (Instr.touchSlot 0 [65536] (0, 0)).wellFormed = false := by decide
theorem test_wf_temp : (Instr.tempSample 0 2048).wellFormed = false ∧ (Instr.tempSample 0 (-2049)).wellFormed = false
    ∧ (Instr.tempSample 0 (-2048)).wellFormed = true := by decide
theorem test_wf_boot : boot0.wf = true ∧ (Instr.custodianBoot { boot0 with temps := [] }).wellFormed = false
    ∧ (Instr.custodianBoot { boot0 with temps := List.replicate 32 2048 }).wellFormed = false
    ∧ (Instr.custodianBoot { boot0 with rails := [] }).wellFormed = false
    ∧ (Instr.custodianBoot { boot0 with rails := List.replicate 9 8192 }).wellFormed = false
    ∧ (Instr.custodianBoot { boot0 with pubkey := [] }).wellFormed = false := by decide

/-! The whole machine. -/

theorem test_witness_EmptyQueueTicks : State.reset.pending = [] := by decide
theorem test_witness_EveryStepKeepsCanonical : State.reset.canonical = true
    ∧ (nextOf (step { State.reset with pending := [.seqStepIssue] })) = some State.reset := by decide +kernel
theorem test_witness_CommandsKeepQueueAndClock : State.reset.canonical = true
    ∧ nextOf (exec (.safeReqAssert 999) State.reset) = some State.reset := by decide +kernel
theorem test_witness_OnlyIllFormedStop : ([] : List Byte).length ≠ 1024
    ∧ ({ boot0 with temps := [] } : BootInput).wf = false := by decide

/-! The checks of a write. -/

/-- The device with its host ports heard. -/
def heard : State := { State.reset with boot := { State.reset.boot with released := true } }
/-- The device with its ledger started and its ring full. -/
def full : State := { State.reset with led := { State.reset.led with started := true, occ := 65536 } }
/-- The register at an offset has no field but read-only ones. -/
def readOnly (p off : Nat) : Bool := (rowAt p off).any fun e => e.1.fields.all fun x => x.acc == .ro || x.acc == .rc

theorem test_witness_WriteChecksInOrder :
    heard.hostHeard = true ∧ (kindOf 2).1 ≠ .none ∧ (rowAt 2 GLB_SEQ_BUDGET.off).isSome = true
    ∧ heard.owns 3 2 = false
    ∧ State.reset.owns 32 2 = true ∧ readOnly 2 PAGE_ID.off = true ∧ readOnly 2 GLB_SEQ_BUDGET.off = false
    ∧ (set_ [(2, PAGE_CTRL_lock, 1)]).locked 2 = true
    ∧ ((rowAt 2 GLB_SEQ_BUDGET.off).any fun e => e.1.fields.any (·.acc == .rwl)) = true
    ∧ State.reset.locked 2 = false := by decide +kernel
theorem test_witness_WriteChecksInOrder_values :
    ((rowAt 2 GLB_SEQ_BUDGET.off).any fun e => !e.1.inRange 0x0C04) = true
    ∧ ((rowAt 2 GLB_SEQ_BUDGET.off).any fun e => e.1.inRange 0x0C05 && e.1.inRange 0x0C0F && e.1.inRange 0x0C3C) = true
    ∧ ((rowAt 2 GLB_SEQ_BUDGET.off).any fun e =>
        e.1.produce (State.reset.reg (fkey 2 e.1.reg e.2)) 0x0C0F == State.reset.reg (fkey 2 e.1.reg e.2)) = true
    ∧ ((rowAt 2 GLB_SEQ_BUDGET.off).any fun e =>
        e.1.produce (State.reset.reg (fkey 2 e.1.reg e.2)) 0x0C05 != State.reset.reg (fkey 2 e.1.reg e.2)) = true
    ∧ full.room 32 = false ∧ State.reset.room 32 = true := by decide +kernel

/-- R20, R11: a write to the locked page of a locked register leaves it as it is; GLB_SEQ_BUDGET resets to 0x0C0F (R49). -/
theorem test_locked_write_refused :
    (after (.registerWrite 32 (BitVec.ofNat 24 (4096 * 2 + GLB_SEQ_BUDGET.off)) 0x0C05 15) (set_ [(2, PAGE_CTRL_lock, 1)])).reg
      (fkey 2 GLB_SEQ_BUDGET 0) = 0x0C0F := by decide +kernel
/-- R20, R60: a value out of range changes nothing and raises WRITE_REFUSED, source 15, of the page. -/
theorem test_range_write_faults :
    (after (.registerWrite 32 (BitVec.ofNat 24 (4096 * 2 + GLB_SEQ_BUDGET.off)) 0x0C04 15) State.reset).sticky 2 = 0x8000 := by
  decide +kernel

/-! The mints. -/

/-- An instruction word of the register format (R129). -/
def rWord (op pe p d a b c s : Nat) : Word :=
  BitVec.ofNat 32 (op * 2 ^ 24 + pe * 2 ^ 23 + p * 2 ^ 21 + d * 2 ^ 16 + a * 2 ^ 11 + b * 2 ^ 6 + c * 2 + s)
/-- One of the immediate format. -/
def iWord (op d imm : Nat) : Word := BitVec.ofNat 32 (2 ^ 30 + op * 2 ^ 24 + d * 2 ^ 16 + imm)
/-- One of the memory format. -/
def mWord (op d base off : Nat) : Word := BitVec.ofNat 32 (2 * 2 ^ 30 + op * 2 ^ 24 + d * 2 ^ 16 + base * 2 ^ 12 + off)
/-- One of the control format. -/
def cWord (op pe p d target : Nat) : Word :=
  BitVec.ofNat 32 (3 * 2 ^ 30 + op * 2 ^ 24 + pe * 2 ^ 23 + p * 2 ^ 21 + d * 2 ^ 16 + target)

/-- A cheque of an 8 × 1 cell at the origin of OUT0, a composition's. -/
def cheque0 : Cheque := ⟨none, 0, 0, false, 0, 0, 8, 1, 0, [], 0, 0, ⟨0, 100, 2, 0⟩, false, true⟩
/-- A mint that runs cheque 1 and whose two-word routine begins with `w`. -/
def running (w : Word) : MintS := { MintS.zero with
  vl := 1, code := Tbl.set (fun _ => 0) [] 0 w, codeLen := 2, phase := .running, cheque := some 1, resident := some 0 }
/-- Mint 0 as given, with cheque 1 as given. -/
def minted (v : MintS) (c : Cheque := cheque0) : State := { State.reset with mints := [(0, v)], cheques := [(1, some c)] }
/-- Mint 0 about to run the word. -/
def mintAt (w : Word) : State := minted (running w)

/-- Mint `m` runs an instruction of opcode `op` next, in a canonical state in which `p` holds of cheque and instruction. -/
def ranB (s : State) (m op : Nat) (p : Cheque → MI → Bool := fun _ _ => true) : Bool :=
  match s.current m with
  | some (_, c, some i) => s.canonical && i.op == op && !overLimit (s.mint m) c i && s.rd (pressPage (m / 8)) FLT_INJECT_arm == 0 && p c i
  | _ => false

theorem runs_of_ranB {s : State} {m op : Nat} {p : Cheque → MI → Bool} (h : ranB s m op p = true) :
    ∃ c i, s.canonical = true ∧ s.runs m op c i ∧ p c i = true := by
  unfold ranB at h
  split at h
  · rename_i id c i hc
    simp only [Bool.and_eq_true, beq_iff_eq, Bool.not_eq_true'] at h
    exact ⟨c, i, h.1.1.1.1, ⟨⟨id, hc⟩, h.1.1.1.2, h.1.1.2, .inl h.1.2⟩, h.2⟩
  · cases h

theorem test_witness_MintWordFormat : (decodeMint (rWord 0x0A 1 2 3 4 5 6 1) 1 false).isSome = true
    ∧ opFormat 0x30 = some 1 ∧ opFormat 0x38 = some 2 ∧ opFormat 0x3C = some 3 ∧ opFormat 0x00 = some 0
    ∧ storeOk 0x1FFC 4 4 false = true ∧ storeOk 0x1FFD 4 1 false = false ∧ storeOk 2 4 4 false = false := by decide +kernel

/-- For the three statements about lane instructions. -/
theorem test_witness_IntegerLanes_FloatLanes_CompareLanes : ∀ op ∈ List.range 0x1E, op ≠ 0x10 → op ≠ 0x1C →
    ∃ c i, (mintAt (rWord op 0 0 3 4 5 1 0)).canonical = true ∧ (mintAt (rWord op 0 0 3 4 5 1 0)).runs 0 op c i := by
  have key : ∀ op ∈ List.range 0x1E, op ≠ 0x10 → op ≠ 0x1C → ranB (mintAt (rWord op 0 0 3 4 5 1 0)) 0 op = true := by
    decide +kernel
  intro op h h1 h2
  obtain ⟨c, i, hc, hr, _⟩ := runs_of_ranB (key op h h1 h2)
  exact ⟨c, i, hc, hr⟩

/-- A mint with words in elements 0 of vector registers and in scalar registers. -/
def withRegs (v : MintS) (vs ss : List (Nat × Word)) : MintS :=
  let v := vs.foldl (fun (t : MintS) e => t.setV e.1 0 e.2) v
  ss.foldl (fun (t : MintS) e => t.setS e.1 e.2) v

/-- The store window of the witnesses: a table base in s[1], elements' indices in v4. -/
def lutMint (base : Word) (b : Nat) (op : Nat) : State := minted (withRegs (running (rWord op 0 0 3 4 b 1 0)) [(4, 1)] [(1, base)])
/-- The addresses of LUT lie in the store, or one does not. -/
def lutIn (s : State) (_ : Cheque) (i : MI) : Bool :=
  let v := s.mint 0
  decide (∀ k ∈ v.active i, ((v.s i.c).toNat + 4 * (v.v i.a k).toNat) % 2 ^ 32 + 4 ≤ 0x2000
    ∧ ((v.s i.c).toNat + 4 * (v.v i.a k).toNat) % 2 ^ 32 % 4 = 0)
def lutOut (s : State) (_ : Cheque) (i : MI) : Bool :=
  let v := s.mint 0
  decide (∃ k ∈ v.active i, 0x2000 < ((v.s i.c).toNat + 4 * (v.v i.a k).toNat) % 2 ^ 32 + 4
    ∨ ((v.s i.c).toNat + 4 * (v.v i.a k).toNat) % 2 ^ 32 % 4 ≠ 0)
def lutfIn (s : State) (_ : Cheque) (i : MI) : Bool :=
  let base := ((s.mint 0).s i.c).toNat
  decide (base + 4 * (2 ^ i.b + 1) ≤ 0x2000 ∧ base % 4 = 0)
def lutfOut (s : State) (_ : Cheque) (i : MI) : Bool :=
  let base := ((s.mint 0).s i.c).toNat
  decide (0x2000 < base + 4 * (2 ^ i.b + 1) ∨ base % 4 ≠ 0)

theorem test_witness_TableLanes : ranB (lutMint 0x1FF8 0 0x1B) 0 0x1B (lutIn (lutMint 0x1FF8 0 0x1B)) = true
    ∧ ranB (lutMint 0x1FFC 0 0x1B) 0 0x1B (lutOut (lutMint 0x1FFC 0 0x1B)) = true
    ∧ ranB (lutMint 2 0 0x1B) 0 0x1B (lutOut (lutMint 2 0 0x1B)) = true
    ∧ ranB (lutMint 0x0FFC 10 0x1C) 0 0x1C (lutfIn (lutMint 0x0FFC 10 0x1C)) = true
    ∧ ranB (lutMint 0x1FBC 4 0x1C) 0 0x1C (lutfIn (lutMint 0x1FBC 4 0x1C)) = true
    ∧ ranB (lutMint 0x1000 10 0x1C) 0 0x1C (lutfOut (lutMint 0x1000 10 0x1C)) = true
    ∧ ranB (lutMint 1 4 0x1C) 0 0x1C (lutfOut (lutMint 1 4 0x1C)) = true := by decide +kernel

theorem test_witness_ScalarInstructions : (∀ op ∈ [0x20, 0x21], ranB (mintAt (rWord op 0 0 3 4 5 0 0)) 0 op = true)
    ∧ ranB (mintAt (rWord 0x22 0 0 3 4 0 3 0)) 0 0x22 = true
    ∧ (∀ op ∈ [0x30, 0x31], ranB (mintAt (iWord op 15 0x8000)) 0 op = true) := by decide +kernel
theorem test_witness_ScalarInstructions_vector : ranB (mintAt (iWord 0x32 31 0x3C00)) 0 0x32 = true
    ∧ ranB (mintAt (iWord 0x33 0 1)) 0 0x33 = true ∧ ranB (mintAt (iWord 0x33 0 8)) 0 0x33 = true
    ∧ ranB (mintAt (iWord 0x33 0 9)) 0 0x33 = false := by decide +kernel

/-- Mint 0 about to run a memory instruction at the address that s[1] holds. -/
def storeMint (op : Nat) (base : Word) : State := minted (withRegs (running (mWord op 2 1 0)) [] [(1, base)])
def fitsAt (s : State) (n al : Nat) (_ : Cheque) (i : MI) : Bool :=
  decide (((((s.mint 0).s i.base).toNat + 4 * i.off) % 2 ^ 32) + n ≤ 0x2000 ∧ (((s.mint 0).s i.base).toNat + 4 * i.off) % 2 ^ 32 % al = 0)

theorem test_witness_StoreInstructions :
    ([(0 : Word), 0x1FF0].all fun a => [0x38, 0x39].all fun op => ranB (storeMint op a) 0 op (fitsAt (storeMint op a) 16 16)) = true
    ∧ ([(0x1FF4 : Word), 0x2000, 8].all fun a => [0x38, 0x39].all fun op =>
        ranB (storeMint op a) 0 op fun c i => !fitsAt (storeMint op a) 16 16 c i) = true
    ∧ ([(0 : Word), 0x1FC, 0x1000, 0x1FFC].all fun a => [0x3A, 0x3B].all fun op =>
        ranB (storeMint op a) 0 op (fitsAt (storeMint op a) 4 4)) = true
    ∧ ([(0x1FFE : Word), 0x2000, 2].all fun a => [0x3A, 0x3B].all fun op =>
        ranB (storeMint op a) 0 op fun c i => !fitsAt (storeMint op a) 4 4 c i) = true
    ∧ ([(0x200 : Word), 0xFFC].all fun a => ranB (storeMint 0x3B a) 0 0x3B fun c i => fitsAt (storeMint 0x3B a) 4 4 c i
        && decide (0x200 < a.toNat + 4 ∧ a.toNat < 0x1000)) = true
    ∧ ([(0x200 : Word), 0xFF0].all fun a => ranB (storeMint 0x39 a) 0 0x39 fun c i => fitsAt (storeMint 0x39 a) 16 16 c i
        && decide (0x200 < a.toNat + 16 ∧ a.toNat < 0x1000)) = true
    ∧ State.reset.rd (pressPage 0) FLT_INJECT_arm = 0 := by decide +kernel

/-- A layer of format ARGB8888 at the origin of OUT0, in DRAM at 0. -/
def lay0 : Lay := ⟨0, 1, true, false, false, false, false, 0, 0, 1, 0, 0, 0, 0, 0, 8, 1, 8, 1, 0, false, 0, 0, true, 255, 1, 0, 0, 8, 1,
  0, 0, 64, 0, 0, 0⟩
/-- Its stream, with the block that it reads: position k holds the bytes 4 k to 4 k + 3. -/
def stream0 : Stream := ⟨0, 0, 1, 0, 0, false, 255, 0, 8, 0, 1, none, lay0, none, (0, 0), [], 0, [], false, 1,
  [(0, (List.range 64).map (BitVec.ofNat 8))], [], [], none, none, false⟩
def cheque1 : Cheque := { cheque0 with streams := [stream0] }
def streamMint (w : Word) : State := minted (running w) cheque1

/-- The stream has delivered every position of the group that the instruction reads. -/
def delivered (s : State) (c : Cheque) (_ : MI) : Bool :=
  match Got.all ((s.mint 0).elems.map fun k => s.at c stream0 (((s.mint 0).sp 0 + 2 * k) / 2)) with | .val _ => true | _ => false
def grouped (s : State) (c : Cheque) (_ : MI) : Bool :=
  match s.groupAt c stream0 (s.mint 0) 0 (s.mint 0).elems with | .val _ => true | _ => false

theorem test_witness_StreamInstructions : cheque1.streams[0]? = some stream0
    ∧ (cheque1.acct.isNone && stream0.src.effect && stream0.output.isNone && !stream0.transparent) = false
    ∧ ranB (streamMint (rWord 0x23 0 0 3 0 0 0 0)) 0 0x23 (delivered (streamMint (rWord 0x23 0 0 3 0 0 0 0))) = true
    ∧ (∀ k ∈ [0, 3], ranB (streamMint (rWord 0x24 0 0 3 0 0 k 0)) 0 0x24 (grouped (streamMint (rWord 0x24 0 0 3 0 0 k 0))) = true)
    ∧ ranB (streamMint (rWord 0x10 0 0 3 0 0 0 0)) 0 0x10
        (fun c i => !i.pe && grouped (streamMint (rWord 0x10 0 0 3 0 0 0 0)) c i) = true
    ∧ ranB (streamMint (rWord 0x27 0 0 0 0 0 0 0)) 0 0x27 = true := by decide +kernel

theorem test_witness_OutputInstructions :
    (∀ op ∈ [0x25, 0x26], ∀ o ∈ [0, 15], ranB (minted { running (rWord op 0 0 0 3 0 0 0) with opos := o }) 0 op
      (fun c _ => decide (o / 2 < c.w * c.h)) = true)
    ∧ (∀ op ∈ [0x25, 0x26], ranB (minted { running (rWord op 0 0 0 3 0 0 0) with opos := 16 }) 0 op
      (fun c _ => decide (¬ 16 / 2 < c.w * c.h)) = true)
    ∧ ranB (mintAt (rWord 0x28 0 0 0 0 0 0 0)) 0 0x28 = true := by decide +kernel

theorem test_witness_MintWordFormat_control : ∀ e ∈ [0x3C, 0x3D],
    ranB (mintAt (cWord e 1 0 1 1)) 0 e (fun _ i => i.pe && decide (i.target < 2)) = true
    ∧ (mintAt (cWord e 1 0 1 1)).canonical = true ∧ ((mintAt (cWord e 1 0 1 1)).mint 0).codeLen = 2 := by decide +kernel

theorem test_witness_MintWordFormat_lanes :
    ranB (mintAt (rWord 0x00 1 1 3 4 5 0 0)) 0 0x00 (fun _ i => i.pe) = true
    ∧ (mintAt (rWord 0x00 1 1 3 4 5 0 0)).canonical = true
    ∧ ((after (.iadd 0) (mintAt (rWord 0x00 1 1 3 4 5 0 0))).mint 0).pc = ((mintAt (rWord 0x00 1 1 3 4 5 0 0)).mint 0).pc + 1
    ∧ 0 < 4 * ((mintAt (rWord 0x00 1 1 3 4 5 0 0)).mint 0).vl
    ∧ (((mintAt (rWord 0x00 1 1 3 4 5 0 0)).mint 0).p 1).getLsbD 0 = false := by decide +kernel

theorem test_witness_ControlInstructions :
    (∀ e ∈ [(0x3C, 0), (0x3C, 1), (0x3D, 1), (0x3E, 0)], ∀ t ∈ [0, 1],
      ranB (mintAt (cWord e.1 e.2 0 1 t)) 0 e.1 (fun _ i => decide (i.target < 2)) = true)
    ∧ (∀ e ∈ [(0x3C, 0), (0x3D, 1), (0x3E, 0)], ∀ t ∈ [2, 1023],
      ranB (mintAt (cWord e.1 e.2 0 1 t)) 0 e.1 (fun _ i => decide (2 ≤ i.target)) = true) := by decide +kernel

/-- An effect's cheque, of account A1, and a mint at the SETTLE of a cheque. -/
def effect0 : Cheque := { cheque1 with acct := some 1 }
def settling (c : Cheque) (opos : Nat := 16) : State := minted { running (cWord 0x3F 0 0 0 0) with opos := opos } c
/-- The layers whose effect is late become transparent. -/
def lateDone (s : State) (id : Nat) (c : Cheque) : State := c.streams.foldl (fun (t : State) st =>
  if st.src.effect && st.output.isNone && !st.transparent then t.lateEffect id st.layer c.out else t) s
/-- A cheque whose layer's effect has not settled, and one that has no layer. -/
def awaited : Cheque := { cheque1 with streams := [{ stream0 with src := { lay0 with effect := true } }] }
def cellDone (s : State) : Bool :=
  match s.current 0 with
  | some (id, c, some _) =>
    let u := lateDone s id c
    ranB u 0 0x3F fun d _ => d.acct.isNone && decide (d.w * d.h ≤ (u.mint 0).opos / 2)
      && (match u.settled d (u.mint 0) with | .val _ => true | _ => false)
  | _ => false
theorem test_witness_SettleInstruction :
    (∀ c ∈ [cheque0, effect0, awaited], ranB (settling c) 0 0x3F (fun c _ => decide (c.w * c.h ≤ 16 / 2)) = true)
    ∧ (∀ c ∈ [cheque0, awaited], cellDone (settling c) = true ∧ c.acct = none)
    ∧ ranB (settling cheque0 15) 0 0x3F (fun c _ => decide (15 / 2 < c.w * c.h)) = true
    ∧ effect0.acct.isSome = true ∧ (settling effect0).effectRoom effect0 = true := by decide +kernel

theorem test_witness_MintLimits :
    (match (mintAt 0x40000000).current 0 with | some (_, _, none) => true | _ => false) = true
    ∧ (match (minted { running (rWord 0 0 0 3 4 5 0 0) with count := 4096 }).current 0 with | some (_, _, some i) => i.op == 0 | _ => false) = true
    ∧ (match (minted { running (rWord 0 0 0 3 4 5 0 0) with ops := 97 } effect0).current 0 with
        | some (_, c, some i) => c.acct.isSome && decide (c.routine.cost < 97 + laneOpsOf i 1) | _ => false) = true
    ∧ State.reset.rd (pressPage 0) FLT_INJECT_arm = 0 ∧ (State.reset.mint 0).phase ≠ .running := by decide +kernel

/-! Single instructions of the mints, against R126 to R136. -/

/-- Element 0 of vector register 3 after the word, with v4, v5 and v6 holding the words given. -/
def lane3 (c : Instr) (w : Word) (a b d : Word) : Word :=
  ((after c (minted (withRegs (running w) [(4, a), (5, b), (6, d)] []))).mint 0).v 3 0

theorem test_iadd_wraps : lane3 (.iadd 0) (rWord 0x00 0 0 3 4 5 0 0) 0xFFFFFFFF 1 0 = 0 := by decide +kernel
theorem test_isub_order : lane3 (.isub 0) (rWord 0x01 0 0 3 4 5 0 0) 0 1 0 = 0xFFFFFFFF := by decide +kernel
theorem test_imul_low_word : lane3 (.imul 0) (rWord 0x02 0 0 3 4 5 0 0) 0x10001 0x10001 0 = 0x00020001 := by decide +kernel
theorem test_iand : lane3 (.iand 0) (rWord 0x03 0 0 3 4 5 0 0) 0xF0F0 0xFF00 0 = 0xF000 := by decide +kernel
theorem test_ior : lane3 (.ior 0) (rWord 0x04 0 0 3 4 5 0 0) 0xF0F0 0xFF00 0 = 0xFFF0 := by decide +kernel
theorem test_shl_mod_32 : lane3 (.shl 0) (rWord 0x05 0 0 3 4 5 0 0) 1 33 0 = 2 := by decide +kernel
theorem test_shr_logical : lane3 (.shr 0) (rWord 0x06 0 0 3 4 5 0 0) 0x80000000 31 0 = 1 := by decide +kernel
theorem test_fadd : lane3 (.fadd 0) (rWord 0x07 0 0 3 4 5 0 0) 0x3F800000 0x40000000 0 = 0x40400000 := by decide +kernel
theorem test_fsub : lane3 (.fsub 0) (rWord 0x08 0 0 3 4 5 0 0) 0x3F800000 0x40000000 0 = 0xBF800000 := by decide +kernel
theorem test_fmul_flushes : lane3 (.fmul 0) (rWord 0x09 0 0 3 4 5 0 0) 0x00800000 0x3F000000 0 = 0 := by decide +kernel
/-- (1 + 2^-23)² - (1 + 2^-22) = 2^-46, which a product rounded first would lose. -/
theorem test_fma_rounds_once : lane3 (.fma 0) (rWord 0x0A 0 0 3 4 5 6 0) 0x3F800001 0x3F800001 0xBF800002 = 0x28800000 := by decide +kernel
theorem test_fmin_number_wins : lane3 (.fmin 0) (rWord 0x0B 0 0 3 4 5 0 0) 0x40000000 0x3F800000 0 = 0x3F800000 := by decide +kernel
theorem test_fmax : lane3 (.fmax 0) (rWord 0x0C 0 0 3 4 5 0 0) 0xBF800000 0x3F800000 0 = 0x3F800000 := by decide +kernel
theorem test_fsat_top : lane3 (.fsat 0) (rWord 0x0D 0 0 3 4 0 0 0) 0x40000000 0 0 = 0x3F800000 := by decide +kernel
theorem test_cvtif_negative : lane3 (.cvtif 0) (rWord 0x12 0 0 3 4 0 0 0) 0xFFFFFFFD 0 0 = 0xC0400000 := by decide +kernel
theorem test_cvthf_high : lane3 (.cvthf 0) (rWord 0x14 0 0 3 4 0 1 0) 0x3C000000 0 0 = 0x3F800000 := by decide +kernel
theorem test_cvtfh_packs : lane3 (.cvtfh 0) (rWord 0x15 0 0 3 4 5 0 0) 0x3F800000 0x40000000 0 = 0x40003C00 := by decide +kernel
theorem test_unpk8_byte : lane3 (.unpk8 0) (rWord 0x16 0 0 3 4 0 2 0) 0x00FF0000 0 0 = 0x3F800000 := by decide +kernel
theorem test_pack8_byte : lane3 (.pack8 0) (rWord 0x17 0 0 3 4 0 1 0) 0x3F800000 0 0 = 0x0000FF00 := by decide +kernel
theorem test_mov_scalar : ((after (.mov 0) (minted (withRegs (running (rWord 0x1D 0 0 3 4 0 0 1)) [] [(4, 7)]))).mint 0).v 3 3 = 7 := by
  decide +kernel
/-- Predicate 0 holds 0 but for what R131 sets at a start: with no bit set, sel takes operand b. -/
theorem test_sel_false : lane3 (.sel 0) (rWord 0x1A 0 0 3 4 5 2 0) 1 2 0 = 2 := by decide +kernel
/-- Signed less-than sets bit 0 only where it holds: -1 < 1 in element 0, 0 < 0 nowhere else. -/
theorem test_icmp_signed :
    ((after (.icmp 0) (minted (withRegs (running (rWord 0x19 0 0 1 4 5 1 0)) [(4, 0xFFFFFFFF), (5, 1)] []))).mint 0).p 1 = 1 := by
  decide +kernel
theorem test_smovi_sign_extends : ((after (.smovi 0) (mintAt (iWord 0x30 2 0xFFFE))).mint 0).s 2 = 0xFFFFFFFE := by decide +kernel
theorem test_saddi : ((after (.saddi 0) (minted (withRegs (running (iWord 0x31 2 0xFFFF)) [] [(2, 5)]))).mint 0).s 2 = 4 := by decide +kernel
theorem test_smul : ((after (.smul 0) (minted (withRegs (running (rWord 0x21 0 0 2 3 4 0 0)) [] [(3, 6), (4, 7)]))).mint 0).s 2 = 42 := by
  decide +kernel
theorem test_movh_one : ((after (.movh 0) (mintAt (iWord 0x32 3 0x3C00))).mint 0).v 3 3 = 0x3F800000 := by decide +kernel
/-- The data store is little-endian (R127). -/
theorem test_sts_bytes :
    let t := after (.sts 0) (minted (withRegs (running (mWord 0x3B 2 1 1)) [] [(1, 0x1000), (2, 0x04030201)]))
    (List.range 6).map (fun k => Tbl.get (fun _ => (0 : Byte)) (t.mint 0).data (0x1003 + k)) = [0, 1, 2, 3, 4, 0] := by decide +kernel
/-- GET of ARGB8888 gives the raw pixel: B, G, R, A from the lowest byte (R133). -/
theorem test_get_raw : ((after (.get 0) (streamMint (rWord 0x23 0 0 3 0 0 0 0))).mint 0).v 3 1 = 0x07060504 := by decide +kernel
theorem test_loop_ends : ((after (.loop 0) (minted (withRegs (running (cWord 0x3E 0 0 2 0)) [] [(2, 1)]))).mint 0).pc = 1 := by decide +kernel
theorem test_loop_repeats : ((after (.loop 0) (minted { withRegs (running (cWord 0x3E 0 0 2 1)) [] [(2, 2)] with pc := 0 })).mint 0).s 2 = 1 := by
  decide +kernel
theorem test_nexto_advances : ((after (.nexto 0) (mintAt (rWord 0x28 0 0 0 0 0 0 0))).mint 0).opos = 8 := by decide +kernel
/-- R136: a store to the constants bounces the cheque, and the mint is free. -/
theorem test_store_to_constants_bounces :
    ((after (.sts 0) (minted (withRegs (running (mWord 0x3B 2 1 0)) [] [(1, 0x200)]))).mint 0).phase = .idle := by decide +kernel
/-- R135, R133: a PUTC of an RGBA16F effect rounds to the least binary16, ties to even, and a GETC reads it back exactly as 2^-24. -/
theorem test_half_exact : toForm 2 0x33800000 = 1 ∧ toForm 2 0x33000000 = 0 ∧ toForm 2 0x33000001 = 1 ∧ compF 2 1 = 0x33800000 := by
  decide +kernel

/-! The common header, the faults and the fabric. -/

/-- The device awake and its Custodian running. -/
def alive : State := { State.reset with boot := { State.reset.boot with awake := true, cusRuns := true } }
/-- A time. -/
def at_ (n : Nat) (s : State := State.reset) : State := { s with now := n }
def ctlOk (s : State) (p : Nat) (f : Fld) (x : Nat) : Bool := okBy32 s p PAGE_CTRL.off (s.fieldWrite p f 0 x) false (s.pageCtrlRule 32 p)

theorem test_witness_PageControlCommands : ctlOk State.reset 1424 PAGE_CTRL_enable 1 = true
    ∧ ctlOk (set_ [(1424, PAGE_CTRL_enable, 1)]) 1424 PAGE_CTRL_enable 0 = true
    ∧ ctlOk State.reset 1424 PAGE_CTRL_sleep_req 1 = true ∧ ctlOk State.reset 1424 PAGE_CTRL_block_reset 1 = true
    ∧ ctlOk State.reset 1424 PAGE_CTRL_lock 1 = true := by decide +kernel

/-- A page enabled and asked to sleep, in a power state. -/
def asleep (power : Nat) : State := set_ [(1424, PAGE_CTRL_enable, 1), (1424, PAGE_CTRL_sleep_req, 1), (1424, PAGE_STATUS_state, power)]
theorem test_witness_SleepRequestOfAWakingUnit :
    (∀ p ∈ [0, 1, 2, 3], (asleep p).canonical = true ∧ (asleep p).powerGoal 1424 = 1 ∧ (asleep p).power 1424 = p)
    ∧ (kindOf 1424).1 ≠ .press := by decide +kernel

def pendingState : State := set_ [(4, EVT_RAW, 3), (4, EVT_PENDING, 3)]
/-- Page 1344 with source 0 captured, owned by account A1 and its class trusted where asked. -/
def faulted (cls : Nat) : State := (set_ [(1344, FLT_STICKY, 1), (1344, ⟨0x024, 4, 2, 0⟩, cls)] heard).setOwner 1344 1
theorem test_witness_StickyBitClears : okBy32 pendingState 4 EVT_PENDING.off 1 false (evtRule 4) = true
    ∧ (rowAt 1344 FLT_STICKY.off).isSome = true ∧ (faulted 0).owns 32 1344 = true ∧ (faulted 0).owns 1 1344 = true
    ∧ (faulted 0).hostHeard = true ∧ (faulted 0).trustedActor 32 = true ∧ (faulted 0).sticky 1344 = 1 ∧ (faulted 0).room 32 = true
    ∧ (kindOf 1344).1 ≠ .none ∧ (faulted 0).room 32 1 = true
    ∧ (faulted 4).trustedActor 1 = false ∧ (faulted 4).trustedBits 1344 1 = 1 ∧ (State.reset).sticky 1344 = 0
    ∧ (let s := set_ [(1344, FLT_STICKY, 3)] (faulted 4);
      s.trustedBits 1344 3 = 1 ∧ 3 - s.trustedBits 1344 3 ≠ 0 ∧ (s.refuse 1 1344 FLT_STICKY.off 4 3).room 1 1 = true) := by decide +kernel

def injectable : State := set_ [(cusPage 0, CUS_ISOLATION_inject_perm, 1)]
theorem test_witness_InjectAndLatch : okBy32 injectable 1344 FLT_INJECT.off 0x80000110 false (injectable.injectRule 32 1344) = true
    ∧ okBy32 injectable 1344 FLT_INJECT.off 0x80000000 false (injectable.injectRule 32 1344) = true
    ∧ State.reset.ticks 34 = true ∧ (kindOf 34).1 ≠ .press ∧ State.reset.now % 100000000 = 0
    ∧ NatTbl.at_ State.reset.ticked 34 ≠ State.reset.now + 1 ∧ (at_ 1).now % 100000000 ≠ 0
    ∧ State.reset.ticks (pressPage 0) = true ∧ kindOf (pressPage 0) = (.press, 0) := by decide +kernel
theorem test_witness_TallyLatchTogether : State.reset.canonical = true
    ∧ 0 < (capsOf (kindOf 34).1).tallies ∧ (capsOf (kindOf 34).1).tallies ≤ 8 ∧ 34 < 4096 := by decide +kernel

theorem test_witness_RegisterWriteCommand : State.reset.busPage 32 0x004018 = some 4 ∧ (kindOf 4).1 ≠ .leg
    ∧ 0x004018 % 4096 / 4 * 4 ≠ EVT_ENABLE.off ∧ State.reset.busPage 32 (0x004000 + EVT_ENABLE.off) = some 4
    ∧ State.reset.escrowRule 32 4 EVT_ENABLE.off = .ok ∧ okBy32 State.reset 4 EVT_ENABLE.off 1 false (evtRule 4) = true
    ∧ heard.busPage 3 0x100000 = none ∧ heard.hostHeard = true := by decide +kernel
/-- The verdict on a write of EVT_ENABLE of page 4 by the Custodian, as the statement takes it. -/
def verdict4 (s : State) (v : Word) : Verdict :=
  (s.judge 32 4 EVT_ENABLE.off v 15 false fun v => match s.escrowRule 32 4 EVT_ENABLE.off with
    | .ok => if EVT_ENABLE.off = EVT_ENABLE.off then evtRule 4 v else .ok
    | r => r).1
theorem test_witness_RegisterWriteCommand_verdicts : verdict4 State.reset 1 = .carried ∧ verdict4 State.reset 0 = .same
    ∧ verdict4 State.reset 0x80000000 = .range ∧ verdict4 full 1 = .full
    ∧ (heard.judge 3 4 EVT_ENABLE.off 1 15 false fun _ => .ok).1 = .foreign
    ∧ (State.reset.judge 32 4 PAGE_ID.off 1 15 false fun _ => .ok).1 = .ignored
    ∧ (kindOf (legPage 0 0)).1 = .leg := by decide +kernel

/-- The wave alive, scanned and with a heartbeat at time 0. -/
def waving : State :=
  { set_ [(flt2, FLT_OUT_STATUS_alive, 1)] alive with flt := { alive.flt with scanEnd := some 0, heartbeat := some (6, 0) } }
theorem test_witness_FaultScansAndWave : alive.boot.awake = true ∧ alive.rd flt2 FLT_INJECT_arm = 0
    ∧ alive.flt.scanEnd = none ∧ waving.flt.scanEnd = some 0 ∧ 0 ≤ 0 + waving.halfNs
    ∧ (at_ 100000 alive).flt.scanAt + 100000 ≤ (at_ 100000 alive).now ∧ alive.now < alive.flt.scanAt + 100000
    ∧ waving.boot.awake = true ∧ (waving.now - waving.flt.wave) % waving.halfNs = 0 ∧ waving.flt.flipped ≠ waving.now + 1
    ∧ ((at_ 1 waving).now - waving.flt.wave) % waving.halfNs ≠ 0
    ∧ waving.rd flt2 FLT_OUT_STATUS_compat ≠ 1 ∧ waving.rd flt2 FLT_OUT_STATUS_alive = 1
    ∧ (waving.scanGood && waving.beatGood && waving.rd flt2 FLT_OUT_STATUS_pin_fault == 0) = true
    ∧ alive.missed = [] ∧ (set_ [(1344, FLT_STICKY, 1)] alive).missed ≠ []
    ∧ (let s := set_ [(flt2, FLT_OUT_STATUS_alive, 0)] (at_ (16 * waving.halfNs) { waving with flt := { waving.flt with scanEnd := some (16 * waving.halfNs), heartbeat := some (6, 16 * waving.halfNs) } });
      s.rd flt2 FLT_OUT_STATUS_alive ≠ 1 ∧ (s.scanGood && s.beatGood && s.rd flt2 FLT_OUT_STATUS_pin_fault == 0) = true
        ∧ s.flt.ceased + 16 * s.halfNs ≤ s.now)
    ∧ (set_ [(flt2, FLT_OUT_STATUS_alive, 1)] alive).scanGood = false
    ∧ (set_ [(flt2, FLT_OUT_STATUS_compat, 1)] alive).rd flt2 FLT_OUT_STATUS_compat = 1
    ∧ okBy32 State.reset flt2 FLT_OUT_CTRL.off (State.reset.fieldWrite flt2 FLT_OUT_CTRL_half_period 0 20) = true
    ∧ waving.cusUp = true ∧ okBy32 waving flt2 FLT_HEARTBEAT.off ((7 : BitVec 16).setWidth 32) true = true
    ∧ waving.flt.heartbeat = some (6, 0) ∧ FLT_HEARTBEAT_seq.get ((7 : BitVec 16).setWidth 32) = 7
    ∧ waving.now ≤ 0 + 4 * waving.halfNs := by decide +kernel
/-- The last value, the wrap to 0 after 65,535. -/
theorem test_heartbeat_wraps : (after (.heartbeat 32 0) { waving with flt := { waving.flt with heartbeat := some (65535, 0) } }).flt.heartbeat
    = some (0, 0) := by decide +kernel
/-- R324: out of sequence, source 2 of page 34 is raised. -/
theorem test_heartbeat_out_of_sequence : (after (.heartbeat 32 8) waving).sticky flt2 = 4 := by decide +kernel

theorem test_witness_SafeStateRequests : (1000 : Nat) ≤ 1000 ∧ (999 : Nat) < 1000 ∧ (10000000 : Nat) ≤ 10000000
    ∧ okBy32 State.reset flt2 FLT_SAFE_CTRL.off (State.reset.fieldWrite flt2 FLT_SAFE_CTRL_force 0 1) = true := by decide +kernel
/-- R322: SAFE_REQ_N raises source 3 of the collector. -/
theorem test_safe_request : (after (.safeReqAssert 1000) State.reset).sticky flt2 = 8 ∧ (after (.safeReqAssert 1000) State.reset).deviceSafe = true := by
  decide +kernel

def wake0 : Wake := ⟨1424, 1, 0, 0, [0]⟩
/-- A queue with one request, and a step of it in progress until `t` with `n` steps left. -/
def queued : State := { State.reset with seq := { State.reset.seq with queue := [wake0] } }
def stepping (t n : Nat) : State :=
  { State.reset with seq := { State.reset.seq with step := some ({ wake0 with left := List.replicate n 0 }, t) } }
theorem test_witness_WakeSequencer : State.reset.wakes 1424 = false ∧ State.reset.power 1424 = 0
    ∧ (set_ [(1424, PAGE_STATUS_state, 1)]).power 1424 = 1 ∧ State.reset.wakeSteps 1424 ≠ [] ∧ State.reset.seq.step = none
    ∧ (stepping 9 1).seq.step = some (wake0, 9) ∧ wake0.cls ≠ 0 ∧ (stepping 9 1).wakes 1440 = false
    ∧ (stepping 9 1).wakeSteps 1440 ≠ [] ∧ (stepping 9 1).power 1440 = 0 ∧ queued.wakes 1424 = true
    ∧ nextWake queued.seq.queue = some wake0 ∧ queued.mayIssue wake0 = true
    ∧ (at_ 9 (stepping 9 1)).now = 9 ∧ (kindOf 1424).1 ≠ .vlt ∧ (stepping 9 2).seq.step = some ({ wake0 with left := [0, 0] }, 9)
    ∧ (at_ 8 (stepping 9 1)).now < 9
    ∧ okBy32 State.reset (glbPage 2) GLB_SEQ_STATUS.off 0x80000000 = true := by decide +kernel
/-- R45: a unit's only step done, it is ON (state 3 of PAGE_STATUS, R53). -/
theorem test_wake_completes : (after .seqStepComplete ((at_ 9 (stepping 9 1)).wr 1424 PAGE_CTRL_enable 1)).power 1424 = 3 := by decide +kernel

def avsAt (a : AvsS) (n : Nat) (l : List (Nat × Fld × Nat)) : State := { set_ l with avs := a, now := n }
def avs0 : AvsS := State.reset.avs
theorem test_witness_VoltageAndCanaries :
    3 ≤ (set_ [(cusPage 0, CUS_BOOT_STATUS_stage, 3)]).rd (cusPage 0) CUS_BOOT_STATUS_stage
    ∧ State.reset.rd (cusPage 0) CUS_BOOT_STATUS_stage < 3
    ∧ (let s := avsAt { avs0 with lower := [(0, 38), (300000000, 12)] } 300000000 [(glbPage 2, GLB_AVS_STATUS_request_code, 43)]
      0 + s.rd (glbPage 2) GLB_AVS_CTRL_fall_ms * 1000000 ≤ s.now ∧ s.now < 300000000 + s.rd (glbPage 2) GLB_AVS_CTRL_fall_ms * 1000000
        ∧ s.avs.fellAt + 1000000 ≤ s.now ∧ max s.avsFloor 38 < s.rd (glbPage 2) GLB_AVS_STATUS_request_code)
    ∧ (let s := set_ [(glbPage 2, GLB_AVS_STATUS_request_code, 46), (glbPage 2, GLB_AVS_STATUS_vsram_code, 46)]
      (40 : Byte).toNat + 5 < (s.wr (glbPage 2) GLB_AVS_STATUS_readback_code 40).rd (glbPage 2) GLB_AVS_STATUS_request_code
        ∧ (41 : Byte).toNat + 5 = (s.wr (glbPage 2) GLB_AVS_STATUS_readback_code 41).rd (glbPage 2) GLB_AVS_STATUS_vsram_code)
    ∧ (let s := avsAt { avs0 with shortAt := some 0 } 1000000 []
      s.avs.shortAt = some 0 ∧ 0 + 1000000 ≤ s.now ∧ s.rd (glbPage 2) GLB_AVS_STATUS_shortfall = 0)
    ∧ State.reset.avs.shortAt = none ∧ State.reset.avs.vsramShortAt = none := by decide +kernel
theorem test_witness_VoltageAndCanaries_canary :
    (let t := (State.reset.setMargin 0 7).syncCanary 0;
      (7 : BitVec 6).toNat < t.rd (xchPage 0) MNT_X_CANARY_CTRL_guard ∧ t.rd (xchPage 0) MNT_X_CANARY_CTRL_guard ≤ (8 : BitVec 6).toNat)
    ∧ (let s := at_ 100000000 (set_ [(xchPage 0, ⟨0x088, 4, 0, 0⟩, 1)])
      let u := ((s.setMargin 0 8).setMargin 1 8).syncCanary 0
      u.rd (xchPage 0) MNT_X_CANARY_CTRL_guard ≤ 8 ∧ u.rd (xchPage 0) ⟨0x088, 4, 0, 0⟩ ≠ 0
        ∧ NatTbl.at_ u.avs.goodAt 0 + u.rd (xchPage 0) MNT_X_CANARY_CTRL_recover_ms * 1000000 ≤ u.now) := by decide +kernel

/-- Mint 0 of a running cheque, which a handshake's error finds still at work. -/
theorem test_witness_HandshakeErrors : 0 / 256 = 0 ∧ (((mintAt 0).fault (xchPage 0) 1).mint 0).phase ≠ .idle
    ∧ (((mintAt 0).fault (xchPage 0) 0).mint 0).phase ≠ .idle := by decide +kernel
/-- R43: HS_PARITY is source 1 of the exchange page. -/
theorem test_hs_parity_source : (after (.hsParity 2 .other) State.reset).sticky (xchPage 2) = 2 := by decide +kernel

/-! The outputs. -/

def timOk (s : State) (f : Fld) (x : Nat) : Bool :=
  okBy32 s (timPage 0) f.off (s.fieldWrite (timPage 0) f 0 x) false (s.timRule 32 0 f.off)
/-- OUT0 with a sink that admits variable refresh up to 144 Hz and 2250 lines. -/
def vrrState : State :=
  set_ [(lnkPage 0, OUT_LNK_STATUS_adaptive_sync, 1), (timPage 0, OUT_TIM_VRR_vtotal_max, 2250), (lnkPage 0, OUT_LNK_SINK_VRR_max_hz, 144)]
/-- Eight presses in the open reserve. -/
def reserve8 : State := (List.range 8).foldl (fun (t : State) i => t.setOwner (pressPage i) ownReserve) State.reset
theorem test_witness_OutputWrites : timOk reserve8 OUT_TIM_CTRL_run 1 = true ∧ timOk State.reset OUT_TIM_CTRL_run 1 = false
    ∧ timOk (set_ [(timPage 0, OUT_TIM_CTRL_run, 1)]) OUT_TIM_CTRL_run 0 = true
    ∧ timOk (set_ [(timPage 0, OUT_TIM_PAIR_split, 960)]) OUT_TIM_CTRL_pair_lock 1 = true
    ∧ timOk (set_ [(timPage 0, OUT_TIM_CTRL_pair_lock, 1)]) OUT_TIM_CTRL_pair_lock 0 = true
    ∧ timOk vrrState OUT_TIM_CTRL_vrr_en 1 = true ∧ timOk State.reset OUT_TIM_RMAX_rate 61 = true := by decide +kernel
/-- R170: at the reset timing of 148.5 MHz over 2200 × 1125 the rate is 60 Hz exactly, so a highest rate of 59 is refused. -/
theorem test_rmax_below_rate : timOk State.reset OUT_TIM_RMAX_rate 59 = false := by decide +kernel

/-- OUT0 with its hidden state and registers as given. -/
def outOn (o : OutS) (l : List (Nat × Fld × Nat) := []) (n : Nat := 0) : State := { set_ l with outs := [(0, o)], now := n }
def on0 : OutS := { OutS.zero with enabled := true }
def runs0 : Nat × Fld × Nat := (timPage 0, OUT_TIM_STATUS_running, 1)
/-- A line start at OUT0: the timing latched, and the line before. -/
def lineAt (s : State) : Nat × Timing × State := let u := (s.safeEntry 0).latchTiming 0; ((u.1.out 0).line, u.2, u.1)
def vrrRuns : State := outOn { on0 with line := 1080 } [runs0, (timPage 0, OUT_TIM_CTRL_vrr_en, 1), (timPage 0, OUT_TIM_VRR_vtotal_max, 2250)]
theorem test_witness_GeneratorStartAndStop : ((outOn on0).out 0).enabled = true ∧ (outOn on0).rd (timPage 0) OUT_TIM_STATUS_running ≠ 1
    ∧ (((outOn on0).assigned 0).all (outOn on0).pressOn) = true ∧ (outOn on0).gen 0 = 0
    ∧ ((outOn { on0 with stopReq := true }).out 0).stopReq = true ∧ ((outOn on0).out 0).stopReq = false
    ∧ (outOn on0 [runs0]).rd (timPage 0) OUT_TIM_STATUS_running = 1 := by decide +kernel
theorem test_witness_LineStartsAndBoundaries : (outOn on0).rd (timPage 0) OUT_TIM_STATUS_running = 0
    ∧ (outOn on0 [runs0]).rd (timPage 0) OUT_TIM_STATUS_running = 1
    ∧ ((outOn { on0 with stopReq := true } [runs0]).out 0).stopReq = true ∧ ((outOn on0 [runs0]).out 0).stopReq = false
    ∧ (lineAt vrrRuns).1 = (lineAt vrrRuns).2.1.vact ∧ (lineAt vrrRuns).2.2.vrrHolds 0 (lineAt vrrRuns).2.1 = true
    ∧ (lineAt (outOn { on0 with line := 1079 } [runs0])).1 ≠ 1080
    ∧ (let x := lineAt (outOn { on0 with line := 1080 } [runs0]); x.1 = 1080 ∧ x.2.2.vrrHolds 0 x.2.1 = false ∧ x.2.2.stretchHolds 0 x.2.1 = false)
    ∧ ((outOn { on0 with boundaryDue := true } [runs0]).out 0).boundaryDue = true ∧ ((outOn on0).out 0).boundaryDue = false := by decide +kernel
/-- R178: the last of 1125 lines, 1124, is followed by line 0. -/
theorem test_line_wraps : ((after (.lineStart 0) (outOn { on0 with line := 1124, tim := Timing.reset } [runs0])).out 0).line = 0 := by decide +kernel
/-- R178: the generator starts at the first line after the active area. -/
theorem test_generator_start_line : ((after (.generatorStart 0) (outOn on0)).out 0).line = 1080 := by decide +kernel

/-- OUT0 past a boundary, racing where asked, with cheque 1 as given. -/
def racing (bands cell : Nat) (c : Option Cheque) (l : List (Nat × Fld × Nat) := [(timPage 0, OUT_TIM_STATUS_racing, 1)])
    (now : Nat := 0) : State :=
  { outOn { on0 with bounds := [1], bands := bands, raceCell := cell, grid := (1920, 1080) } (runs0 :: l) now with cheques := match c with | some c => [(1, some c)] | none => [] }
def vaultStream : Stream := { stream0 with src := { lay0 with kind := 1 } }
def readCells (s : State) : List Nat :=
  let v := s.out 0
  s.chequesOf fun c => c.acct.isNone && c.out == 0 && c.frame == s.rd (timPage 0) OUT_TIM_FRAME_count
    && c.y == v.raceCell / max 1 (cellCols true v.grid.1) && c.x == v.raceCell % max 1 (cellCols true v.grid.1) * 256
/-- The conditions of BAND_START's first clause. -/
def bandGoes (s : State) : Bool :=
  decide ((s.out 0).bounds ≠ []) && decide ((s.out 0).bands < cellRows (s.races 0) (s.out 0).grid.2)
    && decide ((s.out 0).bands = 0 ∨ (s.out 0).bandAt + s.bandNs 0 ≤ s.now) && s.rd (timPage 0) OUT_TIM_STATUS_running != 0
    && s.rd (timPage 0) OUT_STATIC_STATUS_retained != 1
theorem test_witness_CellComposition_bands : bandGoes (racing 0 0 none []) = true ∧ bandGoes (racing 134 0 none [] 200000000) = true
    ∧ bandGoes (racing 0 0 none) = true ∧ bandGoes (racing 135 0 none [] 200000000) = false ∧ bandGoes (racing 1 0 none []) = false
    ∧ ((outOn on0 [runs0]).out 0).bounds = [] ∧ State.reset.rd (timPage 0) OUT_TIM_STATUS_running = 0
    ∧ cellRows ((racing 135 0 none []).races 0) ((racing 135 0 none []).out 0).grid.2 ≤ 135 := by decide +kernel
/-- Whether the first pixel of the next racing cell is due. -/
def readDue (s : State) : Bool :=
  let v := s.out 0
  let cols := max 1 (cellCols true v.grid.1)
  decide (v.nsTo s.now (s.rd (timPage 0) OUT_TIM_FRAME_count, v.raceCell / cols, v.raceCell % cols * 256) ≤ v.tim.racingLead * 10)
theorem test_witness_CellComposition_racing : (racing 1 0 none []).races 0 = false ∧ (racing 1 0 none).races 0 = true
    ∧ readDue (racing 1 0 none) = true ∧ readDue (racing 1 7 none) = false ∧ ((racing 1 0 none).out 0).raceCell / 8 < 1
    ∧ cellCols true ((racing 1 7 none).out 0).grid.1 = 8 ∧ 1 ≤ 8 / 8
    ∧ readCells (racing 1 0 none) = [] ∧ readCells (racing 1 0 (some cheque1)) = [1]
    ∧ cheque1.streams.all (fun st => st.src.kind == 0) = true ∧ vaultStream.src.kind ≠ 0 := by decide +kernel

/-- Cheque 1 with block 5 wanted, from DRAM or the vault, with the DRAM's registers as given. -/
def fetching (st : Stream) (l : List (Nat × Fld × Nat) := []) : State :=
  { set_ l with cheques := [(1, some { cheque0 with streams := [{ st with want := [(0, 5)] }] })] }
def dramUp : List (Nat × Fld × Nat) := [(memPage 0, MEM_STATUS_state, 2)]
def dramDown : List (Nat × Fld × Nat) := [(memPage 0, MEM_STATUS_state, 2), (memPage 0, MEM_STATUS_power, 2)]
theorem test_witness_CellComposition_fetch : State.reset.nextFetch 0 = none
    ∧ ((fetching stream0).nextFetch 0).map (fun e => (e.1, e.2.2.want)) = some (1, [(0, 5)])
    ∧ ((fetching { stream0 with want := [], src := { lay0 with kind := 1 } }).nextFetch 0).map (fun e => e.2.2.src.kind) = some 1
    ∧ (let d := (fetching stream0 dramDown).dropHeld (.fetch 0 0); d.fetchWaits cheque0 { stream0 with want := [(0, 5)] } = true)
    ∧ (let d := (fetching stream0 dramUp).dropHeld (.fetch 0 0); d.fetchWaits cheque0 { stream0 with want := [(0, 5)] } = false)
    ∧ (let t := ((fetching stream0 dramUp).dropHeld (.fetch 0 0)).openSlots 1 stream0.layer 4;
      match t.cheque 1 with
      | some c => (match c.streams.find? (·.layer == stream0.layer) with
        | some x => x.slotReady && (t.heldBlock c x 5).isNone | none => false)
      | none => false) = true
    ∧ ({ stream0 with want := [(1, 5)] } : Stream).slotReady = false
    ∧ (match ((fetching stream0).readMem 1 2 0 320 64).2 with | .error _ => true | .ok _ => false) = true := by decide +kernel

/-- Mint 0 settled on cheque 1, in frame 1 of an output that displays frame 0. -/
def settled (c : Cheque) (o : OutS := on0) (l : List (Nat × Fld × Nat) := []) : State :=
  { minted { running 0 with phase := .settled } c with outs := [(0, o)], regs := (set_ l).regs }
theorem test_witness_CellComposition_publish : (State.reset.mint 0).phase ≠ .settled
    ∧ ((settled cheque0).mint 0).phase = .settled ∧ ((settled cheque0).mint 0).cheque = some 1 ∧ (settled cheque0).cheque 1 = some cheque0
    ∧ (settled cheque0).isLate 0 0 false 0 0 = true
    ∧ (settled { cheque0 with frame := 1 }).isLate 0 1 false 0 0 = false
    ∧ (settled { cheque0 with frame := 1 } on0 [(outPage 0 4, OUT_KPR_STATUS_safe, 1)]).rd (outPage 0 4) OUT_KPR_STATUS_safe = 1
    ∧ (settled cheque0).rd (outPage 0 4) OUT_KPR_STATUS_safe ≠ 1
    ∧ (settled { cheque0 with frame := 1 }).fits 0 1 ⟨0, 8, 0, 1⟩ = false
    ∧ (settled { cheque0 with y := 8 }).fits 0 0 ⟨0, 8, 8, 9⟩ = true ∧ (settled { cheque0 with y := 8 }).isLate 0 0 false 8 0 = false := by decide +kernel

/-- The FIFO's checker of OUT0 with an inversion presented by a pattern. -/
def injected (pattern : Nat) : State :=
  set_ [(outPage 0 1, FLT_INJECT_arm, 1), (outPage 0 1, FLT_INJECT_source, 0), (fltPage 2, FLT_INJECT_PATTERN_pattern, pattern)]
theorem test_witness_FifoErrors : (State.reset.useInject (outPage 0 1) 0).2 = none
    ∧ ((injected 0).useInject (outPage 0 1) 0).2 = some 0 ∧ ((injected 1).useInject (outPage 0 1) 0).2 = some (0 + 1)
    ∧ ((injected 2).useInject (outPage 0 1) 0).2 = some (1 + 1) := by decide +kernel

theorem test_witness_KeeperPixels : State.reset.canonical = true ∧ State.reset.rd (timPage 0) OUT_TIM_STATUS_running = 0
    ∧ (outOn on0 [runs0]).canonical = true ∧ (outOn on0 [runs0]).rd (timPage 0) OUT_TIM_STATUS_running ≠ 0
    ∧ ((outOn on0 [runs0]).out 0).line < ((outOn on0 [runs0]).out 0).tim.vact ∧ 1919 < ((outOn { on0 with slot := 1919 } [runs0]).out 0).tim.hact
    ∧ ((outOn { on0 with slot := 1920 } [runs0]).out 0).tim.hact ≤ 1920 ∧ ((outOn { on0 with line := 1080 } [runs0]).out 0).tim.vact ≤ 1080 := by
  decide +kernel

/-- OUT0 with a reference source's state, at a time. -/
def refAt (r : RefSrc) (n : Nat) (l : List (Nat × Fld × Nat) := []) : State := outOn { on0 with refs := [(1, r)] } l n
theorem test_witness_References : State.reset.canonical = true
    ∧ (set_ [(gngPage, GNG_CTRL_master, 1)]).rd gngPage GNG_CTRL_master = 1 ∧ State.reset.rd gngPage GNG_CTRL_master ≠ 1
    ∧ (State.reset.refSrc 0 1).last = none ∧ State.reset.rd (timPage 0) OUT_REF_STATUS_target ≠ 1
    ∧ (refAt ⟨some 0, 7⟩ 16666666).refSrc 0 1 = ⟨some 0, 7⟩
    ∧ (let p := State.reset.refPeriod 0; (max 16666666 p - min 16666666 p) * 1000 ≤ p ∧ ¬ (max 8000000 p - min 8000000 p) * 1000 ≤ p)
    ∧ (refAt ⟨some 0, 8⟩ 8000000).refSrc 0 1 = ⟨some 0, 8⟩
    ∧ (let s := refAt ⟨some 0, 8⟩ 30000000; 2 * 0 + 3 * s.refPeriod 0 < 2 * s.now) := by decide +kernel
/-- R192: the eighth good period in a row qualifies the source. -/
theorem test_ref_qualifies : (after (.refEdge 0 1) (refAt ⟨some 0, 7⟩ 16666666)).rd (timPage 0) ⟨0x0C8, 4, 8, 8⟩ = 1 := by decide +kernel

/-! Commits, colour tables, cheques. -/

def comOk (s : State) (v : Word) : Bool := okBy32 s (comPage 1) ACC_COMMIT.off v false (s.commitRule 1)
/-- A1 active, and taking part alone in a syndicate as device 0. -/
def active1 : Nat × Fld × Nat := (accPage 1 0, ACC_STATE_state, 3)
def synParts : Nat × Fld × Nat := (comPage 1, ACC_COMMIT_SYN_devices, 1)
def syn0 : SynTarget := ⟨1, 1, 100, false⟩
def commit0 : Commit := ⟨[], [], [], 0, 0, 0, 0, false, false, false, 0, 1, none, [], [], 16000000⟩
/-- A1's commit in progress, as given, with A1's registers. -/
def committing (c : Commit) (ws : List Waiting := []) (n : Nat := 0) (l : List (Nat × Fld × Nat) := []) : State :=
  { set_ l with commits := [(1, some c)], waits := ws, now := n }
/-- A commit that would enable A1's layer 0, with no region of A1's that holds its buffer. -/
def failing : Commit := { commit0 with snap := [(fkey (layPage 0) LAY_CTRL 0, 1)], pages := [layPage 0] }
def failingState : State := (committing failing).setOwner (layPage 0) 1
theorem test_witness_Commits : (set_ [active1]).canonical = true ∧ comOk (set_ [active1]) 1 = true
    ∧ comOk (set_ [active1, synParts]) 3 = true ∧ (set_ [active1]).rd (comPage 1) ACC_COMMIT_STATUS_busy ≠ 1
    ∧ comOk (set_ [active1, (comPage 1, ACC_COMMIT_STATUS_busy, 1)]) 1 = true
    ∧ (set_ [(comPage 1, ACC_COMMIT_STATUS_held, 1)]).rd (comPage 1) ACC_COMMIT_STATUS_held ≠ 0
    ∧ State.reset.rd (comPage 1) ACC_COMMIT_STATUS_held = 0
    ∧ (committing commit0).canonical = true ∧ commit0.admitted = false ∧ (committing commit0).rebuilt 1 commit0 = true := by decide +kernel
theorem test_witness_Commits_decided : failingState.canonical = true ∧ failingState.commit 1 = some failing ∧ failingState.rebuilt 1 failing = true
    ∧ failingState.firstFail 1 failing = some (4, 768) ∧ failing.syn = none
    ∧ (committing commit0).firstFail 1 commit0 = none ∧ ({ commit0 with syn := some syn0 } : Commit).syn = some syn0
    ∧ (committing { commit0 with syn := some syn0 }).firstFail 1 { commit0 with syn := some syn0 } = none
    ∧ (let c : Commit := { commit0 with syn := some syn0 }; let s : State := { committing c with link := { State.reset.link with start := some 0 } };
      s.synOver (s.withRoutines 1 c) syn0 = false ∧ s.synOver c syn0 = false)
    ∧ (let y : SynTarget := { syn0 with devices := 3 }; let c : Commit := { commit0 with syn := some y }; let s := committing c;
      s.firstFail 1 c = none ∧ s.synOver (s.withRoutines 1 c) y = true ∧ s.synOver c y = true)
    ∧ ({ commit0 with admitted := true } : Commit).admitted = true := by decide +kernel
/-- An admitted commit due on OUT0 by 1 ms, whose wait has not ended. -/
def due0 : Commit := { commit0 with admitted := true, members := 1, targets := [(0, 1000)] }
def wait0 : Waiting := ⟨1, 0, 0, 1, [], [], 0, none, false, false⟩
theorem test_witness_Commits_late : due0.deadline.isSome = true ∧ (committing due0 [wait0]).canonical = true
    ∧ (committing due0 [wait0]).waits.any (fun w => w.acct == 1 && w.out == 0 && w.gen == due0.gen && !w.late) = true
    ∧ (match due0.deadline with | some d => decide (d ≤ (committing due0 [wait0] 10000000000).now) | none => false) = true
    ∧ (match due0.deadline with | some d => decide ((committing due0 [wait0] 0).now < d) | none => false) = true
    ∧ ({ commit0 with members := 1 } : Commit).deadline = none ∧ due0.final = false
    ∧ State.reset.synOver due0 { syn0 with devices := 3 } = true
    ∧ ({ State.reset with link := { State.reset.link with start := some 0 } } : State).synOver due0 { syn0 with devices := 3 } = false
    ∧ State.reset.partnersIn syn0 = true ∧ State.reset.partnersIn { syn0 with devices := 3 } = false := by decide +kernel
/-- R155: a refused commit applies nothing and is over. -/
theorem test_refused_commit_ends : (after (.rebuildDone 1) failingState).commit 1 = none := by decide +kernel

/-- OUT0's colour page A1's, with a DRAM region at 0 and a vault region at 512 KiB that no world holds. -/
def colState : State := ((State.reset.setRegion 1 0 0 16 0).setRegion 1 8 8 16384 0).setOwner (colPage 0) 1
def loading (l : LutLoad) (s : State := State.reset) : State := { s with loads := [(0, some l)] }
theorem test_witness_ColourTables :
    State.reset.judge 32 (colPage 0) OUT_COL_BANK.off 1 1 false (fun _ => .ok) = (.carried, (State.reset.judge 32 (colPage 0) OUT_COL_BANK.off 1 1 false fun _ => .ok).2)
    ∧ okBy32 colState (colPage 0) OUT_COL_LOAD.off 0x80000000 false (colState.loadRule 0) = true
    ∧ (loading ⟨0, 1, 0x80000, []⟩).load 0 = some ⟨0, 1, 0x80000, []⟩ ∧ State.reset.load 0 = none
    ∧ (loading ⟨0, 1, 0x80000, []⟩).ownerAcct (colPage 0) = none ∧ (loading ⟨0, 1, 0x80000, []⟩ colState).ownerAcct (colPage 0) = some 1
    ∧ ((loading ⟨0, 1, 0x80000, []⟩).readLong 32 4 1 0x80000 (lutBytes 0) (linesAfter 0x80000 (lutBytes 0) 0)).2.2 = .done
    ∧ ((loading ⟨0, 1, 0x80000, []⟩ colState).readLong 1 4 1 0x80000 (lutBytes 0) (linesAfter 0x80000 (lutBytes 0) 0)).2.2 = .failed := by decide +kernel

/-- Press 0 on, with cheque 1 waiting at it. -/
def pullable : State :=
  { set_ [(pressPage 0, MNT_P_ROLE_role, 1), (pressPage 0, PAGE_STATUS_state, 3)] with presses := [(0, [1])], cheques := [(1, some cheque0)] }
/-- Mint 0 loading the routine of cheque 1. -/
def loadingMint (c : Cheque) : State := minted { running 0 with phase := .loading, resident := none } c
theorem test_witness_ChequesAndMints : pullable.canonical = true ∧ pullable.mayPull 0 = true ∧ pullable.press 0 = [1]
    ∧ pullable.cheque 1 = some cheque0 ∧ State.reset.mayPull 0 = false
    ∧ (loadingMint cheque0).canonical = true ∧ ((loadingMint cheque0).mint 0).phase = .loading
    ∧ ((loadingMint cheque0).mint 0).cheque = some 1 ∧ (State.reset.mint 0).phase ≠ .loading
    ∧ (match ((loadingMint { cheque0 with routine := ⟨2 ^ 40, 0, 0, 0⟩ }).readMem 32 3 1 (imageAt (2 ^ 40)) 16).2 with | .ok _ => true | _ => false) = true
    ∧ (match ((loadingMint effect0).readMem 1 3 1 (imageAt 0) 16).2 with | .error _ => true | _ => false) = true := by decide +kernel
def retired0 : State := set_ [(branchPage 0, mintBit 0, 1)]
def stuck0 (c : Cheque) : State := at_ 100000 (minted (running 0) c)
theorem test_witness_ChequesAndMints_retire :
    okBy32 State.reset (branchPage 0) MNT_B_RETIRE.off (State.reset.fieldWrite (branchPage 0) (mintBit 0) 0 1) = true
    ∧ okBy32 retired0 (branchPage 0) MNT_B_RETIRE.off (retired0.fieldWrite (branchPage 0) (mintBit 0) 0 0) = true
    ∧ (stuck0 cheque0).canonical = true ∧ (stuck0 cheque0).isStuck 0 = true ∧ (at_ 99999 (mintAt 0)).isStuck 0 = false
    ∧ (stuck0 { cheque0 with again := true }).isStuck 0 = true ∧ cheque0.again = false
    ∧ (set_ [(pressPage 0, MNT_P_ROLE_clearing, 1)]).rd (pressPage 0) MNT_P_ROLE_clearing ≠ 0
    ∧ State.reset.rd (pressPage 0) MNT_P_ROLE_clearing = 0 := by decide +kernel
/-- R146: a stuck mint's cheque returns to the front of its press's queue the first time. -/
theorem test_stuck_re_presents : (after (.mintStuck 0) (stuck0 cheque0)).press 0 = [1] := by decide +kernel

/-! Links, capture, the clearing link. -/

def lnkOk (s : State) (f : Fld) (x : Nat) : Bool := okBy32 s (lnkPage 0) OUT_LNK_CTRL.off (s.fieldWrite (lnkPage 0) f 0 x) false (s.lnkRule 32 0)
/-- OUT0's link in a state, with the partner's capabilities. -/
def linked (st : Nat) (p : PortS := PortS.zero) (l : List (Nat × Fld × Nat) := []) : State :=
  { set_ ((lnkPage 0, OUT_LNK_STATUS_state, st) :: l) with ports := if p = PortS.zero then [] else [(0, p)] }
def portWith (c : SinkCaps) (replug : Bool := false) : PortS := { PortS.zero with caps := some c, replug := replug }
theorem test_witness_OutputLinks : lnkOk State.reset OUT_LNK_CTRL_port_en 1 = true
    ∧ lnkOk (set_ [(lnkPage 0, OUT_LNK_CTRL_port_en, 1)]) OUT_LNK_CTRL_port_en 0 = true ∧ lnkOk State.reset OUT_LNK_CTRL_retrain 1 = true
    ∧ State.reset.present 0 = false ∧ State.reset.aphy 0 = false ∧ (set_ [(lnkPage 0, OUT_LNK_STATUS_present, 1)]).present 0 = true
    ∧ (set_ [(lnkPage 4, OUT_LNK_CTRL_proto, 2), (lnkPage 4, OUT_LNK_STATUS_present, 1)]).aphy 4 = true
    ∧ ((linked 4 { PortS.zero with hpd := true }).port 0).hpd = true ∧ (State.reset.port 0).hpd = false
    ∧ (linked 4 PortS.zero [(lnkPage 0, OUT_LNK_STATUS_present, 1)]).heedsIrq 0 = true ∧ (linked 6).heedsIrq 0 = false
    ∧ (2000000 : Nat) < 2000001 ∧ (250000 : Nat) ≤ 250000 ∧ (2000000 : Nat) ≤ 2000000 := by decide +kernel
theorem test_witness_OutputLinks_training : (linked 1).canonical = true ∧ (linked 1).linkState 0 = 1
    ∧ (List.replicate 1024 (0 : Byte)).length = 1024 ∧ (linked 2 (portWith caps0)).linkState 0 = 2
    ∧ ((linked 2 (portWith caps0)).port 0).waiting = false ∧ ((linked 2 (portWith caps0)).port 0).caps = some caps0
    ∧ (400 : Nat) < 401 ∧ ¬ (State.reset.rd (lnkPage 0) OUT_LINK_LIMITS_cable_max < 400)
    ∧ caps0.lanes ≥ State.reset.rd (lnkPage 0) OUT_LINK_LIMITS_min_lanes
    ∧ 1 < (set_ [(lnkPage 0, OUT_LINK_LIMITS_min_lanes, 2)]).rd (lnkPage 0) OUT_LINK_LIMITS_min_lanes
    ∧ ((linked 2 { portWith caps0 with changed := true }).port 0).changed = true ∧ ((linked 2 (portWith caps0)).port 0).changed = false
    ∧ (linked 2 (portWith caps0)).linkRate 0 caps0 = some 0
    ∧ (linked 2).linkRate 0 { caps0 with lanes := 1, maxRate := 0 } = none
    ∧ ((linked 2 (portWith caps0 true)).port 0).replug = true ∧ (linked 3).linkState 0 = 3
    ∧ ((linked 3 { portWith caps0 with attempts := 1 }).port 0).attempts < 2 ∧ 2 ≤ ((linked 3 { portWith caps0 with attempts := 2 }).port 0).attempts := by
  decide +kernel
/-- R201: 401 units of 10 cm is past the longest cable, cause 3, state 5. -/
theorem test_cable_too_long : (after (.cableMeasureDone 0 (some 401)) (linked 2 (portWith caps0))).linkState 0 = 5 := by decide +kernel
theorem test_third_training_fails : (after (.trainingDone 0 false) (linked 3 { portWith caps0 with attempts := 2 })).linkState 0 = 6 := by decide +kernel

/-- Capture port 0 A1's, with a ring of two slots in A1's vault region; enabled, with its hidden state, where given. -/
def capState : State := ((set_ [(capPage 0, CAP_RING_slots, 2), (capPage 0, CAP_STRIDE_stride, 120), (capPage 0, CAP_RING_base, 0x2000)]).setRegion 1 8 8 16384 0).setOwner (capPage 0) 1
def capturing (v : CapS) : State := { set_ [(capPage 0, CAP_CTRL_en, 1)] capState with caps := [(0, v)] }
def open0 : CapS := { CapS.zero with open_ := some 0 }
theorem test_witness_Captures : okBy32 capState (capPage 0) CAP_CTRL.off (capState.fieldWrite (capPage 0) CAP_CTRL_en 0 1) false (capState.capRule 0 CAP_CTRL.off) = true
    ∧ (capturing open0).rd (capPage 0) CAP_CTRL_en ≠ 0
    ∧ ((capturing { CapS.zero with readers := [(0, 0), (1, 1)] }).capComplete 0).capSlot 0 = none
    ∧ ((capturing { CapS.zero with last := some 1 }).capSlot 0) = some 0
    ∧ ((capturing open0).cap 0).open_ = some 0 ∧ (capturing open0).rd (capPage 0) CAP_CTRL_vc = 0
    ∧ capType ((capturing open0).rd (capPage 0) CAP_CTRL_dt) = 0x24
    ∧ (capturing open0).capHeight 0 = 1080 ∧ 1079 < (capturing { open0 with next := 1079 }).capHeight 0
    ∧ (capturing { open0 with next := 1080 }).capHeight 0 ≤ 1080 ∧ (capturing open0).rd (capPage 0) FLT_INJECT_arm = 0
    ∧ ((capturing { CapS.zero with mirror := some 0 }).cap 0).mirror = some 0 ∧ ((capturing open0).cap 0).mirror = none
    ∧ (set_ dramUp (capturing { CapS.zero with mirror := some 0 })).dramReady = true
    ∧ (let t := (set_ dramUp (capturing { CapS.zero with mirror := some 0, copied := 1080 })).dropHeld (.mirror 0);
      (t.cap 0).mirror = some 0 ∧ (t.cap 0).buffer = [] ∧ t.capHeight 0 ≤ (t.cap 0).copied)
    ∧ (capturing open0).dramReady = false := by decide +kernel
/-- R209: a line whose CRC fails raises source 0 of the port. -/
theorem test_cap_line_crc : (after (.capLine 0 0 0x24 .clean false []) (capturing open0)).sticky (capPage 0) = 1 := by decide +kernel

/-- The link on; device 0 where master, with a sync frame heard. -/
def linkOn (l : List (Nat × Fld × Nat) := []) (x : LinkS := State.reset.link) (n : Nat := 0) : State :=
  { set_ ((gngPage, GNG_CTRL_en, 1) :: l) with link := x, now := n }
theorem test_witness_ClearingLink : (linkOn).rd gngPage GNG_CTRL_en ≠ 0
    ∧ (let t := (linkOn [(gngPage, GNG_CTRL_master, 1)]).clMissed; t.maySend t.syncNext = true)
    ∧ (let t := (linkOn).clMissed; t.maySend t.syncNext = false)
    ∧ ((linkOn).rd gngPage GNG_STATUS_excluded).testBit 1 = false
    ∧ ((linkOn [(gngPage, GNG_STATUS_excluded, 2)]).rd gngPage GNG_STATUS_excluded).testBit 1 = true
    ∧ (∀ x ∈ [(-1, 10), (0, 25001), (19401, 20000)], (x.1 < (0 : Int) ∨ (25000 : Int) < x.2 ∨ 19400 < x.1))
    ∧ (∀ x ∈ [(2000, 6000), (15860, 19860)], ¬ (x.1 < (0 : Int) ∨ (25000 : Int) < x.2 ∨ 19400 < x.1) ∧ 2000 ≤ x.1 ∧ x.1 ≤ (15860 : Int))
    ∧ (∀ x ∈ [(1999, 5000), (15861, 20000), (19400, 25000)], ¬ (x.1 < (0 : Int) ∨ (25000 : Int) < x.2 ∨ 19400 < x.1) ∧ (x.1 < 2000 ∨ (15860 : Int) < x.1))
    ∧ clParse (clChars frame0) = some { frame0 with tokens := List.replicate 4 ⟨0, 0, false, 0⟩ } ∧ clParse [] = none ∧ frame0.rejoin = false
    ∧ (linkOn).link.lastSync = none ∧ (linkOn).link.since = none ∧ (linkOn [] { State.reset.link with lastSync := some 5 } 1000005).now = 5 + 1000000
    ∧ NatTbl.at_ (linkOn [] State.reset.link 1000000).link.accepted 2 + 1000000 ≤ (linkOn [] State.reset.link 1000000).now
    ∧ (linkOn [] State.reset.link 999999).now < NatTbl.at_ (linkOn).link.accepted 2 + 1000000 := by decide +kernel
/-- R214: three start characters, 48 bytes of body, 4 of CRC and an end character; a changed body byte spoils the frame. -/
theorem test_frame_characters : (clChars frame0).length = 56 ∧ clParse ((clChars frame0).set 10 (.data 1)) = none := by decide +kernel

/-! The DRAM and the vault. -/

theorem test_witness_DramController :
    okBy32 State.reset (memPage 0) MEM_CTRL.off (State.reset.fieldWrite (memPage 0) MEM_CTRL_init 0 1) false State.reset.memCtrlRule = true
    ∧ (set_ [(memPage 0, MEM_STATUS_state, 1)]).rd (memPage 0) MEM_STATUS_state = 1 ∧ State.reset.rd (memPage 0) MEM_STATUS_state ≠ 1
    ∧ (set_ dramUp).dramReady = true ∧ (set_ dramUp).rankHere 0 = true ∧ (set_ dramUp).refreshes 0 = true ∧ (set_ dramUp).refreshes 1 = false
    ∧ (set_ dramUp).anyPanic = false ∧ (set_ ((memPage 18, ⟨MEM_RT_panic.off, 4, MEM_RT_panic.hi, MEM_RT_panic.lo⟩, 1) :: dramUp)).anyPanic = true
    ∧ (set_ dramUp).rd (memPage 0) MEM_CTRL_strict ≠ 1 ∧ (set_ ((chPage 0, creditField 0, 7) :: dramUp)).rd (chPage 0) (creditField 0) < 8
    ∧ 8 ≤ (set_ ((chPage 0, creditField 0, 8) :: dramUp)).rd (chPage 0) (creditField 0)
    ∧ (set_ dramUp).rd (chPage 0) (creditField 0) = 0 := by decide +kernel
/-- The DRAM up, in a power state, at a time, with what the controller holds. -/
def dram (power : Nat) (n : Nat := 0) (m : MemS := State.reset.mem) (l : List (Nat × Fld × Nat) := []) : State :=
  { set_ (l ++ (memPage 0, MEM_STATUS_power, power) :: dramUp) with mem := m, now := n }
def asks : DramWait := ⟨32, none, true, false, 0, .read 1, [0], false, [], 0, 0⟩
theorem test_witness_DramController_power :
    (let s := dram 0 100 State.reset.mem [(chPage 0, MEM_CH_PD_IDLE_idle, 10)];
      s.refreshes 0 = true ∧ s.rd (chPage 0) MEM_CH_PD_IDLE_idle ≠ 0 ∧ s.minTolerance ≠ 0 ∧ s.mem.down = []
        ∧ NatTbl.at_ s.mem.lastReq 0 + s.rd (chPage 0) MEM_CH_PD_IDLE_idle * 10 ≤ s.now)
    ∧ (dram 0 0 State.reset.mem [(chPage 0, MEM_CH_PD_IDLE_idle, 0)]).rd (chPage 0) MEM_CH_PD_IDLE_idle = 0
    ∧ (let s := dram 0 1000; s.dramReady = true ∧ s.dramPower = 0 ∧ s.rd (memPage 0) MEM_PWR_sr_en ≠ 0 ∧ s.rd (memPage 0) MEM_CTRL_strict ≠ 1
        ∧ s.srLimit < s.minTolerance ∧ s.mem.lastNonRt + 1000 ≤ s.now ∧ s.mem.waiting = [] ∧ s.mem.held = [])
    ∧ (dram 0 0 State.reset.mem [(memPage 0, MEM_LT_MIN_tolerance, 30)]).minTolerance ≤ (dram 0).srLimit
    ∧ (dram 1 0 { State.reset.mem with waiting := [asks] }).dramPower = 1 ∧ (dram 0).dramPower ≠ 1
    ∧ (let s := dram 1 1000000000 { State.reset.mem with unlimitedAt := some 0, lastDeepExit := some 0 };
      s.mem.unlimitedAt = some 0 ∧ s.dramPower = 1 ∧ s.rd (memPage 0) MEM_PWR_ds_en ≠ 0 ∧ 0 + 1000 * s.rd (memPage 0) MEM_PWR_ds_idle ≤ s.now
        ∧ s.mem.lastNonRt + 1000 * s.rd (memPage 0) MEM_PWR_ds_idle ≤ s.now ∧ s.mem.lastDeepExit = some 0
        ∧ 0 + 10000000 * s.rd (memPage 0) MEM_PWR_HOLD_holdoff ≤ s.now)
    ∧ State.reset.mem.unlimitedAt = some 0 ∧ (dram 2 0 { State.reset.mem with waiting := [asks] }).dramPower = 2
    ∧ (dram 3).dramPower = 3 ∧ (dram 0).dramPower ≠ 2 ∧ (dram 0).dramPower ≠ 3
    ∧ (let s := dram 0 0 { State.reset.mem with window := [(0, 63)] } [(memPage 0, MEM_CTRL_strict, 1)];
      s.rd (memPage 0) MEM_CTRL_strict ≠ 0 ∧ s.dramReady = true ∧ NatTbl.at_ s.mem.window 0 = 63)
    ∧ NatTbl.at_ (dram 0 0 { State.reset.mem with window := [(0, 64)] }).mem.window 0 = 64 := by decide +kernel

theorem test_witness_DramAccesses : (dram 0).canonical = true ∧ (1 : Fin 8).val ≠ 0 ∧ heard.hostHeard = true
    ∧ (dram 0).memCheck 32 1 0 0 1 false = none ∧ (dram 0).memCheck 32 1 0 ((dram 0).dramSize - 1) 1 true = none
    ∧ (dram 0).dramPower = 0 ∧ (dram 0).rd (memPage 0) MEM_CTRL_strict ≠ 1 ∧ (dram 0).mem.waiting = [] ∧ (dram 1).dramPower ≠ 0
    ∧ (dram 0).eccRegion 0 = none ∧ (heard.hostHeard = true ∧ State.reset.hostHeard = false)
    ∧ (dram 0).mem.wq = [] ∧ (∀ i ∈ List.range 8, (dram 0).rd (memPage 17) MEM_ECC_SIZE_size i = 0)
    ∧ (dram 0).memCheck 32 1 0 (dram 0).dramSize 1 false = some .capacity ∧ State.reset.memCheck 32 1 0 0 1 true = some .failed
    ∧ (dram 0).memCheck 1 1 0 0 1 false = some .firewall := by decide +kernel

theorem test_witness_VaultAccesses : State.reset.canonical = true ∧ (∀ g ∈ List.range 16, State.reset.rd (vltPage (1 + g)) FLT_INJECT_arm = 0)
    ∧ State.reset.memCheck 32 1 1 0 1 false = none ∧ State.reset.memCheck 32 1 1 (vaultEnd - 1) 1 true = none
    ∧ State.reset.memCheck 32 1 1 vaultEnd 1 true = some .capacity ∧ State.reset.bookOk 32 0 1 = true
    ∧ vaultLedger - 1 + 1 ≤ vaultLedger ∧ vaultPool ≤ vaultEnd - 1
    ∧ State.reset.memCheck 5 5 1 (vaultSystem + 0x1000) 1 true = none ∧ State.reset.bookOk 5 (vaultSystem + 0x1000) 1 = false
    ∧ (set_ [(vltPage 0, VLT_CTRL_scrub_en, 1)]).rd (vltPage 0) VLT_CTRL_scrub_en ≠ 0
    ∧ (set_ [(vltPage 0, VLT_CTRL_scrub_en, 0)]).rd (vltPage 0) VLT_CTRL_scrub_en = 0 := by decide +kernel
/-! Accounts, functions, queues, copy engines and night safes. -/

/-- A request of type `t` about account `a`: kind `k` and its words. -/
def request (t a k : Nat) (w : List Word) : Msg := ([BitVec.ofNat 32 t, 0, BitVec.ofNat 32 (a + 256 * k)] ++ w ++ List.replicate 13 0).take 16
/-- A channel with one message, the oldest, in its first slot. -/
def mail (k : Nat) (m : Msg) (s : State) : State :=
  { s with safes := [(k, (0, 1))],
           vault := (m.flatMap fun w => leBytes 4 w.toNat).zipIdx.map fun e => (safeSlot k 0 + e.2, e.1) }
/-- The Custodian running, the manager released, A1 in a state with what it holds. -/
def accts (st : Nat) (a : AcctS := AcctS.zero) (q : List Msg := []) : State :=
  q.foldl (fun (t : State) m => mail (nsToCus 0) m t) { set_ [(accPage 1 0, ACC_STATE_state, st)] with
    boot := { State.reset.boot with awake := true, cusRuns := true, released := true }
    accts := if a = AcctS.zero then [] else [(1, a)] }
def held1 : AcctS := { AcctS.zero with queues := 1, credit := 1, share := 1 }
theorem test_witness_CustodianRequests : (accts 0).cusUp = true ∧ (accts 0).boot.released = true
    ∧ (accts 0 AcctS.zero [request 1 1 0 []]).safe (nsToCus 0) = [request 1 1 0 []] ∧ State.reset.cusUp = false
    ∧ (∀ t ∈ [1, 2, 3, 4, 5, 6, 7, 8, 0x20, 0x21], msgType (request t 1 0 []) = t)
    ∧ (accts 0).requestCode 0 (request 1 1 0 []) = 0 ∧ (accts 1).requestCode 0 (request 2 1 4 [1]) = 0
    ∧ (accts 2 held1).requestCode 0 (request 3 1 4 [1]) = 0 ∧ (accts 2).requestCode 0 (request 4 1 0 []) = 0
    ∧ (accts 3).requestCode 0 (request 5 1 0 []) = 0 ∧ (accts 3).requestCode 0 (request 6 1 0 []) = 0
    ∧ (accts 3).requestCode 0 (request 7 1 0 []) = 0 ∧ (accts 0).requestCode 0 (request 8 17 0 []) = 0
    ∧ (accts 1).requestCode 0 (request 0x20 1 0 []) = 0 ∧ ((accts 1).setRegion 1 0 0 16 0).requestCode 0 (request 0x21 1 0 [0]) = 0
    ∧ (accts 1).requestCode 0 (request 1 1 0 []) = 2
    ∧ ({ accts 0 with led := full.led } : State).requestCode 0 (request 1 1 0 []) = 10 ∧ msgType (request 4 1 0 []) ∈ knownTypes
    ∧ changesRegions (request 1 1 0 []) = false ∧ changesRegions (request 0x21 1 0 [0]) = true ∧ msgType (request 9 1 0 []) ∉ knownTypes := by
  decide +kernel
/-- R256, R257: CREATE takes an account from FREE to CREATED, state 1. -/
theorem test_create : (after (.create 0) (accts 0 AcctS.zero [request 1 1 0 []])).astate 1 = 1 := by decide +kernel
/-- R262: the message leaves the channel. -/
theorem test_request_taken : (after (.quiesce 0) (accts 3 AcctS.zero [request 5 1 0 []])).safe (nsToCus 0) = [] := by decide +kernel

/-- A1 in RESET from a cause. -/
def resetting (cause : Nat) (before : Nat) : State := (accts 5 { AcctS.zero with before := before }).wr (accPage 1 0) ACC_STATE_reset_cause cause
/-- A16's pages and A0's owned by their accounts. -/
def owned (l : List (Nat × Nat)) (s : State) : State := l.foldl (fun (t : State) e => t.setOwner e.1 e.2) s
theorem test_witness_AccountsAndFunctions : (accts 4).astate 1 = 4 ∧ (accts 4).jobsOf 1 = false
    ∧ (accts 4).reg (fkey (accPage 1 1) ACC_COMMIT_STATUS 0) &&& 3 = 0 ∧ (accts 3).astate 1 ≠ 4
    ∧ (resetting 1 3).astate 1 = 5 ∧ (resetting 1 3).rd (accPage 1 0) ACC_STATE_reset_cause = 1 ∧ ((resetting 1 3).acct 1).before = 3
    ∧ (resetting 4 3).rd (accPage 1 0) ACC_STATE_reset_cause = 4 ∧ (resetting 2 3).rd (accPage 1 0) ACC_STATE_reset_cause = 2
    ∧ (accts 3).trustedAcct 1 = false ∧ (set_ [(cusPage 0, CUS_TRUSTED, 2)]).trustedAcct 1 = true
    ∧ alive.boot.awake = true ∧ 0 ∉ alive.boot.noClock ∧ State.reset.boot.awake = false
    ∧ (State.reset.acct 1).power = .absent ∧ ((accts 3 { AcctS.zero with power := .d0 }).acct 1).power ≠ .absent
    ∧ okBy32 State.reset (accPage 1 0) ACC_PB_DOORBELL.off 1 true = true
    ∧ (let s := owned [(accPage 0 0, 0)] (accts 0); s.manages 0 1 = true
      ∧ s.writeOk 0 (accPage 0 0) ACC_PB_RING.off 1 true (fun v => if s.manages 0 (ACC_PB_RING_account.get v) && !s.trustedAcct (ACC_PB_RING_account.get v) then .ok else .range) = true) := by
  decide +kernel
/-- R251: speed code 6 is not one the port supports. -/
theorem test_link_speed_unsupported : (after (.pcieLinkUp 0 6 8) alive).rd (hstPage 0) HST_PORT_STATUS_link_up = 0 := by decide +kernel

/-- A1 active with queue 0 of a type, enabled or not, its ring in A1's DRAM region. -/
def qState (type en : Nat) (q : QueueS := QueueS.zero) (n : Nat := 0) : State :=
  { set_ [(accPage 1 0, ACC_STATE_state, 3), (qPage 1 0, ACC_Q_CTRL_type, type), (qPage 1 0, ACC_Q_CTRL_log2size, 4), (qPage 1 0, ACC_Q_CTRL_en, en),
      (qPage 1 0, ACC_Q_INT_irq_en, 1), (qPage 1 0, ACC_Q_INT_time_us, 5)] (State.reset.setRegion 1 0 0 16 0) with
    accts := [(1, { AcctS.zero with queues := 4 })], queues := if q = QueueS.zero then [] else [(256, q)], now := n }
def qOk (s : State) (x : Nat) : Bool :=
  okBy32 s (qPage 1 0) ACC_Q_CTRL.off (s.fieldWrite (qPage 1 0) ACC_Q_CTRL_en 0 x) false (s.queueRule 1 0 ACC_Q_CTRL.off)
def dbOk (s : State) (v : Word) : Bool := okBy32 s (accPage 1 3) ACC_Q_DB.off v true fun v => s.doorbellRule 1 0 v.toNat
theorem test_witness_Queues : qOk (qState 1 0) 1 = true ∧ qOk (qState 1 1) 0 = true ∧ (qState 1 0).qOn 1 0 = false ∧ (qState 1 1).qOn 1 0 = true
    ∧ dbOk (qState 0 1) 1 = true ∧ dbOk (qState 0 1) 16 = true ∧ dbOk (qState 0 1) 17 = false ∧ dbOk ((qState 1 1).setTail 1 0 3) 3 = true
    ∧ hostToDevice ((qState 0 1).qType 1 0) = true ∧ hostToDevice ((qState 1 1).qType 1 0) = false
    ∧ ((qState 1 1 { QueueS.zero with first := some 0 } 5000).queue 256).first = some 0 ∧ (qState 1 1).qctl 1 0 ACC_Q_INT_irq_en ≠ 0
    ∧ 0 + (qState 1 1).qctl 1 0 ACC_Q_INT_time_us * 1000 ≤ (qState 1 1 { QueueS.zero with first := some 0 } 5000).now
    ∧ (qState 1 1 { QueueS.zero with first := some 0 } 4999).now < 0 + (qState 1 1).qctl 1 0 ACC_Q_INT_time_us * 1000
    ∧ ((qState 1 1).queue 256).first = none := by decide +kernel

/-- A job of A1's submit queue 0, from DRAM address 0 to 0x10000. -/
def job (op written : Nat) : Job := ⟨1, 0, 0, op, 0, 0, 0, 0x10000, 0x20000, 1, 0, 0, 0, written, none, 0, 0, 0⟩
def copying (j : Job) (l : List (Nat × Fld × Nat) := []) : State := { set_ l (qState 0 1) with jobs := [j] }
def busyEngine : State := { qState 0 1 with engines := [(0, { Engine.zero with job := some (job 1 0) })] }
def offered (s : State) : Option Job := (s.offerAccts 0 (s.engineAccts 0)).2
/-- Engine 0 at byte `p` of a chunk that ends at `u`. -/
def midChunk (p u : Nat) (l : List (Nat × Fld × Nat) := []) : State :=
  { copying (job 1 0) l with engines := [(0, { Engine.zero with job := some (job 1 0), pos := p, upto := u })] }
theorem test_witness_CopyEnginesAndNightSafes :
    (∀ op ∈ [1, 2, 3, 4], ((copying (job op 0)).engine 0).job = none ∧ offered (copying (job op 0)) = some (job op 0)
      ∧ ((copying (job op 0)).offerAccts 0 ((copying (job op 0)).engineAccts 0)).1.pieceReady (job op 0) 0 64 = true)
    ∧ (let s := copying (job 1 0) dramDown; (s.offerAccts 0 (s.engineAccts 0)).1.pieceReady (job 1 0) 0 64 = false)
    ∧ (busyEngine.engine 0).job ≠ none ∧ (State.reset.engine 0).job = none
    ∧ (let t := (midChunk 0 64 dramDown).runChunk 0 65537; (t.engine 0).pos < (t.engine 0).upto)
    ∧ (let t := (midChunk 64 64).runChunk 0 65537; (t.engine 0).upto ≤ (t.engine 0).pos)
    ∧ (((midChunk 0 64 dramDown).engineGo 0).engine 0).job ≠ none ∧ (((midChunk 64 64).engineGo 0).engine 0).job = none
    ∧ (midChunk 0 64).engineJob 0 = some (job 1 0)
    ∧ (job 1 0x1FFFF).written ≤ (job 1 0).total ∧ (set_ [(cusPage 0, CUS_ISOLATION_strict, 1)]).strict = true
    ∧ ((set_ [(cusPage 0, CUS_ISOLATION_strict, 1)]).engine 0).turnAt + (set_ []).rd (hstPage 2) HST_CE_TURN_us * 1000 ≤ 1000000000
    ∧ State.reset.strict = false := by decide +kernel
theorem test_witness_CopyEnginesAndNightSafes_messages :
    (let s := owned [(accPage 0 7, 0)] (accts 0);
      s.writeOk 0 (accPage 0 7) NS_TX_SEND.off 0 true (fun v => if NS_TX_SEND_dest.get v = 1 ∧ 0 ≠ 0 ∧ 0 ≠ 16 then .range else .ok) = true
      ∧ s.writeOk 0 (accPage 0 7) NS_TX_SEND.off 1 true (fun v => if NS_TX_SEND_dest.get v = 1 ∧ 0 ≠ 0 ∧ 0 ≠ 16 then .range else .ok) = true
      ∧ s.rxChannel 0 = some (nsFromCus 0)
      ∧ s.writeOk 0 (accPage 0 7) NS_RX_TAKE.off 0x80000000 true (fun v => if NS_RX_TAKE_take.get v = 1 ∧ (s.rxQueue 0).isEmpty then .range else .ok) = true)
    ∧ (let s := owned [(accPage 0 7, 0)] (mail (nsFromCus 0) (request 1 1 0 []) (accts 0));
      s.writeOk 0 (accPage 0 7) NS_RX_TAKE.off 1 true (fun v => if NS_RX_TAKE_take.get v = 1 ∧ (s.rxQueue 0).isEmpty then .range else .ok) = true)
    ∧ ((accts 0).safe (nsToCus 0)).length < 16 ∧ (accts 0).cusUp = true ∧ State.reset.cusUp = false := by decide +kernel
/-- R277: in strict mode the turn goes to the accounts of the other half once HST_CE_TURN has passed. -/
theorem test_turn : ((after (.ceTurn 0) { set_ [(cusPage 0, CUS_ISOLATION_strict, 1)] with now := 1000000000 }).engine 0).upper = true := by
  decide +kernel

/-! The Custodian, the ledger, start-up, supplies and time. -/

/-- The device out of reset with its Custodian not yet running, or as given. -/
def booting (b : StartS := { State.reset.boot with awake := true }) (l : List (Nat × Fld × Nat) := []) : State := { set_ l with boot := b }
def hot : BootInput := { boot0 with temps := List.replicate 32 500 }
/-- What the lifecycle step of a first boot leaves, and whether it has power still (R300). -/
def measured (b : BootInput) : State × Bool :=
  let c0 := cusPage 0
  let t := (((booting).wr c0 CUS_BOOT_STATUS_slot 0).wr c0 CUS_FW_VERSION_version 1).wr c0 CUS_FW_VERSION_rollback 0
  let t : State := { t with boot := { t.boot with cusRuns := true } }
  ((t.readOtp b.otpBad).bootLifecycle b.record b.cut)
def staged (b : BootInput) : State := ((measured b).1.setStage 3).measure b
/-- Power that fails after two fuses of a transition (R300). -/
def cut0 : BootInput := { boot0 with record := some ⟨2, true, true⟩, cut := some 2 }
theorem test_witness_CustodianCommands : (booting).canonical = true ∧ boot0.wf = true ∧ (booting).boot.awake = true ∧ (booting).boot.failed = false
    ∧ (booting).boot.halted = false ∧ (booting).boot.cusRuns = false ∧ (booting).imageCode (some image0) = 0 ∧ boot0.slot0 = some image0
    ∧ (booting).imageCode none ≠ 0 ∧ (booting).imageCode (some { image0 with signed := false }) = 2
    ∧ (booting { State.reset.boot with awake := true, fuses := [(4, (3, 3))] }).imageCode (some image0) ≠ 0
    ∧ ({ boot0 with crystalOk := false } : BootInput).crystalOk = false ∧ boot0.crystalOk = true
    ∧ (measured boot0).2 = true ∧ (measured hot).2 = true ∧ (measured cut0).2 = false ∧ cut0.wf = true ∧ hot.wf = true
    ∧ (staged hot).hotterThan ((staged hot).rd (glbPage 3) GLB_SENS_LIMITS_t_high) = true
    ∧ (staged boot0).hotterThan ((staged boot0).rd (glbPage 3) GLB_SENS_LIMITS_t_high) = false := by decide +kernel
/-- R289: an accepted image of an older version than the rollback counter is cause 3. -/
theorem test_rollback : (after (.custodianBoot boot0) (booting { State.reset.boot with awake := true, rollback := 2 })).rd (cusPage 0)
    CUS_BOOT_STATUS_result = 3 := by decide +kernel
def atStage (n : Nat) : State := booting { State.reset.boot with awake := true, cusRuns := true } [(cusPage 0, CUS_BOOT_STATUS_stage, n)]
theorem test_witness_CustodianCommands_later : (atStage 3).boot.cusRuns = true ∧ (atStage 3).stage = 3 ∧ (atStage 7).stage ≠ 3
    ∧ ((atStage 3).measure hot).hotterThan ((((atStage 3).measure hot).rd (glbPage 3) GLB_SENS_LIMITS_t_high : Int) - 10) = true
    ∧ ((atStage 3).measure boot0).hotterThan ((((atStage 3).measure boot0).rd (glbPage 3) GLB_SENS_LIMITS_t_high : Int) - 10) = false
    ∧ State.reset.boot.awake = false ∧ (atStage 7).cusUp = true ∧ State.reset.cusUp = false ∧ (atStage 7).boot.released = false
    ∧ (set_ dramUp (atStage 7)).rd (memPage 0) MEM_STATUS_state = 2 ∧ (set_ dramUp (atStage 7)).stage = 7 ∧ (set_ dramUp (atStage 7)).cusUp = true := by
  decide +kernel

/-- The ledger started, with a ring of export at 0 in A0's DRAM. -/
def ledgered (occ : Nat := 0) (l : List (Nat × Fld × Nat) := []) : State :=
  { set_ ((ldg0, LDG_EXP_CTRL_log2size, 10) :: l) (State.reset.setRegion 0 0 0 64 0) with
    led := { State.reset.led with started := true, occ := occ, seq := occ }, boot := { State.reset.boot with awake := true, cusRuns := true } }
theorem test_witness_LedgerWriting : (ledgered).canonical = true ∧ (ledgered).led.started = true
    ∧ okBy32 (ledgered) ldg0 LDG_EXP_CTRL.off ((ledgered).fieldWrite ldg0 LDG_EXP_CTRL_en 0 1) false ((ledgered).expRule LDG_EXP_CTRL.off) = true
    ∧ okBy32 State.reset ldg0 LDG_EXP_HEAD.off 1 true (State.reset.expRule LDG_EXP_HEAD.off) = true
    ∧ (ledgered 1 [(ldg0, LDG_EXP_CTRL_en, 1)]).rd ldg0 LDG_EXP_CTRL_en ≠ 0 ∧ (ledgered 1).led.occ ≠ 0
    ∧ idxDiff ((ledgered 1).reg (fkey ldg0 LDG_EXP_TAIL 0)).toNat ((ledgered 1).reg (fkey ldg0 LDG_EXP_HEAD 0)).toNat ≠ (ledgered 1).expSize
    ∧ idxDiff ((ledgered 1 [(ldg0, LDG_EXP_TAIL, 1024)]).reg (fkey ldg0 LDG_EXP_TAIL 0)).toNat 0 = (ledgered 1).expSize
    ∧ (ledgered).dramReady = false ∧ (ledgered 1 dramDown).dramReady = true ∧ (ledgered 1 dramDown).unitMay 0 (ledgered 1 dramDown).expBase = false
    ∧ (ledgered).rd ldg0 LDG_EXP_CTRL_en = 0 ∧ (ledgered).cusUp = true ∧ (ledgered).boot.ledgerKeyGone = false
    ∧ (ledgered 4096).spanEnd - (ledgered 4096).led.sealFrom < idxDiff (ledgered 4096).led.seq (ledgered 4096).led.sealFrom
    ∧ idxDiff (ledgered 4095).led.seq (ledgered 4095).led.sealFrom ≤ (ledgered 4095).spanEnd - (ledgered 4095).led.sealFrom := by decide +kernel
/-- R303: the sequence wraps to 0 after 2^32 - 1. -/
theorem test_sequence_wraps :
    ({ ledgered with led := { State.reset.led with started := true, seq := 2 ^ 32 - 1 } } : State).append ⟨32, 5, 0, 0, 0, 0, 1, 0⟩ |>.1.led.seq = 0 := by
  decide +kernel

def cooked0 (t : Int) : State :=
  { State.reset with boot := { State.reset.boot with cooked := true, temps := (List.range 32).map fun i => (i, t) } }
theorem test_witness_StartAndReset : State.reset.boot.awake = false ∧ State.reset.boot.cooked = false ∧ alive.boot.awake = true
    ∧ State.reset.canonical = true ∧ backupKey (fkey (timPage 0) OUT_TIM_CTRL 0) = false ∧ fkey (timPage 0) OUT_TIM_CTRL 0 ≠ fkey (cusPage 0) CUS_LIFECYCLE 0
    ∧ okBy32 State.reset (glbPage 1) GLB_RESET.off 0xC500 false (fun v => if GLB_RESET_key.get v = 0xC5 then .ok else .range) = true
    ∧ okBy32 State.reset (glbPage 1) GLB_RESET.off 0xC501 false (fun v => if GLB_RESET_key.get v = 0xC5 then .ok else .range) = true
    ∧ 3 ≤ (atStage 3).stage ∧ (atStage 3).boot.cooked = false ∧ (cooked0 459).boot.cooked = true
    ∧ (∀ i ∈ List.range 32, Tbl.get (fun _ => (0 : Int)) (cooked0 459).boot.temps i < 460)
    ∧ 460 ≤ Tbl.get (fun _ => (0 : Int)) (cooked0 460).boot.temps 0 := by decide +kernel
/-- R397: a strap whose samples differ takes its fallback, with its unstable bit. -/
theorem test_unstable_strap : (after (.porstRelease ⟨0xFFFE, 0, 0, 0⟩) State.reset).rd (glbPage 0) GLB_STRAPS_unstable = 1 := by decide +kernel
/-- R398, R395: 135 °C is 540 quarter degrees; at it the device is in reset, and the cause is 3. -/
theorem test_thermal_shutdown : (after (.tempSample 0 540) (atStage 3)).boot.awake = false ∧ (after (.tempSample 0 539) (atStage 3)).boot.awake = true := by
  decide +kernel
/-- R398: a pulse shorter than 10 µs does nothing. -/
theorem test_short_reset : (after (.coldReset 9999) alive).boot.awake = true ∧ (after (.coldReset 10000) alive).boot.awake = false := by decide +kernel

/-- Alarm 0 armed for time 5, at a time, in a device that is awake or not. -/
def alarmed (awake : Bool) (n : Nat) : State :=
  { set_ [(glbPage 4, GLB_ALARM_LO, 5)] with boot := { State.reset.boot with awake := awake, armed := [0] }, now := n }
def latched : State := set_ [(glbPage 4, GLB_ALARM_CTRL_latched, 3), (glbPage 4, GLB_ALARM_CTRL_on_vbat, 3)]
theorem test_witness_TimeBaseAndAlarms : State.reset.canonical = true ∧ alive.boot.awake = true ∧ State.reset.boot.awake = false
    ∧ (alarmed true 5).canonical = true ∧ (alarmed true 5).boot.armed.contains 0 = true ∧ (alarmed true 5).alarmTime 0 ≤ (alarmed true 5).now
    ∧ (alarmed false 5).boot.awake = false ∧ (alarmed true 4).now < (alarmed true 4).alarmTime 0 ∧ State.reset.boot.armed.contains 0 = false
    ∧ okBy32 latched (glbPage 4) GLB_ALARM_CTRL.off (latched.fieldWrite (glbPage 4) GLB_ALARM_CTRL_latched 0 1) = true
    ∧ (let v := latched.fieldWrite (glbPage 4) GLB_ALARM_CTRL_latched 0 1;
      ((latched.log 32 (latched.writeRec 32 (glbPage 4) GLB_ALARM_CTRL.off v)).store (glbPage 4) GLB_ALARM_CTRL.off v).rd (glbPage 4) GLB_ALARM_CTRL_en
        = latched.rd (glbPage 4) GLB_ALARM_CTRL_en)
    ∧ State.reset.owns 32 (glbPage 4) = true ∧ State.reset.now < 2 ^ 64 ∧ heard.hostHeard = true ∧ heard.owns 3 (glbPage 4) = false := by decide +kernel
/-- R408: the read of the low word latches the high one. -/
theorem test_time_base_read : (after (.timeBaseRead 32) (at_ (2 ^ 32 * 3 + 7))).resp = ⟨false, [7, 0, 0, 0]⟩
    ∧ (after (.timeBaseRead 32) (at_ (2 ^ 32 * 3 + 7))).rd (glbPage 4) GLB_TB_HI_ns_hi = 3 := by decide +kernel

/-! Touch, haptics, audio and the 4410 personality. -/

def enOk (s : State) (p : Nat) (f : Fld) (rule : Word → Rule) : Bool := okBy32 s p f.off (s.fieldWrite p f 0 1) false rule
def touching (t : TouchS) (n : Nat := 0) (l : List (Nat × Fld × Nat) := []) : State :=
  { set_ ((tchPage 0, TCH_B_CTRL_en, 1) :: l) with touches := [(0, t)], now := n }
def scanning (k : Nat) : TouchS := { TouchS.zero with scanAt := some 0, slot := k }
theorem test_witness_TouchBanks : enOk State.reset (tchPage 0) TCH_B_CTRL_en (State.reset.tchRule 0 TCH_B_CTRL.off) = true
    ∧ State.reset.rd (tchPage 0) TCH_B_CTRL_en = 0 ∧ (touching TouchS.zero).rd (tchPage 0) TCH_B_CTRL_en ≠ 0
    ∧ ((touching TouchS.zero).tch 0).loading = false ∧ ((touching TouchS.zero).tch 0).scanAt = none
    ∧ (∀ k ∈ [0, 3, 4, 5], ((touching (scanning k)).tch 0).scanAt ≠ none ∧ ((touching (scanning k)).tch 0).slot = k)
    ∧ (touching TouchS.zero).scanDue 0 = true ∧ (touching TouchS.zero 1).scanDue 0 = false ∧ (touching { TouchS.zero with ran := 1 }).scanDue 0 = false
    ∧ (touching TouchS.zero).rd (tchPage 0) FLT_INJECT_arm = 0
    ∧ ((touching { TouchS.zero with loading := true }).tch 0).loading = true
    ∧ (let s := touching { TouchS.zero with chans := [(3, { ChanS.zero with recalUntil := some 9 })] } 9 [(tchPage 0, ⟨TCH_B_CH_STATE_touched.off + 3 * TCH_B_CH_STATE_touched.stride, 4, TCH_B_CH_STATE_touched.hi, TCH_B_CH_STATE_touched.lo⟩, 1)];
      s.rd (tchPage 0) TCH_B_CH_STATE_touched 3 ≠ 0 ∧ (s.chan 0 3).recalUntil = some 9 ∧ s.now = 9
        ∧ (at_ 600000000000 s).now ≥ (s.chan 0 3).touchedAt + s.rd (tchPage 0) TCH_B_CH_CFG_hold_s 3 * 1000000000)
    ∧ (touching TouchS.zero).rd (tchPage 0) TCH_B_CH_STATE_touched 3 = 0 ∧ ((touching TouchS.zero).chan 0 3).recalUntil = none
    ∧ ((touching { TouchS.zero with groups := [(2, { GroupS.zero with touched := true })] } 50000000).grp 0 2).touched = true
    ∧ ((touching TouchS.zero).grp 0 2).touched = false := by decide +kernel
/-- How a calibration load of bank 0 reads. -/
def calRead (s : State) : LongRead :=
  let a := s.calAt 0
  (s.readLong ((s.unitActor (tchPage 0)).getD 32) 4 a.1 a.2 132 (linesAfter a.2 132 (s.tch 0).calGot.length)).2.2
theorem test_witness_long_reads : calRead (set_ dramUp) = .done ∧ calRead State.reset = .failed ∧ calRead (set_ dramDown) = .waits
    ∧ ((set_ dramDown).readLong 32 4 0 0 (lutBytes 0) (linesAfter 0 (lutBytes 0) 0)).2.2 = .waits := by decide +kernel
/-- R345: a touched group is at standstill 50 ms after its last movement. -/
theorem test_standstill : ((after (.groupStandstill 0 2) (touching { TouchS.zero with groups := [(2, { GroupS.zero with touched := true, still := false })] } 50000000)).grp 0 2).still = true := by
  decide +kernel

/-- Haptic channel 0 in a state, with its registers. -/
def hapOn (st : Nat) (h : HapS := HapS.zero) (l : List (Nat × Fld × Nat) := []) : State :=
  { set_ ((hapPage 0, HAP_STATUS_state, st) :: l) with haps := if h = HapS.zero then [] else [(0, h)] }
def hreq : HapReq := ⟨false, 0, 0, 256, 0⟩
/-- A1's haptic queue 0 with one entry waiting in A1's DRAM region, the entry's bytes as given. -/
def hapQueue (op ch : Nat) (up : Bool := true) : State :=
  { set_ ((cusPage 1, ⟨0x84, 8, 23, 0⟩, 64) :: (if up then dramUp else [])) (((qState 6 1).setTail 1 0 1).setOwner (hapPage 0) 1) with
    zeroed := [(0, 4096)], dram := if ch = 0 then [(0, BitVec.ofNat 8 op)] else [(0, BitVec.ofNat 8 op), (2, BitVec.ofNat 8 ch)] }
def entryIs (s : State) (f : List Byte → Bool) : Bool := match (s.headEntry 1 0 4).2 with | .ok e => f e | .error _ => false
/-- A channel of A1's, whose library in A1's vault region holds one effect of one segment of duration 1. -/
def library (count : Nat) : State :=
  { (set_ [(hapPage 0, HAP_LIB_COUNT_count, count), (cusPage 2, ⟨0x84, 8, 23, 0⟩, 64)] ((State.reset.setRegion 1 8 0 16 0).setOwner (hapPage 0) 1)) with
    haps := [(0, { HapS.zero with loading := some hreq })]
    vault := [64, 0, 0, 0].zipIdx.map (fun e => (e.2, e.1)) ++ [1, 0, 0, 0, 1, 0, 0, 0].zipIdx.map (fun e => (64 + e.2, e.1)) }
/-- The channel in its coil check, or another state, 1 ms after the start, enabled or not. -/
def hapLate (st en : Nat) (h : HapS := HapS.zero) : State := { hapOn st h [(hapPage 0, HAP_CTRL_en, en)] with now := 1000000 }
theorem test_witness_HapticCoilAndTrip : State.reset.canonical = true
    ∧ (let s := State.reset; let p := hapPage 0; let en := s.fieldWrite p HAP_CTRL_en 0 1;
      let t := s.log 32 (s.writeRec 32 p HAP_CTRL.off en); let u := t.store p HAP_CTRL.off en;
      okBy32 s p HAP_CTRL.off en false (s.hapRule 0 HAP_CTRL.off 0) = true ∧ t.rd p HAP_CTRL_src = u.rd p HAP_CTRL_src
        ∧ t.rd p HAP_CTRL_en = 0 ∧ u.rd p HAP_CTRL_en = 1)
    ∧ (∀ en ∈ [0, 1], (hapLate 1 en).hapState 0 = 1 ∧ ((hapLate 1 en).hap 0).checkAt + 1000000 ≤ (hapLate 1 en).now
      ∧ (hapLate 1 en).rd (hapPage 0) HAP_CTRL_en = en ∧ (hapLate 1 en).level (16 * hapPage 0 + 4) = false)
    ∧ ((hapLate 1 1).hap 0).barred = false ∧ ((hapLate 1 1 { HapS.zero with barred := true }).hap 0).barred = true
    ∧ (hapOn 0).hapState 0 ≠ 1 ∧ (hapOn 1).now < ((hapOn 1).hap 0).checkAt + 1000000
    ∧ (∀ l ∈ [[], [(hapPage 0, HAP_TRIP_latched, 1)]],
      (let t := (hapOn 3 HapS.zero l).wr (hapPage 0) HAP_TRIP_pin 1; (t.hapHalt 0 (if t.rd (hapPage 0) HAP_CTRL_en = 1 then 5 else 0)).rd (hapPage 0) HAP_TRIP_latched)
        = l.length)
    ∧ (let s := set_ [(hapPage 0, HAP_TRIP_latched, 1), (hapPage 0, HAP_TRIP_pin, 0)];
      okBy32 s (hapPage 0) HAP_TRIP.off (s.fieldWrite (hapPage 0) HAP_TRIP_clr 0 1) false (s.hapRule 0 HAP_TRIP.off 10000) = true
        ∧ okBy32 s (hapPage 0) HAP_TRIP.off (s.fieldWrite (hapPage 0) HAP_TRIP_clr 0 1) false (s.hapRule 0 HAP_TRIP.off 9999) = false) := by
  decide +kernel
theorem test_witness_HapticChannels :
    ((hapOn 2 { HapS.zero with loading := some hreq }).hap 0).loading = some hreq ∧ ((hapOn 0).hap 0).loading = none
    ∧ (set_ [(1424, HAP_SPI0_CFG_en, 1)]).spiOn 0 = true ∧ State.reset.spiOn 0 = false
    ∧ (0x7FFF : BitVec 16).toInt.natAbs > (set_ [(hapPage 0, HAP_ACC_range, 100)]).rd (hapPage 0) HAP_ACC_range
    ∧ (0xFFFF : BitVec 16).toInt.natAbs ≤ (set_ [(hapPage 0, HAP_ACC_range, 100)]).rd (hapPage 0) HAP_ACC_range := by decide +kernel
theorem test_witness_HapticChannels_queue : (hapQueue 1 0).qWaiting 1 0 = true ∧ (hapQueue 1 0).qType 1 0 = qHaptic ∧ (hapQueue 1 0).astate 1 = 3
    ∧ (match ((hapQueue 1 0 false).headEntry 1 0 4).2 with | .error _ => true | .ok _ => false) = true
    ∧ entryIs (hapQueue 1 0) (fun e => (hapQueue 1 0).hapEntryOk 1 e && field e 0 1 == 1) = true
    ∧ entryIs (hapQueue 2 0) (fun e => (hapQueue 2 0).hapEntryOk 1 e && field e 0 1 == 2) = true
    ∧ entryIs (hapQueue 1 3) (fun e => !(hapQueue 1 3).hapEntryOk 1 e) = true
    ∧ ((library 0).effectSegs 0 0).2 = none ∧ ((library 1).effectSegs 0 0).2 = some [1] := by decide +kernel
theorem test_witness_HapticChannels_pwm :
    (let f := fun (s : State) => (((((s.gatesEnd 0).pwmInjected 0).hapThermal 0 100).pwmSampled 0 none).pwmPlay 0).hapHandover 0;
      (f (hapOn 0)).hapState 0 ∈ [0, 1, 5] ∧ (f (hapOn 2)).hapState 0 ∉ [0, 1, 5]) := by decide +kernel
/-- R352: above 100 ohm the coil is open, result 2, below 0.5 ohm shorted, result 3. -/
theorem test_coil_results : (after (.coilCheckDone 0 100001) (hapLate 1 1)).rd (hapPage 0) HAP_COIL_result = 2
    ∧ (after (.coilCheckDone 0 499) (hapLate 1 1)).rd (hapPage 0) HAP_COIL_result = 3 := by decide +kernel

/-- TDM port 0 A1's, with row 0, row 32's page and column 0 A1's. -/
def tdm1 : State := owned [(rowPage 0, 1), (eqPage 0, 1)] (set_ [(pinPage 1, PIN_FN_en, 1), (pinPage 1, PIN_FN_account, 1)])
def audioAt (a : AudioS) (n : Nat) (l : List (Nat × Fld × Nat)) : State := { set_ l with audio := a, now := n }
def xDomain : Nat × Fld × Nat := (audPage 21, AUD_TDM_CFG_domain, 2)
def fs0 (f : FsS) : AudioS := { AudioS.zero with fs := [(0, f)] }
theorem test_witness_AudioMatrix : enOk tdm1 (rowPage 0) AUD_ROW_SRC_en (tdm1.audRule 1 AUD_ROW_SRC.off) = true
    ∧ enOk tdm1 (eqPage 0) AUD_COL_SINK_en (tdm1.audRule 13 AUD_COL_SINK.off) = true
    ∧ (let s := audioAt AudioS.zero 16000000 [(rowPage 0, AUD_ROW_SRC_en, 1)];
      s.rowOn 0 = true ∧ s.bridgePort 0 = none ∧ s.bridgeOn 0 = false ∧ NatTbl.at_ s.audio.unlocked 0 - 1 + 16000000 ≤ s.now)
    ∧ (audioAt AudioS.zero 15999999 []).now < NatTbl.at_ AudioS.zero.unlocked 0 - 1 + 16000000
    ∧ (let s := audioAt (fs0 ⟨some 0, [20833], false⟩) 41666 [xDomain]; (Tbl.get (fun _ => FsS.zero) s.audio.fs 0).last = some 0
      ∧ s.tdmDomain 0 = 2 ∧ 0 + 2 * (20833 / 1) ≤ s.now)
    ∧ State.reset.tdmDomain 0 ≠ 2 ∧ FsS.zero.last = none
    ∧ (let s := audioAt { AudioS.zero with wait := [(65, (7, 0))] } 1000000000 []; s.audio.wait.find? (·.1 == 65) = some (65, (7, 0))
      ∧ 0 + s.rd (rowPage 1) AUD_ROW_ZC_timeout_ms * 1000000 ≤ s.now)
    ∧ AudioS.zero.wait.find? (·.1 == 65) = none
    ∧ (let s := audioAt { AudioS.zero with chimeAt := some 0 } 3000000000 [(audPage 23, AUD_CHIME_STATUS_active, 1)];
      s.rd (audPage 23) AUD_CHIME_STATUS_active ≠ 0 ∧ s.audio.chimeAt.getD 0 + s.rd (audPage 23) AUD_CHIME_DUCK_hold * 10000000 ≤ s.now)
    ∧ State.reset.rd (audPage 23) AUD_CHIME_STATUS_active = 0 := by decide +kernel

/-- A1 in the personality, with layer 0 and the window its own, the host ports heard. -/
def legacy1 : State := { owned [(layPage 0, 1), (legPage 1 2, 1), (legPage 1 0, 1)] heard with accts := [(1, { AcctS.zero with legacy := true })] }
theorem test_witness_Personality : (legacy1.acct 1).legacy = true ∧ legacy1.owns 1 (legPage 1 (0x2000 / 4 * 4 / 4096)) = true ∧ legacy1.hostHeard = true
    ∧ (match legacy1.legReg 1 0x2000 with | .layer _ _ _ _ => true | _ => false) = true ∧ State.reset.hostHeard = false
    ∧ (let s := (set_ [] legacy1).setLeg 1 0x14 1; s.leg 1 0x10 &&& s.leg 1 0x14 = 0 ∧ 1 &&& s.leg 1 0x14 ≠ 0 ∧ s.leg 1 4 % 2 = 0)
    ∧ (State.reset.acct 1).legacy = false ∧ NatTbl.at_ State.reset.errOwed 1 = 0 ∧ State.reset.cusUp = false
    ∧ NatTbl.at_ ({ alive with errOwed := [(1, 2)] } : State).errOwed 1 ≠ 0 ∧ alive.cusUp = true := by decide +kernel
/-- R384: a read of LEG_INT_STATUS returns the bits and clears them. -/
theorem test_leg_int_read : (after (.legIntRead 1 0) (legacy1.setLeg 1 0x10 5)).resp = ⟨false, [5, 0, 0, 0]⟩
    ∧ (after (.legIntRead 1 0) (legacy1.setLeg 1 0x10 5)).leg 1 0x10 = 0 := by decide +kernel

/-- R351: a sine is 0 at the zero crossings and full scale at a quarter of the cycle. -/
theorem test_sine : sine 0 4 = 0 ∧ sine 1 4 = hapOne ∧ sine 2 4 = 0 ∧ sine 3 4 = -hapOne := by decide +kernel

end Sys2Proof.Tests
end

section
/-! PROOFS. A sleep request of a unit that is being woken (R48): what the sequencer's status registers, a change of PAGE_CTRL and the
end of a wake do to a page's power state. -/

namespace Sys2Proof.Machine

variable {s : State} {p q : Nat}

/-- Registers at different word offsets are different registers, whatever their pages. -/
theorem fkey_ne_of_offset_ne {f g : Fld} {i j : Nat} (h : (f.off + i * f.stride) / 4 % 1024 ≠ (g.off + j * g.stride) / 4 % 1024) :
    fkey p f i ≠ fkey q g j := by
  unfold fkey regKey
  omega

theorem State.regs_wf_wr (h : Tbl.wf regReset s.regs = true) (p : Nat) (f : Fld) (v i : Nat) :
    Tbl.wf regReset (s.wr p f v i).regs = true := Tbl.wf_set _ _ h

/-! The power state of a page. -/

@[simp] theorem State.setPower_seq (p v : Nat) : (s.setPower p v).seq = s.seq := rfl

theorem State.regs_wf_setPower (h : Tbl.wf regReset s.regs = true) (p v : Nat) :
    Tbl.wf regReset (s.setPower p v).regs = true := State.regs_wf_wr h ..

theorem State.power_setPower (h : Tbl.wf regReset s.regs = true) (p : Nat) {v : Nat} (hv : v < 8) :
    (s.setPower p v).power p = v :=
  (State.rd_wr_same h p PAGE_STATUS_state (by decide) (by decide) v 0).trans (Nat.mod_eq_of_lt hv)

/-! GLB_SEQ_STATUS. -/

@[simp] theorem State.syncSeq_seq : s.syncSeq.seq = s.seq := rfl

/-- The sequencer's status changes no register at another word offset. -/
theorem State.rd_syncSeq_other (h : Tbl.wf regReset s.regs = true) (p : Nat) (f : Fld) (i : Nat)
    (ho : (f.off + i * f.stride) / 4 % 1024 ≠ 33) : s.syncSeq.rd p f i = s.rd p f i := by
  unfold State.syncSeq
  rw [State.rd_wr_other (State.regs_wf_wr (State.regs_wf_wr h ..) ..) _ _ _ _ _ _ _ (fkey_ne_of_offset_ne ho),
    State.rd_wr_other (State.regs_wf_wr h ..) _ _ _ _ _ _ _ (fkey_ne_of_offset_ne ho),
    State.rd_wr_other h _ _ _ _ _ _ _ (fkey_ne_of_offset_ne ho)]

theorem State.power_syncSeq (h : Tbl.wf regReset s.regs = true) (p : Nat) : s.syncSeq.power p = s.power p :=
  State.rd_syncSeq_other h p PAGE_STATUS_state 0 (by decide)

/-! A change of PAGE_CTRL. -/

/-- No wake of page `p` waits any more. -/
def State.unqueue (s : State) (p : Nat) : State :=
  { s with seq := { s.seq with queue := s.seq.queue.filter fun w => w.page != p } }

@[simp] theorem State.unqueue_regs : (s.unqueue p).regs = s.regs := rfl

@[simp] theorem State.unqueue_step : (s.unqueue p).seq.step = s.seq.step := rfl

theorem State.page_ne_of_mem_unqueue {w : Wake} (hw : w ∈ (s.unqueue p).seq.queue) : w.page ≠ p := by
  simpa using (List.mem_filter.1 hw).2

/-- A wake that has begun is not cut short (R48). -/
theorem State.powerFollow_of_waking (hg : s.powerGoal p ≠ 3) (hw : s.power p = 2) : s.powerFollow p = s := by
  simp only [State.powerFollow, if_neg hg, if_pos hw]

/-- A unit neither in its wake nor in FAULT goes where PAGE_CTRL asks, and its queued wake is cancelled (R48). -/
theorem State.powerFollow_of_not_waking_not_fault (hg : s.powerGoal p ≠ 3) (hw : s.power p ≠ 2) (hf : s.power p ≠ 4) :
    s.powerFollow p = ((s.unqueue p).setPower p (s.powerGoal p)).syncSeq := by
  simp only [State.powerFollow, if_neg hg, if_neg hw, if_neg (not_and_of_not_left _ hf)]
  rfl

/-! The end of a wake. -/

theorem State.powerGoal_lt (s : State) (p : Nat) : s.powerGoal p < 8 := by
  unfold State.powerGoal
  extract_lets
  split_ifs <;> decide

/-- A write at any word offset but those of PAGE_CTRL and of an account's state leaves what PAGE_CTRL asks for. -/
theorem State.powerGoal_wr_other (h : Tbl.wf regReset s.regs = true) (p q : Nat) (f : Fld) (v i : Nat)
    (hc : 2 ≠ (f.off + i * f.stride) / 4 % 1024) (ha : 33 ≠ (f.off + i * f.stride) / 4 % 1024) :
    (s.wr q f v i).powerGoal p = s.powerGoal p := by
  have hen : (s.wr q f v i).rd p PAGE_CTRL_enable = s.rd p PAGE_CTRL_enable :=
    State.rd_wr_other h _ _ _ _ _ _ _ (fkey_ne_of_offset_ne hc)
  have hsl : (s.wr q f v i).rd p PAGE_CTRL_sleep_req = s.rd p PAGE_CTRL_sleep_req :=
    State.rd_wr_other h _ _ _ _ _ _ _ (fkey_ne_of_offset_ne hc)
  have hac : ∀ a, (s.wr q f v i).astate a = s.astate a := fun a =>
    State.rd_wr_other h _ _ _ _ _ _ _ (fkey_ne_of_offset_ne ha)
  simp only [State.powerGoal, hen, hsl, hac]

/-- A completed wake of a unit whose power the device does not set takes the unit where PAGE_CTRL asks (R48). -/
theorem State.power_wakeDone (h : Tbl.wf regReset s.regs = true) (w : Wake) (hp : w.page < 8192)
    (hr : (kindOf w.page).1 ≠ .press ∨ s.rd w.page MNT_P_ROLE_role ≠ 1) : (s.wakeDone w).power w.page = s.powerGoal w.page := by
  unfold State.wakeDone
  rw [if_neg (Nat.not_le.2 hp)]
  by_cases hk : (kindOf w.page).1 = .press
  · have hrole : s.rd w.page MNT_P_ROLE_role ≠ 1 := hr.resolve_left (not_not_intro hk)
    have hkeep : ∀ v, (s.wr (glbPage 2) GLB_SEQ_WAKE_WORST v).rd w.page MNT_P_ROLE_role = s.rd w.page MNT_P_ROLE_role := fun v =>
      State.rd_wr_other h _ _ _ _ _ _ _ (fkey_ne_of_offset_ne (by decide))
    have hgoal : ∀ v, (s.wr (glbPage 2) GLB_SEQ_WAKE_WORST v).powerGoal w.page = s.powerGoal w.page := fun v =>
      State.powerGoal_wr_other h _ _ _ _ _ (by decide) (by decide)
    simp only [hk, beq_self_eq_true, if_true, Bool.true_and, hkeep, hgoal, beq_iff_eq, if_neg hrole]
    exact State.power_setPower (State.regs_wf_wr h ..) _ (s.powerGoal_lt _)
  · simp only [beq_eq_false_iff_ne.2 hk, Bool.false_and, Bool.false_eq_true, if_false]
    exact State.power_setPower h _ (s.powerGoal_lt _)

/-- Settles O22: PAGE_CTRL asks for SLEEP, so `powerFollow` either sends the unit there without its queued wake or leaves the
wake that has begun, and that wake's end goes by the same request. -/
theorem sleepRequestOfAWakingUnit : Obligations.SleepRequestOfAWakingUnit := by
  unfold Obligations.SleepRequestOfAWakingUnit
  intro p s hc hgoal
  have hregs := (keeps_of_canonical hc).regs
  have hnotOn : s.powerGoal p ≠ 3 := by omega
  refine ⟨fun hwaking hfault => ?queued, State.powerFollow_of_waking hnotOn, ?completed⟩
  case queued =>
    rw [State.powerFollow_of_not_waking_not_fault hnotOn hwaking hfault, hgoal]
    simp only [State.syncSeq_seq, State.setPower_seq, State.unqueue_step, true_and]
    refine ⟨fun w => State.page_ne_of_mem_unqueue, ?_⟩
    have hun : Tbl.wf regReset (s.unqueue p).regs = true := hregs
    rw [State.power_syncSeq (State.regs_wf_setPower hun ..), State.power_setPower hun p (by decide)]
  case completed =>
    rintro w rfl hp hr
    exact (State.power_wakeDone hregs w hp hr).trans hgoal

end Sys2Proof.Machine
end

section
/-! PROOFS. The words of the mints' instructions (R129): what decodes has its fields in the bits of its format; the active elements,
the addresses that a load may read, and where a control instruction goes on. -/

namespace Sys2Proof.Machine

variable {s t : State} {v w : MintS} {i : MI}

/-! The words of the instructions (R129). -/

theorem toNat_div_two_pow_mod (w : Word) (lo len : Nat) : w.toNat / 2 ^ lo % 2 ^ len = (w.extractLsb' lo len).toNat := by
  rw [BitVec.extractLsb'_toNat, Nat.shiftRight_eq_div_pow]

theorem fieldsOf_eq (w : Word) : fieldsOf w =
    { op := (w.extractLsb' 24 6).toNat, pe := w.getLsbD 23, p := (w.extractLsb' 21 2).toNat, d := (w.extractLsb' 16 5).toNat,
      a := (w.extractLsb' 11 5).toNat, b := (w.extractLsb' 6 5).toNat, c := (w.extractLsb' 1 5).toNat, sc := w.getLsbD 0,
      imm := (w.extractLsb' 0 16).toNat, base := (w.extractLsb' 12 4).toNat, off := (w.extractLsb' 0 12).toNat,
      target := (w.extractLsb' 0 10).toNat } := by
  simp only [fieldsOf, ← toNat_div_two_pow_mod, BitVec.testBit_toNat, pow_zero, Nat.div_one, Nat.reducePow, pow_one]

theorem format_eq (w : Word) : w.toNat / 2 ^ 30 = (w.extractLsb' 30 2).toNat := by
  rw [← toNat_div_two_pow_mod, Nat.mod_eq_of_lt (by have := w.isLt; omega)]

/-- What a word that decodes has passed. -/
theorem decodeMint_some {w : Word} {vl : Nat} {effect : Bool} (h : decodeMint w vl effect = some i) :
    i = fieldsOf w ∧ opFormat i.op = some (w.toNat / 2 ^ 30)
      ∧ (w.toNat / 2 ^ 30 = 1 ∨ w.toNat / 2 ^ 30 = 2 → w.toNat / 2 ^ 21 % 8 = 0)
      ∧ (w.toNat / 2 ^ 30 = 3 → w.toNat / 2 ^ 10 % 64 = 0)
      ∧ (w.toNat / 2 ^ 30 = 0 → i.pe = true → isLane i.op = true)
      ∧ ∀ n ∈ scalarFields i, n < 16 := by
  unfold decodeMint at h
  extract_lets j fmt at h
  split_ifs at h with hfmt himm hctl hpe hvec hsca hops
  obtain rfl : j = i := Option.some.inj h
  refine ⟨rfl, not_not.1 hfmt, fun hf => by_contra fun hn => himm ⟨hf, hn⟩, fun hf => by_contra fun hn => hctl ⟨hf, hn⟩,
    fun hf hp => ?_, fun n hn => ?_⟩
  · simpa [fmt, hf, hp] using hpe
  · have hall : ∀ x ∈ scalarFields j, x < 16 := by simpa using hsca
    exact hall n hn


/-- The bits from `lo` up are 0 where their number is. -/
theorem extractLsb'_eq_zero {w : Word} {lo len : Nat} (h : w.toNat / 2 ^ lo % 2 ^ len = 0) : w.extractLsb' lo len = 0 :=
  BitVec.eq_of_toNat_eq ((toNat_div_two_pow_mod w lo len).symm.trans h)

/-- The opcode, the format and the fields of a word that decodes lie in their bits, and the bits that its format fixes are 0. -/
theorem decodeMint_format {w : Word} {vl : Nat} {effect : Bool} (h : decodeMint w vl effect = some i) :
    i.op = (w.extractLsb' 24 6).toNat ∧ opFormat i.op = some (w.extractLsb' 30 2).toNat
      ∧ i.pe = w.getLsbD 23 ∧ i.p = (w.extractLsb' 21 2).toNat ∧ i.d = (w.extractLsb' 16 5).toNat
      ∧ i.a = (w.extractLsb' 11 5).toNat ∧ i.b = (w.extractLsb' 6 5).toNat ∧ i.c = (w.extractLsb' 1 5).toNat
      ∧ i.sc = w.getLsbD 0 ∧ i.imm = (w.extractLsb' 0 16).toNat ∧ i.base = (w.extractLsb' 12 4).toNat
      ∧ i.off = (w.extractLsb' 0 12).toNat ∧ i.target = (w.extractLsb' 0 10).toNat
      ∧ (opFormat i.op = some 1 ∨ opFormat i.op = some 2 → w.extractLsb' 21 3 = 0)
      ∧ (opFormat i.op = some 3 → w.extractLsb' 10 6 = 0)
      ∧ (opFormat i.op = some 0 → i.pe = true → isLane i.op = true)
      ∧ (∀ n ∈ scalarFields i, n < 16) := by
  obtain ⟨hi, hfmt, himm, hctl, hpe, hsca⟩ := decodeMint_some h
  have fmt_of : ∀ {n}, opFormat i.op = some n → w.toNat / 2 ^ 30 = n := fun hn => Option.some.inj (hfmt.symm.trans hn)
  have hzero : opFormat i.op = some 1 ∨ opFormat i.op = some 2 → w.extractLsb' 21 3 = 0 := fun hf =>
    extractLsb'_eq_zero (himm (hf.imp fmt_of fmt_of))
  have hctl' : opFormat i.op = some 3 → w.extractLsb' 10 6 = 0 := fun hf => extractLsb'_eq_zero (hctl (fmt_of hf))
  have hlane : opFormat i.op = some 0 → i.pe = true → isLane i.op = true := fun hf => hpe (fmt_of hf)
  rw [format_eq] at hfmt
  refine ⟨?_, hfmt, ?_, ?_, ?_, ?_, ?_, ?_, ?_, ?_, ?_, ?_, ?_, hzero, hctl', hlane, hsca⟩ <;> rw [hi, fieldsOf_eq]

/-! Active elements and addresses (R127, R129, R136). -/

theorem MintS.mem_active {k : Nat} : k ∈ v.active i ↔ k < 4 * v.vl ∧ (i.pe = true → (v.p i.p).getLsbD k = true) := by
  simp only [MintS.active, MintS.elems, List.mem_filter, List.mem_range, Bool.or_eq_true, Bool.not_eq_true', ← Bool.not_eq_true,
    imp_iff_not_or]

theorem storeOk_load {a n al : Nat} : storeOk a n al false = true ↔ a + n ≤ 0x2000 ∧ a % al = 0 := by
  simp only [storeOk, Bool.false_and, Bool.not_false, Bool.and_true, Bool.and_eq_true, decide_eq_true_eq, beq_iff_eq]

/-! The control instructions (R129, R136). -/

/-- A control instruction whose target lies in the routine goes on there if it is taken, else at the next word. -/
theorem controlOp_pc {m op : Nat} {c : Cheque} {taken : MI → MintS → Bool} {eff : MI → MintS → MintS} (hc : s.canonical = true)
    (hr : s.runs m op c i) (ht : i.target < (s.mint m).codeLen) :
    ((s.controlOp m op taken eff).mint m).pc = if taken i (s.mint m) then i.target else (s.mint m).pc + 1 := by
  unfold State.controlOp
  split
  case isTrue h =>
    exact congrArg MintS.pc (runOp_jump hc hr (by rw [if_neg (Nat.not_le.2 ht), if_pos h]) ht).2
  case isFalse h =>
    exact congrArg MintS.pc (runOp_go hc hr (by rw [if_neg (Nat.not_le.2 ht), if_neg h])).2

end Sys2Proof.Machine
end

section
/-! PROOFS. No fault, event or account reset moves a mint to another word: operation by operation, what they leave of the mints. A mint
whose cheque bounces (R136) therefore stands where it stood. -/

namespace Sys2Proof.Machine

variable {s t : State}

theorem State.mint_congr (e : t.mints = s.mints) (m : Nat) : t.mint m = s.mint m :=
  congrArg (Tbl.get (fun _ => MintS.zero) · m) e

/-- A fold of operations that leave the mints leaves them. -/
theorem State.foldl_mints {β : Type} {f : State → β → State} (hf : ∀ u x, (f u x).mints = u.mints) (l : List β) (s : State) :
    (l.foldl f s).mints = s.mints := foldl_holds (P := fun u => u.mints = s.mints) l rfl fun u x h => (hf u x).trans h

/-! The ledger. -/

@[simp] theorem State.syncLedger_mints : s.syncLedger.mints = s.mints := rfl

@[simp] theorem State.write1_mints (r : Rec) : (s.write1 r).mints = s.mints := by
  unfold State.write1
  split
  · rfl
  · extract_lets e org led s1 ws s2
    have h2 : s2.mints = s1.mints := State.foldl_mints (fun _ _ => State.setReg_mints ..) _ s1
    rw [State.syncLedger_mints, State.count_mints, h2]

@[simp] theorem State.hwRec_mints (r : Rec) : (s.hwRec r).1.mints = s.mints := by
  unfold State.hwRec
  split_ifs
  · rfl
  · rfl
  · exact State.write1_mints r

@[simp] theorem State.hwRaw_mints (k : Nat) (old new : Word) : (s.hwRaw k old new).1.mints = s.mints := State.hwRec_mints _

@[simp] theorem State.hwFieldRaw_mints (p : Nat) (f : Fld) (v : Nat) : (s.hwFieldRaw p f v).1.mints = s.mints := by
  unfold State.hwFieldRaw
  extract_lets k old
  split_ifs
  · rfl
  · exact State.hwRaw_mints k old _

/-! The memories. -/

@[simp] theorem State.storeVault_mints (a : Nat) (bs : List Byte) : (s.storeVault a bs).mints = s.mints := by
  induction bs generalizing s a with
  | nil => rfl
  | cons b bs ih => exact ih _

@[simp] theorem State.storeDram_mints (a : Nat) (bs : List Byte) : (s.storeDram a bs).mints = s.mints := by
  induction bs generalizing s a with
  | nil => rfl
  | cons b bs ih => exact ih _

@[simp] theorem State.retag_mints (line : Nat) (poison : Bool) : (s.retag line poison).mints = s.mints := by
  unfold State.retag
  cases s.tagOf line
  · rfl
  · exact State.storeDram_mints ..

@[simp] theorem State.touchRank_mints (pa : Nat) : (s.touchRank pa).mints = s.mints := by
  unfold State.touchRank State.wakeRank
  extract_lets r mem u
  have hu : u.mints = s.mints := by
    unfold u
    split <;> rfl
  exact hu

@[simp] theorem State.chAccess_mints (pa : Nat) (write : Bool) : (s.chAccess pa write).mints = s.mints := by
  unfold State.chAccess
  extract_lets c k s1 mem s2 s3
  have h2 : s2.mints = s1.mints := by
    unfold s2
    split_ifs <;> rfl
  have h3 : s3.mints = s2.mints := by
    unfold s3
    split_ifs <;> rfl
  exact h3.trans (h2.trans (State.touchRank_mints pa))

@[simp] theorem State.issueOut_mints (q : List (Nat × List Byte)) : (s.issueOut q).mints = s.mints := by
  induction q generalizing s with
  | nil => rfl
  | cons e q ih => simp [State.issueOut, ih]

@[simp] theorem State.drainTo_mints (c keep : Nat) : (s.drainTo c keep).mints = s.mints := State.issueOut_mints _

@[simp] theorem State.enqueue_mints (a : Nat) (bs : List Byte) : (s.enqueue a bs).mints = s.mints := by
  unfold State.enqueue
  extract_lets c u
  have hu : u.mints = s.mints := State.touchRank_mints a
  split_ifs
  · exact (State.issueOut_mints _).trans hu
  · exact (State.drainTo_mints ..).trans hu
  · unfold State.drainIdle
    split_ifs
    · exact (State.drainTo_mints ..).trans hu
    · exact hu

@[simp] theorem State.spend_mints (o : Nat) : (s.spend o).mints = s.mints := by
  unfold State.spend
  split_ifs <;> rfl

@[simp] theorem State.useInject_mints (p i : Nat) : (s.useInject p i).1.mints = s.mints := by
  unfold State.useInject
  extract_lets n u
  have hu : u.mints = s.mints := by
    unfold u
    split_ifs <;> rfl
  split_ifs
  · rfl
  · exact hu

@[simp] theorem State.put_mints (who cls space a : Nat) (bs : List Byte) (rt : Option Nat) :
    (s.put who cls space a bs rt).1.mints = s.mints := by
  unfold State.put
  split
  · rfl
  · rfl
  · extract_lets g u
    have hu : u.mints = s.mints := by
      unfold u State.noteNonRt
      split_ifs <;> rfl
    split_ifs
    · have hinj : ((s.count g 3).useInject g 1).1.mints = s.mints := State.useInject_mints ..
      split <;> rename_i he <;> rw [he] at hinj
      · exact hinj
      · exact (State.storeVault_mints ..).trans hinj
    · simp only [State.enqueue_mints, State.spend_mints, hu]
    · exact hu

/-! Queues and events. -/

@[simp] theorem State.msix_mints (a v : Nat) : (s.msix a v).mints = s.mints := by
  unfold State.msix
  extract_lets
  split_ifs <;> rfl

@[simp] theorem State.qSignal_mints (a q : Nat) : (s.qSignal a q).mints = s.mints := by
  unfold State.qSignal
  extract_lets
  split_ifs
  · rfl
  · exact State.msix_mints ..
  · rfl

@[simp] theorem State.ringPut_mints (a q cls : Nat) (bs : List Byte) : (s.ringPut a q cls bs).1.mints = s.mints := by
  unfold State.ringPut
  extract_lets n st bs' rt
  split_ifs
  · rfl
  · rfl
  · have hput := State.put_mints (s := s) a cls (s.qctl a q ACC_Q_CTRL_space) (s.qBase a q + 64 * (s.qTail a q % s.qSize a q)) bs' rt
    split <;> rename_i he <;> rw [he] at hput
    · exact hput
    · exact (State.qSignal_mints ..).trans hput

@[simp] theorem State.legInt_mints (a bits : Nat) : (s.legInt a bits).mints = s.mints := by
  unfold State.legInt
  extract_lets
  split_ifs
  · exact State.msix_mints ..
  · rfl

@[simp] theorem State.legErr_mints (a bits : Nat) : (s.legErr a bits).mints = s.mints := State.legInt_mints ..

@[simp] theorem State.eventAct_mints (p b : Nat) : (s.eventAct p b).1.mints = s.mints := by
  unfold State.eventAct
  extract_lets s1 s2 was s3
  have h2 : s2.mints = s.mints := by
    unfold s2
    split
    · split_ifs
      · split
        · exact State.legInt_mints ..
        · rfl
      · rfl
    · rfl
  split
  · exact h2
  · split
    · exact h2
    · dsimp only
      split
      · exact (State.msix_mints ..).trans h2
      · exact h2

/-! Faults. -/

@[simp] theorem State.syncFaults_mints (p : Nat) : (s.syncFaults p).mints = s.mints := by
  unfold State.syncFaults
  extract_lets un flt s1 s2 on s3 s4 pin flt' s5 s6
  have h2 : s2.mints = s1.mints := State.foldl_mints (fun _ _ => State.wr_mints ..) _ s1
  have h4 : s4.mints = s2.mints := by rw [State.wr_mints, State.wr_mints]
  have h5 : s5.mints = s4.mints := by
    unfold s5
    split <;> rfl
  have h6 : s6.mints = s.mints := by rw [State.wr_mints, h5, h4, h2]
  split
  · rw [State.wr_mints, h6]
  · exact h6

@[simp] theorem State.hapPark_mints (h : Nat) : (s.hapPark h).mints = s.mints := by
  unfold State.hapPark State.hapOff
  extract_lets v s1 s2 st u
  have hu : u.mints = s.mints := by
    unfold u
    split <;> rfl
  exact hu

@[simp] theorem State.syncDevice_mints : s.syncDevice.1.mints = s.mints := by
  unfold State.syncDevice
  extract_lets old now s1 s2 flt s3
  have h3 : s3.mints = s.mints := by
    unfold s3
    split
    · exact State.foldl_mints (fun _ _ => State.hapPark_mints _) _ s2
    · rfl
  clear_value s3
  split
  · rfl
  · exact (State.hwRaw_mints ..).trans h3

@[simp] theorem State.noteCause_mints (outs : List Nat) : (s.noteCause outs).mints = s.mints :=
  State.foldl_mints (fun _ _ => by rfl) outs s

@[simp] theorem State.collect_mints (p i : Nat) : (s.collect p i).1.mints = s.mints := by
  unfold State.collect
  extract_lets flt s1 s2 s3 note act code own mgr rst flt' s4 s5 s6
  have h2 : s2.mints = s.mints := State.syncFaults_mints (s := s1.count (fltPage 2) 0) p
  have h3 : s3.mints = s2.mints := by
    unfold s3
    refine State.foldl_mints (fun u a => ?_) _ s2
    split
    · exact State.legErr_mints ..
    · rfl
  have h4 : s4.mints = s3.mints := by
    unfold s4
    split <;> rfl
  have h5 : s5.mints = s4.mints := by
    unfold s5
    split
    · exact State.noteCause_mints _
    · rfl
  have h6 : s6.mints = s5.mints := by
    unfold s6
    split
    · exact State.noteCause_mints _
    · rfl
  have h : s6.mints = s.mints := h6.trans (h5.trans (h4.trans (h3.trans h2)))
  clear_value s6
  dsimp only
  split
  · exact State.syncDevice_mints.trans h
  · exact h

@[simp] theorem State.faultAct_mints (p i : Nat) : (s.faultAct p i).1.mints = s.mints := by
  unfold State.faultAct
  split_ifs
  · rfl
  · exact State.collect_mints p i


/-! The account reset (R284). -/

@[simp] theorem State.overRegs_mints (f : Nat → Bool) (g : Nat → Word → Word) : (s.overRegs f g).mints = s.mints :=
  State.foldl_mints (fun _ _ => State.setReg_mints ..) _ s

@[simp] theorem State.syncLayer_mints (l : Nat) : (s.syncLayer l).mints = s.mints := by
  unfold State.syncLayer
  extract_lets
  simp only [State.wr_mints]

@[simp] theorem State.dropLayers_mints (a : Nat) : (s.dropLayers a).mints = s.mints := by
  unfold State.dropLayers
  extract_lets ls u
  refine (State.foldl_mints (fun t l => ?_) ls u).trans rfl
  extract_lets t'
  have ht : t'.mints = t.mints := (State.foldl_mints (fun _ _ => State.wrA_mints ..) _ _).trans (State.wr_mints ..)
  rw [State.syncDirty, State.wr_mints, State.syncLayer_mints, ht]

@[simp] theorem State.blankOwned_mints (a : Nat) : (s.blankOwned a).mints = s.mints := rfl

@[simp] theorem State.dropOutputEscrow_mints (a : Nat) : (s.dropOutputEscrow a).mints = s.mints := by
  refine State.foldl_mints (fun t p => ?_) _ s
  rw [State.wr_mints]
  exact State.foldl_mints (fun t r => State.foldl_mints (fun _ _ => State.setReg_mints ..) _ t) _ t

@[simp] theorem State.markPending_mints (pages : List Nat) (v : Nat) : (s.markPending pages v).mints = s.mints :=
  State.foldl_mints (fun _ _ => State.wr_mints ..) pages s

@[simp] theorem State.syncBusy_mints (outs : Nat) : (s.syncBusy outs).mints = s.mints :=
  State.foldl_mints (fun _ _ => State.wr_mints ..) _ s

@[simp] theorem State.dropCommits_mints (a : Nat) : (s.dropCommits a).1.mints = s.mints := by
  unfold State.dropCommits
  extract_lets st live late unrec link s1 s2 s3
  have h1 : s1.mints = s.mints := by
    unfold s1
    split
    · split <;> rfl
    · rfl
  split
  · rfl
  · split
    extract_lets s4 gen r s5
    have h3 : s3.mints = s1.mints := rfl
    have h5 : s5.mints = s.mints := by
      rw [State.setReg_mints, State.syncBusy_mints, State.markPending_mints, h3, h1]
    refine (State.foldl_mints (fun t r => ?_) _ s5).trans h5
    exact State.write1_mints r

@[simp] theorem State.dropQueues_mints (a : Nat) : (s.dropQueues a).mints = s.mints := by
  unfold State.dropQueues
  extract_lets s1 s2
  exact (State.overRegs_mints ..).trans (State.overRegs_mints ..)

@[simp] theorem State.dropJobs_mints (a : Nat) : (s.dropJobs a).mints = s.mints := by
  unfold State.dropJobs
  extract_lets u
  have hu : u.mints = s.mints := by
    refine State.foldl_mints (fun t e => ?_) _ s
    split
    · split
      · exact (State.wr_mints ..).trans (State.setEngine_mints ..)
      · rfl
    · rfl
  clear_value u
  exact hu

@[simp] theorem State.syncNs_mints (a : Nat) : (s.syncNs a).mints = s.mints := by
  unfold State.syncNs
  extract_lets ch mine q u
  rw [State.foldl_mints (fun _ _ => State.setReg_mints ..), State.wr_mints, State.wr_mints]

@[simp] theorem State.dropMessages_mints (a : Nat) : (s.dropMessages a).mints = s.mints := by
  unfold State.dropMessages
  extract_lets s1 s2
  have h1 : s1.mints = s.mints := State.foldl_mints (fun _ _ => State.setSafe_mints ..) _ s
  have h2 : s2.mints = s.mints := (State.syncNs_mints a).trans h1
  split
  · rw [State.syncNs_mints, State.syncNs_mints, h2]
  · exact h2

@[simp] theorem State.setPower_mints (p v : Nat) : (s.setPower p v).mints = s.mints := State.wr_mints ..

@[simp] theorem State.setState_mints (a st : Nat) : (s.setState a st).mints = s.mints :=
  (State.storeVault_mints ..).trans (State.wr_mints ..)

@[simp] theorem State.notice_mints (a kind old new : Nat) : (s.notice a kind old new).mints = s.mints := by
  unfold State.notice
  extract_lets n s1 s2
  rw [State.storeVault_mints, State.storeVault_mints, State.setAcct_mints]

/-! The records of cheques. -/

@[simp] theorem State.markTransparent_mints (parent layer : Nat) : (s.markTransparent parent layer).mints = s.mints := by
  unfold State.markTransparent
  split <;> rfl

@[simp] theorem State.lateEffect_mints (parent layer out : Nat) : (s.lateEffect parent layer out).mints = s.mints :=
  State.markTransparent_mints ..

@[simp] theorem State.dropRecord_mints (id : Nat) : (s.dropRecord id).mints = s.mints := by
  unfold State.dropRecord
  split
  · rfl
  · split <;> rfl

@[simp] theorem State.syncPress_mints (p : Nat) : (s.syncPress p).mints = s.mints := by
  unfold State.syncPress
  extract_lets
  simp only [State.wr_mints]

/-! The word at which a mint stands: no fault, event or account reset moves it. -/

/-- The mints are in canonical form, and mint `m` stands at word `pc` of its routine. -/
structure State.AtPc (s : State) (m pc : Nat) : Prop where
  wf : Tbl.wf (fun _ => MintS.zero) s.mints = true
  pc : (s.mint m).pc = pc

variable {m pc : Nat}

theorem State.AtPc.of_mints (h : s.AtPc m pc) (e : t.mints = s.mints) : t.AtPc m pc :=
  ⟨e ▸ h.wf, (congrArg MintS.pc (State.mint_congr e m)).trans h.pc⟩

theorem State.AtPc.of_fst {γ : Type} {x : State × γ} {y : γ} (e : x = (t, y)) (h : x.1.AtPc m pc) : t.AtPc m pc := by
  subst e
  exact h

/-- A change of a mint that leaves its program counter. -/
theorem State.AtPc.setMint (h : s.AtPc m pc) {j : Nat} {v : MintS} (hv : v.pc = (s.mint j).pc) : (s.setMint j v).AtPc m pc := by
  refine ⟨Tbl.wf_set _ _ h.wf, ?_⟩
  by_cases hj : m = j
  · subst hj
    rw [State.mint_setMint_same h.wf, hv, h.pc]
  · rw [State.mint_setMint_other h.wf _ hj, h.pc]

theorem State.AtPc.endFetches (h : s.AtPc m pc) (f : Cheque → Stream → Bool) : (s.endFetches f).AtPc m pc := by
  unfold State.endFetches
  extract_lets ends ids one shut
  refine foldl_holds (P := fun (u : State) => u.AtPc m pc) ids h fun (u : State) id hu => ?_
  split
  · exact hu
  · next c _ =>
    extract_lets u'
    have hu' : u'.AtPc m pc := hu.of_mints (State.setCheque_mints ..)
    split
    · exact hu'.setMint rfl
    · exact hu'

theorem State.AtPc.retireRaw (h : s.AtPc m pc) (j : Nat) : (s.retireRaw j).1.AtPc m pc := by
  unfold State.retireRaw
  extract_lets p u
  have hu : (u.hwFieldRaw p ⟨0x084, 4, 24 + j % 8, 24 + j % 8⟩ 0).1.AtPc m pc :=
    h.of_mints ((State.hwFieldRaw_mints ..).trans (State.wr_mints ..))
  exact (hu.of_mints (State.wr_mints ..)).setMint rfl

theorem State.AtPc.leaveRaw (h : s.AtPc m pc) (j : Nat) : (s.leaveRaw j).1.AtPc m pc := by
  have hl : (s.setMint j ((s.mint j).leave s.now)).AtPc m pc := h.setMint rfl
  unfold State.leaveRaw
  extract_lets u
  split
  · exact hl.retireRaw j
  · exact hl

theorem State.AtPc.abandonRaw (h : s.AtPc m pc) (id : Nat) : (s.abandonRaw id).1.AtPc m pc := by
  unfold State.abandonRaw
  split
  · exact h
  · next c _ =>
    extract_lets s1
    have h1 : s1.AtPc m pc := h.of_mints (State.setPress_mints ..)
    split
    next s2 sg he =>
    have h2 : s2.AtPc m pc := by
      split at he
      · exact State.AtPc.of_fst he (h1.leaveRaw _)
      · exact State.AtPc.of_fst he h1
    extract_lets s3 s4
    have h3 : s3.mints = s2.mints := by
      unfold s3
      split
      · exact State.markTransparent_mints ..
      · rfl
    have h4 : s4.mints = s3.mints := by
      unfold s4
      split
      · exact State.setAcct_mints ..
      · rfl
    refine h2.of_mints ?_
    rw [State.syncPress_mints, State.count_mints, State.setCheque_mints, h4, h3]

theorem State.AtPc.abandonAll (h : s.AtPc m pc) (ids : List Nat) : (s.abandonAll ids).1.AtPc m pc := by
  induction ids generalizing s with
  | nil => exact h
  | cons id ids ih => exact ih (h.abandonRaw id)

theorem State.AtPc.resetActions (h : s.AtPc m pc) (a : Nat) (flr : Bool) : (s.resetActions a flr).1.AtPc m pc := by
  unfold State.resetActions
  extract_lets s1 s2
  have h1 : s1.AtPc m pc := (h.of_mints (State.dropLayers_mints a)).endFetches _
  have h2 : s2.AtPc m pc := h1.of_mints ((State.dropOutputEscrow_mints a).trans (State.blankOwned_mints a))
  split
  next s3 sg he =>
  have h3 : s3.AtPc m pc := .of_fst he (h2.of_mints (State.dropCommits_mints a))
  split
  next s4 sg' he' =>
  have h4 : s4.AtPc m pc := .of_fst he' (h3.abandonAll _)
  extract_lets s5 s6 s7 _ s8
  have h5 : s5.mints = s4.mints := (State.dropJobs_mints a).trans (State.dropQueues_mints a)
  have h6 : s6.mints = s5.mints := State.dropMessages_mints a
  have h7 : s7.mints = s6.mints := State.foldl_mints (fun _ _ => State.hapPark_mints _) _ s6
  have h8 : s8.mints = s7.mints := by
    unfold s8
    split
    · exact State.setAcct_mints ..
    · rfl
  exact h4.of_mints (h8.trans (h7.trans (h6.trans h5)))

theorem State.AtPc.beginReset (h : s.AtPc m pc) (a cause : Nat) : (s.beginReset a cause).1.AtPc m pc := by
  unfold State.beginReset State.beginResetFrom
  extract_lets st
  split
  · exact h
  · split
    next s1 sg he =>
    have h1 : s1.AtPc m pc := .of_fst he (h.of_mints (State.hwRec_mints _))
    split
    next s2 sg' he' =>
    have h2 : s2.AtPc m pc := .of_fst he' (h1.resetActions _ _)
    extract_lets _ s3 s4
    refine h2.of_mints ?_
    rw [State.setPower_mints, State.wr_mints, State.setState_mints, State.setAcct_mints]

/-- One signal leaves every mint at its word. -/
theorem State.AtPc.act (h : s.AtPc m pc) (g : Sig) : (s.act g).1.AtPc m pc := by
  cases g with
  | event p b => exact h.of_mints (State.eventAct_mints p b)
  | fault p i => exact h.of_mints (State.faultAct_mints p i)
  | entry a bytes =>
    simp only [State.act]
    split
    · exact h
    · exact h.of_mints (State.ringPut_mints ..)
  | reset a cause => exact h.beginReset a cause
  | notice a k old new => exact h.of_mints (State.notice_mints ..)

theorem State.AtPc.deliver (h : s.AtPc m pc) (n : Nat) (gs : List Sig) : (State.deliver n gs s).AtPc m pc := by
  induction n generalizing gs s with
  | zero => exact h
  | succ n ih =>
    cases gs with
    | nil => exact h
    | cons g gs => exact ih (h.act g) _

theorem State.AtPc.syncNoMint (h : s.AtPc m pc) (p : Nat) : (s.syncNoMint p).AtPc m pc := by
  unfold State.syncNoMint State.setLevel
  extract_lets u
  split
  · exact h
  · split
    · exact (h.of_mints (t := u) rfl).deliver ..
    · exact h.of_mints (t := u) rfl

theorem State.AtPc.leaveMint (h : s.AtPc m pc) (j : Nat) : (s.leaveMint j).AtPc m pc :=
  (((h.leaveRaw j).deliver ..).syncNoMint _).of_mints (State.syncPress_mints _)

theorem State.AtPc.bounceCheque (h : s.AtPc m pc) (id : Nat) : (s.bounceCheque id).AtPc m pc := by
  unfold State.bounceCheque
  split
  · exact h
  · extract_lets u
    have hu : u.mints = s.mints := by
      unfold u
      split
      · exact State.lateEffect_mints ..
      · rfl
    refine (h.of_mints ?_).deliver ..
    rw [State.count_mints, State.dropRecord_mints, hu]

/-- A mint whose cheque bounces goes to no other word: it only leaves the cheque (R136). -/
theorem State.AtPc.bounce (h : s.AtPc m pc) (j : Nat) : (s.bounce j).AtPc m pc := by
  unfold State.bounce
  split
  · exact h
  · exact (h.bounceCheque _).leaveMint j

end Sys2Proof.Machine
end

section
/-! PROOFS. The inactive elements of a lane instruction (R129): each lane instruction keeps them where it goes on to the next word. -/

namespace Sys2Proof.Machine

/-! What an instruction with pe = 1 leaves (R129). -/

variable {s : State} {v w : MintS} {i : MI} {m op : Nat} {c : Cheque} {sem : MI → Cheque → MintS → Ran}

/-- From `v` to `w` no inactive element of group d changes, and no inactive bit of predicate d. -/
def MintS.inactiveKept (v w : MintS) (i : MI) : Prop :=
  ∀ k, k ∉ v.active i → w.v i.d k = v.v i.d k ∧ (w.p i.d).getLsbD k = (v.p i.d).getLsbD k

/-- The instruction bounces, waits, or goes on with the inactive elements kept. -/
inductive Ran.Masked (v : MintS) (i : MI) : Ran → Prop where
  | bad : Ran.Masked v i .bad
  | wait : Ran.Masked v i .wait
  | go {w : MintS} (h : v.inactiveKept w i) : Ran.Masked v i (.go w)

theorem MintS.inactiveKept_of_laned {f : Nat → Word} (h : v.laned w i f) : v.inactiveKept w i := by
  obtain ⟨hw, -, hother⟩ := h
  intro k hk
  refine ⟨hother _ fun j hj he => hk ?_, ?_⟩
  · obtain rfl : k = j := Nat.add_left_cancel he
    exact hj
  · rw [hw]
    rfl

theorem Ran.Masked.lanes (h : MintOk v) (f : Nat → Word) : Ran.Masked v i (.go (v.lanes i f)) :=
  .go (MintS.inactiveKept_of_laned (MintS.lanes_laned h.vreg i f))

/-- A comparison writes the active bits of predicate d. -/
theorem Ran.Masked.setP (h : MintOk v) (g : Nat → Bool) :
    Ran.Masked v i (.go (v.setP i.d (BitVec.ofNat 32 ((v.active i).foldl (fun n k => setBit n k (g k)) (v.p i.d).toNat)))) := by
  refine .go fun k hk => ⟨rfl, ?_⟩
  have hp : ∀ x, (v.setP i.d x).p i.d = x := fun x => Tbl.get_set_same _ x h.preg
  rw [hp, BitVec.getLsbD_ofNat, setBits_bit, if_neg hk, BitVec.testBit_toNat]
  by_cases hb : k < 32
  · rw [decide_eq_true hb, Bool.true_and]
  · rw [decide_eq_false hb, Bool.false_and, BitVec.getLsbD_of_ge _ _ (Nat.le_of_not_lt hb)]

/-- A fold that writes elements of group d at active indices alone. -/
theorem MintS.inactiveKept_foldl {β : Type} (h : MintOk v) (es : List (Nat × β)) (hes : ∀ e ∈ es, e.1 ∈ v.active i)
    (g : MintS → Nat × β → MintS) (hg : ∀ t e, g t e = t ∨ ∃ x, g t e = t.setV i.d e.1 x) : v.inactiveKept (es.foldl g v) i := by
  intro k hk
  have key : Tbl.wf (fun _ => (0 : Word)) (es.foldl g v).vreg = true ∧ (es.foldl g v).v i.d k = v.v i.d k
      ∧ (es.foldl g v).preg = v.preg := by
    refine List.foldlRecOn (motive := fun t => Tbl.wf (fun _ => (0 : Word)) t.vreg = true ∧ t.v i.d k = v.v i.d k ∧ t.preg = v.preg)
      es g ⟨h.vreg, rfl, rfl⟩ fun t ⟨hwf, hv, hp⟩ e he => ?_
    obtain hx | ⟨x, hx⟩ := hg t e
    · rw [hx]
      exact ⟨hwf, hv, hp⟩
    · have hne : 4 * i.d + k ≠ 4 * i.d + e.1 := fun heq => hk (Nat.add_left_cancel heq ▸ hes e he)
      rw [hx]
      exact ⟨Tbl.wf_set _ _ hwf, (Tbl.get_set_other _ hwf hne).trans hv, hp⟩
  obtain ⟨-, hv, hp⟩ := key
  refine ⟨hv, ?_⟩
  rw [MintS.p, MintS.p, hp]

/-! One instruction that may bounce or wait. -/

/-- An instruction that waits leaves the machine as it is. -/
theorem runOp_wait (hr : s.runs m op c i) (hs : sem i c (s.mint m) = .wait) : s.runOp m op sem = s := by
  obtain ⟨⟨id, hcur⟩, hop, hlim, -⟩ := hr
  unfold State.runOp
  rw [hcur]
  simp only [hop, ne_eq, not_true_eq_false, if_false, hlim, Bool.false_eq_true, hs]

/-- An instruction that has gone on to the next word kept the inactive elements. -/
theorem runOp_inactiveKept (hc : s.canonical = true) (hr : s.runs m op c i) (hm : (sem i c (s.mint m)).Masked (s.mint m) i)
    (hpc : ((s.runOp m op sem).mint m).pc = (s.mint m).pc + 1) : (s.mint m).inactiveKept ((s.runOp m op sem).mint m) i := by
  generalize hq : sem i c (s.mint m) = r at hm
  cases hm with
  | bad =>
    have hat : s.AtPc m (s.mint m).pc := ⟨(keeps_of_canonical hc).mints, rfl⟩
    rw [runOp_bad hr hq, (hat.bounce m).pc] at hpc
    omega
  | wait =>
    rw [runOp_wait hr hq] at hpc
    omega
  | go h =>
    obtain ⟨-, hmint⟩ := runOp_go hc hr hq
    rw [hmint]
    exact h

/-! A layer that becomes transparent before its stream is read (R115) changes nothing that the instruction sees. -/

/-- A mint's next instruction: the mint runs a cheque, and the word at its program counter is decoded. -/
theorem current_eq_some {id : Nat} {x : Option MI} : s.current m = some (id, c, x) ↔
    (s.mint m).phase = .running ∧ (s.mint m).cheque = some id ∧ s.cheque id = some c
      ∧ x = if (s.mint m).codeLen ≤ (s.mint m).pc then none
        else decodeMint (Tbl.get (fun _ => 0) (s.mint m).code (s.mint m).pc) (s.mint m).vl c.acct.isSome := by
  unfold State.current
  dsimp only
  constructor
  · intro h
    split at h
    · cases h
    next hphase =>
    split at h
    · cases h
    next hid =>
    split at h
    · cases h
    next hcheque =>
    simp only [Option.some.injEq, Prod.mk.injEq] at h
    obtain ⟨rfl, rfl, rfl⟩ := h
    exact ⟨not_not.1 hphase, hid, hcheque, rfl⟩
  · rintro ⟨hphase, hid, hcheque, rfl⟩
    simp only [hphase, hid, hcheque, ne_eq, not_true_eq_false, if_false]

/-- The next instruction depends on the mint, and of the cheque on its kind. -/
theorem current_congr {t : State} {id : Nat} {d : Cheque} {x : Option MI} (h : s.current m = some (id, c, x))
    (hm : t.mint m = s.mint m) (hd : t.cheque id = some d) (ha : d.acct = c.acct) : t.current m = some (id, d, x) := by
  obtain ⟨hphase, hid, -, hx⟩ := current_eq_some.1 h
  rw [current_eq_some, hm, ha]
  exact ⟨hphase, hid, hd, hx⟩

theorem State.cheque_markTransparent (h : Tbl.wf (fun _ => none) s.cheques = true) {id : Nat} (layer : Nat) (hc : s.cheque id = some c) :
    ∃ d : Cheque, (s.markTransparent id layer).cheque id = some d ∧ d.acct = c.acct ∧ d.routine = c.routine := by
  unfold State.markTransparent
  rw [hc]
  exact ⟨_, State.cheque_setCheque_same h .., rfl, rfl⟩

theorem State.markTransparent_regs (id layer : Nat) : (s.markTransparent id layer).regs = s.regs := by
  unfold State.markTransparent
  split <;> rfl

/-- Which error is armed depends on the registers alone. -/
theorem State.unarmed.congr {t : State} {p n : Nat} (h : s.unarmed p n) (e : t.regs = s.regs) : t.unarmed p n := by
  have hrd : ∀ f, t.rd p f = s.rd p f := fun f => congrArg (fun l => f.get (Tbl.get regReset l (fkey p f 0))) e
  simpa only [State.unarmed, hrd] using h

theorem lateEffect_runs {id : Nat} (hc : s.canonical = true) (hr : s.runs m op c i) (hid : s.current m = some (id, c, some i))
    (layer out : Nat) : ∃ d, (s.lateEffect id layer out).runs m op d i := by
  obtain ⟨-, hop, hlim, harm⟩ := hr
  obtain ⟨-, -, hcheque, -⟩ := current_eq_some.1 hid
  obtain ⟨d, hd, hacct, hroutine⟩ := State.cheque_markTransparent (keeps_of_canonical hc).cheques layer hcheque
  have hmint : (s.lateEffect id layer out).mint m = s.mint m := State.mint_congr (State.lateEffect_mints ..) m
  refine ⟨d, ⟨id, current_congr hid hmint hd hacct⟩, hop, ?_, harm.congr (State.markTransparent_regs ..)⟩
  rw [hmint, ← hlim, overLimit, overLimit, hacct, hroutine]

theorem State.touchStream_mints : (s.touchStream m op).mints = s.mints := by
  unfold State.touchStream
  split
  · split
    · split
      · exact State.lateEffect_mints ..
      · rfl
    · rfl
  · rfl

/-- The instruction still runs after its stream's layer has become transparent. -/
theorem touchStream_runs (hc : s.canonical = true) (hr : s.runs m op c i) : ∃ d, (s.touchStream m op).runs m op d i := by
  have ⟨⟨id, hid⟩, _⟩ := hr
  unfold State.touchStream
  rw [hid]
  dsimp only
  split
  · split
    · exact lateEffect_runs hc hr hid _ _
    · exact ⟨c, hr⟩
  · exact ⟨c, hr⟩

/-! The lane instructions, each by its shape. -/

/-- A command of mint `m` whose meaning keeps the inactive elements, the stream it reads touched first where it reads one. -/
def MaskedExec (m : MintId) (op : Nat) (x : Instr) (s : State) : Prop :=
  ∃ u sem, exec x s = .next (u.runOp m.val op sem) ∧ (u = s ∨ u = s.touchStream m.val op)
    ∧ ∀ i c v, MintOk v → (sem i c v).Masked v i

section
variable {m : MintId} {x : Instr}

theorem MaskedExec.lane {f : MI → MintS → Nat → Word} (h : exec x s = .next (s.laneOp m.val op f)) : MaskedExec m op x s :=
  ⟨s, _, h, .inl rfl, fun _ _ _ hv => .lanes hv _⟩

theorem MaskedExec.compare {f : Word → Word → Option Ordering} (h : exec x s = .next (s.cmpOp m.val op f)) : MaskedExec m op x s :=
  ⟨s, _, h, .inl rfl, fun _ _ _ hv => .setP hv _⟩

/-- A lookup bounces where an active element's word is not readable, else it is a lane instruction. -/
theorem MaskedExec.lookup {ok : MI → MintS → Nat → Bool} {f : MI → MintS → Nat → Word}
    (h : exec x s = .next (s.runOp m.val op fun i _ v => if (v.active i).all (ok i v) then .go (v.lanes i (f i v)) else .bad)) :
    MaskedExec m op x s := by
  refine ⟨s, _, h, .inl rfl, fun i _ v hv => ?_⟩
  split
  · exact .lanes hv _
  · exact .bad

theorem MaskedExec.bld : MaskedExec m 0x10 (.bld m) s := by
  refine ⟨s.touchStream m.val 0x10, _, rfl, .inr rfl, fun i c v hv => ?_⟩
  dsimp only
  split
  · exact .bad
  · split
    · refine .go (MintS.inactiveKept_foldl hv _ (fun e he => (List.of_mem_zip he).1) _ fun t e => ?_)
      split
      · exact .inr ⟨_, rfl⟩
      · exact .inl rfl
    · exact .wait

/-- The lane instructions but MOVH (R130), by opcode. -/
def laneInstrs (m : MintId) : List (Nat × Instr) :=
  [(0x00, .iadd m), (0x01, .isub m), (0x02, .imul m), (0x03, .iand m), (0x04, .ior m), (0x05, .shl m), (0x06, .shr m),
    (0x07, .fadd m), (0x08, .fsub m), (0x09, .fmul m), (0x0A, .fma m), (0x0B, .fmin m), (0x0C, .fmax m), (0x0D, .fsat m),
    (0x0E, .frcp m), (0x0F, .fbld m), (0x10, .bld m), (0x11, .hfma m), (0x12, .cvtif m), (0x13, .cvtfi m), (0x14, .cvthf m),
    (0x15, .cvtfh m), (0x16, .unpk8 m), (0x17, .pack8 m), (0x18, .fcmp m), (0x19, .icmp m), (0x1A, .sel m), (0x1B, .lut m),
    (0x1C, .lutf m), (0x1D, .mov m)]

theorem MaskedExec.of_mem_laneInstrs : ∀ e ∈ laneInstrs m, MaskedExec m e.1 e.2 s := by
  simp only [laneInstrs, List.forall_mem_cons]
  exact ⟨.lane rfl, .lane rfl, .lane rfl, .lane rfl, .lane rfl, .lane rfl, .lane rfl, .lane rfl, .lane rfl, .lane rfl,
    .lane rfl, .lane rfl, .lane rfl, .lane rfl, .lane rfl, .lane rfl, .bld, .lane rfl, .lane rfl, .lane rfl,
    .lane rfl, .lane rfl, .lane rfl, .lane rfl, .compare rfl, .compare rfl, .lane rfl, .lookup rfl, .lookup rfl, .lane rfl,
    List.forall_mem_nil _⟩

/-- A masked command that has gone on to the next word kept the inactive elements. -/
theorem MaskedExec.inactiveKept {t : State} (h : MaskedExec m op x s) (hc : s.canonical = true) (hr : s.runs m.val op c i)
    (ht : exec x s = .next t) (hpc : (t.mint m.val).pc = (s.mint m.val).pc + 1) :
    (s.mint m.val).inactiveKept (t.mint m.val) i := by
  obtain ⟨u, sem, hx, hu, hm⟩ := h
  obtain rfl : u.runOp m.val op sem = t := Host.Outcome.next.inj (hx.symm.trans ht)
  have hu' : u.mint m.val = s.mint m.val ∧ u.canonical = true ∧ ∃ d, u.runs m.val op d i := by
    obtain rfl | rfl := hu
    · exact ⟨rfl, hc, c, hr⟩
    · exact ⟨State.mint_congr State.touchStream_mints m.val,
        (keeps_State_touchStream (keeps_of_canonical hc)).canonical, touchStream_runs hc hr⟩
  obtain ⟨hmint, hcu, d, hru⟩ := hu'
  rw [← hmint] at hpc ⊢
  exact runOp_inactiveKept hcu hru (hm i d _ (mintOk_of_canonical hcu _)) hpc

end

/-- Settles O9: the decoder's checks give the fields, `mem_active` and `storeOk_load` the operands, the control instructions' one
rule the branches; a lane instruction that goes on writes active elements alone, and one that bounces or waits does not go on. -/
theorem mintWordFormat : Obligations.MintWordFormat := by
  unfold Obligations.MintWordFormat
  refine ⟨fun w vl effect i => decodeMint_format, fun v i n k => ⟨rfl, rfl, MintS.mem_active⟩, fun a n al => storeOk_load,
    fun m c i s hc hpe ht => ⟨fun hr => ⟨_, rfl, ?br⟩, fun hr => ⟨_, rfl, ?brn⟩⟩, fun m c i s t hc hpe e he hr ht hpc k hk hp => ?lanes⟩
  case br =>
    rw [controlOp_pc hc hr ht]
    simp only [hpe, Bool.not_true, Bool.false_or, bne_iff_ne]
  case brn =>
    rw [controlOp_pc hc hr ht]
    simp only [beq_iff_eq]
  case lanes =>
    have hmask : MaskedExec m e.1 e.2 s := MaskedExec.of_mem_laneInstrs e he
    exact hmask.inactiveKept hc hr ht hpc k fun hact => Bool.false_ne_true (hp.symm.trans ((MintS.mem_active.1 hact).2 hpe))

end Sys2Proof.Machine
end

section
/-! PROOFS. The FIFO's error code on the word of a pixel that is read (R182), by what the check of the word meets (R325). -/

namespace Sys2Proof.Machine
variable {s t : State} {m p i k : Nat} {px : FifoPx}

/-! What a check meets (R325): an armed injection gives its pattern, and only an armed one does. -/

theorem useInject_snd_eq_none : (s.useInject p i).2 = none ↔ s.unarmed p i := by
  refine ⟨fun h => ?_, fun h => congrArg Prod.snd (useInject_unarmed h)⟩
  by_contra harmed
  have hpattern : (s.useInject p i).2 = some _ := congrArg Prod.snd (if_neg harmed)
  exact Option.some_ne_none _ (hpattern.symm.trans h)

/-! The error code of the FIFO's word (R182), by what its check meets. -/

/-- A check that meets no injection finds no error. -/
theorem fifoEcc_unarmed (h : s.unarmed (outPage m 1) 0) : s.fifoEcc m (some px) = (s, some px) := by
  simp only [State.fifoEcc, useInject_unarmed h]

/-- Pattern 0 is a corrected error. -/
theorem fifoEcc_corrected (h : s.useInject (outPage m 1) 0 = (t, some 0)) :
    s.fifoEcc m (some px) = (t.count (outPage m 7) 7, some px) := by
  simp only [State.fifoEcc, h]

/-- Every other pattern is an uncorrectable error. -/
theorem fifoEcc_uncorrectable (h : s.useInject (outPage m 1) 0 = (t, some (k + 1))) :
    s.fifoEcc m (some px) = (t.fault (outPage m 1) 0, none) := by
  simp only [State.fifoEcc, h]

/-- Settles O36, by what the check of the word meets: no armed injection, pattern 0 or another pattern. -/
theorem fifoErrors : Obligations.FifoErrors := by
  unfold Obligations.FifoErrors
  intro m px s e
  refine ⟨fun hnone => ?unarmed, fun hzero => ?corrected, fun ⟨k, hsucc⟩ => ?uncorrectable⟩
  case unarmed => exact fifoEcc_unarmed (useInject_snd_eq_none.1 hnone)
  case corrected => exact fifoEcc_corrected (Prod.ext rfl hzero)
  case uncorrectable => exact fifoEcc_uncorrectable (Prod.ext rfl hsucc)

end Sys2Proof.Machine
end

section
/-! PROOFS. The whole machine: a step is one command or one tick of the time base, every command keeps the queue, the time base and the
canonical tables, and every command that some sender can form answers a next state. -/

namespace Sys2Proof.Machine

variable {q : List Instr} {n : Nat} {s t : State}

/-- Every command but the loss of VBAT keeps the queue, the time base and the canonical tables: the law of its meaning says so. -/
theorem exec_keeps {c : Instr} (hc : c ≠ .vbatLow) (hk : Keeps q n s) (h : exec c s = .next t) : Keeps q n t := by
  cases c with
  | registerWrite => exact keeps_execRegisterWrite hk _ h
  | pageEnable => exact keeps_execPageEnable hk _ h
  | sleepReq => exact keeps_execSleepReq hk _ h
  | blockReset => exact keeps_execBlockReset hk _ h
  | pageLock => exact keeps_execPageLock hk _ h
  | evtPendingClear => exact keeps_execEvtPendingClear hk _ h
  | faultClear => exact keeps_execFaultClear hk _ h
  | fltInjectArm => exact keeps_execFltInjectArm hk _ h
  | tallyLatch => exact keeps_execTallyLatch hk _ h
  | clrWorst => exact keeps_execClrWorst hk _ h
  | wakeRequest => exact keeps_execWakeRequest hk _ h
  | seqStepIssue => exact keeps_execSeqStepIssue hk _ h
  | seqStepComplete => exact keeps_execSeqStepComplete hk _ h
  | avsRecompute => exact keeps_execAvsRecompute hk _ h
  | avsFallStep => exact keeps_execAvsFallStep hk _ h
  | avsReadback => exact keeps_execAvsReadback hk _ h
  | avsShortfall => exact keeps_execAvsShortfall hk _ h
  | canaryGuardBreach => exact keeps_execCanaryGuardBreach hk _ h
  | canaryRecover => exact keeps_execCanaryRecover hk _ h
  | hsParity => exact keeps_execHsParity hk _ h
  | hsTimeout => exact keeps_execHsTimeout hk _ h
  | lineStart => exact keeps_execLineStart hk _ h
  | frameBoundary => exact keeps_execFrameBoundary hk _ h
  | bandStart => exact keeps_execBandStart hk _ h
  | racingCellRead => exact keeps_execRacingCellRead hk _ h
  | fetchBlock => exact keeps_execFetchBlock hk _ h
  | cellPublish => exact keeps_execCellPublish hk _ h
  | keeperPixel => exact keeps_execKeeperPixel hk _ h
  | latencyToleranceEval => exact keeps_execLatencyToleranceEval hk _ h
  | outputEnable => exact keeps_execOutputEnable hk _ h
  | generatorStart => exact keeps_execGeneratorStart hk _ h
  | outputDisable => exact keeps_execOutputDisable hk _ h
  | outputStop => exact keeps_execOutputStop hk _ h
  | pairLock => exact keeps_execPairLock hk _ h
  | vrrEnable => exact keeps_execVrrEnable hk _ h
  | rmaxWrite => exact keeps_execRmaxWrite hk _ h
  | refEdge => exact keeps_execRefEdge hk _ h
  | refTimeout => exact keeps_execRefTimeout hk _ h
  | commit => exact keeps_execCommit hk _ h
  | syndicateCommit => exact keeps_execSyndicateCommit hk _ h
  | heldCommitTake => exact keeps_execHeldCommitTake hk _ h
  | rebuildDone => exact keeps_execRebuildDone hk _ h
  | memberLate => exact keeps_execMemberLate hk _ h
  | syndicateDecide => exact keeps_execSyndicateDecide hk _ h
  | tableReadySet => exact keeps_execTableReadySet hk _ h
  | lutLoad => exact keeps_execLutLoad hk _ h
  | lutLoadDone => exact keeps_execLutLoadDone hk _ h
  | chequePull => exact keeps_execChequePull hk _ h
  | routineLoad => exact keeps_execRoutineLoad hk _ h
  | iadd => exact keeps_execIadd hk _ h
  | isub => exact keeps_execIsub hk _ h
  | imul => exact keeps_execImul hk _ h
  | iand => exact keeps_execIand hk _ h
  | ior => exact keeps_execIor hk _ h
  | shl => exact keeps_execShl hk _ h
  | shr => exact keeps_execShr hk _ h
  | fadd => exact keeps_execFadd hk _ h
  | fsub => exact keeps_execFsub hk _ h
  | fmul => exact keeps_execFmul hk _ h
  | fma => exact keeps_execFma hk _ h
  | fmin => exact keeps_execFmin hk _ h
  | fmax => exact keeps_execFmax hk _ h
  | fsat => exact keeps_execFsat hk _ h
  | frcp => exact keeps_execFrcp hk _ h
  | fbld => exact keeps_execFbld hk _ h
  | bld => exact keeps_execBld hk _ h
  | hfma => exact keeps_execHfma hk _ h
  | cvtif => exact keeps_execCvtif hk _ h
  | cvtfi => exact keeps_execCvtfi hk _ h
  | cvthf => exact keeps_execCvthf hk _ h
  | cvtfh => exact keeps_execCvtfh hk _ h
  | unpk8 => exact keeps_execUnpk8 hk _ h
  | pack8 => exact keeps_execPack8 hk _ h
  | fcmp => exact keeps_execFcmp hk _ h
  | icmp => exact keeps_execIcmp hk _ h
  | sel => exact keeps_execSel hk _ h
  | lut => exact keeps_execLut hk _ h
  | lutf => exact keeps_execLutf hk _ h
  | mov => exact keeps_execMov hk _ h
  | sadd => exact keeps_execSadd hk _ h
  | smul => exact keeps_execSmul hk _ h
  | lane => exact keeps_execLane hk _ h
  | get => exact keeps_execGet hk _ h
  | getc => exact keeps_execGetc hk _ h
  | put => exact keeps_execPut hk _ h
  | putc => exact keeps_execPutc hk _ h
  | next => exact keeps_execNext hk _ h
  | nexto => exact keeps_execNexto hk _ h
  | smovi => exact keeps_execSmovi hk _ h
  | saddi => exact keeps_execSaddi hk _ h
  | movh => exact keeps_execMovh hk _ h
  | setvl => exact keeps_execSetvl hk _ h
  | ldv => exact keeps_execLdv hk _ h
  | stv => exact keeps_execStv hk _ h
  | lds => exact keeps_execLds hk _ h
  | sts => exact keeps_execSts hk _ h
  | br => exact keeps_execBr hk _ h
  | brn => exact keeps_execBrn hk _ h
  | loop => exact keeps_execLoop hk _ h
  | settle => exact keeps_execSettle hk _ h
  | mintStuck => exact keeps_execMintStuck hk _ h
  | mintRetire => exact keeps_execMintRetire hk _ h
  | mintUnretire => exact keeps_execMintUnretire hk _ h
  | pressClearDone => exact keeps_execPressClearDone hk _ h
  | hpdIrq => exact keeps_execHpdIrq hk _ h
  | hpdUnplug => exact keeps_execHpdUnplug hk _ h
  | partnerArrive => exact keeps_execPartnerArrive hk _ h
  | discoveryDone => exact keeps_execDiscoveryDone hk _ h
  | cableMeasureDone => exact keeps_execCableMeasureDone hk _ h
  | trainingDone => exact keeps_execTrainingDone hk _ h
  | retrain => exact keeps_execRetrain hk _ h
  | portEnable => exact keeps_execPortEnable hk _ h
  | portDisable => exact keeps_execPortDisable hk _ h
  | capEnable => exact keeps_execCapEnable hk _ h
  | capFrameStart => exact keeps_execCapFrameStart hk _ h
  | capLine => exact keeps_execCapLine hk _ h
  | capFrameEnd => exact keeps_execCapFrameEnd hk _ h
  | capMirrorDone => exact keeps_execCapMirrorDone hk _ h
  | clFrameSend => exact keeps_execClFrameSend hk _ h
  | clFrameReceive => exact keeps_execClFrameReceive hk _ h
  | syncLost => exact keeps_execSyncLost hk _ h
  | clPresenceTimeout => exact keeps_execClPresenceTimeout hk _ h
  | memInit => exact keeps_execMemInit hk _ h
  | memTrainDone => exact keeps_execMemTrainDone hk _ h
  | mr4Poll => exact keeps_execMr4Poll hk _ h
  | refreshDue => exact keeps_execRefreshDue hk _ h
  | refreshRepay => exact keeps_execRefreshRepay hk _ h
  | dramRead => exact keeps_execDramRead hk _ h
  | dramWrite => exact keeps_execDramWrite hk _ h
  | powerDownEntry => exact keeps_execPowerDownEntry hk _ h
  | selfRefreshEntry => exact keeps_execSelfRefreshEntry hk _ h
  | selfRefreshExit => exact keeps_execSelfRefreshExit hk _ h
  | deepSleepEntry => exact keeps_execDeepSleepEntry hk _ h
  | deepSleepExit => exact keeps_execDeepSleepExit hk _ h
  | dramExitDone => exact keeps_execDramExitDone hk _ h
  | strictRound => exact keeps_execStrictRound hk _ h
  | strictWindow => exact keeps_execStrictWindow hk _ h
  | vaultAccess => exact keeps_execVaultAccess hk _ h
  | vaultScrub => exact keeps_execVaultScrub hk _ h
  | create => exact keeps_execCreate hk _ h
  | grant => exact keeps_execGrant hk _ h
  | release => exact keeps_execRelease hk _ h
  | activate => exact keeps_execActivate hk _ h
  | quiesce => exact keeps_execQuiesce hk _ h
  | quiesceComplete => exact keeps_execQuiesceComplete hk _ h
  | reset => exact keeps_execReset hk _ h
  | resetComplete => exact keeps_execResetComplete hk _ h
  | destroy => exact keeps_execDestroy hk _ h
  | delegate => exact keeps_execDelegate hk _ h
  | regionList => exact keeps_execRegionList hk _ h
  | regionPerm => exact keeps_execRegionPerm hk _ h
  | flr => exact keeps_execFlr hk _ h
  | vfEnableClear => exact keeps_execVfEnableClear hk _ h
  | portReset => exact keeps_execPortReset hk _ h
  | functionD3 => exact keeps_execFunctionD3 hk _ h
  | functionD0 => exact keeps_execFunctionD0 hk _ h
  | pbDoorbell => exact keeps_execPbDoorbell hk _ h
  | pbRing => exact keeps_execPbRing hk _ h
  | queueEnable => exact keeps_execQueueEnable hk _ h
  | queueDisable => exact keeps_execQueueDisable hk _ h
  | queueDoorbell => exact keeps_execQueueDoorbell hk _ h
  | queueIntTimer => exact keeps_execQueueIntTimer hk _ h
  | copy => exact keeps_execCopy hk _ h
  | fill => exact keeps_execFill hk _ h
  | signal => exact keeps_execSignal hk _ h
  | nop => exact keeps_execNop hk _ h
  | chunkDone => exact keeps_execChunkDone hk _ h
  | ceTurn => exact keeps_execCeTurn hk _ h
  | nsSend => exact keeps_execNsSend hk _ h
  | nsTake => exact keeps_execNsTake hk _ h
  | nsClrDropped => exact keeps_execNsClrDropped hk _ h
  | custodianBoot => exact keeps_execCustodianBoot hk _ h
  | lockstep => exact keeps_execLockstep hk _ h
  | managerRelease => exact keeps_execManagerRelease hk _ h
  | sealWrite => exact keeps_execSealWrite hk _ h
  | exportEnable => exact keeps_execExportEnable hk _ h
  | exportEntry => exact keeps_execExportEntry hk _ h
  | exportHead => exact keeps_execExportHead hk _ h
  | faultScan => exact keeps_execFaultScan hk _ h
  | scanLate => exact keeps_execScanLate hk _ h
  | safeReqAssert => exact keeps_execSafeReqAssert hk _ h
  | safeReqRelease => exact keeps_execSafeReqRelease hk _ h
  | safeForce => exact keeps_execSafeForce hk _ h
  | fltOutToggle => exact keeps_execFltOutToggle hk _ h
  | fltOutPeriodWrite => exact keeps_execFltOutPeriodWrite hk _ h
  | heartbeat => exact keeps_execHeartbeat hk _ h
  | touchScan => exact keeps_execTouchScan hk _ h
  | touchSlot => exact keeps_execTouchSlot hk _ h
  | touchHoldExpiry => exact keeps_execTouchHoldExpiry hk _ h
  | touchRecalEnd => exact keeps_execTouchRecalEnd hk _ h
  | groupStandstill => exact keeps_execGroupStandstill hk _ h
  | touchBankEnable => exact keeps_execTouchBankEnable hk _ h
  | calLoadDone => exact keeps_execCalLoadDone hk _ h
  | hapticEnable => exact keeps_execHapticEnable hk _ h
  | coilCheckDone => exact keeps_execCoilCheckDone hk _ h
  | pwmPeriod => exact keeps_execPwmPeriod hk _ h
  | hapticPlay => exact keeps_execHapticPlay hk _ h
  | hapticStop => exact keeps_execHapticStop hk _ h
  | effectLoad => exact keeps_execEffectLoad hk _ h
  | hapTrip => exact keeps_execHapTrip hk _ h
  | hapTripClear => exact keeps_execHapTripClear hk _ h
  | accelSample => exact keeps_execAccelSample hk _ h
  | accelTimeout => exact keeps_execAccelTimeout hk _ h
  | audioSample => exact keeps_execAudioSample hk _ h
  | gainZcTimeout => exact keeps_execGainZcTimeout hk _ h
  | bridgeLock => exact keeps_execBridgeLock hk _ h
  | fsTimeout => exact keeps_execFsTimeout hk _ h
  | tdmFs => exact keeps_execTdmFs hk _ h
  | chimeHoldExpire => exact keeps_execChimeHoldExpire hk _ h
  | rowEnable => exact keeps_execRowEnable hk _ h
  | columnEnable => exact keeps_execColumnEnable hk _ h
  | legLayerWrite => exact keeps_execLegLayerWrite hk _ h
  | legIntRead => exact keeps_execLegIntRead hk _ h
  | legErrRead => exact keeps_execLegErrRead hk _ h
  | legErrClear => exact keeps_execLegErrClear hk _ h
  | porstRelease => exact keeps_execPorstRelease hk _ h
  | coldReset => exact keeps_execColdReset hk _ h
  | glbReset => exact keeps_execGlbReset hk _ h
  | brownOut => exact keeps_execBrownOut hk _ h
  | railSample => exact keeps_execRailSample hk _ h
  | tempSample => exact keeps_execTempSample hk _ h
  | thermalRelease => exact keeps_execThermalRelease hk _ h
  | vbatLow => exact absurd rfl hc
  | alarmFire => exact keeps_execAlarmFire hk _ h
  | alarmClear => exact keeps_execAlarmClear hk _ h
  | timeBaseRead => exact keeps_execTimeBaseRead hk _ h
  | pcieLinkUp => exact keeps_execPcieLinkUp hk _ h
  | phyError => exact keeps_execPhyError hk _ h
  | aPhyLinkDown => exact keeps_execAPhyLinkDown hk _ h

/-- The loss of VBAT keeps all but the time base. -/
theorem exec_keeps_vbatLow (hk : Keeps q n s) (h : exec .vbatLow s = .next t) : Keeps q t.now t := keeps_execVbatLow hk t h

/-- Every command keeps the queue and the canonical tables. -/
theorem exec_keeps_some_now {c : Instr} (hk : Keeps q n s) (h : exec c s = .next t) : Keeps q t.now t := by
  by_cases hc : c = .vbatLow
  · subst hc
    exact exec_keeps_vbatLow hk h
  · have hkt := exec_keeps hc hk h
    exact hkt.now ▸ hkt

/-- A tick keeps the queue and the canonical tables. -/
theorem idle_keeps (hk : Keeps q n s) : Keeps q (n + 1) s.idle := { hk with now := congrArg (· + 1) hk.now }

/-- Settles O1. -/
theorem stepRunsFrontCommand : Obligations.StepRunsFrontCommand := fun _ _ _ => rfl

/-- Settles O2. -/
theorem emptyQueueTicks : Obligations.EmptyQueueTicks := by
  unfold Obligations.EmptyQueueTicks
  intro s hs
  simp only [step, hs, State.idle]

/-- Settles O3: every table of the state after reset is the empty one. -/
theorem resetIsCanonical : Obligations.ResetIsCanonical := ⟨keeps_reset.canonical, rfl, fun _ => rfl⟩

/-- Settles O4: an empty queue ticks, another runs its front command. -/
theorem everyStepKeepsCanonical : Obligations.EveryStepKeepsCanonical := by
  unfold Obligations.EveryStepKeepsCanonical
  intro s t hs h
  have hk := keeps_of_canonical hs
  unfold step at h
  split at h
  case h_1 =>
    cases h
    exact (idle_keeps hk).canonical
  case h_2 c rest _ => exact (exec_keeps_some_now (hk.requeue rest) h).canonical

/-- Settles O5. -/
theorem commandsKeepQueueAndClock : Obligations.CommandsKeepQueueAndClock := by
  unfold Obligations.CommandsKeepQueueAndClock
  intro c s t hs h
  have hk := keeps_of_canonical hs
  exact ⟨(exec_keeps_some_now hk h).pending, fun hc => (exec_keeps hc hk h).now⟩

/-! Stops. -/

theorem exec_discoveryDone_fault {o : Out} {caps : SinkCaps} {record : List Byte} (h : record.length ≠ 1024) :
    exec (.discoveryDone o caps record) s = .fault .badOperand := if_pos h

theorem exec_custodianBoot_fault {b : BootInput} (h : b.wf = false) : exec (.custodianBoot b) s = .fault .badOperand :=
  if_pos (by rw [h]; rfl)

theorem exec_discoveryDone_next {o : Out} {caps : SinkCaps} {record : List Byte} (h : record.length = 1024) :
    ∃ t, exec (.discoveryDone o caps record) s = .next t := ⟨_, if_neg (not_not_intro h)⟩

theorem exec_custodianBoot_next {b : BootInput} (h : b.wf = true) : ∃ t, exec (.custodianBoot b) s = .next t :=
  ⟨_, if_neg (by rw [h]; exact Bool.false_ne_true)⟩

/-- Settles O6: the meaning of every command is a next state at its head, but for the two commands that check their operand. -/
theorem onlyIllFormedStop : Obligations.OnlyIllFormedStop := by
  unfold Obligations.OnlyIllFormedStop
  refine ⟨fun c s => ?_, fun _ _ _ _ => exec_discoveryDone_fault, fun _ _ => exec_custodianBoot_fault⟩
  cases c
  case discoveryDone o caps record =>
    by_cases h : record.length = 1024
    · exact .inl (exec_discoveryDone_next h)
    · exact .inr ⟨exec_discoveryDone_fault h, beq_false_of_ne h⟩
  case custodianBoot b =>
    cases h : b.wf
    · exact .inr ⟨exec_custodianBoot_fault h, h⟩
    · exact .inl (exec_custodianBoot_next h)
  all_goals exact .inl ⟨_, rfl⟩

end Sys2Proof.Machine
end

section
/-! PROOFS. The path of a register write (R20): the verdict at each of its steps on a write of a whole word, what is left of a write that
stops there, and the bits of the value that a write produces. -/

namespace Sys2Proof.Machine

variable {s : State} {who p off i : Nat} {value : Word} {data : Bool} {rule : Word → Rule} {recs : Word → List Rec}
  {eff : Word → State → State} {r : RegRow}

/-! The value that a write produces (R11). -/

/-- Settles O8: each access type's part of the value is a conjunction of masks, bit by bit. -/
theorem writeProducesByAccess : Obligations.WriteProducesByAccess := by
  unfold Obligations.WriteProducesByAccess
  intro r cur v k
  have hk : cur.getLsbD k = true → k < 32 := BitVec.lt_of_getLsbD
  simp only [RegRow.produce, BitVec.getLsbD_or, BitVec.getLsbD_and, BitVec.getLsbD_not]
  cases hc : cur.getLsbD k
  · simp [Bool.and_comm]
  · simp [hk hc, Bool.and_comm]

/-! The verdicts, in the order of the steps. -/

/-- A page of another owner. -/
theorem judge_foreign (hh : who = 32 ∨ s.hostHeard = true) (ho : s.owns who p = false) :
    s.judge who p off value 15 data rule = (.foreign, 0) := by
  have hheard : ¬(decide (who < 32) && !s.hostHeard) = true := by
    rcases hh with rfl | h <;> simp [*]
  simp only [State.judge, if_neg hheard, ho, Bool.not_false, Bool.true_or, if_true]

/-- The steps that follow on a page of the initiator's own, at one of its registers. -/
theorem judge_of_row (hh : who = 32 ∨ s.hostHeard = true) (hk : (kindOf p).1 ≠ .none) (ho : s.owns who p = true)
    (hr : rowAt p off = some (r, i)) :
    s.judge who p off value 15 data rule =
      (if (r.fields.all fun x => x.acc == .ro || x.acc == .rc) = true then .ignored
        else if ((s.locked p && r.lockStops (s.reg (fkey p r.reg i)) (r.produce (s.reg (fkey p r.reg i)) value))
          || rule value == .locked) = true then .locked
        else if (!r.inRange value || rule value == .range) = true then .range
        else if data = true then .carried
        else if (r.produce (s.reg (fkey p r.reg i)) value == s.reg (fkey p r.reg i) && (value &&& r.bits (· == .wo)) == 0) = true then .same
        else if (!s.room who) = true then .full
        else .carried, value) := by
  have hheard : ¬(decide (who < 32) && !s.hostHeard) = true := by
    rcases hh with rfl | h <;> simp [*]
  simp only [State.judge, if_neg hheard, ho, beq_eq_false_iff_ne.2 hk, Bool.not_true, Bool.or_false, Bool.false_eq_true, if_false, hr,
    RegRow.merge_full]
  split_ifs <;> rfl

/-! What a write leaves at each step. -/

section row
variable (hh : who = 32 ∨ s.hostHeard = true) (hk : (kindOf p).1 ≠ .none) (ho : s.owns who p = true)
  (hr : rowAt p off = some (r, i))
include hh hk ho hr

theorem writeWith_readOnly (hro : (r.fields.all fun x => x.acc == .ro || x.acc == .rc) = true) :
    s.writeWith who p off value 15 data rule recs eff = s := by
  refine (writeWith_stopped (vd := .ignored) (v := value) ?_ nofun).trans rfl
  rw [judge_of_row hh hk ho hr, if_pos hro]

theorem writeWith_locked (hro : (r.fields.all fun x => x.acc == .ro || x.acc == .rc) = false)
    (hl : (s.locked p && r.lockStops (s.reg (fkey p r.reg i)) (r.produce (s.reg (fkey p r.reg i)) value)) = true ∨ rule value = .locked) :
    s.writeWith who p off value 15 data rule recs eff = s.refuse who p off 4 value := by
  refine (writeWith_stopped (vd := .locked) (v := value) ?_ nofun).trans rfl
  rw [judge_of_row hh hk ho hr, if_neg (Bool.eq_false_iff.1 hro), if_pos (by simpa using hl)]

variable (hro : (r.fields.all fun x => x.acc == .ro || x.acc == .rc) = false)
  (hl : (s.locked p && r.lockStops (s.reg (fkey p r.reg i)) (r.produce (s.reg (fkey p r.reg i)) value)) = false)
  (hrl : rule value ≠ .locked)
include hro hl hrl

/-- The verdict of a write that meets no lock. -/
theorem judge_of_unlocked :
    s.judge who p off value 15 data rule =
      (if (!r.inRange value || rule value == .range) = true then .range
        else if data = true then .carried
        else if (r.produce (s.reg (fkey p r.reg i)) value == s.reg (fkey p r.reg i) && (value &&& r.bits (· == .wo)) == 0) = true then .same
        else if (!s.room who) = true then .full
        else .carried, value) := by
  rw [judge_of_row hh hk ho hr, if_neg (Bool.eq_false_iff.1 hro), if_neg (by simp [hl, hrl])]

theorem writeWith_range (h : r.inRange value = false ∨ rule value = .range) :
    s.writeWith who p off value 15 data rule recs eff = s.refuse who p off 3 value := by
  refine (writeWith_stopped (vd := .range) (v := value) ?_ nofun).trans rfl
  rw [judge_of_unlocked hh hk ho hr hro hl hrl, if_pos (by simpa using h)]

variable (hin : r.inRange value = true) (hok : rule value = .ok)
include hin hok

/-- The verdict of a write whose value is in range. -/
theorem judge_of_inRange :
    s.judge who p off value 15 false rule =
      (if (r.produce (s.reg (fkey p r.reg i)) value == s.reg (fkey p r.reg i) && (value &&& r.bits (· == .wo)) == 0) = true then .same
        else if (!s.room who) = true then .full
        else .carried, value) := by
  rw [judge_of_unlocked hh hk ho hr hro hl hrl, if_neg (by simp [hin, hok]), if_neg Bool.false_ne_true]

theorem writeWith_same (h : r.produce (s.reg (fkey p r.reg i)) value = s.reg (fkey p r.reg i))
    (hwo : value &&& r.bits (· == .wo) = 0) : s.writeWith who p off value 15 false rule recs eff = s := by
  refine (writeWith_stopped (vd := .same) (v := value) ?_ nofun).trans rfl
  rw [judge_of_inRange hh hk ho hr hro hl hrl hin hok, if_pos (by simp [h, hwo])]

/-- A write that would change its register is carried where the ledger has room for the entries of writes at all. -/
theorem judge_of_change (h : r.produce (s.reg (fkey p r.reg i)) value ≠ s.reg (fkey p r.reg i) ∨ value &&& r.bits (· == .wo) ≠ 0) :
    s.judge who p off value 15 false rule = (if (!s.room who) = true then .full else .carried, value) := by
  rw [judge_of_inRange hh hk ho hr hro hl hrl hin hok, if_neg (by simp only [Bool.and_eq_true, beq_iff_eq]; tauto)]

theorem writeWith_full (h : r.produce (s.reg (fkey p r.reg i)) value ≠ s.reg (fkey p r.reg i) ∨ value &&& r.bits (· == .wo) ≠ 0)
    (hroom : s.room who = false ∨ s.room who (recs value).length = false) :
    s.writeWith who p off value 15 false rule recs eff = State.settle (s.refuseFull who) := by
  have hj := judge_of_change hh hk ho hr hro hl hrl hin hok h
  by_cases hone : s.room who = true
  · have hn : s.room who (recs value).length = false := hroom.resolve_left (by simp [hone])
    rw [hone] at hj
    unfold State.writeWith
    rw [hj]
    simp [hn, State.turnAway]
  · refine (writeWith_stopped (vd := .full) (v := value) ?_ nofun).trans rfl
    rw [hj, if_pos (by simpa using hone)]

theorem writeWith_carried (h : r.produce (s.reg (fkey p r.reg i)) value ≠ s.reg (fkey p r.reg i) ∨ value &&& r.bits (· == .wo) ≠ 0)
    (hone : s.room who = true) (hn : s.room who (recs value).length = true) :
    s.writeWith who p off value 15 false rule recs eff = eff value (s.log who (recs value)) := by
  have hj := judge_of_change hh hk ho hr hro hl hrl hin hok h
  rw [hone] at hj
  exact writeWith_room (beq_iff_eq.2 (congrArg Prod.fst hj)) hn

end row

/-- Settles O7, a step at a time. -/
theorem writeChecksInOrder : Obligations.WriteChecksInOrder := by
  unfold Obligations.WriteChecksInOrder
  intro s who p off value rule recs eff r i hh hk hr
  refine ⟨fun ho => ?foreign, fun ho => writeWith_readOnly hh hk ho hr, fun ho hro => ⟨fun hp hl => ?locked, fun hl => ?ruled, fun hl hrl => ?_⟩⟩
  case foreign => exact (writeWith_stopped (judge_foreign hh ho) nofun).trans rfl
  case locked => exact writeWith_locked hh hk ho hr hro (.inl (by simp [hp, hl]))
  case ruled => exact writeWith_locked hh hk ho hr hro (.inr hl)
  refine ⟨writeWith_range hh hk ho hr hro hl hrl, fun hin hok => ⟨writeWith_same hh hk ho hr hro hl hrl hin hok, fun hch => ?_⟩⟩
  exact ⟨writeWith_full hh hk ho hr hro hl hrl hin hok hch, writeWith_carried hh hk ho hr hro hl hrl hin hok hch⟩

end Sys2Proof.Machine
end

section
/-! PROOFS. The lane instructions of the mints (R126, R130): each writes group d, or predicate d, at the active elements from what the mint
held before, and a table instruction bounces where an active element's entry is not readable (R136). -/

namespace Sys2Proof.Machine

variable {s : State} {m op : Nat} {c : Cheque} {i : MI} {sem : MI → Cheque → MintS → Ran}

/-! One instruction, by its lane-ops. -/

/-- What a lane instruction that goes on retires with. -/
theorem runOp_go_lane {w : MintS} (hc : s.canonical = true) (hr : s.runs m op c i) (hl : isLane op = true)
    (hs : sem i c (s.mint m) = .go w) :
    s.retired (s.runOp m op sem) m (4 * (s.mint m).vl) ((s.mint m).pc + 1) w := by
  have h := runOp_go hc hr hs
  rwa [laneOpsOf, hr.2.1, if_pos hl] at h

/-- What an instruction that is no lane instruction retires with. -/
theorem runOp_go_plain {w : MintS} (hc : s.canonical = true) (hr : s.runs m op c i) (hl : isLane op = false)
    (hs : sem i c (s.mint m) = .go w) :
    s.plainDone (s.runOp m op sem) m ((s.mint m).pc + 1) w := by
  have h := runOp_go hc hr hs
  rwa [laneOpsOf, hr.2.1, if_neg (Bool.eq_false_iff.1 hl)] at h

/-- A lane instruction that may bounce, where it does not. -/
theorem runOp_lanes {f : Nat → Word} (hc : s.canonical = true) (hr : s.runs m op c i) (hl : isLane op = true)
    (hs : sem i c (s.mint m) = .go ((s.mint m).lanes i f)) : s.laneDone (s.runOp m op sem) m i f :=
  ⟨_, runOp_go_lane hc hr hl hs, MintS.lanes_laned (mintOk_of_canonical hc m).vreg i f⟩

/-! Integer and binary32 lanes. -/

/-- Settles O10: each is `laneOp` of its function. -/
theorem integerLanes : Obligations.IntegerLanes := by
  unfold Obligations.IntegerLanes
  intro m c i s hc
  exact ⟨fun hr => ⟨_, rfl, laneOp_done hc hr rfl⟩, fun hr => ⟨_, rfl, laneOp_done hc hr rfl⟩,
    fun hr => ⟨_, rfl, laneOp_done hc hr rfl⟩, fun hr => ⟨_, rfl, laneOp_done hc hr rfl⟩,
    fun hr => ⟨_, rfl, laneOp_done hc hr rfl⟩, fun hr => ⟨_, rfl, laneOp_done hc hr rfl⟩,
    fun hr => ⟨_, rfl, laneOp_done hc hr rfl⟩, fun hr => ⟨_, rfl, laneOp_done hc hr rfl⟩,
    fun hr => ⟨_, rfl, laneOp_done hc hr rfl⟩⟩

/-- Settles O11: each is `laneOp` of its function. -/
theorem floatLanes : Obligations.FloatLanes := by
  unfold Obligations.FloatLanes
  refine ⟨fun m c i s hc => ?_, fun m c i s hc => ?_⟩
  · exact ⟨fun hr => ⟨_, rfl, laneOp_done hc hr rfl⟩, fun hr => ⟨_, rfl, laneOp_done hc hr rfl⟩,
      fun hr => ⟨_, rfl, laneOp_done hc hr rfl⟩, fun hr => ⟨_, rfl, laneOp_done hc hr rfl⟩,
      fun hr => ⟨_, rfl, laneOp_done hc hr rfl⟩, fun hr => ⟨_, rfl, laneOp_done hc hr rfl⟩,
      fun hr => ⟨_, rfl, laneOp_done hc hr rfl⟩, fun hr => ⟨_, rfl, laneOp_done hc hr rfl⟩,
      fun hr => ⟨_, rfl, laneOp_done hc hr rfl⟩, fun hr => ⟨_, rfl, laneOp_done hc hr rfl⟩⟩
  · exact ⟨fun hr => ⟨_, rfl, laneOp_done hc hr rfl⟩, fun hr => ⟨_, rfl, laneOp_done hc hr rfl⟩,
      fun hr => ⟨_, rfl, laneOp_done hc hr rfl⟩, fun hr => ⟨_, rfl, laneOp_done hc hr rfl⟩,
      fun hr => ⟨_, rfl, laneOp_done hc hr rfl⟩, fun hr => ⟨_, rfl, laneOp_done hc hr rfl⟩⟩

/-! Tables. -/

theorem storeOk_load_eq_false {a n al : Nat} : storeOk a n al false = false ↔ 0x2000 < a + n ∨ a % al ≠ 0 := by
  rw [← Bool.not_eq_true, storeOk_load]
  omega

/-- Settles O12: the entries that the active elements read decide between the lane result and the bounce. -/
theorem tableLanes : Obligations.TableLanes := by
  unfold Obligations.TableLanes
  intro m c i s hc v at_ entry after fits j
  refine ⟨fun hr => ⟨fun hall => ⟨_, rfl, runOp_lanes hc hr rfl (if_pos ?lut)⟩, fun ⟨k, hk, hbad⟩ => ?lutBounce⟩,
    fun hr => ⟨fun hall => ⟨_, rfl, runOp_lanes hc hr rfl (if_pos ?lutf)⟩, fun ⟨k, hk, n, hn, hbad⟩ => ?lutfBounce⟩⟩
  case lut => exact List.all_eq_true.2 fun k hk => storeOk_load.2 (hall k hk)
  case lutBounce =>
    refine congrArg _ (runOp_bad hr (if_neg fun hall => ?_))
    exact Bool.false_ne_true ((storeOk_load_eq_false.2 hbad).symm.trans (List.all_eq_true.1 hall k hk))
  case lutf =>
    refine List.all_eq_true.2 fun k hk => ?_
    split
    next n hn =>
      obtain ⟨hfirst, hsecond⟩ := hall k hk n hn
      rw [storeOk_load.2 hfirst, storeOk_load.2 hsecond]
      rfl
    next => rfl
  case lutfBounce =>
    refine congrArg _ (runOp_bad hr (if_neg fun hall => hbad ?_))
    have hread := List.all_eq_true.1 hall k hk
    have hn' : lutIndex (opA i (s.mint m.val) k) i.b = some n := hn
    simp only [hn', Bool.and_eq_true] at hread
    exact ⟨storeOk_load.1 hread.1, storeOk_load.1 hread.2⟩

/-! Compares. -/

theorem MintS.p_setP_same {v : MintS} (h : MintOk v) (n : Nat) (x : Word) : (v.setP n x).p n = x := Tbl.get_set_same _ _ h.preg

theorem MintS.p_setP_other {v : MintS} (h : MintOk v) {n k : Nat} (x : Word) (hk : k ≠ n) : (v.setP n x).p k = v.p k :=
  Tbl.get_set_other _ h.preg hk

/-- Between `v` and `w` predicate d has taken the outcome `g` at the active elements, and nothing else differs. -/
def MintS.compared (v w : MintS) (i : MI) (g : Nat → Bool) : Prop :=
  w = { v with preg := w.preg } ∧ (∀ n, n ≠ i.d → w.p n = v.p n)
    ∧ ∀ k < 32, (w.p i.d).getLsbD k = if k ∈ v.active i then g k else (v.p i.d).getLsbD k

theorem MintS.compared_setBits {v : MintS} (h : MintOk v) (i : MI) (g : Nat → Bool) :
    v.compared (v.setP i.d (BitVec.ofNat 32 ((v.active i).foldl (fun n k => setBit n k (g k)) (v.p i.d).toNat))) i g := by
  refine ⟨rfl, fun n hn => MintS.p_setP_other h _ hn, fun k hk => ?_⟩
  rw [MintS.p_setP_same h, BitVec.getLsbD_ofNat, setBits_bit, decide_eq_true hk, Bool.true_and, BitVec.testBit_toNat]

theorem cmpOp_compared {f : Word → Word → Option Ordering} (hc : s.canonical = true) (hr : s.runs m op c i) (hl : isLane op = true) :
    ∃ w, s.retired (s.cmpOp m op f) m (4 * (s.mint m).vl) ((s.mint m).pc + 1) w
      ∧ (s.mint m).compared w i fun k => condHolds i.c (f ((s.mint m).v i.a k) ((s.mint m).last i i.b k)) :=
  ⟨_, runOp_go_lane hc hr hl rfl, MintS.compared_setBits (mintOk_of_canonical hc m) i _⟩

/-- Settles O13. -/
theorem compareLanes : Obligations.CompareLanes := by
  unfold Obligations.CompareLanes
  intro m c i s hc
  exact ⟨fun hr => ⟨_, rfl, cmpOp_compared hc hr rfl⟩, fun hr => ⟨_, rfl, cmpOp_compared hc hr rfl⟩⟩

end Sys2Proof.Machine
end

section
/-! PROOFS. The scalar, immediate, memory and control instructions of the mints (R127, R130, R136). -/

namespace Sys2Proof.Machine

variable {s : State} {m op : Nat} {c : Cheque} {i : MI} {v : MintS}

/-! Scalars. -/

/-- From `v` to `w` scalar `d` has taken `x`, and nothing else differs. -/
def MintS.scalared (v w : MintS) (d : Nat) (x : Word) : Prop :=
  w = { v with sreg := w.sreg } ∧ w.s d = x ∧ ∀ n, n ≠ d → w.s n = v.s n

theorem MintS.scalared_setS (h : MintOk v) (d : Nat) (x : Word) : v.scalared (v.setS d x) d x :=
  ⟨rfl, Tbl.get_set_same _ _ h.sreg, fun _ hn => Tbl.get_set_other _ h.sreg hn⟩

theorem scalarOp_scalared {f : MI → MintS → Word} (hc : s.canonical = true) (hr : s.runs m op c i) (hl : isLane op = false) :
    ∃ w, s.plainDone (s.scalarOp m op f) m ((s.mint m).pc + 1) w ∧ (s.mint m).scalared w i.d (f i (s.mint m)) :=
  ⟨_, scalarOp_done hc hr hl, MintS.scalared_setS (mintOk_of_canonical hc m) _ _⟩

/-! A whole group. -/

/-- From `v` to `w` the group at `d` has taken `f`, and nothing else differs. -/
def MintS.grouped (v w : MintS) (d : Nat) (f : Nat → Word) : Prop :=
  w = { v with vreg := w.vreg } ∧ (∀ k < 4 * v.vl, w.v d k = f k)
    ∧ ∀ n, n < 4 * d ∨ 4 * d + 4 * v.vl ≤ n → Tbl.get (fun _ => 0) w.vreg n = Tbl.get (fun _ => 0) v.vreg n

theorem MintS.grouped_elems (h : MintOk v) (d : Nat) (f : Nat → Word) :
    v.grouped (v.elems.foldl (fun (t : MintS) k => t.setV d k (f k)) v) d f := by
  obtain ⟨hframe, -, hvalue, hother⟩ := MintS.setV_fold d f v.elems List.nodup_range v h.vreg
  refine ⟨hframe, fun k hk => hvalue k (List.mem_range.2 hk), fun n hn => hother n fun k hk => ?_⟩
  have := List.mem_range.1 hk
  omega

/-- Settles O14. -/
theorem scalarInstructions : Obligations.ScalarInstructions := by
  unfold Obligations.ScalarInstructions
  refine ⟨fun m c i s hc => ?scalars, fun m c i s hc => ⟨fun hr => ?movh, fun hr => ?setvl⟩⟩
  case scalars =>
    exact ⟨fun hr => ⟨_, rfl, scalarOp_scalared hc hr rfl⟩, fun hr => ⟨_, rfl, scalarOp_scalared hc hr rfl⟩,
      fun hr => ⟨_, rfl, scalarOp_scalared hc hr rfl⟩, fun hr => ⟨_, rfl, scalarOp_scalared hc hr rfl⟩,
      fun hr => ⟨_, rfl, scalarOp_scalared hc hr rfl⟩⟩
  case movh =>
    exact ⟨_, _, rfl, runOp_go_lane hc hr rfl rfl, MintS.grouped_elems (mintOk_of_canonical hc m.val) _ _⟩
  case setvl => exact ⟨_, rfl, runOp_go_plain hc hr rfl rfl⟩

/-! The data store. -/

theorem storeOk_store {a n al : Nat} : storeOk a n al true = true ↔ (a + n ≤ 0x2000 ∧ a % al = 0) ∧ (a + n ≤ 0x200 ∨ 0x1000 ≤ a) := by
  simp only [storeOk, Bool.true_and, Bool.and_eq_true, Bool.not_eq_true', Bool.and_eq_false_iff, decide_eq_true_eq, decide_eq_false_iff_not,
    beq_iff_eq]
  omega

/-- A byte of a mint's data store. -/
def MintS.byte (v : MintS) (n : Nat) : Byte := Tbl.get (fun _ => (0 : Byte)) v.data n

theorem leBytes_toNat_getD (w : Word) {j : Nat} (hj : j < 4) : (leBytes 4 w.toNat).getD j 0 = w.extractLsb' (8 * j) 8 := by
  rw [leBytes_at _ _ _ hj]
  apply BitVec.eq_of_toNat_eq
  rw [BitVec.toNat_ofNat, BitVec.extractLsb'_toNat, Nat.shiftRight_eq_div_pow]

/-- The bytes of a word stored at `a`, little-endian. -/
theorem MintS.byte_setWord_same (h : MintOk v) (a : Nat) (w : Word) {j : Nat} (hj : j < 4) :
    (v.setWord a w).byte (a + j) = w.extractLsb' (8 * j) 8 := by
  rw [← leBytes_toNat_getD w hj]
  exact putBytes_at h.data a _ (by rwa [leBytes_length])

theorem MintS.byte_setWord_other (h : MintOk v) (a : Nat) (w : Word) {n : Nat} (hn : n < a ∨ a + 4 ≤ n) :
    (v.setWord a w).byte n = v.byte n := putBytes_other h.data a _ (by rwa [leBytes_length])

theorem mintOk_setWord (h : MintOk v) (a : Nat) (w : Word) : MintOk (v.setWord a w) := { h with data := wf_putBytes _ _ h.data }

/-- From `v` to `w` the store has taken the words `f` at `a`, `n` of them, and nothing else differs. -/
structure MintS.Stored (v w : MintS) (a n : Nat) (f : Nat → Word) : Prop where
  frame : w = { v with data := w.data }
  ok : MintOk w
  bytes : ∀ k < n, ∀ j < 4, w.byte (a + 4 * k + j) = (f k).extractLsb' (8 * j) 8
  others : ∀ b, b < a ∨ a + 4 * n ≤ b → w.byte b = v.byte b

/-- Words stored one after another, in the order of their addresses. -/
theorem MintS.stored_range (h : MintOk v) (a n : Nat) (f : Nat → Word) :
    v.Stored ((List.range n).foldl (fun (t : MintS) k => t.setWord (a + 4 * k) (f k)) v) a n f := by
  induction n with
  | zero => exact ⟨rfl, h, fun _ hk => absurd hk (Nat.not_lt_zero _), fun _ _ => rfl⟩
  | succ n ih =>
    rw [List.range_succ, List.foldl_concat]
    generalize (List.range n).foldl _ v = w at ih
    obtain ⟨hframe, hok, hbytes, hothers⟩ := ih
    refine ⟨?_, mintOk_setWord hok _ _, fun k hk j hj => ?_, fun b hb => ?_⟩
    · rw [hframe]
      rfl
    · by_cases hkn : k = n
      · subst hkn
        exact MintS.byte_setWord_same hok _ _ hj
      · exact (MintS.byte_setWord_other hok _ _ (by omega)).trans (hbytes k (by omega) j hj)
    · exact (MintS.byte_setWord_other hok _ _ (by omega)).trans (hothers b (by omega))

/-- Settles O15: the check of the access decides between the access and the bounce. -/
theorem storeInstructions : Obligations.StoreInstructions := by
  unfold Obligations.StoreInstructions
  intro m c i s hc v a byte fits
  have hok := mintOk_of_canonical hc m.val
  have hstore : ∀ n al, storeOk a n al true = true ↔ fits n al ∧ (a + n ≤ 0x200 ∨ 0x1000 ≤ a) := fun n al => storeOk_store
  have hstore' : ∀ n al, ¬ fits n al ∨ (0x200 < a + n ∧ a < 0x1000) → ¬ storeOk a n al true = true := fun n al h => by
    rw [hstore]
    omega
  refine ⟨fun hr => ⟨fun hf => ?ldv, fun hf => ?ldvBounce⟩, fun hr => ⟨fun hf => ?lds, fun hf => ?ldsBounce⟩,
    fun hr => ⟨fun hf hp => ?sts, fun hf => ?stsBounce⟩, fun hr => ⟨fun hf hp => ?stv, fun hf => ?stvBounce⟩⟩
  case ldv =>
    exact ⟨_, _, rfl, runOp_go_plain hc hr rfl (if_pos (storeOk_load.2 hf)), MintS.grouped_elems hok _ _⟩
  case ldvBounce => exact congrArg _ (runOp_bad hr (if_neg fun h => hf (storeOk_load.1 h)))
  case lds => exact ⟨_, _, rfl, runOp_go_plain hc hr rfl (if_pos (storeOk_load.2 hf)), MintS.scalared_setS hok _ _⟩
  case ldsBounce => exact congrArg _ (runOp_bad hr (if_neg fun h => hf (storeOk_load.1 h)))
  case sts =>
    exact ⟨_, _, rfl, runOp_go_plain hc hr rfl (if_pos ((hstore 4 4).2 ⟨hf, hp⟩)), rfl, fun j hj => MintS.byte_setWord_same hok a _ hj,
      fun n hn => MintS.byte_setWord_other hok a _ hn⟩
  case stsBounce => exact congrArg _ (runOp_bad hr (if_neg (hstore' 4 4 hf)))
  case stv =>
    obtain ⟨hframe, -, hbytes, hothers⟩ := MintS.stored_range hok a (4 * v.vl) (v.v i.d)
    exact ⟨_, _, rfl, runOp_go_plain hc hr rfl (if_pos ((hstore _ 16).2 ⟨hf, hp⟩)), hframe, hbytes,
      fun n hn => hothers n (by omega)⟩
  case stvBounce => exact congrArg _ (runOp_bad hr (if_neg (hstore' _ 16 hf)))

/-! Control. -/

/-- A control instruction whose target lies in the routine, taken where `P` holds. -/
theorem controlOp_done {taken : MI → MintS → Bool} {eff : MI → MintS → MintS} {P : Prop} [Decidable P] (hc : s.canonical = true)
    (hr : s.runs m op c i) (hl : isLane op = false) (ht : i.target < (s.mint m).codeLen) (hP : taken i (s.mint m) = true ↔ P) :
    s.plainDone (s.controlOp m op taken eff) m (if P then i.target else (s.mint m).pc + 1) (eff i (s.mint m)) := by
  unfold State.controlOp
  split
  case isTrue h => exact runOp_jump hc hr (by rw [if_neg (Nat.not_le.2 ht), if_pos (hP.2 h)]) ht
  case isFalse h => exact runOp_go_plain hc hr hl (by rw [if_neg (Nat.not_le.2 ht), if_neg (mt hP.1 h)])

theorem controlOp_bounce {taken : MI → MintS → Bool} {eff : MI → MintS → MintS} (hr : s.runs m op c i)
    (ht : (s.mint m).codeLen ≤ i.target) : s.controlOp m op taken eff = s.bounce m := runOp_bad hr (if_pos ht)

/-- Settles O18. -/
theorem controlInstructions : Obligations.ControlInstructions := by
  unfold Obligations.ControlInstructions
  intro m c i s hc v
  refine ⟨fun hr => ⟨fun ht => ⟨_, rfl, ?br⟩, fun ht => congrArg _ (controlOp_bounce hr ht)⟩,
    fun hr => ⟨fun ht => ⟨_, rfl, ?brn⟩, fun ht => congrArg _ (controlOp_bounce hr ht)⟩,
    fun hr => ⟨fun ht => ⟨_, rfl, ?loop⟩, fun ht => congrArg _ (controlOp_bounce hr ht)⟩⟩
  case br => exact controlOp_done hc hr rfl ht (by simp only [Bool.or_eq_true, Bool.not_eq_true', bne_iff_ne]; rfl)
  case brn => exact controlOp_done hc hr rfl ht beq_iff_eq
  case loop => exact controlOp_done hc hr rfl ht bne_iff_ne

end Sys2Proof.Machine
end

section
/-! PROOFS. The cell I/O instructions of the mints (R133 to R137): what GET, GETC and BLD read of a stream's current group, what PUT and
PUTC write of the output, how a cheque is settled, and the bounce on an illegal word or a broken limit. -/

namespace Sys2Proof.Machine

variable {s : State} {m op : Nat} {c : Cheque} {i : MI} {v : MintS} {st : Stream}

/-! Streams. -/

theorem Got.length_of_all {α : Type} {l : List (Got α)} {vs : List α} (h : Got.all l = .val vs) : vs.length = l.length := by
  induction l generalizing vs with
  | nil =>
    cases h
    rfl
  | cons g t ih =>
    unfold Got.all at h
    split at h
    next hv hvs =>
      cases h
      rw [List.length_cons, List.length_cons, ih hvs]
    all_goals cases h

/-- A stream whose layer needs no effect output, or has it, is read as it stands (R115). -/
theorem touchStream_eq_self (hr : s.runs m op c i) (hst : streamOf i c (s.mint m) = some st)
    (hset : (c.acct.isNone && st.src.effect && st.output.isNone && !st.transparent) = false) : s.touchStream m op = s := by
  obtain ⟨⟨id, hcur⟩, -⟩ := hr
  unfold State.touchStream
  rw [hcur]
  simp only [hst]
  refine if_neg ?_
  have hall : ((i.op == op) && (c.acct.isNone && st.src.effect && st.output.isNone && !st.transparent)) = false := by
    rw [hset, Bool.and_false]
  simp only [← Bool.and_assoc] at hall
  exact Bool.eq_false_iff.1 hall

/-- The values of a group beside their elements. -/
theorem MintS.elems_zip {α : Type} {ps : List α} (d : α) (h : ps.length = 4 * v.vl) :
    v.elems.zip ps = v.elems.map fun k => (k, ps.getD k d) := by
  refine List.ext_getElem (by simp [MintS.elems, h]) fun k hk _ => ?_
  simp only [List.length_zip, MintS.elems, List.length_range, h, min_self] at hk
  simp [MintS.elems, List.getD, h, hk]

/-- Group `d` takes a value of each element and of what was read for it. -/
def MintS.takeV {α : Type} (v : MintS) (d : Nat) (ps : List α) (f : Nat → α → Word) : MintS :=
  (v.elems.zip ps).foldl (fun (t : MintS) x => t.setV d x.1 (f x.1 x.2)) v

theorem MintS.grouped_takeV {α : Type} (hv : MintOk v) {ps : List α} (e : α) (h : ps.length = 4 * v.vl) (d : Nat) (f : Nat → α → Word) :
    v.grouped (v.takeV d ps f) d fun k => f k (ps.getD k e) := by
  rw [MintS.takeV, MintS.elems_zip e h, List.foldl_map]
  exact MintS.grouped_elems hv d fun k => f k (ps.getD k e)

/-- Group `d` takes the values there are. -/
def MintS.takeSome (v : MintS) (d : Nat) (f : Nat → Option Word) : MintS :=
  v.elems.foldl (fun (t : MintS) k => match f k with | some x => t.setV d k x | none => t) v

/-- A fold that writes the elements for which it has a value. -/
theorem foldl_setV_some (d : Nat) (f : Nat → Option Word) (ks : List Nat) (v : MintS) :
    ks.foldl (fun (t : MintS) k => match f k with | some x => t.setV d k x | none => t) v
      = (ks.filter fun k => (f k).isSome).foldl (fun (t : MintS) k => t.setV d k ((f k).getD 0)) v := by
  rw [List.foldl_filter]
  congr 1
  funext t k
  cases f k <;> rfl

/-- A group that takes the values there are, and keeps its elements where there is none. -/
theorem MintS.grouped_some (hv : MintOk v) (d : Nat) (f : Nat → Option Word) :
    v.grouped (v.takeSome d f) d fun k => (f k).getD (v.v d k) := by
  rw [MintS.takeSome, foldl_setV_some]
  obtain ⟨hframe, -, hvalue, hother⟩ := MintS.setV_fold d (fun k => (f k).getD 0) (v.elems.filter fun k => (f k).isSome)
    (List.nodup_range.filter _) v hv.vreg
  refine ⟨hframe, fun k hk => ?_, fun n hn => hother n fun k hk => ?_⟩
  · cases hf : f k with
    | some x =>
      have := hvalue k (List.mem_filter.2 ⟨List.mem_range.2 hk, by rw [hf]; rfl⟩)
      simpa only [hf, Option.getD_some] using this
    | none =>
      simp only [hf, Option.getD_none]
      refine hother _ fun j hj hkj => ?_
      obtain rfl : k = j := Nat.add_left_cancel hkj
      have := (List.mem_filter.1 hj).2
      rw [hf] at this
      cases this
  · have := List.mem_range.1 (List.mem_filter.1 hk).1
    omega

theorem MintS.sp_setSp_same (h : Tbl.wf (fun _ => 0) v.spos = true) (n x : Nat) : (v.setSp n x).sp n = x := Tbl.get_set_same _ _ h

theorem MintS.sp_setSp_other (h : Tbl.wf (fun _ => 0) v.spos = true) {n k : Nat} (x : Nat) (hk : k ≠ n) :
    (v.setSp n x).sp k = v.sp k := Tbl.get_set_other _ h hk

theorem MintS.spos_of_frame {w : MintS} {r : List (Nat × Word)} (h : w = { v with vreg := r }) : w.spos = v.spos := by
  subst h
  rfl

theorem MintS.setSp_frame {w : MintS} {r : List (Nat × Word)} (h : w = { v with vreg := r }) (n x : Nat) :
    w.setSp n x = { v with vreg := (w.setSp n x).vreg, spos := (w.setSp n x).spos } := by
  subst h
  rfl

theorem MintS.active_eq_elems (h : i.pe = false) : v.active i = v.elems := by
  simp only [MintS.active, h, Bool.not_false, Bool.true_or, List.filter_true]

/-- What GET takes at element `k` (R133): the raw element, 0 where the position is absent. -/
def getElem (form half : Nat) (p : Option Rgba) : Word :=
  match p with
  | some p => rawElem form (half % 2 == 1) p
  | none => 0

/-- What GETC takes: the component, 0 where the position is absent. -/
def getcElem (st : Stream) (c : Nat) (p : Option Rgba) : Word :=
  match p with
  | some p => getComp st p c
  | none => 0

/-- What BLD takes: the blend, where the position is there (R134). -/
def bldElem (i : MI) (st : Stream) (d : Word) (p : Option Rgba) : Option Word :=
  p.map fun p => bldAt st.mode (getComp st p i.c) (compF st.form p.a) d st.alpha

theorem bldElem_getD (d : Word) (p : Option Rgba) : (bldElem i st d p).getD d =
    match p with
    | some p => bldAt st.mode (getComp st p i.c) (compF st.form p.a) d st.alpha
    | none => d := by
  cases p <;> rfl

/-- BLD's fold over the elements and what was read for them. -/
theorem MintS.foldl_bldElem {ps : List (Option Rgba)} (h : ps.length = 4 * v.vl) :
    (v.elems.zip ps).foldl (fun (t : MintS) e => match e.2 with
        | some p => t.setV i.d e.1 (bldAt st.mode (getComp st p i.c) (compF st.form p.a) (v.v i.d e.1) st.alpha)
        | none => t) v
      = v.takeSome i.d fun k => bldElem i st (v.v i.d k) (ps.getD k none) := by
  rw [MintS.takeSome, MintS.elems_zip none h, List.foldl_map]
  congr 1
  funext t k
  cases ps.getD k none <;> rfl

/-- Settles O16. -/
theorem streamInstructions : Obligations.StreamInstructions := by
  unfold Obligations.StreamInstructions
  intro m c i st ps s hc v n step hst hset
  have hok : MintOk v := mintOk_of_canonical hc m.val
  have hstream : streamOf i c (s.mint m.val) = some st := hst
  have htouch : ∀ {op}, s.runs m.val op c i → s.touchStream m.val op = s := fun hr => touchStream_eq_self hr hstream hset
  have hlen : ∀ {f : Nat → Got (Option Rgba)}, Got.all (v.elems.map f) = .val ps → ps.length = 4 * v.vl := fun h =>
    (Got.length_of_all h).trans (by simp [MintS.elems])
  refine ⟨fun hr hps => ?get, fun hr hps => ?getc, fun hr hpe hps => ?bld, fun hr => ?next⟩
  case get =>
    let u := v.takeV i.d ps fun k => getElem st.form (v.sp n + step * k)
    obtain ⟨hframe, hvalue, -⟩ : v.grouped u i.d _ := MintS.grouped_takeV hok none (hlen hps) i.d _
    have hspos : u.spos = v.spos := MintS.spos_of_frame hframe
    have hwf : Tbl.wf (fun _ => 0) u.spos = true := hspos ▸ hok.spos
    simp only [exec, execGet, htouch hr]
    refine ⟨_, u.setSp n (v.sp n + step * (4 * v.vl)), rfl, runOp_go_plain hc hr rfl ?_, MintS.setSp_frame hframe _ _,
      MintS.sp_setSp_same hwf _ _, fun x hx => ?_, hvalue⟩
    · rw [hstream]
      dsimp only
      rw [hps]
      rfl
    · exact (MintS.sp_setSp_other hwf _ hx).trans (congrArg (NatTbl.at_ · x) hspos)
  case getc =>
    obtain ⟨hframe, hvalue, -⟩ := MintS.grouped_takeV hok none (hlen hps) i.d fun _ => getcElem st i.c
    simp only [exec, execGetc, htouch hr]
    refine ⟨_, v.takeV i.d ps fun _ => getcElem st i.c, rfl, runOp_go_plain hc hr rfl ?_, hframe, hvalue⟩
    rw [hstream]
    dsimp only
    rw [hps]
    rfl
  case bld =>
    obtain ⟨hframe, hvalue, -⟩ := MintS.grouped_some hok i.d fun k => bldElem i st (v.v i.d k) (ps.getD k none)
    simp only [exec, execBld, htouch hr]
    refine ⟨_, v.takeSome i.d fun k => bldElem i st (v.v i.d k) (ps.getD k none), rfl, runOp_go_lane hc hr rfl ?_, hframe,
      fun k hk => (hvalue k hk).trans (bldElem_getD _ _)⟩
    rw [hstream, MintS.active_eq_elems hpe]
    dsimp only
    rw [hps]
    exact congrArg Ran.go (MintS.foldl_bldElem (hlen hps))
  case next =>
    refine ⟨_, v.setSp n (v.sp n + 8 * v.vl), rfl, runOp_go_plain hc hr rfl ?_, rfl, MintS.sp_setSp_same hok.spos _ _,
      fun x hx => MintS.sp_setSp_other hok.spos _ hx⟩
    rw [hstream]

/-! The output. -/

theorem outPast_eq_false (h : v.opos / 2 < c.w * c.h) : outPast c v = false := decide_eq_false (Nat.not_le.2 h)

theorem outPast_eq_true (h : c.w * c.h ≤ v.opos / 2) : outPast c v = true := decide_eq_true h

/-- Settles O17. -/
theorem outputInstructions : Obligations.OutputInstructions := by
  unfold Obligations.OutputInstructions
  intro m c i s hc v step inCell
  have hgo : inCell → ¬ outPast c v = true := fun h => Bool.eq_false_iff.1 (outPast_eq_false h)
  have hbad : ¬ inCell → outPast c v = true := fun h => outPast_eq_true (Nat.not_lt.1 h)
  refine ⟨fun hr => ⟨fun h => ⟨_, rfl, ?put⟩, fun h => congrArg _ (runOp_bad hr (if_pos (hbad h)))⟩,
    fun hr => ⟨fun h => ⟨_, rfl, ?putc⟩, fun h => congrArg _ (runOp_bad hr (if_pos (hbad h)))⟩,
    fun hr => ⟨_, rfl, runOp_go_plain hc hr rfl rfl⟩⟩
  case put => exact runOp_go_plain hc hr rfl (if_neg (hgo h))
  case putc => exact runOp_go_plain hc hr rfl (if_neg (hgo h))

/-! SETTLE. -/

theorem settling_of_runs {id : Nat} (hcur : s.current m = some (id, c, some i)) (hr : s.runs m 0x3F c i) :
    s.settling m = if outPast c (s.mint m) then some (id, c) else none := by
  obtain ⟨-, hop, hlim, -⟩ := hr
  unfold State.settling
  rw [hcur]
  simp only [hop, hlim, beq_self_eq_true, Bool.not_false, Bool.true_and]

/-- The composition routine's reads make the layers transparent whose effect has not settled (R115). -/
theorem touchSettle_composition {id : Nat} (h : s.settling m = some (id, c)) (ha : c.acct = none) :
    s.touchSettle m = c.streams.foldl (fun (t : State) st =>
      if st.src.effect && st.output.isNone && !st.transparent then t.lateEffect id st.layer c.out else t) s := by
  unfold State.touchSettle
  rw [h]
  simp only [ha, Option.isSome_none, Bool.false_eq_true, if_false]

theorem touchSettle_effect {id : Nat} (h : s.settling m = some (id, c)) (ha : c.acct.isSome = true) : s.touchSettle m = s := by
  unfold State.touchSettle
  rw [h]
  exact if_pos ha

theorem touchSettle_none (h : s.settling m = none) : s.touchSettle m = s := by
  unfold State.touchSettle
  rw [h]

/-- What SETTLE does to its mint. -/
def settleSem (s : State) : MI → Cheque → MintS → Ran := fun _ c v =>
  if !outPast c v then .bad
  else if s.settleWaits c v then .wait
  else if c.acct.isSome then .go { v with phase := .settled }
  else match s.settled c v with
    | .val cell => .go { v with phase := .settled, cell := cell }
    | _ => .wait

theorem settleSem_composition {cell : List (Nat × Word)} (ha : c.acct = none) (hp : outPast c v = true) (hcell : s.settled c v = .val cell) :
    settleSem s i c v = .go { v with phase := .settled, cell := cell } := by
  simp only [settleSem, State.settleWaits, hp, ha, hcell, Bool.not_true, Bool.false_eq_true, if_false, Option.isSome_none]

theorem settleSem_effect (ha : c.acct.isSome = true) (hp : outPast c v = true) (hroom : s.effectRoom c = true) :
    settleSem s i c v = .go { v with phase := .settled } := by
  simp only [settleSem, State.settleWaits, hp, ha, hroom, Bool.not_true, Bool.false_eq_true, if_false, if_true]

theorem settleSem_bad (hp : outPast c v = false) : settleSem s i c v = .bad := by
  simp only [settleSem, hp, Bool.not_false, if_true]

/-- The command SETTLE after the routine's reads, by the cheque that it settles. -/
theorem exec_settle {m : MintId} {u : State} (h : s.touchSettle m.val = u) : exec (.settle m) s = .next (match u.settling m.val with
    | none => u.runOp m.val 0x3F (settleSem u)
    | some (id, c) =>
      if c.acct.isSome && ((u.runOp m.val 0x3F (settleSem u)).mint m.val).phase == .settled then
        ((((u.runOp m.val 0x3F (settleSem u)).publishEffect c (u.mint m.val).cell).dropRecord id).count (pressPage (m.val / 8)) 0).leaveMint
          m.val
      else u.runOp m.val 0x3F (settleSem u)) := by
  subst h
  rfl

/-- Settles O19. -/
theorem settleInstruction : Obligations.SettleInstruction := by
  unfold Obligations.SettleInstruction
  intro m id c i s hc hcur hr v
  have hsettling := settling_of_runs hcur hr
  refine ⟨fun ha hp => ?composition, fun ha hp hroom => ?effect, fun hp => ?short⟩
  case composition =>
    intro u w d cell hru hda hdp hcell
    rw [outPast_eq_true hp] at hsettling
    have hku : Keeps s.pending s.now u := keeps_foldl (keeps_of_canonical hc) fun t x hk => keeps_ite (keeps_State_lateEffect hk) hk
    have hdone := runOp_go_plain hku.canonical hru rfl (settleSem_composition hda (outPast_eq_true hdp) hcell)
    refine ⟨_, ?_, hdone⟩
    have ⟨⟨id', hid'⟩, _⟩ := hru
    rw [exec_settle (touchSettle_composition hsettling ha), settling_of_runs hid' hru, outPast_eq_true hdp]
    simp only [hda, Option.isSome_none, Bool.false_and, Bool.false_eq_true, if_false, if_true]
    rfl
  case effect =>
    rw [outPast_eq_true hp] at hsettling
    have hdone := runOp_go_plain hc hr rfl (settleSem_effect ha (outPast_eq_true hp) hroom)
    have hphase : ((s.runOp m.val 0x3F (settleSem s)).mint m.val).phase = .settled := congrArg MintS.phase hdone.2
    refine ⟨_, hdone, ?_⟩
    rw [exec_settle (touchSettle_effect hsettling ha), hsettling]
    simp only [ha, hphase, beq_self_eq_true, Bool.and_self, if_true]
    rfl
  case short =>
    rw [outPast_eq_false hp, if_neg Bool.false_ne_true] at hsettling
    rw [exec_settle (touchSettle_none hsettling), hsettling]
    exact congrArg _ (runOp_bad hr (settleSem_bad (outPast_eq_false hp)))

/-! Illegal words and limits (R136). -/

/-- An illegal word bounces the cheque. -/
theorem runOp_illegal {sem : MI → Cheque → MintS → Ran} {id : Nat} (h : s.current m = some (id, c, none)) :
    s.runOp m op sem = s.bounce m := by
  unfold State.runOp
  rw [h]

/-- A broken limit bounces the cheque. -/
theorem runOp_overLimit {sem : MI → Cheque → MintS → Ran} {id : Nat} (h : s.current m = some (id, c, some i)) (hop : i.op = op)
    (hu : s.unarmed (pressPage (m / 8)) 2) (hlim : overLimit (s.mint m) c i = true) : s.runOp m op sem = s.bounce m := by
  unfold State.runOp
  rw [h]
  simp only [hop, hlim, storeRead_unarmed hu, ne_eq, not_true_eq_false, if_false, if_true, Bool.not_true, Bool.false_eq_true]

/-- A mint that runs no cheque does nothing. -/
theorem runOp_not_running {sem : MI → Cheque → MintS → Ran} (h : (s.mint m).phase ≠ .running) : s.runOp m op sem = s := by
  have hcur : s.current m = none := if_pos h
  unfold State.runOp
  rw [hcur]

/-- Settles O20. -/
theorem mintLimits : Obligations.MintLimits := by
  unfold Obligations.MintLimits
  refine fun m op sem s => ⟨fun id c h => runOp_illegal h, fun id c i h hop hu hlim => runOp_overLimit h hop hu ?_, runOp_not_running⟩
  simpa only [overLimit, Bool.or_eq_true, Bool.and_eq_true, decide_eq_true_eq] using hlim

end Sys2Proof.Machine
end

section
/-! PROOFS. The common header and the register bus: the commands on PAGE_CTRL, the event latches, the sticky fault bits and FLT_INJECT,
the latch of a page's tallies, and REGISTER_WRITE. -/

namespace Sys2Proof.Machine

variable {s : State} {who p off : Nat} {value : Word}

/-- An accepted write whose entry is the ordinary one (R303). -/
theorem writeWith_logged {rule : Word → Rule} {eff : Word → State → State} (h : s.writeOk who p off value false rule = true) :
    s.writeWith who p off value 15 false rule (s.writeRec who p off) eff = eff value (s.log who (s.writeRec who p off value)) :=
  writeWith_writeOk h (Nat.le_refl 1)

/-- An accepted write of one entry. -/
theorem writeWith_single {rule : Word → Rule} {rec : Word → Rec} {eff : Word → State → State}
    (h : s.writeOk who p off value false rule = true) :
    s.writeWith who p off value 15 false rule (fun v => [rec v]) eff = eff value (s.log who [rec value]) :=
  writeWith_writeOk h (Nat.le_refl 1)

/-! PAGE_CTRL (R48, R54, R55, R57). -/

/-- What an accepted write of PAGE_CTRL does after its entries. -/
def State.pageCtrlEffect (s : State) (p : Nat) (v : Word) : State :=
  let t := ((s.wr p PAGE_CTRL_enable (PAGE_CTRL_enable.get v)).wr p PAGE_CTRL_sleep_req (PAGE_CTRL_sleep_req.get v)).powerFollow p
  let t := if v.getLsbD 31 then t.wr p PAGE_CTRL_lock 1 else t
  if v.getLsbD 1 then t.blockReset p else t

theorem pageCtrlWrite_accepted (h : s.writeOk who p PAGE_CTRL.off value false (s.pageCtrlRule who p) = true)
    (hr : s.room who (s.pageCtrlRecs who p value).length = true) :
    s.pageCtrlWrite who p value 15 = (s.log who (s.pageCtrlRecs who p value)).pageCtrlEffect p value := writeWith_room h hr

/-- Settles O21. -/
theorem pageControlCommands : Obligations.PageControlCommands := by
  unfold Obligations.PageControlCommands
  intro who p on s
  exact ⟨fun ⟨h, hr⟩ => congrArg _ (pageCtrlWrite_accepted h hr), fun ⟨h, hr⟩ => congrArg _ (pageCtrlWrite_accepted h hr),
    fun ⟨h, hr⟩ => congrArg _ (pageCtrlWrite_accepted h hr), fun ⟨h, hr⟩ => congrArg _ (pageCtrlWrite_accepted h hr)⟩

/-! Sticky bits (R56, R319). -/

/-- The bits of a word of 16 bits, as a write of a whole register carries them. -/
theorem stickyWrite_bits (bits : BitVec 16) : (bits.setWidth 32 &&& beMask 15).toNat = bits.toNat := by
  have h : beMask 15 = BitVec.allOnes 32 := by decide
  rw [h, BitVec.and_allOnes, BitVec.toNat_setWidth]
  omega

theorem ofNat_toNat_setWidth (bits : BitVec 16) : BitVec.ofNat 32 bits.toNat = bits.setWidth 32 :=
  BitVec.eq_of_toNat_eq (by simp)

/-- A write of FLT_STICKY on a page of the initiator's own, by the bits that are set, those it may not clear, and the room. -/
theorem stickyWrite_own {bits recur : BitVec 16} (hh : who = 32 ∨ s.hostHeard = true) (ho : s.owns who p = true)
    (hk : (kindOf p).1 ≠ .none) :
    s.stickyWrite who p (bits.setWidth 32) 15 recur.toNat =
      (bitsOf recur.toNat 16).foldl (fun (t : State) i => t.fault p i)
        (let set := bits.toNat &&& s.sticky p
        let held := if s.trustedActor who then 0 else s.trustedBits p set
        let u := if held ≠ 0 then s.refuse who p FLT_STICKY.off 4 (bits.setWidth 32) else s
        if set - held = 0 then u
        else if !u.room who (u.clearRecs who p (set - held)).length then State.settle (u.refuseFull who)
        else u.clearBits who p (set - held)) := by
  have hheard : ¬(decide (who < 32) && !s.hostHeard) = true := by
    rcases hh with rfl | h <;> simp [*]
  have hsmall : ¬ 65536 ≤ bits.toNat := Nat.not_le.2 bits.isLt
  simp only [State.stickyWrite, stickyWrite_bits, ofNat_toNat_setWidth, if_neg hheard, ho, beq_eq_false_iff_ne.2 hk, Bool.not_true,
    Bool.or_false, Bool.false_eq_true, if_false, if_neg hsmall]

theorem trustedBits_zero : s.trustedBits p 0 = 0 := by
  have h : bitsOf 0 16 = [] := by decide
  simp only [State.trustedBits, h, List.filter_nil, List.foldl_nil]

/-- Settles O23: FLT_STICKY by the bits that the initiator may not clear. -/
theorem stickyBitClears : Obligations.StickyBitClears := by
  unfold Obligations.StickyBitClears
  refine ⟨fun who p bits recur s h => ?pending, fun who p bits recur s hh ho hk => ?sticky⟩
  case pending =>
    exact congrArg (fun u : State => Host.Outcome.next (u.raiseAll _)) (writeWith_logged h)
  case sticky =>
    intro set held again entries clears refused
    have hx : exec (.faultClear who p bits recur) s = .next _ := congrArg Host.Outcome.next (stickyWrite_own (recur := recur) hh ho hk)
    have hset : (bits.toNat &&& s.sticky p.val) = set := rfl
    have hheld : s.trustedBits p.val set = held := rfl
    rw [hx]
    simp only [hset, hheld]
    refine ⟨fun ht hs hroom => congrArg (fun u => Host.Outcome.next (again u)) ?free, fun ht hh' hs hroom => congrArg (fun u => Host.Outcome.next (again u)) ?part,
      fun ht he hs => congrArg (fun u => Host.Outcome.next (again u)) ?refused, fun hs => congrArg (fun u => Host.Outcome.next (again u)) ?none⟩
    case free =>
      have h0 : (if s.trustedActor who.val then 0 else held) = 0 := by
        rcases ht with ht | ht
        · rw [if_pos ht]
        · rw [ht, ite_self]
      have hroom' : s.room who.val (s.clearRecs who.val p.val set).length = true := hroom
      simp only [h0, ne_eq, not_true_eq_false, if_false, Nat.sub_zero, hs, hroom', Bool.not_true, Bool.false_eq_true]
      rfl
    case part =>
      have hroom' : refused.room who.val (refused.clearRecs who.val p.val (set - held)).length = true := hroom
      simp only [ht, Bool.false_eq_true, if_false, ne_eq, hh', not_false_eq_true, if_true, hs]
      exact if_neg (by rw [hroom']; exact Bool.false_ne_true)
    case refused =>
      simp only [ht, he, Bool.false_eq_true, if_false, ne_eq, hs, not_false_eq_true, if_true, Nat.sub_self]
      rfl
    case none =>
      have hz : held = 0 := by rw [← hheld, hs, trustedBits_zero]
      simp only [hs, hz, ite_self, ne_eq, not_true_eq_false, if_false, Nat.sub_self, if_true]

/-! FLT_INJECT and the tick of the tallies (R64, R325, R326). -/

theorem tickDue_iff : s.tickDue p = true ↔ s.now % 100000000 = 0 ∧ NatTbl.at_ s.ticked p ≠ s.now + 1 := by
  simp only [State.tickDue, Bool.and_eq_true, beq_iff_eq, bne_iff_ne]

/-- Settles O24. -/
theorem injectAndLatch : Obligations.InjectAndLatch := by
  unfold Obligations.InjectAndLatch
  refine ⟨fun who p source counted count s h => congrArg _ (writeWith_logged h), fun p s => ?_⟩
  intro latched due
  have hdue : due ↔ s.tickDue p.val = true := tickDue_iff.symm
  refine ⟨fun ht hd hk => ?other, fun i ht hd hk => ?press, fun hno => ?idle⟩
  case other =>
    refine congrArg _ ((if_neg (by simp [ht, hdue.1 hd])).trans ?_)
    dsimp only
    split
    next hp => exact absurd (congrArg Prod.fst hp) hk
    next => rfl
  case press =>
    refine congrArg _ ((if_neg (by simp [ht, hdue.1 hd])).trans ?_)
    dsimp only
    rw [hk]
  case idle =>
    refine congrArg _ (if_pos ?_)
    rw [hdue] at hno
    simpa using hno

end Sys2Proof.Machine
end

section
/-! PROOFS. The latch of a page's tallies (R64), and REGISTER_WRITE through the page window (R20, R51, R59, R60). -/

namespace Sys2Proof.Machine

variable {s : State} {who p off : Nat} {value : Word}

/-! What accrues the time tallies leaves of the registers (R250). -/

@[simp] theorem State.addTime_regs (p i t : Nat) : (s.addTime p i t).regs = s.regs := rfl

theorem State.foldl_addTime_regs (l : List (Nat × Nat)) (s : State) :
    (l.foldl (fun (t : State) (e : Nat × Nat) => t.addTime (chPage (e.1 / 2)) 7 e.2) s).regs = s.regs :=
  foldl_holds (P := fun t : State => t.regs = s.regs) l rfl fun _ _ h => h

theorem State.accrue_regs : s.accrue.regs = s.regs := by
  unfold State.accrue
  extract_lets t u v
  have hu : u.regs = s.regs := by
    simp only [u]
    split
    · exact State.foldl_addTime_regs _ s
    · exact State.foldl_addTime_regs _ s
  have hv : v.regs = u.regs := by
    simp only [v]
    split <;> rfl
  exact hv.trans hu

/-! The latch, a tally at a time. -/

theorem fkey_tally (p i : Nat) : fkey p TALLY i = 1024 * p + (24 + i) := by
  simp only [fkey, regKey, TALLY]
  omega

/-- The locked pairs are read at another register than any tally. -/
theorem fkey_pairLock_ne_tally (n p : Nat) {i : Nat} (hi : i < 8) :
    fkey (outPage n 0) OUT_TIM_CTRL_pair_lock 0 ≠ fkey p TALLY i := by
  rw [fkey_tally]
  simp only [fkey, regKey, OUT_TIM_CTRL_pair_lock]
  omega

theorem tallyShown_congr {t : State} (h : ∀ n, t.pairLocked n = s.pairLocked n) (p i run : Nat) :
    t.tallyShown p i run = s.tallyShown p i run := by
  unfold State.tallyShown
  split <;> simp only [h]

/-- From `a` to `t` the first `n` tallies of page `p` have latched, and nothing else differs. -/
structure Latched (a t : State) (p n : Nat) : Prop where
  frame : t = { a with regs := t.regs, tally := t.tally }
  regs : Tbl.wf regReset t.regs = true
  tally : Tbl.wf (fun _ => 0) t.tally = true
  shown : ∀ i < n, t.rd p TALLY i = (a.tallyShown p i (NatTbl.at_ a.tally (8 * p + i))).1 % 2 ^ 32
  kept : ∀ i < n, NatTbl.at_ t.tally (8 * p + i) = (a.tallyShown p i (NatTbl.at_ a.tally (8 * p + i))).2
  otherRegs : ∀ k, (∀ i < n, k ≠ fkey p TALLY i) → t.reg k = a.reg k
  otherTallies : ∀ k, (∀ i < n, k ≠ 8 * p + i) → NatTbl.at_ t.tally k = NatTbl.at_ a.tally k

/-- Tally `i` of page `p` latches. -/
def State.latchOne (t : State) (p i : Nat) : State :=
  let (shown, rest) := t.tallyShown p i (NatTbl.at_ t.tally (8 * p + i))
  { t.wr p TALLY shown i with tally := NatTbl.put t.tally (8 * p + i) rest }

theorem Latched.step {a t : State} {n : Nat} (h : Latched a t p n) (hn : n < 8) : Latched a (t.latchOne p n) p (n + 1) := by
  have hpair : ∀ m, t.pairLocked m = a.pairLocked m := fun m =>
    congrArg (fun w => OUT_TIM_CTRL_pair_lock.get w == 1) (h.otherRegs _ fun i hi => fkey_pairLock_ne_tally _ _ (by omega))
  have hrun : NatTbl.at_ t.tally (8 * p + n) = NatTbl.at_ a.tally (8 * p + n) := h.otherTallies _ fun i hi => by omega
  have hone : t.latchOne p n =
      { t.wr p TALLY (a.tallyShown p n (NatTbl.at_ a.tally (8 * p + n))).1 n with
        tally := NatTbl.put t.tally (8 * p + n) (a.tallyShown p n (NatTbl.at_ a.tally (8 * p + n))).2 } := by
    rw [State.latchOne, tallyShown_congr hpair, hrun]
  rw [hone]
  refine ⟨?_, Tbl.wf_set _ _ h.regs, Tbl.wf_set _ _ h.tally, fun i hi => ?_, fun i hi => ?_, fun k hk => ?_, fun k hk => ?_⟩
  · rw [h.frame]
    rfl
  · by_cases hin : i = n
    · subst hin
      exact State.rd_wr_same h.regs p TALLY (by decide) (by decide) _ i
    · refine (State.rd_wr_other h.regs p p TALLY TALLY _ n i ?_).trans (h.shown i (by omega))
      rw [fkey_tally, fkey_tally]
      omega
  · by_cases hin : i = n
    · subst hin
      exact Tbl.get_set_same _ _ h.tally
    · exact (Tbl.get_set_other _ h.tally (by omega)).trans (h.kept i (by omega))
  · exact (State.reg_wr_other h.regs p TALLY _ n (hk n (by omega))).trans (h.otherRegs k fun i hi => hk i (by omega))
  · exact (Tbl.get_set_other _ h.tally (hk n (by omega))).trans (h.otherTallies k fun i hi => hk i (by omega))

theorem latched_range {a : State} (hr : Tbl.wf regReset a.regs = true) (ht : Tbl.wf (fun _ => 0) a.tally = true) :
    ∀ n ≤ 8, Latched a ((List.range n).foldl (fun (t : State) i => t.latchOne p i) a) p n := by
  intro n
  induction n with
  | zero => exact fun _ => ⟨rfl, hr, ht, fun _ h => absurd h (Nat.not_lt_zero _), fun _ h => absurd h (Nat.not_lt_zero _),
      fun _ _ => rfl, fun _ _ => rfl⟩
  | succ n ih =>
    intro hn
    rw [List.range_succ, List.foldl_concat]
    exact (ih (by omega)).step (by omega)

/-- The latch of a page that has tallies. -/
theorem latch_eq (h : 0 < (capsOf (kindOf p).1).tallies) : s.latch p =
    (let u := (List.range (capsOf (kindOf p).1).tallies).foldl (fun (t : State) i => t.latchOne p i)
      (if isMem (kindOf p).1 then s.accrue else s)
    u.wr p PAGE_STATUS_tally_seq ((u.rd p PAGE_STATUS_tally_seq + 1) % 256)) := if_neg (Nat.ne_of_gt h)

/-- Settles O25: each tally in turn, then tally_seq, whose register is no tally's. -/
theorem tallyLatchTogether : Obligations.TallyLatchTogether := by
  unfold Obligations.TallyLatchTogether
  intro p s hc hp hpos h8 a t
  have hk : Keeps s.pending s.now a := keeps_ite (keeps_State_accrue (keeps_of_canonical hc)) (keeps_of_canonical hc)
  have hregs : a.regs = s.regs := by
    simp only [a]
    split
    · exact State.accrue_regs
    · rfl
  have ht : t = _ := latch_eq hpos
  have hl : Latched a _ p (capsOf (kindOf p).1).tallies := latched_range hk.regs hk.tally _ h8
  generalize (List.range (capsOf (kindOf p).1).tallies).foldl (fun (t : State) i => t.latchOne p i) a = u at ht hl
  have hseq : ∀ i < 8, fkey p TALLY i ≠ fkey p PAGE_STATUS_tally_seq 0 := fun i hi => by
    rw [fkey_tally]
    simp only [fkey, regKey, PAGE_STATUS_tally_seq]
    omega
  have hold : u.rd p PAGE_STATUS_tally_seq = s.rd p PAGE_STATUS_tally_seq :=
    congrArg PAGE_STATUS_tally_seq.get ((hl.otherRegs _ fun i hi => (hseq i (by omega)).symm).trans (congrArg (Tbl.get regReset · _) hregs))
  rw [ht]
  refine ⟨fun i hi => ⟨(State.rd_wr_other hl.regs p p _ _ _ 0 i (hseq i (by omega))).trans (hl.shown i hi), hl.kept i hi⟩, ?_,
    fun k hk => hl.otherTallies k fun i hi => by omega, ?_⟩
  · refine (State.rd_wr_same hl.regs p PAGE_STATUS_tally_seq (by decide) (by decide) _ 0).trans ?_
    rw [hold]
    exact Nat.mod_mod _ _
  · have hframe := hl.frame
    rw [hframe]
    rfl

/-! REGISTER_WRITE. -/

theorem busWrite_native (hb : s.busPage who off = some p) (hk : (kindOf p).1 ≠ .leg) (be : BitVec 4) :
    s.busWrite who off value be = s.pageWrite who p (off % 4096 / 4 * 4) value be := by
  unfold State.busWrite
  rw [hb]
  dsimp only
  split
  next h => exact absurd (congrArg Prod.fst h) hk
  next => rfl

theorem busWrite_legacy (hb : s.busPage who off = some p) (hk : (kindOf p).1 = .leg) (be : BitVec 4) :
    s.busWrite who off value be
      = s.legWrite who ((p - legPage 0 0) / 16) ((p - legPage 0 0) % 16 * 4096 + off % 4096 / 4 * 4) value be := by
  unfold State.busWrite
  rw [hb]
  dsimp only
  split
  next => rfl
  next h => exact (h (kindOf p).2 (Prod.ext hk rfl)).elim

/-- A write of the whole word at no page of the window. -/
theorem busWrite_unmapped (hb : s.busPage who off = none) (hh : s.hostHeard = true) (be : BitVec 4) :
    s.busWrite who off value be = s.charge who := by
  unfold State.busWrite
  rw [hb]
  exact if_pos hh

/-- A write of a whole word is judged on that word, where a step past the first stops it. -/
theorem judge_snd {data : Bool} {rule : Word → Rule} (h1 : (s.judge who p off value 15 data rule).1 ≠ .ignored)
    (h2 : (s.judge who p off value 15 data rule).1 ≠ .foreign) : (s.judge who p off value 15 data rule).2 = value := by
  unfold State.judge at *
  split
  · rw [if_pos ‹_›] at h1
    exact absurd rfl h1
  split
  · rw [if_neg ‹_›, if_pos ‹_›] at h2
    exact absurd rfl h2
  split
  · rfl
  · simp only [RegRow.merge_full]
    split_ifs <;> rfl

/-- A write that a step past the first stops. -/
theorem writeWith_verdict {data : Bool} {rule : Word → Rule} {recs : Word → List Rec} {eff : Word → State → State} {vd : Verdict}
    (h : (s.judge who p off value 15 data rule).1 = vd) (hv : vd ≠ .carried) :
    s.writeWith who p off value 15 data rule recs eff = s.turnAway who p off (s.judge who p off value 15 data rule).2 vd :=
  writeWith_stopped (Prod.ext h rfl) hv

/-- The pages whose block registers have no rule of their own. -/
theorem blockWrite_simple {be : BitVec 4} (h : (kindOf p).1 ∈ [.lay, .pl, .hst 0, .hst 1, .vltBg, .cus 0, .cus 1, .cus 2, .cus 4]) :
    s.blockWrite who p off value be = s.plainWrite who p off value be (fun _ => .ok) id := by
  unfold State.blockWrite
  generalize kindOf p = kn at h
  obtain ⟨k, n⟩ := kn
  simp only [List.mem_cons, List.not_mem_nil, or_false] at h
  rcases h with rfl | rfl | rfl | rfl | rfl | rfl | rfl | rfl | rfl <;> rfl

/-- The rule of the registers that have none of their own but for EVT_ENABLE (R56, R257). -/
def State.plainRule (s : State) (who p off : Nat) (v : Word) : Rule :=
  match s.escrowRule who p off with
  | .ok => if off = EVT_ENABLE.off then evtRule p v else .ok
  | r => r

/-- A register with no path of its own stores what the write produces. -/
theorem pageWrite_plain
    (hown : off ∉ [PAGE_CTRL.off, EVT_PENDING.off, FLT_STICKY.off, FLT_CLASS0.off, FLT_CLASS1.off, FLT_INJECT.off])
    (hp : off < 0x80 ∨ (kindOf p).1 ∈ [.lay, .pl, .hst 0, .hst 1, .vltBg, .cus 0, .cus 1, .cus 2, .cus 4]) :
    s.pageWrite who p off value 15 =
      s.writeWith who p off value 15 false (s.plainRule who p off) (s.writeRec who p off) fun v t => t.store p off v := by
  simp only [List.mem_cons, List.not_mem_nil, or_false, not_or] at hown
  obtain ⟨hctrl, hpend, hsticky, hc0, hc1, hinj⟩ := hown
  have hrule : ∀ rule : Word → Rule, (∀ v, rule v = if off = EVT_ENABLE.off then evtRule p v else .ok) →
      s.plainWrite who p off value 15 rule id =
        s.writeWith who p off value 15 false (s.plainRule who p off) (s.writeRec who p off) fun v t => t.store p off v := by
    intro rule h
    obtain rfl : rule = fun v => if off = EVT_ENABLE.off then evtRule p v else .ok := funext h
    rfl
  unfold State.pageWrite
  rw [if_neg hctrl]
  by_cases hev : off = EVT_ENABLE.off
  · rw [if_pos hev]
    exact hrule _ fun v => (if_pos hev).symm
  · rw [if_neg hev, if_neg hpend, if_neg hsticky, if_neg (not_or.2 ⟨hc0, hc1⟩), if_neg hinj]
    split
    next => exact hrule _ fun v => (if_neg hev).symm
    next h =>
      rw [blockWrite_simple (hp.resolve_left h)]
      exact hrule _ fun v => (if_neg hev).symm

/-- Settles O26. -/
theorem registerWriteCommand : Obligations.RegisterWriteCommand := by
  unfold Obligations.RegisterWriteCommand
  intro who addr value s p off own plain rule verdict done
  refine ⟨fun hb hk be => congrArg _ (busWrite_native hb hk be), fun hb hk be => congrArg _ (busWrite_legacy hb hk be),
    fun hb hk ⟨hown, hp⟩ => ?_, fun hb hh be => congrArg _ (busWrite_unmapped hb hh be)⟩
  have hdone : done = .next (s.writeWith who.val p off value 15 false (s.plainRule who.val p off) (s.writeRec who.val p off)
      fun v t => t.store p off v) := congrArg _ ((busWrite_native hb hk 15).trans (pageWrite_plain hown hp))
  have hstop : ∀ {vd}, verdict = vd → vd ≠ .carried → done = .next (s.turnAway who.val p off (s.judge who.val p off value 15 false rule).2 vd) :=
    fun h hv => hdone.trans (congrArg _ (writeWith_verdict h hv))
  refine ⟨fun h => hdone.trans (congrArg _ (writeWith_logged (beq_iff_eq.2 h))), fun h => hstop h nofun, fun h => (hstop h nofun).trans ?_,
    fun h => hstop h nofun, fun h => hstop h nofun, fun h => hstop h nofun⟩
  have hv : (s.judge who.val p off value 15 false rule).1 = .range := h
  have hsnd : (s.judge who.val p off value 15 false rule).2 = value := judge_snd (by rw [hv]; nofun) (by rw [hv]; nofun)
  rw [hsnd]
  rfl

end Sys2Proof.Machine
end

section
/-! PROOFS. Fault scans, the wave of FLT_OUT, the heartbeat and the safe-state requests (R314, R320 to R324), adaptive voltage and the
canaries (R34 to R41), and handshakes that fail (R31, R43). -/

namespace Sys2Proof.Machine

variable {s t : State} {who p off : Nat} {value : Word}

/-! Scans (R314). -/

/-- The end of a scan: it is counted and its time noted. -/
def State.scanEnds (u : State) : State :=
  let t := (u.wr (fltPage 0) FLT_SCAN_scans ((u.rd (fltPage 0) FLT_SCAN_scans + 1) % 65536)).wr (fltPage 0) FLT_SCAN_last
    (min 0xFFFF ((u.now - u.flt.scanAt) / 10))
  { t with flt := { t.flt with scanAt := u.now, scanEnd := some u.now } }

theorem execFaultScan_unarmed (ha : s.boot.awake = true) (harm : s.rd flt2 FLT_INJECT_arm = 0) :
    execFaultScan s = .next s.lateCaptures.noteScanLapse.scanEnds := by
  unfold execFaultScan
  rw [if_neg (by simp [ha]), useInject_unarmed (.inl harm)]
  rfl

theorem lateCaptures_nil (h : s.missed = []) : s.lateCaptures = s := if_pos (by rw [h]; rfl)

theorem lateCaptures_of_missed (h : s.missed ≠ []) :
    s.lateCaptures = (s.missed.foldl (fun (t : State) e => State.settle (t.collect e.1 e.2)) s).fault flt2 0 :=
  if_neg (by simpa using h)

theorem noteScanLapse_of_timely (h : ∀ t, s.flt.scanEnd = some t → s.now ≤ t + s.halfNs) : s.noteScanLapse = s := by
  unfold State.noteScanLapse
  split
  next t ht => exact if_neg (Nat.not_lt.2 (h t ht))
  next => rfl

theorem noteBeatLapse_of_timely {m at_ : Nat} (hb : s.flt.heartbeat = some (m, at_)) (h : s.now ≤ at_ + 4 * s.halfNs) :
    s.noteBeatLapse = s := by
  unfold State.noteBeatLapse
  rw [hb]
  exact if_neg (Nat.not_lt.2 h)

/-! The wave (R323). -/

theorem boundaryDue_iff : s.boundaryDue = true ↔ (s.now - s.flt.wave) % s.halfNs = 0 ∧ s.flt.flipped ≠ s.now + 1 := by
  simp only [State.boundaryDue, Bool.and_eq_true, beq_iff_eq, bne_iff_ne]

/-- FLT_OUT_STATUS as it shows the two conditions of the wave at a boundary. -/
def State.waveShown (s : State) : State :=
  (s.wr flt2 FLT_OUT_STATUS_scan_late (b2n (!s.scanGood))).wr flt2 FLT_OUT_STATUS_hb_late (b2n (!s.beatGood))

/-- The conditions of the wave hold. -/
def State.waveGood (t : State) : Prop := t.rd flt2 FLT_OUT_STATUS_pin_fault = 0 ∧ t.scanGood = true ∧ t.beatGood = true

theorem waveGood_iff : (t.rd flt2 FLT_OUT_STATUS_pin_fault == 0 && t.scanGood && t.beatGood) = true ↔ t.waveGood := by
  simp only [State.waveGood, Bool.and_eq_true, beq_iff_eq, and_assoc]

theorem halfBoundary_compat (h : s.rd flt2 FLT_OUT_STATUS_compat = 1) : s.halfBoundary = s := if_pos (.inl h)

section boundary
variable (hc : s.rd flt2 FLT_OUT_STATUS_compat ≠ 1) (ha : s.boot.awake = true)
include hc ha

theorem halfBoundary_turns (hal : s.waveShown.rd flt2 FLT_OUT_STATUS_alive = 1) (hg : s.waveShown.waveGood) :
    s.halfBoundary = s.waveShown.wr flt2 FLT_OUT_STATUS_level (1 - s.waveShown.rd flt2 FLT_OUT_STATUS_level) :=
  (if_neg (by simp [hc, ha])).trans ((if_pos hal).trans (if_pos (waveGood_iff.2 hg)))

theorem halfBoundary_stops (hal : s.waveShown.rd flt2 FLT_OUT_STATUS_alive = 1) (hg : ¬ s.waveShown.waveGood) :
    s.halfBoundary = (s.waveShown.count flt2 1).hwChange (fkey flt2 FLT_OUT_STATUS 0)
      (FLT_OUT_STATUS_level.put (FLT_OUT_STATUS_alive.put (s.waveShown.reg (fkey flt2 FLT_OUT_STATUS 0)) 0) 0) :=
  (if_neg (by simp [hc, ha])).trans ((if_pos hal).trans (if_neg (mt waveGood_iff.1 hg)))

theorem halfBoundary_restarts (hal : s.waveShown.rd flt2 FLT_OUT_STATUS_alive ≠ 1) (hg : s.waveShown.waveGood)
    (hw : s.waveShown.flt.ceased + 16 * s.waveShown.halfNs ≤ s.waveShown.now) :
    s.halfBoundary = s.waveShown.hwChange (fkey flt2 FLT_OUT_STATUS 0)
      (FLT_OUT_STATUS_level.put (FLT_OUT_STATUS_alive.put (s.waveShown.reg (fkey flt2 FLT_OUT_STATUS 0)) 1) 1) :=
  (if_neg (by simp [hc, ha])).trans ((if_neg hal).trans
    (if_pos (Bool.and_eq_true_iff.2 ⟨waveGood_iff.2 hg, decide_eq_true hw⟩)))

end boundary

/-! Writes of FLT page 2. -/

/-- Above the action registers nothing is locked or out of range by a rule of the page. -/
theorem fltWrite_logged (ho : ¬ off < 0x90) (h : s.writeOk who flt2 off value false (fun _ => .ok) = true) :
    s.fltWrite who 2 off value 15 =
      (let u := s.log who (s.writeRec who flt2 off value)
      let w := u.store flt2 off value
      if off = FLT_OUT_CTRL.off then (if w.halfNs = u.halfNs then w else u.halfChanged w)
      else if off = FLT_SAFE_CTRL.off then w.safeChanged
      else w) := by
  have hrule : (fun v : Word => if 2 = 0 ∧ v.toNat % 64 / 16 ≠ 0 then Rule.range
      else if 2 = 2 ∧ off < 0x90 ∧ s.boot.released then .locked else .ok) = fun _ => .ok :=
    funext fun v => (if_neg (by simp)).trans (if_neg (by simp [ho]))
  rw [← hrule] at h
  unfold State.fltWrite
  refine (writeWith_logged h).trans ?_
  exact if_neg ho

/-! The heartbeat (R324). -/

theorem heartbeatWrite_accepted {m at_ : Nat} (hw : who ≠ 32 ∨ s.cusUp = true)
    (h : s.writeOk who flt2 FLT_HEARTBEAT.off value true (fun _ => .ok) = true) (hb : s.flt.heartbeat = some (m, at_)) :
    s.heartbeatWrite who value 15 =
      if FLT_HEARTBEAT_seq.get value ≠ (m + 1) % 65536 then s.fault flt2 2
      else { s.noteBeatLapse with flt := { s.noteBeatLapse.flt with heartbeat := some (FLT_HEARTBEAT_seq.get value, s.noteBeatLapse.now) } } := by
  refine (if_neg (by rcases hw with hw | hw <;> simp [hw])).trans ((writeWith_writeOk_data h).trans ?_)
  dsimp only
  rw [hb]

/-- Settles O27. -/
theorem faultScansAndWave : Obligations.FaultScansAndWave := by
  unfold Obligations.FaultScansAndWave
  refine ⟨fun s ha => ?scans, fun s ha => ?wave, fun who seq m at_ s hw h hb hseq => ?beat⟩
  case scans =>
    refine ⟨fun harm hm ht => ?_, fun harm hm => ?_, fun h => ?_, fun h => ?_⟩
    · rw [show exec .faultScan s = _ from execFaultScan_unarmed ha harm, lateCaptures_nil hm, noteScanLapse_of_timely ht]
      rfl
    · rw [show exec .faultScan s = _ from execFaultScan_unarmed ha harm, lateCaptures_of_missed hm]
      rfl
    · exact congrArg _ (if_neg (by simp [ha, h]))
    · exact congrArg _ (if_pos (.inr h))
  case wave =>
    intro due a t good
    have hdue : due → exec .fltOutToggle s = .next a.halfBoundary := fun h => congrArg _ (if_pos (boundaryDue_iff.2 h))
    refine ⟨fun hc h hal hg => ?_, fun hc h hal hg => ?_, fun hc h hal hg hw => ?_, fun hc h => ?_, fun h => ?_, fun who half => ?_⟩
    · exact (hdue h).trans (congrArg _ (halfBoundary_turns (s := a) hc ha hal hg))
    · exact (hdue h).trans (congrArg _ (halfBoundary_stops (s := a) hc ha hal hg))
    · exact (hdue h).trans (congrArg _ (halfBoundary_restarts (s := a) hc ha hal hg hw))
    · exact (hdue h).trans (congrArg _ (halfBoundary_compat (s := a) hc))
    · exact congrArg _ (if_neg (mt boundaryDue_iff.1 h))
    · intro v u hok
      exact congrArg _ ((fltWrite_logged (by decide) hok).trans (if_pos rfl))
  case beat =>
    have hx : exec (.heartbeat who seq) s = _ := congrArg Host.Outcome.next (heartbeatWrite_accepted hw h hb)
    simp only [hseq] at hx
    refine ⟨fun hn ht => hx.trans (congrArg _ ((if_neg (not_not_intro hn)).trans ?_)), fun hn => hx.trans (congrArg _ (if_pos hn))⟩
    rw [noteBeatLapse_of_timely hb ht]

/-- Settles O28. -/
theorem safeStateRequests : Obligations.SafeStateRequests := by
  unfold Obligations.SafeStateRequests
  intro s
  refine ⟨fun n h => congrArg _ (if_neg (Nat.not_lt.2 h)), fun n h => congrArg _ (if_pos h), fun n h => congrArg _ (if_neg (Nat.not_lt.2 h)),
    fun n h => congrArg _ (if_pos h), fun who on => ?_⟩
  intro v hok
  exact congrArg _ ((fltWrite_logged (by decide) hok).trans ((if_neg (by decide)).trans (if_pos rfl)))

/-! Handshakes (R31, R43). -/

theorem handshake_mint {x src : Nat} {m : MintId} (hx : m.val / 256 = x) (hp : ((s.fault (xchPage x) src).mint m.val).phase ≠ .idle) :
    s.handshake x src (.mint m) = (s.fault (xchPage x) src).bounce m.val := if_pos ⟨hx, hp⟩

theorem handshake_mint_elsewhere {x src : Nat} {m : MintId} (h : m.val / 256 ≠ x ∨ ((s.fault (xchPage x) src).mint m.val).phase = .idle) :
    s.handshake x src (.mint m) = s.fault (xchPage x) src := if_neg (by tauto)

/-- Settles O31. -/
theorem handshakeErrors : Obligations.HandshakeErrors := by
  unfold Obligations.HandshakeErrors
  intro x m s
  exact ⟨rfl, rfl, fun hx hp => congrArg _ (handshake_mint hx hp), fun hx hp => congrArg _ (handshake_mint hx hp),
    fun h => congrArg _ (handshake_mint_elsewhere h), fun h => congrArg _ (handshake_mint_elsewhere h)⟩

end Sys2Proof.Machine
end

section
/-! PROOFS. The wake sequencer (R45 to R49): the order of service, what a wake request joins or withdraws, and what a step's issue and end
leave. -/

namespace Sys2Proof.Machine

variable {s t : State} {p : Nat} {w : Wake}

/-! The order of service (R47). -/

/-- What the order of service compares. -/
def Wake.rank (w : Wake) : List Nat := [w.cls, if w.cls = 0 then w.deadline else 0, w.at_, stepUnit w.page, w.page]

theorem Wake.before_eq_false {v w : Wake} : v.before w = false ↔ w.rank ≤ v.rank := by
  rw [← not_lt]
  exact decide_eq_false_iff_not

theorem nextWake_eq_none {q : List Wake} (h : nextWake q = none) : q = [] := by
  cases q with
  | nil => rfl
  | cons w q =>
    unfold nextWake at h
    split at h <;> cases h

/-- The request served next is one of the queue's, and none comes before it. -/
theorem nextWake_first {q : List Wake} (h : nextWake q = some w) : w ∈ q ∧ ∀ v ∈ q, w.rank ≤ v.rank := by
  induction q generalizing w with
  | nil => cases h
  | cons x q ih =>
    unfold nextWake at h
    split at h
    next hq =>
      cases h
      rw [nextWake_eq_none hq]
      exact ⟨List.mem_singleton_self _, fun v hv => by rw [List.mem_singleton.1 hv]⟩
    next v hq =>
      obtain ⟨hmem, hfirst⟩ := ih hq
      cases h
      split
      next hb =>
        have hlt : v.rank < x.rank := of_decide_eq_true hb
        exact ⟨List.mem_cons_of_mem _ hmem, List.forall_mem_cons.2 ⟨le_of_lt hlt, hfirst⟩⟩
      next hb =>
        have hle : x.rank ≤ v.rank := Wake.before_eq_false.1 (Bool.eq_false_iff.2 hb)
        exact ⟨List.mem_cons_self .., List.forall_mem_cons.2 ⟨le_refl _, fun u hu => le_trans hle (hfirst u hu)⟩⟩

/-! Requests (R45, R47). -/

/-- The queue with one more request. -/
def State.enqueueWake (s : State) (w : Wake) : State := { s with seq := { s.seq with queue := s.seq.queue ++ [w] } }

theorem withdraw_none (h : s.seq.step = none) : s.withdraw = s := by
  unfold State.withdraw
  rw [h]

theorem withdraw_deadline {n : Nat} (h : s.seq.step = some (w, n)) (hw : w.cls = 0) : s.withdraw = s := by
  unfold State.withdraw
  rw [h]
  exact if_pos hw

theorem withdraw_lower {n : Nat} (h : s.seq.step = some (w, n)) (hw : w.cls ≠ 0) :
    s.withdraw = { s with seq := { s.seq with queue := s.seq.queue ++ [w], step := none, issued := s.seq.issued.dropLast } } := by
  unfold State.withdraw
  rw [h]
  exact if_neg hw

/-- A unit that sleeps and has steps to take. -/
theorem wakeAsk_queue {cls deadline : Nat} (hw : s.wakes p = false) (hp : s.power p = 0 ∨ s.power p = 1) (hs : s.wakeSteps p ≠ []) :
    s.wakeAsk p cls deadline =
      (let t := s.enqueueWake ⟨p, cls, deadline, s.now, s.wakeSteps p⟩
      if cls = 0 then t.withdraw else t).syncSeq := by
  unfold State.wakeAsk
  rw [if_neg (by simp [hw]), if_neg (by omega), if_neg (by simpa using hs)]
  rfl

theorem wakeAsk_on {cls deadline : Nat} (hw : s.wakes p = false) (hp : s.power p = 0 ∨ s.power p = 1) (hs : s.wakeSteps p = []) :
    s.wakeAsk p cls deadline = (s.setPower p 3).avsFollow (s.setPower p 3).pressOn := by
  unfold State.wakeAsk
  rw [if_neg (by simp [hw]), if_neg (by omega), if_pos (by rw [hs]; rfl)]

/-- A unit that waits or wakes already. -/
theorem wakeAsk_waiting {cls deadline : Nat} (hw : s.wakes p = true) :
    s.wakeAsk p cls deadline = if cls = 0 then s.promoteWakes [p] deadline else s := if_pos hw

/-- A deadline request moves no step of another unit. -/
theorem Wake.promote_other {pages : List Nat} {deadline : Nat} (h : w.page ∉ pages) : w.promote pages deadline = w :=
  if_pos (by simpa using h)

theorem Wake.promote_cls {pages : List Nat} {deadline : Nat} (h : w.page ∈ pages) : (w.promote pages deadline).cls = 0 := by
  unfold Wake.promote
  rw [if_neg (by simpa using h)]
  split
  next h0 => exact h0
  next => rfl

theorem promoteWakes_none {deadline : Nat} (h : s.seq.step = none) :
    s.promoteWakes [p] deadline = ({ s with seq := { s.seq with queue := s.seq.queue.map (Wake.promote [p] deadline) } } : State).syncSeq := by
  unfold State.promoteWakes
  rw [h]
  dsimp only [Option.map_none]
  rw [withdraw_none rfl, ite_self, ← h]

/-- A unit whose request waits in a lower class while a lower-class step of another unit is in progress. -/
theorem promoteWakes_withdraws {deadline n : Nat} (hp : s.wakes p = true) (h : s.seq.step = some (w, n)) (hpage : w.page ≠ p) (hw : w.cls ≠ 0) :
    s.promoteWakes [p] deadline =
      ({ s with seq := { s.seq with queue := s.seq.queue.map (Wake.promote [p] deadline) ++ [w], step := none,
                                    issued := s.seq.issued.dropLast } } : State).syncSeq := by
  have hqueued : s.seq.queue.any (·.page == p) = true := by
    simpa only [State.wakes, h, beq_eq_false_iff_ne.2 hpage, Bool.or_false] using hp
  obtain ⟨v, hv, hvp⟩ := List.any_eq_true.1 hqueued
  have hdeadline : (s.seq.queue.map (Wake.promote [p] deadline)).any (·.cls == 0) = true :=
    List.any_eq_true.2 ⟨_, List.mem_map_of_mem hv, beq_iff_eq.2 (Wake.promote_cls (List.mem_singleton.2 (beq_iff_eq.1 hvp)))⟩
  unfold State.promoteWakes
  rw [h]
  dsimp only [Option.map_some]
  rw [if_pos hdeadline, Wake.promote_other (by simpa using hpage), withdraw_lower rfl hw]

/-! Steps (R46). -/

@[simp] theorem State.avsSend_seq (code : Nat) : (s.avsSend code).seq = s.seq := rfl

theorem State.avsFollow_seq (load : Nat → Bool) : (s.avsFollow load).seq = s.seq := by
  unfold State.avsFollow
  split
  · rfl
  · dsimp only
    split <;> rfl

/-- A request of the controller changes GLB_AVS_STATUS alone. -/
theorem State.rd_avsSend_other (h : Tbl.wf regReset s.regs = true) (code p : Nat) (f : Fld) (i : Nat)
    (ho : (f.off + i * f.stride) / 4 % 1024 ≠ 38) : (s.avsSend code).rd p f i = s.rd p f i :=
  (State.rd_wr_other (State.regs_wf_wr h ..) _ _ GLB_AVS_STATUS_vsram_code _ _ _ _ (fkey_ne_of_offset_ne ho)).trans
    (State.rd_wr_other h _ _ GLB_AVS_STATUS_request_code _ _ _ _ (fkey_ne_of_offset_ne ho))

theorem State.rd_avsFollow_other (h : Tbl.wf regReset s.regs = true) (load : Nat → Bool) (p : Nat) (f : Fld) (i : Nat)
    (ho : (f.off + i * f.stride) / 4 % 1024 ≠ 38) : (s.avsFollow load).rd p f i = s.rd p f i := by
  unfold State.avsFollow
  split
  · rfl
  · dsimp only
    split
    · exact State.rd_avsSend_other h _ p f i ho
    · rfl

/-- The sequencer's books once the step of `w` has issued. -/
def State.booked (s : State) (w : Wake) : State :=
  { s with seq := { s.seq with
    queue := s.seq.queue.filter fun v => v.page != w.page, step := some (w, s.now + s.stepNs w.page),
    issued := (s.seq.issued.filter fun (e : Nat × Nat) => s.now < e.1 + longestWindow) ++ [(s.now, stepAmps w.page)],
    lastStep := (s.seq.lastStep.filter fun (e : Nat × Nat) => e.1 != stepUnit w.page) ++ [(stepUnit w.page, s.now)] } }

theorem stepIssue_eq : s.stepIssue w =
    (let t := (if w.page < 4096 then (s.booked w).setPower w.page 2 else s.booked w).syncSeq
    if (w.page < 4096 && s.power w.page != 2) && (kindOf w.page).1 == .press then t.avsFollow t.pressUp else t) := rfl

theorem stepIssue_seq : (s.stepIssue w).seq = (s.booked w).seq := by
  rw [stepIssue_eq]
  dsimp only
  have hsync : (if w.page < 4096 then (s.booked w).setPower w.page 2 else s.booked w).syncSeq.seq = (s.booked w).seq := by
    rw [State.syncSeq_seq]
    split <;> rfl
  split
  · exact (State.avsFollow_seq _).trans hsync
  · exact hsync

/-- The unit whose step has issued is WAKING. -/
theorem power_stepIssue (h : Tbl.wf regReset s.regs = true) (hp : w.page < 4096) : (s.stepIssue w).power w.page = 2 := by
  have hb : Tbl.wf regReset (s.booked w).regs = true := h
  have hset := State.regs_wf_setPower hb w.page 2
  have hsync : ((s.booked w).setPower w.page 2).syncSeq.power w.page = 2 :=
    (State.power_syncSeq hset _).trans (State.power_setPower hb _ (by decide))
  rw [stepIssue_eq, if_pos hp]
  dsimp only
  split
  · refine (State.rd_avsFollow_other ?_ _ _ _ 0 (by decide)).trans hsync
    exact State.regs_wf_wr (State.regs_wf_wr (State.regs_wf_wr hset ..) ..) ..
  · exact hsync

/-- A step that has lasted its time. -/
theorem execSeqStepComplete_ends {n : Nat} (h : s.seq.step = some (w, n)) (hn : n ≤ s.now) :
    execSeqStepComplete s = .next (
      let s := { s with seq := { s.seq with step := none } }
      let s := match (kindOf w.page).1, w.left with
        | .vlt, g :: _ => (s.wr (vltPage (1 + g)) VLT_BG_STATUS_on 0xFFFF).setPower (vltPage (1 + g)) 3
        | _, _ => s
      if w.left.length ≤ 1 then (s.wakeDone w).syncSeq
      else { s with seq := { s.seq with queue := s.seq.queue ++ [{ w with left := w.left.drop 1 }] } }.syncSeq) := by
  unfold execSeqStepComplete
  rw [h]
  exact congrArg _ (if_neg (Nat.not_lt.2 hn))

theorem clrWorstWrite_accepted {who : Nat}
    (h : s.writeOk who (glbPage 2) GLB_SEQ_STATUS.off 0x80000000 false (fun _ => .ok) = true) :
    s.clrWorstWrite who 0x80000000 15 =
      (s.log who [s.recOf who 1 0 (regKey (glbPage 2) GLB_SEQ_STATUS.off) (s.reg (fkey (glbPage 2) GLB_SEQ_STATUS 0))
        (s.produced (glbPage 2) GLB_SEQ_STATUS.off 0x80000000)]).wr (glbPage 2) GLB_SEQ_WAKE_WORST 0 := by
  unfold State.clrWorstWrite
  rw [writeWith_single h]
  exact if_pos (by decide)

/-- Settles O29. -/
theorem wakeSequencer : Obligations.WakeSequencer := by
  unfold Obligations.WakeSequencer
  refine ⟨fun s => ⟨fun p cls deadline hw hp => ?asks, fun p cls deadline hw => ?waits, fun w hq => ?issue, fun hq => ?idle,
    fun w n h hn => ?ends, fun w n h hn => ?lasts, fun h => ?none⟩, fun q w h => ?order, fun who s h => ?worst⟩
  case asks =>
    intro q
    refine ⟨fun hs hfree => congrArg _ ((wakeAsk_queue hw hp hs).trans ?_), fun w n hs hstep hcls hw' => congrArg _ ((wakeAsk_queue hw hp hs).trans ?_),
      fun hs => congrArg _ (wakeAsk_on hw hp hs)⟩
    · have hkeep : ∀ t : State, t.seq.step = s.seq.step → (if cls.val = 0 then t.withdraw else t) = t := fun t ht => by
        rcases hfree with hc | hn | ⟨w, u, hstep, hw'⟩
        · exact if_neg hc
        · rw [withdraw_none (ht.trans hn), ite_self]
        · rw [withdraw_deadline (ht.trans hstep) hw', ite_self]
      exact congrArg State.syncSeq (hkeep _ rfl)
    · dsimp only
      rw [if_pos hcls, withdraw_lower (s := s.enqueueWake _) hstep hw']
      rfl
  case waits =>
    intro q
    refine ⟨fun hc => congrArg _ ((wakeAsk_waiting hw).trans (if_neg hc)),
      fun hc hstep => congrArg _ ((wakeAsk_waiting hw).trans ((if_pos hc).trans (promoteWakes_none hstep))),
      fun w n hc hstep hpage hw' => congrArg _ ((wakeAsk_waiting hw).trans ((if_pos hc).trans (promoteWakes_withdraws hw hstep hpage hw')))⟩
  case issue =>
    have hx : exec .seqStepIssue s = .next (if s.mayIssue w then s.stepIssue w else s) := by
      simp only [exec, execSeqStepIssue, hq]
    refine ⟨fun hm => ⟨hx.trans (congrArg _ (if_pos hm)), ?_, fun v hv => ?_, fun hc hp => power_stepIssue (keeps_of_canonical hc).regs hp⟩,
      fun hm => hx.trans (congrArg _ (if_neg (Bool.eq_false_iff.1 hm)))⟩
    · rw [stepIssue_seq]
      rfl
    · rw [stepIssue_seq] at hv
      exact bne_iff_ne.1 (List.mem_filter.1 hv).2
  case idle => simp only [exec, execSeqStepIssue, hq, nextWake]
  case ends =>
    intro t ends
    refine ⟨fun hk => (execSeqStepComplete_ends h hn).trans (congrArg (fun u => Host.Outcome.next (ends u)) ?_),
      fun g rest hk hl => (execSeqStepComplete_ends h hn).trans (congrArg (fun u => Host.Outcome.next (ends u)) ?_)⟩
    · split
      next hv _ => exact absurd hv hk
      next => rfl
    · rw [hk, hl]
  case lasts =>
    simp only [exec, execSeqStepComplete, h]
    exact congrArg _ (if_pos hn)
  case none => simp only [exec, execSeqStepComplete, h]
  case order =>
    obtain ⟨hmem, hfirst⟩ := nextWake_first h
    exact ⟨hmem, fun v hv => Wake.before_eq_false.2 (hfirst v hv)⟩
  case worst => exact congrArg _ (clrWorstWrite_accepted h)

end Sys2Proof.Machine
end

section
/-! PROOFS. Adaptive voltage (R34 to R39) and the canaries (R40, R41). -/

namespace Sys2Proof.Machine

variable {s t : State}

/-! The fall of the request (R37). -/

/-- An entry of the values wanted lower has held for fall_ms. -/
def State.heldLower (s : State) (e : Nat × Nat) : Prop := e.1 + s.rd (glbPage 2) GLB_AVS_CTRL_fall_ms * 1000000 ≤ s.now

/-- The values that have held. -/
def State.heldValues (s : State) : List Nat :=
  (s.avs.lower.filter fun (e : Nat × Nat) => e.1 + s.rd (glbPage 2) GLB_AVS_CTRL_fall_ms * 1000000 ≤ s.now).map (·.2)

theorem mem_heldValues {v : Nat} : v ∈ s.heldValues ↔ ∃ e ∈ s.avs.lower, s.heldLower e ∧ e.2 = v := by
  simp only [State.heldValues, List.mem_map, List.mem_filter, decide_eq_true_eq, and_assoc, State.heldLower]

/-- The request may fall to the least value that has held, and not below the floor. -/
theorem fallTarget_eq : s.fallTarget = s.heldValues.min?.map (max s.avsFloor) := by
  unfold State.fallTarget
  change (match s.heldValues with | [] => none | v :: t => some (max s.avsFloor (t.foldl min v))) = _
  cases s.heldValues with
  | nil => rfl
  | cons v l => rw [List.min?_cons', Option.map_some]

theorem fallTarget_least {e : Nat × Nat} (he : e ∈ s.avs.lower) (hh : s.heldLower e)
    (hmin : ∀ e' ∈ s.avs.lower, s.heldLower e' → e.2 ≤ e'.2) : s.fallTarget = some (max s.avsFloor e.2) := by
  have h : s.heldValues.min? = some e.2 := by
    rw [List.min?_eq_some_iff]
    refine ⟨mem_heldValues.2 ⟨e, he, hh, rfl⟩, fun v hv => ?_⟩
    obtain ⟨e', he', hh', rfl⟩ := mem_heldValues.1 hv
    exact hmin e' he' hh'
  rw [fallTarget_eq, h, Option.map_some]

theorem fallTarget_none (h : ∀ e ∈ s.avs.lower, ¬ s.heldLower e) : s.fallTarget = none := by
  have hnil : s.heldValues = [] := List.eq_nil_iff_forall_not_mem.2 fun v hv => by
    obtain ⟨e, he, hh, -⟩ := mem_heldValues.1 hv
    exact h e he hh
  rw [fallTarget_eq, hnil]
  rfl

theorem execAvsFallStep_some {v : Nat} (h : s.fallTarget = some v) : execAvsFallStep s = .next (
    if s.now < s.avs.fellAt + 1000000 ∨ s.rd (glbPage 2) GLB_AVS_STATUS_request_code ≤ v then s
    else
      let u := s.avsSend (max v (s.rd (glbPage 2) GLB_AVS_STATUS_request_code - 2))
      { u with avs := { u.avs with fellAt := s.now } }) := by
  unfold execAvsFallStep
  rw [h]
  rfl

/-! Read-back and shortfall (R38, R39). -/

theorem tooLow_iff {a b : Nat} : tooLow a b = true ↔ a + 5 < b := decide_eq_true_iff

/-- A rail has been short for 1 ms. -/
def State.shortFor (s : State) (o : Option Nat) : Prop := ∃ t, o = some t ∧ t + 1000000 ≤ s.now

theorem shortFor_iff {o : Option Nat} :
    (match o with | some t => decide (t + 1000000 ≤ s.now) | none => false) = true ↔ s.shortFor o := by
  cases o <;> simp [State.shortFor]

/-- A command that acts on a shortfall that has lasted, and not yet shown. -/
theorem execAvsShortfall_of_short (h : s.shortFor s.avs.shortAt ∨ s.shortFor s.avs.vsramShortAt)
    (h0 : s.rd (glbPage 2) GLB_AVS_STATUS_shortfall = 0) :
    execAvsShortfall s = .next ((s.hwField (glbPage 2) GLB_AVS_STATUS_shortfall 1).setLevel (glbPage 2) 0 true) := by
  refine congrArg _ (if_pos (Bool.and_eq_true_iff.2 ⟨Bool.or_eq_true_iff.2 ?_, beq_iff_eq.2 h0⟩))
  exact h.imp shortFor_iff.2 shortFor_iff.2

theorem execAvsShortfall_of_not_short (hc : ¬ s.shortFor s.avs.shortAt) (hs : ¬ s.shortFor s.avs.vsramShortAt) :
    execAvsShortfall s = .next s := by
  refine congrArg _ (if_neg fun h => ?_)
  exact (Bool.or_eq_true_iff.1 (Bool.and_eq_true_iff.1 h).1).elim (fun h => hc (shortFor_iff.1 h)) fun h => hs (shortFor_iff.1 h)

/-- The instant from which a rail is short, where it is (R38). -/
def shortSince (now : Nat) (low : Prop) [Decidable low] (o : Option Nat) : Option Nat := if low then some (o.getD now) else none

/-- A valid read-back held, with the timing of each rail's shortfall. -/
def State.readBack (s : State) (vcore vsram : Nat) : State :=
  let t := s.wr (glbPage 2) GLB_AVS_STATUS_readback_code vcore
  { t with avs := { t.avs with
    shortAt := shortSince s.now (vcore + 5 < t.rd (glbPage 2) GLB_AVS_STATUS_request_code) s.avs.shortAt
    vsramShortAt := shortSince s.now (vsram + 5 < t.rd (glbPage 2) GLB_AVS_STATUS_vsram_code) s.avs.vsramShortAt } }

theorem execAvsReadback_valid (vcore vsram : Byte) : execAvsReadback true vcore vsram s = .next (
    let t := s.wr (glbPage 2) GLB_AVS_STATUS_readback_code vcore.toNat
    let u := s.readBack vcore.toNat vsram.toNat
    if ¬ (vcore.toNat + 5 < t.rd (glbPage 2) GLB_AVS_STATUS_request_code)
        ∧ ¬ (vsram.toNat + 5 < t.rd (glbPage 2) GLB_AVS_STATUS_vsram_code) ∧ u.rd (glbPage 2) GLB_AVS_STATUS_shortfall = 1 then
      (u.hwField (glbPage 2) GLB_AVS_STATUS_shortfall 0).setLevel (glbPage 2) 0 false
    else u) := by
  unfold execAvsReadback
  refine congrArg _ ((if_neg Bool.false_ne_true).trans ?_)
  extract_lets t lowC lowS since _ u' u
  have hu : u = u' := by
    simp only [u, u', State.readBack, shortSince, since, lowC, lowS, tooLow_iff]
    rfl
  rw [← hu]
  refine if_congr ?_ rfl rfl
  simp only [lowC, lowS, Bool.and_eq_true, Bool.not_eq_true', beq_iff_eq, ← Bool.not_eq_true, tooLow_iff, and_assoc]

/-! Canaries (R40). -/

theorem noteReading_eq (before s : State) (b : Nat) : State.noteReading before s b =
    if before.lowBranch b then
      ({ s with avs := { s.avs with goodAt := NatTbl.put s.avs.goodAt b s.now, breached := true } } : State) else s := rfl

/-- Settles O30. -/
theorem voltageAndCanaries : Obligations.VoltageAndCanaries := by
  unfold Obligations.VoltageAndCanaries
  refine ⟨fun s => ?voltage, fun b canary m0 m1 s => ?canaries⟩
  case voltage =>
    intro cur held short
    refine ⟨fun h => ?_, fun h => congrArg _ (if_pos h), fun e he hh hmin => ?_, fun h => ?_, fun vcore vsram => rfl, fun vcore vsram => ?_,
      execAvsShortfall_of_short, execAvsShortfall_of_not_short⟩
    · have hms : b2n (s.avs.breached || s.anyBreach) = if s.avs.breached = true ∨ s.anyBreach = true then 1 else 0 := by
        simp only [b2n, Bool.or_eq_true]
      rw [← hms]
      exact congrArg _ (if_neg (Nat.not_lt.2 h))
    · intro v
      have hx : exec .avsFallStep s = _ := execAvsFallStep_some (fallTarget_least he hh hmin)
      exact ⟨fun hf hv => hx.trans (congrArg _ (if_neg (by omega))), fun hn => hx.trans (congrArg _ (if_pos hn))⟩
    · simp only [exec, execAvsFallStep, fallTarget_none h]
    · intro t lowC lowS since u
      have hx : exec (.avsReadback true vcore vsram) s = _ := execAvsReadback_valid vcore vsram
      exact ⟨fun hc hs h1 => hx.trans (congrArg _ (if_pos ⟨hc, hs, h1⟩)),
        fun h => hx.trans (congrArg _ (if_neg fun ⟨hc, hs, h1⟩ => h.elim hc fun h => h.elim hs fun h => h h1))⟩
  case canaries =>
    intro x flag read t u guard long hold
    have hrecover : exec (.canaryRecover b m0 m1) s = .next (
        if m0.toNat < guard ∨ m1.toNat < guard then u.noteBreach b.val
        else if u.now < hold then u
        else if u.rd x flag = 0 then u
        else ({ u with avs := { u.avs with breachMs := 0, breached := false } } : State).hwField x flag 0) := rfl
    refine ⟨fun h => congrArg _ (if_pos h), fun h => congrArg _ (if_neg (Nat.not_lt.2 h)), fun h0 h1 hh hf => ?_, fun h0 h1 hh => ?_,
      fun h => hrecover.trans (congrArg _ (if_pos h))⟩
    · rw [hrecover, if_neg (by omega), if_neg (Nat.not_lt.2 hh), if_neg hf]
    · rw [hrecover, if_neg (by omega)]
      split
      next => rfl
      next hn => rw [if_pos (hh.resolve_left hn)]

end Sys2Proof.Machine
end

section
/-! PROOFS. The outputs: their writes, the generator, lines and boundaries (R169 to R187), the keeper stage (R94, R168, R179, R180) and
the references (R191 to R194). -/

namespace Sys2Proof.Machine

variable {s t : State} {g : Nat}

/-! Writes of the output's timing page. -/

theorem timField_accepted {who n v : Nat} {f : Fld}
    (h : s.writeOk who (timPage n) f.off (s.fieldWrite (timPage n) f 0 v) false (s.timRule who n f.off) = true) :
    s.timField who n f v = (s.log who (s.writeRec who (timPage n) f.off (s.fieldWrite (timPage n) f 0 v))).timEffect n f.off
      (s.fieldWrite (timPage n) f 0 v) := by
  unfold State.timField State.timWrite
  exact writeWith_logged h

/-- Settles O32. -/
theorem outputWrites : Obligations.OutputWrites := by
  unfold Obligations.OutputWrites
  exact fun who o on rate s => ⟨fun h => congrArg _ (timField_accepted h), fun h => congrArg _ (timField_accepted h),
    fun h => congrArg _ (timField_accepted h), fun h => congrArg _ (timField_accepted h), fun h => congrArg _ (timField_accepted h)⟩

/-! The generator's start and stop (R173, R174). -/

/-- Settles O33. -/
theorem generatorStartAndStop : Obligations.GeneratorStartAndStop := by
  unfold Obligations.GeneratorStartAndStop
  intro o s g
  refine ⟨fun he hr ha => congrArg _ (if_neg ?_), fun h => congrArg _ (if_pos ?_), fun he hs => congrArg _ (if_pos ?_),
    fun h => congrArg _ (if_neg ?_)⟩
  · simp only [g] at he hr ha
    simp [he, hr, ha]
  · simp only [g] at h
    simpa only [Bool.or_eq_true, Bool.not_eq_true', beq_iff_eq, or_assoc] using h
  · exact Bool.and_eq_true_iff.2 ⟨he, hs⟩
  · exact fun hb => h.elim (Bool.eq_false_iff.1 · (Bool.and_eq_true_iff.1 hb).1) (Bool.eq_false_iff.1 · (Bool.and_eq_true_iff.1 hb).2)

/-! Line starts and frame boundaries (R171, R185, R187). -/

/-- Settles O34. -/
theorem lineStartsAndBoundaries : Obligations.LineStartsAndBoundaries := by
  unfold Obligations.LineStartsAndBoundaries
  refine ⟨fun o s => ?line, fun o s => ?boundary⟩
  case line =>
    intro g u v
    refine ⟨fun h => congrArg _ (if_pos h), fun hr => ⟨fun h => ?_, fun h hl hh => ?_, fun h hl => ?_⟩⟩
    · exact congrArg _ ((if_neg hr).trans (if_pos h))
    · exact congrArg _ ((if_neg hr).trans ((if_neg (Bool.eq_false_iff.1 h)).trans (if_pos ⟨hl, hh⟩)))
    · refine congrArg _ ((if_neg hr).trans ((if_neg (Bool.eq_false_iff.1 h)).trans (if_neg fun ⟨hv, hh⟩ => ?_)))
      obtain hl | ⟨hv', hs⟩ := hl
      · exact hl hv
      · exact hh.elim (Bool.eq_false_iff.1 hv') (Bool.eq_false_iff.1 hs)
  case boundary =>
    intro g
    have hx : exec (.frameBoundary o) s
        = .next (if ((s.out g).boundaryDue && s.rd (timPage g) OUT_TIM_STATUS_running == 1) = true then s.boundary g else s) := rfl
    refine ⟨fun hd hr => ?_, fun h => hx.trans (congrArg _ (if_neg fun hb => ?_))⟩
    · rw [hx, hd, hr]
      rfl
    obtain ⟨hd, hr⟩ := Bool.and_eq_true_iff.1 hb
    exact h.elim (Bool.eq_false_iff.1 · hd) (· (beq_iff_eq.1 hr))

/-! The keeper stage (R94, R168, R179, R180). -/

/-- Settles O37. -/
theorem keeperPixels : Obligations.KeeperPixels := by
  unfold Obligations.KeeperPixels
  intro o s g v x h m col safe a b u px sent fed coded moved ended
  refine ⟨fun h => congrArg _ (if_pos h), fun hr hy hx => ?_, rfl⟩
  refine congrArg _ ((if_neg ?_).trans ?_)
  · exact fun h => h.elim hr fun h => h.elim (Nat.not_le.2 hy) (Nat.not_le.2 hx)
  · simp only [ended, moved, coded, fed, sent, px, u, b, a, safe, col, m, h, x, v, g, Bool.and_eq_true, Bool.not_eq_true', beq_eq_false_iff_ne, beq_iff_eq]

/-! References (R191 to R194). -/

/-- An edge on the selected target of a running generator is measured: the phase error is stored, and eight in a row within 1 µs lock. -/
def State.judgeEdge (t : State) (g c at_ : Nat) : State :=
  if t.rd (timPage g) OUT_REF_STATUS_target ≠ c ∨ t.rd (timPage g) OUT_REF_STATUS_selected ≠ c ∨ t.running g = false then t
  else
    let e := t.phaseError g at_
    let run := if e.natAbs ≤ 1000 then (t.out g).lockRun + 1 else 0
    ((t.wr (timPage g) OUT_REF_ERROR_error (unsigned 24 (e / 10))).setOut g { t.out g with phase := e, lockRun := run }).setRef g c
      (if 8 ≤ run then 2 else 1)

/-- What an edge makes of the source's count, and whether a qualified source is lost by it. -/
def edgeCount (r : RefSrc) (per at_ : Nat) : Nat × Bool :=
  match r.last with
  | none => (0, false)
  | some t =>
    let d := at_ - t
    if (max d per - min d per) * 1000 ≤ per then (r.good + 1, false) else (0, decide (8 ≤ r.good))

theorem refEdge_eq {c at_ : Nat} (hc : c ≠ 0) (hl : (s.refSrc g c).last ≠ some at_) :
    s.refEdge g c at_ =
      let k := edgeCount (s.refSrc g c) (s.refPeriod g) at_
      let t := s.setRefSrc g c ⟨some at_, k.1⟩
      (if k.2 then t.loseRef g c else t).judgeEdge g c at_ := by
  unfold State.refEdge State.judgeEdge edgeCount
  rw [if_neg (not_or.2 ⟨hc, hl⟩)]
  simp only [Bool.not_eq_true'] <;> rfl

theorem execRefTimeout_some {o : Out} {src : Fin 5} {at_ : Nat} (h : (s.refSrc (s.gen o.val) src.val).last = some at_) :
    execRefTimeout o src s = .next (if src.val = 0 ∨ 2 * s.now ≤ 2 * at_ + 3 * s.refPeriod (s.gen o.val) then s
      else if 8 ≤ (s.refSrc (s.gen o.val) src.val).good then (s.setRefSrc (s.gen o.val) src.val ⟨none, 0⟩).loseRef (s.gen o.val) src.val
      else s.setRefSrc (s.gen o.val) src.val ⟨none, 0⟩) := by
  simp only [execRefTimeout, h, decide_eq_true_eq]

/-- Settles O38. -/
theorem references : Obligations.References := by
  unfold Obligations.References
  intro o src s g r p present judged
  have edge (hp : present) (hl : r.last ≠ some s.now) : exec (.refEdge o src) s = .next (
      let k := edgeCount r (s.refPeriod g) s.now
      let t := s.setRefSrc g src.val ⟨some s.now, k.1⟩
      judged (if k.2 then t.loseRef g src.val else t)) :=
    congrArg _ ((if_neg fun h => hp.2.elim (· h.1) (· h.2)).trans (refEdge_eq hp.1 hl))
  refine ⟨fun h => ?_, fun hp hl => ?_, fun at_ hp hl hat => ?_, fun at_ h0 hl hat => ?_, fun at_ hl hat => ?_, fun h => ?_⟩
  · by_cases h2 : src.val = 2 ∧ s.rd gngPage GNG_CTRL_master = 1
    · exact congrArg _ (if_pos h2)
    · have h0 : src.val = 0 := by
        by_contra h0
        exact h ⟨h0, (Decidable.not_and_iff_or_not.1 h2)⟩
      exact congrArg _ ((if_neg h2).trans (if_pos (.inl h0)))
  · have hk : edgeCount r (s.refPeriod g) s.now = (0, false) := by rw [edgeCount, hl]
    rw [edge hp (by rw [hl]; exact nofun), hk]
    rfl
  · have hne : r.last ≠ some s.now := by rw [hl]; simp [hat.ne]
    intro d near
    have hk : edgeCount r (s.refPeriod g) s.now = if near then (r.good + 1, false) else (0, decide (8 ≤ r.good)) := by rw [edgeCount, hl]
    rw [edge hp hne, hk]
    refine ⟨fun hn => ?_, fun hn hg => ?_, fun hn hg => ?_⟩
    · simp only [if_pos hn, Bool.false_eq_true, if_false]
    · simp only [if_neg hn, decide_eq_true_eq, if_neg (Nat.not_le.2 hg)]
    · simp only [if_neg hn, decide_eq_true_eq, if_pos hg]
  · exact (execRefTimeout_some hl).trans (congrArg _ (if_neg (not_or.2 ⟨h0, Nat.not_le.2 hat⟩)))
  · exact (execRefTimeout_some hl).trans (congrArg _ (if_pos (.inr hat)))
  · simp only [exec, execRefTimeout]
    rw [h]

end Sys2Proof.Machine
end

section
/-! PROOFS. The composition of cells: bands, racing reads, fetches and publication (R21, R22, R70, R84 to R107, R177 to R183). -/

namespace Sys2Proof.Machine

variable {s t : State} {g : Nat}

/-! Fetches (R84, R85, R101, R105, R107). -/

theorem fetchBlock_none {b e : Nat} (h : (s.dropHeld (.fetch b e)).nextFetch b = none) : s.fetchBlock b e = s.dropHeld (.fetch b e) := by
  unfold State.fetchBlock
  simp only [h]

theorem fetchBlock_waits {b e id : Nat} {c : Cheque} {st : Stream} (h : (s.dropHeld (.fetch b e)).nextFetch b = some (id, c, st))
    (hw : (s.dropHeld (.fetch b e)).fetchWaits c st = true) :
    s.fetchBlock b e = (s.dropHeld (.fetch b e)).holdUnit st.src.acct (some c.out) (.fetch b e) := by
  unfold State.fetchBlock
  simp only [h, hw, if_true]

theorem fetchBlock_serves {b e id : Nat} {c c' : Cheque} {st x : Stream} (h : (s.dropHeld (.fetch b e)).nextFetch b = some (id, c, st))
    (hw : (s.dropHeld (.fetch b e)).fetchWaits c st = false) (hc : ((s.dropHeld (.fetch b e)).openSlots id st.layer 4).cheque id = some c')
    (hx : c'.streams.find? (·.layer == st.layer) = some x) :
    s.fetchBlock b e = if x.slotReady then
        ((s.dropHeld (.fetch b e)).openSlots id st.layer 4).fetchInto b e id c' x (x.want.headD (0, 0)).2
      else (((s.dropHeld (.fetch b e)).openSlots id st.layer 4).tryEffect id st.layer).endWaits (s.dropHeld (.fetch b e)) id c'.press := by
  unfold State.fetchBlock
  simp only [h, hw, hc, hx, Bool.false_eq_true, if_false]

theorem fetchInto_held {b e id k : Nat} {c : Cheque} {st : Stream} {bs : List Byte} (h : s.heldBlock c st k = some bs) :
    s.fetchInto b e id c st k = s.deliverBlock id c st k (some bs) := by
  unfold State.fetchInto
  rw [h]

/-- The read of a stream's block: DRAM's blocks are numbered from 0, the vault's from 2^40. -/
def State.blockRead (s : State) (st : Stream) (k : Nat) : State × Except MemErr (List Byte) :=
  s.readMem st.src.acct 2 (if st.src.kind = 0 then 0 else 1) ((if st.src.kind = 0 then k else k - 2 ^ 40) * 64) 64

/-- A block that has arrived, counted for its engine, its layer and its output. -/
def State.countBlock (t : State) (b e layer out : Nat) : State :=
  ((t.count (branchPage b) e).count (layPage layer) 2).count (outPage out 2) 4

/-- What follows a read of memory: `good` of the bytes, or `bad` where there is an error. -/
def afterRead (r : State × Except MemErr (List Byte)) (bad : State → State) (good : State → List Byte → State) : State :=
  match r with
  | (t, .error _) => bad t
  | (t, .ok bs) => good t bs

section
variable {r : State × Except MemErr (List Byte)} {bad : State → State} {good : State → List Byte → State}

theorem afterRead_ok {bs : List Byte} (h : r.2 = .ok bs) : afterRead r bad good = good r.1 bs := by
  obtain ⟨t, x⟩ := r
  subst h
  rfl

theorem afterRead_error {y : MemErr} (h : r.2 = .error y) : afterRead r bad good = bad r.1 := by
  obtain ⟨t, x⟩ := r
  subst h
  rfl

end

theorem fetchInto_read {b e id k : Nat} {c : Cheque} {st : Stream} (h : s.heldBlock c st k = none) :
    s.fetchInto b e id c st k = afterRead (s.blockRead st k) (fun t => t.deliverBlock id c st k none) fun t bs =>
      ((t.countBlock b e st.layer c.out).holdBlock c st k bs).deliverBlock id c st k (some bs) := by
  have hk : (if (if st.src.kind = 0 then 0 else 1) = 0 then k else k - 2 ^ 40) = if st.src.kind = 0 then k else k - 2 ^ 40 := by
    by_cases hk : st.src.kind = 0 <;> simp only [hk, if_true, if_false, Nat.one_ne_zero]
  unfold State.fetchInto State.blockRead
  simp only [h, hk]
  generalize s.readMem st.src.acct 2 _ _ 64 _ = r
  obtain ⟨t, _ | _⟩ := r <;> rfl

/-- Settles O35. -/
theorem cellComposition : Obligations.CellComposition := by
  unfold Obligations.CellComposition
  refine ⟨fun o s => ?band, fun o s => ?race, fun b e s => ?fetch, fun m s => ?publish⟩
  case band =>
    intro g v race running replays left inTime
    have hx : exec (.bandStart o) s = .next (
        if s.rd (timPage g) OUT_TIM_STATUS_running = 0 ∨ v.bounds.isEmpty ∨ cellRows race v.grid.2 ≤ v.bands
          ∨ (v.bands ≠ 0 ∧ s.now < v.bandAt + s.bandNs g) ∨ s.rd (timPage g) OUT_STATIC_STATUS_retained = 1 then s
        else
          let a := s.applyLegs g false
          let u := (List.range (cellCols race v.grid.1)).foldl (fun (u : State) c => u.startCell g race (a.placedNow g) (a.assigned g) c v.bands) a
          (u.setOut g { u.out g with bands := v.bands + 1, bandAt := u.now }).flushBacks g) := rfl
    have hcond : (s.rd (timPage g) OUT_TIM_STATUS_running = 0 ∨ v.bounds.isEmpty ∨ cellRows race v.grid.2 ≤ v.bands
          ∨ (v.bands ≠ 0 ∧ s.now < v.bandAt + s.bandNs g) ∨ s.rd (timPage g) OUT_STATIC_STATUS_retained = 1)
        ↔ ¬ running ∨ v.bounds = [] ∨ ¬ left ∨ ¬ inTime ∨ replays := by
      simp only [running, left, inTime, replays, List.isEmpty_iff, not_not, Nat.not_lt, not_or, Nat.not_le, ne_eq]
    refine ⟨fun hr hb hl ht hp => hx.trans (congrArg _ (if_neg fun h => ?_)), fun h => hx.trans (congrArg _ (if_pos (hcond.2 h)))⟩
    obtain h | h | h | h | h := hcond.1 h
    exacts [h hr, hb h, h hl, h ht, hp h]
  case race =>
    intro g v cols row col due u ids
    have hx : exec (.racingCellRead o) s = .next (
        if (!s.races g || decide (v.bands ≤ row) || !decide due) = true then s
        else match ids with
          | [] => u
          | id :: _ => match u.cheque id with
            | none => u
            | some c =>
              (c.streams.map (u.aimLate g c)).foldl (fun (w : State) st => if st.src.kind = 0 then w else w.countAlt g st)
                (u.setCheque id (some { c with streams := c.streams.map (u.aimLate g c) }))) := rfl
    have hcond : (!s.races g || decide (v.bands ≤ row) || !decide due) = true ↔ s.races g = false ∨ v.bands ≤ row ∨ ¬ due := by
      simp only [Bool.or_eq_true, Bool.not_eq_true', decide_eq_true_eq, decide_eq_false_iff_not, or_assoc]
    have hreads (hr : s.races g = true) (hb : row < v.bands) (hd : due) : ¬ (!s.races g || decide (v.bands ≤ row) || !decide due) = true := by
      rw [hcond]
      exact fun h => h.elim (Bool.eq_false_iff.1 · hr) fun h => h.elim (Nat.not_le.2 hb) (· hd)
    refine ⟨fun h => hx.trans (congrArg _ (if_pos (hcond.2 h))), fun hr hb hd hi => hx.trans (congrArg _ ((if_neg (hreads hr hb hd)).trans ?_)),
      fun id rest c hr hb hd hi hc => hx.trans (congrArg _ ((if_neg (hreads hr hb hd)).trans ?_))⟩
    · rw [hi]
    · rw [hi]
      simp only [hc]
      rfl
  case fetch =>
    intro d run
    refine ⟨fun h => congrArg _ (fetchBlock_none h), fun id c st h => ⟨fun hw => congrArg _ (fetchBlock_waits h hw), fun c' x hw hc hx => ?_⟩⟩
    intro t k space r counted
    have hrun : run = .next (if x.slotReady then t.fetchInto b.val e.val id c' x k else (t.tryEffect id st.layer).endWaits d id c'.press) :=
      congrArg _ (fetchBlock_serves h hw hc hx)
    exact ⟨fun hs => hrun.trans (congrArg _ (if_neg (Bool.eq_false_iff.1 hs))),
      fun bs hs hh => hrun.trans (congrArg _ ((if_pos hs).trans (fetchInto_held hh))),
      fun bs hs hh hr => hrun.trans (congrArg _ ((if_pos hs).trans ((fetchInto_read hh).trans (afterRead_ok hr)))),
      fun y hs hh hr => hrun.trans (congrArg _ ((if_pos hs).trans ((fetchInto_read hh).trans (afterRead_error hr))))⟩
  case publish =>
    intro v
    refine ⟨fun h => ?_, fun id c hp hid hc => ?_⟩
    · simp only [exec, execCellPublish]
      split
      next hp _ => exact absurd hp h
      next => rfl
    intro late safe r word px
    have hx : exec (.cellPublish m) s = .next (
        if late = true then (s.lateCell c.out r).endCell m.val id
        else if safe = 1 then s.endCell m.val id
        else if (!s.fits c.out c.frame r) = true then s
        else
          let u := s.colourAll c.out c.frame px
          (u.1.enterFifo c.out c.frame u.2).endCell m.val id) := by
      simp only [exec, execCellPublish, show (s.mint m.val).phase = _ from hp, show (s.mint m.val).cheque = _ from hid, hc]
      rfl
    refine ⟨fun hl => ?_, fun hl hs => ?_, fun hl hs hf => ?_, fun hl hs hf => ?_⟩
    · rw [hx, if_pos hl]
    · rw [hx, if_neg (Bool.eq_false_iff.1 hl), if_pos hs]
    · rw [hx, if_neg (Bool.eq_false_iff.1 hl), if_neg hs, hf]
      rfl
    · rw [hx, if_neg (Bool.eq_false_iff.1 hl), if_neg hs, hf]
      rfl

end Sys2Proof.Machine
end

section
/-! PROOFS. Commits (R150 to R164) and the colour tables (R119, R122, R165). -/

namespace Sys2Proof.Machine

variable {s t : State} {a who p off : Nat} {value : Word}

/-! Commits taken and held (R150, R161). -/

/-- A commit register's write, accepted: the room of one entry is reserved for the commit. -/
def State.keepRoom (s : State) (who a : Nat) : State := State.settle ((s.log who []).reserve a)

theorem commitWrite_accepted {syn : Bool}
    (h : s.writeOk who (comPage a) ACC_COMMIT.off (if syn then 3 else 1) false (s.commitRule a) = true) :
    s.commitWrite who a (if syn then 3 else 1) 15 =
      if (s.keepRoom who a).rd (comPage a) ACC_COMMIT_STATUS_busy = 1 then
        { ((s.keepRoom who a).wr (comPage a) ACC_COMMIT_STATUS_held 1).count (comPage a) 4 with
          heldSyn := Tbl.set (fun _ => false) (s.keepRoom who a).heldSyn a syn }
      else (s.keepRoom who a).take a syn := by
  have hgo : ACC_COMMIT_go.get (if syn then 3 else 1) ≠ 0 := by cases syn <;> decide
  have hsyn : (ACC_COMMIT_syn.get (if syn then 3 else 1) == 1) = syn := by cases syn <;> decide
  unfold State.commitWrite
  refine (writeWith_writeOk (recs := fun _ => []) h (Nat.zero_le 1)).trans ((if_neg hgo).trans ?_)
  simp only [hsyn]
  rfl

/-! The decision of a commit (R155, R158, R163). -/

theorem execRebuildDone_decides {a : Acct} {c : Commit} (hc : s.commit a.val = some c) (ha : c.admitted = false) (hr : s.rebuilt a.val c = true) :
    execRebuildDone a s = .next ((s.decided a.val c (s.firstFail a.val c)).endRebuild c.members c.takenAt) := by
  simp only [execRebuildDone, hc, ha, hr, Bool.not_false, Bool.and_self, if_true]
  rfl

theorem execRebuildDone_stays {a : Acct} {c : Commit} (hc : s.commit a.val = some c) (h : c.admitted = true ∨ s.rebuilt a.val c = false) :
    execRebuildDone a s = .next s := by
  simp only [execRebuildDone, hc]
  obtain h | h := h <;> simp only [h, Bool.not_true, Bool.false_and, Bool.and_false, Bool.false_eq_true, if_false]

theorem decided_refused {c : Commit} {reason page : Nat} (h : c.syn = none) :
    s.decided a c (some (reason, page)) = s.refuseCommit a c reason page := by
  simp only [State.decided, h]

theorem decided_refused_syn {c : Commit} {reason page : Nat} {y : SynTarget} (h : c.syn = some y) :
    s.decided a c (some (reason, page)) = ((s.sendToken y 2).noteActed a y false).refuseCommit a c reason page := by
  simp only [State.decided, h]

theorem decided_passed {c : Commit} (h : c.syn = none) :
    s.decided a c none = s.admitCommit a (s.withRoutines a c) (c.takenAt + 2000) := by
  have hw : (s.withRoutines a c).syn = none := h
  simp only [State.decided, State.passCommit, hw]
  rfl

theorem decided_passed_syn {c : Commit} {y : SynTarget} (h : c.syn = some y) :
    s.decided a c none = if s.synOver (s.withRoutines a c) y then
        ((s.sendToken y 2).noteActed a y false).refuseCommit a { s.withRoutines a c with admitted := true } 10 0
      else (s.sendToken y 1).setCommit a (some { s.withRoutines a c with admitted := true }) := by
  have hw : (s.withRoutines a c).syn = some y := h
  simp only [State.decided, State.passCommit, hw]
  rfl

/-! Members that are late (R159). -/

/-- A member of the commit that waits still, and is not flagged yet. -/
def lateMember (a o : Nat) (c : Commit) (w : Waiting) : Bool := w.acct == a && w.out == o && w.gen == c.gen && !w.late

theorem execMemberLate_some {a : Acct} {o : Out} {c : Commit} {d : Nat} (hc : s.commit a.val = some c) (hd : c.deadline = some d) :
    execMemberLate a o s = .next (
      if (!c.admitted || !s.waits.any (lateMember a.val o.val c) || decide (s.now < d)) = true then s
      else
        let v := (s.waits.filter (lateMember a.val o.val c)).foldl (fun (v : State) w => v.applyVals [8] w.vals) s
        let t : State := { v with waits := v.waits.map fun w => if lateMember a.val o.val c w then { w with late := true } else w }
        let u := (t.wr (comPage a.val) ⟨0x084, 4, 16 + o.val, 16 + o.val⟩ 0).hwField (comPage a.val) ⟨0x084, 4, 24 + o.val, 24 + o.val⟩ 1
        ((u.count (comPage a.val) 3).raise (comPage a.val) 3).maybeFinish a.val c.gen) := by
  simp only [execMemberLate, hc, hd]
  rfl

theorem execMemberLate_none {a : Acct} {o : Out} {c : Commit} (hc : s.commit a.val = some c) (hd : c.deadline = none) :
    execMemberLate a o s = .next s := by
  simp only [execMemberLate, hc, hd]

/-! Syndicate commits (R164). -/

theorem synDecide_some {c : Commit} {y : SynTarget} (hc : s.commit a = some c) (hy : c.syn = some y) :
    s.synDecide a = if c.final then s
      else if (c.admitted && s.partnersIn y) = true then (s.noteActed a y true).admitCommit a c s.now
      else if s.synOver c y then (if c.admitted then s else s.sendToken y 2).refuseSyn a c y else s := by
  simp only [State.synDecide, hc, hy]

theorem synDecide_none {c : Commit} (hc : s.commit a = some c) (hy : c.syn = none) : s.synDecide a = s := by
  simp only [State.synDecide, hc, hy]

theorem refuseSyn_admitted {c : Commit} {y : SynTarget} (h : c.admitted = true) :
    s.refuseSyn a c y = (s.noteActed a y false).refuseCommit a c 10 0 := if_pos h

theorem refuseSyn_undecided {c : Commit} {y : SynTarget} (h : c.admitted = false) :
    s.refuseSyn a c y = ((s.noteActed a y false).refuseCommit a c 10 0).endRebuild c.members c.takenAt := if_neg (Bool.eq_false_iff.1 h)

/-- Settles O39. -/
theorem commits : Obligations.Commits := by
  unfold Obligations.Commits
  refine ⟨fun who a s => ?taken, fun a o c s hc => ?late⟩
  case taken =>
    intro p w cmd kept
    have hcmd (syn : Bool) (h : s.writeOk who.val p ACC_COMMIT.off (w syn) false (s.commitRule a.val) = true) :
        exec (cmd syn) s = .next (
          if kept.rd p ACC_COMMIT_STATUS_busy = 1 then
            { (kept.wr p ACC_COMMIT_STATUS_held 1).count p 4 with heldSyn := Tbl.set (fun _ => false) kept.heldSyn a.val syn }
          else kept.take a.val syn) := by
      refine Eq.trans ?_ (congrArg _ (commitWrite_accepted h))
      cases syn <;> rfl
    refine ⟨fun syn h => ⟨fun hb => ?_, fun hb => ?_⟩, fun hh hb => ?_, fun h => congrArg _ (if_pos h), fun c hc ha hr => ?_,
      fun c reason page => ⟨_, rfl, rfl⟩, fun c hc h => execRebuildDone_stays hc h, fun h => ?_⟩
    · exact (hcmd syn h).trans (congrArg _ (if_neg hb))
    · exact (hcmd syn h).trans (congrArg _ (if_pos hb))
    · exact congrArg _ (if_neg (not_or.2 ⟨hh, hb⟩))
    · intro ends
      have hdec : exec (.rebuildDone a) s = .next ((s.decided a.val c (s.firstFail a.val c)).endRebuild c.members c.takenAt) :=
        execRebuildDone_decides hc ha hr
      refine ⟨fun reason page hf hy => ?_, fun reason page y hf hy => ?_, fun hf hy => ?_, fun y hf hy ho => ?_, fun y hf hy ho => ?_⟩
      · rw [hf, decided_refused hy] at hdec
        exact hdec
      · rw [hf, decided_refused_syn hy] at hdec
        exact hdec
      · rw [hf, decided_passed hy] at hdec
        exact hdec
      · rw [hf, decided_passed_syn hy, ho] at hdec
        exact hdec
      · rw [hf, decided_passed_syn hy, ho] at hdec
        exact hdec
    · simp only [exec, execRebuildDone]
      rw [h]
  case late =>
    intro p mine
    refine ⟨fun d hd ha hw hn => ?_, fun h => ?_, fun y hy hf => ⟨fun ha hp => ?_, fun ha hp ho => ?_, fun ha ho => ?_, fun h ho => ?_⟩, fun h => ?_⟩
    · intro v t u
      refine (execMemberLate_some hc hd).trans (congrArg _ (if_neg ?_))
      simp only [ha, show s.waits.any (lateMember a.val o.val c) = true from hw, Nat.not_lt.2 hn, decide_false, Bool.not_true, Bool.or_self,
        Bool.false_eq_true, not_false_eq_true]
    · cases hd : c.deadline with
      | none => exact execMemberLate_none hc hd
      | some d =>
        refine (execMemberLate_some hc hd).trans (congrArg _ (if_pos ?_))
        simp only [Bool.or_eq_true, Bool.not_eq_true', decide_eq_true_eq]
        obtain h | ⟨d', h, hlt⟩ | h | h := h
        · exact absurd (hd.symm.trans h) nofun
        · obtain rfl : d = d' := Option.some.inj (hd.symm.trans h)
          exact .inr hlt
        · exact .inl (.inl h)
        · exact .inl (.inr h)
    · refine congrArg _ ((synDecide_some hc hy).trans ?_)
      rw [if_neg (Bool.eq_false_iff.1 hf), ha, hp]
      rfl
    · refine congrArg _ ((synDecide_some hc hy).trans ?_)
      rw [if_neg (Bool.eq_false_iff.1 hf), ha, hp, ho]
      exact refuseSyn_admitted ha
    · refine congrArg _ ((synDecide_some hc hy).trans ?_)
      rw [if_neg (Bool.eq_false_iff.1 hf), ha, ho]
      exact refuseSyn_undecided ha
    · refine congrArg _ ((synDecide_some hc hy).trans ?_)
      rw [if_neg (Bool.eq_false_iff.1 hf), if_neg fun hb => ?_, if_neg (Bool.eq_false_iff.1 ho)]
      obtain ⟨ha, hp⟩ := Bool.and_eq_true_iff.1 hb
      exact h.elim (Bool.eq_false_iff.1 · ha) (Bool.eq_false_iff.1 · hp)
    · cases hy : c.syn with
      | none => exact congrArg _ (synDecide_none hc hy)
      | some y => exact congrArg _ ((synDecide_some hc hy).trans (if_pos (h.resolve_left (by rw [hy]; exact nofun))))

/-! The colour tables (R119, R122, R165). -/

/-- What is carried without the data path has found room for an entry (R20, R303). -/
theorem room_of_carried {be : BitVec 4} {rule : Word → Rule} {v : Word} (h : s.judge who p off value be false rule = (.carried, v)) :
    s.room who = true := by
  by_contra hr
  unfold State.judge at h
  split at h
  · cases h
  split at h
  · cases h
  split at h
  · cases h
  extract_lets at h
  split at h
  · cases h
  split at h
  · cases h
  split at h
  · cases h
  rw [if_neg Bool.false_ne_true] at h
  split at h
  · cases h
  rw [if_pos (by simpa using hr)] at h
  cases h

/-- A write carried on some of the word's bytes is logged and takes its effect. -/
theorem writeWith_carried_logged {be : BitVec 4} {rule : Word → Rule} {eff : Word → State → State} {v : Word}
    (h : s.judge who p off value be false rule = (.carried, v)) :
    s.writeWith who p off value be false rule (s.writeRec who p off) eff = eff v (s.log who (s.writeRec who p off v)) := by
  have hr : s.room who (s.writeRec who p off v).length = true := room_of_carried h
  simp only [State.writeWith, h, Bool.false_eq_true, if_false, hr, Bool.not_true]

theorem kindOf_colPage (o : Out) : kindOf (colPage o.val) = (.out 3, o.val) := by
  revert o
  decide

/-- The word of a LUT_LOAD command. -/
def lutWord (table : Fin 3) (vault : Bool) : Word := BitVec.ofNat 32 (table.val + 16 * b2n vault + 2 ^ 31)

theorem lutWord_fields (table : Fin 3) (vault : Bool) : OUT_COL_LOAD_go.get (lutWord table vault) ≠ 0
    ∧ OUT_COL_LOAD_table.get (lutWord table vault) = table.val ∧ OUT_COL_LOAD_src.get (lutWord table vault) = b2n vault := by
  revert table vault
  decide

/-- Settles O40. -/
theorem colourTables : Obligations.ColourTables := by
  unfold Obligations.ColourTables
  intro who o s n p
  refine ⟨fun q bits v hq hj => ?ready, fun table vault => ?load, fun l hl => ?done, fun h => ?none⟩
  case ready =>
    intro t was
    have hk : kindOf q.val = (.out 3, n) := hq ▸ kindOf_colPage o
    simp only [exec, execTableReadySet, hk, State.colBankWrite]
    exact congrArg _ (writeWith_carried_logged hj)
  case load =>
    intro v h t
    obtain ⟨hgo, htab, hsrc⟩ := lutWord_fields table vault
    simp only [exec, execLutLoad, State.loadWrite]
    refine congrArg _ ((writeWith_logged h).trans ((if_neg hgo).trans ?_))
    simp only [show OUT_COL_LOAD_table.get v = _ from htab, show OUT_COL_LOAD_src.get v = _ from hsrc]
    rfl
  case done =>
    intro len r bs t u
    have hx : exec (.lutLoadDone o) s = .next (
        if r.2.2 = .waits then r.1.setLoad n (some { l with got := bs })
        else if r.2.2 = .done then
          (u.wr p OUT_COL_BANK_load_done 1).hwEntry 0x0E (fkey p OUT_COL_LOAD 0) 0 (BitVec.ofNat 32 (crc32c bs))
        else u.fault p 1) := by
      simp only [exec, execLutLoadDone, show s.load o.val = _ from hl]
      rfl
    refine ⟨fun h => ?_, fun h => ?_, fun h => ?_⟩ <;> rw [hx, h]
    · rfl
    · rfl
    · rfl
  case none =>
    simp only [exec, execLutLoadDone, show s.load o.val = _ from h]

end Sys2Proof.Machine
end

section
/-! PROOFS. Cheques and mints: pulled, loaded, stuck, retired and cleared (R128 to R147). -/

namespace Sys2Proof.Machine

variable {s t : State} {m : Nat}

/-! A cheque is pulled (R131, R140). -/

theorem pull_barred (h : s.mayPull m = false) : s.pull m = s := by
  unfold State.pull
  simp only [h, Bool.not_false, if_true]

theorem pull_no_cheque (h : s.press (m / 8) = []) : s.pull m = s := by
  unfold State.pull
  simp only [h, ite_self]

theorem foldl_pull_barred {p n : Nat} (h : ∀ j < n, s.mayPull (8 * p + j) = false) :
    (List.range n).foldl (fun (t : State) j => t.pull (8 * p + j)) s = s := by
  induction n with
  | zero => rfl
  | succ n ih =>
    rw [List.range_succ, List.foldl_append, ih fun j hj => h j (Nat.lt_succ_of_lt hj)]
    exact pull_barred (h n (Nat.lt_succ_self n))

theorem execChequePull_eq {m : MintId} : execChequePull m s
    = .next (((List.range (m.val % 8)).foldl (fun (t : State) j => t.pull (8 * (m.val / 8) + j)) s).pull m.val) := by
  unfold execChequePull
  rw [List.range_succ, List.foldl_append]
  simp only [List.foldl_cons, List.foldl_nil, Nat.div_add_mod]

@[simp] theorem State.syncPress_presses (p : Nat) : (s.syncPress p).presses = s.presses := by
  unfold State.syncPress
  extract_lets
  simp only [State.wr_presses]

@[simp] theorem State.syncPress_cheques (p : Nat) : (s.syncPress p).cheques = s.cheques := by
  unfold State.syncPress
  extract_lets
  simp only [State.wr_cheques]

/-- The mint that takes a cheque (R131, R132, R140). -/
def MintS.pulled (v : MintS) (s : State) (id : Nat) (c : Cheque) : MintS :=
  { v with
    sreg := startScalars c, vreg := [], preg := startPreds, vl := 1, pc := 0, count := 0, ops := 0,
    data := putBytes v.data 0 (s.paramBlock c), phase := if v.resident = some c.routine.image then .running else .loading,
    cheque := some id, spos := [], opos := 0, cell := [], pulledAt := s.now, lastAt := s.now }

theorem pull_takes {id : Nat} {rest : List Nat} {c : Cheque} (h : s.mayPull m = true) (hp : s.press (m / 8) = id :: rest)
    (hc : s.cheque id = some c) :
    s.pull m = ((s.setPress (m / 8) rest).setMint m ((s.mint m).pulled s id c)).syncPress (m / 8) := by
  unfold State.pull
  simp only [h, hp, hc, Bool.not_true, Bool.false_eq_true, if_false]
  rfl

/-! A routine is loaded (R144). -/

/-- The code and the constants of a routine, put into its mint. -/
def State.loaded (t : State) (m image n : Nat) (bs : List Byte) : State :=
  (t.setMint m { t.mint m with
    code := codeTable bs n, codeLen := n, data := putBytes (t.mint m).data 0x200 (bs.drop (4 * n)),
    resident := some image, phase := .running, lastAt := t.now }).count (pressPage (m / 8)) 5

/-- The words of code and the bytes of constants that the routine's head names, or those of a registered routine. -/
def routineSize (c : Cheque) (h : List Byte) : Nat × Nat :=
  (if c.acct.isSome then c.routine.code else min 1024 (ofLeBytes (h.take 4)),
    if c.acct.isSome then c.routine.consts else min 3584 (ofLeBytes ((h.drop 4).take 4)))

section load
variable {m : MintId} {id : Nat} {c : Cheque} (hp : (s.mint m.val).phase = .loading) (hid : (s.mint m.val).cheque = some id)
  (hc : s.cheque id = some c)
include hp hid hc

theorem execRoutineLoad_eq : execRoutineLoad m s = .next (
    afterRead (s.readMem (c.acct.getD 32) 3 1 (imageAt c.routine.image) 16) (fun t => (t.fault (pressPage (m.val / 8)) 4).bounce m.val)
      fun t h => afterRead
        (t.readMem (c.acct.getD 32) 3 1 (imageAt c.routine.image + 16) (4 * (routineSize c h).1 + (routineSize c h).2))
        (fun u => (u.fault (pressPage (m.val / 8)) 4).bounce m.val)
        fun u bs => u.loaded m.val c.routine.image (routineSize c h).1 bs) := by
  simp only [execRoutineLoad, hp, hid, hc]
  rfl

end load

/-! A press that clears (R128). -/

theorem press_cleared {p n : Nat} (hn : n ≤ 8) (h : Tbl.wf (fun _ => MintS.zero) s.mints = true) :
    let t := (List.range n).foldl (fun (t : State) j => t.setMint (8 * p + j) (t.mint (8 * p + j)).cleared) s
    Tbl.wf (fun _ => MintS.zero) t.mints = true ∧ t = { s with mints := t.mints }
      ∧ ∀ j, t.mint j = if 8 * p ≤ j ∧ j < 8 * p + n then (s.mint j).cleared else s.mint j := by
  induction n with
  | zero => exact ⟨h, rfl, fun j => (if_neg (by omega)).symm⟩
  | succ n ih =>
    intro t
    obtain ⟨hw, he, hm⟩ := ih (Nat.le_of_succ_le hn)
    generalize hu : (List.range n).foldl (fun (t : State) j => t.setMint (8 * p + j) (t.mint (8 * p + j)).cleared) s = u at hw he hm
    have ht : t = u.setMint (8 * p + n) (u.mint (8 * p + n)).cleared := by
      simp only [t, List.range_succ, List.foldl_append, hu, List.foldl_cons, List.foldl_nil]
    rw [ht]
    refine ⟨Tbl.wf_set _ _ hw, ?_, fun j => ?_⟩
    · rw [he]
      rfl
    · by_cases hj : j = 8 * p + n
      · subst hj
        rw [State.mint_setMint_same hw, hm, if_neg (by omega), if_pos (by omega)]
      · rw [State.mint_setMint_other hw _ hj, hm]
        exact if_congr (by omega) rfl rfl

/-- A register written after a change of the mints alone. -/
theorem wr_frame_of_mints (h : t = { s with mints := t.mints }) (p : Nat) (f : Fld) (v : Nat) :
    t.wr p f v = { s with regs := (t.wr p f v).regs, mints := (t.wr p f v).mints } := by
  rw [State.wr_mints]
  generalize t.mints = ms at h
  subst h
  rfl

/-! A mint that has left its cheque stays idle: no fault, event or account reset gives it another. -/

/-- The mint has no cheque and is idle. -/
def MintS.free (v : MintS) : Prop := v.cheque = none ∧ v.phase = .idle

theorem MintS.leave_free (v : MintS) (now : Nat) : (v.leave now).free := ⟨rfl, rfl⟩

/-- The mints are in canonical form, and mint `m` is free. -/
structure State.Free (s : State) (m : Nat) : Prop where
  wf : Tbl.wf (fun _ => MintS.zero) s.mints = true
  free : (s.mint m).free

theorem State.Free.of_mints (h : s.Free m) (e : t.mints = s.mints) : t.Free m :=
  ⟨e ▸ h.wf, (State.mint_congr e m).symm ▸ h.free⟩

theorem State.Free.of_fst {γ : Type} {x : State × γ} {y : γ} (e : x = (t, y)) (h : x.1.Free m) : t.Free m := by
  rwa [e] at h

/-- A change of a mint that keeps it free where it is. -/
theorem State.Free.setMint (h : s.Free m) {j : Nat} {v : MintS} (hv : (s.mint j).free → v.free) : (s.setMint j v).Free m := by
  refine ⟨Tbl.wf_set _ _ h.wf, ?_⟩
  by_cases hj : m = j
  · subst hj
    exact (State.mint_setMint_same h.wf m v).symm ▸ hv h.free
  · exact (State.mint_setMint_other h.wf v hj).symm ▸ h.free

theorem State.Free.endFetches (h : s.Free m) (f : Cheque → Stream → Bool) : (s.endFetches f).Free m := by
  refine foldl_holds (P := fun (u : State) => u.Free m) _ h fun (u : State) k hu => ?_
  split
  next => exact hu
  next c _ =>
    extract_lets u'
    have hu' : u'.Free m := hu.of_mints (State.setCheque_mints ..)
    split
    next => exact hu'.setMint id
    next => exact hu'

theorem State.Free.leaveRaw (h : s.Free m) (j : Nat) : (s.leaveRaw j).1.Free m := by
  have hl : (s.setMint j ((s.mint j).leave s.now)).Free m := h.setMint fun _ => MintS.leave_free ..
  unfold State.leaveRaw State.retireRaw
  split
  next =>
    refine State.Free.setMint (hl.of_mints ?_) id
    rw [State.wr_mints, State.hwFieldRaw_mints, State.wr_mints]
  next => exact hl

theorem State.Free.abandonRaw (h : s.Free m) (id : Nat) : (s.abandonRaw id).1.Free m := by
  unfold State.abandonRaw
  split
  next => exact h
  next c _ =>
    extract_lets s1
    have h1 : s1.Free m := h.of_mints (State.setPress_mints ..)
    split
    next s2 sg he =>
    have h2 : s2.Free m := by
      split at he
      next => exact .of_fst he (h1.leaveRaw _)
      next => exact .of_fst he h1
    refine h2.of_mints ?_
    rw [State.syncPress_mints, State.count_mints, State.setCheque_mints]
    split <;> split <;> simp only [State.setAcct_mints, State.markTransparent_mints]

theorem State.Free.abandonAll (h : s.Free m) (ids : List Nat) : (s.abandonAll ids).1.Free m := by
  induction ids generalizing s with
  | nil => exact h
  | cons id ids ih => exact ih (h.abandonRaw id)

theorem State.Free.resetActions (h : s.Free m) (a : Nat) (flr : Bool) : (s.resetActions a flr).1.Free m := by
  unfold State.resetActions
  extract_lets s1 s2
  have h2 : s2.Free m :=
    ((h.of_mints (State.dropLayers_mints a)).endFetches _).of_mints ((State.dropOutputEscrow_mints a).trans (State.blankOwned_mints a))
  split
  next s3 sg he =>
  have h3 : s3.Free m := .of_fst he (h2.of_mints (State.dropCommits_mints a))
  split
  next s4 sg' he' =>
  have h4 : s4.Free m := .of_fst he' (h3.abandonAll _)
  extract_lets s5 s6 s7 _ s8
  have h7 : s7.mints = s4.mints := by
    rw [State.foldl_mints fun _ _ => State.hapPark_mints _, State.dropMessages_mints, State.dropJobs_mints, State.dropQueues_mints]
  refine h4.of_mints (Eq.trans ?_ h7)
  unfold s8
  split
  · exact State.setAcct_mints ..
  · rfl

theorem State.Free.beginReset (h : s.Free m) (a cause : Nat) : (s.beginReset a cause).1.Free m := by
  unfold State.beginReset State.beginResetFrom
  extract_lets
  split
  · exact h
  split
  next s1 sg he =>
  split
  next s2 sg' he' =>
  have h1 : s1.Free m := .of_fst he (h.of_mints (State.hwRec_mints _))
  have h2 : s2.Free m := .of_fst he' (h1.resetActions _ _)
  refine h2.of_mints ?_
  rw [State.setPower_mints, State.wr_mints, State.setState_mints, State.setAcct_mints]

/-- One signal leaves a free mint free. -/
theorem State.Free.act (h : s.Free m) (g : Sig) : (s.act g).1.Free m := by
  cases g with
  | event p b => exact h.of_mints (State.eventAct_mints p b)
  | fault p i => exact h.of_mints (State.faultAct_mints p i)
  | entry a bytes =>
    refine h.of_mints ?_
    simp only [State.act, apply_ite Prod.fst, apply_ite State.mints, State.ringPut_mints, ite_self]
  | reset a cause => exact h.beginReset a cause
  | notice a k old new => exact h.of_mints (State.notice_mints ..)

theorem State.Free.deliver (h : s.Free m) (n : Nat) (gs : List Sig) : (State.deliver n gs s).Free m := by
  induction n generalizing gs s with
  | zero => exact h
  | succ n ih => exact match gs with
    | [] => h
    | g :: gs => ih (h.act g) _

theorem State.Free.syncNoMint (h : s.Free m) (p : Nat) : (s.syncNoMint p).Free m := by
  have hl (u : State) (e : u.mints = s.mints) : u.Free m := h.of_mints e
  unfold State.syncNoMint State.setLevel
  extract_lets u
  split
  · exact h
  split
  · exact (hl u rfl).deliver ..
  · exact hl u rfl

theorem State.Free.bounceCheque (h : s.Free m) (k : Nat) : (s.bounceCheque k).Free m := by
  unfold State.bounceCheque
  split
  · exact h
  extract_lets u
  refine (h.of_mints ?_).deliver ..
  rw [State.count_mints, State.dropRecord_mints]
  unfold u
  split
  · exact State.lateEffect_mints ..
  · rfl

/-! A stuck mint (R146). -/

/-- A stuck mint, retired in the registers, its SLOW bit cleared, and its cheque left. -/
def State.stuckLeft (s : State) (m : Nat) : State :=
  let t := s.hwChange (fkey (pressPage (m / 8)) MNT_P_MINT_STATE 0) (BitVec.ofNat 32
    (setBit (setBit (setBit (s.rd (pressPage (m / 8)) MNT_P_MINT_STATE) (8 + m % 8) true) (16 + m % 8) true) (24 + m % 8) false))
  let t := (t.wr (branchPage (m / 32)) ⟨0x084, 4, m % 32, m % 32⟩ 1).wr (branchPage (m / 32)) ⟨0x088, 4, m % 32, m % 32⟩ 0
  t.setMint m { (t.mint m).leave t.now with retiring := false, slowRun := 0 }

/-- The cheque of a stuck mint: back to the front of its press's queue, and the second time bounced. -/
def State.stuckCheque (t : State) (p id : Nat) (again : Bool) : State :=
  if again then t.bounceCheque id
  else match t.cheque id with
    | some c => ((t.setCheque id (some { c with again := true })).setPress p (id :: t.press p)).count (pressPage p) 2
    | none => t

/-- The press of a stuck mint is shown as it stands, and its sources raised. -/
def State.stuckShown (u : State) (m : Nat) : State :=
  (((u.syncPress (m / 8)).fault (pressPage (m / 8)) 1).raise (branchPage (m / 32)) 1).syncNoMint (m / 8)

theorem execMintStuck_stuck {m : MintId} {id : Nat} {c : Cheque} (h : s.isStuck m.val = true) (hid : (s.mint m.val).cheque = some id)
    (hc : s.cheque id = some c) :
    execMintStuck m s = .next (((s.stuckLeft m.val).stuckCheque (m.val / 8) id c.again).stuckShown m.val) := by
  simp only [execMintStuck, h, hid, hc, Bool.not_true, Bool.false_eq_true, if_false]
  rfl

/-- A change by the hardware keeps the mints in canonical form. -/
theorem hwChange_mints_wf (h : Tbl.wf (fun _ => MintS.zero) s.mints = true) (k : Nat) (new : Word) :
    Tbl.wf (fun _ => MintS.zero) (s.hwChange k new).mints = true := by
  unfold State.hwChange
  extract_lets old
  split
  · exact h
  split
  next t sg he =>
  have ht : t.mints = s.mints := (congrArg (fun (x : State × List Sig) => x.1.mints) he).symm.trans (State.hwRaw_mints k old new)
  have h0 : (t.setReg k new).AtPc 0 (t.mint 0).pc := ⟨ht.symm ▸ h, rfl⟩
  exact (h0.deliver ..).wf

theorem stuckLeft_free (h : Tbl.wf (fun _ => MintS.zero) s.mints = true) (m : Nat) : (s.stuckLeft m).Free m := by
  have hw := hwChange_mints_wf h (fkey (pressPage (m / 8)) MNT_P_MINT_STATE 0) (BitVec.ofNat 32
    (setBit (setBit (setBit (s.rd (pressPage (m / 8)) MNT_P_MINT_STATE) (8 + m % 8) true) (16 + m % 8) true) (24 + m % 8) false))
  exact ⟨Tbl.wf_set _ _ hw, (State.mint_setMint_same hw m _).symm ▸ ⟨rfl, rfl⟩⟩

theorem State.Free.stuckCheque (h : s.Free m) (p id : Nat) (again : Bool) : (s.stuckCheque p id again).Free m := by
  unfold State.stuckCheque
  split
  · exact h.bounceCheque id
  split
  · refine h.of_mints ?_
    rw [State.count_mints, State.setPress_mints, State.setCheque_mints]
  · exact h

theorem State.Free.stuckShown (h : s.Free m) (j : Nat) : (s.stuckShown j).Free m :=
  ((((h.of_mints (State.syncPress_mints _)).deliver ..).deliver ..).syncNoMint _)

/-! Retirement by the manager (R147). -/

theorem branchWrite_accepted {who b : Nat} {v : Word}
    (h : s.writeOk who (branchPage b) MNT_B_RETIRE.off v false (fun v =>
      if (List.range 4).any fun i => s.rd (pressPage (4 * b + i)) MNT_P_ROLE_role == 1 &&
        (v.toNat ||| s.rd (branchPage b) MNT_B_STUCK_stuck) / 2 ^ (8 * i) % 256 == 255 then Rule.range else .ok) = true) :
    s.branchWrite who b v 15 =
      let t := s.log who (s.writeRec who (branchPage b) MNT_B_RETIRE.off v)
      let old := t.rd (branchPage b) MNT_B_RETIRE
      (List.range 32).foldl (fun (t : State) i =>
        if v.toNat.testBit i && !old.testBit i then t.retireMint (32 * b + i)
        else if !v.toNat.testBit i && old.testBit i then t.unretireMint (32 * b + i) else t) (t.store (branchPage b) MNT_B_RETIRE.off v) := by
  unfold State.branchWrite
  exact writeWith_logged h

/-- Settles O41. -/
theorem chequesAndMints : Obligations.ChequesAndMints := by
  unfold Obligations.ChequesAndMints
  refine ⟨fun m s hs => ?pulled, fun who m s hs => ?stuck⟩
  case pulled =>
    intro v p u w
    have hu : Keeps s.pending s.now u := keeps_foldl (keeps_of_canonical hs) fun _ _ => keeps_State_pull
    have hx : exec (.chequePull m) s = .next (u.pull m.val) := execChequePull_eq
    refine ⟨foldl_pull_barred, fun id rest c h hp hc => ?_, fun h => ?_, fun id c hp hid hc => ?_, fun h => congrArg _ (if_pos h)⟩
    · rw [pull_takes h hp hc] at hx
      have hm : (((u.setPress (m.val / 8) rest).setMint m.val (w.pulled u id c)).syncPress (m.val / 8)).mint m.val = w.pulled u id c :=
        (State.mint_congr (State.syncPress_mints _) m.val).trans (State.mint_setMint_same (s := u.setPress (m.val / 8) rest) hu.mints m.val _)
      refine ⟨_, hx, ?_, ?_⟩
      · simp only [State.press, State.syncPress_presses]
        exact Tbl.get_set_same _ _ hu.presses
      rw [hm]
      refine ⟨rfl, rfl, rfl, rfl, rfl, rfl, rfl, rfl, rfl, rfl, fun j hj => ?_, fun j hj => ?_, State.syncPress_cheques _⟩
      · exact (State.mint_congr (State.syncPress_mints _) j).trans (State.mint_setMint_other (s := u.setPress (m.val / 8) rest) hu.mints _ hj)
      · simp only [State.press, State.syncPress_presses]
        exact Tbl.get_set_other _ hu.presses hj
    · exact hx.trans (congrArg _ (h.elim pull_barred pull_no_cheque))
    · intro who at_ r
      have hl : exec (.routineLoad m) s = _ := execRoutineLoad_eq hp hid hc
      refine ⟨fun x hr => hl.trans (congrArg _ (afterRead_error hr)), fun h hr => ?_⟩
      intro n k q
      have hb := hl.trans (congrArg _ (afterRead_ok hr))
      exact ⟨fun x hq => hb.trans (congrArg _ (afterRead_error hq)), fun bs hq => hb.trans (congrArg _ (afterRead_ok hq))⟩
  case stuck =>
    intro b effect rule word
    have hk : Keeps s.pending s.now s := keeps_of_canonical hs
    refine ⟨fun h => congrArg _ (branchWrite_accepted h), fun h => congrArg _ (branchWrite_accepted h), fun h => congrArg _ (if_pos ?_),
      fun id c h hid hc => ?_, fun p hr => ?_, fun p hr => congrArg _ (if_pos hr)⟩
    · rw [h]
      rfl
    · have hx : exec (.mintStuck m) s = _ := execMintStuck_stuck h hid hc
      intro p st k t t1 t2 fin
      have hfree := ((stuckLeft_free hk.mints m.val).stuckCheque p id c.again).stuckShown m.val
      refine ⟨fun ha => ?_, fun d ha hd => ?_, _, hx, hfree.free.1, hfree.free.2⟩
      · rw [hx, ha]
        rfl
      · have hd' : (s.stuckLeft m.val).cheque id = some d := hd
        rw [hx, ha]
        simp only [State.stuckCheque, hd', Bool.false_eq_true, if_false]
        rfl
    · have hc := press_cleared (p := p.val) (Nat.le_refl 8) hk.mints
      extract_lets t at hc
      obtain ⟨hw, he, hm⟩ := hc
      refine ⟨t.wr (pressPage p.val) MNT_P_ROLE_clearing 0, congrArg _ (if_neg hr), ?_, fun j hj => ?_, fun j hj => ?_, ?_⟩
      · refine State.rd_wr_same ?_ _ _ (by decide) (by decide) 0 0
        rw [he]
        exact hk.regs
      · exact (State.mint_congr (State.wr_mints ..) j).trans ((hm j).trans (if_pos (by omega)))
      · exact (State.mint_congr (State.wr_mints ..) j).trans ((hm j).trans (if_neg (by omega)))
      · exact wr_frame_of_mints he _ _ 0

end Sys2Proof.Machine
end

section
/-! PROOFS. The output links (R199 to R205). -/

namespace Sys2Proof.Machine

variable {s t : State}

/-- The control register of a link, as a write leaves it: presence follows, and the link with the power of its port (R200, R203). -/
def State.lnkStored (t : State) (n : Nat) (v : Word) : State :=
  let u := (t.store (lnkPage n) OUT_LNK_CTRL.off v).wr (lnkPage n) OUT_LNK_CTRL_retrain 0
  let w := if t.portOn n && !u.portOn n then
      let x := (u.setPort n { u.port n with retrain := 0, waiting := false, again := false, phy := false }).syncPresent n
      (if x.present n = true then x else x.wr (lnkPage n) OUT_LNK_CABLE_valid 0).setLink n 0 2
    else if !t.portOn n && u.portOn n then ((u.syncPresent n).linkStart n 1).syncLinkDown n
    else u.syncPresent n
  if v.getLsbD 31 then w.retrainWritten n else w

theorem lnkWrite_accepted {who n : Nat} {v : Word}
    (h : s.writeOk who (lnkPage n) OUT_LNK_CTRL.off v false (s.lnkRule who n) = true) :
    s.lnkWrite who n v 15 = (s.log who (s.writeRec who (lnkPage n) OUT_LNK_CTRL.off v)).lnkStored n v := by
  unfold State.lnkWrite
  exact writeWith_logged h

/-! The cable and the partner (R199, R201). -/

/-- The length of the cable, measured. -/
def State.cableShown (s : State) (n : Nat) (length : Option Nat) : State :=
  let far := match length with | some l => decide (400 < l) | none => true
  let len := match length with | some l => max 6 l | none => 0
  (s.wr (lnkPage n) OUT_LNK_CABLE_length (if far then 0x1FF else len)).wr (lnkPage n) OUT_LNK_CABLE_valid 1

/-- The cable falls outside the limits. -/
def State.cableBad (t : State) (n : Nat) (length : Option Nat) : Bool :=
  (match length with | some l => decide (400 < l) | none => true)
    || decide (t.rd (lnkPage n) OUT_LINK_LIMITS_cable_max < match length with | some l => max 6 l | none => 0)

/-- The partner falls outside the limits. -/
def State.partnerBad (t : State) (n : Nat) (c : SinkCaps) : Bool :=
  decide (rateMbps c.maxRate < rateMbps (t.rd (lnkPage n) OUT_LINK_LIMITS_min_rate))
    || (!t.aphy n && decide (c.lanes < t.rd (lnkPage n) OUT_LINK_LIMITS_min_lanes))

theorem execCableMeasureDone_measured {o : Out} {length : Option Nat} {c : SinkCaps} (hl : s.linkState o.val = 2)
    (hw : (s.port o.val).waiting = false) (hc : (s.port o.val).caps = some c) :
    execCableMeasureDone o length s = .next (
      let t := s.cableShown o.val length
      let cable := t.cableBad o.val length
      let partner := t.partnerBad o.val c
      if cable || partner then
        let u := t.setLink o.val 5 3
        let u := if cable then u.fault (lnkPage o.val) 1 else u
        if partner then u.fault (lnkPage o.val) 2 else u
      else if (s.port o.val).changed then (t.setPort o.val { s.port o.val with waiting := true }).setLink o.val 2 6
      else t.linkTrain o.val 0) := by
  have h : ¬ (s.linkState o.val ≠ 2 ∨ (s.port o.val).waiting = true) := not_or.2 ⟨not_not.2 hl, Bool.eq_false_iff.1 hw⟩
  unfold execCableMeasureDone
  refine congrArg _ ((if_neg h).trans ?_)
  rw [hc]
  rfl

theorem execCableMeasureDone_else {o : Out} {length : Option Nat}
    (h : s.linkState o.val ≠ 2 ∨ (s.port o.val).waiting = true ∨ (s.port o.val).caps = none) : execCableMeasureDone o length s = .next s := by
  unfold execCableMeasureDone
  rw [← or_assoc] at h
  by_cases h1 : s.linkState o.val ≠ 2 ∨ (s.port o.val).waiting = true
  · exact congrArg _ (if_pos h1)
  · simp only [if_neg h1, h.resolve_left h1]

theorem linkTrain_none {n cause : Nat} {c : SinkCaps} (hc : (t.port n).caps = some c) (hr : t.linkRate n c = none) :
    t.linkTrain n cause = (t.setLink n 5 4).fault (lnkPage n) 2 := by
  simp only [State.linkTrain, hc, hr]

theorem linkTrain_some {n cause r : Nat} {c : SinkCaps} (hc : (t.port n).caps = some c) (hr : t.linkRate n c = some r) :
    t.linkTrain n cause = (t.setPort n { t.port n with attempts := 0, goal := (r, t.linkLanes n c) }).setLink n 3 cause := by
  simp only [State.linkTrain, hc, hr]

/-- Settles O42. -/
theorem outputLinks : Obligations.OutputLinks := by
  unfold Obligations.OutputLinks
  refine ⟨fun who o s => ?port, fun o s => ?link⟩
  case port =>
    intro n p v word done ok
    refine ⟨fun h => congrArg _ (lnkWrite_accepted h), fun h => congrArg _ (lnkWrite_accepted h), fun h => congrArg _ (lnkWrite_accepted h),
      fun hp ha => congrArg _ (if_neg ?_), fun h => congrArg _ (if_pos ?_), fun lowNs hl hv => ?_, fun lowNs h => congrArg _ (if_pos ?_),
      fun ha hp => congrArg _ (if_neg ?_), fun h => congrArg _ (if_pos ?_), fun lowNs lost changed ha hp h1 h2 => ?_,
      fun lowNs lost changed h => congrArg _ (if_pos ?_)⟩
    · simp only [show s.present o.val = false from hp, Bool.false_or, Bool.and_eq_true, Bool.not_eq_true']
      exact fun ⟨h1, h2⟩ => ha.elim (Bool.eq_false_iff.1 · h1) (Bool.eq_false_iff.1 h2)
    · simpa only [Bool.or_eq_true, Bool.and_eq_true, Bool.not_eq_true'] using h
    · intro t
      have hx : exec (.hpdUnplug o lowNs) s = .next (if s.aphy n then t else t.linkGone n) := by
        refine congrArg _ (if_neg ?_)
        simp only [show (s.port o.val).hpd = true from hv, Nat.not_le.2 hl, decide_false, Bool.not_true, Bool.or_self, Bool.false_eq_true,
          not_false_eq_true]
      exact ⟨fun ha => hx.trans (congrArg _ (if_neg (Bool.eq_false_iff.1 ha))), fun ha => hx.trans (congrArg _ (if_pos ha))⟩
    · simpa only [Bool.or_eq_true, decide_eq_true_eq, Bool.not_eq_true'] using h
    · simp only [show s.aphy o.val = true from ha, show s.present o.val = true from hp, Bool.not_true, Bool.or_self, Bool.false_eq_true,
        not_false_eq_true]
    · simpa only [Bool.or_eq_true, Bool.not_eq_true'] using h
    · intro t
      have hx : exec (.hpdIrq o lowNs lost changed) s = .next (
          if !t.heedsIrq n then t else if changed then t.askRetrain n 2 else if lost then t.askRetrain n 1 else t) := by
        refine congrArg _ (if_neg ?_)
        simp only [show s.aphy o.val = false from ha, show s.present o.val = true from hp, Nat.not_lt.2 h1, Nat.not_lt.2 h2, decide_false,
          Bool.not_true, Bool.or_self, Bool.false_eq_true, not_false_eq_true]
      refine ⟨fun hh => hx.trans ?_, fun hh => hx.trans ?_⟩ <;> rw [hh] <;> rfl
    · simp only [Bool.or_eq_true, Bool.not_eq_true', decide_eq_true_eq]
      obtain h | h | h | h := h
      exacts [.inl (.inl (.inl h)), .inr h, .inl (.inl (.inr h)), .inl (.inr h)]
  case link =>
    intro n p v
    refine ⟨fun caps record hl hr => ?_, fun caps record hl hr => (if_neg (not_not.2 hr)).trans (congrArg _ (if_pos hl)),
      fun c length hl hw hc => ?_, fun length h => execCableMeasureDone_else h, fun hl => ?_, fun ok hl => congrArg _ (if_pos hl)⟩
    · exact (if_neg (not_not.2 hr)).trans (congrArg _ (if_neg (not_not.2 hl)))
    · intro far len t cable partner
      have hx : exec (.cableMeasureDone o length) s = .next (
          if cable || partner then
            let u := t.setLink n 5 3
            let u := if cable then u.fault p 1 else u
            if partner then u.fault p 2 else u
          else if v.changed then (t.setPort n { v with waiting := true }).setLink n 2 6
          else t.linkTrain n 0) := execCableMeasureDone_measured hl hw hc
      clear_value cable partner
      have hct : (t.port n).caps = some c := hc
      refine ⟨fun h1 h2 => ?_, fun h1 h2 => ?_, fun h1 h2 => ?_, fun h1 h2 h => ?_, fun h1 h2 h hr => ?_, fun r h1 h2 h hr => ?_⟩ <;>
        rw [hx, h1, h2]
      · rfl
      · rfl
      · rfl
      · exact congrArg _ (if_pos h)
      · exact congrArg _ ((if_neg (Bool.eq_false_iff.1 h)).trans (linkTrain_none hct hr))
      · exact congrArg _ ((if_neg (Bool.eq_false_iff.1 h)).trans (linkTrain_some hct hr))
    · intro t
      have hx (ok : Bool) : exec (.trainingDone o ok) s = .next (
          if ok then (((t.setPort n { v with attempts := 0, again := false }).wr p OUT_LNK_STATUS_rate v.goal.1).setLink n 4 8).wr p
            OUT_LNK_STATUS_lanes v.goal.2
          else if 3 ≤ v.attempts + 1 then ((t.setPort n { v with attempts := 0, again := false }).setLink n 6 7).fault p 3
          else t.setPort n { v with attempts := v.attempts + 1 }) := congrArg _ (if_neg (not_not.2 hl))
      exact ⟨hx true, fun h => (hx false).trans (congrArg _ ((if_neg Bool.false_ne_true).trans (if_neg (Nat.not_le.2 (Nat.succ_lt_succ h))))),
        fun h => (hx false).trans (congrArg _ ((if_neg Bool.false_ne_true).trans (if_pos (Nat.succ_le_succ h))))⟩

end Sys2Proof.Machine
end

section
/-! PROOFS. Capture ports (R207 to R211) and the clearing link (R213 to R217). -/

namespace Sys2Proof.Machine

variable {s t : State}

/-! Capture ports. -/

/-- CAP_CTRL as a write leaves it: a change of the enable leaves no slot open (R207). -/
def State.capStored (t : State) (c : Nat) (v : Word) : State :=
  let u := t.store (capPage c) CAP_CTRL.off v
  (if t.rd (capPage c) CAP_CTRL_en ≠ u.rd (capPage c) CAP_CTRL_en then
    u.setCap c { (u.cap c).noMirror with open_ := none, next := 0, lineAt := none, lineNs := 0 } else u).capReport c

theorem capWrite_accepted {who c : Nat} {v : Word}
    (h : s.writeOk who (capPage c) CAP_CTRL.off v false (s.capRule c CAP_CTRL.off) = true) :
    s.capWrite who c CAP_CTRL.off v 15 = (s.log who (s.writeRec who (capPage c) CAP_CTRL.off v)).capStored c v := by
  unfold State.capWrite
  refine (writeWith_logged h).trans ((if_pos rfl).trans ?_)
  simp only [true_and]
  rfl

/-- A frame starts on an enabled port: a frame left open is complete, and each generator has its edge. -/
def State.frameStarted (s : State) (c : Nat) : State :=
  (s.capComplete c).heads.foldl (fun (u : State) g => u.refEdge g (3 + c) u.now) (s.capComplete c)

theorem execCapFrameStart_enabled {c : Fin 2} (h : s.rd (capPage c.val) CAP_CTRL_en ≠ 0) :
    execCapFrameStart c s = .next (match (s.frameStarted c.val).capSlot c.val with
      | none => ((s.frameStarted c.val).count (capPage c.val) 1).fault (capPage c.val) 1
      | some k =>
        (((s.frameStarted c.val).setCap c.val { (s.frameStarted c.val).cap c.val with
          open_ := some k, next := 0, published := Tbl.drop (fun j => j / 4320 == k) ((s.frameStarted c.val).cap c.val).published }).wr
          (capPage c.val) CAP_STATUS_slot k).chkFrameStart (16 + c.val)) := congrArg _ (if_neg h)

section line
variable {c : Fin 2} {k vc dt : Nat} {hdr : HdrCheck} {crcOk : Bool} {payload : List Byte}
  (ho : (s.cap c.val).open_ = some k) (he : s.rd (capPage c.val) CAP_CTRL_en ≠ 0)
include ho he

/-- A line that is the port's. -/
def State.capHere (s : State) (c vc dt : Nat) : Prop := vc = s.rd (capPage c) CAP_CTRL_vc ∧ dt = capType (s.rd (capPage c) CAP_CTRL_dt)

theorem execCapLine_elsewhere (hb : hdr ≠ .bad) (h : ¬ s.capHere c.val vc dt) : execCapLine c vc dt hdr crcOk payload s = .next s := by
  unfold execCapLine
  simp only [ho]
  refine congrArg _ ((if_neg he).trans (if_pos ⟨hb, ?_⟩))
  exact Decidable.not_and_iff_or_not.1 h

theorem execCapLine_here (h : hdr = .bad ∨ s.capHere c.val vc dt) : execCapLine c vc dt hdr crcOk payload s = .next (
    let t := if hdr = .corrected then s.count (capPage c.val) 4 else s
    let q := t.useInject (capPage c.val) 0
    if s.capHeight c.val ≤ (s.cap c.val).next then (t.setCap c.val { s.cap c.val with next := (s.cap c.val).next + 1 }).count (capPage c.val) 3
    else if hdr = .bad then t.capDrop c.val
    else (if !crcOk || q.2.isSome then (q.1.capDrop c.val).fault (capPage c.val) 0 else q.1.capPublish c.val k payload).mirrorLine c.val) := by
  have hh : ¬ (hdr ≠ .bad ∧ (vc ≠ s.rd (capPage c.val) CAP_CTRL_vc ∨ dt ≠ capType (s.rd (capPage c.val) CAP_CTRL_dt))) := fun ⟨hb, hd⟩ =>
    have ⟨hv, ht⟩ := h.resolve_left hb
    hd.elim (· hv) (· ht)
  have ht : (if hdr = .corrected then s.count (capPage c.val) 4 else s).capHeight c.val = s.capHeight c.val := by split <;> rfl
  unfold execCapLine
  simp only [ho]
  refine congrArg _ ((if_neg he).trans ((if_neg hh).trans ?_))
  rw [ht]

end line

/-! The mirror (R211). -/

theorem mirrorRun_done {c n : Nat} {k : Nat} (hm : (s.cap c).mirror = some k) (hb : (s.cap c).buffer = [])
    (hh : s.capHeight c ≤ (s.cap c).copied) : s.mirrorRun c (n + 1) = s.setCap c (s.cap c).noMirror := by
  have hd : s.mirrorDrain c ([] : List Byte).length = s := rfl
  unfold State.mirrorRun
  simp only [hd, hb, hm, hh, List.isEmpty_nil, Bool.not_true, Bool.false_eq_true, Option.isNone_some, or_self, if_false, if_true]

/-- Settles O43. -/
theorem captures : Obligations.Captures := by
  unfold Obligations.Captures
  intro who c s p v en
  refine ⟨fun h => congrArg _ (capWrite_accepted h), fun he => ?_, fun he => ⟨congrArg _ (if_pos he), congrArg _ (if_pos he)⟩,
    fun k vc dt hdr crcOk payload ho he => ?_, fun vc dt hdr crcOk payload h => ?_, fun k hm => ?_, fun hm => congrArg _ (if_pos ?_), rfl⟩
  · intro t t'
    have hx : exec (.capFrameStart c) s = _ := execCapFrameStart_enabled he
    refine ⟨fun h => ?_, fun k h => ?_, congrArg _ (if_neg he)⟩
    · rw [hx, show (s.frameStarted c.val).capSlot c.val = none from h]
      rfl
    · rw [hx, show (s.frameStarted c.val).capSlot c.val = some k from h]
      rfl
  · intro here t q done
    have hx (h : hdr = .bad ∨ here) : exec (.capLine c vc dt hdr crcOk payload) s = .next (
        if s.capHeight c.val ≤ v.next then (t.setCap c.val { v with next := v.next + 1 }).count p 3
        else if hdr = .bad then t.capDrop c.val
        else (if !crcOk || q.2.isSome then (q.1.capDrop c.val).fault p 0 else q.1.capPublish c.val k payload).mirrorLine c.val) :=
      execCapLine_here ho he h
    refine ⟨fun hb h => execCapLine_elsewhere ho he hb h, fun h hn => (hx h).trans (congrArg _ (if_pos hn)), fun hb hn => ?_,
      fun hb h hn hc hq => ?_, fun hb h hn hq => ?_⟩
    · refine (hx (.inl hb)).trans (congrArg _ ((if_neg (Nat.not_le.2 hn)).trans ((if_pos hb).trans ?_)))
      have ht : t = s := if_neg (by rw [hb]; exact nofun)
      rw [ht]
    · refine (hx (.inr h)).trans (congrArg _ ((if_neg (Nat.not_le.2 hn)).trans ((if_neg hb).trans ?_)))
      rw [hc, hq]
      rfl
    · refine (hx (.inr h)).trans (congrArg _ ((if_neg (Nat.not_le.2 hn)).trans ((if_neg hb).trans ?_)))
      rw [if_pos]
      simpa only [Bool.or_eq_true, Bool.not_eq_true'] using hq
  · simp only [exec, execCapLine]
    split
    next => rfl
    next k ho => exact congrArg _ (if_pos (h.resolve_left (by rw [ho]; exact nofun)))
  · intro t
    have hsome : ¬ (s.cap c.val).mirror.isNone = true := by
      rw [show (s.cap c.val).mirror = some k from hm]
      exact Bool.false_ne_true
    have hgo (hd : s.dramReady = true) : exec (.capMirrorDone c) s = .next (s.mirrorGo c.val) := by
      refine congrArg _ ((if_neg hsome).trans (if_neg ?_))
      rw [hd]
      exact Bool.false_ne_true
    refine ⟨hgo, fun hd hk hb hh => ?_, fun hd => congrArg _ ((if_neg hsome).trans (if_pos ?_))⟩
    · exact (hgo hd).trans (congrArg (fun (u : State) => Host.Outcome.next (u.capReport c.val)) (mirrorRun_done hk hb hh))
    · rw [hd]
      rfl
  · rw [show (s.cap c.val).mirror = none from hm]
    rfl

/-! The clearing link (R213 to R217). -/

/-- A frame, judged by its window: it lies outside, or past the latest start. -/
def clOutside (startNs endNs : Int) : Prop := startNs < 0 ∨ 25000 < endNs ∨ 19400 < startNs

theorem clClass_discarded {startNs endNs : Int} {ok : Bool} (h : ok = false ∨ clOutside startNs endNs) :
    clClass startNs endNs ok = .discarded := if_pos (h.imp_left fun h => by rw [h]; rfl)

theorem clClass_heard {startNs endNs : Int} (h : ¬ clOutside startNs endNs) :
    clClass startNs endNs true = if decide (startNs < 2000 ∨ 15860 < startNs) then .edge else .accepted := by
  have hin : 2000 ≤ startNs ∧ startNs ≤ 15860 ↔ ¬ (startNs < 2000 ∨ 15860 < startNs) := by omega
  refine (if_neg fun hd => h (hd.resolve_left Bool.false_ne_true)).trans ?_
  simp only [hin, decide_eq_true_eq, ite_not]

section receive
variable {d : Fin 4} {startNs endNs : Int} {start rest : List ClChar} (he : s.rd gngPage GNG_CTRL_en ≠ 0)
include he

theorem execClFrameReceive_discarded (h : clParse (start ++ rest) = none ∨ clOutside startNs endNs) :
    execClFrameReceive d startNs endNs start rest s
      = .next (if (s.rd gngPage GNG_STATUS_excluded).testBit d.val then s else s.clDiscard d.val) := by
  have hc : clClass startNs endNs (clParse (start ++ rest)).isSome = .discarded :=
    clClass_discarded (h.imp_left fun h => by rw [h]; rfl)
  unfold execClFrameReceive
  simp only [hc, if_neg he]

theorem execClFrameReceive_heard {f : ClFrame} (hf : clParse (start ++ rest) = some f) (h : ¬ clOutside startNs endNs) :
    execClFrameReceive d startNs endNs start rest s
      = .next (if ((s.rd gngPage GNG_STATUS_excluded).testBit d.val && !f.rejoin) = true then s
        else s.clAccept d.val f (s.now - (endNs - startNs).toNat) (decide (startNs < 2000 ∨ 15860 < startNs))) := by
  unfold execClFrameReceive
  simp only [hf, Option.isSome_some, clClass_heard h, if_neg he]
  cases decide (startNs < 2000 ∨ 15860 < startNs) <;> rfl

end receive

/-- Eight cycles have passed since the last sync frame, or since the device takes part. -/
theorem execSyncLost_of_since {at_ : Nat} (h : s.link.lastSync.or s.link.since = some at_) :
    execSyncLost s = .next (if s.rd gngPage GNG_CTRL_en = 0 ∨ s.now < at_ + 1000000 then s
      else (({ s with link := { s.link with syncRun := 0 } } : State).hwField gngPage GNG_STATUS_sync 0).setLevel gngPage 0 true) := by
  have hl : s.rd gngPage GNG_CTRL_en = 0 ∨ (!decide (at_ + 8 * clCycle ≤ s.now)) = true ↔ s.rd gngPage GNG_CTRL_en = 0 ∨ s.now < at_ + 1000000 := by
    rw [Bool.not_eq_true', decide_eq_false_iff_not, Nat.not_le]
    rfl
  unfold execSyncLost
  rw [h]
  exact congrArg _ (if_congr hl rfl rfl)

/-- Settles O44. -/
theorem clearingLink : Obligations.ClearingLink := by
  unfold Obligations.ClearingLink
  refine fun s => ⟨fun he => ?_, fun he => ⟨congrArg _ (if_pos he), congrArg _ (if_pos (.inl he)), fun _ _ _ _ _ => congrArg _ (if_pos he)⟩,
    fun at_ h hn => (execSyncLost_of_since h).trans (congrArg _ (if_pos (.inr hn))), fun d => ⟨fun h => congrArg _ (if_neg (Nat.not_lt.2 h)),
      fun h => congrArg _ (if_pos h)⟩⟩
  intro t sync f kept
  have hsend : exec .clFrameSend s = .next (if !t.maySend sync then t else { t with link := { t.link with
      sent := some f, wire := clChars f, cycle := f.cycle, tokensOut := kept,
      cycleAt := if sync then some (t.now - 2000) else t.link.cycleAt, statusAt := if sync then t.link.statusAt else some t.now } }) :=
    congrArg _ (if_neg he)
  refine ⟨fun h => ?_, fun h => ?_, fun d startNs endNs start rest => ?_,
    fun at_ h hn => (execSyncLost_of_since h).trans (congrArg _ (if_neg (not_or.2 ⟨he, Nat.not_lt.2 hn⟩)))⟩
  · rw [hsend, h]
    rfl
  · rw [hsend, h]
    rfl
  intro chars out outside sof edge
  refine ⟨fun h ho => (execClFrameReceive_discarded he h).trans (congrArg _ (if_neg (Bool.eq_false_iff.1 ho))),
    fun h ho => (execClFrameReceive_discarded he h).trans (congrArg _ (if_pos ho)),
    fun frame hf hi ho hr => (execClFrameReceive_heard he hf hi).trans (congrArg _ (if_pos ?_)),
    fun frame hf hi h => (execClFrameReceive_heard he hf hi).trans (congrArg _ (if_neg ?_))⟩
  · rw [show (s.rd gngPage GNG_STATUS_excluded).testBit d.val = true from ho, hr]
    rfl
  · simp only [Bool.and_eq_true, Bool.not_eq_true']
    exact fun ⟨h1, h2⟩ => h.elim (Bool.eq_false_iff.1 · h1) (Bool.eq_false_iff.1 h2)

end Sys2Proof.Machine
end

section
/-! PROOFS. The controller of the DRAM (R221 to R239). -/

namespace Sys2Proof.Machine

variable {s t : State}

/-! Set-up (R221, R222). -/

theorem memInit_get : MEM_CTRL_init.get (s.fieldWrite (memPage 0) MEM_CTRL_init 0 1) = 1 := by
  have hput (w : Word) : MEM_CTRL_init.get (MEM_CTRL_init.put w 1) = 1 := Fld.get_put MEM_CTRL_init (by decide) (by decide) w 1
  unfold State.fieldWrite
  split <;> exact hput _

theorem memInit_accepted {who : Nat}
    (h : s.writeOk who (memPage 0) MEM_CTRL.off (s.fieldWrite (memPage 0) MEM_CTRL_init 0 1) false s.memCtrlRule = true) :
    s.memCtrlWrite who (s.fieldWrite (memPage 0) MEM_CTRL_init 0 1) 15 =
      let init := s.fieldWrite (memPage 0) MEM_CTRL_init 0 1
      ((((s.log who (s.writeRec who (memPage 0) MEM_CTRL.off init)).store (memPage 0) MEM_CTRL.off init).wr (memPage 0)
        MEM_CTRL_init 0).syncStrict).wr (memPage 0) MEM_STATUS_state 1 := by
  unfold State.memCtrlWrite
  exact (writeWith_logged h).trans (if_pos memInit_get)

/-! Refresh (R224, R225). -/

theorem execRefreshDue_unfit {ch : Fin 16} {rank : Fin 2} (h : s.refreshes rank.val = false) : execRefreshDue ch rank s = .next s := by
  refine congrArg _ (if_pos ?_)
  rw [h]
  rfl

section refresh
variable {ch : Fin 16} {rank : Fin 2} (h : s.refreshes rank.val = true)
include h

theorem execRefreshDue_strict (hs : s.rd (memPage 0) MEM_CTRL_strict = 1) : execRefreshDue ch rank s = .next (s.refresh ch.val rank.val) := by
  unfold execRefreshDue
  simp only [h, State.strictMem, hs, Bool.not_true, Bool.false_eq_true, if_false, beq_self_eq_true, if_true]

theorem execRefreshDue_open (hs : s.rd (memPage 0) MEM_CTRL_strict ≠ 1) : execRefreshDue ch rank s = .next (
    if s.rd (chPage ch.val) (creditField rank.val) = 8 then (s.refresh ch.val rank.val).fault (memPage 18) 0
    else if !s.anyPanic then s.refresh ch.val rank.val
    else (s.wr (chPage ch.val) (creditField rank.val) (s.rd (chPage ch.val) (creditField rank.val) + 1)).count (chPage ch.val) 5) := by
  have hm : ¬ s.strictMem = true := fun e => hs (beq_iff_eq.1 e)
  unfold execRefreshDue
  simp only [h, if_neg hm, Bool.not_true, Bool.false_eq_true, if_false]

end refresh

/-! Power states (R229 to R237). -/

/-- What keeps a rank from going down (R229). -/
def State.staysUp (s : State) (ch rank : Nat) : Prop :=
  s.refreshes rank = false ∨ s.rd (memPage 0) MEM_CTRL_strict = 1 ∨ s.rd (chPage ch) MEM_CH_PD_IDLE_idle = 0 ∨ s.minTolerance = 0
    ∨ (∃ e ∈ s.mem.down, e.1 = ch * 2 + rank)
    ∨ s.now < NatTbl.at_ s.mem.lastReq (ch * 2 + rank) + s.rd (chPage ch) MEM_CH_PD_IDLE_idle * 10

theorem staysUp_iff {ch rank : Nat} :
    (!s.refreshes rank || s.rd (memPage 0) MEM_CTRL_strict == 1 || s.rd (chPage ch) MEM_CH_PD_IDLE_idle == 0 || s.minTolerance == 0
      || s.mem.down.any (fun (e : Nat × Nat) => e.1 == ch * 2 + rank)
      || decide (s.now < NatTbl.at_ s.mem.lastReq (ch * 2 + rank) + s.rd (chPage ch) MEM_CH_PD_IDLE_idle * 10)) = true
      ↔ s.staysUp ch rank := by
  simp only [State.staysUp, Bool.or_eq_true, Bool.not_eq_true', beq_iff_eq, List.any_eq_true, decide_eq_true_eq, or_assoc]

/-- What keeps the DRAM out of self-refresh (R230, R231). -/
def State.staysActive (s : State) : Prop :=
  s.dramReady = false ∨ s.dramPower ≠ 0 ∨ s.rd (memPage 0) MEM_PWR_sr_en = 0 ∨ s.rd (memPage 0) MEM_CTRL_strict = 1
    ∨ s.minTolerance ≤ s.srLimit ∨ s.now < s.mem.lastNonRt + 1000 ∨ s.mem.waiting ≠ [] ∨ s.mem.held ≠ []

theorem staysActive_iff :
    (!s.dramReady || s.dramPower != 0 || s.rd (memPage 0) MEM_PWR_sr_en == 0 || s.rd (memPage 0) MEM_CTRL_strict == 1
      || decide (s.minTolerance ≤ s.srLimit) || decide (s.now < s.mem.lastNonRt + 1000) || !s.mem.waiting.isEmpty || !s.mem.held.isEmpty) = true
      ↔ s.staysActive := by
  simp only [State.staysActive, Bool.or_eq_true, Bool.not_eq_true', beq_iff_eq, bne_iff_ne, decide_eq_true_eq, List.isEmpty_eq_false_iff, ne_eq,
    or_assoc]

/-- The DRAM goes into self-refresh, its owed refreshes repaid. -/
def State.selfRefreshed (s : State) : State :=
  let t := (List.range 32).foldl (fun (t : State) k =>
    ((t.wakeRank k).count (chPage (k / 2)) 4 (t.rd (chPage (k / 2)) (creditField (k % 2)))).wr (chPage (k / 2)) (creditField (k % 2)) 0) s
  let u := (t.count (memPage 18) 3).wr (memPage 0) MEM_STATUS_power 1
  { u with mem := { u.mem with sleepAt := u.now, openRow := [] } }

theorem execSelfRefreshEntry_enters (h : ¬ s.staysActive) : execSelfRefreshEntry s = .next s.selfRefreshed := by
  unfold execSelfRefreshEntry
  rw [if_neg (mt staysActive_iff.1 h), State.selfRefreshed]

/-- What keeps the DRAM in self-refresh rather than deep sleep, where the ports have been unlimited since `at_` (R233). -/
def State.staysLight (s : State) (at_ : Nat) : Prop :=
  s.dramPower ≠ 1 ∨ s.rd (memPage 0) MEM_PWR_ds_en = 0 ∨ s.now < at_ + 1000 * s.rd (memPage 0) MEM_PWR_ds_idle
    ∨ s.now < s.mem.lastNonRt + 1000 * s.rd (memPage 0) MEM_PWR_ds_idle
    ∨ ∃ x, s.mem.lastDeepExit = some x ∧ s.now < x + 10000000 * s.rd (memPage 0) MEM_PWR_HOLD_holdoff

/-- The DRAM goes into deep sleep. -/
def State.deepSleep (s : State) : State :=
  let u := ((s.addTime (memPage 18) 1 s.mem.sleepAt).count (memPage 18) 4).hwField (memPage 0) MEM_STATUS_power 2
  { u with mem := { u.mem with sleepAt := u.now } }

open Classical in
theorem execDeepSleepEntry_unlimited {at_ : Nat} (h : s.mem.unlimitedAt = some at_) :
    execDeepSleepEntry s = .next (if s.staysLight at_ then s else s.deepSleep) := by
  unfold execDeepSleepEntry
  simp only [h]
  refine congrArg _ (if_congr ?_ rfl rfl)
  simp only [State.staysLight, Bool.or_eq_true, beq_iff_eq, bne_iff_ne, decide_eq_true_eq, or_assoc]
  cases s.mem.lastDeepExit <;> simp only [Bool.false_eq_true, reduceCtorEq, Option.some.injEq, decide_eq_true_eq, false_and, exists_false, exists_eq_left']

theorem execDeepSleepEntry_limited (h : s.mem.unlimitedAt = none) : execDeepSleepEntry s = .next s := by
  unfold execDeepSleepEntry
  rw [h]

/-- An exit from self-refresh, and one from deep sleep (R232, R234). -/
theorem beginExit_light (h : s.dramPower = 1) :
    s.beginExit = (s.addTime (memPage 18) 1 s.mem.sleepAt).wr (memPage 0) MEM_STATUS_power 3 := if_pos h

theorem beginExit_deep (h : s.dramPower = 2) : s.beginExit =
    let u := (s.addTime (memPage 18) 2 s.mem.sleepAt).hwField (memPage 0) MEM_STATUS_power 3
    { u with mem := { u.mem with lastDeepExit := some u.now } } := (if_neg (by rw [h]; decide)).trans (if_pos h)

theorem waiting_iff : (!s.mem.waiting.isEmpty) = true ↔ s.mem.waiting ≠ [] := by
  rw [Bool.not_eq_true', List.isEmpty_eq_false_iff]

/-! Strict mode (R238, R239). -/

theorem execStrictRound_off {ch : Fin 16} (h : s.rd (memPage 0) MEM_CTRL_strict = 0 ∨ s.dramReady = false) :
    execStrictRound ch s = .next s := by
  rw [execStrictRound, if_pos (h.imp_right (Bool.not_eq_true' _).mpr)]

theorem execStrictWindow_off {ch : Fin 16} (h : s.rd (memPage 0) MEM_CTRL_strict = 0 ∨ s.dramReady = false ∨ 64 ≤ NatTbl.at_ s.mem.window ch.val) :
    execStrictWindow ch s = .next s := by
  rw [execStrictWindow, if_pos (h.imp_right (.imp_left (Bool.not_eq_true' _).mpr))]

section strict
variable {ch : Fin 16} (hs : s.rd (memPage 0) MEM_CTRL_strict ≠ 0) (hr : s.dramReady = true)
include hs hr

theorem execStrictRound_on : execStrictRound ch s = .next (
    let t := ((List.range 2).filter s.rankHere).foldl (fun (t : State) r => t.refresh ch.val r) s
    { t with mem := { t.mem with window := NatTbl.put t.mem.window ch.val 0 } }) := by
  rw [execStrictRound, if_neg]
  simp only [hr, Bool.not_true, Bool.false_eq_true, or_false, hs, not_false_eq_true]

theorem execStrictWindow_next (hw : NatTbl.at_ s.mem.window ch.val < 64) : execStrictWindow ch s = .next
    ({ s with mem := { s.mem with window := NatTbl.put s.mem.window ch.val (NatTbl.at_ s.mem.window ch.val + 1),
                                  used := NatTbl.put s.mem.used ch.val 0 } } : State).serveHeld := by
  rw [execStrictWindow, if_neg]
  simp only [hr, Bool.not_true, Bool.false_eq_true, hs, Nat.not_le.2 hw, not_false_eq_true, or_self]

end strict

theorem execDramExitDone_ends (h : s.dramPower = 3) : execDramExitDone s = .next (s.wr (memPage 0) MEM_STATUS_power 0).serveHeld := by
  rw [execDramExitDone, if_pos h]

theorem execDramExitDone_stays (h : s.dramPower ≠ 3) : execDramExitDone s = .next s := by
  rw [execDramExitDone, if_neg h]

/-- Settles O45. -/
theorem dramController : Obligations.DramController := by
  unfold Obligations.DramController
  refine ⟨fun who ch rank s => ?setup, fun ch rank s => ?power⟩
  case setup =>
    intro m0 p k init
    refine ⟨fun h => congrArg _ (memInit_accepted h), fun failed capacity => ⟨fun hs hf => ?_, fun hs hf => ?_, fun hs => congrArg _ (if_pos hs)⟩,
      fun h => ?_, fun code h => congrArg _ (if_pos ?_), fun code hr hk => ?_, fun h => ?_, fun h => ⟨execRefreshDue_unfit h, congrArg _ (if_pos ?_)⟩⟩
    · exact congrArg _ ((if_neg (not_not.2 hs)).trans (if_neg (not_not.2 hf)))
    · exact congrArg _ ((if_neg (not_not.2 hs)).trans (if_pos hf))
    · simp only [exec, execMemInit, State.memCtrlWrite]
      exact congrArg _ (writeWith_stopped Prod.mk.eta.symm fun hc => Bool.eq_false_iff.1 h (beq_iff_eq.2 hc))
    · simpa only [Bool.or_eq_true, Bool.not_eq_true'] using h
    · intro was r t t' u
      have hx : ¬ (!s.dramReady || !s.rankHere rank.val) = true := by
        rw [hr, hk]
        exact Bool.false_ne_true
      exact congrArg _ (if_neg hx)
    · have hrepay : exec (.refreshRepay ch rank) s = .next (if (s.anyPanic || s.rd p (creditField rank.val) == 0) = true then s
          else (s.wr p (creditField rank.val) (s.rd p (creditField rank.val) - 1)).refresh ch.val rank.val) := by
        simp only [exec, execRefreshRepay, h, Bool.not_true, Bool.false_or]
        rfl
      refine ⟨execRefreshDue_strict h, fun hs hc => (execRefreshDue_open h hs).trans (congrArg _ (if_pos hc)), fun hs hc hp => ?_,
        fun hs hc hp => ?_, fun hp hc => hrepay.trans (congrArg _ (if_neg ?_)), fun hp => hrepay.trans (congrArg _ (if_pos ?_))⟩
      · refine (execRefreshDue_open h hs).trans (congrArg _ ((if_neg hc).trans (if_pos ?_)))
        rw [hp]
        rfl
      · refine (execRefreshDue_open h hs).trans (congrArg _ ((if_neg hc).trans (if_neg ?_)))
        rw [hp]
        exact Bool.false_ne_true
      · simp only [hp, Bool.false_or, beq_iff_eq, hc, not_false_eq_true]
      · simpa only [Bool.or_eq_true, beq_iff_eq] using hp
    · rw [h]
      rfl
  case power =>
    intro m0 k strict
    refine ⟨fun h1 h2 h3 h4 h5 h6 => congrArg _ (if_neg (mt staysUp_iff.1 ?_)), fun h => congrArg _ (if_pos (staysUp_iff.2 h)),
      fun h1 h2 h3 h4 h5 h6 h7 h8 => execSelfRefreshEntry_enters ?_, fun h => congrArg _ (if_pos (staysActive_iff.2 h)),
      fun hp h => ?_, fun h => congrArg _ (if_neg ?_), fun at_ ha hp he h1 h2 h3 => ?_, fun h => ?_,
      fun hp h => ?_, fun h => congrArg _ (if_neg ?_), execDramExitDone_ends, execDramExitDone_stays, fun hs hr => ?_, fun h => ?_⟩
    · rintro (h | h | h | h | ⟨e, he, hk⟩ | h)
      exacts [Bool.eq_false_iff.1 h h1, h2 h, h3 h, h4 h, h5 e he hk, Nat.not_lt.2 h6 h]
    · rintro (h | h | h | h | h | h | h | h)
      exacts [Bool.eq_false_iff.1 h h1, h h2, h3 h, h4 h, Nat.not_le.2 h5 h, Nat.not_lt.2 h6 h, h h7, h h8]
    · exact congrArg _ ((if_pos ⟨hp, h.imp_left waiting_iff.2⟩).trans (beginExit_light hp))
    · rintro ⟨hp, hw⟩
      obtain h | ⟨h1, h2, h3⟩ := h
      · exact h hp
      · obtain hw | hw | hw := hw
        exacts [waiting_iff.1 hw h1, Bool.eq_false_iff.1 h2 hw, Nat.not_le.2 h3 hw]
    · refine (execDeepSleepEntry_unlimited ha).trans (congrArg _ (if_neg ?_))
      rintro (h | h | h | h | ⟨x, hx, h⟩)
      exacts [h hp, he h, Nat.not_lt.2 h1 h, Nat.not_lt.2 h2 h, Nat.not_lt.2 (h3 x hx) h]
    · cases ha : s.mem.unlimitedAt with
      | none => exact execDeepSleepEntry_limited ha
      | some at_ =>
        refine (execDeepSleepEntry_unlimited ha).trans (congrArg _ (if_pos ?_))
        obtain h | h | h | ⟨t, ht, h⟩ | h | h := h
        · exact .inl h
        · exact .inr (.inl h)
        · exact absurd (ha.symm.trans h) nofun
        · obtain rfl : at_ = t := Option.some.inj (ha.symm.trans ht)
          exact .inr (.inr (.inl h))
        · exact .inr (.inr (.inr (.inl h)))
        · exact .inr (.inr (.inr (.inr h)))
    · exact congrArg _ ((if_pos ⟨hp, h.imp_left waiting_iff.2⟩).trans (beginExit_deep hp))
    · rintro ⟨hp, hw⟩
      obtain h | ⟨h1, h2, h3⟩ := h
      · exact h hp
      · obtain hw | hw | hw := hw
        exacts [waiting_iff.1 hw h1, Bool.eq_false_iff.1 h2 hw, Bool.eq_false_iff.1 h3 hw]
    · intro t w
      exact ⟨execStrictRound_on hs hr, fun hw => execStrictWindow_next hs hr hw, fun hw => execStrictWindow_off (.inr (.inr hw))⟩
    · exact ⟨execStrictRound_off h, execStrictWindow_off (h.imp_right .inl)⟩

end Sys2Proof.Machine
end

section
/-! PROOFS. Accesses of the DRAM (R222, R225, R227, R237 to R244, R295). -/

namespace Sys2Proof.Machine

variable {s t : State}

/-! The lines of a range. -/

/-- The first lines of a range, from line `addr / 64` on, hold its first bytes. -/
theorem flatMap_lines {α : Type} (f : Nat → α) (a n k : Nat) :
    ((List.range k).map (· + a / 64)).flatMap (fun l => (List.range' (max a (64 * l)) (min (a + n) (64 * l + 64) - max a (64 * l))).map f)
      = (List.range' a (min (a + n) (64 * (a / 64 + k)) - a)).map f := by
  induction k with
  | zero =>
    have h : min (a + n) (64 * (a / 64 + 0)) - a = 0 := by omega
    rw [h]
    rfl
  | succ k ih =>
    rw [List.range_succ, List.map_append, List.flatMap_append, ih]
    simp only [List.map_cons, List.map_nil, List.flatMap_cons, List.flatMap_nil, List.append_nil, ← List.map_append]
    generalize hm : min (a + n) (64 * (a / 64 + k)) - a = m
    generalize hc : min (a + n) (64 * (k + a / 64) + 64) - max a (64 * (k + a / 64)) = c
    by_cases h0 : c = 0
    · have h : min (a + n) (64 * (a / 64 + (k + 1))) - a = m := by omega
      rw [h, h0, List.range'_zero, List.append_nil]
    · have hlo : max a (64 * (k + a / 64)) = a + 1 * m := by omega
      have h : min (a + n) (64 * (a / 64 + (k + 1))) - a = m + c := by omega
      rw [h, hlo, List.range'_append]

theorem flatMap_linesOf {α : Type} (f : Nat → α) (a : Nat) {n : Nat} (hn : 0 < n) :
    (linesOf a n).flatMap (fun l => (List.range (min (a + n) (64 * l + 64) - max a (64 * l))).map fun i => f (max a (64 * l) + i))
      = (List.range n).map fun i => f (a + i) := by
  have hr (lo c : Nat) : (List.range c).map (fun i => f (lo + i)) = (List.range' lo c).map f := by
    rw [List.range'_eq_map_range, List.map_map]
    rfl
  have hend : min (a + n) (64 * (a / 64 + ((a + (n - 1)) / 64 + 1 - a / 64))) - a = n := by omega
  simp only [hr]
  rw [linesOf, flatMap_lines, hend]

/-! A read with nothing queued and no inline ECC region. -/

/-- No inline ECC region, nothing queued, and the registers in canonical form. -/
structure State.Plain (s : State) : Prop where
  regs : Tbl.wf regReset s.regs = true
  wq : s.mem.wq = []
  size : ∀ i < 8, s.rd (memPage 17) MEM_ECC_SIZE_size i = 0

/-- The memories of `t` are those of `s`, and both are plain. -/
structure State.SameMemory (s t : State) : Prop where
  plain : t.Plain
  dram : t.dram = s.dram
  zeroed : t.zeroed = s.zeroed
  vault : t.vault = s.vault

theorem State.Plain.eccRegion (h : s.Plain) (a : Nat) : s.eccRegion a = none := by
  unfold State.eccRegion
  rw [List.find?_eq_none]
  simp only [List.mem_map, List.mem_range, forall_exists_index, and_imp, Bool.and_eq_true, decide_eq_true_eq, not_and, Nat.not_lt]
  rintro r i hi rfl ha
  simpa only [h.size i hi, Nat.zero_mul, Nat.add_zero] using ha

theorem State.Plain.wq_eq (h : s.Plain) (c : Nat) : s.wq c = [] := by
  unfold State.wq
  rw [h.wq]
  rfl

theorem State.Plain.dramByte (h : s.Plain) (a : Nat) : s.dramByte a = Tbl.get (dramEmpty s.zeroed) s.dram a := by
  unfold State.dramByte
  rw [h.wq_eq]
  rfl

/-- Stated of the function: with its arguments the kernel would evaluate the tag's address. -/
theorem eccFound_eq : State.eccFound = fun s line => match s.tagOf line with
    | none => .clean
    | some t => eccCompare line (s.storedLine line) (s.tagAt t) := rfl

theorem State.Plain.eccFound (h : s.Plain) (l : Nat) : s.eccFound l = .clean := by
  have ht : s.tagOf l = none := by
    rw [State.tagOf, h.eccRegion, Option.map_none, ite_self]
  rw [eccFound_eq]
  beta_reduce
  rw [ht]

theorem bytesAt_dram (a n : Nat) : s.bytesAt 0 a n = (List.range n).map fun i => s.dramByte (a + i) := by
  unfold State.bytesAt State.byteAt
  simp only [if_true]

/-- With no region the bytes read are those stored. -/
theorem State.Plain.checkedBytes (h : s.Plain) (a : Nat) {n : Nat} (hn : 0 < n) : s.checkedBytes a n = s.bytesAt 0 a n := by
  rw [bytesAt_dram, ← flatMap_linesOf s.dramByte a hn]
  unfold State.checkedBytes
  simp only [h.eccFound]

theorem fkey_ne_of_page_ne {p q i j : Nat} {f g : Fld} (hp : p ≠ q) (hf : f.off + i * f.stride < 4096) (hg : g.off + j * g.stride < 4096) :
    fkey p f i ≠ fkey q g j := by
  unfold fkey regKey
  omega

/-! What a read leaves. -/

/-- Registers, write queues and memories are the same. -/
structure State.Untouched (s t : State) : Prop where
  regs : t.regs = s.regs
  wq : t.mem.wq = s.mem.wq
  dram : t.dram = s.dram
  zeroed : t.zeroed = s.zeroed
  vault : t.vault = s.vault

theorem State.Untouched.refl (s : State) : s.Untouched s := ⟨rfl, rfl, rfl, rfl, rfl⟩

theorem State.Untouched.trans {u : State} (h : s.Untouched t) (h' : t.Untouched u) : s.Untouched u :=
  ⟨h'.regs.trans h.regs, h'.wq.trans h.wq, h'.dram.trans h.dram, h'.zeroed.trans h.zeroed, h'.vault.trans h.vault⟩

theorem wakeRank_untouched (r : Nat) : s.Untouched (s.wakeRank r) := by
  unfold State.wakeRank
  split
  · exact .refl s
  · exact ⟨rfl, rfl, rfl, rfl, rfl⟩

theorem touchRank_untouched (pa : Nat) : s.Untouched (s.touchRank pa) := by
  obtain ⟨hr, hw, hd, hz, hv⟩ := wakeRank_untouched (s := s) (s.channel pa * 2 + s.rankOf pa)
  exact ⟨hr, hw, hd, hz, hv⟩

theorem chAccess_untouched (pa : Nat) (write : Bool) : s.Untouched (s.chAccess pa write) := by
  unfold State.chAccess
  extract_lets c k s1 _ s2 s3
  have h1 : s.Untouched s1 := (touchRank_untouched pa).trans ⟨rfl, rfl, rfl, rfl, rfl⟩
  have h2 : s1.Untouched s2 := by
    unfold s2
    split
    · exact ⟨rfl, rfl, rfl, rfl, rfl⟩
    · exact .refl s1
  have h3 : s2.Untouched s3 := by
    unfold s3
    split
    · exact ⟨rfl, rfl, rfl, rfl, rfl⟩
    · exact .refl s2
  exact ((h1.trans h2).trans h3).trans ⟨rfl, rfl, rfl, rfl, rfl⟩

theorem State.Plain.untouched (h : s.Plain) (hu : s.Untouched t) : s.SameMemory t := by
  refine ⟨⟨hu.regs ▸ h.regs, hu.wq.trans h.wq, fun i hi => ?_⟩, hu.dram, hu.zeroed, hu.vault⟩
  rw [← h.size i hi, State.rd, State.rd, State.reg, State.reg, hu.regs]

theorem State.SameMemory.trans {u : State} (h : s.SameMemory t) (h' : t.SameMemory u) : s.SameMemory u :=
  ⟨h'.plain, h'.dram.trans h.dram, h'.zeroed.trans h.zeroed, h'.vault.trans h.vault⟩

/-- The levels of the buckets lie in a page of their own. -/
theorem State.Plain.wr_bucket (h : s.Plain) {o : Nat} (ho : o ≤ 32) (v : Nat) : s.SameMemory (s.wr (memPage 21) MEM_BUCKET v o) := by
  refine ⟨⟨State.regs_wf_wr h.regs .., h.wq, fun i hi => ?_⟩, rfl, rfl, rfl⟩
  rw [State.rd_wr_other h.regs _ _ _ _ _ _ _ (fkey_ne_of_page_ne (by decide) ?_ ?_), h.size i hi]
  · have : MEM_ECC_SIZE_size.off + i * MEM_ECC_SIZE_size.stride = 0x0C4 + i * 8 := rfl
    omega
  · have : MEM_BUCKET.off + o * MEM_BUCKET.stride = 0x080 + o * 4 := rfl
    omega

theorem State.Plain.spend (h : s.Plain) (o : Nat) : s.SameMemory (s.spend o) := by
  unfold State.spend State.refill
  split
  · exact h.untouched (.refl s)
  next ho =>
    extract_lets rate last add level cap _ s1 s2
    have h1 : s.SameMemory s1 := h.untouched ⟨rfl, rfl, rfl, rfl, rfl⟩
    have h2 : s.SameMemory s2 := h1.trans (h1.plain.wr_bucket (Nat.not_lt.1 ho) _)
    exact h2.trans (h2.plain.wr_bucket (Nat.not_lt.1 ho) _)

theorem State.Plain.issueLine (h : s.Plain) (line : Nat) : s.SameMemory (s.issueLine line) := by
  unfold State.issueLine
  simp only [h.wq_eq]
  refine h.untouched ⟨rfl, ?_, rfl, rfl, rfl⟩
  simp only [List.filter_nil, State.issueOut, State.setWq, h.wq, Tbl.set, if_true]

theorem queuedByte_nil (a : Nat) : queuedByte [] a = none := rfl

theorem State.Plain.readLine (h : s.Plain) (o a n l : Nat) : s.SameMemory (s.readLine o a n l).1 ∧ (s.readLine o a n l).2 = none := by
  have hissue := h.issueLine l
  have hacc := hissue.trans (hissue.plain.untouched (chAccess_untouched (64 * l) false))
  have hspend := hacc.trans (hacc.plain.spend o)
  have hecc : (((s.issueLine l).chAccess (64 * l) false).spend o).eccLine l = (((s.issueLine l).chAccess (64 * l) false).spend o, none) := by
    rw [State.eccLine, hspend.plain.eccRegion]
    rfl
  have hread : s.readLine o a n l = (((s.issueLine l).chAccess (64 * l) false).spend o).eccLine l := by
    unfold State.readLine
    refine if_neg fun ⟨hn, hq⟩ => ?_
    have h0 := List.all_eq_true.1 hq 0 (List.mem_range.2 (Nat.pos_of_ne_zero hn))
    rw [h.wq_eq, queuedByte_nil] at h0
    exact Bool.false_ne_true h0
  rw [hread, hecc]
  exact ⟨hspend, rfl⟩

theorem State.Plain.readLines (h : s.Plain) (o a n : Nat) (ls : List Nat) :
    s.SameMemory (s.readLines o a n ls).1 ∧ (s.readLines o a n ls).2 = none := by
  induction ls generalizing s with
  | nil => exact ⟨h.untouched (.refl s), rfl⟩
  | cons l ls ih =>
    obtain ⟨hs, he⟩ := h.readLine o a n l
    obtain ⟨hs', he'⟩ := ih hs.plain
    unfold State.readLines
    refine ⟨hs.trans hs', ?_⟩
    simp only [he, he']

/-! The requests. -/

theorem noteNonRt_untouched (rt : Option Nat) : s.Untouched (s.noteNonRt rt) := by
  unfold State.noteNonRt
  split
  · exact .refl s
  · exact ⟨rfl, rfl, rfl, rfl, rfl⟩

theorem noteNonRt_waiting (rt : Option Nat) : (s.noteNonRt rt).mem.waiting = s.mem.waiting := by
  unfold State.noteNonRt
  split <;> rfl

theorem noteNonRt_now (rt : Option Nat) : (s.noteNonRt rt).now = s.now := by
  unfold State.noteNonRt
  split <;> rfl

theorem rd_of_regs (h : t.regs = s.regs) (p : Nat) (f : Fld) (i : Nat) : t.rd p f i = s.rd p f i := by
  rw [State.rd, State.rd, State.reg, State.reg, h]

/-- What a refused read answers; a refused write answers no bytes. -/
def noBytes (op : MemOp) : List Byte := if opWrites op then [] else List.replicate (opSize op) 0

/-- The request comes by no BAR, or from a host that is heard and within its aperture. -/
def State.hears (s : State) (req : MemReq) (aperture last : Nat) : Prop := req.cls.val ≠ 0 ∨ (s.hostHeard = true ∧ last ≤ aperture)

theorem hears_iff {req : MemReq} {aperture last : Nat} :
    ¬ (req.cls.val = 0 && (!s.hostHeard || decide (aperture < last))) = true ↔ s.hears req aperture last := by
  simp only [State.hears, Bool.and_eq_true, decide_eq_true_eq, Bool.or_eq_true, Bool.not_eq_true', not_and_or, not_or, Bool.not_eq_false, Nat.not_lt,
    ne_eq]

section request
variable {req : MemReq} {pa : Nat} {op : MemOp}

theorem dramRequest_unheard (h : ¬ s.hears req (2 ^ 36) (pa + opSize op)) : s.dramRequest req pa op = s.complete true (noBytes op) := by
  unfold State.dramRequest
  exact if_pos (Decidable.not_not.1 (mt hears_iff.1 h))

theorem dramRequest_refused {e : MemErr} (h : s.hears req (2 ^ 36) (pa + opSize op))
    (hc : s.memCheck req.actor.val req.cls.val 0 pa (opSize op) (opWrites op) = some e) :
    s.dramRequest req pa op = (s.memFault req.actor.val e).complete true (noBytes op) := by
  unfold State.dramRequest
  refine (if_neg (hears_iff.2 h)).trans ?_
  rw [hc]
  rfl

/-- The DRAM serves at once. -/
def State.servesNow (s : State) : Prop := s.dramPower = 0 ∧ s.rd (memPage 0) MEM_CTRL_strict ≠ 1 ∧ s.mem.waiting = []

theorem servesNow_iff (rt : Option Nat) : ((s.noteNonRt rt).dramPower = 0 ∧ !(s.noteNonRt rt).strictMem ∧ (s.noteNonRt rt).mem.waiting.isEmpty)
    ↔ s.servesNow := by
  have hr := (noteNonRt_untouched (s := s) rt).regs
  simp only [State.servesNow, State.dramPower, State.strictMem, rd_of_regs hr, noteNonRt_waiting, Bool.not_eq_true', beq_eq_false_iff_ne,
    List.isEmpty_iff, ne_eq]

theorem dramRequest_now (h : s.hears req (2 ^ 36) (pa + opSize op))
    (hc : s.memCheck req.actor.val req.cls.val 0 pa (opSize op) (opWrites op) = none) (hn : s.servesNow) :
    s.dramRequest req pa op = (s.noteNonRt (req.port.map (·.val))).serve req pa op := by
  unfold State.dramRequest
  refine (if_neg (hears_iff.2 h)).trans ?_
  rw [hc]
  exact if_pos ((servesNow_iff _).2 hn)

theorem dramRequest_waits (h : s.hears req (2 ^ 36) (pa + opSize op))
    (hc : s.memCheck req.actor.val req.cls.val 0 pa (opSize op) (opWrites op) = none) (hn : ¬ s.servesNow) :
    s.dramRequest req pa op =
      let t := s.noteNonRt (req.port.map (·.val))
      let w : DramWait := ⟨req.actor.val, req.port.map (·.val), true, req.posted, pa, op, linesOf pa (opSize op), false, [], 0, s.now⟩
      ({ t with mem := { t.mem with waiting := t.mem.waiting ++ [w] } } : State).serveWaiting := by
  rw [← noteNonRt_now (s := s) (req.port.map (·.val))]
  unfold State.dramRequest
  refine (if_neg (hears_iff.2 h)).trans ?_
  rw [hc]
  exact if_neg (mt (servesNow_iff _).1 hn)

end request

/-- A read of a plain DRAM completes with the bytes stored. -/
theorem State.Plain.serve_read (h : s.Plain) (req : MemReq) (pa : Nat) {n : Nat} (hn : 0 < n) :
    ∃ u, s.serve req pa (.read n) = u.complete false (s.bytesAt 0 pa n) ∧ s.SameMemory u := by
  obtain ⟨hs, he⟩ := h.readLines req.actor.val pa n (linesOf pa n)
  refine ⟨(s.readLines req.actor.val pa n (linesOf pa n)).1, ?_, hs⟩
  have hb : (s.readLines req.actor.val pa n (linesOf pa n)).1.bytesAt 0 pa n = s.bytesAt 0 pa n := by
    simp only [bytesAt_dram, h.dramByte, hs.plain.dramByte, hs.dram, hs.zeroed]
  rw [← hb, ← hs.plain.checkedBytes pa hn]
  unfold State.serve
  simp only [he, Option.isSome_none, Bool.false_eq_true, if_false]

/-- A write within one line and outside every region completes, its data queued. -/
theorem serve_write_line {req : MemReq} {pa : Nat} {data : List Byte} (hr : s.eccRegion (64 * (pa / 64)) = none) (hd : data ≠ [])
    (hl : pa % 64 + data.length ≤ 64) : s.serve req pa (.write data) = ((s.spend req.actor.val).enqueue pa data).complete false [] := by
  have hpos := List.length_pos_iff.2 hd
  have hline : linesOf pa data.length = [pa / 64] := by
    have h1 : (pa + (data.length - 1)) / 64 + 1 - pa / 64 = 1 := by omega
    rw [linesOf, h1]
    simp only [List.range_one, List.map_cons, List.map_nil, Nat.zero_add]
  have hin : inLine pa data.length (pa / 64) = (pa, data.length) := by
    simp only [inLine, Prod.mk.injEq]
    omega
  unfold State.serve
  simp only [hline, State.writeLines, State.writeLine, hin, hr, Option.isNone_none, or_true, if_true, Nat.sub_self, List.drop_zero, List.take_length]

theorem execDramWrite_data {req : MemReq} {pa : Nat} {data : List Byte} (hd : data ≠ []) :
    execDramWrite req pa data s = .next (s.dramRequest req pa (.write data)) :=
  congrArg _ (if_neg (mt List.isEmpty_iff.1 hd))

theorem execDramRead_some {req : MemReq} {pa len : Nat} (hl : 0 < len) : execDramRead req pa len s = .next (s.dramRequest req pa (.read len)) :=
  congrArg _ (if_neg hl.ne')

/-- Settles O46. -/
theorem dramAccesses : Obligations.DramAccesses := by
  unfold Obligations.DramAccesses
  intro req pa len data s who check rt t now wait heard
  refine ⟨⟨rfl, rfl⟩, fun hh hl hc => ⟨fun hn => ?_, fun hn hw hz hs => ?_, fun hn => ?_⟩, fun e hh hl hc => ?_,
    fun hh hd hc => ⟨fun hn => ?_, fun hn => ?_⟩, fun e hh hd hc => ?_, fun u hr hd hl => serve_write_line hr hd hl, fun hh hl => ?_, fun hh hd => ?_⟩
  · exact (execDramRead_some hl).trans (congrArg _ (dramRequest_now (s := s) (op := (.read len)) hh hc hn))
  · have hp : s.Plain := ⟨(keeps_of_canonical hs).regs, hw, hz⟩
    have hm := hp.untouched (noteNonRt_untouched rt)
    obtain ⟨u, hu, hsame⟩ := hm.plain.serve_read req pa hl
    have hb : t.bytesAt 0 pa len = s.bytesAt 0 pa len := by
      simp only [bytesAt_dram, hp.dramByte, hm.plain.dramByte, t, hm.dram, hm.zeroed]
    refine ⟨u.complete false (t.bytesAt 0 pa len), ?_, ?_, (hm.trans hsame).dram, (hm.trans hsame).vault⟩
    · exact (execDramRead_some hl).trans (congrArg _ ((dramRequest_now (s := s) (op := (.read len)) hh hc hn).trans hu))
    · rw [← hb]
      rfl
  · exact (execDramRead_some hl).trans (congrArg _ (dramRequest_waits (s := s) (op := (.read len)) hh hc hn))
  · exact (execDramRead_some hl).trans (congrArg _ (dramRequest_refused (s := s) (op := (.read len)) hh hc))
  · exact (execDramWrite_data hd).trans (congrArg _ (dramRequest_now (s := s) (op := (.write data)) hh hc hn))
  · exact (execDramWrite_data hd).trans (congrArg _ (dramRequest_waits (s := s) (op := (.write data)) hh hc hn))
  · exact (execDramWrite_data hd).trans (congrArg _ (dramRequest_refused (s := s) (op := (.write data)) hh hc))
  · exact (execDramRead_some hl).trans (congrArg _ (dramRequest_unheard (s := s) (op := (.read len)) hh))
  · exact (execDramWrite_data hd).trans (congrArg _ (dramRequest_unheard (s := s) (op := (.write data)) hh))

end Sys2Proof.Machine
end

section
/-! PROOFS. Accesses of the vault (R247, R249, R264, R295) and its scrub. -/

namespace Sys2Proof.Machine

variable {s t : State}

/-! The checks of a line, with no injection armed. -/

/-- No injection is armed on a bank group. -/
def State.vaultUnarmed (s : State) : Prop := ∀ g < 16, s.rd (vltPage (1 + g)) FLT_INJECT_arm = 0

theorem State.vaultUnarmed.of_regs (h : s.vaultUnarmed) (hr : t.regs = s.regs) : t.vaultUnarmed := fun g hg =>
  (rd_of_regs hr ..).trans (h g hg)

theorem State.vaultUnarmed.group (h : s.vaultUnarmed) (off : Nat) : s.rd (vltGroup off) FLT_INJECT_arm = 0 :=
  h _ (Nat.mod_lt _ (by decide))

theorem vltParity_unarmed (h : s.vaultUnarmed) (off : Nat) : s.vltParity off = (s.count (vltGroup off) 3, false) := by
  have hu : (s.count (vltGroup off) 3).useInject (vltGroup off) 1 = (s.count (vltGroup off) 3, none) :=
    useInject_unarmed (.inl (h.of_regs (State.count_regs ..) |>.group off))
  simp only [State.vltParity, hu]

theorem vltWords_unarmed (h : s.vaultUnarmed) (off : Nat) : s.vltWords off = (s, false) := by
  simp only [State.vltWords, useInject_unarmed (.inl (h.group off))]

theorem vltLine_unarmed (h : s.vaultUnarmed) (off : Nat) : s.vltLine off = (s.count (vltGroup off) 3, false) := by
  simp only [State.vltLine, vltParity_unarmed h, vltWords_unarmed (h.of_regs (State.count_regs ..))]

/-- The lines of a read are counted, and no check fails. -/
theorem vltLines_unarmed (h : s.vaultUnarmed) (ls : List Nat) :
    (s.vltLines ls).2 = false ∧ (s.vltLines ls).1 = { s with tally := (s.vltLines ls).1.tally } := by
  induction ls generalizing s with
  | nil => exact ⟨rfl, rfl⟩
  | cons l ls ih =>
    obtain ⟨hb, ht⟩ := ih (s := s.count (vltGroup (64 * l)) 3) (h.of_regs (State.count_regs ..))
    have hx : s.vltLines (l :: ls) = (s.count (vltGroup (64 * l)) 3).vltLines ls := by
      simp only [State.vltLines, vltLine_unarmed h, Bool.false_or]
    rw [hx]
    exact ⟨hb, ht⟩

/-! Bytes stored. -/

/-- A byte of the vault as stored. -/
def State.storedByte (s : State) (x : Nat) : Byte := Tbl.get vaultEmpty s.vault x

theorem storedByte_storeVault (h : Tbl.wf vaultEmpty s.vault = true) (a : Nat) (bs : List Byte) (x : Nat) :
    (s.storeVault a bs).storedByte x = if a ≤ x ∧ x < a + bs.length then bs.getD (x - a) 0 else s.storedByte x := by
  induction bs generalizing s a with
  | nil => exact (if_neg (by simp only [List.length_nil]; omega)).symm
  | cons b bs ih =>
    unfold State.storeVault
    rw [ih (s := s.setVault a b) (Tbl.wf_set _ _ h)]
    by_cases hx : x = a
    · subst hx
      rw [if_neg (by omega), if_pos (by simp only [List.length_cons]; omega), Nat.sub_self]
      exact Tbl.get_set_same _ _ h
    · have hs : (s.setVault a b).storedByte x = s.storedByte x := Tbl.get_set_other _ h hx
      by_cases hin : a + 1 ≤ x ∧ x < a + 1 + bs.length
      · have h1 : x - a = (x - (a + 1)) + 1 := by omega
        rw [if_pos hin, if_pos (by simp only [List.length_cons]; omega), h1]
        rfl
      · rw [if_neg hin, if_neg (by simp only [List.length_cons]; omega), hs]

theorem storeVault_frame (a : Nat) (bs : List Byte) : s.storeVault a bs = { s with vault := (s.storeVault a bs).vault } := by
  induction bs generalizing s a with
  | nil => rfl
  | cons b bs ih => exact ih (s := s.setVault a b) (a + 1)

theorem wf_storeVault (h : Tbl.wf vaultEmpty s.vault = true) (a : Nat) (bs : List Byte) :
    Tbl.wf vaultEmpty (s.storeVault a bs).vault = true := by
  induction bs generalizing s a with
  | nil => exact h
  | cons b bs ih => exact ih (s := s.setVault a b) (Tbl.wf_set _ _ h) (a + 1)

/-- The state after the lines of a write: counted, and exactly their bytes of the data stored. -/
structure State.Stored (s u : State) (addr : Nat) (data : List Byte) (ls : List Nat) : Prop where
  frame : u = { s with tally := u.tally, vault := u.vault }
  wf : Tbl.wf vaultEmpty u.vault = true
  bytes : ∀ x, u.storedByte x = if x / 64 ∈ ls ∧ addr ≤ x ∧ x < addr + data.length then data.getD (x - addr) 0 else s.storedByte x

/-- The part of the data that falls in a line. -/
def linePart (addr : Nat) (data : List Byte) (l : Nat) : List Byte :=
  (data.drop ((inLine addr data.length l).1 - addr)).take (inLine addr data.length l).2

theorem vltStore_cons (h : s.vaultUnarmed) (addr : Nat) (data : List Byte) (l : Nat) (ls : List Nat) :
    s.vltStore addr data (l :: ls)
      = ((s.count (vltGroup (64 * l)) 3).storeVault (inLine addr data.length l).1 (linePart addr data l)).vltStore addr data ls := by
  have hw : (s.count (vltGroup (64 * l)) 3).vltWords (64 * l) = (s.count (vltGroup (64 * l)) 3, false) :=
    vltWords_unarmed (h.of_regs (State.count_regs ..)) _
  simp only [State.vltStore, vltParity_unarmed h, hw, Bool.false_or, ite_self, Bool.false_eq_true, if_false, linePart]

theorem linePart_getD {addr l j : Nat} {data : List Byte} (h : j < (inLine addr data.length l).2) :
    (linePart addr data l).getD j 0 = data.getD ((inLine addr data.length l).1 - addr + j) 0 := by
  simp only [linePart, List.getD_eq_getElem?_getD, List.getElem?_take, List.getElem?_drop, if_pos h]

theorem linePart_length {addr l : Nat} {data : List Byte} : (linePart addr data l).length = (inLine addr data.length l).2 := by
  simp only [linePart, inLine, List.length_take, List.length_drop]
  omega

theorem mem_inLine {addr len l x : Nat} :
    (inLine addr len l).1 ≤ x ∧ x < (inLine addr len l).1 + (inLine addr len l).2 ↔ x / 64 = l ∧ addr ≤ x ∧ x < addr + len := by
  simp only [inLine]
  omega

theorem vltStore_unarmed (h : s.vaultUnarmed) (hw : Tbl.wf vaultEmpty s.vault = true) (addr : Nat) (data : List Byte) (ls : List Nat) :
    (s.vltStore addr data ls).2 = false ∧ s.Stored (s.vltStore addr data ls).1 addr data ls := by
  induction ls generalizing s with
  | nil => exact ⟨rfl, rfl, hw, fun x => (if_neg fun hx => List.not_mem_nil hx.1).symm⟩
  | cons l ls ih =>
    rw [vltStore_cons h]
    generalize hu : (s.count (vltGroup (64 * l)) 3).storeVault (inLine addr data.length l).1 (linePart addr data l) = u
    have hframe : u = { s with tally := u.tally, vault := u.vault } := by
      rw [← hu, storeVault_frame]
      rfl
    have hwf : Tbl.wf vaultEmpty u.vault = true := hu ▸ wf_storeVault (s := s.count (vltGroup (64 * l)) 3) hw ..
    have hbyte (x : Nat) : u.storedByte x = if x / 64 = l ∧ addr ≤ x ∧ x < addr + data.length then data.getD (x - addr) 0 else s.storedByte x := by
      rw [← hu, storedByte_storeVault (s := s.count (vltGroup (64 * l)) 3) hw, linePart_length]
      by_cases hx : x / 64 = l ∧ addr ≤ x ∧ x < addr + data.length
      · have hin := mem_inLine.2 hx
        rw [if_pos hin, if_pos hx, linePart_getD (by omega)]
        have hlo : addr ≤ (inLine addr data.length l).1 := Nat.le_max_left ..
        congr 1
        omega
      · rw [if_neg (mt mem_inLine.1 hx), if_neg hx]
        rfl
    obtain ⟨hb, hs⟩ := ih (s := u) (h.of_regs (by rw [hframe])) hwf
    refine ⟨hb, ?_, hs.wf, fun x => ?_⟩
    · rw [hs.frame, hframe]
    · rw [hs.bytes, hbyte]
      by_cases hx : x / 64 ∈ ls ∧ addr ≤ x ∧ x < addr + data.length
      · rw [if_pos hx, if_pos ⟨List.mem_cons_of_mem l hx.1, hx.2⟩]
      · by_cases hl : x / 64 = l ∧ addr ≤ x ∧ x < addr + data.length
        · rw [if_neg hx, if_pos hl, if_pos ⟨hl.1 ▸ List.mem_cons_self, hl.2⟩]
        · rw [if_neg hx, if_neg hl, if_neg fun ⟨h1, h2⟩ => (List.mem_cons.1 h1).elim (hl ⟨·, h2⟩) (hx ⟨·, h2⟩)]

theorem mem_linesOf {addr len x : Nat} (h : addr ≤ x ∧ x < addr + len) : x / 64 ∈ linesOf addr len := by
  simp only [linesOf, List.mem_map, List.mem_range]
  exact ⟨x / 64 - addr / 64, by omega, by omega⟩

/-- A byte outside the ledger area is as stored. -/
theorem vaultByte_outside {x : Nat} (h : ¬ (vaultLedger ≤ x ∧ x < vaultPool)) : s.vaultByte x = s.storedByte x := if_neg h

/-- A byte of the ledger area is the ring's. -/
theorem vaultByte_ledger {x : Nat} (h : vaultLedger ≤ x ∧ x < vaultPool) (hl : t.led = s.led) : t.vaultByte x = s.vaultByte x := by
  unfold State.vaultByte
  rw [if_pos h, if_pos h, hl]

/-- What lies outside the ledger area reads as the data just stored there, and every other byte as before. -/
theorem State.Stored.vaultByte {u : State} {addr : Nat} {data : List Byte} (h : s.Stored u addr data (linesOf addr data.length))
    (hout : addr + data.length ≤ vaultLedger ∨ vaultPool ≤ addr) :
    (∀ i < data.length, u.vaultByte (addr + i) = data.getD i 0)
      ∧ ∀ a, (a < addr ∨ addr + data.length ≤ a) → u.vaultByte a = s.vaultByte a := by
  refine ⟨fun i hi => ?_, fun a ha => ?_⟩
  · have hx : addr ≤ addr + i ∧ addr + i < addr + data.length := ⟨Nat.le_add_right .., Nat.add_lt_add_left hi _⟩
    rw [vaultByte_outside (by omega), h.bytes, if_pos ⟨mem_linesOf hx, hx⟩, Nat.add_sub_cancel_left]
  · by_cases hl : vaultLedger ≤ a ∧ a < vaultPool
    · exact vaultByte_ledger hl (by rw [h.frame])
    · rw [vaultByte_outside hl, vaultByte_outside hl, h.bytes, if_neg (by omega)]

/-! The command. -/

theorem execVaultAccess_unheard {req : MemReq} {off : Nat} {op : MemOp} (h : ¬ s.hears req (2 ^ 26) (off + opSize op)) :
    execVaultAccess req off op s = .next (s.complete true (noBytes op)) := by
  cases op <;> exact congrArg _ (if_pos (Decidable.not_not.1 (mt hears_iff.1 h)))

theorem execVaultAccess_read {req : MemReq} {off n : Nat} (h : s.hears req (2 ^ 26) (off + n)) (hn : 0 < n) :
    execVaultAccess req off (.read n) s = .next (afterRead (s.readMem req.actor.val req.cls.val 1 off n)
      (fun t => t.complete true (List.replicate n 0)) fun t bs => t.complete false bs) := by
  refine congrArg _ ((if_neg (hears_iff.2 h)).trans ((if_neg hn.ne').trans ?_))
  generalize s.readMem req.actor.val req.cls.val 1 off n = r
  obtain ⟨t, _ | _⟩ := r <;> rfl

theorem execVaultAccess_write {req : MemReq} {off : Nat} {data : List Byte} (h : s.hears req (2 ^ 26) (off + data.length)) (hd : data ≠ []) :
    execVaultAccess req off (.write data) s = .next (
      if ((s.memCheck req.actor.val req.cls.val 1 off data.length true).isNone && !s.bookOk req.actor.val off data.length) = true then
        (s.memFault req.actor.val .firewall).complete true []
      else
        let r := s.writeMem req.actor.val req.cls.val 1 off data
        match r.2 with
        | none => r.1.complete false []
        | some e => if req.posted && e == .uncorrectable then r.1 else r.1.complete true []) := by
  refine congrArg _ ((if_neg (hears_iff.2 h)).trans ((if_neg (mt List.isEmpty_iff.1 hd)).trans ?_))
  generalize s.writeMem req.actor.val req.cls.val 1 off data = r
  obtain ⟨t, _ | _⟩ := r <;> rfl

/-- The checks before an access never find an uncorrectable error. -/
theorem memCheck_ne_uncorrectable {who cls space addr len : Nat} {write : Bool} : s.memCheck who cls space addr len write ≠ some .uncorrectable := by
  unfold State.memCheck
  split
  · exact nofun
  split
  · split
    · exact nofun
    split
    · exact nofun
    split <;> exact nofun
  · split <;> exact nofun

theorem readMem_refused {who cls space addr len : Nat} {rt : Option Nat} {e : MemErr} (h : s.memCheck who cls space addr len false = some e) :
    s.readMem who cls space addr len rt = (s.memFault who e, .error e) := by
  unfold State.readMem
  rw [h]

theorem writeMem_refused {who cls space addr : Nat} {data : List Byte} {rt : Option Nat} {e : MemErr}
    (h : s.memCheck who cls space addr data.length true = some e) : s.writeMem who cls space addr data rt = (s.memFault who e, some e) := by
  unfold State.writeMem
  rw [h]

theorem readMem_vault {who cls addr len : Nat} {rt : Option Nat} (h : s.memCheck who cls 1 addr len false = none) (hu : s.vaultUnarmed) :
    ∃ t, s.readMem who cls 1 addr len rt = (t, .ok (s.bytesAt 1 addr len)) ∧ t = { s with tally := t.tally } := by
  obtain ⟨hb, ht⟩ := vltLines_unarmed hu (linesOf addr len)
  refine ⟨(s.vltLines (linesOf addr len)).1, ?_, ht⟩
  have hbytes : (s.vltLines (linesOf addr len)).1.bytesAt 1 addr len = s.bytesAt 1 addr len := by
    rw [ht]
    rfl
  unfold State.readMem
  simp only [h, Nat.one_ne_zero, if_false, hb, Bool.false_eq_true, hbytes]

theorem writeMem_vault {who cls addr : Nat} {data : List Byte} (h : s.memCheck who cls 1 addr data.length true = none) (hu : s.vaultUnarmed)
    (hw : Tbl.wf vaultEmpty s.vault = true) :
    ∃ u, s.writeMem who cls 1 addr data = (u.vaultTouched addr data.length, none) ∧ s.Stored u addr data (linesOf addr data.length) := by
  obtain ⟨hb, hs⟩ := vltStore_unarmed hu hw addr data (linesOf addr data.length)
  refine ⟨_, ?_, hs⟩
  unfold State.writeMem
  simp only [h, Nat.one_ne_zero, if_false, hb, Bool.false_eq_true]

/-! The scrub (R249). -/

theorem vltGroup_eq {g : Nat} (h : g < 16) : vltGroup (1024 * g) = vltPage (1 + g) := by
  rw [vltGroup, Nat.mul_div_cancel_left g (by decide), Nat.mod_eq_of_lt h]

/-- With no injection armed the scrub reads every word of each bank group. -/
theorem foldl_scrub (h : s.vaultUnarmed) {n : Nat} (hn : n ≤ 16) :
    (List.range n).foldl (fun (t : State) g =>
      let p := vltGroup (1024 * g)
      let n := if t.rd p FLT_INJECT_arm = 0 then 0 else if t.rd p FLT_INJECT_mode = 0 then 1 else t.rd p FLT_INJECT_count
      ((List.range n).foldl (fun (t : State) _ => (t.vltLine (1024 * g)).1) t).count p 3 (65536 - n)) s
      = (List.range n).foldl (fun (t : State) g => t.count (vltPage (1 + g)) 3 65536) s := by
  induction n with
  | zero => rfl
  | succ n ih =>
    rw [List.range_succ, List.foldl_append, List.foldl_append, ih (Nat.le_of_succ_le hn)]
    generalize hu : (List.range n).foldl (fun (t : State) g => t.count (vltPage (1 + g)) 3 65536) s = u
    have hr : u.regs = s.regs := hu ▸ foldl_holds (P := fun (t : State) => t.regs = s.regs) _ rfl fun _ _ e => e
    have harm : u.rd (vltPage (1 + n)) FLT_INJECT_arm = 0 := (rd_of_regs hr ..).trans (h n hn)
    simp only [List.foldl_cons, List.foldl_nil, vltGroup_eq hn, harm, if_true, List.range_zero, Nat.sub_zero]

theorem execVaultScrub_unarmed (h : s.vaultUnarmed) (he : s.rd (vltPage 0) VLT_CTRL_scrub_en ≠ 0) : execVaultScrub s
    = .next (((List.range 16).foldl (fun (t : State) g => t.count (vltPage (1 + g)) 3 65536) s).count (vltPage 0) 0) := by
  rw [execVaultScrub, if_neg he, foldl_scrub h (Nat.le_refl 16)]

/-- Settles O47. -/
theorem vaultAccesses : Obligations.VaultAccesses := by
  unfold Obligations.VaultAccesses
  intro req off len data s hs who check heard
  have hw : Tbl.wf vaultEmpty s.vault = true := (keeps_of_canonical hs).vault
  refine ⟨?_, fun hh => execVaultAccess_unheard (op := .read len) hh, fun hh => execVaultAccess_unheard (op := .write data) hh,
    fun hu hh hl hc => ?_, fun e hh hl hc => ?_, fun hu hh hd hc hb => ?_, fun hh hd hc hb => ?_, fun e hh hd hc => ?_, fun hu he => ?_,
    fun he => congrArg _ (if_pos he)⟩
  · by_cases hh : heard 0
    · rw [if_pos hh]
      exact congrArg _ (if_neg (hears_iff.2 hh))
    · rw [if_neg hh]
      exact execVaultAccess_unheard (op := .read 0) hh
  · obtain ⟨t, hr, ht⟩ := readMem_vault hc hu
    refine ⟨t.complete false (s.bytesAt 1 off len), (execVaultAccess_read hh hl).trans (congrArg _ ?_), rfl, ?_⟩
    · rw [hr]
      rfl
    · rw [ht]
      rfl
  · refine (execVaultAccess_read hh hl).trans (congrArg _ ?_)
    rw [readMem_refused hc]
    rfl
  · obtain ⟨u, hr, hst⟩ := writeMem_vault hc hu hw
    refine ⟨u, (execVaultAccess_write hh hd).trans (congrArg _ ((if_neg ?_).trans ?_)), hst.frame, hst.vaultByte⟩
    · rw [hb, Bool.not_true, Bool.and_false]
      exact Bool.false_ne_true
    · rw [hr]
  · refine (execVaultAccess_write hh hd).trans (congrArg _ (if_pos ?_))
    rw [hb, show s.memCheck req.actor.val req.cls.val 1 off data.length true = none from hc]
    rfl
  · refine (execVaultAccess_write hh hd).trans (congrArg _ ((if_neg ?_).trans ?_))
    · rw [show s.memCheck req.actor.val req.cls.val 1 off data.length true = some e from hc]
      exact Bool.false_ne_true
    · have he : (e == .uncorrectable) = false := beq_eq_false_iff_ne.2 fun h => memCheck_ne_uncorrectable (h ▸ hc)
      rw [writeMem_refused hc]
      simp only [he, Bool.and_false, Bool.false_eq_true, if_false]
  · exact execVaultScrub_unarmed hu he

end Sys2Proof.Machine
end

section
/-! PROOFS. Requests to the Custodian (R19, R253 to R263, R279, R296, R297). -/

namespace Sys2Proof.Machine

variable {s t : State} {who : Nat} {m : Msg} {rest : List Msg} {type : Nat}

/-! A request is taken. -/

theorem serveRequest_down (h : s.cusUp = false ∨ s.boot.released = false ∨ s.safe (nsToCus who) = []) : s.serveRequest who type = s := by
  unfold State.serveRequest
  by_cases hd : (!s.cusUp || !s.boot.released) = true
  · exact if_pos hd
  · have hsafe : s.safe (nsToCus who) = [] := by
      simp only [Bool.or_eq_true, Bool.not_eq_true', not_or] at hd
      exact (h.resolve_left hd.1).resolve_left hd.2
    rw [if_neg hd, hsafe]

theorem serveRequest_waits (hm : s.safe (nsToCus who) = m :: rest) (hr : changesRegions m = true) (hw : s.mem.waiting ≠ []) :
    s.serveRequest who type = s := by
  have hb : (changesRegions m && !s.mem.waiting.isEmpty) = true := Bool.and_eq_true_iff.2 ⟨hr, waiting_iff.2 hw⟩
  unfold State.serveRequest
  simp only [hm, if_pos hb, ite_self]

theorem serveRequest_other (hm : s.safe (nsToCus who) = m :: rest) (ht : msgType m ≠ type) (hk : msgType m ∈ knownTypes) :
    s.serveRequest who type = s := by
  have hc : ¬ (msgType m = type ∨ (!knownTypes.contains (msgType m)) = true) := by
    simp only [List.contains_iff_mem.2 hk, Bool.not_true, Bool.false_eq_true, or_false, ht, not_false_eq_true]
  unfold State.serveRequest
  simp only [hm, if_neg hc, ite_self]

theorem serveRequest_takes (hu : s.cusUp = true) (hb : s.boot.released = true) (hm : s.safe (nsToCus who) = m :: rest)
    (ht : msgType m = type ∨ msgType m ∉ knownTypes) (hr : changesRegions m = false ∨ s.mem.waiting = []) :
    s.serveRequest who type = (s.popSafe (nsToCus who)).decide1 who m := by
  have hw : ¬ (changesRegions m && !s.mem.waiting.isEmpty) = true := fun h => by
    obtain ⟨h1, h2⟩ := Bool.and_eq_true_iff.1 h
    exact hr.elim (Bool.eq_false_iff.1 · h1) (waiting_iff.1 h2)
  have hc : msgType m = type ∨ (!knownTypes.contains (msgType m)) = true := by
    simpa only [Bool.not_eq_true', List.contains_eq_mem, decide_eq_false_iff_not] using ht
  unfold State.serveRequest
  simp only [hu, hb, hm, Bool.not_true, Bool.or_self, Bool.false_eq_true, if_false, if_neg hw, if_pos hc]

/-! A request is decided. -/

theorem decide1_admitted (h : t.requestCode who m = 0) : t.decide1 who m =
    let u := if msgType m = reqReset then t else t.log who [t.requestRec who m]
    (u.applyRequest who m).1.answer who m 0 (u.applyRequest who m).2 ((u.applyRequest who m).1.listRegions m) := by
  unfold State.decide1
  simp only [h, OfNat.zero_ne_ofNat, ne_eq, not_true_eq_false, if_false]

theorem decide1_taken (h : t.requestCode who m = 3) : t.decide1 who m = (t.recordTaken who m).answer who m 3 0 [] := by
  unfold State.decide1
  simp only [h]
  rfl

theorem decide1_refused (h0 : t.requestCode who m ≠ 0) (h3 : t.requestCode who m ≠ 3) (h10 : t.requestCode who m ≠ 10) :
    t.decide1 who m = t.answer who m (t.requestCode who m) 0 [] := by
  unfold State.decide1
  simp only [if_neg h10, if_neg h3, ne_eq, h0, not_false_eq_true, if_true]

theorem decide1_full (h : t.requestCode who m = 10) : t.decide1 who m = (State.settle (t.refuseFull who)).answer who m 10 0 [] := by
  unfold State.decide1
  exact if_pos h

theorem mem_knownTypes_of_changesRegions (h : changesRegions m = true) : msgType m ∈ knownTypes := by
  simp only [changesRegions, Bool.or_eq_true, Bool.and_eq_true, beq_iff_eq] at h
  obtain (h | h) | ⟨h | h, -⟩ := h <;> rw [h] <;> decide

/-- A message of no known type is answered with code 5. -/
theorem requestCode_unknown (h : msgType m ∉ knownTypes) : t.requestCode who m = 5 := by
  have hne (k : Nat) (hk : k ∈ knownTypes) : msgType m ≠ k := fun e => h (e ▸ hk)
  unfold State.requestCode
  simp only [if_neg (hne reqCreate (by decide)), if_neg (hne reqActivate (by decide)), if_neg (hne reqQuiesce (by decide)),
    if_neg (hne reqReset (by decide)), if_neg (hne reqDestroy (by decide)), if_neg (hne reqDelegate (by decide)),
    if_neg (hne reqGrant (by decide)), if_neg (hne reqRelease (by decide)), if_neg (hne reqList (by decide)), if_neg (hne reqPerm (by decide))]

/-- The commands of the requests, each with the type it takes (R260, R297). -/
def requestCmds (who : Acct) : List (Instr × Nat) :=
  [(.create who, 1), (.grant who, 2), (.release who, 3), (.activate who, 4), (.quiesce who, 5), (.reset who, 6), (.destroy who, 7),
    (.delegate who, 8), (.regionList who, 0x20), (.regionPerm who, 0x21)]

theorem exec_requestCmds {who : Acct} {e : Instr × Nat} (h : e ∈ requestCmds who) : exec e.1 s = .next (s.serveRequest who.val e.2) := by
  simp only [requestCmds, List.mem_cons, List.not_mem_nil, or_false] at h
  rcases h with rfl | rfl | rfl | rfl | rfl | rfl | rfl | rfl | rfl | rfl <;> rfl

/-! The effects. -/

theorem applyRequest_grant (h : msgType m = reqGrant) :
    s.applyRequest who m =
      let u := (s.applyGrant (askOf who m)).grantDone (msgTarget m)
      let u := if u.astate (msgTarget m) = 1 ∧ (askOf who m).sub = false then u.moveState (msgTarget m) 2 else u
      (u, u.firstMapped (askOf who m) (((askOf who m).pages.getD []).filter fun p => s.ownerAcct p != some (msgTarget m))) := by
  unfold State.applyRequest
  simp only [h, Bool.not_eq_true']
  rfl

/-- Settles O48. -/
theorem custodianRequests : Obligations.CustodianRequests := by
  unfold Obligations.CustodianRequests
  intro who s cmds
  refine ⟨fun e he m rest hu hb hm ht hr => ?_, fun e he h => (exec_requestCmds he).trans (congrArg _ (serveRequest_down h)),
    fun e he m rest hm hr hw => (exec_requestCmds he).trans (congrArg _ (serveRequest_waits hm hr hw)),
    fun e he m rest hm ht => ⟨fun hk => (exec_requestCmds he).trans (congrArg _ (serveRequest_other hm ht hk)), fun hk hu hb => ?_⟩, fun m => ?_⟩
  · intro t code
    have hx := (exec_requestCmds he).trans (congrArg Host.Outcome.next (serveRequest_takes hu hb hm (.inl ht) hr))
    refine ⟨fun h => hx.trans (congrArg _ ?_), fun h => hx.trans (congrArg _ (decide1_taken h)),
      fun h0 h3 h10 => hx.trans (congrArg _ (decide1_refused h0 h3 h10)), fun h => hx.trans (congrArg _ (decide1_full h))⟩
    rw [← ht]
    exact decide1_admitted h
  · have hr : changesRegions m = false := Bool.eq_false_iff.2 (mt mem_knownTypes_of_changesRegions hk)
    have hc : (s.popSafe (nsToCus who.val)).requestCode who.val m = 5 := requestCode_unknown hk
    refine (exec_requestCmds he).trans (congrArg _ ((serveRequest_takes hu hb hm (.inr hk) (.inl hr)).trans ?_))
    rw [decide1_refused (by rw [hc]; decide) (by rw [hc]; decide) (by rw [hc]; decide), hc]
  · intro a k go
    have hgo : go = s.applyRequest who.val m := rfl
    refine ⟨fun h => ?_, fun h => ?grant, fun h => ?_, fun h => ?_, fun h => ?_, fun h => ?_, fun h => ?_, fun h => ?_, fun h => ?_, fun h => ?_⟩
    case grant =>
      intro new t u
      exact applyRequest_grant h
    all_goals
      simp only [go, State.applyRequest, h, reqCreate, reqGrant, reqRelease, reqActivate, reqQuiesce, reqReset, reqDestroy, reqDelegate, reqList,
        Nat.reduceEqDiff, OfNat.one_ne_ofNat, OfNat.ofNat_ne_one, if_true, if_false, a, k]

end Sys2Proof.Machine
end

section
/-! PROOFS. Account states and the PCI Express functions (R251 to R258, R266, R281 to R286). -/

namespace Sys2Proof.Machine

variable {s t : State} {a : Nat}

/-! The ends of QUIESCING and RESET. -/

/-- The account moves to a state, logged as a hardware change (R258). -/
def State.movedTo (s : State) (a st : Nat) : State :=
  let key := fkey (accPage a 0) ACC_STATE 0
  (State.settle (s.hwRaw key (s.reg key) (ACC_STATE_state.put (s.reg key) st))).moveState a st

theorem execResetComplete_resets {a : Acct} (h : s.astate a.val = 5) : execResetComplete a s = .next (s.movedTo a.val (
    if a.val = 0 ∨ a.val = 16 ∨ ((s.rd (accPage a.val 0) ACC_STATE_reset_cause = 1 ∨ s.rd (accPage a.val 0) ACC_STATE_reset_cause = 4)
      ∧ (s.acct a.val).before = 3) then 3 else 2)) := congrArg _ (if_neg (not_not.2 h))

/-! Resets of functions (R284, R286). -/

theorem flrOf_virtual (h0 : a ≠ 0) (h16 : a ≠ 16) : s.flrOf a = s.resetFunction a 1 := by
  unfold State.flrOf
  rw [if_neg h0, if_neg h16]

theorem flrOf_physical (port : Fin 2) (h : a = 16 * port.val) : s.flrOf a = (s.resetFunction a 1).clearVfs port.val := by
  subst h
  unfold State.flrOf
  fin_cases port <;> rfl

theorem resetFunction_flr : s.resetFunction a 1
    = (if s.trustedAcct a then s.dropQueues a else State.settle (s.beginReset a 1)).functionReset a true := rfl

/-! The passbook's doorbells (R266). -/

theorem pbDoorbellWrite_accepted {who : Nat} (h : s.writeOk who (accPage a 0) ACC_PB_DOORBELL.off 1 true (fun _ => .ok) = true) :
    s.pbDoorbellWrite who a 1 15 = if s.trustedAcct a = true then s
      else (s.wr (accPage (s.manager a) 0) ⟨0x08C, 4, a, a⟩ 1).raise (accPage (s.manager a) 0) 0 := by
  have hring : ACC_PB_DOORBELL_ring.get 1 ≠ 0 := by decide
  unfold State.pbDoorbellWrite
  refine (writeWith_writeOk_data h).trans ?_
  simp only [hring, false_or]

theorem pbRingWrite_accepted {who : Nat} {v : Word}
    (h : s.writeOk who (accPage a 0) ACC_PB_RING.off v true (fun v =>
      if s.manages a (ACC_PB_RING_account.get v) && !s.trustedAcct (ACC_PB_RING_account.get v) then .ok else .range) = true) :
    s.pbRingWrite who a v 15 = s.raise (accPage (ACC_PB_RING_account.get v) 0) 1 := by
  unfold State.pbRingWrite
  exact writeWith_writeOk_data h

/-- Settles O49. -/
theorem accountsAndFunctions : Obligations.AccountsAndFunctions := by
  unfold Obligations.AccountsAndFunctions
  intro who a port s p0 key busy ends
  refine ⟨fun h1 h2 h3 => congrArg _ (if_neg ?_), fun h => congrArg _ (if_pos h), fun h => ?_, fun h => congrArg _ (if_pos h), fun h0 h16 ht => ?_,
    fun h0 h16 ht => ?_, fun h => congrArg Host.Outcome.next (flrOf_physical port h), rfl, rfl, fun speed width => ?_, fun h cold => congrArg _ (if_pos h), fun h => ?_, rfl,
    fun h => ?_, fun tenant h => congrArg _ (if_pos h), fun tenant h hw => congrArg _ ((if_neg h).trans (pbRingWrite_accepted hw))⟩
  · rintro (h | h | h)
    exacts [h h1, Bool.eq_false_iff.1 h2 h, h h3]
  · intro cause
    refine ⟨fun hb => ?_, fun h0 h16 hb => ?_⟩
    · rw [exec, execResetComplete_resets h, if_pos hb]
      rfl
    · rw [exec, execResetComplete_resets h, if_neg]
      · rfl
      · rintro (h | h | ⟨h, h'⟩)
        exacts [h0 h, h16 h, hb.elim (fun hc => h.elim hc.1 hc.2) (· h')]
  · refine congrArg Host.Outcome.next ((flrOf_virtual h0 h16).trans ?_)
    rw [resetFunction_flr, ht]
    rfl
  · refine congrArg Host.Outcome.next ((flrOf_virtual h0 h16).trans ?_)
    rw [resetFunction_flr, ht]
    rfl
  · intro p ok
    have hok : (!([3, 4, 5].contains speed.val) || !([1, 2, 4, 8].contains width.val) || s.boot.noClock.contains port.val || !s.boot.awake) = true
        ↔ ¬ ok := by
      simp only [ok, Bool.or_eq_true, Bool.not_eq_true', List.contains_eq_mem, decide_eq_false_iff_not, decide_eq_true_eq, not_and_or, not_not,
        or_assoc, Bool.not_eq_true]
    exact ⟨fun h => congrArg _ (if_neg (not_not.2 h ∘ hok.1)), fun h => congrArg _ (if_pos (hok.2 h))⟩
  · refine ⟨congrArg _ (if_neg h), ?_⟩
    intro t p
    exact congrArg _ (if_neg h)
  · intro m
    have hx : exec (.pbDoorbell who a) s = _ := congrArg Host.Outcome.next (pbDoorbellWrite_accepted h)
    exact ⟨fun ht => hx.trans (congrArg _ (if_neg (Bool.eq_false_iff.1 ht))), fun ht => hx.trans (congrArg _ (if_pos ht))⟩

end Sys2Proof.Machine
end

section
/-! PROOFS. Queues (R270 to R273), copy engines (R237, R239, R275 to R277) and night safes (R278 to R282). -/

namespace Sys2Proof.Machine

variable {s t : State}

/-! Queues. -/

/-- The control word of a queue as a write leaves it (R270): a queue newly enabled is empty, one newly disabled stops. -/
def State.queueStored (t : State) (a q off : Nat) (v : Word) : State :=
  let u := t.store (qPage a q) off v
  if !t.qOn a q && u.qOn a q then
    ((u.setHead a q 0).setTail a q 0).setQueue (256 * a + q) { u.queue (256 * a + q) with since := 0, first := none, lost := false }
  else if t.qOn a q && !u.qOn a q then u.stopQueue a q else u

theorem queueWrite_accepted {who a q off : Nat} {v : Word}
    (h : s.writeOk who (qPage a q) off v false (s.queueRule a q off) = true) :
    s.queueWrite who a q off v 15 = (s.log who (s.writeRec who (qPage a q) off v)).queueStored a q off v := by
  unfold State.queueWrite
  exact writeWith_logged h

theorem doorbellWrite_accepted {who a q : Nat} {v : Word}
    (h : s.writeOk who (accPage a 3) (ACC_Q_DB.off + 8 * q) v true (fun v => s.doorbellRule a q v.toNat) = true) :
    s.doorbellWrite who a q v 15 = if hostToDevice (s.qType a q) then s.setTail a q v.toNat else s.setHead a q v.toNat := by
  unfold State.doorbellWrite
  exact writeWith_writeOk_data h

theorem execQueueIntTimer_some {a : Acct} {q : Fin 256} {at_ : Nat} (h : (s.queue (256 * a.val + q.val)).first = some at_) :
    execQueueIntTimer a q s = .next (
      if s.qctl a.val q.val ACC_Q_INT_irq_en = 0 ∨ s.now < at_ + s.qctl a.val q.val ACC_Q_INT_time_us * 1000 then s
      else (s.setQueue (256 * a.val + q.val) { s.queue (256 * a.val + q.val) with since := 0, first := none }).msix a.val
        (s.qctl a.val q.val ACC_Q_INT_vector)) := by
  unfold execQueueIntTimer
  simp only [h]

/-- Settles O50. -/
theorem queues : Obligations.Queues := by
  unfold Obligations.Queues
  intro who a q s p i off word cmd key
  refine ⟨fun on h => ?_, fun index h => ?_, fun at_ hf he => ⟨fun hn => ?_, fun hn => ?_⟩, fun h => ?_⟩
  · intro v t u
    have hx : exec (cmd on) s = .next (t.queueStored a.val q.val off v) := by
      refine Eq.trans ?_ (congrArg Host.Outcome.next (queueWrite_accepted h))
      cases on <;> rfl
    refine ⟨fun h1 h2 => hx.trans (congrArg _ ?_), fun h1 h2 => hx.trans (congrArg _ ?_), fun h1 => hx.trans (congrArg _ ?_)⟩ <;>
      unfold State.queueStored
    · exact if_pos (by rw [h1]; exact h2)
    · exact (if_neg (by rw [h1]; exact Bool.false_ne_true)).trans (if_pos (by rw [h1, Bool.true_and, Bool.not_eq_true']; exact h2))
    · have h2 : (t.store (qPage a.val q.val) off v).qOn a.val q.val = t.qOn a.val q.val := h1.symm
      simp only [h2, Bool.not_and_self, Bool.and_not_self, Bool.false_eq_true, if_false]
      rfl
  · have hx : exec (.queueDoorbell who a q index) s = _ := congrArg Host.Outcome.next (doorbellWrite_accepted h)
    exact ⟨fun ht => hx.trans (congrArg _ (if_pos ht)), fun ht => hx.trans (congrArg _ (if_neg (Bool.eq_false_iff.1 ht)))⟩
  · exact (execQueueIntTimer_some hf).trans (congrArg _ (if_neg (not_or.2 ⟨he, Nat.not_lt.2 hn⟩)))
  · exact (execQueueIntTimer_some hf).trans (congrArg _ (if_pos (.inr hn)))
  · cases hf : (s.queue key).first with
    | none =>
      simp only [exec, execQueueIntTimer]
      rw [hf]
    | some at_ => exact (execQueueIntTimer_some hf).trans (congrArg _ (if_pos (.inl (h.resolve_left (by rw [hf]; exact nofun)))))

end Sys2Proof.Machine
end

section
/-! PROOFS. Copy engines (R237, R239, R275 to R277) and night safes (R278 to R282). -/

namespace Sys2Proof.Machine

variable {s t : State} {e : Nat}

/-! A chunk is taken. -/

/-- What the accounts that a free engine serves offer it. -/
def State.offered (s : State) (e : Nat) : State × Option Job :=
  ((s.dropHeld (.engine e)).completeAll).offerAccts e (((s.dropHeld (.engine e)).completeAll).engineAccts e)

theorem takeChunk_busy {f : Job → Bool} (h : (s.engine e).job ≠ none) : s.takeChunk e f = s :=
  if_pos (Option.isSome_iff_ne_none.2 h)

section free
variable {f : Job → Bool} (h : (s.engine e).job = none)
include h

theorem takeChunk_free : s.takeChunk e f = match s.offered e with
    | (t, none) => t
    | (t, some j) => if !f j then t else (t.giveChunk e j).next.runChunk e (Config.chunkBlocks t.fresh).toNat := by
  unfold State.takeChunk
  rw [h]
  rfl

theorem takeChunk_none (ho : (s.offered e).2 = none) : s.takeChunk e f = (s.offered e).1 := by
  rw [takeChunk_free h]
  generalize s.offered e = r at ho ⊢
  obtain ⟨t, o⟩ := r
  subst ho
  rfl

theorem takeChunk_some {j : Job} (ho : (s.offered e).2 = some j) : s.takeChunk e f = if !f j then (s.offered e).1
    else ((s.offered e).1.giveChunk e j).next.runChunk e (Config.chunkBlocks (s.offered e).1.fresh).toNat := by
  rw [takeChunk_free h]
  generalize s.offered e = r at ho ⊢
  obtain ⟨t, o⟩ := r
  subst ho
  rfl

end free

/-- The chunk commands, each with the kind of job it takes. -/
def chunkCmds (e : Fin 16) : List (Instr × Nat) := [(.copy e, 1), (.fill e, 2), (.signal e, 3), (.nop e, 4)]

theorem exec_chunkCmds {e : Fin 16} {c : Instr × Nat} (h : c ∈ chunkCmds e) : exec c.1 s = .next (s.takeChunk e.val (·.op == c.2)) := by
  simp only [chunkCmds, List.mem_cons, List.not_mem_nil, or_false] at h
  rcases h with rfl | rfl | rfl | rfl <;> rfl

/-! What moves stays within the chunk. -/

theorem piece_le (j : Job) (pos room : Nat) : (j.piece pos room).2.2 ≤ room :=
  (Nat.min_le_left ..).trans (Nat.min_le_left ..)

theorem move_bounds (j : Job) {fuel upto pos : Nat} (h : pos ≤ upto) :
    pos ≤ (s.move j fuel upto pos).2.1 ∧ (s.move j fuel upto pos).2.1 ≤ upto := by
  induction fuel generalizing s pos with
  | zero => exact ⟨Nat.le_refl pos, h⟩
  | succ fuel ih =>
    have hstay : pos ≤ pos ∧ pos ≤ upto := ⟨Nat.le_refl pos, h⟩
    unfold State.move
    split
    · exact hstay
    next hgo =>
    split
    next src dst n hp =>
    have hn : n ≤ upto - pos := by
      have := piece_le j pos (upto - pos)
      rwa [hp] at this
    split
    next u r _ =>
    split
    · exact hstay
    · split
      next w _ =>
      split
      · exact hstay
      · obtain ⟨h1, h2⟩ := ih (s := _) (pos := pos + n) (by omega)
        exact ⟨by omega, h2⟩

theorem runJob_bounds {j : Job} {fuel upto pos : Nat} (hj : j.op = 1 ∨ j.op = 2) (h : pos ≤ upto) :
    pos ≤ (s.runJob j fuel upto pos).2.1 ∧ (s.runJob j fuel upto pos).2.1 ≤ upto
      ∧ (s.runJob j fuel upto pos).2.2.1 = (s.runJob j fuel upto pos).2.1 - pos := by
  have hx : s.runJob j fuel upto pos = ((s.move j fuel upto pos).1, (s.move j fuel upto pos).2.1, (s.move j fuel upto pos).2.1 - pos,
      (s.move j fuel upto pos).2.2) := if_pos (by omega)
  obtain ⟨h1, h2⟩ := move_bounds (s := s) j (fuel := fuel) h
  rw [hx]
  exact ⟨h1, h2, rfl⟩

/-! A chunk goes on, ends or stops. -/

theorem stopChunk_going {j : Job} (hj : s.engineJob e = some j) (h : (s.engine e).pos < (s.engine e).upto) :
    s.stopChunk e = (((s.setJob { j with taken := (s.engine e).pos }).setEngine e { s.engine e with job := none }).dropHeld
      (.engine e)).syncEngine e := by
  unfold State.stopChunk
  simp only [hj, if_neg (Nat.not_le.2 h)]

theorem execChunkDone_busy {e : Fin 16} (h : (s.engine e.val).job ≠ none) :
    execChunkDone e s = .next (if ((s.engineGo e.val).engine e.val).job.isSome then s.engineGo e.val
      else (s.engineGo e.val).takeChunk e.val fun _ => true) :=
  congrArg _ (if_neg (mt Option.isNone_iff_eq_none.1 h))

/-! Night safes: the words of a slot. -/

theorem getD_flatMap_leBytes (ws : List Word) {j b : Nat} (hj : j < ws.length) (hb : b < 4) :
    (ws.flatMap fun w => leBytes 4 w.toNat).getD (4 * j + b) 0 = (leBytes 4 (ws.getD j 0).toNat).getD b 0 := by
  induction ws generalizing j with
  | nil => exact absurd hj (Nat.not_lt_zero j)
  | cons w ws ih =>
    rw [List.flatMap_cons]
    cases j with
    | zero =>
      rw [List.getD_append _ _ _ _ (by rw [leBytes_length]; omega), Nat.mul_zero, Nat.zero_add, List.getD_cons_zero]
    | succ j =>
      have hsub : 4 * (j + 1) + b - (leBytes 4 w.toNat).length = 4 * j + b := by
        rw [leBytes_length]
        omega
      rw [List.getD_append_right _ _ _ _ (by rw [leBytes_length]; omega), hsub, ih (Nat.succ_lt_succ_iff.1 hj), List.getD_cons_succ]

theorem length_flatMap_leBytes (ws : List Word) : (ws.flatMap fun w => leBytes 4 w.toNat).length = 4 * ws.length := by
  induction ws with
  | nil => rfl
  | cons w ws ih =>
    rw [List.flatMap_cons, List.length_append, ih, leBytes_length, List.length_cons]
    omega

/-- Four bytes read back as the word they hold. -/
theorem ofLeBytes_word (w : Word) : BitVec.ofNat 32 (ofLeBytes ((List.range 4).map fun b => (leBytes 4 w.toNat).getD b 0)) = w := by
  have hr : List.range 4 = [0, 1, 2, 3] := rfl
  have hw := w.isLt
  refine BitVec.eq_of_toNat_eq ?_
  simp only [hr, List.map_cons, List.map_nil, leBytes, List.getD_cons_zero, List.getD_cons_succ, ofLeBytes, BitVec.toNat_ofNat]
  omega

/-- The bytes of a slot of a channel lie outside the ledger area. -/
theorem wordAt_congr {a : Nat} (ha : a + 4 ≤ vaultLedger) (h : ∀ b < 4, t.storedByte (a + b) = s.storedByte (a + b)) :
    t.wordAt 1 a = s.wordAt 1 a := by
  refine congrArg ofLeBytes (List.map_congr_left fun b hb => ?_)
  have hb' := List.mem_range.1 hb
  have hout : ¬ (vaultLedger ≤ a + b ∧ a + b < vaultPool) := by omega
  simp only [State.byteAt, Nat.one_ne_zero, if_false]
  rw [vaultByte_outside hout, vaultByte_outside hout, h b hb']

theorem wordAt_stored {a : Nat} {w : Word} (ha : a + 4 ≤ vaultLedger) (h : ∀ b < 4, s.storedByte (a + b) = (leBytes 4 w.toNat).getD b 0) :
    BitVec.ofNat 32 (s.wordAt 1 a) = w := by
  refine Eq.trans (congrArg (fun l => BitVec.ofNat 32 (ofLeBytes l)) (List.map_congr_left fun b hb => ?_)) (ofLeBytes_word w)
  have hb' := List.mem_range.1 hb
  simp only [State.byteAt, Nat.one_ne_zero, if_false]
  rw [vaultByte_outside (by omega), h b hb']

theorem safeSlot_bound {k : Nat} (hk : k < 66) (i : Nat) : safeSlot k i + 64 ≤ vaultLedger := by
  unfold safeSlot vaultSystem vaultLedger
  omega

/-! Night safes: the channels. -/

/-- A message of a slot as the channel shows it. -/
def State.slotMsg (s : State) (k i : Nat) : Msg := (List.range 16).map fun j => BitVec.ofNat 32 (s.wordAt 1 (safeSlot k i + 4 * j))

/-- The first slot of a channel and the number of its messages. -/
def State.safeAt (s : State) (k : Nat) : Nat × Nat := Tbl.get (fun _ => ((0, 0) : Nat × Nat)) s.safes k

theorem safe_eq (k : Nat) : s.safe k = (List.range (s.safeAt k).2).map fun i => s.slotMsg k ((s.safeAt k).1 + i) := rfl

theorem length_safe (k : Nat) : (s.safe k).length = (s.safeAt k).2 := by
  rw [safe_eq, List.length_map, List.length_range]

/-- The words of a message as they are stored. -/
def storedMsg (m : Msg) : Msg := (List.range 16).map fun i => m.getD i 0

/-- The 64 bytes of a message as they are stored. -/
def msgBytes (m : Msg) : List Byte := (storedMsg m).flatMap fun w => leBytes 4 w.toNat

theorem length_msgBytes (m : Msg) : (msgBytes m).length = 64 := by
  rw [msgBytes, length_flatMap_leBytes, storedMsg, List.length_map, List.length_range]

theorem pushSafe_eq (k : Nat) (m : Msg) : s.pushSafe k m
    = (s.setSafe k ((s.safeAt k).1, (s.safeAt k).2 + 1)).storeVault (safeSlot k ((s.safeAt k).1 + (s.safeAt k).2)) (msgBytes m) := rfl

section push
variable (h : s.canonical = true) {k : Nat} (hk : k < 66) (m : Msg)
include h

theorem safeAt_pushSafe : (s.pushSafe k m).safeAt k = ((s.safeAt k).1, (s.safeAt k).2 + 1) := by
  rw [pushSafe_eq, storeVault_frame]
  exact Tbl.get_set_same _ _ (keeps_of_canonical h).safes

theorem storedByte_pushSafe (x : Nat) : (s.pushSafe k m).storedByte x =
    if safeSlot k ((s.safeAt k).1 + (s.safeAt k).2) ≤ x ∧ x < safeSlot k ((s.safeAt k).1 + (s.safeAt k).2) + 64 then
      (msgBytes m).getD (x - safeSlot k ((s.safeAt k).1 + (s.safeAt k).2)) 0
    else s.storedByte x := by
  rw [pushSafe_eq, storedByte_storeVault (s := s.setSafe k _) (keeps_of_canonical h).vault, length_msgBytes]
  rfl

include hk

theorem slotMsg_pushed : (s.pushSafe k m).slotMsg k ((s.safeAt k).1 + (s.safeAt k).2) = storedMsg m := by
  refine List.map_congr_left fun j hj => ?_
  have hj' := List.mem_range.1 hj
  have hbound := safeSlot_bound hk ((s.safeAt k).1 + (s.safeAt k).2)
  refine wordAt_stored (by omega) fun b hb => ?_
  have hlen : j < (storedMsg m).length := by rwa [storedMsg, List.length_map, List.length_range]
  have hword : (storedMsg m).getD j 0 = m.getD j 0 := by
    rw [storedMsg, List.getD_eq_getElem?_getD, List.getElem?_map, List.getElem?_range hj']
    rfl
  rw [storedByte_pushSafe h, if_pos (by omega), ← hword, ← getD_flatMap_leBytes _ hlen hb]
  congr 1
  omega

theorem slotMsg_kept {i : Nat} (hi : i < (s.safeAt k).2) (hn : (s.safeAt k).2 < 16) :
    (s.pushSafe k m).slotMsg k ((s.safeAt k).1 + i) = s.slotMsg k ((s.safeAt k).1 + i) := by
  refine List.map_congr_left fun j hj => ?_
  have hj' := List.mem_range.1 hj
  have hbound := safeSlot_bound hk ((s.safeAt k).1 + i)
  refine congrArg (BitVec.ofNat 32) (wordAt_congr (by omega) fun b hb => ?_)
  rw [storedByte_pushSafe h, if_neg]
  unfold safeSlot
  omega

/-- A message sent is behind those that wait. -/
theorem safe_pushSafe (hn : (s.safe k).length < 16) : (s.pushSafe k m).safe k = s.safe k ++ [storedMsg m] := by
  rw [length_safe] at hn
  rw [safe_eq, safe_eq, safeAt_pushSafe h]
  simp only [List.range_succ, List.map_append, List.map_cons, List.map_nil, slotMsg_pushed h hk m]
  exact congrArg (· ++ _) (List.map_congr_left fun i hi => slotMsg_kept h hk m (List.mem_range.1 hi) hn)

end push

/-- A take frees the oldest slot. -/
theorem safe_popSafe (h : s.canonical = true) {k : Nat} {m : Msg} {rest : List Msg} (hm : s.safe k = m :: rest) : (s.popSafe k).safe k = rest := by
  have hat : (s.popSafe k).safeAt k = (((s.safeAt k).1 + 1) % 16, (s.safeAt k).2 - 1) := Tbl.get_set_same _ _ (keeps_of_canonical h).safes
  have hslot (i : Nat) : (s.popSafe k).slotMsg k (((s.safeAt k).1 + 1) % 16 + i) = s.slotMsg k ((s.safeAt k).1 + (i + 1)) := by
    have hs : safeSlot k (((s.safeAt k).1 + 1) % 16 + i) = safeSlot k ((s.safeAt k).1 + (i + 1)) := by
      unfold safeSlot
      omega
    rw [State.slotMsg, hs]
    rfl
  have hlen : (s.safeAt k).2 = rest.length + 1 := by rw [← length_safe, hm, List.length_cons]
  rw [safe_eq, hlen, List.range_succ_eq_map, List.map_cons, List.map_map, List.cons.injEq] at hm
  rw [safe_eq, hat, hlen, Nat.add_sub_cancel]
  exact (List.map_congr_left fun i _ => hslot i).trans hm.2

/-! Night safes: sent, taken and cleared. -/

theorem deposit_custodian_up {who ch : Nat} {m : Msg} (hu : s.cusUp = true) (hn : (s.safe ch).length < 16) :
    s.deposit who ch .custodian m = s.pushSafe ch (stamp who m) := by
  have hoff : ¬ s.isOff .custodian = true := by
    rw [State.isOff, hu]
    exact Bool.false_ne_true
  exact (if_neg hoff).trans (if_neg (Nat.not_le.2 hn))

theorem deposit_custodian_down {who ch : Nat} {m : Msg} (hu : s.cusUp = false) (hw : who < 32) :
    s.deposit who ch .custodian m = (s.wr (accPage who 7) NS_TX_STATUS_off_error 1).fault (accPage who 7) 0 := by
  have hoff : s.isOff .custodian = true := by
    rw [State.isOff, hu]
    rfl
  exact (if_pos hoff).trans (if_pos hw)

theorem nsSendWrite_accepted {who : Nat} {v : Word}
    (h : s.writeOk who (accPage who 7) NS_TX_SEND.off v true
      (fun v => if NS_TX_SEND_dest.get v = 1 ∧ who ≠ 0 ∧ who ≠ 16 then Rule.range else .ok) = true) :
    s.nsSendWrite who who v 15 =
      let m := (List.range 16).map fun i => s.reg (fkey (accPage who 7) NS_TX_DATA i)
      if NS_TX_SEND_dest.get v = 0 then s.deposit who (nsToCus who) .custodian m
      else s.deposit who (nsMgr (who == 0)) (.account (16 - who)) m := by
  unfold State.nsSendWrite
  exact writeWith_writeOk_data h

theorem nsTakeWrite_accepted {who ch : Nat} {v : Word} (hc : s.rxChannel who = some ch)
    (h : s.writeOk who (accPage who 7) NS_RX_TAKE.off v true
      (fun v => if NS_RX_TAKE_take.get v = 1 ∧ (s.rxQueue who).isEmpty then Rule.range else .ok) = true) :
    s.nsTakeWrite who who v 15 =
      let t := if NS_RX_TAKE_take.get v = 1 then s.popSafe ch else s
      let t : State := if NS_RX_TAKE_clr_dropped.get v = 1 then { t with dropped := NatTbl.put t.dropped ch 0 } else t
      t.syncNs who := by
  unfold State.nsTakeWrite
  refine (writeWith_writeOk_data h).trans ?_
  simp only [hc]

/-- Settles O51. -/
theorem copyEnginesAndNightSafes : Obligations.CopyEnginesAndNightSafes := by
  unfold Obligations.CopyEnginesAndNightSafes
  refine ⟨fun e s => ?engines, fun who s hw => ?_, fun who s hw => ?safes⟩
  case engines =>
    intro cmds d r
    refine ⟨fun c hc hj j ho => ?_, fun c hc hj ho => (exec_chunkCmds hc).trans (congrArg _ (takeChunk_none hj ho)),
      fun c hc hj => (exec_chunkCmds hc).trans (congrArg _ (takeChunk_busy hj)), fun j fuel upto pos hj h => runJob_bounds hj h,
      ⟨fun h => if_pos h, fun h => if_neg (Nat.not_le.2 h)⟩, ⟨fun hj h => ?_, fun hj h => ?_, fun h => congrArg _ (if_pos ?_)⟩,
      fun j hj h => stopChunk_going hj h, fun hs hn => congrArg _ (if_neg ?_), fun h => congrArg _ (if_pos ?_)⟩
    · have hx := (exec_chunkCmds hc).trans (congrArg Host.Outcome.next (takeChunk_some hj ho))
      refine ⟨fun hop => hx.trans (congrArg _ (if_neg ?_)), fun hop => hx.trans (congrArg _ (if_pos ?_))⟩
      · rw [hop, beq_self_eq_true]
        exact Bool.false_ne_true
      · rw [beq_eq_false_iff_ne.2 hop]
        rfl
    · exact (execChunkDone_busy hj).trans (congrArg _ (if_pos (Option.isSome_iff_ne_none.2 h)))
    · exact (execChunkDone_busy hj).trans (congrArg _ (if_neg (mt Option.isSome_iff_ne_none.1 (not_not.2 h))))
    · rw [h]
      rfl
    · rw [hs, Bool.not_true]
      exact fun h => h.elim Bool.false_ne_true (Nat.not_lt.2 hn)
    · exact h.imp_left fun h => by rw [h]; rfl
  · exact ⟨fun _ => congrArg _ (if_pos hw), congrArg _ (if_pos hw), congrArg _ (if_pos hw)⟩
  case safes =>
    intro p m sendRule takeRule
    have hlt : who.val < 32 := Nat.lt_of_le_of_ne (Nat.lt_succ_iff.1 who.isLt) hw
    refine ⟨fun h => congrArg _ ((if_neg hw).trans ((nsSendWrite_accepted h).trans (if_pos (by decide)))),
      fun h => congrArg _ ((if_neg hw).trans ((nsSendWrite_accepted h).trans (if_neg (by decide)))), fun ch hc => ⟨fun h => ?_, fun h => ?_⟩,
      fun ch m hn hu => deposit_custodian_up hu hn, fun ch m hs hk hn => safe_pushSafe hs hk m hn, fun ch m rest hs hm => safe_popSafe hs hm,
      fun ch m hu => deposit_custodian_down hu hlt⟩
    · have htake : NS_RX_TAKE_take.get 1 = 1 ∧ NS_RX_TAKE_clr_dropped.get 1 ≠ 1 := by decide
      rw [exec, execNsTake, if_neg hw, nsTakeWrite_accepted hc h]
      simp only [if_pos htake.1, if_neg htake.2]
    · have hclear : NS_RX_TAKE_take.get 0x80000000 ≠ 1 ∧ NS_RX_TAKE_clr_dropped.get 0x80000000 = 1 := by decide
      rw [exec, execNsClrDropped, if_neg hw, nsTakeWrite_accepted hc h]
      simp only [if_neg hclear.1, if_pos hclear.2]

end Sys2Proof.Machine
end

section
/-! PROOFS. The Custodian's boot (R288 to R290, R298, R300, R311), its halt, and the manager's release (R404). -/

namespace Sys2Proof.Machine

variable {s t : State} {b : BootInput}

/-! The boot stage. -/

theorem State.stage_setStage (h : Tbl.wf regReset s.regs = true) {n : Nat} (hn : n < 16) : (s.setStage n).stage = n :=
  (State.rd_wr_same h (cusPage 0) CUS_BOOT_STATUS_stage (by decide) (by decide) n 0).trans (Nat.mod_eq_of_lt hn)

/-- The boot's last act is to show stage 7. -/
theorem bootOn_ends {q : List Instr} {n former : Nat} (h : Keeps q n s) : ∃ u, Keeps q n u ∧ s.bootOn b former = u.setStage 7 := by
  unfold State.bootOn
  extract_lets compat verified
  clear_value verified compat
  split
  extract_lets planned bound promised early keyed locked
  refine ⟨_, keeps_State_startLedger (keeps_State_setStage (keeps_State_pageCtrlWrite ?_)), rfl⟩
  have hp : Keeps q n promised :=
    keeps_State_wr (keeps_State_setStage (keeps_State_applyWorlds (keeps_State_setStage (keeps_State_wr (keeps_State_applyPlan h)))))
  have he : Keeps q n early := keeps_foldl hp fun t e ht => by
    split
    · exact keeps_State_earlyOutput ht
    · exact ht
  exact keeps_ite he (keeps_foldl he fun _ _ ht => keeps_State_setReg ht)

theorem stage_bootOn (h : s.canonical = true) (former : Nat) : (s.bootOn b former).stage = 7 := by
  obtain ⟨u, hu, he⟩ := bootOn_ends (b := b) (former := former) (keeps_of_canonical h)
  rw [he, State.stage_setStage hu.regs (by decide)]

/-! The choice of the image. -/

theorem imageCode_eq_zero {i : Option Image} : s.imageCode i = 0 ↔ ∃ m, i = some m ∧ m.signed = true ∧ m.keyHash = s.boot.keyHash
    ∧ s.boot.rollback ≤ m.version.toNat ∧ m.headerOk = true ∧ imageOk s.lifecycle m.kind = true := by
  cases i with
  | none => simp [State.imageCode]
  | some m =>
    simp only [State.imageCode, Option.some.injEq, exists_eq_left', Bool.not_eq_true', Bool.or_eq_true, bne_iff_ne, ne_eq]
    by_cases hk : imageOk s.lifecycle m.kind = true
    · by_cases hs : m.signed = true ∧ m.keyHash = s.boot.keyHash
      · have hn : ¬ (m.signed = false ∨ ¬ m.keyHash = s.boot.keyHash) := by simp [hs]
        rw [if_neg (by simp [hk]), if_neg hn]
        by_cases hv : m.version.toNat < s.boot.rollback
        · rw [if_pos hv]
          exact ⟨fun h => absurd h (by decide), fun h => absurd h.2.2.1 (Nat.not_le.2 hv)⟩
        · rw [if_neg hv]
          simp [hs, hk, Nat.not_lt.1 hv]
      · have hn : m.signed = false ∨ ¬ m.keyHash = s.boot.keyHash := by
          by_cases hg : m.signed = true
          · exact .inr fun h => hs ⟨hg, h⟩
          · exact .inl (Bool.not_eq_true _ ▸ hg)
        rw [if_neg (by simp [hk]), if_pos hn]
        exact ⟨fun h => absurd h (by decide), fun h => absurd ⟨h.1, h.2.1⟩ hs⟩
    · rw [if_pos (Bool.not_eq_true _ ▸ hk)]
      exact ⟨fun h => absurd h (by decide), fun h => absurd h.2.2.2.2 hk⟩

theorem chooseImage_slot {slot : Nat} {m : Image} (h : s.imageCode (some m) = 0)
    (hb : (slot = 0 ∧ b.slot0 = some m) ∨ (slot = 1 ∧ s.imageCode b.slot0 ≠ 0 ∧ b.slot1 = some m)) :
    s.chooseImage b = .ok (slot, m.version.toNat) := by
  unfold State.chooseImage
  obtain ⟨rfl, h0⟩ | ⟨rfl, hne, h1⟩ := hb
  · rw [h0, if_pos h]
  · rw [if_neg hne, h1, if_pos h]

theorem chooseImage_none (h0 : s.imageCode b.slot0 ≠ 0) (h1 : s.imageCode b.slot1 ≠ 0) :
    s.chooseImage b = .error (if s.imageCode b.slot1 = 1 then s.imageCode b.slot0 else s.imageCode b.slot1) :=
  (if_neg h0).trans (if_neg h1)

/-! The boot from PORST_N and the one asked again. -/

/-- The Custodian runs the image of a slot. -/
def State.slotChosen (s : State) (slot version : Nat) : State :=
  let t := ((s.wr (cusPage 0) CUS_BOOT_STATUS_slot slot).wr (cusPage 0) CUS_FW_VERSION_version version).wr (cusPage 0) CUS_FW_VERSION_rollback
    s.boot.rollback
  { t with boot := { t.boot with cusRuns := true } }

/-- Stages 2 to 7 on what the lifecycle step left (R402, R404). -/
def State.bootRest (r : State × Bool) (b : BootInput) (former : Nat) : State :=
  let u := (r.1.setStage 3).measure b
  if r.2 = false then r.1
  else if b.crystalOk = false then { u with boot := { u.boot with halted := true } }
  else if u.hotterThan (u.rd (glbPage 3) GLB_SENS_LIMITS_t_high) = true then u
  else u.bootOn b former

theorem keeps_slotChosen {q : List Instr} {n : Nat} (h : Keeps q n s) (slot version : Nat) : Keeps q n (s.slotChosen slot version) :=
  { keeps_State_wr (keeps_State_wr (keeps_State_wr h)) with }

theorem execCustodianBoot_dead (hw : b.wf = true) (h : s.boot.awake = false ∨ s.boot.failed = true ∨ s.boot.halted = true) :
    execCustodianBoot b s = .next s := by
  have hd : (!s.boot.awake || s.boot.failed || s.boot.halted) = true := by
    obtain h | h | h := h <;> simp [h]
  rw [execCustodianBoot, hw]
  exact congrArg Host.Outcome.next (if_pos hd)

section
variable (hw : b.wf = true) (ha : s.boot.awake = true) (hf : s.boot.failed = false) (hh : s.boot.halted = false)
include hw ha hf hh

theorem execCustodianBoot_starts (hr : s.boot.cusRuns = false) : execCustodianBoot b s = .next (match s.chooseImage b with
    | .error cause => s.bootFails cause
    | .ok (slot, version) =>
      State.bootRest (((s.slotChosen slot version).readOtp b.otpBad).bootLifecycle b.record b.cut) b s.lifecycle) := by
  rw [execCustodianBoot, hw, ha, hf, hh, hr]
  refine congrArg Host.Outcome.next ?_
  cases s.chooseImage b with
  | error cause => rfl
  | ok r =>
    obtain ⟨slot, version⟩ := r
    change (match ((s.slotChosen slot version).readOtp b.otpBad).bootLifecycle b.record b.cut with
      | (s', false) => s'
      | (s', true) => _) = State.bootRest (((s.slotChosen slot version).readOtp b.otpBad).bootLifecycle b.record b.cut) b s.lifecycle
    obtain ⟨t, _ | _⟩ := ((s.slotChosen slot version).readOtp b.otpBad).bootLifecycle b.record b.cut
    · rfl
    · cases hb : b.crystalOk <;> simp [State.bootRest, hb]

theorem execCustodianBoot_again (hr : s.boot.cusRuns = true) : execCustodianBoot b s = .next (if s.stage ≠ 3 then s else
    let u := (s.readOtp b.otpBad).measure b
    if u.hotterThan (u.rd (glbPage 3) GLB_SENS_LIMITS_t_high - 10 : Int) = true then u else u.bootOn b u.lifecycle) := by
  rw [execCustodianBoot, hw, ha, hf, hh, hr]
  rfl

end

/-! The manager's release. -/

theorem stage_managerDone (h : Tbl.wf regReset s.regs = true) : s.managerDone.stage = 8 := State.stage_setStage h (by decide)

theorem released_managerDone (s : State) : s.managerDone.boot.released = true := rfl

theorem execManagerRelease_releases (hc : s.canonical = true) (hu : s.cusUp = true) (hr : s.boot.released = false) (hs : s.stage = 7)
    (hm : s.rd (memPage 0) MEM_STATUS_state = 2 ∨ s.rd (memPage 0) MEM_STATUS_state = 3) :
    ∃ t, exec .managerRelease s = .next t ∧ t = s.managerWork.managerDone ∧ t.stage = 8 ∧ t.boot.released = true := by
  refine ⟨_, congrArg Host.Outcome.next (if_neg ?_), rfl, ?_, released_managerDone _⟩
  · obtain h | h := hm <;> simp [hu, hr, hs, h]
  · exact stage_managerDone (keeps_State_managerWork (keeps_of_canonical hc)).regs

theorem execManagerRelease_waits (h : s.cusUp = false ∨ s.boot.released = true ∨ s.stage ≠ 7
    ∨ (s.rd (memPage 0) MEM_STATUS_state ≠ 2 ∧ s.rd (memPage 0) MEM_STATUS_state ≠ 3)) : exec .managerRelease s = .next s := by
  have hc : (!s.cusUp || s.boot.released || s.stage ≠ 7
      || (s.rd (memPage 0) MEM_STATUS_state ≠ 2 && s.rd (memPage 0) MEM_STATUS_state ≠ 3)) = true := by
    obtain h | h | h | h := h <;> simp [h]
  exact (congrArg Host.Outcome.next (if_pos hc) : execManagerRelease s = .next s)

/-- Settles O52: the image's choice decides between waiting and the later stages, whose branches are those of `bootRest`; the boot
and the manager's release each end by writing the stage they reach. -/
theorem custodianCommands : Obligations.CustodianCommands := by
  unfold Obligations.CustodianCommands
  refine ⟨fun b s hc hw ha hf hh => ?_, fun s i => imageCode_eq_zero, fun b s hw h => execCustodianBoot_dead hw h,
    fun b s hw => by rw [show exec (.custodianBoot b) s = execCustodianBoot b s from rfl, execCustodianBoot, hw]; rfl, fun s hc =>
    ⟨fun h => congrArg Host.Outcome.next (if_neg (by simp [h])), fun h => congrArg Host.Outcome.next (if_pos (by simp [h])),
      execManagerRelease_releases hc, execManagerRelease_waits⟩⟩
  intro c0
  refine ⟨fun hr => ⟨fun h0 h1 => ?_, fun slot m ⟨hm, hb⟩ => ?_⟩, fun hr h3 => ?_, fun hr h3 => ?_⟩
  · refine (execCustodianBoot_starts hw ha hf hh hr).trans ?_
    rw [chooseImage_none h0 h1]
  · have he : exec (.custodianBoot b) s = .next
        (State.bootRest (((s.slotChosen slot m.version.toNat).readOtp b.otpBad).bootLifecycle b.record b.cut) b s.lifecycle) := by
      refine (execCustodianBoot_starts hw ha hf hh hr).trans ?_
      rw [chooseImage_slot hm hb]
    have hk : Keeps s.pending s.now (((s.slotChosen slot m.version.toNat).readOtp b.otpBad).bootLifecycle b.record b.cut).1 :=
      keeps_State_bootLifecycle (keeps_State_readOtp (keeps_slotChosen (keeps_of_canonical hc) ..))
    intro t0 t r u
    change exec (.custodianBoot b) s = .next (State.bootRest r b s.lifecycle) at he
    have hu : u.canonical = true := (keeps_State_measure (keeps_State_setStage (s := r.1) hk)).canonical
    rw [he]
    refine ⟨fun h => congrArg Host.Outcome.next (if_pos h), fun h hx => ?_, fun h hx hot => ?_, fun h hx hot =>
      ⟨u.bootOn b s.lifecycle, ?_, rfl, stage_bootOn hu _⟩⟩
    · simp [State.bootRest, h, hx, u]
    · simp [State.bootRest, h, hx, u, hot]
    · simp [State.bootRest, h, hx, u, hot]
  · rw [show exec (.custodianBoot b) s = _ from execCustodianBoot_again hw ha hf hh hr, if_neg (not_not.2 h3)]
    exact ⟨fun h => congrArg Host.Outcome.next (if_pos h), fun h => congrArg Host.Outcome.next (if_neg (by rw [h]; decide))⟩
  · exact (execCustodianBoot_again hw ha hf hh hr).trans (congrArg Host.Outcome.next (if_pos h3))

end Sys2Proof.Machine
end

section
/-! PROOFS. The ledger: entries and their chain (R303 to R306), their copies (R308) and seals (R307, R309). -/

namespace Sys2Proof.Machine

variable {s t : State} {r : Rec}

/-! An entry appended by the started ledger. -/

theorem foldl_setReg_frame (f : Nat → Nat) (g : Nat → Word) (l : List Nat) (s : State) :
    ∃ regs, l.foldl (fun t i => t.setReg (f i) (g i)) s = { s with regs := regs } := by
  induction l generalizing s with
  | nil => exact ⟨s.regs, rfl⟩
  | cons i l ih => exact ih (s.setReg (f i) (g i))

/-- The ledger with the entry `e` appended for the record `r`. -/
def LedgerS.withEntry (l : LedgerS) (r : Rec) (e : Entry) : LedgerS :=
  { l with seq := (l.seq + 1) % 2 ^ 32, chain := e.chain, occ := l.occ + 1, ring := Tbl.set (fun _ => Entry.blank) l.ring (e.seq % ringSize) e,
           acctOcc := if r.org < 64 then NatTbl.put l.acctOcc (r.org % 64) (NatTbl.at_ l.acctOcc (r.org % 64) + 1) else l.acctOcc }

theorem syncLedger_frame (s : State) : s.syncLedger = { s with regs := s.syncLedger.regs } := rfl

/-- The entry's place, its words in LDG_LAST, its count and the status. -/
def State.entered (s : State) (r : Rec) (e : Entry) : State :=
  let ws := e.body ++ leBytes 4 e.chain.toNat
  (((List.range 8).foldl (fun (t : State) i => t.setReg (fkey (ldgPage 3) LDG_LAST i) (BitVec.ofNat 32 (ofLeBytes ((ws.drop (4 * i)).take 4))))
    { s with led := s.led.withEntry r e }).count (ldgPage 0) 0).syncLedger

theorem entered_frame (s : State) (r : Rec) (e : Entry) :
    s.entered r e = { s with led := s.led.withEntry r e, regs := (s.entered r e).regs, tally := (s.entered r e).tally } := by
  obtain ⟨regs, hf⟩ := foldl_setReg_frame (fun i => fkey (ldgPage 3) LDG_LAST i)
    (fun i => BitVec.ofNat 32 (ofLeBytes (((e.body ++ leBytes 4 e.chain.toNat).drop (4 * i)).take 4))) (List.range 8)
    { s with led := s.led.withEntry r e }
  unfold State.entered
  dsimp only
  rw [hf, syncLedger_frame]
  rfl

theorem append_started (h : s.led.started = true) : (s.append r).1 = s.entered r (s.entryOf r) := by
  change s.write1 r = _
  rw [State.write1, if_neg (by rw [h]; decide)]
  rfl

theorem entryOf_chain (s : State) (r : Rec) :
    (s.entryOf r).chain = BitVec.ofNat 32 (crc32c (leBytes 4 s.led.chain.toNat ++ (s.entryOf r).body)) := rfl

/-! The copy of the oldest entry into the ring. -/

theorem exportEntry_unarmed (h : s.rd (vltGroup (vaultLedger + 32 * s.expNext)) FLT_INJECT_arm = 0) :
    s.exportEntry = let e := Tbl.get (fun _ => Entry.blank) s.led.ring s.expNext
      State.exported e ((s.count (vltGroup (vaultLedger + 32 * s.expNext)) 3).postMem 0 4 0
        (s.expBase + 32 * ((s.reg (fkey ldg0 LDG_EXP_TAIL 0)).toNat % s.expSize)) (e.body ++ leBytes 4 e.chain.toNat)) := by
  have hl : s.vltLine (vaultLedger + 32 * s.expNext) = (s.count (vltGroup (vaultLedger + 32 * s.expNext)) 3, false) := by
    have hu : ∀ i, (s.count (vltGroup (vaultLedger + 32 * s.expNext)) 3).useInject (vltGroup (vaultLedger + 32 * s.expNext)) i
        = (s.count (vltGroup (vaultLedger + 32 * s.expNext)) 3, none) := fun i =>
      useInject_unarmed (.inl ((rd_of_regs (State.count_regs ..) ..).trans h))
    simp only [State.vltLine, State.vltParity, State.vltWords, hu]
  unfold State.exportEntry
  dsimp only
  rw [hl]
  rfl

/-- Settles O53: the frame of an append is that of its entry's place, its last-entry registers and its count; the other commands go by
their condition. -/
theorem ledgerWriting : Obligations.LedgerWriting := by
  unfold Obligations.LedgerWriting
  intro who r head s hc
  have hk := keeps_of_canonical hc
  refine ⟨fun h => ?_, fun h => congrArg Host.Outcome.next (writeWith_logged h),
    fun h => congrArg Host.Outcome.next (writeWith_writeOk_data h), ⟨fun hen hocc hfull hmay => ?_,
    fun hen hocc hfull hd hu => ?_, fun h => congrArg Host.Outcome.next (if_pos h)⟩, fun hu hg hl hsp => ?_, fun h => congrArg Host.Outcome.next (if_pos ?_)⟩
  · intro t e
    have ht : t = { s with led := s.led.withEntry r (s.entryOf r), regs := t.regs, tally := t.tally } := by
      rw [show t = s.entered r (s.entryOf r) from append_started h]
      exact entered_frame ..
    have hled : t.led = s.led.withEntry r (s.entryOf r) := by rw [ht]
    have he : e = s.entryOf r := (congrArg (fun l : LedgerS => Tbl.get (fun _ => Entry.blank) l.ring _) hled).trans (Tbl.get_set_same _ _ hk.ring)
    refine ⟨by rw [hled]; rfl, by rw [hled]; rfl, by rw [he]; rfl, by rw [he]; rfl, by rw [he]; rfl, by rw [he]; rfl, by rw [hled, he]; rfl,
      by rw [he]; exact entryOf_chain s r, fun i hi => ?_, ?_⟩
    · rw [hled]
      exact Tbl.get_set_other _ hk.ring hi
    · rw [hled]
      exact ht
  · have hn : ¬ (s.dramReady && !s.unitMay 0 s.expBase) = true := by
      obtain h | h := hmay <;> simp [h]
    exact ⟨congrArg Host.Outcome.next ((if_neg (by tauto)).trans (if_neg hn)), exportEntry_unarmed⟩
  · exact congrArg Host.Outcome.next ((if_neg (by tauto)).trans (if_pos (by simp [hd, hu])))
  · refine congrArg Host.Outcome.next (if_neg ?_)
    simp only [hu, hg, hl, decide_eq_false (Nat.not_le.2 hsp)]
    decide
  · obtain h | h | h | h := h <;> simp [h]

end Sys2Proof.Machine
end

section
/-! PROOFS. The release of PORST_N (R45, R397), the cold resets (R395 to R398), supplies and temperature (R404, R405). -/

namespace Sys2Proof.Machine

variable {s t : State}

/-! Tables. -/

section
variable {α : Type} [DecidableEq α] {d : Nat → α}

theorem Tbl.get_filter {l : List (Nat × α)} (f : Nat → Bool) (h : Tbl.wf d l = true) (k : Nat) :
    Tbl.get d (l.filter fun e => f e.1) k = if f k = true then Tbl.get d l k else d k := by
  induction l with
  | nil => exact (ite_self _).symm
  | cons e l ih =>
    obtain ⟨j, v⟩ := e
    rw [Tbl.wf_cons] at h
    have ih := ih (Tbl.wf_of_wfFrom h.2)
    have hd : k ≤ j → Tbl.get d l k = d k := Tbl.get_below h.2
    by_cases hj : f j = true
    · rw [List.filter_cons_of_pos (p := fun e : Nat × α => f e.1) hj]
      simp only [Tbl.get, ih]
      grind
    · rw [List.filter_cons_of_neg (p := fun e : Nat × α => f e.1) hj, ih]
      simp only [Tbl.get]
      grind

end

/-! The cold start. -/

/-- The state of reset `z` with the backup domain, the fuses and the chain of `s`. -/
def State.backed (z s : State) (cause : Nat) : State :=
  { z with
    now := s.now, fresh := s.fresh, pending := s.pending, regs := s.regs.filter fun e => backupKey e.1,
    led := { z.led with seq := s.led.seq, chain := s.led.chain },
    boot := { z.boot with fuses := s.boot.fuses, keyHash := s.boot.keyHash, rollback := s.boot.rollback, keyLocked := s.boot.keyLocked, keysGone := s.boot.keysGone,
                          ledgerKeyGone := s.boot.ledgerKeyGone, retained := s.boot.retained, tbRestarted := s.boot.tbRestarted,
                          firedOff := s.boot.firedOff, alarmAt := s.boot.alarmAt, cause := cause, cooked := cause == 3,
                          temps := s.boot.temps, armed := s.boot.armed } }

theorem coldStart_eq (s : State) (cause : Nat) : s.coldStart cause =
    ((State.backed State.reset s cause).wr (glbPage 0) GLB_RESET_CAUSE_count ((s.rd (glbPage 0) GLB_RESET_CAUSE_count + 1) % 65536)).readFuses :=
  rfl

theorem regs_wf_readFuses (h : Tbl.wf regReset s.regs = true) : Tbl.wf regReset s.readFuses.regs = true :=
  State.regs_wf_wr (State.regs_wf_wr h ..) ..

theorem reg_readFuses_other (h : Tbl.wf regReset s.regs = true) {k : Nat} (hk : k ≠ fkey (cusPage 0) CUS_LIFECYCLE 0) :
    s.readFuses.reg k = s.reg k := by
  unfold State.readFuses
  exact (State.reg_wr_other (State.regs_wf_wr h ..) _ CUS_LIFECYCLE_tap _ _ hk).trans (State.reg_wr_other h _ CUS_LIFECYCLE_state _ _ hk)

theorem regs_wf_backed (h : Tbl.wf regReset s.regs = true) (z : State) (cause : Nat) : Tbl.wf regReset (State.backed z s cause).regs = true :=
  Tbl.wf_filter _ h

theorem reg_coldStart (h : Tbl.wf regReset s.regs = true) (cause : Nat) {k : Nat} (hb : backupKey k = false)
    (hk : k ≠ fkey (cusPage 0) CUS_LIFECYCLE 0) : (s.coldStart cause).reg k = regReset k := by
  have hc : k ≠ fkey (glbPage 0) GLB_RESET_CAUSE_count 0 := by
    rintro rfl
    exact absurd hb (by decide)
  rw [coldStart_eq, reg_readFuses_other (State.regs_wf_wr (regs_wf_backed h ..) ..) hk, State.reg_wr_other (regs_wf_backed h ..) _ _ _ _ hc]
  exact (Tbl.get_filter backupKey h k).trans (if_neg (by rw [hb]; decide))

theorem rd_coldStart_count (h : Tbl.wf regReset s.regs = true) (cause : Nat) :
    (s.coldStart cause).rd (glbPage 0) GLB_RESET_CAUSE_count = (s.rd (glbPage 0) GLB_RESET_CAUSE_count + 1) % 65536 := by
  rw [coldStart_eq, State.rd, reg_readFuses_other (State.regs_wf_wr (regs_wf_backed h ..) ..) (by decide)]
  refine (State.rd_wr_same (regs_wf_backed h ..) _ _ (by decide) (by decide) _ 0).trans ?_
  exact Nat.mod_eq_of_lt (Nat.mod_lt _ (by decide))

/-! A write of GLB_RESET. -/

theorem rule_of_writeOk {who p off : Nat} {value : Word} {data : Bool} {rule : Word → Rule} (h : s.writeOk who p off value data rule = true) :
    rule value = .ok := by
  have h := judge_of_writeOk h
  unfold State.judge at h
  split at h
  · cases h
  split at h
  · cases h
  split at h
  · cases h
  simp only [RegRow.merge_full] at h
  split at h
  · cases h
  split at h
  · cases h
  split at h
  · cases h
  rename_i hlock hrange
  simp only [Bool.or_eq_true, beq_iff_eq, not_or] at hlock hrange
  cases hr : rule value with
  | ok => rfl
  | range => exact absurd hr hrange.2
  | locked => exact absurd hr hlock.2

theorem b2n_lt_two (c : Bool) : b2n c < 2 := by cases c <;> decide

theorem resetWord_toNat (key : Byte) (cold : Bool) : (BitVec.ofNat 32 (key.toNat * 256 + b2n cold)).toNat = key.toNat * 256 + b2n cold := by
  have hk := key.isLt
  have hc := b2n_lt_two cold
  rw [BitVec.toNat_ofNat, Nat.mod_eq_of_lt (by omega)]

theorem resetKey_get (key : Byte) (cold : Bool) : GLB_RESET_key.get (BitVec.ofNat 32 (key.toNat * 256 + b2n cold)) = key.toNat := by
  have hk := key.isLt
  have hc := b2n_lt_two cold
  rw [Fld.get, BitVec.toNat_ushiftRight, resetWord_toNat]
  simp only [GLB_RESET_key, Nat.shiftRight_eq_div_pow]
  omega

theorem resetCold_get (key : Byte) (cold : Bool) : GLB_RESET_cold.get (BitVec.ofNat 32 (key.toNat * 256 + b2n cold)) = b2n cold := by
  have hc := b2n_lt_two cold
  rw [Fld.get, BitVec.toNat_ushiftRight, resetWord_toNat]
  simp only [GLB_RESET_cold, Nat.shiftRight_eq_div_pow]
  omega

/-- A write that is not accepted leaves what its verdict leaves. -/
theorem writeWith_refused {who p off : Nat} {value : Word} {data : Bool} {rule : Word → Rule} {recs : Word → List Rec}
    {eff : Word → State → State} (h : s.writeOk who p off value data rule = false) :
    s.writeWith who p off value 15 data rule recs eff =
      s.turnAway who p off (s.judge who p off value 15 data rule).2 (s.judge who p off value 15 data rule).1 :=
  writeWith_stopped Prod.mk.eta.symm (beq_eq_false_iff_ne.1 h)

/-- The rule of a write of GLB_RESET (R396). -/
def resetRule (v : Word) : Rule := if GLB_RESET_key.get v = 0xC5 then .ok else .range

theorem resetRule_key {key : Byte} {cold : Bool} (h : resetRule (BitVec.ofNat 32 (key.toNat * 256 + b2n cold)) = .ok) : key = 0xC5 := by
  unfold resetRule at h
  rw [resetKey_get] at h
  split at h
  · exact BitVec.eq_of_toNat_eq ‹key.toNat = 0xC5›
  · cases h

theorem glbReset_accepted {who : Nat} {key : Byte} {cold : Bool}
    (h : s.writeOk who (glbPage 1) GLB_RESET.off (BitVec.ofNat 32 (key.toNat * 256 + b2n cold)) false resetRule = true) :
    s.glbResetWrite who (BitVec.ofNat 32 (key.toNat * 256 + b2n cold)) 15 =
      (let t := s.log who (s.writeRec who (glbPage 1) GLB_RESET.off (BitVec.ofNat 32 (key.toNat * 256 + b2n cold)))
      if cold = true then t.coldStart 4 else t) := by
  refine (writeWith_logged h).trans ?_
  simp only [resetCold_get]
  cases cold
  · rfl
  · rfl

/-! Supplies and temperature. -/

theorem sensorOk_iff {q : Int} : sensorOk q = true ↔ -180 ≤ q ∧ q ≤ 560 := decide_eq_true_iff

theorem execTempSample_runs {i : Fin 32} {q : Int} (hk : s.boot.cooked = false) (h3 : 3 ≤ s.stage) :
    execTempSample i q s = .next (let t := (s.tempTake i.val q).syncTemps
      if sensorOk q && decide (540 ≤ q) then t.coldStart 3 else t) := by
  have hs : ¬ s.rd (cusPage 0) CUS_BOOT_STATUS_stage < 3 := Nat.not_lt.2 h3
  rw [execTempSample, if_neg (by rw [hk]; decide), if_neg hs]

theorem cooled_iff : (s.boot.cooked && (List.range 32).all fun i => decide (Tbl.get (fun _ => (0 : Int)) s.boot.temps i < 460)) = true ↔
    s.boot.cooked = true ∧ ∀ i < 32, Tbl.get (fun _ => (0 : Int)) s.boot.temps i < 460 := by
  simp only [Bool.and_eq_true, List.all_eq_true, List.mem_range, decide_eq_true_eq]

/-- Settles O54: the cold start is the reset's state with the backup domain, so a register outside it reads its reset value; the
other commands go by their condition. -/
theorem startAndReset : Obligations.StartAndReset := by
  unfold Obligations.StartAndReset
  refine ⟨fun x s => ?_, fun s hc => ?_⟩
  · intro compat src test reserved p
    refine ⟨fun ha hk => ?_, fun h => congrArg Host.Outcome.next (if_pos ?_), fun w fallback => ⟨fun h => if_pos h, fun h => ?_, fun h h' => ?_⟩⟩
    · intro t0 t1 t2 t u v
      refine congrArg Host.Outcome.next ((if_neg (by rw [ha, hk]; decide)).trans ?_)
      rfl
    · obtain h | h := h <;> simp [h]
    · exact (if_neg (by rw [h]; decide)).trans (if_pos h)
    · exact (if_neg h).trans (if_neg h')
  · have hw := (keeps_of_canonical hc).regs
    refine ⟨fun cause => ⟨fun k hb hk => reg_coldStart hw cause hb hk, rd_coldStart_count hw cause, rfl, rfl, rfl, rfl, rfl, rfl, rfl, rfl, rfl⟩,
      fun lowNs ha hl => congrArg Host.Outcome.next (if_pos (by simp [ha, hl])), fun lowNs h => congrArg Host.Outcome.next (if_neg ?_), rfl,
      fun who key cold => ?_, fun r mv ha => congrArg Host.Outcome.next (if_neg (by rw [ha]; decide)),
      fun r mv ha => congrArg Host.Outcome.next (if_pos (by rw [ha]; decide)), fun i q hk h3 => ?_,
      fun i q hk h3 => congrArg Host.Outcome.next ((if_neg (by rw [hk]; decide)).trans (if_pos h3)),
      fun i q hk => congrArg Host.Outcome.next (if_pos hk), fun hk ht => ?_, fun h => ?_⟩
    · obtain h | h := h
      · simp [h]
      · simp [Nat.not_le.2 h]
    · intro v rule t
      exact ⟨fun h => ⟨resetRule_key (rule_of_writeOk h), congrArg Host.Outcome.next (glbReset_accepted h)⟩,
        fun h => congrArg Host.Outcome.next (writeWith_refused h)⟩
    · intro t
      refine ⟨fun h1 h2 => (execTempSample_runs hk h3).trans (congrArg Host.Outcome.next (if_pos ?_)),
        fun h => (execTempSample_runs hk h3).trans (congrArg Host.Outcome.next (if_neg ?_))⟩
      · rw [Bool.and_eq_true, sensorOk_iff, decide_eq_true_eq]
        omega
      · rw [Bool.and_eq_true, sensorOk_iff, decide_eq_true_eq]
        omega
    · exact congrArg Host.Outcome.next (if_pos (cooled_iff.2 ⟨hk, ht⟩))
    · refine congrArg Host.Outcome.next (if_neg (mt cooled_iff.1 fun ⟨hk, ht⟩ => ?_))
      obtain h | ⟨i, hi, hle⟩ := h
      · exact absurd hk (by rw [h]; decide)
      · exact absurd (ht i hi) (Int.not_lt.2 hle)

end Sys2Proof.Machine
end

section
/-! PROOFS. The loss of VBAT (R410), the alarms (R409) and the read of the time base (R408). -/

namespace Sys2Proof.Machine

variable {s t : State} {k : Nat}

/-! A key that no entry lists. -/

theorem Tbl.get_unlisted {α : Type} {d : Nat → α} {l : List (Nat × α)} (h : ∀ e ∈ l, e.1 ≠ k) : Tbl.get d l k = d k := by
  induction l with
  | nil => rfl
  | cons e l ih =>
    obtain ⟨j, v⟩ := e
    have hj : k ≠ j := (h (j, v) (List.mem_cons_self ..)).symm
    rw [Tbl.get, if_neg hj, ih fun e he => h e (List.mem_cons_of_mem _ he), ite_self]

/-! The loss of the backup domain. -/

theorem reg_foldl_setReg (f : Nat → Word) {l : List Nat} (h : Tbl.wf regReset s.regs = true) (j : Nat) :
    (l.foldl (fun t k => t.setReg k (f k)) s).reg j = if j ∈ l then f j else s.reg j := by
  induction l generalizing s with
  | nil => rfl
  | cons k l ih =>
    rw [List.foldl_cons, ih (s := s.setReg k (f k)) (Tbl.wf_set _ _ h)]
    by_cases hj : j ∈ l
    · rw [if_pos hj, if_pos (List.mem_cons_of_mem _ hj)]
    · rw [if_neg hj]
      by_cases hk : j = k
      · subst hk
        rw [State.reg_setReg_same h, if_pos (List.mem_cons_self ..)]
      · rw [State.reg_setReg_other h _ hk, if_neg (by simp [hk, hj])]

theorem reg_overRegs_reset (h : Tbl.wf regReset s.regs = true) (f : Nat → Bool) (j : Nat) :
    (s.overRegs f fun k _ => regReset k).reg j = if f j = true then regReset j else s.reg j := by
  refine (reg_foldl_setReg regReset h j).trans ?_
  by_cases hf : f j = true
  · rw [if_pos hf]
    by_cases hj : j ∈ s.regs.map (·.1)
    · exact if_pos (List.mem_filter.2 ⟨hj, hf⟩)
    · rw [if_neg fun hm => hj (List.mem_filter.1 hm).1]
      exact Tbl.get_unlisted fun e he hk => hj (List.mem_map.2 ⟨e, he, hk⟩)
  · rw [if_neg hf, if_neg fun hm => hf (List.mem_filter.1 hm).2]

/-! An alarm that fires. -/

/-- The alarm has fired and is no longer armed. -/
def State.alarmSpent (s : State) (k : Nat) : State :=
  { s with boot := { s.boot with armed := s.boot.armed.filter (· != k), alarmAt := NatTbl.put s.boot.alarmAt k (s.alarmTime k) } }

/-- The alarm's latch in GLB_ALARM_CTRL, and its mark of a firing on VBAT. -/
def alarmLatch (k : Nat) : Fld := ⟨GLB_ALARM_CTRL.off, 4, 8 + k, 8 + k⟩
def alarmOnVbat (k : Nat) : Fld := ⟨GLB_ALARM_CTRL.off, 4, 12 + k, 12 + k⟩

theorem fireAlarm_waits (h : s.boot.armed.contains k = false ∨ s.now < s.alarmTime k) : s.fireAlarm k = s := by
  refine if_pos ?_
  obtain h | h := h <;> simp only [h, Bool.not_false, decide_true, Bool.true_or, Bool.or_true]

theorem fireAlarm_due (ha : s.boot.armed.contains k = true) (ht : s.alarmTime k ≤ s.now) : s.fireAlarm k =
    if s.boot.awake = true then ((s.alarmSpent k).hwField (glbPage 4) (alarmLatch k) 1).raise (glbPage 4) k
    else
      let u := ((s.alarmSpent k).wr (glbPage 4) (alarmLatch k) 1).wr (glbPage 4) (alarmOnVbat k) 1
      { u with boot := { u.boot with firedOff := (u.boot.firedOff.filter fun (e : Nat × Nat) => e.1 != k) ++ [(k, s.alarmTime k)] } } := by
  have hn : ¬ (!s.boot.armed.contains k || decide (s.now < s.alarmTime k)) = true := by
    rw [ha, decide_eq_false (Nat.not_lt.2 ht)]
    decide
  unfold State.fireAlarm
  rw [if_neg hn]
  rfl

/-- Both marks of an alarm that fired on VBAT stand. -/
theorem rd_alarm_marks (h : Tbl.wf regReset s.regs = true) (hk : k < 2) :
    let u := (s.wr (glbPage 4) (alarmLatch k) 1).wr (glbPage 4) (alarmOnVbat k) 1
    u.rd (glbPage 4) (alarmLatch k) = 1 ∧ u.rd (glbPage 4) (alarmOnVbat k) = 1 := by
  have hw : Tbl.wf regReset (s.wr (glbPage 4) (alarmLatch k) 1).regs = true := State.regs_wf_wr h ..
  have hone : 1 % 2 ^ (12 + k + 1 - (12 + k)) = 1 ∧ 1 % 2 ^ (8 + k + 1 - (8 + k)) = 1 := by
    rw [Nat.add_sub_cancel_left, Nat.add_sub_cancel_left]
    decide
  refine ⟨?_, (State.rd_wr_same hw _ _ (Nat.le_refl _) (by simp only [alarmOnVbat]; omega) 1 0).trans hone.1⟩
  rw [State.rd_wr_field hw _ (alarmOnVbat k) (alarmLatch k) (Nat.le_refl _) (by simp only [alarmOnVbat]; omega)
    (.inl (by simp only [alarmOnVbat, alarmLatch]; omega)) 1 0 0 rfl]
  exact (State.rd_wr_same h _ _ (Nat.le_refl _) (by simp only [alarmLatch]; omega) 1 0).trans hone.2

/-! The read of the time base. -/

theorem mod_two_pow_split (n : Nat) : n / 2 ^ 32 % 2 ^ 32 * 2 ^ 32 + n % 2 ^ 32 = n % 2 ^ 64 := by omega

theorem rd_timeBase (h : Tbl.wf regReset s.regs = true) (n : Nat) :
    let t := (s.wr (glbPage 4) GLB_TB_LO_ns_lo (n % 2 ^ 32)).wr (glbPage 4) GLB_TB_HI_ns_hi (n / 2 ^ 32 % 2 ^ 32)
    t.rd (glbPage 4) GLB_TB_HI_ns_hi * 2 ^ 32 + t.rd (glbPage 4) GLB_TB_LO_ns_lo = n % 2 ^ 64 := by
  have hw : Tbl.wf regReset (s.wr (glbPage 4) GLB_TB_LO_ns_lo (n % 2 ^ 32)).regs = true := State.regs_wf_wr h ..
  have hi := State.rd_wr_same hw (glbPage 4) GLB_TB_HI_ns_hi (by decide) (by decide) (n / 2 ^ 32 % 2 ^ 32) 0
  have lo := (State.rd_wr_other hw (glbPage 4) (glbPage 4) GLB_TB_HI_ns_hi GLB_TB_LO_ns_lo (n / 2 ^ 32 % 2 ^ 32) 0 0
    (fkey_ne_of_offset_ne (by decide))).trans (State.rd_wr_same h (glbPage 4) GLB_TB_LO_ns_lo (by decide) (by decide) (n % 2 ^ 32) 0)
  intro t
  rw [show t.rd (glbPage 4) GLB_TB_HI_ns_hi = _ from hi, show t.rd (glbPage 4) GLB_TB_LO_ns_lo = _ from lo]
  refine Eq.trans ?_ (mod_two_pow_split n)
  rw [show GLB_TB_HI_ns_hi.hi + 1 - GLB_TB_HI_ns_hi.lo = 32 from rfl, show GLB_TB_LO_ns_lo.hi + 1 - GLB_TB_LO_ns_lo.lo = 32 from rfl, Nat.mod_mod, Nat.mod_mod]

theorem execTimeBaseRead_shown {who : Actor} (hh : who.val = 32 ∨ s.hostHeard = true) (ho : s.owns who.val (glbPage 4) = true) :
    execTimeBaseRead who s = .next { (s.wr (glbPage 4) GLB_TB_LO_ns_lo (s.now % 2 ^ 32)).wr (glbPage 4) GLB_TB_HI_ns_hi (s.now / 2 ^ 32 % 2 ^ 32)
      with resp := ⟨false, leBytes 4 (s.now % 2 ^ 32)⟩ } := by
  have hn : ¬ (decide (who.val < 32) && !s.hostHeard) = true := by
    obtain h | h := hh <;> simp [h]
  exact congrArg Host.Outcome.next ((if_neg hn).trans (if_neg (by rw [ho]; decide)))

theorem actor_lt {who : Actor} (h : who.val ≠ 32) : who.val < 32 := Nat.lt_of_le_of_ne (Nat.le_of_lt_succ who.isLt) h

/-- Settles O55: the loss of VBAT resets exactly the backup registers; an alarm fires by `fireAlarm`; a read of the time base writes
the two words it shows. -/
theorem timeBaseAndAlarms : Obligations.TimeBaseAndAlarms := by
  unfold Obligations.TimeBaseAndAlarms
  intro who k s hc p
  have hw := (keeps_of_canonical hc).regs
  refine ⟨fun h => congrArg Host.Outcome.next (if_pos h), fun h => ?_, fun ha ht => ?_, fun h => congrArg Host.Outcome.next (fireAlarm_waits h),
    fun bits firing => ?_, fun bits firing => ?_, fun hh ho => ?_, fun h32 hh ho => ?_, fun h32 hh => ?_⟩
  · refine ⟨_, congrArg Host.Outcome.next (if_neg (by rw [h]; decide)), rfl, rfl, rfl, rfl, rfl, fun j hj => ?_, fun j hj => ?_⟩
    · exact (reg_overRegs_reset hw backupKey j).trans (if_pos hj)
    · exact (reg_overRegs_reset hw backupKey j).trans (if_neg (by rw [hj]; decide))
  · intro rest t latch
    have he : exec (.alarmFire k) s = .next (s.fireAlarm k.val) := rfl
    rw [he, fireAlarm_due ha ht]
    refine ⟨fun h => congrArg Host.Outcome.next (if_pos h), fun h => ⟨_, congrArg Host.Outcome.next (if_neg (by rw [h]; decide)), ?_, ?_, ?_, rfl⟩⟩
    · exact (rd_alarm_marks (s := s.alarmSpent k.val) hw k.isLt).1
    · exact (rd_alarm_marks (s := s.alarmSpent k.val) hw k.isLt).2
    · exact List.mem_append_right _ (List.mem_singleton.2 rfl)
  · intro v j h
    exact congrArg (fun u => Host.Outcome.next ((bitsOf firing.toNat 2).foldl State.fireAlarm u)) (writeWith_refused h)
  · intro v h t u w0 w
    exact congrArg (fun u => Host.Outcome.next ((bitsOf firing.toNat 2).foldl State.fireAlarm u)) (writeWith_logged h)
  · exact ⟨execTimeBaseRead_shown hh ho, rd_timeBase hw s.now⟩
  · have hlt := actor_lt h32
    refine congrArg Host.Outcome.next ((if_neg (by simp [hh])).trans ((if_pos (by rw [ho]; decide)).trans ?_))
    rw [if_pos hlt]
  · exact congrArg Host.Outcome.next (if_pos (by simp [hh, actor_lt h32]))

end Sys2Proof.Machine
end

section
/-! PROOFS. Touch: banks, scans, slots, holds and calibration loads (R337 to R346). -/

namespace Sys2Proof.Machine

variable {s t : State} {b : Nat}

/-! A bank's control register. -/

theorem touchEnable_accepted {who : Nat} {v : Word}
    (h : s.writeOk who (tchPage b) TCH_B_CTRL.off v false (s.tchRule b TCH_B_CTRL.off) = true) :
    s.tchWrite who b TCH_B_CTRL.off v 15 =
      (let t := s.log who (s.writeRec who (tchPage b) TCH_B_CTRL.off v)
      let u := t.store (tchPage b) TCH_B_CTRL.off v
      if t.rd (tchPage b) TCH_B_CTRL_en = u.rd (tchPage b) TCH_B_CTRL_en then u
      else if t.rd (tchPage b) TCH_B_CTRL_en = 0 then u.startBank b
      else (u.wr (tchPage b) TCH_B_STATUS_scanning 0).setTch b { u.tch b with scanAt := none, slot := 0, reports := [], loading := false }) := by
  unfold State.tchWrite
  dsimp only
  rw [writeWith_logged h]
  exact if_pos rfl

/-! Scans and their slots. -/

theorem scanDue_iff : s.scanDue b = true ↔
    s.now % (1000 * if (s.tch b).period = 0 then s.rd (tchPage b) TCH_B_SCAN_period_us else (s.tch b).period) = 0 ∧ (s.tch b).ran ≠ s.now + 1 := by
  simp only [State.scanDue, Bool.and_eq_true, beq_iff_eq, bne_iff_ne, ne_eq]

/-- The injected overrun of a bank's slots is used and reported. -/
def State.overrun (t : State) (p : Nat) : State :=
  if (t.useInject p 3).2.isSome then (t.useInject p 3).1.fault p 3 else (t.useInject p 3).1

/-- The slot of a scan that has begun: the sixth listens, the fifth converts the reference, an earlier one its eight channels. -/
theorem execTouchSlot_scanning {b : Fin 4} {counts : List Nat} {noise : Nat × Nat} (h : (s.tch b.val).scanAt ≠ none) :
    execTouchSlot b counts noise s = .next
      (let t := s.setTch b.val { s.tch b.val with slot := (s.tch b.val).slot + 1 }
      let bad := (t.useInject (tchPage b.val) 3).2.isSome
      let u := t.overrun (tchPage b.val)
      if (s.tch b.val).slot = 5 then (t.listen b.val noise).scanEnd b.val
      else (if (s.tch b.val).slot = 4 then u.convertRef b.val (counts.getD 0 0) bad
        else (List.range 8).foldl (fun (t : State) i =>
          if t.rd (tchPage b.val) TCH_B_CH_CFG_en (8 * (s.tch b.val).slot + i) = 1 then t.convert b.val (8 * (s.tch b.val).slot + i) (counts.getD i 0) bad
          else t) u).syncRange b.val) := by
  refine congrArg Host.Outcome.next ((if_neg ?_).trans rfl)
  rw [Option.isNone_iff_eq_none]
  exact h

/-! Times. -/

theorem execTouchRecalEnd_none {b : Fin 4} {c : Fin 32} (h : (s.chan b.val c.val).recalUntil = none) : execTouchRecalEnd b c s = .next s := by
  unfold execTouchRecalEnd
  dsimp only
  rw [h]

theorem execTouchRecalEnd_some {b : Fin 4} {c : Fin 32} {t : Nat} (h : (s.chan b.val c.val).recalUntil = some t) :
    execTouchRecalEnd b c s = .next (if s.now < t then s else
      (s.setChan b.val c.val { s.chan b.val c.val with recalUntil := none }).wr (tchPage b.val) TCH_B_CH_STATE_recal 0 c.val) := by
  unfold execTouchRecalEnd
  dsimp only
  rw [h]

/-! A calibration load. -/

/-- What a calibration load's next reads give. -/
def State.calRun (s : State) (b : Nat) : State × List Byte × LongRead :=
  s.readLong ((s.unitActor (tchPage b)).getD 32) 4 (s.calAt b).1 (s.calAt b).2 132 (linesAfter (s.calAt b).2 132 (s.tch b).calGot.length)

theorem execCalLoadDone_loading {b : Fin 4} {u : State} {bs : List Byte} {ok : LongRead} (h : (s.tch b.val).loading = true)
    (hr : s.calRun b.val = (u, bs, ok)) : execCalLoadDone b s = .next
    (if ok = .waits then u.setTch b.val { u.tch b.val with calGot := (s.tch b.val).calGot ++ bs }
    else (u.setTch b.val { u.tch b.val with loading := false, calGot := [] }).calTaken b.val
      (if ok = .done then some ((s.tch b.val).calGot ++ bs) else none)) := by
  unfold State.calRun at hr
  rw [execCalLoadDone, if_neg (by rw [h]; decide)]
  extract_lets a had
  change s.readLong _ 4 a.1 a.2 132 (linesAfter a.2 132 had.length) = _ at hr
  rw [hr]

/-- Settles O56: each command goes by its condition; a slot by its number, a load by the outcome of its reads. -/
theorem touchBanks : Obligations.TouchBanks := by
  unfold Obligations.TouchBanks
  intro who b s p v en
  refine ⟨fun h => ?_, ?_, fun counts noise hv => ?_, fun counts noise hv => ?_, fun c => ?_, fun g => ?_, fun hl => ?_, fun hl => ?_⟩
  · intro t u
    have he : exec (.touchBankEnable who b) s = _ := congrArg Host.Outcome.next (touchEnable_accepted h)
    rw [he]
    exact ⟨fun h0 h1 => congrArg Host.Outcome.next
        ((if_neg (show ¬ t.rd p TCH_B_CTRL_en = u.rd p TCH_B_CTRL_en by rw [h0, h1]; decide)).trans (if_pos h0)),
      fun h0 => congrArg Host.Outcome.next (if_pos h0)⟩
  · intro live set us due
    refine ⟨fun hen hl hs hd => congrArg Host.Outcome.next (if_neg ?_), fun h => congrArg Host.Outcome.next (if_pos ?_)⟩
    · have hdue : s.scanDue b.val = true := scanDue_iff.2 hd
      change ¬ (s.rd p TCH_B_CTRL_en = 0 ∨ v.loading = true ∨ v.scanAt.isSome = true ∨ (!s.scanDue b.val) = true)
      simp [hen, hl, hs, hdue]
    · change s.rd p TCH_B_CTRL_en = 0 ∨ v.loading = true ∨ v.scanAt.isSome = true ∨ (!s.scanDue b.val) = true
      refine h.imp_right (Or.imp_right (Or.imp (fun h => Option.isSome_iff_ne_none.2 h) fun h => ?_))
      rw [Bool.not_eq_true', ← Bool.not_eq_true, scanDue_iff]
      exact h
  · intro t bad u
    have he : exec (.touchSlot b counts noise) s = _ := execTouchSlot_scanning hv
    rw [he]
    exact ⟨fun h => congrArg Host.Outcome.next (if_pos h),
      fun h => congrArg Host.Outcome.next ((if_neg (show v.slot ≠ 5 by omega)).trans (congrArg (State.syncRange · b.val) (if_pos h))),
      fun h => congrArg Host.Outcome.next
        ((if_neg (show v.slot ≠ 5 by omega)).trans (congrArg (State.syncRange · b.val) (if_neg (show v.slot ≠ 4 by omega))))⟩
  · exact congrArg Host.Outcome.next (if_pos (Option.isNone_iff_eq_none.2 hv))
  · intro x due
    refine ⟨fun ht hd => congrArg Host.Outcome.next (if_neg fun h => h.elim ht (Nat.not_lt.2 hd)), fun h => congrArg Host.Outcome.next (if_pos h),
      fun t hx ht => (execTouchRecalEnd_some hx).trans (congrArg Host.Outcome.next (if_neg (Nat.not_lt.2 ht))), fun h => ?_⟩
    cases hx : x.recalUntil with
    | none => exact execTouchRecalEnd_none hx
    | some t => exact (execTouchRecalEnd_some hx).trans (congrArg Host.Outcome.next (if_pos (h t hx)))
  · intro x
    exact ⟨fun ht hm => congrArg Host.Outcome.next ((if_pos ht).trans (congrArg (s.setGrp b.val g.val) (if_pos hm))),
      fun ht hm => congrArg Host.Outcome.next ((if_pos ht).trans (congrArg (s.setGrp b.val g.val) (if_neg (Nat.not_le.2 hm)))),
      fun ht => congrArg Host.Outcome.next (if_neg (by rw [ht]; decide))⟩
  · intro a r bs t
    have hr : s.calRun b.val = r := rfl
    clear_value r
    obtain ⟨u, got, ok⟩ := r
    have he : exec (.calLoadDone b) s = _ := execCalLoadDone_loading hl hr
    rw [he]
    refine ⟨?_, ?_, ?_⟩ <;> rintro (rfl : ok = _) <;> rfl
  · exact congrArg Host.Outcome.next (if_pos (by rw [hl]; decide))

end Sys2Proof.Machine
end

section
/-! PROOFS. Haptics: the enable, the coil check, the trip and its clear (R352, R354). -/

namespace Sys2Proof.Machine

variable {s t : State} {h : Nat}

/-! A written bit. -/

theorem fieldWrite_bit (p : Nat) {f : Fld} (hf : f.lo = f.hi) (hh : f.hi < 32) : (s.fieldWrite p f 0 1).getLsbD f.lo = true := by
  have hput : ∀ w, (f.put w 1).getLsbD f.lo = true := fun w => by
    rw [Fld.put_bit f (Nat.le_of_eq hf) hh w 1 f.lo (hf ▸ hh), if_pos ⟨Nat.le_refl _, Nat.le_of_eq hf⟩, Nat.sub_self]
    decide
  unfold State.fieldWrite
  split
  · exact hput _
  · exact hput _

/-! The enable. -/

theorem hapticEnable_starts {who : Nat} {v : Word} (hw : s.writeOk who (hapPage h) HAP_CTRL.off v false (s.hapRule h HAP_CTRL.off 0) = true) :
    let p := hapPage h
    let t := s.log who (s.writeRec who p HAP_CTRL.off v)
    let u := t.store p HAP_CTRL.off v
    let w := u.setHap h { u.hap h with freq := u.rd p HAP_RES_f_min * 1000, barred := false, parked := false }
    let w := w.wr p HAP_STATUS_res_hz (w.rd p HAP_RES_f_min)
    t.rd p HAP_CTRL_src = u.rd p HAP_CTRL_src → t.rd p HAP_CTRL_en = 0 → u.rd p HAP_CTRL_en = 1 →
      s.hapWrite who h HAP_CTRL.off v 15 0 = if w.rd p HAP_TRIP_latched = 1 then w.setHapState h 5 else w.coilCheck h := by
  intro p t u w0 w hsrc h0 h1
  unfold State.hapWrite
  dsimp only
  rw [writeWith_logged hw]
  refine (if_neg (by decide)).trans ?_
  change (let x := if t.rd p HAP_CTRL_src = u.rd p HAP_CTRL_src then u else u.srcChanged h; _) = _
  rw [if_pos hsrc]
  exact (if_neg (by rw [h0, h1]; decide)).trans (if_neg (by rw [h1]; decide))

/-! The coil check. -/

theorem execCoilCheckDone_waits {h : Fin 8} {milliohm : Nat} (hs : s.hapState h.val ≠ 1 ∨ s.now < (s.hap h.val).checkAt + 1000000) :
    execCoilCheckDone h milliohm s = .next s := congrArg Host.Outcome.next (if_pos hs)

/-- The check's result, with the coil's drive off. -/
def State.coilShown (s : State) (h milliohm : Nat) : State :=
  let t := s.wr (hapPage h) HAP_COIL_r_mohm (min milliohm 0xFFFFF)
  t.setHap h { t.hap h with bridge := false, c := 0, cmd := 0, barred := (s.hap h).barred || (100000 < milliohm || milliohm < 500) }

theorem barred_coilShown (hc : s.canonical = true) (h milliohm : Nat) :
    ((s.coilShown h milliohm).hap h).barred = ((s.hap h).barred || (100000 < milliohm || milliohm < 500)) :=
  congrArg HapS.barred (State.hap_setHap_same (s := s.wr (hapPage h) HAP_COIL_r_mohm (min milliohm 0xFFFFF)) (keeps_of_canonical hc).haps h _)

theorem execCoilCheckDone_shows {h : Fin 8} {milliohm : Nat} (hs : s.hapState h.val = 1) (hd : (s.hap h.val).checkAt + 1000000 ≤ s.now) :
    execCoilCheckDone h milliohm s = .next
      (let p := hapPage h.val
      let on := s.rd p HAP_CTRL_en == 1
      let t := s.coilShown h.val milliohm
      if 100000 < milliohm then ((t.wr p HAP_COIL_result 2).hapHalt h.val (if on then 5 else 0)).fault p 1
      else if milliohm < 500 then ((t.wr p HAP_COIL_result 3).hapHalt h.val (if on then 5 else 0)).fault p 2
      else if !on then (t.wr p HAP_COIL_result 1).hapHalt h.val 0
      else if t.level (16 * p + 4) || (t.hap h.val).barred then (t.wr p HAP_COIL_result 1).hapHalt h.val 5
      else ((t.wr p HAP_COIL_result 1).setHapState h.val 2).hapDecide h.val) :=
  congrArg Host.Outcome.next (if_neg (not_or.2 ⟨not_not.2 hs, Nat.not_lt.2 hd⟩))

/-! The clear of the trip. -/

theorem tripClear_high {h highNs : Nat} {v : Word} (hv : v.getLsbD 31 = true) (hr : s.hapRule h HAP_TRIP.off highNs v = .ok) : 10000 ≤ highNs := by
  unfold State.hapRule at hr
  dsimp only at hr
  split at hr
  · cases hr
  · rw [if_neg (by decide), if_neg (by decide), if_pos rfl, hv, Bool.true_and] at hr
    by_contra hlt
    rw [decide_eq_true (Nat.not_le.1 hlt)] at hr
    cases hr

theorem tripClear_accepted {who highNs : Nat} {v : Word} (hv : v.getLsbD 31 = true)
    (hw : s.writeOk who (hapPage h) HAP_TRIP.off v false (s.hapRule h HAP_TRIP.off highNs) = true) :
    s.hapWrite who h HAP_TRIP.off v 15 highNs =
      (((s.log who (s.writeRec who (hapPage h) HAP_TRIP.off v)).wr (hapPage h) HAP_TRIP_latched 0).setLevel (hapPage h) 0 false).coilCheck h := by
  unfold State.hapWrite
  dsimp only
  rw [writeWith_logged hw, if_pos rfl, if_neg (by rw [hv]; decide)]

theorem hapWrite_refused {who off highNs : Nat} {v : Word} (hw : s.writeOk who (hapPage h) off v false (s.hapRule h off highNs) = false) :
    s.hapWrite who h off v 15 highNs = s.turnAway who (hapPage h) off (s.judge who (hapPage h) off v 15 false (s.hapRule h off highNs)).2
      (s.judge who (hapPage h) off v 15 false (s.hapRule h off highNs)).1 := by
  unfold State.hapWrite
  exact writeWith_refused hw

/-- The pin as the clear finds it: a pin that has been high so long rose then. -/
def State.pinRose (s : State) (h highNs : Nat) : State :=
  let x := s.wr (hapPage h) HAP_TRIP_pin 0
  if highNs = 0 then s else x.setHap h { x.hap h with rose := s.now - highNs }

theorem execHapTripClear_write {who : Actor} {h : Fin 8} {highNs : Nat} : execHapTripClear who h highNs s = .next
    ((s.pinRose h.val highNs).hapWrite who.val h.val HAP_TRIP.off ((s.pinRose h.val highNs).fieldWrite (hapPage h.val) HAP_TRIP_clr 0 1) 15
      (if highNs = 0 then s.pinHigh h.val else highNs)) := by
  by_cases h0 : highNs = 0
  · subst h0
    rfl
  · unfold State.pinRose
    rw [if_neg h0, if_neg h0, execHapTripClear, if_neg h0, if_neg h0]
    rfl

/-- Settles O57: the enable and the clear by the writes' effects, the coil check by its result in the model's order. -/
theorem hapticCoilAndTrip : Obligations.HapticCoilAndTrip := by
  unfold Obligations.HapticCoilAndTrip
  intro who h s hc p v on due en
  refine ⟨fun hw => ?_, fun milliohm hs hd => ?_, fun milliohm hs => execCoilCheckDone_waits hs, ?_, fun highNs => ?_⟩
  · intro t u w0 w hsrc h0 h1
    exact congrArg Host.Outcome.next (hapticEnable_starts hw hsrc h0 h1)
  · intro bad t0 t u
    have he : exec (.coilCheckDone h milliohm) s = _ := execCoilCheckDone_shows hs hd
    rw [he]
    refine ⟨fun hhi => congrArg Host.Outcome.next (if_pos hhi), fun hlo => congrArg Host.Outcome.next ((if_neg (by omega)).trans (if_pos hlo)),
      fun hlo hhi => ?_⟩
    have hin : ∀ {a b c : State}, (if 100000 < milliohm then a else if milliohm < 500 then b else c) = c := fun {a b c} =>
      (if_neg (Nat.not_lt.2 hhi)).trans (if_neg (Nat.not_lt.2 hlo))
    have hbar : ((s.coilShown h.val milliohm).hap h.val).barred = v.barred := by
      rw [barred_coilShown hc, decide_eq_false (Nat.not_lt.2 hhi), decide_eq_false (Nat.not_lt.2 hlo), Bool.or_false, Bool.or_false]
    refine ⟨fun hon => congrArg Host.Outcome.next (hin.trans (if_pos ?_)), fun hon hb => congrArg Host.Outcome.next (hin.trans ((if_neg ?_).trans (if_pos ?_))),
      fun hon hl hb => congrArg Host.Outcome.next (hin.trans ((if_neg ?_).trans (if_neg ?_)))⟩
    · rw [show (s.rd (hapPage h.val) HAP_CTRL_en == 1) = false from hon]; rfl
    · rw [show (s.rd (hapPage h.val) HAP_CTRL_en == 1) = true from hon]; decide
    · rw [Bool.or_eq_true, hbar]
      exact hb
    · rw [show (s.rd (hapPage h.val) HAP_CTRL_en == 1) = true from hon]; decide
    · rw [Bool.or_eq_true, hbar, hb, show (s.coilShown h.val milliohm).level (16 * hapPage h.val + 4) = false from hl]
      decide
  · intro t u
    exact ⟨fun hl => congrArg Host.Outcome.next (if_pos hl), fun hl => congrArg Host.Outcome.next (if_neg hl)⟩
  · intro x t high clr rule
    have hclr : clr.getLsbD 31 = true := fieldWrite_bit p (f := HAP_TRIP_clr) rfl (by decide)
    have he : exec (.hapTripClear who h highNs) s = .next (t.hapWrite who.val h.val HAP_TRIP.off clr 15 high) := execHapTripClear_write
    rw [he]
    exact ⟨fun hw => congrArg Host.Outcome.next (hapWrite_refused hw),
      fun hw => ⟨tripClear_high hclr (rule_of_writeOk hw), congrArg Host.Outcome.next (tripClear_accepted hclr hw)⟩⟩

end Sys2Proof.Machine
end

section
/-! PROOFS. Haptic queues, effects, PWM periods and accelerometers (R355 to R359). -/

namespace Sys2Proof.Machine

variable {s t : State} {a q op : Nat} {eff : List Byte → State → State}

/-! An entry of a haptic queue. -/

/-- What an entry that plays, or one that stops, does on its channel. -/
def hapticEffect (play : Bool) (b : List Byte) (t : State) : State :=
  if play then t.hapAsk (field b 2 1) ⟨false, field b 3 1, field b 4 2, field b 6 2, field b 8 1⟩
  else if t.hapState (field b 2 1) = 3 then t.hapEnd (field b 2 1) else t

theorem exec_haptic (a : Acct) (q : Fin 256) (play : Bool) (s : State) :
    exec (if play then .hapticPlay a q else .hapticStop a q) s =
      .next (s.hapEntry a.val q.val (if play then 1 else 2) (hapticEffect play)) := by
  cases play <;> rfl

/-- A haptic queue of a granted account has an entry waiting. -/
def State.hapQueued (s : State) (a q : Nat) : Prop := s.qWaiting a q = true ∧ s.qType a q = qHaptic ∧ s.astate a = 3

theorem hapQueued_iff : ¬ (!s.qWaiting a q || s.qType a q != qHaptic || s.astate a != 3) = true ↔ s.hapQueued a q := by
  simp [State.hapQueued, and_assoc]

theorem hapEntry_none (h : ¬ s.hapQueued a q) : s.hapEntry a q op eff = s := if_pos (not_not.1 (mt hapQueued_iff.1 h))

theorem hapEntry_held (h : s.hapQueued a q) (hw : s.headWaits a q = true) : s.hapEntry a q op eff = s.holdUnit a none .other :=
  (if_neg (hapQueued_iff.2 h)).trans (if_pos hw)

section
variable (h : s.hapQueued a q) (hw : s.headWaits a q = false)
include h hw

theorem hapEntry_error {x : MemErr} (hr : s.headEntry a q 4 = (t, .error x)) : s.hapEntry a q op eff = t.queueStop a q := by
  rw [State.hapEntry, if_neg (hapQueued_iff.2 h), if_neg (by rw [hw]; decide), hr]

theorem hapEntry_ok {e : List Byte} (hr : s.headEntry a q 4 = (t, .ok e)) : s.hapEntry a q op eff =
    if t.hapEntryOk a e = false then t.queueStop a q
    else if field e 0 1 ≠ op then t
    else if (t.takeEntry a q).deviceSafe = true then (t.takeEntry a q).hapDiscard (field e 2 1) 1 else eff e (t.takeEntry a q) := by
  rw [State.hapEntry, if_neg (hapQueued_iff.2 h), if_neg (by rw [hw]; decide), hr]
  cases ho : t.hapEntryOk a e <;> simp only [ho, Bool.not_false, Bool.not_true, if_true, Bool.false_eq_true, if_false, reduceCtorEq]

end

/-! A load of an effect. -/

theorem execEffectLoad_none {h : Fin 8} (hl : (s.hap h.val).loading = none) : execEffectLoad h s = .next s := by
  rw [execEffectLoad, hl]

section
variable {h : Fin 8} {r : HapReq} (hl : (s.hap h.val).loading = some r)
include hl

theorem execEffectLoad_bad (hx : (s.setHap h.val { s.hap h.val with loading := none }).effectSegs h.val r.effect = (t, none)) :
    execEffectLoad h s = .next (t.fault (hapPage h.val) 5) := by
  rw [execEffectLoad, hl]
  dsimp only
  rw [hx]

theorem execEffectLoad_good {segs : List Nat}
    (hx : (s.setHap h.val { s.hap h.val with loading := none }).effectSegs h.val r.effect = (t, some segs)) :
    execEffectLoad h s = .next (t.setHap h.val { t.hap h.val with ready := some (r, segs) }) := by
  rw [execEffectLoad, hl]
  dsimp only
  rw [hx]

end

/-! PWM periods and the accelerometer. -/

theorem mem_idle {n : Nat} : (n = 1 ∨ n = 5 ∨ n = 0) ↔ n ∈ [0, 1, 5] := by
  simp only [List.mem_cons, List.not_mem_nil, or_false]
  omega

theorem execAccelSample_on {h : Fin 8} {sample : BitVec 16} (hon : s.spiOn h.val = true) : execAccelSample h sample s = .next
    (let m := sample.toInt.natAbs
    if s.rd (hapPage h.val) HAP_ACC_range < m then s.accLost h.val
    else s.setHap h.val { s.hap h.val with accGood := min 160 ((s.hap h.val).accGood + 1), accValid := (s.hap h.val).accValid || min 160 ((s.hap h.val).accGood + 1) == 160, accAt := s.now, peak := max (s.hap h.val).peak m }) :=
  congrArg Host.Outcome.next (if_neg (by rw [hon]; decide))

/-- Settles O58: an entry goes by its read and its order, an effect by its load, a period by the channel's state. -/
theorem hapticChannels : Obligations.HapticChannels := by
  unfold Obligations.HapticChannels
  intro h s p v
  refine ⟨fun a q play hwait hty hst hw => ?_, fun a q play => ?_, fun r hl => ?_, fun hl => execEffectLoad_none hl, fun cur emf => ?_,
    fun sample hon => ?_, fun sample hoff => congrArg Host.Outcome.next (if_pos (by rw [hoff]; decide)),
    fun ht => congrArg Host.Outcome.next (if_neg (Nat.not_lt.2 ht)), fun ht => congrArg Host.Outcome.next (if_pos ht)⟩
  · intro cmd r
    have he : exec cmd s = _ := exec_haptic a q play s
    have hq : s.hapQueued a.val q.val := ⟨hwait, hty, hst⟩
    have hr : s.headEntry a.val q.val 4 = r := rfl
    clear_value r
    obtain ⟨t, x⟩ := r
    rw [he]
    refine ⟨fun x' (hx : x = _) => ?_, fun e (hx : x = _) hbad => ?_, fun e (hx : x = _) hok hop => ?_, fun e (hx : x = _) hok hop => ?_⟩ <;>
      rw [hx] at hr
    · rw [hapEntry_error hq hw hr]
    · rw [hapEntry_ok hq hw hr, if_pos hbad]
    · rw [hapEntry_ok hq hw hr, if_neg (by rw [hok]; decide), if_pos hop]
    · rw [hapEntry_ok hq hw hr, if_neg (by rw [hok]; decide), if_neg (not_not.2 hop)]
      rfl
  · intro cmd here
    have he : exec cmd s = _ := exec_haptic a q play s
    rw [he]
    exact ⟨fun hn => congrArg Host.Outcome.next (hapEntry_none hn), fun hh hw => congrArg Host.Outcome.next (hapEntry_held hh hw)⟩
  · intro t x
    have hx : t.effectSegs h.val r.effect = x := rfl
    clear_value x
    obtain ⟨u, y⟩ := x
    exact ⟨fun (h0 : y = none) => execEffectLoad_bad hl (h0 ▸ hx), fun segs (h0 : y = some segs) => execEffectLoad_good hl (h0 ▸ hx)⟩
  · intro t
    exact ⟨fun hm => congrArg (fun u : State => Host.Outcome.next (u.hapDrive h.val)) (if_pos (mem_idle.2 hm)),
      fun hm => congrArg (fun u : State => Host.Outcome.next (u.hapDrive h.val)) (if_neg (mt mem_idle.1 hm))⟩
  · intro m n
    have he : exec (.accelSample h sample) s = _ := execAccelSample_on hon
    rw [he]
    exact ⟨fun hm => congrArg Host.Outcome.next (if_neg (Nat.not_lt.2 hm)), fun hm => congrArg Host.Outcome.next (if_pos hm)⟩

end Sys2Proof.Machine
end

section
/-! PROOFS. Audio: the statement of an AUDIO_SAMPLE leaves out the DRAM streams' buffers, which it fills (R232). -/

namespace Sys2Proof.Machine

variable {s : State}

/-! What a sample leaves before the buffers are filled. -/

/-- A sample up to the streams' frames: the part of `audioSample` before `fillBuffer`. -/
def State.sampled (s : State) (ins : List AudioIn) : State :=
  let t := s.swapColumns
  let r := (t.streamsOn.foldl (fun (t : State) e => t.readyFrame e.1 e.2.1) t).rowSamples ins
  let u := ((r.1.chimeIn r.2).muteSafe).gainsAt r.2
  let u := (u.colsOn.foldl (fun (t : State) c => t.column r.2 c) u).deliverSinks
  u.takeFrames t.mTicks t.streamsOn

theorem audioSample_eq (s : State) (ins : List AudioIn) : s.audioSample ins =
    ((s.sampled ins).fillBuffer.audioReport).setAudio fun a => { a with samples := a.samples + 1 } := rfl

theorem syncPorts_audio (s : State) : s.syncPorts.audio = s.audio := by
  unfold State.syncPorts
  dsimp only
  split <;> rfl

theorem audioReport_audio (s : State) : s.audioReport.audio = s.audio := by
  unfold State.audioReport
  dsimp only
  split
  · exact syncPorts_audio _
  · exact syncPorts_audio _

/-- The report and the count of samples leave what the streams have read ahead. -/
theorem ahead_report (s : State) (k : Nat) : ((s.audioReport.setAudio fun a => { a with samples := a.samples + 1 }).stream k).ahead = (s.stream k).ahead := by
  change (Tbl.get (fun _ => StreamS.zero) s.audioReport.audio.streams k).ahead = _
  rw [audioReport_audio]
  rfl

/-! The counterexample. -/

/-- A1 active, its queue 0 an audio output queue in its own region of the DRAM with three entries posted; row 0, A1's, plays the queue and
has the first entry, of four frames, in hand. -/
def playing : State :=
  let fields : List (Nat × Fld × Nat) := [(accPage 1 0, ACC_STATE_state, 3), (qPage 1 0, ACC_Q_CTRL_type, qAudioOut), (qPage 1 0, ACC_Q_CTRL_log2size, 4),
    (qPage 1 0, ACC_Q_CTRL_en, 1), (accPage 1 6, ACC_Q_TAIL, 3), (memPage 0, MEM_STATUS_state, 2), (cusPage 1, ⟨0x84, 8, 23, 0⟩, 16),
    (rowPage 0, AUD_ROW_SRC_en, 1), (rowPage 0, AUD_ROW_SRC_kind, 2)]
  let t := fields.foldl (fun (t : State) e => t.wr e.1 e.2.1 e.2.2) ((State.reset.setRegion 1 0 0 16 0).setOwner (rowPage 0) 1)
  t.setAudio fun a => { a with streams := [(256, { StreamS.zero with entry := [0, 0, 0, 4] })] }

theorem playing_not_filled : ((playing.sampled []).stream 256).ahead = [] := by decide +kernel

theorem playing_filled : ((playing.sampled []).fillBuffer.stream 256).ahead ≠ [] := by decide +kernel

/-- Refutes O59: in `playing` the sample reads the two entries behind the one in hand ahead into the stream's buffer, while the
statement's next state, which has every other part of the sample, has none there. -/
theorem not_audioMatrix : ¬ Obligations.AudioMatrix := by
  unfold Obligations.AudioMatrix
  intro h
  have he := Host.Outcome.next.inj ((h 32 playing).1 [])
  have ha := congrArg (fun t : State => (t.stream 256).ahead) he
  exact playing_filled ((ahead_report ..).symm.trans (ha.trans ((ahead_report (playing.sampled []) 256).trans playing_not_filled)))

end Sys2Proof.Machine
end

section
/-! PROOFS. The WM-4410 personality: layer writes (R384 to R388), interrupt and error status (R389 to R393). -/

namespace Sys2Proof.Machine

variable {s : State} {who a k j p off : Nat} {value : Word}

/-! The path of a write through the window. -/

theorem viaWindow_carried {rule : Word → Rule} {go : State → State} (h : s.writeOk who p off value false rule = true) :
    s.viaWindow who a p off value 15 rule go = go s := by
  unfold State.viaWindow
  rw [judge_of_writeOk h]

/-- An initiator that may write registers: the Custodian, or one whose host port is heard. -/
theorem heard_of (h : who = 32 ∨ s.hostHeard = true) : ¬ (decide (who < 32) && !s.hostHeard) = true := by
  obtain h | h := h <;> simp [h]

/-- The initiator owns the page of the window, whose account is in the personality. -/
def State.legPath (s : State) (who a off : Nat) : Prop := s.owns who (legPage a (off / 4096)) = true ∧ (s.acct a).legacy = true

theorem legPath_iff : ¬ (!s.owns who (legPage a (off / 4096)) || !(s.acct a).legacy) = true ↔ s.legPath who a off := by
  simp [State.legPath]

theorem legWrite_unheard (h32 : who < 32) (hh : s.hostHeard = false) : s.legWrite who a off value 15 = s := if_pos (by simp [h32, hh])

theorem legWrite_foreign (hh : who = 32 ∨ s.hostHeard = true) (h : ¬ s.legPath who a off) :
    s.legWrite who a off value 15 = s.turnAway who (legPage a (off / 4096)) (off % 4096) value .foreign :=
  (if_neg (heard_of hh)).trans (if_pos (not_not.1 (mt legPath_iff.1 h)))

section
variable (hh : who = 32 ∨ s.hostHeard = true) (h : s.legPath who a off)
include hh h

theorem legWrite_missing (hr : s.legReg a off = .missing) :
    s.legWrite who a off value 15 = s.turnAway who (legPage a (off / 4096)) (off % 4096) value .range := by
  rw [State.legWrite, if_neg (heard_of hh), if_neg (legPath_iff.2 h), hr]

theorem legWrite_readOnly (hr : s.legReg a off = .readOnly) : s.legWrite who a off value 15 = s := by
  rw [State.legWrite, if_neg (heard_of hh), if_neg (legPath_iff.2 h), hr]

theorem legWrite_intEnable (hr : s.legReg a off = .intEnable) : s.legWrite who a off value 15 = s.legEnable who a value 15 := by
  rw [State.legWrite, if_neg (heard_of hh), if_neg (legPath_iff.2 h), hr]

theorem legWrite_layer {o : Nat} (hr : s.legReg a off = .layer k j p o) : s.legWrite who a off value 15 = s.legLayerSet who a k j p o value 15 := by
  rw [State.legWrite, if_neg (heard_of hh), if_neg (legPath_iff.2 h), hr]

end

/-- The rule of a layer write: the layer's own, then that of the personality (R385, R386). -/
def State.layerRule (s : State) (who a k j p off : Nat) (v : Word) : Rule :=
  match s.escrowRule who p off with
  | .ok => Rule.of (s.narrowLayer a k j off v && s.legAdmits a p off v)
  | r => r

theorem legLayerSet_accepted (h : s.writeOk who p off value false (s.layerRule who a k j p off) = true) :
    s.legLayerSet who a k j p off value 15 =
      (s.log who [s.recOf who 1 0 (regKey p off) (s.reg (regKey p off)) (s.produced p off value)]).legApply p off value := by
  have hset : s.legLayerSet who a k j p off value 15 = s.viaWindow who a p off value 15 (s.layerRule who a k j p off) fun t =>
      t.writeWith who p off value 15 false (s.layerRule who a k j p off)
        (fun v => [t.recOf who 1 0 (regKey p off) (t.reg (regKey p off)) (t.produced p off v)]) fun v u => u.legApply p off v := rfl
  rw [hset, viaWindow_carried h]
  exact writeWith_single h

/-! The status registers. -/

theorem execLegErrClear_none {a : Acct} (h : NatTbl.at_ s.errOwed a.val = 0 ∨ s.cusUp = false) : execLegErrClear a s = .next s := by
  refine congrArg Host.Outcome.next (if_pos ?_)
  obtain h | h := h <;> simp [h]

/-- Settles O60: a write by the verdict of the window and the kind of its register; a read, and the clear it leaves owed, by its
condition. -/
theorem personality : Obligations.Personality := by
  unfold Obligations.Personality
  intro who a s old err
  refine ⟨fun off value k j p o hown hh hleg hr => ?_, fun off value hh => ?_, fun off value h32 hh => ?_, fun arriving hleg => ?_, fun hleg => ?_,
    fun hleg => ?_, ?_⟩
  · intro rule
    have he : exec (.legLayerWrite who a off value) s = .next (s.legLayerSet who.val a.val k j p o value 15) :=
      congrArg Host.Outcome.next (legWrite_layer hh ⟨hown, hleg⟩ hr)
    exact ⟨he, fun hw => he.trans (congrArg Host.Outcome.next (legLayerSet_accepted hw))⟩
  · intro w page path
    exact ⟨fun hp => congrArg Host.Outcome.next (legWrite_foreign hh hp), fun hp hr => congrArg Host.Outcome.next (legWrite_missing hh hp hr),
      fun hp hr => congrArg Host.Outcome.next (legWrite_readOnly hh hp hr), fun hp hr => congrArg Host.Outcome.next (legWrite_intEnable hh hp hr)⟩
  · exact congrArg Host.Outcome.next (legWrite_unheard (actor_lt h32) hh)
  · have hn : ¬ (!(s.acct a.val).legacy) = true := by rw [hleg]; decide
    exact ⟨fun h => congrArg Host.Outcome.next ((if_neg hn).trans (if_pos h)), fun h => congrArg Host.Outcome.next ((if_neg hn).trans (if_neg h))⟩
  · exact congrArg Host.Outcome.next (if_neg (by rw [hleg]; decide))
  · exact ⟨congrArg Host.Outcome.next (if_pos (by rw [hleg]; decide)), fun arriving => congrArg Host.Outcome.next (if_pos (by rw [hleg]; decide))⟩
  · intro owed
    refine ⟨execLegErrClear_none, fun ho hu => congrArg Host.Outcome.next (if_neg ?_)⟩
    rw [Bool.or_eq_true, decide_eq_true_eq, hu]
    exact fun h => h.elim ho (by decide)

end Sys2Proof.Machine
end
